-- ==== Sys2Proof/Word.lean ====
section
/-!
DEFINITION. The word type and the keyed maps of plain data that registers and memories are held in (assumption log 2).
-/
namespace Sys2Proof

/-- One byte. -/
abbrev Byte := BitVec 8
/-- One 64-bit register or address. -/
abbrev Word := BitVec 64

/-- A finite map from numbers to values with a default that is never listed: keys strictly rise, and no entry holds
the default, so equal maps are equal lists (assumption log 2). `Host.Cell` lists are `KMap Byte`. -/
abbrev KMap (α : Type) := List (Nat × α)

/-- The value at key `k`; `d` where nothing is listed. -/
def KMap.get {α : Type} (d : α) : KMap α → Nat → α
  | [], _ => d
  | (j, v) :: t, k => if k = j then v else if k < j then d else KMap.get d t k

/-- Write `v` at key `k`, keeping the canonical form. -/
def KMap.set {α : Type} [DecidableEq α] (d : α) : KMap α → Nat → α → KMap α
  | [], k, v => if v = d then [] else [(k, v)]
  | (j, w) :: t, k, v =>
    if k < j then (if v = d then (j, w) :: t else (k, v) :: (j, w) :: t)
    else if k = j then
      let r := t.dropWhile (fun p => decide (p.1 ≤ k))
      if v = d then r else (k, v) :: r
    else (j, w) :: KMap.set d t k v

/-- The canonical form: keys strictly rising and no entry equal to the default. -/
def KMap.wf {α : Type} [DecidableEq α] (d : α) : KMap α → Bool
  | [] => true
  | (j, v) :: t => decide (v ≠ d) && t.all (fun p => decide (j < p.1)) && KMap.wf d t

/-- Apply `f` to the value at key `k`. -/
def KMap.upd {α : Type} [DecidableEq α] (d : α) (m : KMap α) (k : Nat) (f : α → α) : KMap α :=
  KMap.set d m k (f (KMap.get d m k))

/-- Remove the entries whose key lies from `lo` to `lo + n - 1`. -/
def KMap.clear {α : Type} (m : KMap α) (lo n : Nat) : KMap α :=
  m.filter (fun p => decide (p.1 < lo) || decide (lo + n ≤ p.1))

end Sys2Proof
end

