-- ==== Sys2Proof/Config.lean ====
section
/-!
DEFINITION. What the spec leaves to the implementation or names without defining: free values and uninterpreted functions.
None of them has a body, so no proof can rest on a value of one (assumption logs 9 and 10).
-/
namespace Sys2Proof.Config

/-- Free byte `i` of an opaque context section (R321): its layout is not the keeper's to read (log 9). -/
opaque sectionByte : Nat → Nat → Byte
/-- Free byte `i` of a result tile that a failed plan had not finished (R84: undefined values) (log 9). -/
opaque tileByte : Nat → Nat → Byte
/-- The descriptor a handle names after a keeper store to the shard table's memory (R191: undefined) (log 9). -/
opaque shardDescriptor : Nat → Nat → BitVec 512
/-- Which free choice number `n` takes where the spec permits two outcomes (log 9). -/
opaque choice : Nat → Bool
/-- Free number `n`: a hash or a drawn value that the spec names and does not give (log 9). -/
opaque freeNat : Nat → Nat

/-- The CXL root port behind which a tier frame lies: root firmware programs the decoders (R97) (log 9). -/
opaque cxlPort : Nat → Nat

/-- The hash of the issuing core and page index that selects a port of a route set (R46) (log 10). -/
opaque routeHash : Nat → Nat → Nat
/-- Key material drawn by a security controller (R127) (log 10). -/
opaque freshKey : Nat → BitVec 256
/-- ECDHE P-384 shared session key of (own exchange, partner's public point) (R124) (log 10). -/
opaque ecdheKey : Nat → BitVec 768 → BitVec 256
/-- The digest of a firmware image as the loader measures it, and whether its signature verifies (R113, R119) (log 10). -/
opaque imageSigned : List Byte → Bool
/-- The security version of a firmware image (R119) (log 10). -/
opaque imageVersion : List Byte → Nat

/-- The image of attestation register `i` in a firmware bundle (R113, R123): the bundle's format is not given (log 10). -/
opaque bundlePart : List Byte → Nat → List Byte
/-- What the boot ROM measures as fuse and retirement state, of retired cores, rows spared of each stack and disabled ports (R123) (log 10). -/
opaque fuseImage : List Nat → List (Nat × Nat) → List Nat → List Byte
/-- The certificate chain of the device identity key, and a signature by that key, which comes of a fused secret (R124) (log 10). -/
opaque certChain : List Byte
opaque identitySign : List Byte → BitVec 768
/-- The public point of this controller's ECDHE exchange `n` (R124) (log 10). -/
opaque ecdhePoint : Nat → BitVec 768
/-- The 4 KiB frames of a row of an HBM stack (R121): the layout of rows is not given (log 9). -/
opaque rowFrames : Nat → Nat → List Nat
/-- The entry address of KVQ, which gate 0x0002 gives (R297) (log 9). -/
opaque kvqEntry : BitVec 64
/-- The 112 payload bytes of the flit that carries message number `n`: no encoding of a message is given (R38) (log 18). -/
opaque flitPayload : Nat → BitVec 896
/-- Which of a peer's ports carried the request of a peer and tag, so that its response returns there (R46) (log 18). -/
opaque requestPort : Nat → Nat → Nat
/-- Which of the ports that a plan reserved for a peer its traffic takes: of (partition, handle, peer) (R46) (log 18). -/
opaque planPort : Nat → Nat → Nat → Nat
/-- The serial number of this package (R43) (log 9). -/
opaque serial : Nat
/-- Spare rows in the pool of an HBM stack (R121): their number is not given (log 9). -/
opaque spareRows : Nat → Nat
/-- GiB of CXL memory attached, at most 3 TiB (R97) (log 9). -/
opaque cxlGiB : Nat

end Sys2Proof.Config
end

