-- ==== Sys2Proof/Machine/Crypto.lean ====
section
/-!
DEFINITION. The published functions that the spec names: CRC-64 of ECMA-182 (R39), AES-256-GCM (R40), SHA-384 (R123), HKDF-SHA-384 (R129) and
ECDSA P-384 verification (R124, R130). The standards fix them (log 10); bit strings are lists of bytes, first byte first.
-/
namespace Sys2Proof.Machine

/-! ### CRC-64 (ECMA-182) -/

/-- One byte into a CRC-64, most significant bit first. -/
def crc64Byte (c : BitVec 64) (b : Byte) : BitVec 64 :=
  (List.range 8).foldl (fun c _ => if c.getLsbD 63 then (c <<< 1) ^^^ 0x42F0E1EBA9EA3693 else c <<< 1) (c ^^^ (b.zeroExtend 64 <<< 56))
/-- CRC-64 of a byte string, from a register of zero. -/
def crc64Bytes (l : List Byte) : BitVec 64 := l.foldl crc64Byte 0

/-! ### SHA-384 (FIPS 180-4) -/

/-- The largest `x` below 2 ^ `k` whose `e`-th power is at most `n`. -/
def rootBelow (e n : Nat) : Nat → Nat → Nat
  | 0, x => x
  | k + 1, x => rootBelow e n k (if (x + 2 ^ k) ^ e ≤ n then x + 2 ^ k else x)
/-- The first 80 primes. -/
def shaPrimes : List Nat := (List.range 410).filter (fun n => decide (2 ≤ n) && (List.range 21).all (fun d => d < 2 || n ≤ d || n % d != 0))
/-- The round constants: the first 64 bits of the fractional parts of the primes' cube roots. -/
def shaK : List (BitVec 64) := shaPrimes.map (fun p => BitVec.ofNat 64 (rootBelow 3 (p * 2 ^ 192) 70 0))
/-- The initial hash value: the same of the square roots of the ninth to sixteenth primes. -/
def shaH0 : List (BitVec 64) := ((shaPrimes.drop 8).take 8).map (fun p => BitVec.ofNat 64 (rootBelow 2 (p * 2 ^ 128) 72 0))
/-- A big-endian number of bytes, and the bytes of one. -/
def beVal (l : List Byte) : Nat := l.foldl (fun a b => 256 * a + b.toNat) 0
def beBytes (n v : Nat) : List Byte := ((List.range n).map (fun j => BitVec.ofNat 8 (v / 256 ^ j))).reverse
/-- The message schedule of a block: 80 words, each new one at the front. -/
def shaSchedule : Nat → List (BitVec 64) → List (BitVec 64)
  | 0, w => w.reverse
  | n + 1, w =>
    let at' (j : Nat) : BitVec 64 := w.getD (j - 1) 0
    let s0 := (at' 15).rotateRight 1 ^^^ (at' 15).rotateRight 8 ^^^ (at' 15 >>> 7)
    let s1 := (at' 2).rotateRight 19 ^^^ (at' 2).rotateRight 61 ^^^ (at' 2 >>> 6)
    shaSchedule n ((s1 + at' 7 + s0 + at' 16) :: w)
/-- One round on the eight working variables. -/
def shaRound (v : List (BitVec 64)) (kw : BitVec 64 × BitVec 64) : List (BitVec 64) :=
  match v with
  | [a, b, c, d, e, f, g, h] =>
    let t1 := h + (e.rotateRight 14 ^^^ e.rotateRight 18 ^^^ e.rotateRight 41) + ((e &&& f) ^^^ (~~~e &&& g)) + kw.1 + kw.2
    let t2 := (a.rotateRight 28 ^^^ a.rotateRight 34 ^^^ a.rotateRight 39) + ((a &&& b) ^^^ (a &&& c) ^^^ (b &&& c))
    [t1 + t2, a, b, c, d + t1, e, f, g]
  | v => v
/-- One block of 128 bytes. -/
def shaBlock (h : List (BitVec 64)) (m : List Byte) : List (BitVec 64) :=
  let w := shaSchedule 64 ((List.range 16).map (fun j => BitVec.ofNat 64 (beVal ((m.drop (8 * j)).take 8)))).reverse
  (h.zip ((shaK.zip w).foldl shaRound h)).map (fun p => p.1 + p.2)
/-- The padded message. -/
def shaPad (m : List Byte) : List Byte :=
  m ++ [0x80] ++ List.replicate ((239 - m.length % 128) % 128) 0 ++ beBytes 16 (8 * m.length)
/-- Blocks of `k` bytes: `n` of them. -/
def blocksOf (k n : Nat) (m : List Byte) : List (List Byte) := (List.range n).map (fun j => (m.drop (k * j)).take k)
/-- SHA-384. -/
def sha384Bytes (m : List Byte) : List Byte :=
  let p := shaPad m
  (((blocksOf 128 (p.length / 128) p).foldl shaBlock shaH0).take 6).flatMap (fun w => beBytes 8 w.toNat)
/-- SHA-384 as a number, first byte most significant. -/
def sha384 (m : List Byte) : BitVec 384 := BitVec.ofNat 384 (beVal (sha384Bytes m))

/-! ### HMAC and HKDF (RFC 2104, RFC 5869) -/

/-- HMAC-SHA-384. -/
def hmac384 (key m : List Byte) : List Byte :=
  let k := if 128 < key.length then sha384Bytes key else key
  let k := k ++ List.replicate (128 - k.length) 0
  sha384Bytes (k.map (fun b => b ^^^ 0x5C) ++ sha384Bytes (k.map (fun b => b ^^^ 0x36) ++ m))
/-- HKDF-SHA-384 of a 256-bit key with no salt and an info string: 256 bits. -/
def hkdf384 (key : BitVec 256) (info : List Byte) : BitVec 256 :=
  BitVec.ofNat 256 (beVal ((hmac384 (hmac384 (List.replicate 48 0) (beBytes 32 key.toNat)) (info ++ [1])).take 32))

/-! ### AES-256 (FIPS 197) -/

/-- Multiplication by x, and multiplication, in GF(2 ^ 8). -/
def gfDouble (a : Byte) : Byte := if a.getLsbD 7 then (a <<< 1) ^^^ 0x1B else a <<< 1
def gfMul (a b : Byte) : Byte :=
  ((List.range 8).foldl (fun (x : Byte × Byte) j => (gfDouble x.1, if b.getLsbD j then x.2 ^^^ x.1 else x.2)) (a, 0)).2
/-- The S-box: the inverse, then the affine map. -/
def sBox (a : Byte) : Byte :=
  let i := (List.range 253).foldl (fun x _ => gfMul x a) a
  i ^^^ i.rotateLeft 1 ^^^ i.rotateLeft 2 ^^^ i.rotateLeft 3 ^^^ i.rotateLeft 4 ^^^ 0x63
def sBoxTable : List Byte := (List.range 256).map (fun a => sBox (BitVec.ofNat 8 a))
def subByte (a : Byte) : Byte := sBoxTable.getD a.toNat 0
/-- The key schedule: words of four bytes, each new one at the front; `n` of them more, `i` so far. -/
def aesSchedule : Nat → Nat → List (List Byte) → List (List Byte)
  | 0, _, w => w.reverse
  | n + 1, i, w =>
    let t := w.headD []
    let t := if i % 8 = 0 then
        ((t.drop 1 ++ t.take 1).map subByte).zipWith (· ^^^ ·) [(List.range (i / 8 - 1)).foldl (fun x _ => gfDouble x) 1, 0, 0, 0]
      else if i % 8 = 4 then t.map subByte else t
    aesSchedule n (i + 1) (t.zipWith (· ^^^ ·) (w.getD 7 []) :: w)
/-- The 15 round keys of 16 bytes. -/
def aesKeys (k : BitVec 256) : List (List Byte) := blocksOf 16 15 (aesSchedule 52 8 (blocksOf 4 8 (beBytes 32 k.toNat)).reverse).flatten
/-- Rows of the state shifted: byte `j` comes from column j / 4 + row. -/
def aesShift (s : List Byte) : List Byte := (List.range 16).map (fun j => s.getD ((j + 4 * (j % 4)) % 16) 0)
/-- A column mixed. -/
def aesMix (s : List Byte) : List Byte :=
  (List.range 16).map (fun j =>
    let x (r : Nat) : Byte := s.getD (j / 4 * 4 + (j + r) % 4) 0
    gfDouble (x 0) ^^^ (gfDouble (x 1) ^^^ x 1) ^^^ x 2 ^^^ x 3)
/-- AES-256 of one block of 16 bytes. -/
def aesBlock (keys : List (List Byte)) (m : List Byte) : List Byte :=
  let add (s k : List Byte) := s.zipWith (· ^^^ ·) k
  let s := (List.range 13).foldl (fun s r => add (aesMix (aesShift (s.map subByte))) (keys.getD (r + 1) [])) (add m (keys.getD 0 []))
  add (aesShift (s.map subByte)) (keys.getD 14 [])

/-! ### GCM (SP 800-38D) -/

/-- Multiplication in GF(2 ^ 128), with bit 127 the coefficient of 1. -/
def ghashMul (x y : BitVec 128) : BitVec 128 :=
  ((List.range 128).foldl (fun (z : BitVec 128 × BitVec 128) j =>
    (if x.getLsbD (127 - j) then z.1 ^^^ z.2 else z.1,
      if z.2.getLsbD 0 then (z.2 >>> 1) ^^^ 0xE1000000000000000000000000000000 else z.2 >>> 1)) (0, y)).1
/-- GHASH of a byte string of whole blocks. -/
def ghash (h : BitVec 128) (m : List Byte) : BitVec 128 :=
  (blocksOf 16 (m.length / 16) m).foldl (fun y b => ghashMul (y ^^^ BitVec.ofNat 128 (beVal b)) h) 0
/-- Zero bytes up to whole blocks. -/
def padBlock (m : List Byte) : List Byte := m ++ List.replicate ((16 - m.length % 16) % 16) 0
/-- The payload under a key and a 96-bit IV: enciphering and deciphering alike. -/
def gcmCipher (key : BitVec 256) (iv : BitVec 96) (m : List Byte) : List Byte :=
  let keys := aesKeys key
  ((List.range ((m.length + 15) / 16)).flatMap (fun j => aesBlock keys (beBytes 12 iv.toNat ++ beBytes 4 (j + 2)))).zipWith (· ^^^ ·) m
/-- The leftmost 64 bits of the tag of a ciphertext with additional data `aad`. -/
def gcmTag (key : BitVec 256) (iv : BitVec 96) (aad c : List Byte) : BitVec 64 :=
  let keys := aesKeys key
  let h := BitVec.ofNat 128 (beVal (aesBlock keys (List.replicate 16 0)))
  let s := ghash h (padBlock aad ++ padBlock c ++ beBytes 8 (8 * aad.length) ++ beBytes 8 (8 * c.length))
  BitVec.ofNat 64 ((s.toNat ^^^ beVal (aesBlock keys (beBytes 12 iv.toNat ++ [0, 0, 0, 1]))) / 2 ^ 64)

/-! ### ECDSA over P-384 (FIPS 186) -/

def p384P : Nat := 2 ^ 384 - 2 ^ 128 - 2 ^ 96 + 2 ^ 32 - 1
def p384N : Nat := 0xFFFFFFFFFFFFFFFFFFFFFFFFFFFFFFFFFFFFFFFFFFFFFFFFC7634D81F4372DDF581A0DB248B0A77AECEC196ACCC52973
def p384B : Nat := 0xB3312FA7E23EE7E4988E056BE3F82D19181D9C6EFE8141120314088F5013875AC656398D8A2ED19D2A85C8EDD3EC2AEF
def p384G : Nat × Nat :=
  (0xAA87CA22BE8B05378EB1C71EF320AD746E1D3B628BA79B9859F741E082542A385502F25DBF55296C3A545E3872760AB7,
   0x3617DE4A96262C6F5D9E98BF9292DC29F8F41DBD289A147CE9DA3113B5F0B8C00A60B1CE1D7E819D7A431D7C90EA0E5F)
/-- A power modulo `m`, over the lowest `k` bits of the exponent. -/
def powMod (m b e : Nat) (k : Nat) : Nat :=
  ((List.range k).foldl (fun (x : Nat × Nat) j => (x.1 * x.1 % m, if e.testBit j then x.2 * x.1 % m else x.2)) (b % m, 1)).2
/-- The inverse modulo a prime of at most 384 bits. -/
def invMod (m a : Nat) : Nat := powMod m a (m - 2) 384
def p384Mulm (a b : Nat) : Nat := a * b % p384P
def p384Sub (a b : Nat) : Nat := (a + p384P - b) % p384P
/-- A point of the curve in Jacobian coordinates: (x/z², y/z³), the point at infinity where z is 0. -/
structure P384 where
  x : Nat
  y : Nat
  z : Nat
def P384.double (a : P384) : P384 :=
  let yy := p384Mulm a.y a.y
  let zz := p384Mulm a.z a.z
  let s := p384Mulm 4 (p384Mulm a.x yy)
  let m := p384Mulm 3 (p384Mulm (p384Sub a.x zz) (a.x + zz))
  let x := p384Sub (p384Mulm m m) (2 * s % p384P)
  ⟨x, p384Sub (p384Mulm m (p384Sub s x)) (p384Mulm 8 (p384Mulm yy yy)), p384Mulm 2 (p384Mulm a.y a.z)⟩
def P384.add (a b : P384) : P384 :=
  if a.z = 0 then b
  else if b.z = 0 then a
  else
    let az := p384Mulm a.z a.z
    let bz := p384Mulm b.z b.z
    let u := p384Mulm a.x bz
    let h := p384Sub (p384Mulm b.x az) u
    let s := p384Mulm a.y (p384Mulm b.z bz)
    let r := p384Sub (p384Mulm b.y (p384Mulm a.z az)) s
    if h = 0 then (if r = 0 then a.double else ⟨1, 1, 0⟩)
    else
      let hh := p384Mulm h h
      let hu := p384Mulm u hh
      let hhh := p384Mulm h hh
      let x := p384Sub (p384Sub (p384Mulm r r) hhh) (2 * hu % p384P)
      ⟨x, p384Sub (p384Mulm r (p384Sub hu x)) (p384Mulm s hhh), p384Mulm h (p384Mulm a.z b.z)⟩
/-- A multiple of a point. -/
def P384.mul (k : Nat) (a : P384) : P384 :=
  ((List.range 384).foldl (fun (x : P384 × P384) j => (x.1.double, if k.testBit j then x.2.add x.1 else x.2)) (a, ⟨1, 1, 0⟩)).2
/-- ECDSA P-384 verification of (public point x ‖ y, message digest, signature r ‖ s). -/
def ecdsaVerify (q : BitVec 768) (e : BitVec 384) (sig : BitVec 768) : Bool :=
  let x := q.toNat / 2 ^ 384
  let y := q.toNat % 2 ^ 384
  let r := sig.toNat / 2 ^ 384
  let s := sig.toNat % 2 ^ 384
  let w := invMod p384N s
  decide (x < p384P) && decide (y < p384P) && (y * y % p384P == (x * x * x + (p384P - 3) * x + p384B) % p384P) &&
  decide (1 ≤ r) && decide (r < p384N) && decide (1 ≤ s) && decide (s < p384N) &&
  let a := (P384.mul (e.toNat * w % p384N) ⟨p384G.1, p384G.2, 1⟩).add (P384.mul (r * w % p384N) ⟨x, y, 1⟩)
  a.z != 0 && p384Mulm a.x (invMod p384P (p384Mulm a.z a.z)) % p384N == r

end Sys2Proof.Machine
end

