-- ==== Sys2Proof/Syntax.lean ====
section
/-!
DEFINITION. The syntax: one constructor of `Instr` per row of spec/opcode_table.json, instruction words first, then the
events of the machine's other agents (which have no encoding; their arguments are what the agent or the outside supplies).
-/
namespace Sys2Proof

/-- A 6-bit register field (R324); in a sheaf it names `h0`-`h15` wherever a reeve form names `g` (R334). -/
abbrev Reg := BitVec 6

/-- The type codes of R341. -/
inductive Ty where
  | i8 | i16 | i32 | i64 | n8 | n16 | n32 | n64 | f64 | f32 | f16 | bf16 | e4m3 | e5m2 | i4 | i3 | e8w16 | e8w32 | zs8
  deriving DecidableEq, Repr

/-- The conditions of BC and SETC (R325, R346). -/
inductive Cond where
  | eq | ne | lt | ge | ltn | gen
  deriving DecidableEq, Repr

/-- The conditions of FCMP and `vfcmp` (R349, R388). -/
inductive FCond where
  | eq | ne | lt | le | un
  deriving DecidableEq, Repr

/-- The conditions of `vcmp` (R388). -/
inductive VCond where
  | eq | ne | lt | le | gt | ge
  deriving DecidableEq, Repr

/-- Rounding modes (R351). -/
inductive Rm where
  | rne | rtz | rdn | rup | rna
  deriving DecidableEq, Repr

/-- Overflow qualifiers of conversions (R351). -/
inductive Ovf where
  | none | sat | nan
  deriving DecidableEq, Repr

/-- Atomic operations (R355). -/
inductive AmoOp where
  | swap | add | and | or | xor | min | max | fadd | fmin | fmax
  deriving DecidableEq, Repr

/-- Scope, acknowledgement and order fields of the memory class (R326). -/
structure MemQ where
  scope : BitVec 3
  ack : BitVec 2
  ord : BitVec 2
  deriving DecidableEq, Repr

/-- The operands of a two-source element-wise instruction: d, a, b, mask, type field and the scalar form bit (R376). -/
structure V3 where
  d : Reg
  a : Reg
  b : Reg
  q : BitVec 4
  ty : Ty
  sc : Bool
  deriving DecidableEq, Repr

/-- The operands of a one-source vector instruction. -/
structure V2 where
  d : Reg
  a : Reg
  q : BitVec 4
  ty : Ty
  deriving DecidableEq, Repr

/-- The ten register-register ALU operations of a D slot (R330). -/
inductive SlotAlu where
  | add | sub | and | or | xor | shl | shr | sra | min | max
  deriving DecidableEq, Repr

/-- The vector operations of a D slot (R330). -/
inductive SlotVec where
  | vadd | vsub | vmul | vfadd | vfmul
  deriving DecidableEq, Repr

/-- The branch conditions of a D slot (R330). -/
inductive SlotCond where
  | eq | ne | lt | ge
  deriving DecidableEq, Repr

/-- One slot of a D word (R329, R330). -/
inductive Slot where
  | alu (op : SlotAlu) (d a b : Reg)
  | addI13 (d a : Reg) (imm : BitVec 13)
  | li13 (d : Reg) (imm : BitVec 13)
  | ldD (d a : Reg) (imm : BitVec 13)
  | stD (d a : Reg) (imm : BitVec 13)
  | ldW (d a : Reg) (imm : BitVec 13)
  | stW (d a : Reg) (imm : BitVec 13)
  | vec (op : SlotVec) (d a b : Reg)
  | vmv (d a : Reg)
  | nop
  | br (c : SlotCond) (d a : Reg) (imm : BitVec 13)
  deriving DecidableEq, Repr

/-- The operand fields of an MMA word (R427, R428). -/
structure MmaArgs where
  d : Reg
  a : Reg
  b : Reg
  c : Reg
  kx : BitVec 10
  pair : BitVec 5
  sn : BitVec 3
  sm : BitVec 3
  tl : BitVec 4
  deriving DecidableEq, Repr

/-- The operand fields of an MDRN word (R427, R431). -/
structure MdrnArgs where
  d : Reg
  a : Reg
  b : Reg
  c : Reg
  fmt : BitVec 3
  sn : BitVec 3
  sm : BitVec 3
  tl : BitVec 4
  deriving DecidableEq, Repr

/-- What a peer asks of this package as home (R57), with the atomic kinds of R69 and the image merge
of R280, which names the 65 lines of the image. -/
inductive PeerOp where
  | load (n : Nat)
  | store (data : List Byte)
  | amo (op : AmoOp) (t : Ty) (operand : Word)
  | cas (t : Ty) (expected new : Word)
  | merge (image : List Byte) (lines : List Nat)
  deriving DecidableEq, Repr

/-- A request that arrives over Thouruth (or from the package itself, R55): requesting peer and partition, a tag that
the answer carries, the home physical address, and the operation. -/
structure PeerReq where
  peer : Nat
  part : Nat
  tag : Nat
  addr : Nat
  op : PeerOp
  deriving DecidableEq, Repr

/-- How an answer from a peer ended (R70, R34): data, refused, unreachable, or poisoned data at the home. -/
inductive ReplyStatus where
  | ok | refused | unreachable | poison
  deriving DecidableEq, Repr

/-- A sharded request as it reaches an owner (R194): requester, tag, handle, the requester's generation, and the list of
(element index, linear index, data to store). -/
structure ShardReq where
  peer : Nat
  part : Nat
  tag : Nat
  handle : Nat
  gen : BitVec 16
  write : Bool
  items : List (Nat × Nat × List Byte)
  deriving DecidableEq, Repr

/-- A confirm record as it arrives from a link partner (R43): serial, port, peer number, width and speed codes, lane map nibbles,
and for each loaded key slot the counter of the oldest flit to come. -/
structure ConfirmRec where
  serial : Nat
  port : Nat
  peer : Nat
  width : BitVec 2
  speed : BitVec 2
  lanes : BitVec 16
  counters : List (Nat × Nat)
  deriving DecidableEq, Repr

/-- A partition of a peer package. -/
structure PeerPart where
  peer : Nat
  part : Nat
  deriving DecidableEq, Repr

/-- A tile of a plan, by the plan's PLANID (R77, R82). -/
structure PlanTile where
  planId : BitVec 32
  tile : Nat
  deriving DecidableEq, Repr

/-- What a member sends with its signature: the key slots free on its package, and whether it has reserved what the plan needs (R78, R129). -/
structure MemberOffer where
  slots : BitVec 256
  reserved : Bool
  deriving DecidableEq, Repr

/-- A request for a measurement (R124): the session partner that asks, and the index of the register. -/
structure MeasureReq where
  partner : Nat
  index : Nat
  deriving DecidableEq, Repr

/-- What the controllers of an enclave's members tell this one (R127): measurement blocks by peer, and the key that member entry 0 sends. -/
structure EnclaveNews where
  blocks : List (Nat × List (BitVec 384))
  key : BitVec 256
  deriving DecidableEq, Repr

/-- A revocation record as it comes (R131): the partition whose host hands it in, or the controller that forwards it, and its bytes. -/
structure RevocationMsg where
  p : Nat
  via : Option Nat
  data : List Byte
  deriving DecidableEq, Repr

/-- Who writes a host-visible register (R98, R99): the host, a keeper or root firmware. -/
inductive Writer where
  | host | keeper | root
  deriving DecidableEq, Repr

/-- The instructions and events: one constructor per row of spec/opcode_table.json. -/
inductive Instr where
  -- integer, register forms (R345)
  | add (d a b : Reg) | sub (d a b : Reg) | mul (d a b : Reg) | mulh (d a b : Reg) | mulhn (d a b : Reg)
  | div (d a b : Reg) | divn (d a b : Reg) | rem (d a b : Reg) | remn (d a b : Reg)
  | and (d a b : Reg) | or (d a b : Reg) | xor (d a b : Reg) | andn (d a b : Reg)
  | shl (d a b : Reg) | shr (d a b : Reg) | sra (d a b : Reg)
  | min (d a b : Reg) | max (d a b : Reg) | minn (d a b : Reg) | maxn (d a b : Reg)
  | clz (d a : Reg) | ctz (d a : Reg) | popc (d a : Reg) | sext (d a b : Reg) | zext (d a b : Reg)
  | setc (c : Cond) (d a b : Reg) | csel (d a b c : Reg)
  -- integer, immediate forms (R345, R346)
  | addI (d a : Reg) (imm : BitVec 32) | subI (d a : Reg) (imm : BitVec 32) | mulI (d a : Reg) (imm : BitVec 32)
  | mulhI (d a : Reg) (imm : BitVec 32) | mulhnI (d a : Reg) (imm : BitVec 32) | divI (d a : Reg) (imm : BitVec 32)
  | divnI (d a : Reg) (imm : BitVec 32) | remI (d a : Reg) (imm : BitVec 32) | remnI (d a : Reg) (imm : BitVec 32)
  | andI (d a : Reg) (imm : BitVec 32) | orI (d a : Reg) (imm : BitVec 32) | xorI (d a : Reg) (imm : BitVec 32)
  | andnI (d a : Reg) (imm : BitVec 32) | shlI (d a : Reg) (imm : BitVec 32) | shrI (d a : Reg) (imm : BitVec 32)
  | sraI (d a : Reg) (imm : BitVec 32) | minI (d a : Reg) (imm : BitVec 32) | maxI (d a : Reg) (imm : BitVec 32)
  | minnI (d a : Reg) (imm : BitVec 32) | maxnI (d a : Reg) (imm : BitVec 32) | sextI (d a : Reg) (imm : BitVec 32)
  | zextI (d a : Reg) (imm : BitVec 32) | setcI (c : Cond) (d a : Reg) (imm : BitVec 32)
  -- constants and addresses (R347)
  | li (d : Reg) (imm : BitVec 48) | lih (d a : Reg) (imm : BitVec 32) | addpc (d : Reg) (imm : BitVec 48)
  -- scalar floating point (R348, R349, R351)
  | fadd (t : Ty) (d a b : Reg) | fsub (t : Ty) (d a b : Reg) | fmul (t : Ty) (d a b : Reg) | fma (t : Ty) (d a b c : Reg)
  | fdiv (t : Ty) (d a b : Reg) | fsqrt (t : Ty) (d a : Reg) | fmin (t : Ty) (d a b : Reg) | fmax (t : Ty) (d a b : Reg)
  | fcmp (c : FCond) (t : Ty) (d a b : Reg) | fcvt (td ts : Ty) (rm : Rm) (ov : Ovf) (d a : Reg)
  -- control transfer (R352, R353)
  | bc (c : Cond) (a b : Reg) (off : BitVec 32) | j (off : BitVec 48) | jl (d : Reg) (off : BitVec 48)
  | jr (d a : Reg) (off : BitVec 32) | gate (imm : BitVec 16) | gret
  -- loads, stores, atomics, fences (R354-R356, R207, R208)
  | ld (t : Ty) (d a : Reg) (off : BitVec 20) (m : MemQ) | st (t : Ty) (d a : Reg) (off : BitVec 20) (m : MemQ)
  | amo (op : AmoOp) (t : Ty) (d a : Reg) (off : BitVec 20) (m : MemQ)
  | cas (t : Ty) (d a b : Reg) (off : BitVec 20) (m : MemQ)
  | fence (m : MemQ) | vfence (sr : Bool) (n : BitVec 3)
  -- timeline counters (R357)
  | tlwait (a : Reg) (n : BitVec 4) (imm : BitVec 24) | tlrd (d : Reg) (n : BitVec 4)
  | tladv (a : Reg) (n : BitVec 4) (imm : BitVec 24) (scope : BitVec 3)
  -- sheaf dispatch and lane partition (R361)
  | vblk (a b : Reg) (k : BitVec 3) (n : BitVec 4) | vrpl (d : Reg) (k : BitVec 3) | vjoin (k : BitVec 3) | lpart (n : BitVec 2)
  -- barriers, events, yielding (R365-R367)
  | bar | barSeal | wfe (a : Reg) | yield
  -- system (R368)
  | sysrd (d : Reg) (k : BitVec 3) (num : BitVec 6) | syswr (a : Reg) (k : BitVec 3) (num : BitVec 6)
  | trap (imm : BitVec 16) | eret | endTask | tlbinvPg (a b : Reg) | tlbinvAs (b : Reg) | tlbinvAll | nop | brk
  | shset (a b : Reg) | shgen (d a b : Reg)
  -- the dual word (R329)
  | dualWord (sa sb : Slot)
  -- vector length and type (R382, R383)
  | vsetvl (d a : Reg) | vsett (r : Bool) (a : Reg) (image : BitVec 20)
  -- vector integer (R384)
  | vadd (x : V3) | vsub (x : V3) | vmul (x : V3) | vmulh (x : V3) | vmac (x : V3) | vmin (x : V3) | vmax (x : V3)
  | vand (x : V3) | vor (x : V3) | vxor (x : V3) | vshl (x : V3) | vshr (x : V3) | vsra (x : V3) | vabs (x : V2)
  | vsadd (sub : Bool) (x : V3) | vcmp (c : VCond) (x : V3) | vsel (x : V3)
  | vwmul (t2 : Ty) (x : V3) | vwmac (t2 : Ty) (x : V3) | vmv (x : V3)
  -- vector floating point (R385, R388, R390)
  | vfadd (x : V3) | vfsub (x : V3) | vfmul (x : V3) | vfma (x : V3) (c : Reg) | vfmin (x : V3) | vfmax (x : V3) | vfdiv (x : V3)
  | vfsqrt (x : V2) | vfrsq (x : V2) | vfexp2 (x : V2) | vflog2 (x : V2) | vfcmp (c : FCond) (x : V3) | vfcls (x : V2)
  -- conversions, quantisers, packing (R392-R398)
  | vcvt (td : Ty) (rm : Rm) (ov : Ovf) (x : V2) | vbq (tq : BitVec 2) (s : Reg) (x : V2) | vbdq (tq : BitVec 2) (s : Reg) (x : V2)
  | ve8q (ts : Ty) (s : Reg) (cnt : Bool) (n : Reg) (x : V2) | ve8d (td : Ty) (s : Reg) (x : V2)
  | vscac (pf : Bool) (d p a b : Reg) | vpack (tn : Ty) (x : V2) | vunpk (tn : Ty) (x : V2)
  -- reductions, moves, masks (R391, R399, R400)
  | vrsum (x : V2) | vrmax (x : V2) | vrmin (x : V2) | vsldu (i : Bool) (imm : BitVec 14) (b : Reg) (x : V2)
  | vsldd (i : Bool) (imm : BitVec 14) (b : Reg) (x : V2) | vprm (b : Reg) (x : V2) | viota (x : V2)
  | mpop (d a : Reg) (q : BitVec 4) | mfst (d a : Reg) (q : BitVec 4) | mlog (op : BitVec 3) (d a b : Reg)
  -- selection, sorting, search (R402-R404)
  | vargmx (new : Bool) (d a b : Reg) (q : BitVec 4) | vtopk (new : Bool) (k : BitVec 7) (d a b : Reg) (q : BitVec 4)
  | vsort (desc : Bool) (idx : Bool) (c : Reg) (x : V2) | vsrch (le : Bool) (b : Reg) (x : V2)
  -- vector memory (R405, R411-R416)
  | vld (x : V2) (off : BitVec 20) (m : MemQ) | vldC (x : V2) (off : BitVec 20) | vlds (b : Reg) (x : V2) (off : BitVec 20) (m : MemQ)
  | vldx (b : Reg) (x : V2) (m : MemQ) | vst (x : V2) (off : BitVec 20) (m : MemQ) | vsts (b : Reg) (x : V2) (off : BitVec 20) (m : MemQ)
  | vstx (b : Reg) (x : V2) (m : MemQ) | vlsh (b : Reg) (x : V2) (m : MemQ) | vssh (b : Reg) (x : V2) (m : MemQ)
  | vamo (op : AmoOp) (b : Reg) (x : V2) (m : MemQ) | vldm (d a : Reg) (off : BitVec 20) | vstm (d a : Reg) (off : BitVec 20)
  | vcprs (x : V2) | vexpd (x : V2) | vmvh (i : Bool) (d a b : Reg) (ty : Ty)
  -- loops, replies, block end, barrier (R417-R426)
  | loop (lp : BitVec 1) (i : Bool) (a : Reg) (imm : BitVec 16) (off : BitVec 9)
  | sloop (lp : BitVec 1) (a b : Reg) (s : BitVec 3) (w : BitVec 6) (off : BitVec 9)
  | lpbrk (lp : BitVec 1) (u : Bool) (a : Reg) | vrpt (a : Reg) | vend | vbars (m : BitVec 8)
  -- matrix (R427)
  | mcfg (a b : Reg) | mma (x : MmaArgs) | mdrn (x : MdrnArgs) | mzro (d : Reg) (sn sm : BitVec 3) (t : Bool) (tl : BitVec 4) | mrpg
  -- wain (R434)
  | wcpy (a : Reg) (tl : BitVec 4) | wgth (a : Reg) (tl : BitVec 4) | wsct (a : Reg) (tl : BitVec 4) | wfil (a : Reg) (tl : BitVec 4)
  | wxfm (a : Reg) (tl : BitVec 4) | wapr (a : Reg)
  -- statex (R437)
  | sxini (n a : Reg) (m : Bool) (off : BitVec 20) | sxupd (n a : Reg) (q : BitVec 4) (c : Reg) (f : BitVec 2) (ty : Ty) (cell : BitVec 10)
  | sxmrg (n a : Reg) (m : Bool) (off : BitVec 20) | sxqry (d n b : Reg) (rg : Bool) (kind : BitVec 5) (cell : BitVec 10)
  | sxld (n a : Reg) (off : BitVec 20) | sxst (n a : Reg) (off : BitVec 20) | sxstMrg (n a : Reg) (off : BitVec 20)
  | sxclr (n : Reg) | sxtyp (d n : Reg)
  -- collectives (R441)
  | plan (d a : Reg) | plfree (a : Reg) | crdy (a b : Reg) | cfire (a : Reg)
  | mldr (d a b c : Reg) (op : BitVec 2) (dt st : Ty) (ne : BitVec 12)
  | mstb (a b c : Reg) (t : Ty) (tle : Bool) (tl : BitVec 4) (ne : BitVec 12) | agset (d a : Reg) | agsetSh (d a : Reg)
  -- events that `step` itself takes when they fall due
  | deferredFault (uid r : Nat) | asIntr (p : Nat) | faultRecord (p : Nat) | blockFetch (uid k : Nat)
  | barEpisode (passId : Word) | vbarsEpisode (uid : Nat) (m : BitVec 8) | wfeTimeout (uid r : Nat)
  | thresherAtomic (stack : Nat) | thresherMerge (stack : Nat) | mmaKblock (uid r : Nat) | rowGroupStart (uid r : Nat)
  | mmaComplete (uid r : Nat) | mdrnRow (uid r : Nat) | mdrnComplete (uid r : Nat) | mzroPerform (uid r : Nat)
  | wainRun (core seq : Nat) | gatherBatch (core seq : Nat) | wainComplete (core seq : Nat)
  | granuleCommit (uid k : Nat) | routineStart (core : Nat) | kvq (core : Nat) | roundStart (p h tile : Nat)
  | sendStep (p h tile : Nat) | foldStep (p h tile : Nat) | putStep (p h tile : Nat) | launchCheck (p seq : Nat)
  | passPlace (p : Nat) | passResume (p : Nat) | preempt (p : Nat) | completionRecord (p seq : Nat)
  | blockedTimeout (core : Nat) | quantumExpiry (core : Nat) | budgetOverrun (uid r : Nat) | dispResume (uid : Nat)
  | dispRestart (uid : Nat) | dispEnd (uid : Nat) | shardHoldTimeout (p tag : Nat) | frameSend (port q : Nat) | preload (core : Nat)
  -- events that the outside, or a choice of another agent, supplies
  | timelineAdvance (uid n : Nat) (k : Word) | remoteReply (tag : Nat) (st : ReplyStatus) (data : List Byte)
  | remoteAck (tag : Nat) (visible : Bool) | remoteStoreFailure (tag : Nat) (st : ReplyStatus)
  | fabricFill (tag : Nat) (st : ReplyStatus) (data : List Byte) | homeRequest (q : PeerReq)
  | viewTileBuild (uid slot ti tj : Nat) | contributionArrival (p : Nat) (src : PeerPart) (tag : Nat) (planId : BitVec 32) (addr : Word) (data : List Byte)
  | tileFinal (p : Nat) (src : PeerPart) (tag : Nat) (q : PlanTile) (addr : Word) (data : List Byte) | planFailure (p h : Nat) (sub : BitVec 16)
  | planSignature (p : Nat) (src : PeerPart) (planId : BitVec 32) (rank : Nat) (sig : BitVec 256) (offer : MemberOffer)
  | mstbArrival (p : Nat) (peer rpart : Nat) (tag : Nat) (addr : Word) (data : List Byte) (tle : Bool) (tl : Nat) (member : BitVec 32)
  | memberRead (p : Nat) (peer rpart : Nat) (tag : Nat) (addr : Word) (n : Nat)
  | shardRequest (p : Nat) (q : ShardReq) | shardStaleReplay (tag : Nat) (desc : BitVec 512)
  | shgenInstall (p handle : Nat) (desc : BitVec 512) (peer tag : Nat) | launchDmwr (p : Nat) (rec : BitVec 512)
  | contextSpill (core : Nat) | loftSpill (core : Nat) | quiesceSet (p : Nat) (w : Word)
  | quiesceClear (p : Nat) (w : Word) | dropq (p : Nat) | pccancel (p : Nat) (id : Word)
  | triggerDoorbell (p : Nat) (w : Word) | registerWrite (who : Writer) (bar : Nat) (off : Nat) (w : Word)
  | coldStart (force : Bool) | warmStart (force : Bool) | liveUpdate (ctl : Nat) | createPartition (p : Nat)
  | removePartition (p : Nat) | setPowerLimit | setDomain (force : Bool) | sendDoorbell (port q : Nat) (w : Word)
  | receiveDoorbell (port q : Nat) (w : Word) | ringEnable (port q : Nat) (recv : Bool) (w : Word)
  | ringDisable (port q : Nat) (recv : Bool) (w : Word)
  | frameReceive (port q : Nat) (header payload : List Byte) (fcsOk : Bool)
  | flitReceive (port : Nat) (fecOk : Bool) (hdr : Word) (payload : List Byte) (integrity : Word)
  | flitResend (port : Nat) | counterWrap (port slot : Nat) | signalDetect (port : Nat) | lossOfSignal (port : Nat)
  | equaliseDone (port : Nat) (width speed : BitVec 2) (lanes : BitVec 16)
  | confirmRecord (port : Nat) (r : ConfirmRec) | disputeReset (port : Nat) | rootRetrain (port : Nat)
  | portEnable (port : Nat) | laneRetire (port lane : Nat) | portLoss (port : Nat)
  | powerInterval (die : Nat) (temp : Nat) | powerShare (aside : Nat) (demand : List Nat) (pkgAvg : Nat)
  | criticalTrip (die : Nat) | hbmThermal (stack temp : Nat) | patrolScrub (stack row : Nat)
  | rowSpare (stack row : Nat) | coreRetire (core : Nat) | hbmRecalibrate (stack channel : Nat)
  | idleEntry (elapsed : Nat) | idleWake | getMeasurements (q : MeasureReq)
  | enclaveRecord (p : Nat) (data : List Byte) (news : EnclaveNews)
  | revocationRecord (r : RevocationMsg)
  | startCompletion (ok : Bool) | updateCompletion | packagePowerLoss | cxlPortDown (port : Nat) (up : Bool)
  | secureSession (partner : Nat) (point : BitVec 768)
  deriving DecidableEq, Repr

end Sys2Proof
end

