-- ==== Sys2Proof/Machine/State.lean ====
section
/-!
DEFINITION. The machine's state: one KY60 package with everything the spec gives it, as plain data, and the state right
after reset. INVENTORY.md lists each field with the rule that names it. Maps are `KMap`s (sorted lists with a default).
-/
namespace Sys2Proof.Machine

/-- A vector register: 512 bits in each of a sheaf's lanes, lane 0 lowest; a sheaf of L lanes uses the low 512 L bits (R156). -/
abbrev VReg := BitVec 16384
/-- A mask register: bit i belongs to element i (R378). -/
abbrev MReg := BitVec 65536
/-- A statex register is exactly its 4,160-byte image, byte 0 lowest (R260). -/
abbrev SxImage := BitVec 33280
/-- A 64-byte descriptor or record, byte 0 lowest. -/
abbrev Desc := BitVec 512
/-- A byte memory in canonical form; an unlisted byte reads 0 (log 5). -/
abbrev Memory := KMap Byte

/-- Privilege modes of a reeve (R302); root never runs on a reeve of a partition. -/
inductive Mode where
  | task | keeper
  deriving DecidableEq, Repr

/-- What a waiting agent waits for (R139 names the waits that count as blocked). -/
inductive Wait where
  | tlwait | wfe | bar | vrpl (k : Nat) | vrpt | vbars | stream | vjoin (k : Nat) | queue | remote | plan | fence | lpart | log | busy
  deriving DecidableEq, Repr

/-- A trap as it arises: cause code, subcode, `%tval`, the slot mark, the two INFO dwords of its record, and whether it is taken later than it
arose (R308, R314). -/
structure TrapInfo where
  code : BitVec 8
  sub : BitVec 16
  tval : Word
  slotB : Bool
  info0 : Word
  info1 : Word
  late : Bool
  deriving DecidableEq, Repr

/-- A loop register (R320). -/
structure Loop where
  start : Word
  stop : Word
  count : Word
  deriving DecidableEq, Repr

/-- An idle loop register. -/
def Loop.idle : Loop := ⟨0, 0, 0⟩

/-- An entry of a sheaf's dispatch queue (R159); `seq` is its place in the unit's program order (R164). -/
structure DispatchEntry where
  addr : Word
  args : List Word
  seq : Nat
  deriving DecidableEq, Repr

/-- A sheaf's registers, loop state, block buffer and queues (R156, R159, R162, R320). -/
structure Sheaf where
  v : KMap VReg
  vPoison : KMap Bool
  m : KMap MReg
  /-- Poisoned 64-bit words of mask registers, by 1024·register + word (R317). -/
  mPoison : KMap Bool
  h : KMap Word
  hPoison : KMap Bool
  vl : Nat
  vt : Word
  vstrt : Word
  vfx : Word
  rrb : Word
  stg : Word
  lp : KMap Loop
  slp : Word
  pc : Word
  busy : Bool
  blockAddr : Word
  block : List Word
  /-- Words of the block buffer with an uncorrectable error (R34). -/
  blockPoison : KMap Bool
  blockSeq : Nat
  queue : List DispatchEntry
  replies : List Word
  arrivals : KMap Nat
  arrived : Option Nat
  /-- A VBARS waited at: its mask and the number of its arrival, 0 once the episode is complete (R426). -/
  vbarsAt : Option (Nat × Nat)
  wait : Option Wait
  stopped : Bool
  deriving DecidableEq, Repr

/-- `%vt` with ILF set and every other field 0 (R136, R158). -/
def vtReset : Word := 0x8000000000000000

/-- A sheaf at task start (R136): idle, registers zero, `%vt` ill-formed. -/
def Sheaf.reset : Sheaf :=
  { v := [], vPoison := [], m := [], mPoison := [], h := [], hPoison := [], vl := 0, vt := vtReset, vstrt := 0, vfx := 0, rrb := 0, stg := 0,
    lp := [], slp := 0, pc := 0, busy := false, blockAddr := 0, block := [], blockPoison := [], blockSeq := 0, queue := [], replies := [], arrivals := [],
    arrived := none, vbarsAt := none, wait := none, stopped := false }

/-- The gate link (R306): return address, mode and mask mode. -/
structure GateLink where
  ret : Word
  mode : Mode
  mask : Word
  deriving DecidableEq, Repr

/-- The recorded failure of a task's oldest failed remote store (R71): `tag` is its place in the order of issue. -/
structure StoreFail where
  tag : Nat
  code : BitVec 8
  addr : Word
  peer : Nat
  deriving DecidableEq, Repr

/-- A remote store of a task that is not yet acknowledged as visible (R65); `hold` is its own acknowledgement level, which
later memory operations of the task wait for, with 3 for a `.sc` store (R203, R206), and `agent` the number of the agent that issued it (log 11). -/
structure RemoteStore where
  tag : Nat
  agent : Nat
  addr : Word
  peer : Nat
  accepted : Bool
  hold : BitVec 2
  deriving DecidableEq, Repr

/-- An address group slot of a task (R86). -/
structure Group where
  base : Word
  len : Nat
  members : List (BitVec 32)
  deriving DecidableEq, Repr

/-- An entry of a sealed write log (R216): physical and virtual address of the 64-byte granule, data and byte mask. -/
structure LogEntry where
  addr : Nat
  va : Word
  data : Desc
  mask : BitVec 64
  deriving DecidableEq, Repr

/-- A PLAN that waits for its members (R78). -/
structure PlanWait where
  desc : Desc
  members : List (BitVec 32)
  table : List (BitVec 128)
  sig : BitVec 256
  /-- The key slots that it announced as free (R129). -/
  slots : BitVec 256
  /-- What this member has reserved, once it has: (resource, amount), with the plan's key slot (R78, R129). -/
  reserve : Option (List (Nat × Nat) × Nat)
  deriving DecidableEq, Repr

/-- A reeve: its task's registers, trap state, queues of waits and counts (R136, R302-R306, R256). -/
structure Reeve where
  g : KMap Word
  gPoison : KMap Bool
  pc : Word
  started : Bool
  ended : Bool
  mode : Mode
  mask : Word
  inHandler : Bool
  link : Option GateLink
  fx : Word
  cause : Word
  epc : Word
  tval : Word
  rowp : Word
  mcfg : Word
  t0 : Word
  latch : Bool
  wfeLeft : Option Nat
  fetchBuf : List (Word × Word)
  wait : Option Wait
  waited : Nat
  taskId : Nat
  budget : Word
  cyc : Word
  charged : Nat
  arrivals : Nat
  barAt : Option Nat
  barSealed : Bool
  fail : Option StoreFail
  stores : List RemoteStore
  groups : KMap (Option Group)
  log : List LogEntry
  planWait : Option PlanWait
  deriving DecidableEq, Repr

/-- A reeve before the dispatcher starts its task: every register zero, task mode, link empty (R136). -/
def Reeve.reset : Reeve :=
  { g := [], gPoison := [], pc := 0, started := false, ended := false, mode := .task, mask := 0, inHandler := false,
    link := none, fx := 0, cause := 0, epc := 0, tval := 0, rowp := 0, mcfg := 0, t0 := 0, latch := false, wfeLeft := none,
    fetchBuf := [], wait := none, waited := 0, taskId := 0, budget := 0, cyc := 0, charged := 0, arrivals := 0, barAt := none,
    barSealed := false, fail := none, stores := [], groups := [], log := [], planWait := none }

/-- A stream buffer of a unit (R168). -/
structure Stream where
  off : Nat
  size : Nat
  head : Nat
  tail : Nat
  fill : Nat
  deriving DecidableEq, Repr

/-- The kinds of matrix queue entry (R247). -/
inductive MKind where
  | mma | mdrn | mzro
  deriving DecidableEq, Repr

/-- A matrix queue entry (R430-R432) with its progress (R256) and fault (R257). -/
structure MEntry where
  kind : MKind
  reeve : Nat
  iaddr : Word
  pair : BitVec 5
  fmt : BitVec 3
  kBlocks : Nat
  sn : Nat
  sm : Nat
  vd : Nat
  acc : BitVec 2
  a : Word
  sa : Word
  b : Word
  sb : Word
  c : Word
  tl : Nat
  adv : Bool
  start : Option (Nat × Nat × Word)
  startMet : Nat
  started : Bool
  rows : Nat
  kb : Nat
  flags : Word
  /-- Its place in the unit's program order (R164). -/
  seq : Nat
  /-- Its place among the commands issued to the engines of the package (R211). -/
  ord : Nat
  /-- `%vt` of sheaf SN at its place in program order, once that place is reached (R250). -/
  vt : Option Word
  fault : Option TrapInfo
  reported : Bool
  deriving DecidableEq, Repr

/-- A bound view slot (R301): the descriptor it was bound with. -/
structure View where
  desc : Desc
  tiles : List (Nat × Nat × List Byte)
  deriving DecidableEq, Repr

/-- An entry of the pending-reply table: a request of the unit that has left and whose reply is awaited or held
(R318, R319). `agent` numbers the issuing agent (log 11), `elem` the element. -/
structure Pending where
  tag : Nat
  agent : Nat
  elem : Nat
  va : Word
  peer : Nat
  reply : Option (ReplyStatus × List Byte)
  /-- The die whose copy of the line the reply of an atomic invalidates (R60). -/
  drops : Option Nat
  /-- It had arrived when the unit halted, so that the context record does not list it (R319). -/
  landed : Bool
  deriving DecidableEq, Repr

/-- Where a unit stands (R138, R139, R149): never started, ready to run, running on its core, parked by the dispatcher's
pre-emption, parked by a fault, or over. -/
inductive Place where
  | unstarted | ready | running | preempted | faulted | over
  deriving DecidableEq, Repr

/-- A unit of a pass: the context of its tasks and what the dispatcher keeps about it (R134, R150, R151). -/
structure Unit where
  live : Bool
  passId : Word
  part : Nat
  idx : Nat
  asid : Nat
  rv : Nat
  loftSize : Nat
  /-- The initial keeper task of R116, which belongs to no pass. -/
  initial : Bool
  reeves : KMap Reeve
  sheaves : KMap Sheaf
  lpart : Word
  /-- Issue number of the next block or matrix entry (R164). -/
  issue : Nat
  sx : KMap SxImage
  sxPoison : KMap Bool
  tl : KMap Word
  /-- For each counter, its value before its first advance at `.dm` or wider (R358). -/
  tlWide : KMap (Option Nat)
  loft : Memory
  /-- 64-bit words of the loft with an uncorrectable error (R34), by number. -/
  loftPoison : KMap Bool
  streams : List Stream
  mq : List MEntry
  views : KMap (Option View)
  replies : List Pending
  place : Place
  slot : Nat
  core : Nat
  loftResident : Bool
  loftPA : Nat
  cause0 : BitVec 8
  cause1 : BitVec 8
  ctxPA : Nat
  ctxCheck : List (Nat × Byte)
  /-- The subcode of FT_MCHK that its context gives when it is next read: an error in shadow storage (R34), or its loss with a die (R32); else 0. -/
  ctxBad : Nat
  seq0 : Nat
  seq1 : Nat
  /-- Advances by completed matrix entries that earlier commands hold back (R211): place of issue and counter. -/
  heldAdv : List (Nat × Nat)
  deriving DecidableEq, Repr

/-- The header value of an empty LSUM.f32 register with zero cells (R18, R261): TYPE 1. -/
def sxReset : SxImage := 1

/-- No unit. -/
def Unit.none : Unit :=
  { live := false, passId := 0, part := 0, idx := 0, asid := 0, rv := 0, loftSize := 0, initial := false, reeves := [],
    sheaves := [], lpart := 0, issue := 1, sx := [], sxPoison := [], tl := [], tlWide := [], loft := [], loftPoison := [], streams := [], mq := [],
    views := [], replies := [], place := .over, slot := 0, core := 0, loftResident := true, loftPA := 0, cause0 := 0,
    cause1 := 0, ctxPA := 0, ctxCheck := [], ctxBad := 0, seq0 := 0, seq1 := 0, heldAdv := [] }

/-- A command of a wain's queue (R283) with its progress and fault (R286). `op` is the opcode 0xE8-0xEC; `seq` is its place
among the commands issued to the engines of the package (R211). -/
structure WainCmd where
  seq : Nat
  op : BitVec 8
  uid : Nat
  reeve : Nat
  iaddr : Word
  descVA : Word
  desc : Desc
  tl : Nat
  done : Nat
  copied : Nat
  zeroed : Nat
  advanced : Nat
  /-- Bytes produced for a stream buffer that do not yet lie in a committed granule, and the count of those that do (R168, R295). -/
  pend : List Byte
  committed : Nat
  /-- A page of type 4 or 6 was touched, so its advances have scope `.dm` or wider (R211). -/
  wide : Bool
  /-- The status record is written (R292). -/
  stated : Bool
  finished : Bool
  fault : Option TrapInfo
  reported : Bool
  deriving DecidableEq, Repr

/-- The wain core's registers while it runs a routine (R296, R297): `g` and a 4-lane vector context. -/
structure Routine where
  seq : Nat
  uid : Nat
  reeve : Nat
  g : KMap Word
  gPoison : KMap Bool
  vec : Sheaf
  pc : Word
  /-- Bytes KVQ has consumed, and those of the token it is taking (R298). -/
  consumed : Nat
  held : List Byte
  deriving DecidableEq, Repr

/-- A physical core: power, retirement, the unit on it, its wain and its shadow storage (R139, R148, R150, R282). -/
structure Core where
  unpowered : Bool
  retired : Bool
  marked : Bool
  running : Option Nat
  turn : Nat
  preloaded : Option Nat
  /-- The pass to be placed next whose first unit is preloaded (R148): its partition and sequence number. -/
  preloadPass : Option (Nat × Nat)
  /-- Restarted units that start before the preloaded one (R148), oldest first. -/
  rerun : List Nat
  wq : List WainCmd
  routine : Option Routine
  shadow : List Nat
  deriving DecidableEq, Repr

/-- A core with nothing on it. -/
def Core.reset : Core :=
  { unpowered := false, retired := false, marked := false, running := none, turn := 0, preloaded := none, preloadPass := none, rerun := [], wq := [],
    routine := none, shadow := [] }

/-- Pass states (R141). -/
inductive PassState where
  | queued | held | ready | placed | running | parked | done | faulted | cancelled
  deriving DecidableEq, Repr

/-- A pass of a partition: launch record (R102), image header (R132), and how it stands and ended (R107, R141). -/
structure Pass where
  seq : Nat
  lrec : Desc
  header : Desc
  streams : List (Nat × Nat)
  decls : List Word
  st : PassState
  x : Nat
  y : Nat
  s : Nat
  rv : Nat
  lanes : Nat
  wlog : Nat
  reason : Nat
  cause : BitVec 8
  ftask : Option Nat
  nflt : Nat
  cycles : Nat
  taskMax : Nat
  episode : Nat
  /-- Stores of its plans that are not visible yet, as (tag, peer) (R108). -/
  sends : List (Nat × Nat)
  recorded : Bool
  placedAt : Nat
  /-- What bytes of HBM held at the last merge point that the sealed pass has since stored to by pages without SEALED (R215). -/
  snap : KMap (Option Byte)
  deriving DecidableEq, Repr

/-- Partition states (R99). -/
inductive PartState where
  | off | active | quiescing | quiesced | revoked
  deriving DecidableEq, Repr

/-- A fault record waiting to be written (R314, R315): bytes 63:8 as they will stand, and the unit it parks if any. -/
structure FaultRec where
  body : Desc
  passId : Word
  task : Nat
  uid : Nat
  reeve : Nat
  parks : Bool
  deriving DecidableEq, Repr

/-- A partition: control registers (R99), keeper registers (R304), share, slots, passes, queues (R115, R138, R315, R92). -/
structure Partition where
  st : PartState
  lostcmp : Nat
  pcctl : Word
  pcexpb : Word
  pcexpc : Word
  pcsym : Word
  pcseq : Nat
  tvec : Word
  gatebase : Word
  cores : List Nat
  remap : List Nat
  shareBase : Nat
  shareSize : Nat
  cxlBase : Nat
  cxlSize : Nat
  faultSeq : Nat
  faults : List FaultRec
  signalled : Nat
  held : List (Nat × BitVec 32 × Nat × Bool)
  passes : List Pass
  dir : KMap (BitVec 128)
  initUid : Nat
  enclave : Nat
  deriving DecidableEq, Repr

/-- A partition that is OFF. -/
def Partition.off : Partition :=
  { st := .off, lostcmp := 0, pcctl := 0, pcexpb := 0, pcexpc := 0, pcsym := 0, pcseq := 0, tvec := 0, gatebase := 0, cores := [],
    remap := [], shareBase := 0, shareSize := 0, cxlBase := 0, cxlSize := 0, faultSeq := 0, faults := [], signalled := 0, held := [],
    passes := [], dir := [], initUid := 0, enclave := 0 }

/-- A cached leaf (R184, R185): partition, address space, page base, page size in bytes, leaf entry, and where the entry lies. -/
structure TlbEntry where
  part : Nat
  asid : Nat
  base : Nat
  size : Nat
  leaf : Word
  entry : Option Nat
  deriving DecidableEq, Repr

/-- A pointer entry that the walker has cached (R184): partition, address space, level, index path, entry. -/
structure PtrEntry where
  part : Nat
  asid : Nat
  level : Nat
  path : Nat
  pte : Word
  deriving DecidableEq, Repr

/-- A line of a die's fabric cache (R61). -/
structure FcLine where
  die : Nat
  part : Nat
  asid : Nat
  va : Nat
  data : Desc
  deriving DecidableEq, Repr

/-- A fabric-cache fill in flight (R61, R209): `noInstall` is set by an acquire after the request, and `closed`, too, by a store
or atomic of the die to the line, after which no load joins it. -/
structure FcFill where
  tag : Nat
  die : Nat
  part : Nat
  asid : Nat
  va : Nat
  peer : Nat
  noInstall : Bool
  closed : Bool
  waiters : List (Nat × Nat × Nat × Nat × Nat)
  deriving DecidableEq, Repr

/-- A migration counter (R63): partition, space, page base, page size, peer, count, reported. -/
structure MigCounter where
  part : Nat
  asid : Nat
  base : Nat
  size : Nat
  peer : Nat
  count : Nat
  reported : Bool
  deriving DecidableEq, Repr

/-- What the package sends to the outside, newest last: peers, host, Ethernet stations, links and management. -/
inductive Msg where
  | peerReq (peer : Nat) (q : PeerReq)
  | peerReply (peer tag : Nat) (st : ReplyStatus) (data : List Byte)
  | fill (peer tag addr : Nat)
  | planSig (peer part : Nat) (planId : BitVec 32) (rank : Nat) (sig slots : BitVec 256) (reserved : Bool)
  | planData (peer part : Nat) (planId : BitVec 32) (tag tile rank : Nat) (addr : Word) (data : List Byte)
  | planResult (peer part : Nat) (planId : BitVec 32) (tag tile : Nat) (addr : Word) (data : List Byte)
  | planAbort (peer part : Nat) (planId : BitVec 32) (sub : BitVec 16)
  | planAnswer (peer tag : Nat) (sub : Nat)
  | mstb (peer part tag : Nat) (addr : Word) (data : List Byte) (tl : Option Nat) (member : BitVec 32)
  | memberRead (peer part tag : Nat) (addr : Word) (n : Nat)
  | shard (peer part : Nat) (q : ShardReq)
  | shardAnswer (peer tag : Nat) (st : Nat) (items : List (Nat × List Byte)) (desc : Desc)
  | shgen (peer part tag handle : Nat) (desc : Desc)
  | shgenAnswer (peer tag : Nat) (st : Nat)
  | launchAnswer (p : Nat) (accepted : Bool)
  | unsupported (p : Nat)
  | msix (vector : Nat)
  | flit (port : Nat) (hdr : Word) (payload : List Byte) (integrity : Word)
  | confirm (port : Nat) (r : ConfirmRec)
  | frame (port q : Nat) (data : List Byte)
  | pause (port cls : Nat)
  | measurement (partner index : Nat) (value : BitVec 384) (signature : BitVec 768)
  | session (partner : Nat) (point signature : BitVec 768) (chain : List Byte)
  | secured (partner : Nat) (wire : List Byte) (tag : BitVec 64)
  | enclaveAnswer (ok : Bool)
  | revocation (peer : Nat) (data : List Byte)
  | revocationAck (peer : Nat)
  | hostData (bar off : Nat) (value : Word)
  | storeAck (peer tag : Nat) (visible : Bool)
  | retryDone (port : Nat)
  deriving DecidableEq, Repr

/-- An acknowledgement as visible, or an atomic's reply, that this home holds until its earlier replies for the lines, by the numbers of their
messages, have reached their requesters (R65, R67). -/
structure HeldReply where
  lines : List Nat
  before : List Nat
  part : Nat
  peer : Nat
  tag : Nat
  msg : Msg
  deriving DecidableEq, Repr

/-- A tile of a plan (R81, R82): ready flag, whether a round runs, the next table entry of the round, what SEND or PUT
still has to be accepted, and whether the result of the round is final. -/
structure Tile where
  flag : Bool
  running : Bool
  entry : Nat
  round : Nat
  issued : Bool
  unacked : List Nat
  final : Bool
  deriving DecidableEq, Repr

/-- A tile that was never fired. -/
def Tile.idle : Tile := ⟨false, false, 0, 0, false, [], false⟩

/-- A collective plan at this member (R77-R85). -/
structure Plan where
  part : Nat
  handle : Nat
  passId : Word
  uid : Nat
  reeve : Nat
  asid : Nat
  planId : BitVec 32
  desc : Desc
  members : List (BitVec 32)
  table : List (BitVec 128)
  tiles : KMap Tile
  /-- The places of the staging slots whose contributions have come and are not yet folded (R80): the physical address of their first byte. -/
  arrived : List Nat
  /-- Contributions held for a later round (R82): their pieces in HBM, place first, and data. -/
  heldC : List (List (Nat × Nat) × List Byte)
  keySlot : Nat
  failed : Option (BitVec 16)
  reserve : List (Nat × Nat)
  deriving DecidableEq, Repr

/-- A plan signature held from a member (R78), with the key slots free on its package (R129). -/
structure PlanSig where
  part : Nat
  planId : BitVec 32
  rank : Nat
  sig : BitVec 256
  slots : BitVec 256
  reserved : Bool
  deriving DecidableEq, Repr

/-- A command in a thresher's queue (R73): an atomic or a statex merge over the lines of an image, with where the answer goes:
a waiting agent of this package, or the peer and tag of a request. -/
inductive ThCmd where
  | amo (uid agent elem : Nat) (addr : Nat) (op : AmoOp) (t : Ty) (operand : Word) (peer : Option (Nat × Nat))
  | cas (uid agent elem : Nat) (addr : Nat) (t : Ty) (expected new : Word) (peer : Option (Nat × Nat))
  | merge (uid agent tag : Nat) (lines : List Nat) (image : SxImage) (peer : Option (Nat × Nat))
  deriving DecidableEq, Repr

/-- A sharded request that an owner holds for an install (R198): its partition, and `%tim` at its arrival. -/
structure HeldShard where
  part : Nat
  req : ShardReq
  since : Word
  deriving DecidableEq, Repr

/-- A sharded access in flight at the issuer (R194, R198). -/
structure ShardOut where
  tag : Nat
  uid : Nat
  agent : Nat
  peer : Nat
  handle : Nat
  gen : BitVec 16
  addr : Word
  write : Bool
  replayed : Bool
  /-- The request has left; it waits while 256 replies are outstanding (R318). -/
  gone : Bool
  items : List (Nat × Nat × List Byte)
  status : Option Nat
  desc : Desc
  got : List (Nat × List Byte)
  deriving DecidableEq, Repr

/-- Thouruth port states (R42). -/
inductive PortState where
  | down | detect | equalise | confirm | up | disputed | disabled | retire
  deriving DecidableEq, Repr

/-- A key slot of a port (R40, R41): whether the partner confirmed it, whether a counter that would wrap stopped it, the two counters, tag
failures in succession, and whether its flits are dropped. -/
structure PortSlot where
  loaded : Bool
  stopped : Bool
  tx : Nat
  rx : Nat
  failsInRow : Nat
  dropping : Bool
  deriving DecidableEq, Repr

/-- An empty key slot. -/
def PortSlot.empty : PortSlot := ⟨false, false, 0, 0, 0, false⟩

/-- By what the port of a flit is chosen (R46): the issuing core and the page of the target, the request that it answers, or the plan that
reserved ports. -/
inductive Via where
  | request (core page : Nat) | reply (tag : Nat) | plan (part handle : Nat)
  deriving DecidableEq, Repr

/-- A flit that a port has sent and keeps, or holds until it may send it (R38-R40, R47): data or, with `control`, link control. Its header and
integrity field stand once it is sent. `num` is the number of its message, and `lines` the HBM lines that a reply of this home is for. -/
structure TxFlit where
  num : Nat
  control : Bool
  seq : Nat
  vc : Nat
  key : Nat
  peer : Nat
  via : Via
  lines : List Nat
  plain : List Byte
  hdr : Word
  wire : List Byte
  integrity : Word
  deriving DecidableEq, Repr

/-- What a training port aims at: what equalisation finds, the lowest common configuration, or x4 and 224 Gb/s (R42, R44). -/
inductive PortGoal where
  | any | lowest | full
  deriving DecidableEq, Repr

/-- A Thouruth port (R37-R48). `lanes` holds the four LANEMAP nibbles of R48; `nak` asks the partner for a replay, and `resend` records that
the partner asked; `routed` says that the port is in route sets, and `goal` what a training aims at. -/
structure Port where
  st : PortState
  width : BitVec 2
  speed : BitVec 2
  lanes : BitVec 16
  disp : Nat
  partnerSerial : Nat
  partnerPort : Nat
  partnerPeer : Nat
  txSeq : Nat
  rxSeq : Nat
  nak : Bool
  resend : Bool
  unacked : List TxFlit
  waiting : List TxFlit
  delivered : List (Nat × List Byte)
  slots : KMap PortSlot
  goal : PortGoal
  routed : Bool
  since : Word
  deriving DecidableEq, Repr

/-- A port after reset: DOWN with width code 3 (R48). -/
def Port.reset : Port :=
  { st := .down, width := 3, speed := 0, lanes := 0, disp := 0, partnerSerial := 0, partnerPort := 0, partnerPeer := 0, txSeq := 0,
    rxSeq := 4095, nak := false, resend := false, unacked := [], waiting := [], delivered := [], slots := [], goal := .any,
    routed := false, since := 0 }

/-- One ring of an Ethernet queue pair (R50, R51). -/
structure Ring where
  base : Word
  asid : Nat
  en : Bool
  logn : Nat
  cons : BitVec 32
  prod : BitVec 32
  /-- Bytes of the frame being received that its stream buffer has taken (R168). -/
  taken : Nat
  deriving DecidableEq, Repr

/-- A ring after reset. -/
def Ring.reset : Ring := ⟨0, 0, false, 0, 0, 0, 0⟩

/-- A queue pair of an Ethernet port (R50): the partition it is bound to (8 means none) and its rings. -/
structure QPair where
  part : Nat
  send : Ring
  recv : Ring
  deriving DecidableEq, Repr

/-- An unbound queue pair. -/
def QPair.reset : QPair := ⟨8, Ring.reset, Ring.reset⟩

/-- A die's power manager (R30): clock in MHz, its 1 ms average and share in watts, and a critical trip. -/
structure Die where
  mhz : Nat
  avg : Nat
  share : Nat
  pkgAvg : Nat
  tripped : Bool
  deriving DecidableEq, Repr

/-- A die at the nominal clock (R4); before the first division its share is the whole limit and its averages are 0 (log 25). -/
def Die.reset : Die := ⟨1700, 0, 3400, 0, false⟩

/-- An HBM stack's health (R33, R34, R121): `spares` counts rows spared, `scrubbed` is the row patrol scrub visited last and `recal` the
channel recalibrated last. -/
structure Stack where
  doubleRefresh : Bool
  halfBandwidth : Bool
  spares : Nat
  scrubbed : Nat
  recal : Nat
  deriving DecidableEq, Repr

/-- A stack with no thermal measure in force and no row spared. -/
def Stack.reset : Stack := ⟨false, false, 0, 0, 0⟩

/-- An enclave this package belongs to (R125-R131). -/
structure Enclave where
  id : Nat
  slot : Nat
  epoch : Nat
  quorum : Nat
  points : List (BitVec 768)
  members : List (BitVec 32)
  revoked : List Nat
  key : BitVec 256
  policy : List (BitVec 384)
  deriving DecidableEq, Repr

/-- Management state of MGSTS (R112). -/
inductive MgState where
  | off | starting | ready | updating | safe
  deriving DecidableEq, Repr

/-- Idle states of the device (R110). -/
inductive Idle where
  | active | i1 | i2 | i3
  deriving DecidableEq, Repr

/-- Which agent executes: a reeve or a sheaf of the current unit, or the wain core of a physical core. -/
inductive Who where
  | reeve (r : Nat) | sheaf (k : Nat) | wain (core : Nat)
  deriving DecidableEq, Repr

/-- The registers in which an error may be found (R34, R317): of a reeve, a sheaf or a routine, or the statex file. -/
inductive RegFile where
  | scalar | vector | mask | statex
  deriving DecidableEq, Repr

/-- What happens to the hardware, or what the host reads, when the schedule says so (log 23): uncorrectable errors in a 64-byte line of HBM or of
the CXL tier, in a word of a loft, of a block buffer or of a register, and in a core's shadow storage; a corrected error; a failed residue check,
whose replay succeeds or fails (R34, R35, R97, R317); and a read of a BAR (R98, R100). -/
inductive Occurrence where
  | line (cxl : Bool) (n : Nat)
  | loftWord (uid w : Nat)
  | blockWord (uid k w : Nat)
  | register (uid : Nat) (who : Who) (file : RegFile) (r w : Nat)
  | shadow (core : Nat)
  | corrected
  | replay (uid : Nat) (who : Who) (ok : Bool)
  | blockReplay (uid r : Nat) (ok : Bool)
  | hostRead (bar off : Nat)
  deriving DecidableEq, Repr

/-- One turn of the schedule (log 3): an agent of a unit, an event, or an occurrence. -/
inductive Turn where
  | run (uid : Nat) (who : Who)
  | event (i : Instr)
  | occur (o : Occurrence)
  deriving DecidableEq, Repr

/-- A write to device MMIO space that has left its task and that the device performs next (R181): a register of BAR 0, a
doorbell or a ring configuration of an Ethernet port. -/
inductive DevWrite where
  | reg (keep : Bool) (off : Nat) (v : Word)
  | doorbell (port q : Nat) (recv : Bool) (v : Word)
  | ring (port q : Nat) (recv enable : Bool) (v : Word)
  deriving DecidableEq, Repr

/-- The whole package. -/
structure State where
  -- agents of passes
  uid : Nat
  who : Who
  /-- The engine command on whose behalf accesses are made, by its number (log 11); none outside an engine's event. -/
  eng : Option Nat
  units : KMap Unit
  nextUid : Nat
  cores : KMap Core
  parts : KMap Partition
  -- memories and translation
  hbm : Memory
  hbmPoison : KMap Bool
  hbmRetired : KMap Bool
  cxl : Memory
  cxlPoison : KMap Bool
  cxlDown : KMap Bool
  host : Memory
  tlb : List TlbEntry
  ptrs : List PtrEntry
  fabric : List FcLine
  fills : List FcFill
  migration : List MigCounter
  shards : KMap Desc
  -- domain, peers, collectives
  domId : Word
  peer : Option Nat
  routes : KMap (BitVec 32)
  unreachable : KMap Bool
  nextTag : Nat
  sent : List Msg
  thresher : KMap (List ThCmd)
  plans : List Plan
  sigs : List PlanSig
  shardOut : List ShardOut
  shardHeld : List HeldShard
  /-- Replies this home holds (R65, R67). -/
  heldReplies : List HeldReply
  -- links and ports
  ports : KMap Port
  keys : KMap (BitVec 256)
  pairs : KMap QPair
  ethSlow : KMap Bool
  /-- Priority flow control is enabled (R49), by 8 · port + class. -/
  pfc : KMap Bool
  /-- IDE streams in use, by partition, 8 for root firmware, and BAR 0 slices locked as TDIs (R96). -/
  ide : KMap Bool
  tdi : KMap Bool
  device : List DevWrite
  -- power, health, management
  dies : KMap Die
  stackHealth : KMap Stack
  /-- Frames of rows that failed with no spare row left, as telemetry reports them (R121). -/
  rowReports : List Nat
  powerLimit : Nat
  idle : Idle
  /-- Max Snoop and Max No-Snoop Latency in ns, while the LTR mechanism is enabled (R110). -/
  ltr : Option (Nat × Nat)
  mgst : MgState
  mgres : Nat
  wfail : Nat
  cfail : Nat
  mgimga : Word
  mgimgl : Word
  bar4 : Memory
  calibrated : Bool
  starting : Option Bool
  /-- The controller being updated and the image it took (R119). -/
  updating : Option (Nat × List Byte)
  /-- Launch requests that wait for the dispatcher's update to end (R119). -/
  dmwrs : List (Nat × BitVec 512)
  -- security
  attest : KMap (BitVec 384)
  svn : Nat
  sessions : KMap (BitVec 256)
  /-- Messages sent in each session. -/
  sessionSeq : KMap Nat
  enclaves : List Enclave
  -- time and telemetry
  tim : Word
  timFrac : Nat
  telemetry : KMap Nat
  -- the model's own
  turns : List Turn
  fetchAhead : Nat
  staleTlb : Bool
  pace : Nat
  fresh : Nat
  deriving DecidableEq, Repr

/-- The package right after reset: OFF, no partition, no unit, every memory unlisted (R99, R112, R117). Values the spec
does not give are those of assumption logs 1, 3, 4, 5, 6 and 7. -/
def State.reset : State :=
  { uid := 0, who := .reeve 0, eng := none, units := [], nextUid := 1, cores := [], parts := [], hbm := [], hbmPoison := [], hbmRetired := [],
    cxl := [], cxlPoison := [], cxlDown := [], host := [], tlb := [], ptrs := [], fabric := [], fills := [], migration := [], shards := [],
    domId := 0, peer := none, routes := [], unreachable := [], nextTag := 1, sent := [], thresher := [], plans := [], sigs := [],
    shardOut := [], shardHeld := [], heldReplies := [], ports := [], keys := [], pairs := [], ethSlow := [], pfc := [], ide := [], tdi := [], device := [], dies := [], stackHealth := [], rowReports := [], powerLimit := 3400,
    idle := .active, ltr := none, mgst := .off, mgres := 0, wfail := 0, cfail := 0, mgimga := 0, mgimgl := 0, bar4 := [],
    calibrated := false, starting := none, updating := none, dmwrs := [], attest := [], svn := 0, sessions := [], sessionSeq := [], enclaves := [], tim := 0,
    timFrac := 0, telemetry := [], turns := [], fetchAhead := 0, staleTlb := false, pace := 1, fresh := 0 }

/-- Why the machine stops. No meaning of an instruction ends in a fault: the spec gives every encoding an effect or a trap. -/
inductive Fault where
  /-- An access to a frame that no part of the package holds. No meaning and no step of this model raises it, since R182
  gives every such access a trap; the type keeps it for the host's interface. Safe. -/
  | noMemory
  deriving DecidableEq, Repr

/-- Why an instruction has no meaning here. -/
inductive Refusal where
  /-- Raised by an arm of `exec` whose instruction has no meaning yet, by its mnemonic. Safe. -/
  | notModelled (mnemonic : String)
  deriving DecidableEq, Repr

end Sys2Proof.Machine
end

