-- ==== Sys2Proof/Machine/Bits.lean ====
section
/-!
DEFINITION. Bit fields, extension and byte order: the helpers of R20 and R21 that meanings use, and the byte-sequence views
of descriptors and images (every multi-byte field is little-endian).
-/
namespace Sys2Proof.Machine

/-- SignExt(x, 64) of R21. -/
def sx64 {n : Nat} (x : BitVec n) : Word := x.signExtend 64
/-- ZeroExt(x, 64) of R21. -/
def zx64 {n : Nat} (x : BitVec n) : Word := x.zeroExtend 64
/-- A number as a word, modulo 2^64. -/
def toW (n : Nat) : Word := BitVec.ofNat 64 n
/-- The low `w` bits of a number. -/
def low (w n : Nat) : Nat := n % 2 ^ w
/-- The two's complement value of the low `w` bits of `n`. -/
def sInt (w n : Nat) : Int :=
  if w = 0 then 0 else if n % 2 ^ w < 2 ^ (w - 1) then (n % 2 ^ w : Nat) else (n % 2 ^ w : Nat) - (2 ^ w : Nat)
/-- The `w`-bit pattern of an integer. -/
def wrapInt (w : Nat) (x : Int) : Nat := (x % (2 ^ w : Nat)).toNat
/-- The field of width `w` at bit `lo` of `n`. -/
def fld (n lo w : Nat) : Nat := (n >>> lo) % 2 ^ w
/-- Replace the field of width `w` at bit `lo` of `n` by the low bits of `v`. -/
def putFld (n lo w v : Nat) : Nat := n - (fld n lo w) <<< lo + (v % 2 ^ w) <<< lo
/-- Is bit `i` set? -/
def bitAt (n i : Nat) : Bool := n.testBit i

/-- Little-endian value of a byte list. -/
def leVal : List Byte → Nat
  | [] => 0
  | b :: t => b.toNat + 256 * leVal t
/-- The `n` low bytes of a number, lowest first. -/
def leBytes : Nat → Nat → List Byte
  | 0, _ => []
  | n + 1, v => BitVec.ofNat 8 v :: leBytes n (v / 256)

/-- Bytes `lo` to `lo + n - 1` of a descriptor or record, as a number. -/
def dfld {w : Nat} (d : BitVec w) (lo n : Nat) : Nat := fld d.toNat (8 * lo) (8 * n)
/-- A descriptor with bytes `lo` to `lo + n - 1` set. -/
def dput {w : Nat} (d : BitVec w) (lo n v : Nat) : BitVec w := BitVec.ofNat w (putFld d.toNat (8 * lo) (8 * n) v)
/-- A signed 32-bit field of a descriptor. -/
def dint {w : Nat} (d : BitVec w) (lo n : Nat) : Int := sInt (8 * n) (dfld d lo n)

/-- Is `a` a multiple of `n`? -/
def aligned (a n : Nat) : Bool := a % n == 0
/-- Round a quotient up. -/
def ceilDiv (a b : Nat) : Nat := if b = 0 then 0 else (a + b - 1) / b

/-- The widths of the type codes (R341), in bits. -/
def tyWidth : Ty → Nat
  | .i8 | .n8 | .e4m3 | .e5m2 | .i4 | .i3 | .zs8 => 8
  | .i16 | .n16 | .f16 | .bf16 | .e8w16 => 16
  | .i32 | .n32 | .f32 | .e8w32 => 32
  | .i64 | .n64 | .f64 => 64

/-- Signed integer types (R221). -/
def tySigned : Ty → Bool
  | .i8 | .i16 | .i32 | .i64 | .i4 | .i3 => true
  | _ => false

/-- The integer class of R377. -/
def tyIsInt : Ty → Bool
  | .i8 | .i16 | .i32 | .i64 | .n8 | .n16 | .n32 | .n64 | .i4 | .i3 | .zs8 => true
  | _ => false

/-- The plain integer types i8-i64 and n8-n64. -/
def tyIsPlainInt : Ty → Bool
  | .i8 | .i16 | .i32 | .i64 | .n8 | .n16 | .n32 | .n64 => true
  | _ => false

/-- The float class of R377. -/
def tyIsFloat : Ty → Bool
  | .f64 | .f32 | .f16 | .bf16 => true
  | _ => false

/-- The E8 lattice types. -/
def tyIsE8 : Ty → Bool
  | .e8w16 | .e8w32 => true
  | _ => false

/-- Type codes of R341 as numbers. -/
def tyCode : Ty → Nat
  | .i8 => 0 | .i16 => 1 | .i32 => 2 | .i64 => 3 | .n8 => 4 | .n16 => 5 | .n32 => 6 | .n64 => 7 | .f64 => 8 | .f32 => 9
  | .f16 => 10 | .bf16 => 11 | .e4m3 => 12 | .e5m2 => 13 | .i4 => 14 | .i3 => 15 | .e8w16 => 16 | .e8w32 => 17 | .zs8 => 18

/-- The type a code names; 19-31 name nothing (R341). -/
def tyOf : Nat → Option Ty
  | 0 => some .i8 | 1 => some .i16 | 2 => some .i32 | 3 => some .i64 | 4 => some .n8 | 5 => some .n16 | 6 => some .n32
  | 7 => some .n64 | 8 => some .f64 | 9 => some .f32 | 10 => some .f16 | 11 => some .bf16 | 12 => some .e4m3 | 13 => some .e5m2
  | 14 => some .i4 | 15 => some .i3 | 16 => some .e8w16 | 17 => some .e8w32 | 18 => some .zs8 | _ => none

end Sys2Proof.Machine
end

