-- ==== Sys2Proof/WellFormed.lean ====
section
/-!
DEFINITION. The field checks of step 4 of R333 that the types of `Instr` do not already make: `Instr.wf` holds of exactly
the instructions that a word encodes. An event has no word and is not well-formed (it is not something to encode).
-/
namespace Sys2Proof
open Sys2Proof.Machine

/-- A register field that names an `h` register of a word that runs in no wain routine (R334). -/
def hOk (r : Reg) : Bool := decide (r.toNat < 16)
/-- A register field that names a mask register, `m0` included. -/
def mOk (r : Reg) : Bool := decide (r.toNat < 8)
/-- A mask destination: `m0` is reserved (R334). -/
def mdOk (r : Reg) : Bool := decide (0 < r.toNat) && decide (r.toNat < 8)
/-- A statex register field (R437). -/
def sxOk (r : Reg) : Bool := decide (r.toNat < 32)
/-- A mask field other than the reserved 0b1000 (R325). -/
def qOk (q : BitVec 4) : Bool := q != 8

/-- The sizes of scalar loads and stores (R327). -/
def scalarTy : Ty → Bool
  | .i8 | .i16 | .i32 | .n8 | .n16 | .n32 | .n64 => true
  | _ => false

/-- Scope values 0-5 and acknowledgement values 0-2 (R65, R200, R201). -/
def memOk (m : MemQ) : Bool := decide (m.scope.toNat ≤ 5) && decide (m.ack.toNat ≤ 2)
/-- The orders and acknowledgements of a load (R65, R201). -/
def loadOk (m : MemQ) : Bool := memOk m && m.ack == 0 && m.ord != 2
/-- The orders of a store (R201). -/
def storeOk (m : MemQ) : Bool := memOk m && m.ord != 1
/-- An atomic carries no acknowledgement level (R65). -/
def atomOk (m : MemQ) : Bool := memOk m && m.ack == 0

/-- The types each atomic operation accepts (R355). -/
def amoTy (op : AmoOp) (t : Ty) : Bool :=
  match op with
  | .swap => t == .i32 || t == .i64 || t == .n32 || t == .n64 || t == .f32 || t == .f64
  | .add | .and | .or | .xor | .min | .max => t == .i32 || t == .i64 || t == .n32 || t == .n64
  | .fadd | .fmin | .fmax => t == .f32 || t == .f64

/-- Conversion types of FCVT (R351). -/
def cvtTy (t : Ty) : Bool := tyIsPlainInt t || tyIsFloat t || t == .e4m3 || t == .e5m2
/-- The overflow field that a destination type permits (R351, R392). -/
def ovfOk (td : Ty) (o : Ovf) : Bool :=
  match td with
  | .e4m3 => o != .none
  | .e5m2 => o != .nan
  | _ => o == .none

/-- The mask field of a two-source vector instruction. Its scalar `b` names `h0`-`h15` in a sheaf and `g0`-`g63` in a wain
routine (R334, R296), so its range is checked where the word runs. -/
def v3Ok (x : V3) : Bool := qOk x.q
/-- The mask field of a one-source vector instruction. -/
def v2Ok (x : V2) : Bool := qOk x.q

/-- The packed types of VPACK and VUNPK (R393). -/
def packTy : Ty → Bool
  | .i3 | .i4 | .i8 | .i16 | .i32 | .n8 | .n16 | .n32 => true
  | _ => false
/-- f32, f16 and bf16. -/
def shortFloat : Ty → Bool
  | .f32 | .f16 | .bf16 => true
  | _ => false

/-- The type pairs of R75. -/
def reduceTy (dt st : Ty) : Bool :=
  (dt == .f32 && (st == .f32 || st == .bf16 || st == .f16)) ||
  (dt == st && (dt == .f64 || dt == .i32 || dt == .i64 || dt == .n32 || dt == .n64))
/-- The element types of MSTB (R445). -/
def mstbTy : Ty → Bool
  | .f32 | .f64 | .bf16 | .f16 | .i32 | .i64 | .n32 | .n64 => true
  | _ => false
/-- An element count from 1 to 4,096 / size (R444, R445). -/
def countOk (n : BitVec 12) (t : Ty) : Bool := decide (0 < n.toNat) && decide (n.toNat * (tyWidth t / 8) ≤ 4096)

/-- System registers owned by a sheaf (R337). -/
def sheafSys (num : BitVec 6) : Bool := num == 0 || num == 1 || num == 2 || num == 4 || num == 5 || num == 8
/-- A system register number R337 assigns, with a sheaf number only where a sheaf owns it (R369). -/
def sysOk (k : BitVec 3) (num : BitVec 6) : Bool := decide (num.toNat ≤ 0x11) && (sheafSys num || k == 0)

/-- The registers a slot reads (R330). -/
def slotReads : Slot → List Reg
  | .alu _ _ a b => [a, b]
  | .addI13 _ a _ => [a]
  | .li13 _ _ => []
  | .ldD _ a _ => [a]
  | .stD d a _ => [d, a]
  | .ldW _ a _ => [a]
  | .stW d a _ => [d, a]
  | .vec _ _ a b => [a, b]
  | .vmv _ a => [a]
  | .nop => []
  | .br _ d a _ => [d, a]
/-- The register a slot writes (R330). -/
def slotWrites : Slot → Option Reg
  | .alu _ d _ _ => some d
  | .addI13 d _ _ => some d
  | .li13 d _ => some d
  | .ldD d _ _ => some d
  | .stD _ _ _ => none
  | .ldW d _ _ => some d
  | .stW _ _ _ => none
  | .vec _ d _ _ => some d
  | .vmv d _ => some d
  | .nop => none
  | .br _ _ _ _ => none
/-- A memory slot (op6 0x0C-0x0F). -/
def slotMem : Slot → Bool
  | .ldD .. | .stD .. | .ldW .. | .stW .. => true
  | _ => false
/-- A branch slot (op6 0x17-0x1A). -/
def slotBr : Slot → Bool
  | .br .. => true
  | _ => false
/-- Condition 1 of R331 for the slot of bank `p` (0 for A, 1 for B). -/
def pair1 (p : Nat) (s : Slot) : Bool :=
  match slotWrites s with
  | some d => d.toNat % 2 == p
  | none => true
/-- Condition 2 of R331: at most one distinct register of the other bank is read. -/
def pair2 (p : Nat) (s : Slot) : Bool :=
  match (slotReads s).filter (fun r => r.toNat % 2 != p) with
  | [x, y] => x == y
  | _ => true
/-- The pairing conditions of R331. -/
def pairOk (a b : Slot) : Bool :=
  pair1 0 a && pair1 1 b && pair2 0 a && pair2 1 b && !(slotMem a && slotMem b) && !(slotBr a && slotBr b)

/-- The instructions that some word encodes, field by field as their entries fix them. -/
def Instr.wf : Instr → Bool
  | .add .. | .sub .. | .mul .. | .mulh .. | .mulhn .. | .div .. | .divn .. | .rem .. | .remn .. | .and .. | .or .. | .xor ..
  | .andn .. | .shl .. | .shr .. | .sra .. | .min .. | .max .. | .minn .. | .maxn .. | .clz .. | .ctz .. | .popc .. | .sext ..
  | .zext .. | .setc .. | .csel .. => true
  | .addI .. | .subI .. | .mulI .. | .mulhI .. | .mulhnI .. | .divI .. | .divnI .. | .remI .. | .remnI .. | .andI .. | .orI ..
  | .xorI .. | .andnI .. | .shlI .. | .shrI .. | .sraI .. | .minI .. | .maxI .. | .minnI .. | .maxnI .. | .sextI .. | .zextI ..
  | .setcI .. => true
  | .li .. | .lih .. | .addpc .. => true
  | .fadd t _ _ _ | .fsub t _ _ _ | .fmul t _ _ _ | .fma t _ _ _ _ | .fdiv t _ _ _ | .fsqrt t _ _ | .fmin t _ _ _
  | .fmax t _ _ _ | .fcmp _ t _ _ _ => tyIsFloat t
  | .fcvt td ts _ ov _ _ => cvtTy td && cvtTy ts && !(tyIsInt td && tyIsInt ts) && ovfOk td ov
  | .bc .. | .j .. | .jl .. | .jr .. | .gate .. | .gret => true
  | .ld t _ _ _ m => scalarTy t && loadOk m
  | .st t _ _ _ m => scalarTy t && storeOk m
  | .amo op t _ _ _ m => amoTy op t && atomOk m
  | .cas t _ _ _ _ m => amoTy .add t && atomOk m
  | .fence m => memOk m && (m.ord != 1 || m.ack == 0)
  | .vfence .. | .tlwait .. | .tlrd .. => true
  | .tladv _ _ _ scope => decide (scope.toNat ≤ 5)
  | .vblk _ b _ n => decide (n.toNat ≤ 8) && (n != 0 || b == 0) && decide (b.toNat + n.toNat ≤ 64)
  | .vrpl .. | .vjoin .. | .lpart .. | .bar | .barSeal | .wfe .. | .yield => true
  | .sysrd _ k num => sysOk k num
  | .syswr _ k num => sysOk k num
  | .trap .. | .eret | .endTask | .tlbinvPg .. | .tlbinvAs .. | .tlbinvAll | .nop | .brk | .shset .. | .shgen .. => true
  | .dualWord sa sb => pairOk sa sb
  | .vsetvl .. => true
  | .vsett r a image => if r then image == 0 else a == 0
  | .vadd x | .vsub x | .vmul x | .vmulh x | .vmac x | .vmin x | .vmax x | .vshl x | .vshr x | .vsra x | .vsadd _ x => v3Ok x
  | .vand x | .vor x | .vxor x => v3Ok x && x.ty == .i8
  | .vsel x => v3Ok x && x.ty == .i8
  | .vabs x => v2Ok x
  | .vcmp _ x => v3Ok x && mdOk x.d
  | .vwmul _ x | .vwmac _ x => v3Ok x
  | .vmv x => v3Ok x && (if x.sc then x.a == 0 else x.b == 0)
  | .vfadd x | .vfsub x | .vfmul x | .vfma x _ | .vfmin x | .vfmax x | .vfdiv x => v3Ok x
  | .vfsqrt x | .vfrsq x | .vfexp2 x | .vflog2 x | .vfcls x => v2Ok x
  | .vfcmp _ x => v3Ok x && mdOk x.d
  | .vcvt td _ ov x =>
    v2Ok x && (cvtTy td || td == .i4 || td == .i3) && (cvtTy x.ty || x.ty == .i4 || x.ty == .i3) &&
      !(x.ty != .i8 && tyIsInt x.ty && tyIsInt td) && ovfOk td ov
  | .vbq _ _ x => v2Ok x
  | .vbdq tq _ x => v2Ok x && tq != 3
  | .ve8q ts _ cnt n x => v2Ok x && shortFloat ts && (if cnt then sxOk n else n == 0)
  | .ve8d td s x => v2Ok x && shortFloat td && (x.ty != .e8w32 || s == 0)
  | .vscac .. => true
  | .vpack tn x => x.q == 0 && packTy tn
  | .vunpk tn x => v2Ok x && packTy tn
  | .vrsum x | .vrmax x | .vrmin x => v2Ok x
  | .vsldu i imm b x | .vsldd i imm b x => v2Ok x && (if i then b == 0 else hOk b && imm == 0)
  | .vprm _ x => v2Ok x
  | .viota x => v2Ok x && mOk x.a
  | .mpop d a q | .mfst d a q => hOk d && mOk a && qOk q
  | .mlog op d a b => mdOk d && mOk a && mOk b && (op != 7 || b == 0)
  | .vargmx _ _ _ b q => hOk b && qOk q
  | .vtopk _ k _ _ b q => hOk b && qOk q && decide (1 ≤ k.toNat) && decide (k.toNat ≤ 64)
  | .vsort _ idx c x => v2Ok x && (idx || c == 0)
  | .vsrch _ _ x => v2Ok x
  | .vld x _ m => v2Ok x && loadOk m
  | .vldC x _ => v2Ok x && x.ty != .i4 && x.ty != .i3
  | .vlds _ x _ m => v2Ok x && loadOk m
  | .vldx _ x m => v2Ok x && hOk x.a && loadOk m
  | .vst x _ m => v2Ok x && storeOk m
  | .vsts _ x _ m => v2Ok x && storeOk m
  | .vstx _ x m => v2Ok x && hOk x.a && storeOk m
  | .vlsh _ x m => v2Ok x && hOk x.a && loadOk m
  | .vssh _ x m => v2Ok x && hOk x.a && storeOk m
  | .vamo op _ x m => v2Ok x && hOk x.a && atomOk m && (x.ty == .i8 || amoTy op x.ty)
  | .vldm d a _ => mdOk d && hOk a
  | .vstm d a _ => mOk d && hOk a
  | .vcprs x | .vexpd x => v2Ok x
  | .vmvh i d _ b _ => hOk d && (if i then hOk b else b == 0)
  | .loop _ i a imm off => (if i then a == 0 else hOk a && imm == 0) && decide (2 ≤ off.toNat)
  | .sloop _ a b _ _ off => hOk a && hOk b && decide (2 ≤ off.toNat)
  | .lpbrk _ u a => if u then a == 0 else hOk a
  | .vrpt a => hOk a
  | .vend => true
  | .vbars m => m != 0
  | .mcfg .. => true
  | .mma x => decide (x.pair.toNat ≤ 22) && x.a != 63
  | .mdrn x => decide (x.fmt.toNat ≤ 5) && (decide (2 < x.fmt.toNat) || x.c == 0)
  | .mzro _ _ _ t tl => t || tl == 0
  | .mrpg | .wcpy .. | .wgth .. | .wsct .. | .wfil .. | .wxfm .. | .wapr .. => true
  | .sxini n _ m off => sxOk n && (m || off == 0)
  | .sxupd n _ q c f _ cell => sxOk n && qOk q && f != 3 && (f == 2 || c == 0) && (f == 1 || cell == 0)
  | .sxmrg n a m off => sxOk n && (m || (off == 0 && sxOk a))
  | .sxqry _ n b rg kind cell => sxOk n && (if rg then cell == 0 else b == 0) && decide (kind.toNat ≤ 22)
  | .sxld n _ _ | .sxst n _ _ | .sxstMrg n _ _ => sxOk n
  | .sxclr n => sxOk n
  | .sxtyp _ n => sxOk n
  | .plan .. | .plfree .. | .crdy .. | .cfire .. => true
  | .mldr _ _ _ _ op td ts ne => op != 3 && reduceTy td ts && countOk ne ts
  | .mstb _ _ _ t tle tl ne => mstbTy t && (tle || tl == 0) && countOk ne t
  | .agset .. | .agsetSh .. => true
  | .deferredFault .. | .asIntr .. | .faultRecord .. | .blockFetch .. | .barEpisode .. | .vbarsEpisode .. | .timelineAdvance ..
  | .wfeTimeout .. | .remoteReply .. | .remoteAck .. | .remoteStoreFailure .. | .fabricFill .. | .homeRequest .. | .thresherAtomic ..
  | .thresherMerge .. | .mmaKblock .. | .rowGroupStart .. | .mmaComplete .. | .mdrnRow .. | .mdrnComplete .. | .mzroPerform ..
  | .wainRun .. | .gatherBatch .. | .wainComplete .. | .granuleCommit .. | .routineStart .. | .kvq .. | .viewTileBuild ..
  | .roundStart .. | .sendStep .. | .foldStep .. | .putStep .. | .contributionArrival .. | .tileFinal .. | .planFailure ..
  | .planSignature .. | .mstbArrival .. | .memberRead .. | .shardRequest .. | .shardHoldTimeout .. | .shardStaleReplay ..
  | .shgenInstall .. | .launchDmwr .. | .launchCheck .. | .passPlace .. | .preload .. | .blockedTimeout .. | .quantumExpiry ..
  | .preempt .. | .passResume .. | .contextSpill .. | .loftSpill .. | .budgetOverrun .. | .dispResume .. | .dispRestart ..
  | .dispEnd .. | .completionRecord .. | .quiesceSet .. | .quiesceClear .. | .dropq .. | .pccancel .. | .triggerDoorbell ..
  | .registerWrite .. | .coldStart .. | .warmStart .. | .liveUpdate .. | .createPartition .. | .removePartition .. | .setPowerLimit
  | .setDomain .. | .sendDoorbell .. | .receiveDoorbell .. | .ringEnable .. | .ringDisable .. | .frameSend .. | .frameReceive ..
  | .flitReceive .. | .flitResend .. | .counterWrap .. | .signalDetect .. | .lossOfSignal .. | .equaliseDone .. | .confirmRecord ..
  | .disputeReset .. | .rootRetrain .. | .portEnable .. | .laneRetire .. | .portLoss .. | .powerInterval .. | .powerShare ..
  | .criticalTrip .. | .hbmThermal .. | .patrolScrub .. | .rowSpare .. | .coreRetire .. | .hbmRecalibrate .. | .idleEntry ..
  | .idleWake | .getMeasurements .. | .enclaveRecord .. | .revocationRecord .. | .startCompletion .. | .updateCompletion
  | .packagePowerLoss | .cxlPortDown .. | .secureSession .. => false

end Sys2Proof
end

