-- ==== Sys2Proof/Decode.lean ====
section
/-!
DEFINITION. The decoder of R323-R344, total on any word, and the encoder written from the same tables. A word decodes when
it passes steps 1 and 4 of R333 and the pairing check; which trap a word that does not decode raises is `illegalWord`.
-/
namespace Sys2Proof
open Sys2Proof.Machine

/-- Fields of the F format (R324). -/
def wTag (w : Word) : BitVec 2 := w.extractLsb' 62 2
def wOp (w : Word) : Nat := (w.extractLsb' 54 8).toNat
def wD (w : Word) : Reg := w.extractLsb' 48 6
def wA (w : Word) : Reg := w.extractLsb' 42 6
def wB (w : Word) : Reg := w.extractLsb' 36 6
def wQ (w : Word) : BitVec 4 := w.extractLsb' 32 4
def wX (w : Word) : BitVec 32 := w.extractLsb' 0 32
/-- imm48 of the L format (R328). -/
def wImm (w : Word) : BitVec 48 := w.extractLsb' 0 48

/-- Fields of the register class (R326). -/
def xC (x : BitVec 32) : Reg := x.extractLsb' 26 6
def xFn (x : BitVec 32) : Nat := (x.extractLsb' 20 6).toNat
def xTy (x : BitVec 32) : Option Ty := tyOf (x.extractLsb' 15 5).toNat
def xExt (x : BitVec 32) : BitVec 15 := x.extractLsb' 0 15
/-- Fields of the memory class (R326). -/
def xOff (x : BitVec 32) : BitVec 20 := x.extractLsb' 12 20
def xMty (x : BitVec 32) : Option Ty := tyOf (x.extractLsb' 7 5).toNat
def xMem (x : BitVec 32) : MemQ := ⟨x.extractLsb' 4 3, x.extractLsb' 2 2, x.extractLsb' 0 2⟩

/-- Condition codes of BC and SETC (R325, R346). -/
def condOf : Nat → Option Cond
  | 0 => some .eq | 1 => some .ne | 2 => some .lt | 3 => some .ge | 4 => some .ltn | 5 => some .gen | _ => none
def condCode : Cond → Nat
  | .eq => 0 | .ne => 1 | .lt => 2 | .ge => 3 | .ltn => 4 | .gen => 5
/-- Condition codes of FCMP and `vfcmp` (R349, R388). -/
def fcondOf : Nat → Option FCond
  | 0 => some .eq | 1 => some .ne | 2 => some .lt | 3 => some .le | 4 => some .un | _ => none
def fcondCode : FCond → Nat
  | .eq => 0 | .ne => 1 | .lt => 2 | .le => 3 | .un => 4
/-- Condition codes of `vcmp` (R388). -/
def vcondOf : Nat → Option VCond
  | 0 => some .eq | 1 => some .ne | 2 => some .lt | 3 => some .le | 4 => some .gt | 5 => some .ge | _ => none
def vcondCode : VCond → Nat
  | .eq => 0 | .ne => 1 | .lt => 2 | .le => 3 | .gt => 4 | .ge => 5
/-- Rounding mode codes (R351). -/
def rmOf : Nat → Option Rm
  | 0 => some .rne | 1 => some .rtz | 2 => some .rdn | 3 => some .rup | 4 => some .rna | _ => none
def rmCode : Rm → Nat
  | .rne => 0 | .rtz => 1 | .rdn => 2 | .rup => 3 | .rna => 4
/-- Overflow codes (R351). -/
def ovfOf : Nat → Option Ovf
  | 0 => some .none | 1 => some .sat | 2 => some .nan | _ => none
def ovfCode : Ovf → Nat
  | .none => 0 | .sat => 1 | .nan => 2
/-- Atomic operation codes (R355). -/
def amoOf : Nat → Option AmoOp
  | 0 => some .swap | 1 => some .add | 2 => some .and | 3 => some .or | 4 => some .xor | 5 => some .min | 6 => some .max
  | 7 => some .fadd | 8 => some .fmin | 9 => some .fmax | _ => none
def amoCode : AmoOp → Nat
  | .swap => 0 | .add => 1 | .and => 2 | .or => 3 | .xor => 4 | .min => 5 | .max => 6 | .fadd => 7 | .fmin => 8 | .fmax => 9
/-- The ALU operations of a slot, op6 0x00-0x09 (R330). -/
def slotAluOf : Nat → Option SlotAlu
  | 0 => some .add | 1 => some .sub | 2 => some .and | 3 => some .or | 4 => some .xor | 5 => some .shl | 6 => some .shr
  | 7 => some .sra | 8 => some .min | 9 => some .max | _ => none
def slotAluCode : SlotAlu → Nat
  | .add => 0 | .sub => 1 | .and => 2 | .or => 3 | .xor => 4 | .shl => 5 | .shr => 6 | .sra => 7 | .min => 8 | .max => 9
/-- The vector operations of a slot, op6 0x10-0x14 (R330). -/
def slotVecOf : Nat → Option SlotVec
  | 0x10 => some .vadd | 0x11 => some .vsub | 0x12 => some .vmul | 0x13 => some .vfadd | 0x14 => some .vfmul | _ => none
def slotVecCode : SlotVec → Nat
  | .vadd => 0x10 | .vsub => 0x11 | .vmul => 0x12 | .vfadd => 0x13 | .vfmul => 0x14
/-- The branch conditions of a slot, op6 0x17-0x1A (R330). -/
def slotCondOf : Nat → Option SlotCond
  | 0x17 => some .eq | 0x18 => some .ne | 0x19 => some .lt | 0x1A => some .ge | _ => none
def slotCondCode : SlotCond → Nat
  | .eq => 0x17 | .ne => 0x18 | .lt => 0x19 | .ge => 0x1A

/-- `some i` when the entry's fixed fields are as they must be. -/
def req (c : Bool) (i : Instr) : Option Instr := if c then some i else none

/-- A register form with nothing in x (R345). -/
def plainX (q : BitVec 4) (x : BitVec 32) : Bool := q == 0 && x == 0

/-- Opcodes 0x00-0x1A: the integer register forms (R345, R346). -/
def decodeInt (op : Nat) (d a b : Reg) (q : BitVec 4) (x : BitVec 32) : Option Instr :=
  match op with
  | 0x00 => req (plainX q x) (.add d a b)
  | 0x01 => req (plainX q x) (.sub d a b)
  | 0x02 => req (plainX q x) (.mul d a b)
  | 0x03 => req (plainX q x) (.mulh d a b)
  | 0x04 => req (plainX q x) (.mulhn d a b)
  | 0x05 => req (plainX q x) (.div d a b)
  | 0x06 => req (plainX q x) (.divn d a b)
  | 0x07 => req (plainX q x) (.rem d a b)
  | 0x08 => req (plainX q x) (.remn d a b)
  | 0x09 => req (plainX q x) (.and d a b)
  | 0x0A => req (plainX q x) (.or d a b)
  | 0x0B => req (plainX q x) (.xor d a b)
  | 0x0C => req (plainX q x) (.andn d a b)
  | 0x0D => req (plainX q x) (.shl d a b)
  | 0x0E => req (plainX q x) (.shr d a b)
  | 0x0F => req (plainX q x) (.sra d a b)
  | _ => none

/-- Opcodes 0x10-0x1C of the F format. -/
def decodeInt1 (op : Nat) (d a b : Reg) (q : BitVec 4) (x : BitVec 32) : Option Instr :=
  match op with
  | 0x10 => req (plainX q x) (.min d a b)
  | 0x11 => req (plainX q x) (.max d a b)
  | 0x12 => req (plainX q x) (.minn d a b)
  | 0x13 => req (plainX q x) (.maxn d a b)
  | 0x14 => req (plainX q x && b == 0) (.clz d a)
  | 0x15 => req (plainX q x && b == 0) (.ctz d a)
  | 0x16 => req (plainX q x && b == 0) (.popc d a)
  | 0x17 => req (plainX q x) (.sext d a b)
  | 0x18 => req (plainX q x) (.zext d a b)
  | 0x19 => (condOf (xFn x)).bind fun c =>
      req (q == 0 && xC x == 0 && x.extractLsb' 15 5 == 0 && xExt x == 0) (.setc c d a b)
  | 0x1A => req (q == 0 && x.extractLsb' 20 6 == 0 && x.extractLsb' 15 5 == 0 && xExt x == 0) (.csel d a b (xC x))
  | 0x1C => req (q == 0 && b == 0) (.lih d a x)
  | _ => none

/-- Opcodes 0x20-0x39: the immediate forms (R345, R346). -/
def decodeImm (op : Nat) (d a b : Reg) (q : BitVec 4) (x : BitVec 32) : Option Instr :=
  match op with
  | 0x20 => req (q == 0 && b == 0) (.addI d a x)
  | 0x21 => req (q == 0 && b == 0) (.subI d a x)
  | 0x22 => req (q == 0 && b == 0) (.mulI d a x)
  | 0x23 => req (q == 0 && b == 0) (.mulhI d a x)
  | 0x24 => req (q == 0 && b == 0) (.mulhnI d a x)
  | 0x25 => req (q == 0 && b == 0) (.divI d a x)
  | 0x26 => req (q == 0 && b == 0) (.divnI d a x)
  | 0x27 => req (q == 0 && b == 0) (.remI d a x)
  | 0x28 => req (q == 0 && b == 0) (.remnI d a x)
  | 0x29 => req (q == 0 && b == 0) (.andI d a x)
  | 0x2A => req (q == 0 && b == 0) (.orI d a x)
  | 0x2B => req (q == 0 && b == 0) (.xorI d a x)
  | 0x2C => req (q == 0 && b == 0) (.andnI d a x)
  | 0x2D => req (q == 0 && b == 0) (.shlI d a x)
  | 0x2E => req (q == 0 && b == 0) (.shrI d a x)
  | 0x2F => req (q == 0 && b == 0) (.sraI d a x)
  | 0x30 => req (q == 0 && b == 0) (.minI d a x)
  | 0x31 => req (q == 0 && b == 0) (.maxI d a x)
  | 0x32 => req (q == 0 && b == 0) (.minnI d a x)
  | 0x33 => req (q == 0 && b == 0) (.maxnI d a x)
  | 0x37 => req (q == 0 && b == 0) (.sextI d a x)
  | 0x38 => req (q == 0 && b == 0) (.zextI d a x)
  | 0x39 => (condOf b.toNat).bind fun c => req (q == 0) (.setcI c d a x)
  | _ => none

/-- The typed register-class words with empty c, fn and ext (R348). -/
def fpX (q : BitVec 4) (x : BitVec 32) : Bool := q == 0 && x.extractLsb' 20 12 == 0 && xExt x == 0

/-- Opcodes 0x40-0x49: scalar floating point (R348, R349, R351). -/
def decodeFp (op : Nat) (d a b : Reg) (q : BitVec 4) (x : BitVec 32) : Option Instr :=
  (xTy x).bind fun t =>
  match op with
  | 0x40 => req (fpX q x) (.fadd t d a b)
  | 0x41 => req (fpX q x) (.fsub t d a b)
  | 0x42 => req (fpX q x) (.fmul t d a b)
  | 0x43 => req (q == 0 && x.extractLsb' 20 6 == 0 && xExt x == 0) (.fma t d a b (xC x))
  | 0x44 => req (fpX q x) (.fdiv t d a b)
  | 0x45 => req (fpX q x && b == 0) (.fsqrt t d a)
  | 0x46 => req (fpX q x) (.fmin t d a b)
  | 0x47 => req (fpX q x) (.fmax t d a b)
  | 0x48 => (fcondOf (xFn x)).bind fun c => req (q == 0 && xC x == 0 && xExt x == 0) (.fcmp c t d a b)
  | 0x49 => (tyOf (x.extractLsb' 10 5).toNat).bind fun ts => (rmOf (x.extractLsb' 7 3).toNat).bind fun rm =>
      (ovfOf (x.extractLsb' 5 2).toNat).bind fun ov =>
      req (q == 0 && b == 0 && x.extractLsb' 20 12 == 0 && x.extractLsb' 0 5 == 0) (.fcvt t ts rm ov d a)
  | _ => none

/-- Opcodes 0x50-0x5D of the F format: control transfer and memory (R352-R356, R207, R208). -/
def decodeCtl (op : Nat) (d a b : Reg) (q : BitVec 4) (x : BitVec 32) : Option Instr :=
  match op with
  | 0x50 => (condOf q.toNat).bind fun c => req (d == 0) (.bc c a b x)
  | 0x53 => req (q == 0 && b == 0) (.jr d a x)
  | 0x54 => req (q == 0 && d == 0 && a == 0 && b == 0 && x.extractLsb' 16 16 == 0) (.gate (x.extractLsb' 0 16))
  | 0x55 => req (q == 0 && d == 0 && a == 0 && b == 0 && x == 0) .gret
  | 0x58 => (xMty x).bind fun t => req (q == 0 && b == 0) (.ld t d a (xOff x) (xMem x))
  | 0x59 => (xMty x).bind fun t => req (q == 0 && b == 0) (.st t d a (xOff x) (xMem x))
  | 0x5A => (xMty x).bind fun t => (amoOf b.toNat).bind fun o => req (q == 0) (.amo o t d a (xOff x) (xMem x))
  | 0x5B => (xMty x).bind fun t => req (q == 0) (.cas t d a b (xOff x) (xMem x))
  | 0x5C => req (q == 0 && d == 0 && a == 0 && b == 0 && x.extractLsb' 7 25 == 0) (.fence (xMem x))
  | 0x5D => req (q == 0 && d == 0 && a == 0 && b == 0 && x.extractLsb' 5 27 == 0 && x.extractLsb' 3 1 == 0)
      (.vfence (x.getLsbD 4) (x.extractLsb' 0 3))
  | _ => none

/-- Opcodes 0x60-0x69: timeline, dispatch, barriers (R357, R361, R365-R367). -/
def decodeTl (op : Nat) (d a b : Reg) (q : BitVec 4) (x : BitVec 32) : Option Instr :=
  match op with
  | 0x60 => req (q == 0 && d == 0 && b.extractLsb' 4 2 == 0 && x.extractLsb' 0 8 == 0)
      (.tlwait a (b.extractLsb' 0 4) (x.extractLsb' 8 24))
  | 0x61 => req (q == 0 && a == 0 && b.extractLsb' 4 2 == 0 && x == 0) (.tlrd d (b.extractLsb' 0 4))
  | 0x62 => req (q == 0 && d == 0 && b.extractLsb' 4 2 == 0 && x.extractLsb' 7 1 == 0 && x.extractLsb' 0 4 == 0)
      (.tladv a (b.extractLsb' 0 4) (x.extractLsb' 8 24) (x.extractLsb' 4 3))
  | 0x63 => req (q == 0 && d == 0 && x.extractLsb' 7 25 == 0) (.vblk a b (x.extractLsb' 4 3) (x.extractLsb' 0 4))
  | 0x64 => req (q == 0 && a == 0 && b == 0 && x.extractLsb' 7 25 == 0 && x.extractLsb' 0 4 == 0) (.vrpl d (x.extractLsb' 4 3))
  | 0x65 => req (q == 0 && d == 0 && a == 0 && b == 0 && x.extractLsb' 7 25 == 0 && x.extractLsb' 0 4 == 0) (.vjoin (x.extractLsb' 4 3))
  | 0x66 => req (q == 0 && d == 0 && a == 0 && b == 0 && x.extractLsb' 2 30 == 0) (.lpart (x.extractLsb' 0 2))
  | 0x67 => req (q == 0 && d == 0 && a == 0 && b == 0 && x.extractLsb' 1 31 == 0) (if x.getLsbD 0 then .barSeal else .bar)
  | 0x68 => req (q == 0 && d == 0 && b == 0 && x == 0) (.wfe a)
  | 0x69 => req (q == 0 && d == 0 && a == 0 && b == 0 && x == 0) .yield
  | _ => none

/-- Opcodes 0x70-0x7B: system instructions (R368). -/
def decodeSys (op : Nat) (d a b : Reg) (q : BitVec 4) (x : BitVec 32) : Option Instr :=
  match op with
  | 0x70 => req (q == 0 && a == 0 && b == 0 && x.extractLsb' 9 23 == 0) (.sysrd d (x.extractLsb' 6 3) (x.extractLsb' 0 6))
  | 0x71 => req (q == 0 && d == 0 && b == 0 && x.extractLsb' 9 23 == 0) (.syswr a (x.extractLsb' 6 3) (x.extractLsb' 0 6))
  | 0x72 => req (q == 0 && d == 0 && a == 0 && b == 0 && x.extractLsb' 16 16 == 0) (.trap (x.extractLsb' 0 16))
  | 0x73 => req (q == 0 && d == 0 && a == 0 && b == 0 && x == 0) .eret
  | 0x74 => req (q == 0 && d == 0 && a == 0 && b == 0 && x == 0) .endTask
  | 0x75 =>
    if x == 0 then req (q == 0 && d == 0) (.tlbinvPg a b)
    else if x == 1 then req (q == 0 && d == 0 && a == 0) (.tlbinvAs b)
    else req (q == 0 && d == 0 && a == 0 && b == 0 && x == 2) .tlbinvAll
  | 0x76 => req (q == 0 && d == 0 && a == 0 && b == 0 && x == 0) .nop
  | 0x77 => req (q == 0 && d == 0 && a == 0 && b == 0 && x == 0) .brk
  | 0x7A => req (q == 0 && d == 0 && x == 0) (.shset a b)
  | 0x7B => req (q == 0 && x == 0) (.shgen d a b)
  | _ => none

/-- Vector words with empty c and fn and only the scalar-form bit in ext (R376). -/
def vX (x : BitVec 32) : Bool := x.extractLsb' 20 12 == 0 && x.extractLsb' 1 14 == 0
/-- The operands of a two-source vector word. -/
def v3 (d a b : Reg) (q : BitVec 4) (x : BitVec 32) : Option V3 := (xTy x).map fun t => ⟨d, a, b, q, t, x.getLsbD 0⟩
/-- The operands of a one-source vector word. -/
def v2 (d a : Reg) (q : BitVec 4) (x : BitVec 32) : Option V2 := (xTy x).map fun t => ⟨d, a, q, t⟩
/-- One-source vector words: b, c, fn and ext are 0. -/
def v2X (b : Reg) (x : BitVec 32) : Bool := b == 0 && x.extractLsb' 20 12 == 0 && xExt x == 0

/-- Opcodes 0x80-0x8F (R382-R384). -/
def decodeV8 (op : Nat) (d a b : Reg) (q : BitVec 4) (x : BitVec 32) : Option Instr :=
  match op with
  | 0x80 => req (q == 0 && b == 0 && x == 0) (.vsetvl d a)
  | 0x81 => req (q == 0 && d == 0 && b == 0 && x.extractLsb' 20 11 == 0) (.vsett (x.getLsbD 31) a (x.extractLsb' 0 20))
  | 0x82 => (v3 d a b q x).bind fun v => req (vX x) (.vadd v)
  | 0x83 => (v3 d a b q x).bind fun v => req (vX x) (.vsub v)
  | 0x84 => (v3 d a b q x).bind fun v => req (vX x) (.vmul v)
  | 0x85 => (v3 d a b q x).bind fun v => req (vX x) (.vmulh v)
  | 0x86 => (v3 d a b q x).bind fun v => req (vX x) (.vmac v)
  | 0x87 => (v3 d a b q x).bind fun v => req (vX x) (.vmin v)
  | 0x88 => (v3 d a b q x).bind fun v => req (vX x) (.vmax v)
  | 0x89 => (v3 d a b q x).bind fun v => req (vX x) (.vand v)
  | 0x8A => (v3 d a b q x).bind fun v => req (vX x) (.vor v)
  | 0x8B => (v3 d a b q x).bind fun v => req (vX x) (.vxor v)
  | 0x8C => (v3 d a b q x).bind fun v => req (vX x) (.vshl v)
  | 0x8D => (v3 d a b q x).bind fun v => req (vX x) (.vshr v)
  | 0x8E => (v3 d a b q x).bind fun v => req (vX x) (.vsra v)
  | 0x8F => (v2 d a q x).bind fun v => req (v2X b x) (.vabs v)
  | _ => none

/-- Opcodes 0x90-0x9F (R384, R385, R387-R389, R400). -/
def decodeV9 (op : Nat) (d a b : Reg) (q : BitVec 4) (x : BitVec 32) : Option Instr :=
  match op with
  | 0x90 => (v3 d a b q x).bind fun v =>
      req (x.extractLsb' 21 11 == 0 && x.extractLsb' 1 14 == 0) (.vsadd (x.getLsbD 20) v)
  | 0x91 => (v3 d a b q x).bind fun v => (vcondOf (xFn x)).bind fun c =>
      req (xC x == 0 && x.extractLsb' 1 14 == 0) (.vcmp c v)
  | 0x92 => (v3 d a b q x).bind fun v => req (vX x) (.vsel v)
  | 0x93 => (v3 d a b q x).bind fun v => (tyOf (x.extractLsb' 10 5).toNat).bind fun t2 =>
      req (x.extractLsb' 20 12 == 0 && x.extractLsb' 1 9 == 0) (.vwmul t2 v)
  | 0x94 => (v3 d a b q x).bind fun v => (tyOf (x.extractLsb' 10 5).toNat).bind fun t2 =>
      req (x.extractLsb' 20 12 == 0 && x.extractLsb' 1 9 == 0) (.vwmac t2 v)
  | 0x95 => (v3 d a b q x).bind fun v => req (vX x) (.vmv v)
  | 0x98 => (v3 d a b q x).bind fun v => req (vX x) (.vfadd v)
  | 0x99 => (v3 d a b q x).bind fun v => req (vX x) (.vfsub v)
  | 0x9A => (v3 d a b q x).bind fun v => req (vX x) (.vfmul v)
  | 0x9B => (v3 d a b q x).bind fun v => req (x.extractLsb' 20 6 == 0 && x.extractLsb' 1 14 == 0) (.vfma v (xC x))
  | 0x9C => (v3 d a b q x).bind fun v => req (vX x) (.vfmin v)
  | 0x9D => (v3 d a b q x).bind fun v => req (vX x) (.vfmax v)
  | 0x9E => (v3 d a b q x).bind fun v => req (vX x) (.vfdiv v)
  | 0x9F => (v2 d a q x).bind fun v => req (v2X b x) (.vfsqrt v)
  | _ => none

/-- Opcodes 0xA0-0xAF (R385, R388, R390, R392-R398). -/
def decodeVA (op : Nat) (d a b : Reg) (q : BitVec 4) (x : BitVec 32) : Option Instr :=
  match op with
  | 0xA0 => (v2 d a q x).bind fun v => req (v2X b x) (.vfrsq v)
  | 0xA1 => (v2 d a q x).bind fun v => req (v2X b x) (.vfexp2 v)
  | 0xA2 => (v2 d a q x).bind fun v => req (v2X b x) (.vflog2 v)
  | 0xA3 => (v3 d a b q x).bind fun v => (fcondOf (xFn x)).bind fun c =>
      req (xC x == 0 && x.extractLsb' 1 14 == 0) (.vfcmp c v)
  | 0xA4 => (v2 d a q x).bind fun v => req (v2X b x) (.vfcls v)
  | 0xA8 => (v2 d a q x).bind fun v => (tyOf (x.extractLsb' 10 5).toNat).bind fun td =>
      (rmOf (x.extractLsb' 7 3).toNat).bind fun rm => (ovfOf (x.extractLsb' 5 2).toNat).bind fun ov =>
      req (b == 0 && x.extractLsb' 20 12 == 0 && x.extractLsb' 0 5 == 0) (.vcvt td rm ov v)
  | 0xA9 => (v2 d a q x).bind fun v =>
      req (b == 0 && x.extractLsb' 22 4 == 0 && xExt x == 0) (.vbq (x.extractLsb' 20 2) (xC x) v)
  | 0xAA => (v2 d a q x).bind fun v =>
      req (xC x == 0 && x.extractLsb' 22 4 == 0 && xExt x == 0) (.vbdq (x.extractLsb' 20 2) b v)
  | 0xAB => (v2 d a q x).bind fun v => (tyOf (x.extractLsb' 10 5).toNat).bind fun ts =>
      req (x.extractLsb' 20 6 == 0 && x.extractLsb' 1 9 == 0) (.ve8q ts b (x.getLsbD 0) (xC x) v)
  | 0xAC => (v2 d a q x).bind fun v => (tyOf (x.extractLsb' 10 5).toNat).bind fun td =>
      req (x.extractLsb' 20 12 == 0 && x.extractLsb' 0 10 == 0) (.ve8d td b v)
  | 0xAD => req (q == 0 && x.extractLsb' 21 5 == 0 && x.extractLsb' 0 20 == 0) (.vscac (x.getLsbD 20) d a b (xC x))
  | 0xAE => (v2 d a q x).bind fun v => (tyOf (x.extractLsb' 10 5).toNat).bind fun tn =>
      req (b == 0 && x.extractLsb' 20 12 == 0 && x.extractLsb' 0 10 == 0) (.vpack tn v)
  | 0xAF => (v2 d a q x).bind fun v => (tyOf (x.extractLsb' 10 5).toNat).bind fun tn =>
      req (b == 0 && x.extractLsb' 20 12 == 0 && x.extractLsb' 0 10 == 0) (.vunpk tn v)
  | _ => none

/-- Opcodes 0xB0-0xBF (R391, R399, R400, R402-R404). -/
def decodeVB (op : Nat) (d a b : Reg) (q : BitVec 4) (x : BitVec 32) : Option Instr :=
  match op with
  | 0xB0 => (v2 d a q x).bind fun v => req (v2X b x) (.vrsum v)
  | 0xB1 => (v2 d a q x).bind fun v => req (v2X b x) (.vrmax v)
  | 0xB2 => (v2 d a q x).bind fun v => req (v2X b x) (.vrmin v)
  | 0xB3 => (v2 d a q x).bind fun v => req (x.extractLsb' 20 12 == 0) (.vsldu (x.getLsbD 0) (x.extractLsb' 1 14) b v)
  | 0xB4 => (v2 d a q x).bind fun v => req (x.extractLsb' 20 12 == 0) (.vsldd (x.getLsbD 0) (x.extractLsb' 1 14) b v)
  | 0xB5 => (v2 d a q x).bind fun v => req (x.extractLsb' 20 12 == 0 && xExt x == 0) (.vprm b v)
  | 0xB6 => (v2 d a q x).bind fun v => req (v2X b x) (.viota v)
  | 0xB7 => req (b == 0 && x == 0) (.mpop d a q)
  | 0xB8 => req (b == 0 && x == 0) (.mfst d a q)
  | 0xB9 => req (q == 0 && xC x == 0 && x.extractLsb' 23 3 == 0 && x.extractLsb' 0 20 == 0) (.mlog (x.extractLsb' 20 3) d a b)
  | 0xBC => req (x.extractLsb' 20 12 == 0 && x.extractLsb' 15 5 == 9 && x.extractLsb' 2 13 == 0 && x.extractLsb' 0 1 == 0)
      (.vargmx (x.getLsbD 1) d a b q)
  | 0xBD => req (x.extractLsb' 20 12 == 0 && x.extractLsb' 15 5 == 9 && x.extractLsb' 2 6 == 0 && x.extractLsb' 0 1 == 0)
      (.vtopk (x.getLsbD 1) (x.extractLsb' 8 7) d a b q)
  | 0xBE => (v2 d a q x).bind fun v =>
      req (b == 0 && x.extractLsb' 21 5 == 0 && x.extractLsb' 2 13 == 0 && x.extractLsb' 0 1 == 0)
        (.vsort (x.getLsbD 20) (x.getLsbD 1) (xC x) v)
  | 0xBF => (v2 d a q x).bind fun v =>
      req (xC x == 0 && x.extractLsb' 21 5 == 0 && xExt x == 0) (.vsrch (x.getLsbD 20) b v)
  | _ => none

/-- The data operand of a vector memory word: type from the memory class (R405). -/
def vm (d a : Reg) (q : BitVec 4) (x : BitVec 32) : Option V2 := (xMty x).map fun t => ⟨d, a, q, t⟩

/-- Opcodes 0xC0-0xCD (R405, R414-R416). -/
def decodeVC (op : Nat) (d a b : Reg) (q : BitVec 4) (x : BitVec 32) : Option Instr :=
  match op with
  | 0xC0 => (vm d a q x).bind fun v =>
      if b == 1 then req (x.extractLsb' 0 7 == 0) (.vldC v (xOff x)) else req (b == 0) (.vld v (xOff x) (xMem x))
  | 0xC1 => (vm d a q x).bind fun v => some (.vlds b v (xOff x) (xMem x))
  | 0xC2 => (vm d a q x).bind fun v => req (xOff x == 0) (.vldx b v (xMem x))
  | 0xC3 => (vm d a q x).bind fun v => req (b == 0) (.vst v (xOff x) (xMem x))
  | 0xC4 => (vm d a q x).bind fun v => some (.vsts b v (xOff x) (xMem x))
  | 0xC5 => (vm d a q x).bind fun v => req (xOff x == 0) (.vstx b v (xMem x))
  | 0xC6 => (vm d a q x).bind fun v => req (xOff x == 0) (.vlsh b v (xMem x))
  | 0xC7 => (vm d a q x).bind fun v => req (xOff x == 0) (.vssh b v (xMem x))
  | 0xC8 => (vm d a q x).bind fun v => (amoOf (x.extractLsb' 12 6).toNat).bind fun o =>
      req (x.extractLsb' 18 14 == 0) (.vamo o b v (xMem x))
  | 0xC9 => req (q == 0 && b == 0 && x.extractLsb' 0 12 == 0) (.vldm d a (xOff x))
  | 0xCA => req (q == 0 && b == 0 && x.extractLsb' 0 12 == 0) (.vstm d a (xOff x))
  | 0xCB => (v2 d a q x).bind fun v => req (v2X b x) (.vcprs v)
  | 0xCC => (v2 d a q x).bind fun v => req (v2X b x) (.vexpd v)
  | 0xCD => (xTy x).bind fun t => req (q == 0 && x.extractLsb' 20 12 == 0 && x.extractLsb' 1 14 == 0) (.vmvh (x.getLsbD 0) d a b t)
  | _ => none

/-- Opcodes 0xD0-0xD6 (R417-R426). -/
def decodeVD (op : Nat) (d a b : Reg) (q : BitVec 4) (x : BitVec 32) : Option Instr :=
  match op with
  | 0xD0 => req (q == 0 && d == 0 && b == 0 && x.extractLsb' 12 3 == 0 && x.extractLsb' 1 2 == 0)
      (.loop (x.extractLsb' 0 1) (x.getLsbD 15) a (x.extractLsb' 16 16) (x.extractLsb' 3 9))
  | 0xD1 => req (q == 0 && d == 0 && x.extractLsb' 12 11 == 0 && x.extractLsb' 1 2 == 0)
      (.sloop (x.extractLsb' 0 1) a b (x.extractLsb' 29 3) (x.extractLsb' 23 6) (x.extractLsb' 3 9))
  | 0xD2 => req (q == 0 && d == 0 && b == 0 && x.extractLsb' 2 30 == 0) (.lpbrk (x.extractLsb' 0 1) (x.getLsbD 1) a)
  | 0xD4 => req (q == 0 && d == 0 && b == 0 && x == 0) (.vrpt a)
  | 0xD5 => req (q == 0 && d == 0 && a == 0 && b == 0 && x == 0) .vend
  | 0xD6 => req (q == 0 && d == 0 && a == 0 && b == 0 && x.extractLsb' 8 24 == 0) (.vbars (x.extractLsb' 0 8))
  | _ => none

/-- Opcodes 0xE0-0xED: matrix and wain (R427-R434). -/
def decodeEng (op : Nat) (d a b : Reg) (q : BitVec 4) (x : BitVec 32) : Option Instr :=
  match op with
  | 0xE0 => req (q == 0 && d == 0 && x == 0) (.mcfg a b)
  | 0xE1 => req (q == 0 && x.extractLsb' 4 1 == 0)
      (.mma ⟨d, a, b, xC x, x.extractLsb' 16 10, x.extractLsb' 11 5, x.extractLsb' 8 3, x.extractLsb' 5 3, x.extractLsb' 0 4⟩)
  | 0xE2 => req (q == 0 && x.extractLsb' 19 7 == 0 && x.extractLsb' 11 5 == 0 && x.extractLsb' 4 1 == 0)
      (.mdrn ⟨d, a, b, xC x, x.extractLsb' 16 3, x.extractLsb' 8 3, x.extractLsb' 5 3, x.extractLsb' 0 4⟩)
  | 0xE3 => req (q == 0 && a == 0 && b == 0 && x.extractLsb' 11 21 == 0)
      (.mzro d (x.extractLsb' 8 3) (x.extractLsb' 5 3) (x.getLsbD 4) (x.extractLsb' 0 4))
  | 0xE4 => req (q == 0 && d == 0 && a == 0 && b == 0 && x == 0) .mrpg
  | 0xE8 => req (q == 0 && d == 0 && b == 0 && x.extractLsb' 4 28 == 0) (.wcpy a (x.extractLsb' 0 4))
  | 0xE9 => req (q == 0 && d == 0 && b == 0 && x.extractLsb' 4 28 == 0) (.wgth a (x.extractLsb' 0 4))
  | 0xEA => req (q == 0 && d == 0 && b == 0 && x.extractLsb' 4 28 == 0) (.wsct a (x.extractLsb' 0 4))
  | 0xEB => req (q == 0 && d == 0 && b == 0 && x.extractLsb' 4 28 == 0) (.wfil a (x.extractLsb' 0 4))
  | 0xEC => req (q == 0 && d == 0 && b == 0 && x.extractLsb' 4 28 == 0) (.wxfm a (x.extractLsb' 0 4))
  | 0xED => req (q == 0 && d == 0 && b == 0 && x == 0) (.wapr a)
  | _ => none

/-- Opcodes 0xF0-0xFE: statex and collectives (R437-R445). -/
def decodeCol (op : Nat) (d a b : Reg) (q : BitVec 4) (x : BitVec 32) : Option Instr :=
  match op with
  | 0xF0 => req (q == 0 && b == 0 && x.extractLsb' 1 11 == 0) (.sxini d a (x.getLsbD 0) (xOff x))
  | 0xF1 => (xTy x).bind fun t => req (b == 0 && x.extractLsb' 20 4 == 0 && x.extractLsb' 10 5 == 0)
      (.sxupd d a q (xC x) (x.extractLsb' 24 2) t (x.extractLsb' 0 10))
  | 0xF2 => req (q == 0 && b == 0 && x.extractLsb' 1 11 == 0) (.sxmrg d a (x.getLsbD 0) (xOff x))
  | 0xF3 => req (q == 0 && x.extractLsb' 15 16 == 0) (.sxqry d a b (x.getLsbD 31) (x.extractLsb' 10 5) (x.extractLsb' 0 10))
  | 0xF4 => req (q == 0 && b == 0 && x.extractLsb' 0 12 == 0) (.sxld d a (xOff x))
  | 0xF5 => req (q == 0 && b == 0 && x.extractLsb' 1 11 == 0) (if x.getLsbD 0 then .sxstMrg d a (xOff x) else .sxst d a (xOff x))
  | 0xF6 => req (q == 0 && a == 0 && b == 0 && x == 0) (.sxclr d)
  | 0xF7 => req (q == 0 && b == 0 && x == 0) (.sxtyp d a)
  | 0xF8 => req (q == 0 && b == 0 && x == 0) (.plan d a)
  | 0xF9 => req (q == 0 && d == 0 && b == 0 && x == 0) (.plfree a)
  | 0xFA => req (q == 0 && d == 0 && x == 0) (.crdy a b)
  | 0xFB => req (q == 0 && d == 0 && b == 0 && x == 0) (.cfire a)
  | 0xFC => (tyOf (x.extractLsb' 19 5).toNat).bind fun dt => (tyOf (x.extractLsb' 14 5).toNat).bind fun st =>
      req (q == 0 && x.extractLsb' 12 2 == 0) (.mldr d a b (xC x) (x.extractLsb' 24 2) dt st (x.extractLsb' 0 12))
  | 0xFD => (tyOf (x.extractLsb' 21 5).toNat).bind fun t =>
      req (q == 0 && d == 0 && x.extractLsb' 12 4 == 0)
        (.mstb a b (xC x) t (x.getLsbD 20) (x.extractLsb' 16 4) (x.extractLsb' 0 12))
  | 0xFE => req (q == 0 && b == 0 && x.extractLsb' 1 31 == 0) (if x.getLsbD 0 then .agsetSh d a else .agset d a)
  | _ => none

/-- The F format, row by row of R342. -/
def decodeF (op : Nat) (d a b : Reg) (q : BitVec 4) (x : BitVec 32) : Option Instr :=
  match op / 16 with
  | 0 => decodeInt op d a b q x
  | 1 => decodeInt1 op d a b q x
  | 2 => decodeImm op d a b q x
  | 3 => decodeImm op d a b q x
  | 4 => decodeFp op d a b q x
  | 5 => decodeCtl op d a b q x
  | 6 => decodeTl op d a b q x
  | 7 => decodeSys op d a b q x
  | 8 => decodeV8 op d a b q x
  | 9 => decodeV9 op d a b q x
  | 10 => decodeVA op d a b q x
  | 11 => decodeVB op d a b q x
  | 12 => decodeVC op d a b q x
  | 13 => decodeVD op d a b q x
  | 14 => decodeEng op d a b q x
  | 15 => decodeCol op d a b q x
  | _ => none

/-- The L format (R328). -/
def decodeL (op : Nat) (d : Reg) (imm : BitVec 48) : Option Instr :=
  match op with
  | 0x1B => some (.li d imm)
  | 0x1D => some (.addpc d imm)
  | 0x51 => req (d == 0) (.j imm)
  | 0x52 => some (.jl d imm)
  | _ => none

/-- One slot of a D word (R329, R330): none for a reserved op6 or a nonzero unused field. -/
def decodeSlot (s : BitVec 31) : Option Slot :=
  let op := (s.extractLsb' 25 6).toNat
  let d : Reg := s.extractLsb' 19 6
  let a : Reg := s.extractLsb' 13 6
  let b : Reg := s.extractLsb' 7 6
  let imm : BitVec 13 := s.extractLsb' 0 13
  let z : Bool := s.extractLsb' 0 7 == 0
  match slotAluOf op with
  | some o => if z then some (.alu o d a b) else none
  | none =>
    match slotVecOf op with
    | some o => if z then some (.vec o d a b) else none
    | none =>
      match slotCondOf op with
      | some c => some (.br c d a imm)
      | none =>
        match op with
        | 0x0A => some (.addI13 d a imm)
        | 0x0B => if a == 0 then some (.li13 d imm) else none
        | 0x0C => some (.ldD d a imm)
        | 0x0D => some (.stD d a imm)
        | 0x0E => some (.ldW d a imm)
        | 0x0F => some (.stW d a imm)
        | 0x15 => if imm == 0 then some (.vmv d a) else none
        | 0x16 => if d == 0 && a == 0 && imm == 0 then some .nop else none
        | _ => none

/-- The two slots of a D word. -/
def slotBitsA (w : Word) : BitVec 31 := w.extractLsb' 31 31
def slotBitsB (w : Word) : BitVec 31 := w.extractLsb' 0 31

/-- A word's fields as an instruction, before the checks of `Instr.wf`. -/
def decodeRaw (w : Word) : Option Instr :=
  match (wTag w).toNat with
  | 0 => decodeF (wOp w) (wD w) (wA w) (wB w) (wQ w) (wX w)
  | 1 => (decodeSlot (slotBitsA w)).bind fun sa => (decodeSlot (slotBitsB w)).map fun sb => .dualWord sa sb
  | 2 => decodeL (wOp w) (wD w) (wImm w)
  | _ => none

/-- The instruction a word encodes; none for every pattern of R344 but the wrong context. -/
def decode (w : Word) : Option Instr := (decodeRaw w).bind fun i => req i.wf i

/-- Where an opcode runs (R343, with the wain core's set of R297): reeve, sheaf, wain routine. -/
structure Runs where
  reeve : Bool
  sheaf : Bool
  wain : Bool
  deriving DecidableEq, Repr

/-- Is an opcode assigned in the F format (R342, R328)? -/
def opAssigned (op : Nat) : Bool :=
  decide (op ≤ 0x1A) || op == 0x1C || (decide (0x20 ≤ op) && decide (op ≤ 0x33)) || (decide (0x37 ≤ op) && decide (op ≤ 0x39)) ||
  (decide (0x40 ≤ op) && decide (op ≤ 0x49)) || op == 0x50 || (decide (0x53 ≤ op) && decide (op ≤ 0x55)) ||
  (decide (0x58 ≤ op) && decide (op ≤ 0x5D)) || (decide (0x60 ≤ op) && decide (op ≤ 0x69)) ||
  (decide (0x70 ≤ op) && decide (op ≤ 0x77)) || op == 0x7A || op == 0x7B || (decide (0x80 ≤ op) && decide (op ≤ 0x95)) ||
  (decide (0x98 ≤ op) && decide (op ≤ 0xA4)) || (decide (0xA8 ≤ op) && decide (op ≤ 0xB9)) ||
  (decide (0xBC ≤ op) && decide (op ≤ 0xCD)) || (decide (0xD0 ≤ op) && decide (op ≤ 0xD2)) ||
  (decide (0xD4 ≤ op) && decide (op ≤ 0xD6)) || (decide (0xE0 ≤ op) && decide (op ≤ 0xE4)) ||
  (decide (0xE8 ≤ op) && decide (op ≤ 0xED)) || (decide (0xF0 ≤ op) && decide (op ≤ 0xFE))

/-- The vector opcodes of a wain routine (R297). -/
def wainVec (op : Nat) : Bool :=
  (decide (0x80 ≤ op) && decide (op ≤ 0x92) && op != 0x93) || (decide (0x98 ≤ op) && decide (op ≤ 0x9D)) ||
  (decide (0xA8 ≤ op) && decide (op ≤ 0xAA)) || op == 0xAE || op == 0xAF || op == 0xC0 || op == 0xC1 || op == 0xC3 || op == 0xC4

/-- The contexts of a major opcode (R343, R297). -/
def opRuns (op : Nat) : Runs :=
  if op < 0x40 then ⟨true, true, true⟩
  else if op < 0x50 then ⟨true, false, false⟩
  else if op ≤ 0x53 then ⟨true, false, true⟩
  else if op ≤ 0x55 then ⟨true, false, false⟩
  else if op ≤ 0x5C then ⟨true, true, true⟩
  else if op == 0x5D then ⟨true, false, false⟩
  else if op == 0x60 || op == 0x67 then ⟨true, true, false⟩
  else if op == 0x61 || op == 0x76 then ⟨true, true, true⟩
  else if op == 0x62 || op == 0x74 then ⟨true, false, true⟩
  else if op < 0x80 then ⟨true, false, false⟩
  else if op ≤ 0xD6 then ⟨false, true, wainVec op⟩
  else if op == 0xF1 then ⟨false, true, false⟩
  else if 0xF0 ≤ op && op ≤ 0xF7 then ⟨true, true, false⟩
  else ⟨true, false, false⟩

/-- The contexts of a slot's op6 (R343, R297). -/
def slotRuns (op6 : Nat) : Runs :=
  if op6 ≤ 0x0F || op6 == 0x16 then ⟨true, true, true⟩
  else if op6 ≤ 0x14 then ⟨false, true, true⟩
  else if op6 == 0x15 then ⟨false, true, false⟩
  else ⟨true, false, true⟩

/-- The op6 code of a slot (R330). -/
def slotOp : Slot → Nat
  | .alu o _ _ _ => slotAluCode o
  | .addI13 .. => 0x0A
  | .li13 .. => 0x0B
  | .ldD .. => 0x0C
  | .stD .. => 0x0D
  | .ldW .. => 0x0E
  | .stW .. => 0x0F
  | .vec o _ _ _ => slotVecCode o
  | .vmv .. => 0x15
  | .nop => 0x16
  | .br c _ _ _ => slotCondCode c

/-- Opcodes that only keeper mode may run (R368). -/
def opKeeper (op : Nat) : Bool := op == 0x73 || op == 0x75 || op == 0x7A || op == 0x7B

/-- System registers without access in task mode (R337): FT_PRIV at step 3. -/
def sysKeeper (num : BitVec 6) : Bool :=
  num == 0 || num == 1 || num == 4 || num == 5 || (decide (9 ≤ num.toNat) && decide (num.toNat ≤ 13))

/-! ### The encoder -/

/-- An F word (R324). -/
def mkF (op : BitVec 8) (d a b : Reg) (q : BitVec 4) (x : BitVec 32) : Word := 0#2 ++ op ++ d ++ a ++ b ++ q ++ x
/-- An L word (R328). -/
def mkL (op : BitVec 8) (d : Reg) (imm : BitVec 48) : Word := 2#2 ++ op ++ d ++ imm
/-- The type code as a field (R341). -/
def tyB (t : Ty) : BitVec 5 := BitVec.ofNat 5 (tyCode t)
/-- x of the register class. -/
def mkR (c : Reg) (fn : Nat) (t : Ty) (ext : BitVec 15) : BitVec 32 := c ++ BitVec.ofNat 6 fn ++ tyB t ++ ext
/-- x of the memory class. -/
def mkM (off : BitVec 20) (t : BitVec 5) (m : MemQ) : BitVec 32 := off ++ t ++ m.scope ++ m.ack ++ m.ord
/-- No qualifiers. -/
def memPlain : MemQ := ⟨0, 0, 0⟩
/-- The scalar-form bit as ext. -/
def scB (s : Bool) : BitVec 15 := if s then 1 else 0
/-- A flag as a bit. -/
def bit1 (b : Bool) : BitVec 1 := BitVec.ofBool b
/-- A two-source vector word. -/
def encV3 (op : BitVec 8) (c : Reg) (fn : Nat) (x : V3) : Word := mkF op x.d x.a x.b x.q (mkR c fn x.ty (scB x.sc))
/-- A one-source vector word. -/
def encV2 (op : BitVec 8) (b c : Reg) (fn : Nat) (ext : BitVec 15) (x : V2) : Word := mkF op x.d x.a b x.q (mkR c fn x.ty ext)
/-- A vector memory word. -/
def encVM (op : BitVec 8) (b : Reg) (off : BitVec 20) (m : MemQ) (x : V2) : Word := mkF op x.d x.a b x.q (mkM off (tyB x.ty) m)
/-- The sheaf field of the dispatch words (R361). -/
def encN (k : BitVec 3) (n : BitVec 4) : BitVec 32 := 0#25 ++ k ++ n
/-- A wain command's x (R434). -/
def encTl (tl : BitVec 4) : BitVec 32 := 0#28 ++ tl
/-- A system register's x (R368). -/
def encSys (k : BitVec 3) (num : BitVec 6) : BitVec 32 := 0#23 ++ k ++ num

/-- One slot's bits (R329, R330). -/
def encodeSlot : Slot → BitVec 31
  | .alu o d a b => BitVec.ofNat 6 (slotAluCode o) ++ d ++ a ++ b ++ 0#7
  | .addI13 d a i => 0x0A#6 ++ d ++ a ++ i
  | .li13 d i => 0x0B#6 ++ d ++ 0#6 ++ i
  | .ldD d a i => 0x0C#6 ++ d ++ a ++ i
  | .stD d a i => 0x0D#6 ++ d ++ a ++ i
  | .ldW d a i => 0x0E#6 ++ d ++ a ++ i
  | .stW d a i => 0x0F#6 ++ d ++ a ++ i
  | .vec o d a b => BitVec.ofNat 6 (slotVecCode o) ++ d ++ a ++ b ++ 0#7
  | .vmv d a => 0x15#6 ++ d ++ a ++ 0#13
  | .nop => 0x16#6 ++ 0#25
  | .br c d a i => BitVec.ofNat 6 (slotCondCode c) ++ d ++ a ++ i

/-- The word of an instruction; events have none and answer 0. -/
def encode : Instr → Word
  | .add d a b => mkF 0x00 d a b 0 0
  | .sub d a b => mkF 0x01 d a b 0 0
  | .mul d a b => mkF 0x02 d a b 0 0
  | .mulh d a b => mkF 0x03 d a b 0 0
  | .mulhn d a b => mkF 0x04 d a b 0 0
  | .div d a b => mkF 0x05 d a b 0 0
  | .divn d a b => mkF 0x06 d a b 0 0
  | .rem d a b => mkF 0x07 d a b 0 0
  | .remn d a b => mkF 0x08 d a b 0 0
  | .and d a b => mkF 0x09 d a b 0 0
  | .or d a b => mkF 0x0A d a b 0 0
  | .xor d a b => mkF 0x0B d a b 0 0
  | .andn d a b => mkF 0x0C d a b 0 0
  | .shl d a b => mkF 0x0D d a b 0 0
  | .shr d a b => mkF 0x0E d a b 0 0
  | .sra d a b => mkF 0x0F d a b 0 0
  | .min d a b => mkF 0x10 d a b 0 0
  | .max d a b => mkF 0x11 d a b 0 0
  | .minn d a b => mkF 0x12 d a b 0 0
  | .maxn d a b => mkF 0x13 d a b 0 0
  | .clz d a => mkF 0x14 d a 0 0 0
  | .ctz d a => mkF 0x15 d a 0 0 0
  | .popc d a => mkF 0x16 d a 0 0 0
  | .sext d a b => mkF 0x17 d a b 0 0
  | .zext d a b => mkF 0x18 d a b 0 0
  | .setc c d a b => mkF 0x19 d a b 0 (mkR 0 (condCode c) .i8 0)
  | .csel d a b c => mkF 0x1A d a b 0 (mkR c 0 .i8 0)
  | .addI d a i => mkF 0x20 d a 0 0 i
  | .subI d a i => mkF 0x21 d a 0 0 i
  | .mulI d a i => mkF 0x22 d a 0 0 i
  | .mulhI d a i => mkF 0x23 d a 0 0 i
  | .mulhnI d a i => mkF 0x24 d a 0 0 i
  | .divI d a i => mkF 0x25 d a 0 0 i
  | .divnI d a i => mkF 0x26 d a 0 0 i
  | .remI d a i => mkF 0x27 d a 0 0 i
  | .remnI d a i => mkF 0x28 d a 0 0 i
  | .andI d a i => mkF 0x29 d a 0 0 i
  | .orI d a i => mkF 0x2A d a 0 0 i
  | .xorI d a i => mkF 0x2B d a 0 0 i
  | .andnI d a i => mkF 0x2C d a 0 0 i
  | .shlI d a i => mkF 0x2D d a 0 0 i
  | .shrI d a i => mkF 0x2E d a 0 0 i
  | .sraI d a i => mkF 0x2F d a 0 0 i
  | .minI d a i => mkF 0x30 d a 0 0 i
  | .maxI d a i => mkF 0x31 d a 0 0 i
  | .minnI d a i => mkF 0x32 d a 0 0 i
  | .maxnI d a i => mkF 0x33 d a 0 0 i
  | .sextI d a i => mkF 0x37 d a 0 0 i
  | .zextI d a i => mkF 0x38 d a 0 0 i
  | .setcI c d a i => mkF 0x39 d a (BitVec.ofNat 6 (condCode c)) 0 i
  | .li d i => mkL 0x1B d i
  | .lih d a i => mkF 0x1C d a 0 0 i
  | .addpc d i => mkL 0x1D d i
  | .fadd t d a b => mkF 0x40 d a b 0 (mkR 0 0 t 0)
  | .fsub t d a b => mkF 0x41 d a b 0 (mkR 0 0 t 0)
  | .fmul t d a b => mkF 0x42 d a b 0 (mkR 0 0 t 0)
  | .fma t d a b c => mkF 0x43 d a b 0 (mkR c 0 t 0)
  | .fdiv t d a b => mkF 0x44 d a b 0 (mkR 0 0 t 0)
  | .fsqrt t d a => mkF 0x45 d a 0 0 (mkR 0 0 t 0)
  | .fmin t d a b => mkF 0x46 d a b 0 (mkR 0 0 t 0)
  | .fmax t d a b => mkF 0x47 d a b 0 (mkR 0 0 t 0)
  | .fcmp c t d a b => mkF 0x48 d a b 0 (mkR 0 (fcondCode c) t 0)
  | .fcvt td ts rm ov d a =>
    mkF 0x49 d a 0 0 (mkR 0 0 td (tyB ts ++ BitVec.ofNat 3 (rmCode rm) ++ BitVec.ofNat 2 (ovfCode ov) ++ 0#5))
  | .bc c a b o => mkF 0x50 0 a b (BitVec.ofNat 4 (condCode c)) o
  | .j o => mkL 0x51 0 o
  | .jl d o => mkL 0x52 d o
  | .jr d a o => mkF 0x53 d a 0 0 o
  | .gate i => mkF 0x54 0 0 0 0 (0#16 ++ i)
  | .gret => mkF 0x55 0 0 0 0 0
  | .ld t d a o m => mkF 0x58 d a 0 0 (mkM o (tyB t) m)
  | .st t d a o m => mkF 0x59 d a 0 0 (mkM o (tyB t) m)
  | .amo op t d a o m => mkF 0x5A d a (BitVec.ofNat 6 (amoCode op)) 0 (mkM o (tyB t) m)
  | .cas t d a b o m => mkF 0x5B d a b 0 (mkM o (tyB t) m)
  | .fence m => mkF 0x5C 0 0 0 0 (mkM 0 0 m)
  | .vfence sr n => mkF 0x5D 0 0 0 0 (0#27 ++ bit1 sr ++ 0#1 ++ n)
  | .tlwait a n i => mkF 0x60 0 a (0#2 ++ n) 0 (i ++ 0#8)
  | .tlrd d n => mkF 0x61 d 0 (0#2 ++ n) 0 0
  | .tladv a n i sc => mkF 0x62 0 a (0#2 ++ n) 0 (i ++ 0#1 ++ sc ++ 0#4)
  | .vblk a b k n => mkF 0x63 0 a b 0 (encN k n)
  | .vrpl d k => mkF 0x64 d 0 0 0 (encN k 0)
  | .vjoin k => mkF 0x65 0 0 0 0 (encN k 0)
  | .lpart n => mkF 0x66 0 0 0 0 (0#30 ++ n)
  | .bar => mkF 0x67 0 0 0 0 0
  | .barSeal => mkF 0x67 0 0 0 0 1
  | .wfe a => mkF 0x68 0 a 0 0 0
  | .yield => mkF 0x69 0 0 0 0 0
  | .sysrd d k n => mkF 0x70 d 0 0 0 (encSys k n)
  | .syswr a k n => mkF 0x71 0 a 0 0 (encSys k n)
  | .trap i => mkF 0x72 0 0 0 0 (0#16 ++ i)
  | .eret => mkF 0x73 0 0 0 0 0
  | .endTask => mkF 0x74 0 0 0 0 0
  | .tlbinvPg a b => mkF 0x75 0 a b 0 0
  | .tlbinvAs b => mkF 0x75 0 0 b 0 1
  | .tlbinvAll => mkF 0x75 0 0 0 0 2
  | .nop => mkF 0x76 0 0 0 0 0
  | .brk => mkF 0x77 0 0 0 0 0
  | .shset a b => mkF 0x7A 0 a b 0 0
  | .shgen d a b => mkF 0x7B d a b 0 0
  | .dualWord sa sb => 1#2 ++ encodeSlot sa ++ encodeSlot sb
  | .vsetvl d a => mkF 0x80 d a 0 0 0
  | .vsett r a im => mkF 0x81 0 a 0 0 (bit1 r ++ 0#11 ++ im)
  | .vadd x => encV3 0x82 0 0 x
  | .vsub x => encV3 0x83 0 0 x
  | .vmul x => encV3 0x84 0 0 x
  | .vmulh x => encV3 0x85 0 0 x
  | .vmac x => encV3 0x86 0 0 x
  | .vmin x => encV3 0x87 0 0 x
  | .vmax x => encV3 0x88 0 0 x
  | .vand x => encV3 0x89 0 0 x
  | .vor x => encV3 0x8A 0 0 x
  | .vxor x => encV3 0x8B 0 0 x
  | .vshl x => encV3 0x8C 0 0 x
  | .vshr x => encV3 0x8D 0 0 x
  | .vsra x => encV3 0x8E 0 0 x
  | .vabs x => encV2 0x8F 0 0 0 0 x
  | .vsadd s x => encV3 0x90 0 (if s then 1 else 0) x
  | .vcmp c x => encV3 0x91 0 (vcondCode c) x
  | .vsel x => encV3 0x92 0 0 x
  | .vwmul t x => mkF 0x93 x.d x.a x.b x.q (mkR 0 0 x.ty (tyB t ++ 0#9 ++ bit1 x.sc))
  | .vwmac t x => mkF 0x94 x.d x.a x.b x.q (mkR 0 0 x.ty (tyB t ++ 0#9 ++ bit1 x.sc))
  | .vmv x => encV3 0x95 0 0 x
  | .vfadd x => encV3 0x98 0 0 x
  | .vfsub x => encV3 0x99 0 0 x
  | .vfmul x => encV3 0x9A 0 0 x
  | .vfma x c => encV3 0x9B c 0 x
  | .vfmin x => encV3 0x9C 0 0 x
  | .vfmax x => encV3 0x9D 0 0 x
  | .vfdiv x => encV3 0x9E 0 0 x
  | .vfsqrt x => encV2 0x9F 0 0 0 0 x
  | .vfrsq x => encV2 0xA0 0 0 0 0 x
  | .vfexp2 x => encV2 0xA1 0 0 0 0 x
  | .vflog2 x => encV2 0xA2 0 0 0 0 x
  | .vfcmp c x => encV3 0xA3 0 (fcondCode c) x
  | .vfcls x => encV2 0xA4 0 0 0 0 x
  | .vcvt td rm ov x => encV2 0xA8 0 0 0 (tyB td ++ BitVec.ofNat 3 (rmCode rm) ++ BitVec.ofNat 2 (ovfCode ov) ++ 0#5) x
  | .vbq tq s x => encV2 0xA9 0 s tq.toNat 0 x
  | .vbdq tq s x => encV2 0xAA s 0 tq.toNat 0 x
  | .ve8q ts s cnt n x => encV2 0xAB s n 0 (tyB ts ++ 0#9 ++ bit1 cnt) x
  | .ve8d td s x => encV2 0xAC s 0 0 (tyB td ++ 0#10) x
  | .vscac pf d p a b => mkF 0xAD d p a 0 (mkR b (if pf then 1 else 0) .i8 0)
  | .vpack tn x => encV2 0xAE 0 0 0 (tyB tn ++ 0#10) x
  | .vunpk tn x => encV2 0xAF 0 0 0 (tyB tn ++ 0#10) x
  | .vrsum x => encV2 0xB0 0 0 0 0 x
  | .vrmax x => encV2 0xB1 0 0 0 0 x
  | .vrmin x => encV2 0xB2 0 0 0 0 x
  | .vsldu i im b x => encV2 0xB3 b 0 0 (im ++ bit1 i) x
  | .vsldd i im b x => encV2 0xB4 b 0 0 (im ++ bit1 i) x
  | .vprm b x => encV2 0xB5 b 0 0 0 x
  | .viota x => encV2 0xB6 0 0 0 0 x
  | .mpop d a q => mkF 0xB7 d a 0 q 0
  | .mfst d a q => mkF 0xB8 d a 0 q 0
  | .mlog op d a b => mkF 0xB9 d a b 0 (mkR 0 op.toNat .i8 0)
  | .vargmx n d a b q => mkF 0xBC d a b q (mkR 0 0 .f32 (0#13 ++ bit1 n ++ 0#1))
  | .vtopk n k d a b q => mkF 0xBD d a b q (mkR 0 0 .f32 (k ++ 0#6 ++ bit1 n ++ 0#1))
  | .vsort ds ix c x => encV2 0xBE 0 c (if ds then 1 else 0) (0#13 ++ bit1 ix ++ 0#1) x
  | .vsrch le b x => encV2 0xBF b 0 (if le then 1 else 0) 0 x
  | .vld x o m => encVM 0xC0 0 o m x
  | .vldC x o => encVM 0xC0 1 o memPlain x
  | .vlds b x o m => encVM 0xC1 b o m x
  | .vldx b x m => encVM 0xC2 b 0 m x
  | .vst x o m => encVM 0xC3 0 o m x
  | .vsts b x o m => encVM 0xC4 b o m x
  | .vstx b x m => encVM 0xC5 b 0 m x
  | .vlsh b x m => encVM 0xC6 b 0 m x
  | .vssh b x m => encVM 0xC7 b 0 m x
  | .vamo op b x m => encVM 0xC8 b (BitVec.ofNat 20 (amoCode op)) m x
  | .vldm d a o => mkF 0xC9 d a 0 0 (o ++ 0#12)
  | .vstm d a o => mkF 0xCA d a 0 0 (o ++ 0#12)
  | .vcprs x => encV2 0xCB 0 0 0 0 x
  | .vexpd x => encV2 0xCC 0 0 0 0 x
  | .vmvh i d a b t => mkF 0xCD d a b 0 (mkR 0 0 t (scB i))
  | .loop lp i a im off => mkF 0xD0 0 a 0 0 (im ++ bit1 i ++ 0#3 ++ off ++ 0#2 ++ lp)
  | .sloop lp a b s w off => mkF 0xD1 0 a b 0 (s ++ w ++ 0#11 ++ off ++ 0#2 ++ lp)
  | .lpbrk lp u a => mkF 0xD2 0 a 0 0 (0#30 ++ bit1 u ++ lp)
  | .vrpt a => mkF 0xD4 0 a 0 0 0
  | .vend => mkF 0xD5 0 0 0 0 0
  | .vbars m => mkF 0xD6 0 0 0 0 (0#24 ++ m)
  | .mcfg a b => mkF 0xE0 0 a b 0 0
  | .mma x => mkF 0xE1 x.d x.a x.b 0 (x.c ++ x.kx ++ x.pair ++ x.sn ++ x.sm ++ 0#1 ++ x.tl)
  | .mdrn x => mkF 0xE2 x.d x.a x.b 0 (x.c ++ 0#7 ++ x.fmt ++ 0#5 ++ x.sn ++ x.sm ++ 0#1 ++ x.tl)
  | .mzro d sn sm t tl => mkF 0xE3 d 0 0 0 (0#21 ++ sn ++ sm ++ bit1 t ++ tl)
  | .mrpg => mkF 0xE4 0 0 0 0 0
  | .wcpy a tl => mkF 0xE8 0 a 0 0 (encTl tl)
  | .wgth a tl => mkF 0xE9 0 a 0 0 (encTl tl)
  | .wsct a tl => mkF 0xEA 0 a 0 0 (encTl tl)
  | .wfil a tl => mkF 0xEB 0 a 0 0 (encTl tl)
  | .wxfm a tl => mkF 0xEC 0 a 0 0 (encTl tl)
  | .wapr a => mkF 0xED 0 a 0 0 0
  | .sxini n a m o => mkF 0xF0 n a 0 0 (o ++ 0#11 ++ bit1 m)
  | .sxupd n a q c f t cell => mkF 0xF1 n a 0 q (c ++ f ++ 0#4 ++ tyB t ++ 0#5 ++ cell)
  | .sxmrg n a m o => mkF 0xF2 n a 0 0 (o ++ 0#11 ++ bit1 m)
  | .sxqry d n b rg k cell => mkF 0xF3 d n b 0 (bit1 rg ++ 0#16 ++ k ++ cell)
  | .sxld n a o => mkF 0xF4 n a 0 0 (o ++ 0#12)
  | .sxst n a o => mkF 0xF5 n a 0 0 (o ++ 0#12)
  | .sxstMrg n a o => mkF 0xF5 n a 0 0 (o ++ 1#12)
  | .sxclr n => mkF 0xF6 n 0 0 0 0
  | .sxtyp d n => mkF 0xF7 d n 0 0 0
  | .plan d a => mkF 0xF8 d a 0 0 0
  | .plfree a => mkF 0xF9 0 a 0 0 0
  | .crdy a b => mkF 0xFA 0 a b 0 0
  | .cfire a => mkF 0xFB 0 a 0 0 0
  | .mldr d a b c op dt st ne => mkF 0xFC d a b 0 (c ++ op ++ tyB dt ++ tyB st ++ 0#2 ++ ne)
  | .mstb a b c t tle tl ne => mkF 0xFD 0 a b 0 (c ++ tyB t ++ bit1 tle ++ tl ++ 0#4 ++ ne)
  | .agset d a => mkF 0xFE d a 0 0 0
  | .agsetSh d a => mkF 0xFE d a 0 0 1
  | .deferredFault .. | .asIntr .. | .faultRecord .. | .blockFetch .. | .barEpisode .. | .vbarsEpisode .. | .timelineAdvance ..
  | .wfeTimeout .. | .remoteReply .. | .remoteAck .. | .remoteStoreFailure .. | .fabricFill .. | .homeRequest .. | .thresherAtomic ..
  | .thresherMerge .. | .mmaKblock .. | .rowGroupStart .. | .mmaComplete .. | .mdrnRow .. | .mdrnComplete .. | .mzroPerform ..
  | .wainRun .. | .gatherBatch .. | .wainComplete .. | .granuleCommit .. | .routineStart .. | .kvq .. | .viewTileBuild ..
  | .roundStart .. | .sendStep .. | .foldStep .. | .putStep .. | .contributionArrival .. | .tileFinal .. | .planFailure ..
  | .planSignature .. | .mstbArrival .. | .memberRead .. | .shardRequest .. | .shardHoldTimeout .. | .shardStaleReplay ..
  | .shgenInstall .. | .launchDmwr .. | .launchCheck .. | .passPlace .. | .preload .. | .blockedTimeout .. | .quantumExpiry ..
  | .preempt .. | .passResume .. | .contextSpill .. | .loftSpill .. | .budgetOverrun .. | .dispResume .. | .dispRestart ..
  | .dispEnd .. | .completionRecord .. | .quiesceSet .. | .quiesceClear .. | .dropq .. | .pccancel .. | .triggerDoorbell ..
  | .registerWrite .. | .coldStart .. | .warmStart .. | .liveUpdate .. | .createPartition .. | .removePartition .. | .setPowerLimit
  | .setDomain .. | .sendDoorbell .. | .receiveDoorbell .. | .ringEnable .. | .ringDisable .. | .frameSend .. | .frameReceive ..
  | .flitReceive .. | .flitResend .. | .counterWrap .. | .signalDetect .. | .lossOfSignal .. | .equaliseDone .. | .confirmRecord ..
  | .disputeReset .. | .rootRetrain .. | .portEnable .. | .laneRetire .. | .portLoss .. | .powerInterval .. | .powerShare ..
  | .criticalTrip .. | .hbmThermal .. | .patrolScrub .. | .rowSpare .. | .coreRetire .. | .hbmRecalibrate .. | .idleEntry ..
  | .idleWake | .getMeasurements .. | .enclaveRecord .. | .revocationRecord .. | .startCompletion .. | .updateCompletion
  | .packagePowerLoss | .cxlPortDown .. | .secureSession .. => 0

/-! ### Words as bytes -/

/-- The eight bytes of a word at increasing addresses (R323: little-endian). -/
def wordBytes (w : Word) : List Byte := leBytes 8 w.toNat
/-- The word that eight bytes at increasing addresses hold. -/
def bytesWord (l : List Byte) : Word := BitVec.ofNat 64 (leVal l)
/-- Decode an instruction's bytes: exactly eight of them. -/
def decodeBytes (l : List Byte) : Option Instr := if l.length == 8 then decode (bytesWord l) else none

/-- The host's question: an instruction whose bits, numbered as the opcode table numbers them, are `w` (bits above `nbits`
are 0). The one word's bit 0 is the least significant of its first byte. -/
def decodeTableWord (nbits w : Nat) : Option Instr := decodeBytes (leBytes 8 (w % 2 ^ nbits))

end Sys2Proof
end

