-- ==== Sys2Proof/Machine/Flags.lean ====
section
/-!
DEFINITION. The sticky flags of R229 as masks, floating-point formats (R218-R220), the one rounding of R227 and R228, and
the flag every operation sets. An operation answers a bit pattern and the flag word to OR into `%fx` or `%vfx`.
-/
namespace Sys2Proof.Machine

/-- Flag masks of R229. -/
def fNX : Word := 1
def fUF : Word := 2
def fOF : Word := 4
def fDZ : Word := 8
def fNV : Word := 16
def fSAT : Word := 32
def fSHOF : Word := 64
/-- A flag mask when a condition holds. -/
def fIf (b : Bool) (f : Word) : Word := if b then f else 0

/-- A floating-point format: exponent bits, fraction bits, and whether it is the infinity-free E4M3 of R219. -/
structure Fmt where
  eb : Nat
  mb : Nat
  e4 : Bool
  deriving DecidableEq, Repr

/-- The format of a type code; integer types fall on binary32 and are never asked for. -/
def fmtOf : Ty → Fmt
  | .f64 => ⟨11, 52, false⟩
  | .f16 => ⟨5, 10, false⟩
  | .bf16 => ⟨8, 7, false⟩
  | .e4m3 => ⟨4, 3, true⟩
  | .e5m2 => ⟨5, 2, false⟩
  | _ => ⟨8, 23, false⟩

/-- The exponent bias. -/
def fmtBias (f : Fmt) : Nat := 2 ^ (f.eb - 1) - 1
/-- The width in bits. -/
def fmtWidth (f : Fmt) : Nat := f.eb + f.mb + 1
/-- The exponent of the least significant bit of a subnormal. -/
def fmtQmin (f : Fmt) : Int := 1 - (fmtBias f : Int) - f.mb
/-- The largest finite magnitude as (significand, exponent). -/
def fmtMax (f : Fmt) : Nat × Int :=
  if f.e4 then (14, 5) else (2 ^ (f.mb + 1) - 1, (fmtBias f : Int) - f.mb)
/-- The bit pattern of the largest finite magnitude, sign clear. -/
def fmtMaxBits (f : Fmt) : Nat := if f.e4 then 0x7E else (2 ^ f.eb - 1) * 2 ^ f.mb - 1
/-- The bit pattern of +Inf (E4M3 has none; its NaN stands in the same place). -/
def fmtInfBits (f : Fmt) : Nat := if f.e4 then 0x7F else (2 ^ f.eb - 1) * 2 ^ f.mb
/-- The canonical NaN of R230. -/
def fmtNaN (f : Fmt) : Nat := if f.e4 then 0x7F else (2 ^ f.eb - 1) * 2 ^ f.mb + 2 ^ (f.mb - 1)
/-- The sign bit. -/
def fmtSign (f : Fmt) (neg : Bool) : Nat := if neg then 2 ^ (f.eb + f.mb) else 0
/-- The canonical NaN with payload `p` (R230, R231): all ones when it does not fit, and no payload field in E4M3 and E5M2. -/
def fmtNaNP (f : Fmt) (p : Nat) : Nat :=
  if f.e4 || f.mb ≤ 2 then fmtNaN f
  else
    let m := 2 ^ (f.mb - 1)
    fmtNaN f + (if p < m then p else m - 1)

/-- A decoded floating-point value: NaN (signaling or not), infinity, or (−1)^neg · m · 2^e. -/
inductive FVal where
  | nan (sig : Bool) | inf (neg : Bool) | fin (neg : Bool) (m : Nat) (e : Int)
  deriving DecidableEq, Repr

/-- The value of a bit pattern (R218-R220). -/
def fdec (f : Fmt) (n : Nat) : FVal :=
  let neg := n.testBit (f.eb + f.mb)
  let ex := fld n f.mb f.eb
  let fr := fld n 0 f.mb
  if f.e4 then
    if ex == 15 && fr == 7 then .nan false
    else if ex == 0 then .fin neg fr (fmtQmin f)
    else .fin neg (2 ^ f.mb + fr) (fmtQmin f + (ex : Int) - 1)
  else if ex == 2 ^ f.eb - 1 then
    if fr == 0 then .inf neg else .nan (!(fr.testBit (f.mb - 1)))
  else if ex == 0 then .fin neg fr (fmtQmin f)
  else .fin neg (2 ^ f.mb + fr) (fmtQmin f + (ex : Int) - 1)

/-- n · 2^k as a numerator and denominator pair for an integer k. -/
def shiftRat (n d : Nat) (k : Int) : Nat × Nat :=
  match k with
  | .ofNat j => (n <<< j, d)
  | .negSucc j => (n, d <<< (j + 1))

/-- ⌊log2 (n/d)⌋ for n, d > 0. -/
def ratLog2 (n d : Nat) : Int :=
  let k : Int := (n.log2 : Int) - (d.log2 : Int)
  let p := shiftRat n d (-k)
  if p.1 < p.2 then k - 1 else k

/-- Does rounding a quotient with remainder r over den away from zero apply, in mode rm, sign neg, quotient q? -/
def roundUp (rm : Rm) (neg : Bool) (q r den : Nat) : Bool :=
  match rm with
  | .rne => decide (den < 2 * r) || (2 * r == den && q % 2 == 1)
  | .rtz => false
  | .rdn => neg && r != 0
  | .rup => !neg && r != 0
  | .rna => decide (den ≤ 2 * r)

/-- Round n/d · 2^k to an integer in mode rm; the flag says whether it was inexact. -/
def roundQ (rm : Rm) (neg : Bool) (n d : Nat) (k : Int) : Nat × Bool :=
  let p := shiftRat n d k
  let q := p.1 / p.2
  let r := p.1 % p.2
  (if roundUp rm neg q r p.2 then q + 1 else q, r != 0)

/-- The overflowed result of R228. -/
def overflowBits (f : Fmt) (rm : Rm) (ov : Ovf) (neg : Bool) : Nat :=
  match ov with
  | .sat => fmtSign f neg + fmtMaxBits f
  | .nan => fmtNaN f
  | .none =>
    if f.e4 then fmtNaN f
    else
      let toInf := match rm with
        | .rne => true
        | .rna => true
        | .rup => !neg
        | .rdn => neg
        | .rtz => false
      fmtSign f neg + (if toInf then fmtInfBits f else fmtMaxBits f)

/-- The one rounding of R227: (−1)^neg · n/d · 2^e to format f, with overflow by R228 and tininess after rounding. -/
def fround (f : Fmt) (rm : Rm) (ov : Ovf) (neg : Bool) (n d : Nat) (e : Int) : Nat × Word :=
  if n == 0 then (fmtSign f neg, 0)
  else
    let ex := ratLog2 n d + e
    let emin : Int := fmtQmin f + f.mb
    let q : Int := (if ex < emin then emin else ex) - f.mb
    let (m, inex) := roundQ rm neg n d (e - q)
    let mx := fmtMax f
    let ovr := match q - mx.2 with
      | .ofNat j => decide (mx.1 < m <<< j)
      | .negSucc j => decide (mx.1 <<< (j + 1) < m)
    if ovr then (overflowBits f rm ov neg, fOF ||| fNX)
    else
      let m1 := (roundQ rm neg n d (e - (ex - f.mb))).1
      let tiny := decide (ex < emin) && !(ex == emin - 1 && m1 == 2 ^ (f.mb + 1))
      let bits := if m < 2 ^ f.mb then m else ((q - fmtQmin f).toNat + 1) <<< f.mb + (m - 2 ^ f.mb)
      (fmtSign f neg + bits, fIf inex fNX ||| fIf (inex && tiny) fUF)

/-- Delivering an infinity to a format (R228): exact where the format has one, an overflow where it has none or saturates. -/
def finf (f : Fmt) (ov : Ovf) (neg : Bool) : Nat × Word :=
  if f.e4 || ov == .sat then (overflowBits f .rne ov neg, fOF ||| fNX) else (fmtSign f neg + fmtInfBits f, 0)

/-- The canonical NaN, with NV when `inv`. -/
def fnan (f : Fmt) (inv : Bool) : Nat × Word := (fmtNaN f, fIf inv fNV)

/-- The signed integer (−1)^neg · m · 2^(e − lo), for lo ≤ e. -/
def scaled (neg : Bool) (m : Nat) (e lo : Int) : Int :=
  let v : Int := (m <<< (e - lo).toNat : Nat)
  if neg then -v else v

/-- Round the signed value x · 2^e; an exact zero takes sign `zneg`. -/
def froundInt (f : Fmt) (rm : Rm) (ov : Ovf) (x e : Int) (zneg : Bool) : Nat × Word :=
  if x == 0 then (fmtSign f zneg, 0) else fround f rm ov (decide (x < 0)) x.natAbs 1 e

/-- Is a decoded value a signaling NaN? -/
def isSig : FVal → Bool
  | .nan s => s
  | _ => false
/-- Is a decoded value a NaN? -/
def isNaN : FVal → Bool
  | .nan _ => true
  | _ => false
/-- Is a decoded value a zero? -/
def isZero : FVal → Bool
  | .fin _ m _ => m == 0
  | _ => false
/-- The sign of a decoded value. -/
def isNeg : FVal → Bool
  | .nan _ => false
  | .inf n => n
  | .fin n _ _ => n
/-- The negated value. -/
def fneg : FVal → FVal
  | .nan s => .nan s
  | .inf n => .inf (!n)
  | .fin n m e => .fin (!n) m e

/-- The exact sum of two values, rounded once (R227, R232). -/
def faddV (f : Fmt) (x y : FVal) : Nat × Word :=
  match x, y with
  | .nan s, w => fnan f (s || isSig w)
  | .inf _, .nan s => fnan f s
  | .fin _ _ _, .nan s => fnan f s
  | .inf n, .inf n' => if n == n' then finf f .none n else fnan f true
  | .inf n, .fin _ _ _ => finf f .none n
  | .fin _ _ _, .inf n => finf f .none n
  | .fin n m e, .fin n' m' e' =>
    let lo := if e ≤ e' then e else e'
    froundInt f .rne .none (scaled n m e lo + scaled n' m' e' lo) lo (n && n' && m == 0 && m' == 0)

/-- The exact product of two values as a value; NaN (signaling mark: invalid) for 0 × ∞. -/
def fmulV (x y : FVal) : FVal :=
  match x, y with
  | .nan s, w => .nan (s || isSig w)
  | .inf _, .nan s => .nan s
  | .fin _ _ _, .nan s => .nan s
  | .inf n, .inf n' => .inf (n != n')
  | .inf n, .fin n' m _ => if m == 0 then .nan true else .inf (n != n')
  | .fin n m _, .inf n' => if m == 0 then .nan true else .inf (n != n')
  | .fin n m e, .fin n' m' e' => .fin (n != n') (m * m') (e + e')

/-- Round a value to a format. -/
def froundV (f : Fmt) (rm : Rm) (ov : Ovf) (x : FVal) : Nat × Word :=
  match x with
  | .nan s => fnan f s
  | .inf n => finf f ov n
  | .fin n m e => fround f rm ov n m 1 e

/-- A + B (R348). -/
def fadd (f : Fmt) (a b : Nat) : Nat × Word := faddV f (fdec f a) (fdec f b)
/-- A − B (R348). -/
def fsub (f : Fmt) (a b : Nat) : Nat × Word := faddV f (fdec f a) (fneg (fdec f b))
/-- A × B (R348). -/
def fmul (f : Fmt) (a b : Nat) : Nat × Word := froundV f .rne .none (fmulV (fdec f a) (fdec f b))
/-- A × B + C with one rounding (R227, R348); 0 × ∞ sets NV whatever C is. -/
def ffma (f : Fmt) (a b c : FVal) : Nat × Word :=
  match fmulV a b with
  | .nan s => fnan f (s || isSig c)
  | p => faddV f p c
/-- A / B (R348): DZ for a finite nonzero value by zero, NV for 0/0 and ∞/∞. -/
def fdiv (f : Fmt) (a b : Nat) : Nat × Word :=
  match fdec f a, fdec f b with
  | .nan s, w => fnan f (s || isSig w)
  | .inf _, .nan s => fnan f s
  | .fin _ _ _, .nan s => fnan f s
  | .inf _, .inf _ => fnan f true
  | .inf n, .fin n' _ _ => finf f .none (n != n')
  | .fin n _ _, .inf n' => (fmtSign f (n != n'), 0)
  | .fin n m e, .fin n' m' e' =>
    if m' == 0 then
      if m == 0 then fnan f true else (fmtSign f (n != n') + fmtInfBits f, fDZ)
    else fround f .rne .none (n != n') m m' (e - e')

/-- Digit-by-digit integer square root below 2^k: the largest r with r² ≤ n that agrees with the bits found so far. -/
def isqrtGo (n : Nat) : Nat → Nat → Nat
  | 0, r => r
  | k + 1, r => if (r + 2 ^ k) * (r + 2 ^ k) ≤ n then isqrtGo n k (r + 2 ^ k) else isqrtGo n k r
/-- ⌊√n⌋. -/
def isqrt (n : Nat) : Nat := isqrtGo n (n.log2 / 2 + 1) 0

/-- √A (R348, R386), correctly rounded: the root to p + 4 bits with a sticky bit. -/
def fsqrt (f : Fmt) (a : Nat) : Nat × Word :=
  match fdec f a with
  | .nan s => fnan f s
  | .inf n => if n then fnan f true else finf f .none false
  | .fin n m e =>
    if m == 0 then (fmtSign f n, 0)
    else if n then fnan f true
    else
      let (m, e) := if e % 2 == 0 then (m, e) else (2 * m, e - 1)
      let k := f.mb + 5
      let t := m <<< (2 * k)
      let r := isqrt t
      fround f .rne .none false (2 * r + (if r * r == t then 0 else 1)) 1 (e / 2 - k - 1)

/-- 1/√A correctly rounded (R385, R386). -/
def frsqrt (f : Fmt) (a : Nat) : Nat × Word :=
  match fdec f a with
  | .nan s => fnan f s
  | .inf n => if n then fnan f true else (0, 0)
  | .fin n m e =>
    if m == 0 then (fmtSign f n + fmtInfBits f, fDZ)
    else if n then fnan f true
    else
      let (m, e) := if e % 2 == 0 then (m, e) else (2 * m, e - 1)
      let k := f.mb + 5 + m.log2
      let t := (1 <<< (2 * k)) / m
      let r := isqrt t
      let exact := r * r == t && (1 <<< (2 * k)) % m == 0
      fround f .rne .none false (2 * r + (if exact then 0 else 1)) 1 (-(e / 2) - k - 1)

/-- Fixed-point fraction bits of the transcendental operations. -/
def trW : Nat := 320

/-- Σ z^(2i+1)/(2i+1) for i < n, in fixed point, with z2 = z². -/
def atanhGo (z2 : Nat) : Nat → Nat → Nat → Nat → Nat
  | 0, _, _, acc => acc
  | n + 1, zk, i, acc => atanhGo z2 n ((zk * z2) >>> trW) (i + 1) (acc + zk / (2 * i + 1))
/-- 2 · atanh z in fixed point, for z at most 1/3. -/
def atanh2 (z : Nat) : Nat := 2 * atanhGo ((z * z) >>> trW) 110 z 0 0
/-- ln 2 in fixed point. -/
def ln2Fix : Nat := atanh2 ((1 <<< trW) / 3)
/-- Σ y^i/i! for n terms from term t = y^i/i!. -/
def expGo (y : Nat) : Nat → Nat → Nat → Nat → Nat
  | 0, _, _, acc => acc
  | n + 1, t, i, acc => expGo y n (((t * y) >>> trW) / (i + 1)) (i + 1) (acc + t)

/-- Round a positive irrational that lies within `slack` units of `lo` (in units of 2^e). -/
def froundNear (f : Fmt) (neg : Bool) (lo hi : Nat) (e : Int) : Nat × Word :=
  let a := fround f .rne .none neg (2 * lo + 1) 1 (e - 1)
  let b := fround f .rne .none neg (2 * hi + 1) 1 (e - 1)
  if a.1 == b.1 then a else fround f .rne .none neg (lo + hi) 1 (e - 1)

/-- 2^A correctly rounded (R385, R386). Integers are exact; every other power is irrational (log 12). -/
def fexp2 (f : Fmt) (a : Nat) : Nat × Word :=
  match fdec f a with
  | .nan s => fnan f s
  | .inf n => if n then (0, 0) else finf f .none false
  | .fin n m e =>
    if m == 0 then fround f .rne .none false 1 1 0
    else
      let p := shiftRat m 1 e
      let big := decide (p.2 * 65536 ≤ p.1)
      let int := p.1 % p.2 == 0
      let ip : Int := if n then -((p.1 / p.2 : Nat) : Int) else (p.1 / p.2 : Nat)
      if big then fround f .rne .none false (if int then 1 else 3) 1 (if n then -65536 else 65536)
      else if int then fround f .rne .none false 1 1 ip
      else
        let i : Int := if n then ip - 1 else ip
        let fr := if n then p.2 - p.1 % p.2 else p.1 % p.2
        let y := (((fr <<< trW) / p.2) * ln2Fix) >>> trW
        let v := expGo y 80 (1 <<< trW) 0 0
        let lo := if v < (1 <<< trW) + 65536 then 1 <<< trW else v - 65536
        froundNear f false lo (v + 65536) (i - trW)

/-- log2 A correctly rounded (R385, R386). Powers of two are exact; every other logarithm is irrational (log 12). -/
def flog2 (f : Fmt) (a : Nat) : Nat × Word :=
  match fdec f a with
  | .nan s => fnan f s
  | .inf n => if n then fnan f true else finf f .none false
  | .fin n m e =>
    if m == 0 then (fmtSign f true + fmtInfBits f, fDZ)
    else if n then fnan f true
    else
      let l := m.log2
      let ex : Int := e + l
      if m == 2 ^ l then froundInt f .rne .none ex 0 false
      else
        let z := ((m - 2 ^ l) <<< trW) / (m + 2 ^ l)
        let v : Int := ex * ((1 <<< trW : Nat) : Int) + ((((atanh2 z) <<< trW) / ln2Fix : Nat) : Int)
        froundNear f (decide (v < 0)) (v.natAbs - 65536) (v.natAbs + 65536) (-(trW : Int))

/-- Order key of a non-NaN value: −Inf, negative values, −0, +0, positive values, +Inf (R233, R403). -/
def fkey (f : Fmt) (n : Nat) : Int :=
  let mag : Int := (fld n 0 (f.eb + f.mb) : Nat)
  if n.testBit (f.eb + f.mb) then -mag - 1 else mag

/-- The smaller of two non-NaN patterns, −0 below +0 (R233). -/
def fminB (f : Fmt) (a b : Nat) : Nat := if fkey f b < fkey f a then b else a
/-- The larger of two non-NaN patterns, −0 below +0 (R233). -/
def fmaxB (f : Fmt) (a b : Nat) : Nat := if fkey f a < fkey f b then b else a
/-- FMIN or FMAX (R233, R348): canonical NaN for a NaN operand, NV for a signaling one. -/
def fminmax (f : Fmt) (mx : Bool) (a b : Nat) : Nat × Word :=
  let x := fdec f a
  let y := fdec f b
  if isNaN x || isNaN y then fnan f (isSig x || isSig y) else (if mx then fmaxB f a b else fminB f a b, 0)

/-- IEEE order: −1, 0, 1 for less, equal, greater of non-NaN values; −0 equals +0 (R349). -/
def fcmp3 (x y : FVal) : Int :=
  match x, y with
  | .nan _, _ => 0
  | _, .nan _ => 0
  | .inf n, .inf n' => if n == n' then 0 else if n then -1 else 1
  | .inf n, .fin _ _ _ => if n then -1 else 1
  | .fin _ _ _, .inf n => if n then 1 else -1
  | .fin n m e, .fin n' m' e' =>
    let lo := if e ≤ e' then e else e'
    let p := scaled n m e lo
    let q := scaled n' m' e' lo
    if p < q then -1 else if p = q then 0 else 1

/-- FCMP's answer and NV rule (R349). -/
def fcompare (f : Fmt) (c : FCond) (a b : Nat) : Bool × Word :=
  let x := fdec f a
  let y := fdec f b
  let un := isNaN x || isNaN y
  let o := fcmp3 x y
  let sig := isSig x || isSig y
  match c with
  | .eq => (!un && o == 0, fIf sig fNV)
  | .ne => (un || o != 0, fIf sig fNV)
  | .lt => (!un && decide (o < 0), fIf un fNV)
  | .le => (!un && decide (o ≤ 0), fIf un fNV)
  | .un => (un, fIf sig fNV)

/-- The range of an integer type; i4 and i3 have their own (R221). -/
def intRange (t : Ty) : Int × Int :=
  match t with
  | .i4 => (-8, 7)
  | .i3 => (-4, 3)
  | _ => if tySigned t then (-(2 ^ (tyWidth t - 1) : Nat), (2 ^ (tyWidth t - 1) : Nat) - 1) else (0, (2 ^ tyWidth t : Nat) - 1)

/-- Clamp to the range of t; the flag says whether it clamped (Sat of R21). -/
def satInt (t : Ty) (x : Int) : Int × Bool :=
  let r := intRange t
  if x < r.1 then (r.1, true) else if r.2 < x then (r.2, true) else (x, false)

/-- The value of an integer element of type t held in the low bits of n (R221). -/
def intVal (t : Ty) (n : Nat) : Int :=
  if tySigned t then sInt (tyWidth t) n else (low (tyWidth t) n : Nat)

/-- A floating-point value to an integer type (R228, R351): rounded once; NV on overflow and NaN, NX when inexact. -/
def ftoInt (t : Ty) (rm : Rm) (x : FVal) : Int × Word :=
  match x with
  | .nan _ => (0, fNV)
  | .inf n => (if n then (intRange t).1 else (intRange t).2, fNV)
  | .fin n m e =>
    let (q, inex) := roundQ rm n m 1 e
    let v : Int := if n then -(q : Int) else q
    let (w, cl) := satInt t v
    if cl then (w, fNV) else (w, fIf inex fNX)

/-- FCVT's conversion of one value (R351), answering the destination pattern at its own width and the flags. -/
def fconvert (td ts : Ty) (rm : Rm) (ov : Ovf) (n : Nat) : Nat × Word :=
  if tyIsInt ts then
    froundInt (fmtOf td) rm ov (intVal ts n) 0 false
  else
    let x := fdec (fmtOf ts) n
    if tyIsInt td then
      let (v, fl) := ftoInt td rm x
      (wrapInt (tyWidth td) v, fl)
    else froundV (fmtOf td) rm ov x

/-- The exact value of a ZS8 scale byte (R222). -/
def zs8 (b : Nat) : FVal :=
  let e := fld b 2 6
  if e == 0 then .fin false 0 0 else if e == 63 then .nan false else .fin false (4 + b % 4) ((e : Int) - 33)

/-- Is the exact non-negative value m · 2^e at least n/d · 2^k? -/
def geRat (m : Nat) (e : Int) (n d : Nat) (k : Int) : Bool :=
  let p := shiftRat (m * d) 1 (e - k)
  decide (n * p.2 ≤ p.1)

/-- The scale choice of R240: the smallest ZS8 byte at least amax/qmax, with SAT when none is that large. qmax is qn/qd. -/
def zs8Choose (amax : FVal) (qn qd : Nat) : Nat × Word :=
  match amax with
  | .nan _ => (0xFF, 0)
  | .inf _ => (0xFB, fSAT)
  | .fin _ m e =>
    if m == 0 then (0, 0)
    else
      match (List.range 248).find? (fun i =>
        match zs8 (i + 4) with
        | .fin _ zm ze => geRat zm ze (m * qd) qn e
        | _ => false) with
      | some i => (i + 4, 0)
      | none => (0xFB, fSAT)

end Sys2Proof.Machine
end

