-- ==== Sys2Proof/Machine/Operands.lean ====
section
/-!
DEFINITION. Every operand form: the accessors of units, reeves, sheaves and passes, the scalar registers each context names
(R334, R343), poison marks (R317), the vector type register (R338-R340), vector groups with renaming (R336, R378, R423),
masks (R325) and the immediate operands.
-/
namespace Sys2Proof.Machine

/-! ### Units, reeves, sheaves, cores, partitions -/

/-- Unit `u`. -/
def State.unitOf (s : State) (u : Nat) : Unit := KMap.get Unit.none s.units u
/-- Replace unit `u`. -/
def State.setUnit (s : State) (u : Nat) (x : Unit) : State := { s with units := KMap.set Unit.none s.units u x }
/-- Apply `f` to unit `u`. -/
def State.modUnit (s : State) (u : Nat) (f : Unit → Unit) : State := s.setUnit u (f (s.unitOf u))
/-- The unit of the executing agent. -/
def State.cu (s : State) : Unit := s.unitOf s.uid
/-- Apply `f` to the executing agent's unit. -/
def State.modCu (s : State) (f : Unit → Unit) : State := s.modUnit s.uid f

/-- Reeve `r` of a unit. -/
def Unit.reeveOf (u : Unit) (r : Nat) : Reeve := KMap.get Reeve.reset u.reeves r
/-- Replace reeve `r` of a unit. -/
def Unit.setReeve (u : Unit) (r : Nat) (x : Reeve) : Unit := { u with reeves := KMap.set Reeve.reset u.reeves r x }
/-- Apply `f` to reeve `r` of a unit. -/
def Unit.modReeve (u : Unit) (r : Nat) (f : Reeve → Reeve) : Unit := u.setReeve r (f (u.reeveOf r))
/-- Sheaf `k` of a unit. -/
def Unit.sheafOf (u : Unit) (k : Nat) : Sheaf := KMap.get Sheaf.reset u.sheaves k
/-- Replace sheaf `k` of a unit. -/
def Unit.setSheaf (u : Unit) (k : Nat) (x : Sheaf) : Unit := { u with sheaves := KMap.set Sheaf.reset u.sheaves k x }
/-- Apply `f` to sheaf `k` of a unit. -/
def Unit.modSheaf (u : Unit) (k : Nat) (f : Sheaf → Sheaf) : Unit := u.setSheaf k (f (u.sheafOf k))

/-- NSH of `%lpart`: n = 2^NSH sheaves (R153). -/
def Unit.nsh (u : Unit) : Nat := fld u.lpart.toNat 0 2
/-- The number of sheaves n. -/
def Unit.nSheaves (u : Unit) : Nat := 2 ^ u.nsh
/-- The reeve that owns sheaf `k` (R153). -/
def Unit.owner (u : Unit) (k : Nat) : Nat := if u.lpart.toNat.testBit (8 + k) then 1 else 0
/-- Does reeve `r` own sheaf `k`, with `k` below n (R155)? -/
def Unit.owns (u : Unit) (r k : Nat) : Bool := decide (k < u.nSheaves) && u.owner k == r
/-- The sheaves reeve `r` owns. -/
def Unit.owned (u : Unit) (r : Nat) : List Nat := (List.range u.nSheaves).filter (fun k => u.owner k == r)
/-- `%lpart` for NSH and Rv (R154). -/
def lpartOf (nsh rv : Nat) : Word :=
  let n := 2 ^ nsh
  let own := if rv == 2 then (2 ^ n - 1) - (2 ^ ((n + 1) / 2) - 1) else 0
  toW (own * 256 + nsh)

/-- Physical core `c`. -/
def State.coreOf (s : State) (c : Nat) : Core := KMap.get Core.reset s.cores c
/-- Apply `f` to physical core `c`. -/
def State.modCore (s : State) (c : Nat) (f : Core → Core) : State :=
  { s with cores := KMap.upd Core.reset s.cores c f }
/-- Partition `p`. -/
def State.partOf (s : State) (p : Nat) : Partition := KMap.get Partition.off s.parts p
/-- Apply `f` to partition `p`. -/
def State.modPart (s : State) (p : Nat) (f : Partition → Partition) : State :=
  { s with parts := KMap.upd Partition.off s.parts p f }

/-- The pass id of R101. -/
def passIdOf (p seq : Nat) : Word := toW (p * 2 ^ 60 + seq % 2 ^ 60)
/-- The sequence number in a pass id. -/
def passSeq (id : Word) : Nat := id.toNat % 2 ^ 60
/-- The partition in a pass id. -/
def passPart (id : Word) : Nat := id.toNat / 2 ^ 60
/-- The pass with sequence number `seq` of partition `p`. -/
def State.passAt (s : State) (p seq : Nat) : Option Pass := (s.partOf p).passes.find? (fun x => x.seq == seq)
/-- Apply `f` to the pass with sequence number `seq` of partition `p`. -/
def State.modPass (s : State) (p seq : Nat) (f : Pass → Pass) : State :=
  s.modPart p (fun t => { t with passes := t.passes.map (fun x => if x.seq == seq then f x else x) })
/-- Forget the stores of plans that `f` names, by partition, tag and peer: they are visible, or failed (R108). -/
def State.dropSends (s : State) (f : Nat → Nat → Nat → Bool) : State :=
  if s.parts.all (fun t => t.2.passes.all (fun x => x.sends.isEmpty)) then s
  else { s with parts := s.parts.map (fun t => (t.1, { t.2 with passes := t.2.passes.map (fun x => { x with sends := x.sends.filter (fun y => !f t.1 y.1 y.2) }) })) }
/-- The pass of a unit. -/
def State.passOf (s : State) (u : Unit) : Option Pass := if u.initial then none else s.passAt u.part (passSeq u.passId)
/-- Is a unit's pass sealed (R102: FLAGS bit 0)? -/
def State.sealedPass (s : State) (u : Unit) : Bool :=
  match s.passOf u with
  | some p => (dfld p.lrec 8 2).testBit 0
  | none => false

/-- The executing core: the running unit's, or the wain's own. -/
def State.curCore (s : State) : Nat :=
  match s.who with
  | .wain c => c
  | _ => s.cu.core

/-- The routine of a wain core. -/
def State.routineOf (s : State) (c : Nat) : Option Routine := (s.coreOf c).routine
/-- An empty routine: what a wain core without one is read as. -/
def Routine.none : Routine :=
  { seq := 0, uid := 0, reeve := 0, g := [], gPoison := [], vec := Sheaf.reset, pc := 0, consumed := 0, held := [] }
/-- The running routine of core `c`. -/
def State.rt (s : State) (c : Nat) : Routine := ((s.coreOf c).routine).getD Routine.none
/-- Apply `f` to the routine of core `c`. -/
def State.modRt (s : State) (c : Nat) (f : Routine → Routine) : State :=
  s.modCore c (fun x => { x with routine := x.routine.map f })

/-- The reeve the executing agent is or belongs to (R161, R297). -/
def State.rIdx (s : State) : Nat :=
  match s.who with
  | .reeve r => r
  | .sheaf k => s.cu.owner k
  | .wain c => (s.rt c).reeve
/-- That reeve. -/
def State.re (s : State) : Reeve := s.cu.reeveOf s.rIdx
/-- Apply `f` to that reeve. -/
def State.modRe (s : State) (f : Reeve → Reeve) : State := s.modCu (fun u => u.modReeve s.rIdx f)

/-- The executing vector context: the sheaf, or the wain core's own registers (R297). -/
def State.sh (s : State) : Sheaf :=
  match s.who with
  | .wain c => (s.rt c).vec
  | .sheaf k => s.cu.sheafOf k
  | .reeve _ => Sheaf.reset
/-- Apply `f` to the executing vector context. -/
def State.modSh (s : State) (f : Sheaf → Sheaf) : State :=
  match s.who with
  | .wain c => s.modRt c (fun x => { x with vec := f x.vec })
  | .sheaf k => s.modCu (fun u => u.modSheaf k f)
  | .reeve _ => s
/-- L: the lanes of the executing vector context (R152, R297). -/
def State.lanes (s : State) : Nat :=
  match s.who with
  | .wain _ => 4
  | _ => 32 / s.cu.nSheaves

/-- The program counter of the executing agent. -/
def State.pc (s : State) : Word :=
  match s.who with
  | .reeve _ => s.re.pc
  | .sheaf _ => s.sh.pc
  | .wain c => (s.rt c).pc
/-- Set the program counter of the executing agent. -/
def State.setPc (s : State) (a : Word) : State :=
  match s.who with
  | .reeve _ => s.modRe (fun x => { x with pc := a })
  | .sheaf _ => s.modSh (fun x => { x with pc := a })
  | .wain c => s.modRt c (fun x => { x with pc := a })

/-- Is the executing agent judged in keeper mode? Sheaves and routines run in task mode (R302),
and an engine's accesses are judged as task-mode accesses. -/
def State.keeper (s : State) : Bool :=
  match s.eng, s.who with
  | none, .reeve _ => s.re.mode == .keeper
  | _, _ => false

/-! ### Scalar registers -/

/-- Read a scalar register: `g` with `g0` as 0 in a reeve and a routine, `h` in a sheaf (R334, R297). -/
def State.rd (s : State) (r : Reg) : Word :=
  match s.who with
  | .reeve _ => if r = 0 then 0 else KMap.get 0 s.re.g r.toNat
  | .sheaf _ => KMap.get 0 s.sh.h r.toNat
  | .wain c => if r = 0 then 0 else KMap.get 0 (s.rt c).g r.toNat
/-- Write a scalar register; `g0` discards (R334). A whole-word write clears a poison mark (R317). -/
def State.wr (s : State) (r : Reg) (v : Word) : State :=
  match s.who with
  | .reeve _ =>
    if r = 0 then s
    else s.modRe (fun x => { x with g := KMap.set 0 x.g r.toNat v, gPoison := KMap.set false x.gPoison r.toNat false })
  | .sheaf _ => s.modSh (fun x => { x with h := KMap.set 0 x.h r.toNat v, hPoison := KMap.set false x.hPoison r.toNat false })
  | .wain c => if r = 0 then s else s.modRt c (fun x => { x with g := KMap.set 0 x.g r.toNat v, gPoison := KMap.set false x.gPoison r.toNat false })
/-- Does a scalar register hold a poisoned word (R317)? -/
def State.poisoned (s : State) (r : Reg) : Bool :=
  match s.who with
  | .reeve _ => KMap.get false s.re.gPoison r.toNat
  | .sheaf _ => KMap.get false s.sh.hPoison r.toNat
  | .wain c => KMap.get false (s.rt c).gPoison r.toNat
/-- Is a scalar register field beyond the file of the context (R334)? -/
def State.badReg (s : State) (r : Reg) : Bool :=
  match s.who with
  | .sheaf _ => decide (16 ≤ r.toNat)
  | _ => false

/-- OR flags into `%fx`, or into `%vfx` of a vector context (R229). -/
def State.flag (s : State) (f : Word) : State :=
  match s.who with
  | .reeve _ => s.modRe (fun x => { x with fx := x.fx ||| f })
  | _ => s.modSh (fun x => { x with vfx := x.vfx ||| f })

/-! ### Immediate and address operands -/

/-- imm32, sign-extended (R326). -/
def imm32 (i : BitVec 32) : Word := sx64 i
/-- The effective address g[a] + SignExt(off) modulo 2^64 (R354). -/
def State.ea (s : State) (a : Reg) (off : BitVec 20) : Word := s.rd a + sx64 off
/-- The value of a scalar operand at a type, from the low bits of its register (R335). -/
def State.rdTy (s : State) (t : Ty) (r : Reg) : Nat := low (tyWidth t) (s.rd r).toNat
/-- A narrow value as a 64-bit register holds it: sign- or zero-extended by the type (R327, R335). -/
def extTy (t : Ty) (n : Nat) : Word := if tySigned t then toW (wrapInt 64 (sInt (tyWidth t) n)) else toW (low (tyWidth t) n)

/-! ### The vector type register -/

/-- ILF of `%vt`. -/
def vtIlf (v : Word) : Bool := v.toNat.testBit 63
/-- TAIL of `%vt`. -/
def vtTail (v : Word) : Bool := v.toNat.testBit 19
/-- SLICES of `%vt`. -/
def vtSlices (v : Word) : Nat := fld v.toNat 16 3
/-- TYPE of `%vt`; meaningful while ILF is clear. -/
def vtType (v : Word) : Ty := (tyOf (fld v.toNat 6 5)).getD .i8
/-- TYPE2 of `%vt`. -/
def vtType2 (v : Word) : Ty := (tyOf (fld v.toNat 11 5)).getD .i8
/-- GROUP of `%vt`, as a number of registers. -/
def vtGroup (v : Word) : Nat := 2 ^ fld v.toNat 3 3
/-- SEW of `%vt`, in bits. -/
def vtSew (v : Word) : Nat := 8 * 2 ^ fld v.toNat 0 3

/-- Does an image of `%vt` break R339? Bit 63 itself is not a field a write gives. -/
def vtBad (v : Word) : Bool :=
  let n := v.toNat
  fld n 20 43 != 0 || decide (4 ≤ fld n 0 3) || decide (4 ≤ fld n 3 3) ||
  match tyOf (fld n 6 5), tyOf (fld n 11 5) with
  | some t, some t2 =>
    tyWidth t != vtSew v || !(tyWidth t2 == vtSew v || tyWidth t2 * 2 == vtSew v || tyWidth t2 * 4 == vtSew v)
  | _, _ => true

/-- A write to `%vt` (R339): every field as written, ILF as the rule sets it. -/
def vtWrite (v : Word) : Word :=
  if vtBad v then v ||| 0x8000000000000000 else v &&& 0x7FFFFFFFFFFFFFFF

/-- VLMAX for `%vt` and L lanes (R339), with the factor 8 of R225; 0 while ILF is set (R369). -/
def vlMax (vt : Word) (lanes : Nat) : Nat :=
  if vtIlf vt then 0 else lanes * 512 / vtSew vt * vtGroup vt * (if tyIsE8 (vtType vt) then 8 else 1)

/-- The executing context's VLMAX. -/
def State.vlmax (s : State) : Nat := vlMax s.sh.vt s.lanes

/-! ### Vector groups -/

/-- The physical register that a `v` number names under SLOOP renaming (R423). -/
def vphys (x : Sheaf) (r : Nat) : Nat :=
  let w := fld x.rrb.toNat 8 6
  if x.slp.toNat.testBit 63 && decide (64 - w ≤ r) && w != 0 then
    64 - w + (r - (64 - w) + fld x.rrb.toNat 0 6) % w
  else r

/-- Bits in one register of L lanes. -/
def regBits (lanes : Nat) : Nat := 512 * lanes

/-- The `k` registers from number `r`, register 0 lowest, as one number. -/
def vgroup (x : Sheaf) (lanes r : Nat) : Nat → Nat
  | 0 => 0
  | k + 1 => vgroup x lanes r k + (low (regBits lanes) (KMap.get 0 x.v (vphys x (r + k))).toNat) <<< (regBits lanes * k)

/-- Store `k` registers from the low bits of `n`. -/
def vgroupSet (x : Sheaf) (lanes r n : Nat) : Nat → Sheaf
  | 0 => x
  | k + 1 =>
    let y := vgroupSet x lanes r n k
    { y with v := KMap.set 0 y.v (vphys y (r + k)) (BitVec.ofNat 16384 (fld n (regBits lanes * k) (regBits lanes))) }

/-- Element `i` of width `w` in group bits `n` (R156, R378). -/
def elemOf (n w i : Nat) : Nat := fld n (w * i) w

/-- Concatenate elements of width `w`, the first lowest. -/
def packElems (w : Nat) : List Nat → Nat
  | [] => 0
  | e :: t => low w e + (packElems w t) <<< w

/-- The elements of a span of `k` registers at width `w` after a write that gives element `i` the value `f i`, or leaves it. -/
def mergeElems (lanes k w old : Nat) (f : Nat → Option Nat) : Nat :=
  packElems w ((List.range (regBits lanes * k / w)).map (fun i => (f i).getD (elemOf old w i)))

/-- Poison mark number of the 64-bit word `j` of register `r` (physical). -/
def poisonKey (r j : Nat) : Nat := r * 256 + j

/-- Clear the marks of the words that a write covers wholly (R317). -/
def clearVPoison (x : Sheaf) (lanes r k w : Nat) (f : Nat → Option Nat) : Sheaf :=
  if x.vPoison.isEmpty then x
  else
    let words := regBits lanes / 64
    let per := if w ≤ 64 then 64 / w else 1
    { x with vPoison := (List.range (words * k)).foldl (fun m j =>
        if (List.range per).all (fun e => (f (j * per + e)).isSome)
        then KMap.set false m (poisonKey (vphys x (r + j / words)) (j % words)) false else m) x.vPoison }

/-- Write elements of a group at `r` of `k` registers. -/
def State.vput (s : State) (r k w : Nat) (f : Nat → Option Nat) : State :=
  let L := s.lanes
  s.modSh (fun x =>
    let y := vgroupSet x L r (mergeElems L k w (vgroup x L r k) f) k
    clearVPoison y L r k w f)

/-- The bits of the group of `k` registers at `r`. While `%vl` exceeds VLMAX, which a keeper's SYSWR to `%vt` can leave (R369), the elements
past the group have no value: free bits stand for them (log 9). -/
def State.vget (s : State) (r k : Nat) : Nat :=
  let n := vgroup s.sh s.lanes r k
  if s.sh.vl ≤ s.vlmax then n else n + Config.freeNat (64 * s.fresh + r) <<< (regBits s.lanes * k)

/-- Does any element of `els` of the group at `r`, read at width `w`, lie in a poisoned word (R317)? -/
def State.vPoisoned (s : State) (r w : Nat) (els : List Nat) : Bool :=
  if s.sh.vPoison.isEmpty then false
  else
    let rb := regBits s.lanes
    els.any (fun i => KMap.get false s.sh.vPoison (poisonKey (vphys s.sh (r + i * w / rb)) (i * w % rb / 64)))

/-- Mask register `m` as bits; `m0` reads all ones (R334). -/
def State.mask (s : State) (m : Nat) : Nat := if m == 0 then 2 ^ 65536 - 1 else (KMap.get 0 s.sh.m m).toNat
/-- Write mask register `m` (never `m0`). -/
def State.setMask (s : State) (m n : Nat) : State :=
  s.modSh (fun x => { x with m := KMap.set 0 x.m m (BitVec.ofNat 65536 n), mPoison := KMap.clear x.mPoison (1024 * m) 1024 })
/-- Is a word of mask register `m` that holds bits of elements below `n` poisoned (R317)? -/
def State.mPoisoned (s : State) (m n : Nat) : Bool :=
  s.sh.mPoison.any (fun p => p.1 / 1024 == m && decide (p.1 % 1024 * 64 < n))
/-- Does the mask field select element `i` (R325)? The value 0 selects every element. -/
def State.sel (s : State) (q : BitVec 4) (i : Nat) : Bool :=
  if q = 0 then true else (s.mask (q.toNat % 8)).testBit i != q.getLsbD 3
/-- Active(i) of R21: below `%vl` and selected. -/
def State.active (s : State) (q : BitVec 4) (i : Nat) : Bool := decide (i < s.sh.vl) && s.sel q i
/-- The active elements in increasing order. -/
def State.actives (s : State) (q : BitVec 4) : List Nat := (List.range s.sh.vl).filter (fun i => s.sel q i)

/-- The registers an operand of width `w` spans when TYPE's width is `sew` and GROUP is `g` (R378). -/
def spanOf (g w sew : Nat) : Nat := let k := (g * w + sew - 1) / sew; if k == 0 then 1 else k
/-- The dynamic span of R378: the smallest power of two covering `n` elements of width `w`. -/
def dynSpan (lanes w n : Nat) : Nat :=
  ((List.range 6).map (fun j => 2 ^ j)).find? (fun k => decide (w * n ≤ k * lanes * 512)) |>.getD 64
/-- Alignment and end of a group of `k` registers at `r` (R336, R378), with the span limit. -/
def spanOk (r : Reg) (k lim : Nat) : Bool := decide (k ≤ lim) && k != 0 && r.toNat % k == 0 && decide (r.toNat + k ≤ 64)

end Sys2Proof.Machine
end

