-- ==== Sys2Proof/Machine/Links.lean ====
section
/-!
DEFINITION. The sending side of the Thouruth ports: routes (R46), flits with their headers, keys and integrity fields (R38-R40), and what a
port sends or holds (R39, R40). A message leaves as one flit; the encoding of requests in payloads is not given (log 18).
-/
namespace Sys2Proof.Machine

/-! ### Ports and routes -/

/-- Thouruth port `i`. -/
def State.portOf (s : State) (i : Nat) : Port := KMap.get Port.reset s.ports i
/-- Apply `f` to Thouruth port `i`. -/
def State.modPort (s : State) (i : Nat) (f : Port → Port) : State := { s with ports := KMap.upd Port.reset s.ports i f }
/-- A key slot of a port. -/
def Port.slotOf (p : Port) (k : Nat) : PortSlot := KMap.get PortSlot.empty p.slots k
/-- Apply `f` to a key slot of a port. -/
def Port.modSlot (p : Port) (k : Nat) (f : PortSlot → PortSlot) : Port := { p with slots := KMap.upd PortSlot.empty p.slots k f }
/-- The flits of a port that its partner has not acknowledged, and those that wait to be sent, oldest first. -/
def Port.flits (p : Port) : List TxFlit := p.unacked ++ p.waiting
/-- The Thouruth ports of a peer's route set (R46, R118): four bytes, 0xFF for none; none for the package itself. -/
def State.routePorts (s : State) (peer : Nat) : List Nat :=
  if s.peer == some peer then []
  else ((List.range 4).map (fun j => fld (KMap.get 0xFFFFFFFF s.routes peer).toNat (8 * j) 8)).filter (fun p => p != 255)
/-- Those of them that are in the route sets now (R47). -/
def State.routedPorts (s : State) (peer : Nat) : List Nat := (s.routePorts peer).filter (fun i => (s.portOf i).routed)
/-- Resource numbers of a plan (R78): thresher entries of stack `k`, and class `c` of port `p`. -/
def resStack (k : Nat) : Nat := k
def resPort (p c : Nat) : Nat := 100 + 8 * p + c
/-- The ports that a flit to a peer may take: those a plan reserved, for its traffic (R46, R78). -/
def State.viaPorts (s : State) (peer : Nat) (v : Via) : List Nat :=
  match v with
  | .plan q h =>
    match s.plans.find? (fun x => x.part == q && x.handle == h) with
    | some x => (s.routedPorts peer).filter (fun i => (List.range 8).any (fun c => x.reserve.any (fun r => r.1 == resPort i c)))
    | none => s.routedPorts peer
  | _ => s.routedPorts peer
/-- The number that selects among them: a hash of the issuing core and the page index, the port of the request, or the plan's port (R46). -/
def viaHash (peer : Nat) (v : Via) : Nat :=
  match v with
  | .request core page => Config.routeHash core page
  | .reply tag => Config.requestPort peer tag
  | .plan q h => Config.planPort q h peer
/-- The port that a flit takes (R46). While an earlier flit of the same core and page, or the same plan, is on a port, later ones take that
port too, so that they arrive in order (R68). -/
def State.portFor (s : State) (peer : Nat) (v : Via) : Option Nat :=
  let l := s.viaPorts peer v
  match l.find? (fun i => (s.portOf i).flits.any (fun f => f.peer == peer && f.via == v)) with
  | some i => some i
  | none => if l.isEmpty then none else l[viaHash peer v % l.length]?

/-! ### Flits -/

/-- The 96-bit IV (R40). -/
def flitIv (peer port ctr : Nat) : BitVec 96 := BitVec.ofNat 96 (ctr % 2 ^ 64 + port % 64 * 2 ^ 78 + peer % 4096 * 2 ^ 84)
/-- A flit header (R38). -/
def flitHdr (kind vc seq ack : Nat) (nak : Bool) (key peer len : Nat) : Word :=
  toW (kind % 16 * 2 ^ 60 + vc % 4 * 2 ^ 58 + seq % 4096 * 2 ^ 46 + ack % 4096 * 2 ^ 34 + (if nak then 2 ^ 33 else 0) + key % 256 * 2 ^ 25 +
    peer % 4096 * 2 ^ 13 + len % 8 * 2 ^ 10)
/-- The header as bytes for the CRC and the tag, least significant first (log 18). -/
def hdrBytes (h : Word) : List Byte := leBytes 8 h.toNat
/-- The CRC-64 of a flit under key 0 (R39). -/
def flitCrc (h : Word) (payload : List Byte) : Word := crc64Bytes (hdrBytes h ++ payload)
/-- A payload of 112 bytes: the given ones, then zeros (log 18). -/
def payloadOf (l : List Byte) : List Byte := (List.range 112).map (fun i => l.getD i 0)
/-- May a port send under a slot now: plaintext, or a key that the partner has confirmed and whose counter does not wrap (R40)? -/
def State.slotOpen (s : State) (p : Port) (k : Nat) : Bool :=
  k == 0 || ((p.slotOf k).loaded && !(p.slotOf k).stopped && decide ((p.slotOf k).tx + 1 < 2 ^ 64) && KMap.get 0 s.keys k != 0)
/-- Send one flit on port `i` as a new flit of that port (R39, R40): under a key the payload is enciphered and the header authenticated. -/
def State.sendFlit (s : State) (i : Nat) (f : TxFlit) : State :=
  let p := s.portOf i
  let h := flitHdr (if f.control then 3 else 1) f.vc p.txSeq p.rxSeq p.nak f.key f.peer 7
  let k := KMap.get 0 s.keys f.key
  let iv := flitIv (s.peer.getD 0) i (p.slotOf f.key).tx
  let wire := if f.key == 0 then f.plain else gcmCipher k iv f.plain
  let tag := if f.key == 0 then flitCrc h wire else gcmTag k iv (hdrBytes h) wire
  let q := { p with txSeq := (p.txSeq + 1) % 4096, unacked := p.unacked ++ [{ f with seq := p.txSeq, hdr := h, wire := wire, integrity := tag }] }
  { s with
    ports := KMap.set Port.reset s.ports i (if f.key == 0 then q else q.modSlot f.key (fun x => { x with tx := x.tx + 1 }))
    sent := s.sent ++ [.flit i h wire tag] }
/-- Send what port `i` holds and may send, in order; a flit that may not leave holds back the later ones of its slot. -/
def State.flushFrom (s : State) (i : Nat) : List TxFlit → List Nat → List TxFlit → State
  | [], _, kept => s.modPort i (fun p => { p with waiting := kept })
  | f :: t, shut, kept =>
    let p := s.portOf i
    if !shut.contains f.key && s.slotOpen p f.key && decide (p.unacked.length < 4095) then (s.sendFlit i f).flushFrom i t shut kept
    else s.flushFrom i t (f.key :: shut) (kept ++ [f])
/-- Send what port `i` may send: only a port in UP sends (R42). -/
def State.flush (s : State) (i : Nat) : State :=
  let p := s.portOf i
  if p.st == .up && !p.waiting.isEmpty then s.flushFrom i p.waiting [] [] else s
/-- Hand a flit to port `i`. -/
def State.enqueueOn (s : State) (i : Nat) (f : TxFlit) : State := (s.modPort i (fun p => { p with waiting := p.waiting ++ [f] })).flush i
/-- Put a flit on the port its route selects; it is lost where the peer has none (R47). -/
def State.enqueue (s : State) (f : TxFlit) : State :=
  match s.portFor f.peer f.via with
  | none => s
  | some i => s.enqueueOn i f

/-! ### Messages -/

/-- The key slot of a partition's enclave; 0 for none (R40, R127), and a slot that never sends where its key has been zeroised (R128). -/
def State.partSlot (s : State) (p : Nat) : Nat :=
  match s.enclaves.find? (fun e => e.id == (s.partOf p).enclave) with
  | some e => if e.key == 0 then 256 else e.slot
  | none => 0
/-- Append a message to what the package has sent. -/
def State.send (s : State) (m : Msg) : State := { s with sent := s.sent ++ [m] }
/-- Send a message to a peer: its flit goes to a port on virtual channel `vc` under a key slot (R38, R40, R46). -/
def State.sendOn (s : State) (m : Msg) (peer vc key : Nat) (via : Via) (lines : List Nat) : State :=
  let s1 := s.send m
  if s1.routes.isEmpty then s1
  else s1.enqueue { num := s1.sent.length, control := false, seq := 0, vc := vc, key := key, peer := peer, via := via, lines := lines,
                    plain := leBytes 112 (Config.flitPayload s1.sent.length).toNat, hdr := 0, wire := [], integrity := 0 }
/-- A request of partition `part` to address `a` of a peer (R46, R95): under the partition's enclave key. -/
def State.sendReq (s : State) (part peer a : Nat) (m : Msg) : State :=
  s.sendOn m peer 0 (s.partSlot part) (.request s.curCore (a / 4096)) []
/-- A collective or thresher request of partition `part` under no plan (R46, R95). -/
def State.sendCol (s : State) (part peer a : Nat) (m : Msg) : State :=
  s.sendOn m peer 2 (s.partSlot part) (.request s.curCore (a / 4096)) []
/-- The response of partition `part` to request `tag` of a peer, on the port that carried it (R46). -/
def State.sendReply (s : State) (part peer tag : Nat) (lines : List Nat) (m : Msg) : State :=
  s.sendOn m peer 1 (s.partSlot part) (.reply tag) lines
/-- Traffic of plan `q` of partition `part` (R46, R129): under the plan's key, where it has one. -/
def State.sendPlan (s : State) (part handle peer : Nat) (m : Msg) : State :=
  let key := match s.plans.find? (fun x => x.part == part && x.handle == handle) with
    | some x => x.keySlot
    | none => 0
  s.sendOn m peer 2 (if key == 0 then s.partSlot part else key) (.plan part handle) []
/-- A message to another package's security controller (R127, R131): virtual channel 3. -/
def State.sendCtl (s : State) (peer : Nat) (m : Msg) : State := s.sendOn m peer 3 0 (.request 0 0) []
/-- A link-control flit to the partner of port `i`, which the port sends once it is in UP (R38, R40). -/
def State.sendControl (s : State) (i : Nat) (l : List Byte) : State :=
  s.enqueueOn i { num := s.sent.length, control := true, seq := 0, vc := 3, key := 0, peer := (s.portOf i).partnerPeer, via := .request 0 0,
                  lines := [], plain := payloadOf l, hdr := 0, wire := [], integrity := 0 }

/-! ### Replies that a home holds (R65, R67) -/

/-- The numbers of the home's replies for some of these lines that have not reached their requesters. -/
def State.repliesOut (s : State) (lines : List Nat) : List Nat :=
  s.ports.flatMap (fun p => (p.2.flits.filter (fun f => f.lines.any lines.contains)).map (·.num))
/-- Send each held reply whose lines' earlier replies have all reached their requesters. -/
def State.settle (s : State) : State :=
  if s.heldReplies.isEmpty then s
  else
    let due (h : HeldReply) : Bool := !h.before.any (fun n => (s.repliesOut h.lines).contains n)
    (s.heldReplies.filter due).foldl (fun s h => s.sendReply h.part h.peer h.tag h.lines h.msg) { s with heldReplies := s.heldReplies.filter (fun h => !due h) }
/-- Answer a peer when the lines' earlier replies have reached their requesters. -/
def State.sendVisible (s : State) (part : Nat) (lines : List Nat) (peer tag : Nat) (m : Msg) : State :=
  State.settle { s with heldReplies := s.heldReplies ++ [⟨lines, s.repliesOut lines, part, peer, tag, m⟩] }
/-- A store of a peer has been performed here (R65): it is accepted at once, and visible when no earlier reply for its lines is on its way. -/
def State.ackStore (s : State) (part : Nat) (lines : List Nat) (peer tag : Nat) : State :=
  (s.sendReply part peer tag [] (.storeAck peer tag false)).sendVisible part lines peer tag (.storeAck peer tag true)

end Sys2Proof.Machine
end

