-- ==== Sys2Proof/Machine/Memory.lean ====
section
/-!
DEFINITION. Byte memories and translation: the walk of R175-R179, the loft window of R448, the checks of R182 in their order
and the target-type limits of R179-R181, R69, R121, R169. Every wider access is built from single bytes here.
-/
namespace Sys2Proof.Machine

/-- Cause codes of R308. -/
def cILLEGAL : Nat := 0x01
def cPRIV : Nat := 0x03
def cVTYPE : Nat := 0x04
def cALIGN : Nat := 0x05
def cPAGE : Nat := 0x06
def cPERM : Nat := 0x07
def cFETCH : Nat := 0x08
def cSEAL : Nat := 0x09
def cSEALFULL : Nat := 0x0A
def cSHARD : Nat := 0x0B
def cSXTYPE : Nat := 0x0C
def cPLAN : Nat := 0x0D
def cREVOKED : Nat := 0x0E
def cGATE : Nat := 0x0F
def cBUDGET : Nat := 0x10
def cBRK : Nat := 0x11
def cTRAP : Nat := 0x12
def cMCHK : Nat := 0x13
def cLOOP : Nat := 0x14
def cSTREAM : Nat := 0x15
def cPREEMPT : Nat := 0x20
def cINTR : Nat := 0x21
def cMIGRATE : Nat := 0x22

/-- A trap with its code, subcode and `%tval`. -/
def tr (code sub : Nat) (tval : Word) : TrapInfo :=
  { code := BitVec.ofNat 8 code, sub := BitVec.ofNat 16 sub, tval := tval, slotB := false, info0 := 0, info1 := 0, late := false }
/-- The same with INFO0 (R314). -/
def tri (code sub : Nat) (tval info0 : Word) : TrapInfo := { tr code sub tval with info0 := info0 }

/-- The answer of an access: a value and the state after it, a trap, or a wait. -/
inductive Acc (α : Type) where
  | ok (a : α) (s : State)
  | trap (t : TrapInfo) (s : State)
  | wait (w : Wait) (s : State)

/-- Continue after an access that answered. -/
def Acc.bind {α β : Type} (x : Acc α) (f : α → State → Acc β) : Acc β :=
  match x with
  | .ok a s => f a s
  | .trap t s => .trap t s
  | .wait w s => .wait w s

/-- Run an access for each item of a list, in order; the answers in order. -/
def Acc.each {α β : Type} (f : α → State → Acc β) : List α → State → Acc (List β)
  | [], s => .ok [] s
  | x :: t, s => (f x s).bind fun v s => (Acc.each f t s).bind fun l s => .ok (v :: l) s

/-! ### Byte memories -/

/-- Read `n` bytes from address `a`, lowest first. -/
def memRead (m : Memory) (a n : Nat) : List Byte := (List.range n).map (fun i => KMap.get 0 m (a + i))
/-- Write bytes from address `a` upwards. -/
def memWrite (m : Memory) (a : Nat) : List Byte → Memory
  | [] => m
  | b :: t => memWrite (KMap.set 0 m a b) (a + 1) t
/-- Read `n` bytes as a number. -/
def memVal (m : Memory) (a n : Nat) : Nat := leVal (memRead m a n)
/-- The canonical form of a byte memory (log 2). -/
def Memory.wf (m : Memory) : Bool := KMap.wf 0 m
/-- Read bytes of the package's HBM. -/
def State.hbmRead (s : State) (a n : Nat) : List Byte := memRead s.hbm a n
/-- The marks of the `n`-byte units that a write of `l` bytes from `a` covers wholly are cleared (R34, R317). -/
def clearMarks (m : KMap Bool) (n a l : Nat) : KMap Bool := if m.isEmpty then m else KMap.clear m ((a + n - 1) / n) ((a + l) / n - (a + n - 1) / n)
/-- Write bytes of the package's HBM. -/
def State.hbmWrite (s : State) (a : Nat) (l : List Byte) : State :=
  { s with hbm := memWrite s.hbm a l, hbmPoison := clearMarks s.hbmPoison 64 a l.length }
/-- Is any 64-byte line of a range of HBM poisoned (R34)? -/
def State.hbmBad (s : State) (a n : Nat) : Bool :=
  if s.hbmPoison.isEmpty then false
  else (List.range ((a % 64 + n + 63) / 64)).any (fun i => KMap.get false s.hbmPoison (a / 64 + i))
/-- Is a range of the CXL tier poisoned (R97)? -/
def State.cxlBad (s : State) (a n : Nat) : Bool :=
  if s.cxlPoison.isEmpty then false
  else (List.range ((a % 64 + n + 63) / 64)).any (fun i => KMap.get false s.cxlPoison (a / 64 + i))

/-- Bytes of HBM in the package: 12 stacks of 64 GiB (R25). -/
def hbmBytes : Nat := 768 * 2 ^ 30
/-- The stack that holds a physical address: 64 GiB each, in order (log 13). -/
def stackOf (pa : Nat) : Nat := pa / 2 ^ 36

/-! ### Partition shares -/

/-- Does a partition's HBM share (R176) hold an address? -/
def Partition.holds (p : Partition) (pa : Nat) : Bool := decide (p.shareBase ≤ pa) && decide (pa < p.shareBase + p.shareSize)
/-- The dispatcher reserve: the top eighth of the share (R140). -/
def Partition.reserveBase (p : Partition) : Nat := p.shareBase + (p.shareSize - p.shareSize / 8)
/-- Directory or reserve: what no task-mode access reaches (R179). -/
def Partition.hidden (p : Partition) (pa : Nat) : Bool :=
  decide (pa < p.shareBase + 2 ^ 20) || decide (p.reserveBase ≤ pa)

/-! ### Walks -/

/-- The kinds of access of R182. -/
inductive Kind where
  | load | store | atomic | fetch
  deriving DecidableEq, Repr

/-- Does an access of this kind store? -/
def Kind.stores : Kind → Bool
  | .store | .atomic => true
  | _ => false

/-- On whose behalf an access translates: partition, address space, keeper mode, and the running unit if any (R448). -/
structure XCtx where
  part : Nat
  asid : Nat
  keep : Bool
  uid : Option Nat
  deriving DecidableEq, Repr

/-- A leaf as found: the entry, the page size in bytes, and where the entry lies in HBM (none for the window). -/
structure Leaf where
  pte : Word
  size : Nat
  entry : Option Nat
  deriving DecidableEq, Repr

/-- FRAME of a leaf (R177). -/
def pteFrame (w : Word) : Nat := fld w.toNat 30 31
/-- PEER of a leaf. -/
def ptePeer (w : Word) : Nat := fld w.toNat 18 12
/-- MODE of a leaf. -/
def pteMode (w : Word) : Nat := fld w.toNat 16 2
/-- TTYPE of a leaf. -/
def pteType (w : Word) : Nat := fld w.toNat 12 4
/-- MCLASS of a leaf. -/
def pteClass (w : Word) : Nat := fld w.toNat 61 3
def pteStream (w : Word) : Bool := w.toNat.testBit 8
def pteSealed (w : Word) : Bool := w.toNat.testBit 7
def pteD (w : Word) : Bool := w.toNat.testBit 6
def pteA (w : Word) : Bool := w.toNat.testBit 5
def pteK (w : Word) : Bool := w.toNat.testBit 4
def pteX (w : Word) : Bool := w.toNat.testBit 3
def pteW (w : Word) : Bool := w.toNat.testBit 2
def pteR (w : Word) : Bool := w.toNat.testBit 1
def pteV (w : Word) : Bool := w.toNat.testBit 0

/-- Canonical form (R174). -/
def canonical (va : Word) : Bool := fld va.toNat 57 7 == (if va.toNat.testBit 56 then 127 else 0)

/-- The index of a virtual address at a level (R175). -/
def vaIndex (va : Word) (level : Nat) (g64 : Bool) : Nat :=
  match level with
  | 0 => fld va.toNat 44 13
  | 1 => fld va.toNat 30 14
  | 2 => fld va.toNat 21 9
  | _ => if g64 then fld va.toNat 16 5 else fld va.toNat 12 9
/-- The page size a leaf of a level maps (R175). -/
def pageSize (level : Nat) (g64 : Bool) : Nat :=
  match level with
  | 1 => 2 ^ 30
  | 2 => 2 ^ 21
  | _ => if g64 then 2 ^ 16 else 2 ^ 12
/-- Alignment, in frames, of the table that a pointer of a level names (R175). -/
def nextAlign (level : Nat) : Nat := if level == 0 then 32 else 1

/-- The indices of an address at the levels above `level`, as one number. -/
def vaPath (va : Word) (level : Nat) : Nat := fld va.toNat 0 57 / (if level == 0 then 2 ^ 44 else if level == 1 then 2 ^ 30 else 2 ^ 21)
/-- The pointer entry of a level that the walker has cached for an address (R184). -/
def State.ptrFind (s : State) (part asid : Nat) (va : Word) (level : Nat) : Option Word :=
  if s.staleTlb then (s.ptrs.find? (fun t => t.part == part && t.asid == asid && t.level == level && t.path == vaPath va level)).map (·.pte) else none
/-- The walk from a table (R175, R178): none where it raises FT_PAGE; `some none` where an entry's line is poisoned. `old` gives cached pointer
entries. -/
def walkFrom (s : State) (p : Partition) (old : Nat → Option Word) (va : Word) : Nat → Nat → Nat → Bool → Option (Option Leaf)
  | 0, _, _, _ => none
  | fuel + 1, level, table, g64 =>
    let a := table + 8 * vaIndex va level g64
    if (old level).isNone && s.hbmBad a 8 then some none
    else
      let e := (old level).getD (toW (memVal s.hbm a 8))
      if !pteV e then none
      else if fld e.toNat 1 3 != 0 then
        if level == 0 then none else some (some ⟨e, pageSize level g64, some a⟩)
      else
        let g := e.toNat.testBit 8
        let nf := pteFrame e
        if level ≥ 3 || fld e.toNat 61 3 != 0 || fld e.toNat 9 21 != 0 || fld e.toNat 1 7 != 0 || (g && level != 2) ||
            nf % nextAlign level != 0 || !p.holds (nf * 4096) then none
        else walkFrom s p old va fuel (level + 1) (nf * 4096) g

/-- The directory entry of an address space: the cached one, or the one in memory (R176). -/
def State.dirEntry (s : State) (part asid : Nat) : BitVec 128 :=
  let p := s.partOf part
  let c := KMap.get 0 p.dir asid
  if c = 0 then BitVec.ofNat 128 (memVal s.hbm (p.shareBase + 16 * asid) 16) else c
/-- Keep a valid directory entry until a TLBINV (R176, R185). -/
def State.cacheDir (s : State) (part asid : Nat) : State :=
  let e := s.dirEntry part asid
  if e.getLsbD 0 && KMap.get 0 (s.partOf part).dir asid = 0 then
    s.modPart part (fun p => { p with dir := KMap.set 0 p.dir asid e })
  else s
/-- NSHD of a directory entry. -/
def dirNshd (e : BitVec 128) : Nat := fld e.toNat 64 11
/-- SHTF of a directory entry. -/
def dirShtf (e : BitVec 128) : Nat := fld e.toNat 94 31
/-- ROOTF of a directory entry. -/
def dirRoot (e : BitVec 128) : Nat := fld e.toNat 30 31
/-- A directory entry that names an address space and breaks nothing of R176. -/
def dirOk (e : BitVec 128) : Bool :=
  e.getLsbD 0 && fld e.toNat 1 29 == 0 && fld e.toNat 61 3 == 0 && fld e.toNat 75 19 == 0 && fld e.toNat 125 3 == 0

/-- The walk of an address (R175-R178). -/
def State.walk (s : State) (part asid : Nat) (va : Word) : Option (Option Leaf) :=
  let p := s.partOf part
  let e := s.dirEntry part asid
  if !dirOk e || dirRoot e % 16 != 0 || !p.holds (dirRoot e * 4096) then none
  else walkFrom s p (s.ptrFind part asid va) va 4 0 (dirRoot e * 4096) false

/-- A cached leaf that covers an address (R184, R185). -/
def State.tlbFind (s : State) (part asid : Nat) (va : Word) : Option Leaf :=
  (s.tlb.find? (fun t => t.part == part && t.asid == asid && decide (t.base ≤ va.toNat) && decide (va.toNat < t.base + t.size))).map
    (fun t => ⟨t.leaf, t.size, t.entry⟩)
/-- Cache a leaf in place of what the TLBs held for its page. -/
def State.tlbAdd (s : State) (part asid : Nat) (va : Word) (l : Leaf) : State :=
  let base := va.toNat / l.size * l.size
  let e : TlbEntry := ⟨part, asid, base, l.size, l.pte, l.entry⟩
  { s with tlb := e :: s.tlb.filter (fun t => !(t.part == part && t.asid == asid &&
      decide (t.base < base + l.size) && decide (base < t.base + t.size))) }

/-- The base of the own-core loft window (R448). -/
def windowBase : Nat := 0x00FFFFFFFFC00000
/-- Is an address in the window? -/
def inWindow (va : Word) : Bool := decide (windowBase ≤ va.toNat) && decide (va.toNat < windowBase + 2 ^ 22)
/-- Does a 4 KiB loft page hold part of a stream buffer? -/
def streamPage (u : Unit) (j : Nat) : Bool :=
  u.streams.any (fun b => decide (b.off < (j + 1) * 4096) && decide (j * 4096 < b.off + b.size))
/-- Do loft bytes overlap a stream buffer? -/
def inStream (u : Unit) (off n : Nat) : Bool :=
  u.streams.any (fun b => decide (b.off < off + n) && decide (off < b.off + b.size))
/-- The number of a unit's stream buffer that holds loft byte `o`. -/
def Unit.streamAt (u : Unit) (o : Nat) : Option Nat :=
  u.streams.findIdx? (fun b => decide (b.off ≤ o) && decide (o < b.off + b.size))
/-- The window map's leaf for an address (R448): type 1, R and W, A and D already set, STREAM by the stream table. -/
def windowLeaf (u : Unit) (va : Word) : Leaf :=
  let j := (va.toNat - windowBase) / 4096
  ⟨toW (j * 2 ^ 30 + 2 ^ 12 + (if streamPage u j then 2 ^ 8 else 0) + 0x67), 4096, none⟩

/-- The combinations of R177 and R179 that raise FT_PAGE on any use of a leaf; the unit index of type 2 is judged with the pass. -/
def leafOk (l : Leaf) : Bool :=
  let w := l.pte
  let f := pteFrame w
  let t := pteType w
  fld w.toNat 9 3 == 0 && (t == 6 || ptePeer w == 0) && (t == 7 || f % (l.size / 4096) == 0) &&
  (pteMode w == 0) == (t != 6) && (!pteStream w || t == 1) && (!pteSealed w || t == 0) &&
  match t with
  | 0 => true
  | 1 => decide (l.size ≤ 2 ^ 21) && f / 1024 == 0
  | 2 => decide (l.size ≤ 2 ^ 21)
  | 3 => true
  | 4 => true
  | 5 => l.size == 4096
  | 6 => decide (ptePeer w < 1024)
  | 7 => decide (l.size ≤ 2 ^ 21) && (f / 1024) % (l.size / 4096) == 0
  | _ => false

/-! ### Bound views (R299-R301) -/

/-- TRANS of a view descriptor. -/
def vwTrans (d : Desc) : Bool := (dfld d 7 1).testBit 0
/-- DEQ of a view descriptor. -/
def vwDeq (d : Desc) : Bool := (dfld d 7 1).testBit 1
/-- R′: rows of the view. -/
def vwRows (d : Desc) : Nat := if vwTrans d then dfld d 24 4 else dfld d 20 4
/-- C′: columns of the view. -/
def vwCols (d : Desc) : Nat := if vwTrans d then dfld d 20 4 else dfld d 24 4
/-- VVA. -/
def vwBase (d : Desc) : Nat := dfld d 48 8
/-- VPITCH. -/
def vwPitch (d : Desc) : Nat := dfld d 32 4
/-- Bytes of the view region (R300). -/
def vwBytes (d : Desc) : Nat := (vwRows d + 31) / 32 * 32 * vwPitch d
/-- Do `n` bytes from `a` touch the region of a view? -/
def vwTouches (d : Desc) (a n : Nat) : Bool := decide (vwBase d < a + n) && decide (a < vwBase d + vwBytes d)
/-- Do `n` bytes from `a` touch a bound region of a unit? -/
def inView (u : Unit) (a n : Nat) : Bool :=
  u.views.any (fun p => match p.2 with | some v => vwTouches v.desc a n | none => false)

/-- Is a frame of device MMIO space one that R181 lists? -/
def mmioFrame (f : Nat) : Bool :=
  decide (f < 0x800) || (decide (0x1000 ≤ f) && decide (f < 0x1100)) || (decide (0x2000 ≤ f) && decide (f < 0x2010)) ||
  (decide (0x4000 ≤ f) && decide (f < 0x4010))
/-- Where a checked access goes. -/
inductive Phys where
  | hbm (pa : Nat) (sealed : Bool)
  | loft (uid off : Nat)
  | cxl (pa : Nat)
  | host (pa : Nat)
  | mmio (frame off : Nat)
  | peer (peer pa mode cls base size : Nat)
  | shard (handle byte : Nat)
  deriving DecidableEq, Repr

/-- The unit with index `idx` of a unit's pass (R134). -/
def State.passUnit (s : State) (u : Unit) (idx : Nat) : Option Nat :=
  (s.units.find? (fun p => p.2.live && p.2.passId == u.passId && p.2.part == u.part && !p.2.initial && p.2.idx == idx)).map (·.1)

/-- U of a unit's pass. -/
def State.passUnits (s : State) (u : Unit) : Nat :=
  match s.passOf u with
  | some p => p.x * p.y * p.s
  | none => 1

/-- The limits of MMIO accesses (R181, R98). -/
def mmioOk (s : State) (c : XCtx) (k : Kind) (f off : Nat) : Bool :=
  if f < 0x800 then f / 256 == c.part && !(f % 256 == 0 && decide (off < 64))
  else if f < 0x1100 then !k.stores || (c.keep && decide (0x1000 ≤ (f - 0x1000) * 4096 + off) && decide ((f - 0x1000) * 4096 + off < 0x1120))
  else if f < 0x2010 then false
  else
    let port := f - 0x4000
    if off < 0xC00 then
      let pair := if off < 0x400 then off / 16 else (off - 0x400) / 32
      let b := KMap.get QPair.reset s.pairs (64 * port + pair)
      b.part == c.part && (off < 0x400 || c.keep || !k.stores)
    else true

/-- The executing routine's command, when its stores to its output's stream buffer are produced there (R296: STRM). -/
def State.routineStream (s : State) : Option WainCmd :=
  match s.eng, s.who with
  | none, .wain c => (s.coreOf c).wq.find? (fun w => w.seq == (s.rt c).seq && (dfld w.desc 0 4).testBit 5)
  | _, _ => none

/-- Steps 4 and 5 of R182 for a leaf that grants the access: its target, or the trap. A store to a bound view region of the unit
is refused (R301). -/
def State.target (s : State) (c : XCtx) (k : Kind) (vec : Bool) (va : Word) (n al : Nat) (l : Leaf) : Except TrapInfo Phys :=
  let w := l.pte
  let f := pteFrame w
  let off := va.toNat % l.size
  let perm := tr (if k == .fetch then cFETCH else cPERM) 0 va
  let p := s.partOf c.part
  let fin (x : Phys) : Except TrapInfo Phys := if va.toNat % al != 0 then .error (tr cALIGN 0 va) else .ok x
  let view := k.stores && (match c.uid with | some u => inView (s.unitOf u) va.toNat n | none => false)
  let stream (u : Unit) (o : Nat) : Bool := k.stores && !c.keep && s.eng.isNone && (k == .atomic || s.routineStream.isNone) && (pteStream w || inStream u o n)
  if view then .error perm else
  match pteType w with
  | 0 =>
    let pa := f * 4096 + off
    if !p.holds pa || !decide (pa < hbmBytes) then .error perm
    else if !c.keep && p.hidden pa then .error perm
    else
      let sl := pteSealed w && (match c.uid with | some u => s.sealedPass (s.unitOf u) | none => false)
      if sl && k == .atomic then .error perm
      else if KMap.get false s.hbmRetired (pa / 4096) then .error (tr cMCHK 2 va)
      else fin (.hbm pa sl)
  | 1 =>
    let o := (f % 1024) * 4096 + off
    match c.uid with
    | none => .error perm
    | some u =>
      if (s.unitOf u).loftSize ≤ o / 4096 * 4096 || k == .fetch then .error perm
      else if stream (s.unitOf u) o then .error (tr cSTREAM 0 va)
      else fin (.loft u o)
  | 2 =>
    let o := (f % 1024) * 4096 + off
    match c.uid with
    | none => .error perm
    | some u =>
      match s.passUnit (s.unitOf u) (f / 1024) with
      | none => .error (tr (if k == .fetch then cFETCH else cPAGE) 0 va)
      | some v =>
        if (s.unitOf v).loftSize ≤ o / 4096 * 4096 || k == .fetch then .error perm
        else if stream (s.unitOf v) o then .error (tr cSTREAM 0 va)
        else fin (.loft v o)
  | 3 =>
    let pa := f * 4096 + off
    if pa < p.cxlBase || p.cxlBase + p.cxlSize ≤ pa || k == .atomic then .error perm else fin (.cxl pa)
  | 4 => if k == .atomic then .error perm else fin (.host (f * 4096 + off))
  | 5 =>
    if !mmioFrame f then .error (tr (if k == .fetch then cFETCH else cPAGE) 0 va)
    else if k == .atomic || vec || n != 8 || k == .fetch || !mmioOk s c k f off then .error perm else fin (.mmio f off)
  | 6 =>
    if k == .fetch then .error perm
    else fin (.peer (ptePeer w) (f * 4096 + off) (pteMode w) (pteClass w) (va.toNat / l.size * l.size) l.size)
  | _ =>
    if k == .atomic || k == .fetch then .error perm
    else fin (.shard (f % 1024) (f / 1024 * 4096 + off))

/-- Set A, and D for a store, by an OR into the entry in memory (R182). -/
def State.setAD (s : State) (k : Kind) (l : Leaf) : State :=
  match l.entry with
  | none => s
  | some a =>
    let bits : Word := 0x20 ||| (if k.stores then 0x40 else 0)
    if l.pte ||| bits = l.pte then s else s.hbmWrite a (leBytes 8 (toW (memVal s.hbm a 8) ||| bits).toNat)

/-- The leaf an access uses: the window map, a cached leaf where `staleTlb` says so, or the walk's (R185, R448). -/
def State.leafFor (s : State) (c : XCtx) (va : Word) : Option (Option Leaf) :=
  if inWindow va then
    match c.uid with
    | some u => some (some (windowLeaf (s.unitOf u) va))
    | none => none
  else
    match (if s.staleTlb then s.tlbFind c.part c.asid va else none) with
    | some l => some (some l)
    | none => s.walk c.part c.asid va

/-- The pointer entries that a walk reads on its way to a leaf, by level. -/
def ptrsFrom (s : State) (old : Nat → Option Word) (va : Word) : Nat → Nat → Nat → List (Nat × Word)
  | 0, _, _ => []
  | fuel + 1, level, table =>
    let e := (old level).getD (toW (memVal s.hbm (table + 8 * vaIndex va level false) 8))
    if !pteV e || fld e.toNat 1 3 != 0 || 3 ≤ level then [] else (level, e) :: ptrsFrom s old va fuel (level + 1) (pteFrame e * 4096)
/-- Keep what a walk has read (R176, R184): a valid directory entry, and with a leaf the pointer entries that led to it. -/
def State.cacheWalk (s : State) (part asid : Nat) (va : Word) (l : Option Leaf) : State :=
  let s1 := s.cacheDir part asid
  if l.isNone then s1
  else
    let new := (ptrsFrom s (s.ptrFind part asid va) va 4 0 (dirRoot (s.dirEntry part asid) * 4096)).map (fun x => (⟨part, asid, x.1, vaPath va x.1, x.2⟩ : PtrEntry))
    { s1 with ptrs := new ++ s1.ptrs.filter (fun t => !new.any (fun x => x.part == t.part && x.asid == t.asid && x.level == t.level && x.path == t.path)) }
/-- The leaf an access uses, with what its walk leaves in the caches. -/
def State.leafRead (s : State) (c : XCtx) (va : Word) : Option (Option Leaf) × State :=
  let l := s.leafFor c va
  (l, if inWindow va || (s.staleTlb && (s.tlbFind c.part c.asid va).isSome) then s else s.cacheWalk c.part c.asid va (l.bind id))

/-- Translate and check an access of `n` bytes aligned to `al`, in the order of R182. -/
def State.xlate (s : State) (c : XCtx) (k : Kind) (vec : Bool) (va : Word) (n al : Nat) : Acc Phys :=
  let page := tr (if k == .fetch then cFETCH else cPAGE) 0 va
  let perm := tr (if k == .fetch then cFETCH else cPERM) 0 va
  if !canonical va then .trap page s
  else
    match s.leafRead c va with
    | (none, s) => .trap page s
    | (some none, s) => .trap (tr cMCHK 2 va) s
    | (some (some l), s) =>
      if !leafOk l then .trap page s
      else if pteType l.pte == 2 && (match c.uid with
          | some u => decide (s.passUnits (s.unitOf u) ≤ pteFrame l.pte / 1024)
          | none => true) then .trap page s
      else
        let w := l.pte
        let granted := match k with
          | .load => pteR w
          | .store => pteW w
          | .atomic => pteR w && pteW w
          | .fetch => pteX w
        if (pteK w && !c.keep) || !granted then .trap perm s
        else
          match s.target c k vec va n al l with
          | .error t => .trap t s
          | .ok x =>
            let s1 := s.setAD k l
            .ok x (if l.entry.isSome then s1.tlbAdd c.part c.asid va
              { l with pte := w ||| 0x20 ||| (if k.stores then 0x40 else 0) } else s1)

/-- The translation context of the executing agent (R302: routines and sheaves as task mode). -/
def State.xc (s : State) : XCtx :=
  let u := s.cu
  { part := u.part, asid := u.asid, keep := s.keeper, uid := some s.uid }

end Sys2Proof.Machine
end

