-- ==== Sys2Proof/Machine/Access.lean ====
section
/-!
DEFINITION. Checked accesses: loads, stores and atomics of every target (R60-R71, R97, R179-R183, R215, R216), the fabric
cache (R61), the migration counters (R63, R64), the export tables (R57) and the acknowledgement levels (R65). Each is
performed at once, in one interleaving (log 8).
-/
namespace Sys2Proof.Machine

/-- Count one event in telemetry under counter `n`. -/
def State.count (s : State) (n : Nat) : State := { s with telemetry := KMap.upd 0 s.telemetry n (· + 1) }
/-- Telemetry counters: what the spec says is counted, by numbers of the model (log 26). -/
def tmStaleAdv : Nat := 1
def tmExport : Nat := 2
def tmFaultWait : Nat := 3
def tmDisp : Nat := 4
def tmRing : Nat := 5
def tmFrame : Nat := 6
def tmTrigger : Nat := 7
def tmKeeperCause : Nat := 8
def tmDoorbell : Nat := 9
def tmCorrected : Nat := 10
def tmAuth : Nat := 11
def tmFlit : Nat := 12
def tmRow : Nat := 13
def tmPatrol : Nat := 14
def tmTrip : Nat := 15
def tmSlot : Nat := 16
def tmDispute : Nat := 17
def tmUncorrected : Nat := 18
def tmDeferred : Nat := 19
def tmReplay : Nat := 20

/-! ### Memory-mapped registers -/

/-- STATE of PCSTAT (R99). -/
def partCode : PartState → Nat
  | .off => 0 | .active => 1 | .quiescing => 2 | .quiesced => 3 | .revoked => 4
/-- Has a pass ended (R141)? -/
def PassState.over : PassState → Bool
  | .done | .faulted | .cancelled => true
  | _ => false
/-- OPEN: passes whose completion record is not yet written (R99, R108). -/
def Partition.openPasses (p : Partition) : Nat := (p.passes.filter (fun x => !x.recorded)).length
/-- PCSTAT (R99). -/
def Partition.pcstat (p : Partition) : Nat := partCode p.st + p.openPasses % 512 * 2 ^ 16 + (p.lostcmp % 65536) * 2 ^ 32
/-- A partition control register (R99); unassigned and write-only offsets read 0 (R98). -/
def Partition.reg (p : Partition) (off : Nat) : Word :=
  match off with
  | 0x00 => toW p.pcstat
  | 0x08 => p.pcctl
  | 0x20 => p.pcexpb
  | 0x28 => p.pcexpc
  | 0x30 => p.pcsym
  | 0x38 => toW p.pcseq
  | _ => 0

/-- STATE of THPSTS (R42, R48). -/
def portCode : PortState → Nat
  | .down => 0 | .detect => 1 | .equalise => 2 | .confirm => 3 | .up => 4 | .disputed => 5 | .disabled => 6 | .retire => 7
/-- THPSTS (R48). -/
def Port.status (p : Port) : Nat :=
  portCode p.st + (p.disp % 4) * 2 ^ 10 + p.width.toNat * 2 ^ 12 + p.speed.toNat * 2 ^ 14 + p.lanes.toNat * 2 ^ 16 +
  (if p.st == .up then p.partnerPort % 64 * 2 ^ 38 + p.partnerPeer % 4096 * 2 ^ 44 else 0)

/-- The code of a pass's state (R141). -/
def passCode : PassState → Nat
  | .queued => 0 | .held => 1 | .ready => 2 | .placed => 3 | .running => 4 | .parked => 5 | .done => 6 | .faulted => 7 | .cancelled => 8
/-- The telemetry region (R48, R117, R176), with the states of the 512 passes launched last in each partition (R141), the counters, and the
reported frames behind their number (R121) at offsets of the model (log 26); other offsets read 0. -/
def State.telemetryReg (s : State) (off : Nat) : Word :=
  if off == 0x100 then toW s.powerLimit
  else if off == 0x108 then s.domId
  else if off == 0x110 then (match s.peer with | some p => toW p | none => 0xFFFFFFFFFFFFFFFF)
  else if 0x1000 ≤ off && off < 0x1000 + 8 * 36 then toW (KMap.get Port.reset s.ports ((off - 0x1000) / 8)).status
  else if 0x2000 ≤ off && off < 0x2080 then
    let p := s.partOf ((off - 0x2000) / 16)
    if off % 16 == 0 then toW p.shareBase else toW p.shareSize
  else if 0x3000 ≤ off && off < 0x3200 then toW (KMap.get 0 s.telemetry ((off - 0x3000) / 8))
  else if off == 0x4000 then toW s.rowReports.length
  else if 0x4000 < off && off < 0xC000 then toW (s.rowReports.getD ((off - 0x4000) / 8 - 1) 0)
  else if 0x10000 ≤ off && off < 0x18000 then
    let p := s.partOf ((off - 0x10000) / 0x1000)
    let k := off % 0x1000 / 8
    match p.passes.find? (fun x => x.seq % 512 == k && decide (p.pcseq < x.seq + 512)) with
    | some x => toW (passCode x.st)
    | none => 0
  else 0

/-- A ring's configuration register (R51). -/
def Ring.cfg (r : Ring) : Word :=
  toW (r.logn % 16 + (if r.en then 16 else 0) + r.asid % 65536 * 2 ^ 16 + r.cons.toNat * 2 ^ 32)
/-- A register of an Ethernet port's frame (R51); doorbells are write-only and read 0. -/
def State.ethReg (s : State) (port off : Nat) : Word :=
  if 0x400 ≤ off && off < 0xC00 then
    let b := KMap.get QPair.reset s.pairs (64 * port + (off - 0x400) / 32)
    match off % 32 with
    | 0 => b.send.base
    | 8 => b.send.cfg
    | 16 => b.recv.base
    | 24 => b.recv.cfg
    | _ => 0
  else 0

/-- An MMIO read (R181, R98). In SAFE, BAR 0 and BAR 2 read as zero (R114). -/
def State.mmioRead (s : State) (f off : Nat) : Word :=
  if f < 0x1100 && s.mgst == .safe then 0
  else if f < 0x800 then
    let o := (f % 256) * 4096 + off
    if 0x1000 ≤ o && o < 0x1040 then (s.partOf (f / 256)).reg (o - 0x1000) else 0
  else if f < 0x1100 then s.telemetryReg ((f - 0x1000) * 4096 + off)
  else s.ethReg (f - 0x4000) off

/-- An MMIO write goes to the device, which performs such writes in program order, each exactly once (R181). -/
def State.mmioWrite (s : State) (keep : Bool) (f off : Nat) (v : Word) : State :=
  let put (i : DevWrite) : State := { s with device := s.device ++ [i] }
  if f < 0x1100 && s.mgst == .safe then s
  else if f < 0x800 then put (.reg keep (f * 4096 + off) v)
  else if f < 0x4000 then s
  else
    let port := f - 0x4000
    if off < 0x400 then
      put (.doorbell port (off / 16) (off % 16 != 0) v)
    else if off < 0xC00 then
      let q := (off - 0x400) / 32
      let recv := decide (16 ≤ off % 32)
      let b := KMap.get QPair.reset s.pairs (64 * port + q)
      let r := if recv then b.recv else b.send
      if off % 16 == 0 then
        if r.en then s
        else
          let r' := { r with base := v }
          { s with pairs := KMap.set QPair.reset s.pairs (64 * port + q) (if recv then { b with recv := r' } else { b with send := r' }) }
      else if r.en && !(v.getLsbD 4) then put (.ring port q recv false v)
      else if !r.en then put (.ring port q recv true v)
      else s
    else s

/-- A task's store of a trigger word to its doorbell traps where the named plan has failed (R84), or the partition is REVOKED (R93). -/
def State.fireTrap (s : State) (f off : Nat) (v : Word) : Option TrapInfo :=
  if s.mgst == .safe || decide (0x800 ≤ f) || f % 256 != 1 || off != 0x18 then none
  else if (s.partOf (f / 256)).st == .revoked then some (tr cREVOKED 0 0)
  else
    match s.plans.find? (fun x => x.part == f / 256 && x.handle == fld v.toNat 0 12) with
    | some x => x.failed.map (fun c => tr cPLAN c.toNat (toW x.handle))
    | none => none

/-! ### The sealed log -/

/-- Log capacity: ⌊WLOG × 4,096 / 80⌋ entries (R216). -/
def State.logCap (s : State) (u : Unit) : Nat :=
  match s.passOf u with
  | some p => p.wlog * 4096 / 80
  | none => 0
/-- Overlay a task's log on bytes read at a physical address (R215). -/
def logRead (log : List LogEntry) (pa : Nat) (l : List Byte) : List Byte :=
  (List.range l.length).map (fun i =>
    match log.find? (fun e => e.addr == (pa + i) / 64 * 64) with
    | some e => if e.mask.getLsbD ((pa + i) % 64) then e.data.extractLsb' (8 * ((pa + i) % 64)) 8 else l.getD i 0
    | none => l.getD i 0)
/-- Put bytes into a granule entry at offset `o`. -/
def LogEntry.put (e : LogEntry) (o : Nat) (l : List Byte) : LogEntry :=
  { e with data := dput e.data o l.length (leVal l), mask := e.mask ||| BitVec.ofNat 64 ((2 ^ l.length - 1) <<< o) }
/-- Write bytes of one granule into a log (R216): none when a new entry does not fit. -/
def logWrite (cap : Nat) (log : List LogEntry) (pa : Nat) (va : Word) (l : List Byte) : Option (List LogEntry) :=
  let g := pa / 64 * 64
  if log.any (fun e => e.addr == g) then some (log.map (fun e => if e.addr == g then e.put (pa % 64) l else e))
  else if cap ≤ log.length then none
  else some (log ++ [({ addr := g, va := toW (va.toNat / 64 * 64), data := 0, mask := 0 } : LogEntry).put (pa % 64) l])

/-! ### Local targets -/

/-- Is a tier frame's port down (R97)? -/
def State.cxlPortDown (s : State) (pa : Nat) : Bool :=
  if s.cxlDown.isEmpty then false else KMap.get false s.cxlDown (Config.cxlPort (pa / 4096))

/-- Has a unit a context record in its reserve slot (R149, R150)? -/
def Unit.recorded (u : Unit) : Bool := u.live && u.ctxPA != 0 && (u.place == .faulted || !u.ctxCheck.isEmpty)
/-- The replies that a record lists: those of reeves and sheaves that had not arrived when the unit halted (R318, R319). -/
def Unit.listed (u : Unit) : List Pending := u.replies.filter (fun p => decide (p.agent < 10) && !p.landed)
/-- Bytes of a context record that a keeper's store does not change (R149, R319): RO fields of a parked unit's header and
pending replies. -/
def State.ctxRO (s : State) (pa : Nat) : Bool :=
  s.units.any (fun p => p.2.recorded && decide (p.2.ctxPA ≤ pa) &&
    (let o := pa - p.2.ctxPA
     (decide (o < 64) && o != 1 && !(decide (40 ≤ o) && decide (o < 56))) ||
     (decide (960 ≤ o) && decide (o < 960 + 96 * p.2.listed.length))))
/-- A store to HBM, dropping bytes of read-only fields; a DISP that means nothing is counted (R149). -/
def State.hbmStore (s : State) (a : Nat) (l : List Byte) : State :=
  if s.units.any (fun p => p.2.recorded) then
    (if s.units.any (fun p => p.2.place == .faulted && decide (a ≤ p.2.ctxPA + 1) && decide (p.2.ctxPA + 1 < a + l.length) &&
        decide (4 ≤ (l.getD (p.2.ctxPA + 1 - a) 0).toNat)) then s.count tmDisp else s).hbmWrite a ((List.range l.length).map (fun i => if s.ctxRO (a + i) then KMap.get 0 s.hbm (a + i) else l.getD i 0))
  else s.hbmWrite a l

/-- Do `n` bytes of a unit's loft, wherever it stands, hold a word with an uncorrectable error (R34)? -/
def State.loftBad (s : State) (u o n : Nat) : Bool :=
  let x := s.unitOf u
  if x.loftResident then x.loftPoison.any (fun p => decide (8 * p.1 < o + n) && decide (o < 8 * p.1 + 8)) else s.hbmBad (x.loftPA + o) n
/-- Read bytes of a unit's loft: the resident half, or its spilled image (R137, R150). -/
def State.loftRead (s : State) (u o n : Nat) : List Byte :=
  let x := s.unitOf u
  if x.loftResident then memRead x.loft o n else memRead s.hbm (x.loftPA + o) n
/-- Write bytes of a unit's loft, wherever it stands. -/
def State.loftWrite (s : State) (u o : Nat) (l : List Byte) : State :=
  if (s.unitOf u).loftResident then s.modUnit u (fun y => { y with loft := memWrite y.loft o l, loftPoison := clearMarks y.loftPoison 8 o l.length })
  else s.hbmWrite ((s.unitOf u).loftPA + o) l
/-- HBM as a sealed pass of the executing agent sees it: as it stood at the last merge point (R215). -/
def State.snapRead (s : State) (pa n : Nat) : List Byte :=
  let l := memRead s.hbm pa n
  match s.passOf s.cu with
  | some p => if p.snap.isEmpty then l else (List.range n).map (fun i => (KMap.get none p.snap (pa + i)).getD (l.getD i 0))
  | none => l
/-- A store of a unit's sealed pass by a page without SEALED: the snapshot keeps what the bytes held at the merge point (R215). -/
def State.keepSnap (s : State) (u pa n : Nat) : State :=
  let x := s.unitOf u
  if s.sealedPass x then
    s.modPass x.part (passSeq x.passId) (fun p => { p with
      snap := (List.range n).foldl (fun m i => if (KMap.get none m (pa + i)).isSome then m else KMap.set none m (pa + i) (some (KMap.get 0 s.hbm (pa + i)))) p.snap })
  else s
/-- Read bytes of a local target. `log` is the task's log, or empty for an engine (R215: engines read the snapshot). -/
def State.readPhys (s : State) (log : List LogEntry) (x : Phys) (va : Word) (n : Nat) : Except TrapInfo (List Byte) :=
  match x with
  | .hbm pa sealed =>
    if s.hbmBad pa n then .error (tr cMCHK 2 va)
    else .ok (if sealed then logRead log pa (s.snapRead pa n) else memRead s.hbm pa n)
  | .loft u o => if s.loftBad u o n then .error (tr cMCHK 2 va) else .ok (s.loftRead u o n)
  | .cxl pa => if s.cxlPortDown pa || s.cxlBad pa n then .error (tr cMCHK 5 va) else .ok (memRead s.cxl pa n)
  | .host pa => .ok (memRead s.host pa n)
  | .mmio f o => .ok (leBytes n (s.mmioRead f o).toNat)
  | .peer .. | .shard .. => .error (tr cPERM 0 va)

/-- Write bytes to a local target. A sealed page takes them into the log of reeve `r` of unit `u`, or refuses an engine. -/
def State.writePhys (s : State) (u : Nat) (r : Option Nat) (keep : Bool) (x : Phys) (va : Word) (l : List Byte) :
    Except TrapInfo State :=
  match x with
  | .hbm pa sealed =>
    if sealed then
      match r with
      | none => .error (tr cPERM 0 va)
      | some r =>
        let un := s.unitOf u
        match logWrite (s.logCap un) (un.reeveOf r).log pa va l with
        | none => .error (tr cSEALFULL 0 va)
        | some log => .ok (s.modUnit u (fun y => y.modReeve r (fun z => { z with log := log })))
    else .ok ((s.keepSnap u pa l.length).hbmStore pa l)
  | .loft v o => .ok (s.loftWrite v o l)
  | .cxl pa => if s.cxlPortDown pa then .error (tr cMCHK 5 va) else .ok { s with cxl := memWrite s.cxl pa l }
  | .host pa => .ok { s with host := memWrite s.host pa l }
  | .mmio f o =>
    match s.fireTrap f o (toW (leVal l)) with
    | some t => .error t
    | none => .ok (s.mmioWrite keep f o (toW (leVal l)))
  | .peer .. | .shard .. => .error (tr cPERM 0 va)

/-- Pieces of `n` bytes from `va` that do not cross a 4 KiB boundary. -/
def chunks (va : Word) (n : Nat) : List (Word × Nat) :=
  let first := 4096 - va.toNat % 4096
  if n == 0 then []
  else if n ≤ first then [(va, n)]
  else (va, first) :: (List.range ((n - first + 4095) / 4096)).map (fun i =>
    (va + toW (first + 4096 * i), if n - first < 4096 * (i + 1) then n - first - 4096 * i else 4096))

/-- Pieces of `n` bytes from `va` that do not cross a 64-byte line. -/
def lines (va : Word) (n : Nat) : List (Word × Nat) :=
  let o := va.toNat % 64
  (List.range (ceilDiv (o + n) 64)).map (fun j =>
    let lo := if j == 0 then 0 else 64 * j - o
    let hi := if 64 * (j + 1) - o < n then 64 * (j + 1) - o else n
    (va + toW lo, hi - lo))
/-- A checked piece of an access, cut at 64-byte lines where HBM, here or at a peer, holds it (R61, R216). -/
def linePieces (p : Word × Nat × Phys) : List (Word × Nat × Phys) :=
  let cut (f : Nat → Phys) : List (Word × Nat × Phys) := (lines p.1 p.2.1).map (fun q => (q.1, q.2, f (q.1 - p.1).toNat))
  match p.2.2 with
  | .hbm pa sl => cut (fun o => .hbm (pa + o) sl)
  | .peer r pa m c b z => cut (fun o => .peer r (pa + o) m c b z)
  | _ => [p]

/-- Read `n` bytes at a virtual address from local targets, piece by piece in increasing address (an engine's, a keeper
table's or a descriptor's read). -/
def State.readVA (s : State) (c : XCtx) (log : List LogEntry) (va : Word) (n : Nat) : Acc (List Byte) :=
  (chunks va n).foldl (fun acc p => acc.bind fun l s =>
    (s.xlate c .load false p.1 p.2 1).bind fun x s =>
      match s.readPhys log x p.1 p.2 with
      | .error t => .trap t s
      | .ok b => .ok (l ++ b) s) (.ok [] s)

/-- Write bytes at a virtual address of local targets, piece by piece. -/
def State.writeVA (s : State) (c : XCtx) (u : Nat) (r : Option Nat) (va : Word) (l : List Byte) : Acc PUnit :=
  (chunks va l.length).foldl (fun acc p => acc.bind fun _ s =>
    (s.xlate c .store false p.1 p.2 1).bind fun x s =>
      match s.writePhys u r c.keep x p.1 ((l.drop (p.1.toNat - va.toNat)).take p.2) with
      | .error t => .trap t s
      | .ok s => .ok ⟨⟩ s) (.ok ⟨⟩ s)

/-! ### The home side (R55-R58) -/

/-- The partition whose share holds a frame. -/
def State.homePart (s : State) (pa : Nat) : Option Nat := (List.range 8).find? (fun p => (s.partOf p).st != .off && (s.partOf p).holds pa)

/-- One export table entry admits a request (R57). -/
def exportEntry (e : Nat) (frame peer part perm : Nat) : Bool :=
  let count := fld e 96 32
  let base := fld e 64 32
  count != 0 && decide (base ≤ frame) && decide (frame < base + count) &&
  (fld e 48 16 == 0xFFF || fld e 48 16 == peer) && (fld e 40 8 == 0xFF || fld e 40 8 == part) && (fld e 32 8).testBit perm

/-- Permission bits of PERM: R, W, A. -/
def expR : Nat := 0
def expW : Nat := 1
def expA : Nat := 2

/-- Does the home admit a request (R57)? An unreadable table admits nothing and is counted. The home reads it with a keeper's permissions, and a
count of 257-511 stands for 256 (log 25). -/
def State.admits (s : State) (pa peer part perm : Nat) : Bool × State :=
  match s.homePart pa with
  | none => (false, s)
  | some h =>
    let p := s.partOf h
    let n := fld p.pcexpc.toNat 16 9
    if n == 0 then (false, s)
    else if p.pcexpb.toNat % 16 != 0 then (false, s.count tmExport)
    else
      match s.readVA ⟨h, fld p.pcexpc.toNat 0 16, true, none⟩ [] p.pcexpb (16 * (if n < 256 then n else 256)) with
      | .ok l s => ((List.range (l.length / 16)).any (fun i => exportEntry (leVal ((l.drop (16 * i)).take 16)) (pa / 4096) peer part perm), s)
      | .trap _ s => (false, s.count tmExport)
      | .wait _ s => (false, s.count tmExport)

/-- The new value of an atomic operation on the low bits of old and operand (R355): wrapping, or one rounding with RNE. -/
def amoNew (op : AmoOp) (t : Ty) (old opnd : Nat) : Nat :=
  let w := tyWidth t
  let o := low w old
  let p := low w opnd
  match op with
  | .swap => p
  | .add => low w (o + p)
  | .and => o &&& p
  | .or => o ||| p
  | .xor => o ^^^ p
  | .min => if intVal t p < intVal t o then p else o
  | .max => if intVal t o < intVal t p then p else o
  | .fadd => (fadd (fmtOf t) o p).1
  | .fmin => (fminmax (fmtOf t) false o p).1
  | .fmax => (fminmax (fmtOf t) true o p).1

/-- Is the stack's thresher queue full for atomics and traffic of no plan: 128 of its 512 entries (R73, R74)? Such a command is held back at
its source. -/
def State.queueFull (s : State) (pa : Nat) : Bool := decide (128 ≤ (KMap.get [] s.thresher (stackOf pa)).length)
/-- The stack's thresher holds a command that touches the same 64-byte line (R69, R74). -/
def State.lineBusy (s : State) (pa : Nat) : Bool :=
  (KMap.get [] s.thresher (stackOf pa)).any (fun c =>
    match c with
    | .amo _ _ _ a _ _ _ _ => a / 64 == pa / 64
    | .cas _ _ _ a _ _ _ _ => a / 64 == pa / 64
    | .merge _ _ _ l _ _ => l.any (fun a => a / 64 == pa / 64))

/-! ### The issuing side of peer accesses (R60-R72) -/

/-- The number of an issuing agent in the pending-reply table (log 11). -/
def State.agentNo (s : State) : Nat :=
  match s.eng, s.who with
  | some n, _ => n
  | none, .reeve r => r
  | none, .sheaf k => 2 + k
  | none, .wain c => 100 + (s.rt c).seq
/-- Pending replies of member requests stand under this key and above: they are discarded at pre-emption (R90). -/
def memberKey : Nat := 2 ^ 50
/-- The replies an agent awaits or holds. -/
def Unit.pendOf (u : Unit) (agent elem : Nat) : Option Pending := u.replies.find? (fun p => p.agent == agent && p.elem == elem)
/-- Replies of a unit that have not arrived, those of sharded requests among them: at most 256 (R318). -/
def State.outstandingOf (s : State) (uid : Nat) : Nat :=
  ((s.unitOf uid).replies.filter (fun p => p.reply.isNone)).length + (s.shardOut.filter (fun o => o.uid == uid && o.gone && o.status.isNone && s.peer != some o.peer)).length
/-- Those of the executing agent's unit. -/
def State.outstanding (s : State) : Nat := s.outstandingOf s.uid
/-- Has the executing agent's instruction sent requests? -/
def State.inFlight (s : State) : Bool :=
  s.cu.replies.any (fun p => p.agent == s.agentNo) || s.shardOut.any (fun o => o.uid == s.uid && o.agent == s.agentNo)
/-- Has the instruction of agent `a` of unit `uid` sent requests? -/
def State.reqOut (s : State) (uid a : Nat) : Bool :=
  (s.unitOf uid).replies.any (fun p => p.agent == a) || s.shardOut.any (fun o => o.uid == uid && o.agent == a)
/-- The pending replies of the executing instruction go. -/
def State.dropOwn (s : State) : State :=
  if s.cu.replies.isEmpty then s else s.modCu (fun u => { u with replies := u.replies.filter (fun p => p.agent != s.agentNo) })
/-- So do its sharded accesses in flight. -/
def State.dropShards (s : State) : State :=
  if s.shardOut.isEmpty then s else { s with shardOut := s.shardOut.filter (fun o => !(o.uid == s.uid && o.agent == s.agentNo)) }
/-- Drop the replies of the executing agent: its instruction is over. -/
def State.dropReplies (s : State) : State := s.dropOwn.dropShards
/-- The die a core lies on: 64 cores a die (R25), by number (log 25). -/
def dieOf (core : Nat) : Nat := core / 64

/-- Is a peer a revoked participant's in the enclave of partition `p` (R131)? A member entry holds the peer in [11:0] and the
participant in [19:16] (R125). -/
def State.peerRevoked (s : State) (p peer : Nat) : Bool :=
  if s.enclaves.isEmpty then false
  else s.enclaves.any (fun e => e.id == (s.partOf p).enclave &&
    e.members.any (fun m => fld m.toNat 0 12 == peer && e.revoked.contains (fld m.toNat 16 4)))
/-- Has the enclave key of partition `p` been zeroised, so that nothing can be sent under it (R41, R128)? -/
def State.keyless (s : State) (p : Nat) : Bool :=
  if s.enclaves.isEmpty then false
  else s.enclaves.any (fun e => e.id == (s.partOf p).enclave && e.key == 0)
/-- Do all ports of a peer's routes drop what comes under a key slot (R41)? -/
def State.slotShut (s : State) (k peer : Nat) : Bool :=
  k != 0 && s.peer != some peer && (s.routedPorts peer).all (fun i => ((s.portOf i).slotOf k).dropping)
/-- Are all routes of a peer closed to partition `p`'s enclave, since their ports drop what comes under its slot (R41)? -/
def State.slotDropped (s : State) (p peer : Nat) : Bool := if s.enclaves.isEmpty then false else s.slotShut (s.partSlot p) peer
/-- Is a peer unreachable for partition `p` (R70, R72, R117, R118, R131)? -/
def State.peerGoneFor (s : State) (p peer : Nat) : Bool :=
  s.peer.isNone || KMap.get false s.unreachable peer ||
  (s.peer != some peer && (KMap.get 0xFFFFFFFF s.routes peer = 0xFFFFFFFF || s.keyless p || s.slotDropped p peer)) || s.peerRevoked p peer
/-- Is a peer unreachable for the executing agent? -/
def State.peerGone (s : State) (peer : Nat) : Bool := s.peerGoneFor s.cu.part peer

/-- FT_MCHK PEER, with the peer number in INFO0 (R70, R314). -/
def peerTrap (va : Word) (peer : Nat) : TrapInfo := tri cMCHK 4 va (toW peer)

/-- A fabric-cache line (R61). -/
def State.fcFind (s : State) (die part asid va : Nat) : Option FcLine :=
  s.fabric.find? (fun l => l.die == die && l.part == part && l.asid == asid && l.va == va / 64 * 64)
/-- The fills in flight for a line, after a store or atomic of the die to it. -/
def State.fcClose (s : State) (die part asid va : Nat) : List FcFill :=
  s.fills.map (fun f => if f.die == die && f.part == part && f.asid == asid && f.va == va / 64 * 64 then
    { f with noInstall := true, closed := true } else f)
/-- Update a cached copy in place by a store of the issuing die (R60). -/
def State.fcStore (s : State) (die part asid va : Nat) (l : List Byte) : State :=
  { s with fills := s.fcClose die part asid va, fabric := s.fabric.map (fun x =>
      if x.die == die && x.part == part && x.asid == asid && x.va == va / 64 * 64
      then { x with data := dput x.data (va % 64) l.length (leVal l) } else x) }
/-- Invalidate the issuing die's copy of a line (R60). -/
def State.fcDrop (s : State) (die part asid va : Nat) : State :=
  { s with
    fills := s.fcClose die part asid va
    fabric := s.fabric.filter (fun x => !(x.die == die && x.part == part && x.asid == asid && x.va == va / 64 * 64)) }

/-- Install a line in a die's fabric cache, in place of an older copy; beyond 8 MiB the oldest line of the die goes (R61, log 28). -/
def State.fcInstall (s : State) (x : FcLine) : State :=
  let rest := s.fabric.filter (fun l => !(l.die == x.die && l.part == x.part && l.asid == x.asid && l.va == x.va))
  let mine := rest.filter (fun l => l.die == x.die)
  { s with fabric := x :: (if mine.length < 131072 then rest else match mine.getLast? with | some l => rest.erase l | none => rest) }
/-- Has another agent of the die a store to a line that is not yet visible (R62, R206)? `f` picks the stores. -/
def State.dieStore (s : State) (die part asid va : Nat) (f : Nat → Nat → RemoteStore → Bool) : Bool :=
  s.units.any (fun u => u.2.part == part && u.2.asid == asid && dieOf u.2.core == die && u.2.reeves.any (fun r =>
    r.2.stores.any (fun t => t.addr.toNat / 64 == va / 64 && f u.1 r.1 t)))
/-- A store of another task of the die to a line is not yet visible. -/
def State.dieWait (s : State) (die part asid va : Nat) : Bool :=
  s.dieStore die part asid va (fun u r _ => !(u == s.uid && r == s.rIdx))
/-- A `.sc` store of another agent of the die to a line is not yet visible (R206). -/
def State.dieSc (s : State) (die part asid va : Nat) : Bool :=
  s.dieStore die part asid va (fun u _ t => t.hold = 3 && !(u == s.uid && t.agent == s.agentNo))

/-- An acquire at a scope by the executing agent: at `.dm` or `.sy` it discards the fabric-cache lines of the task's address
space in its die, and no fill in flight installs (R61). -/
def State.acquire (s : State) (scope : Nat) : State :=
  if scope < 4 then s
  else
    let u := s.cu
    let d := dieOf s.curCore
    { s with
      fabric := s.fabric.filter (fun x => !(x.die == d && x.part == u.part && x.asid == u.asid))
      fills := s.fills.map (fun f => if f.die == d && f.part == u.part && f.asid == u.asid then { f with noInstall := true } else f) }

/-- The threshold of a migration class (R63). -/
def migThreshold (cls : Nat) : Nat :=
  match cls with
  | 1 => 64 | 2 => 256 | 3 => 1024 | 4 => 4096 | 5 => 16384 | 6 => 65536 | _ => 262144

/-- A fault record body without its SEQ (R314). -/
def faultBody (flags code sub task : Nat) (passId iaddr tval info0 info1 ctxpa : Word) : Desc :=
  BitVec.ofNat 512 ((flags % 256) * 2 ^ 64 + (code % 256) * 2 ^ 72 + (sub % 65536) * 2 ^ 80 + (task % 2 ^ 32) * 2 ^ 96 +
    passId.toNat * 2 ^ 128 + iaddr.toNat * 2 ^ 192 + tval.toNat * 2 ^ 256 + info0.toNat * 2 ^ 320 + info1.toNat * 2 ^ 384 +
    ctxpa.toNat * 2 ^ 448)

/-- Slots of the record queue. -/
def recSlots : Nat := 4096
/-- The last record the keeper has handled: CONSUMED. -/
def State.consumed (s : State) (p : Nat) : Nat := memVal s.hbm ((s.partOf p).reserveBase + 2 ^ 18) 8
/-- Is there space for `n` more records? -/
def State.recordsFit (s : State) (p n : Nat) : Bool := decide ((s.partOf p).faultSeq + n ≤ s.consumed p + recSlots)
/-- Is there space for the next record? -/
def State.recordFits (s : State) (p : Nat) : Bool := s.recordsFit p 1
/-- Queue a fault record of a partition for writing; one that has to wait for space is counted (R315). -/
def State.queueRec (s : State) (p : Nat) (r : FaultRec) : State :=
  let t := s.modPart p (fun x => { x with faults := x.faults ++ [r] })
  if t.recordsFit p (t.partOf p).faults.length then t else t.count tmFaultWait

/-- Count one request to a migrating page (R63); at the threshold queue AS_MIGRATE and mark the counter (R64). -/
def State.migrate (s : State) (part asid base size peer cls : Nat) : State :=
  if cls == 0 then s
  else
    let hit (m : MigCounter) : Bool := m.part == part && m.asid == asid && m.base == base && m.size == size
    let old : MigCounter := (s.migration.find? hit).getD ⟨part, asid, base, size, peer, 0, false⟩
    let c := { old with count := old.count + 1, peer := peer }
    let fire := decide (migThreshold cls ≤ c.count) && !c.reported
    let c := { c with reported := c.reported || fire }
    let rest := s.migration.filter (fun m => !hit m)
    let s := { s with migration := (c :: rest).take 16384 }
    if fire then
      let info := toW (peer % 4096 + asid % 65536 * 65536)
      s.queueRec part ⟨faultBody 0 cMIGRATE 0 0 0 0 (toW base) info (toW c.count) 0, 0, 0, 0, 0, false⟩
    else s

/-- What the executing agent waits for. -/
def State.agentWait (s : State) : Option Wait :=
  match s.eng, s.who with
  | none, .reeve _ => s.re.wait
  | none, _ => s.sh.wait
  | some _, _ => none
/-- The lines that one access sends requests for, counted once per instruction: nothing where a request is already out or waits for a busy
line here. -/
def State.migrateAll (s : State) (xs : List (Word × Phys)) : State :=
  if s.inFlight || decide (256 ≤ s.outstanding) || s.agentWait == some .busy then s
  else
    let u := s.cu
    let keys := xs.filterMap (fun p =>
      match p.2 with
      | .peer pr _ 3 cls base size => if s.peerGone pr then none else some (p.1.toNat / 64, pr, cls, base, size)
      | _ => none)
    keys.eraseDups.foldl (fun s k => s.migrate u.part u.asid k.2.2.2.1 k.2.2.2.2 k.2.1 k.2.2.1) s

/-- Send a request to a peer and enter it in the pending-reply table (R318); 256 outstanding wait. -/
def State.request (s : State) (elem : Nat) (va : Word) (peer : Nat) (addr : Nat) (op : PeerOp) (drops : Option Nat) : State :=
  let u := s.cu
  if 256 ≤ s.outstanding then s
  else
    let t := s.nextTag
    let s := { s with nextTag := t + 1 }.sendReq u.part peer addr (.peerReq peer ⟨(s.peer).getD 0, u.part, t, addr, op⟩)
    s.modCu (fun u => { u with replies := u.replies ++ [⟨t, s.agentNo, elem, va, peer, none, drops, false⟩] })

/-- The answer an agent holds for an element. -/
def answer (va : Word) (peer : Nat) (r : ReplyStatus × List Byte) (s : State) : Acc (List Byte) :=
  match r.1 with
  | .ok => .ok r.2 s
  | .refused => .trap (tr cPERM 0 va) s
  | .unreachable => .trap (peerTrap va peer) s
  | .poison => .trap (tr cMCHK 2 va) s

/-- Is a range of HBM that a peer's address of this package names poisoned, or retired (R34, R121)? -/
def State.homeBad (s : State) (pa n : Nat) : Bool := s.hbmBad pa n || KMap.get false s.hbmRetired (pa / 4096)
/-- A load of `n` bytes from a peer (R60, R61, R67, R70). A line of a fabric-cached page that another task of the die has stored to waits until
that store is visible, and until a fill that such a store closed has come, so that the die's loads follow the home's order (R62). -/
def State.peerLoad (s : State) (elem : Nat) (va : Word) (peer pa mode n : Nat) : Acc (List Byte) :=
  let u := s.cu
  match u.pendOf s.agentNo elem with
  | some p =>
    match p.reply with
    | none => .wait .remote s
    | some r => answer va peer r s
  | none =>
    let die := dieOf s.curCore
    match (if mode == 2 then s.fcFind die u.part u.asid va.toNat else none) with
    | some l => if s.dieSc die u.part u.asid va.toNat then .wait .remote s else .ok (leBytes n (dfld l.data (va.toNat % 64) n)) s
    | none =>
      if s.peerGone peer then .trap (peerTrap va peer) s
      else if s.peer == some peer then
        let (ok, s) := s.admits pa peer u.part expR
        if !ok then .trap (tr cPERM 0 va) s
        else if s.homeBad pa n then .trap (tr cMCHK 2 va) s
        else
          let d := memRead s.hbm pa n
          if mode == 2 then
            .ok d (s.fcInstall ⟨die, u.part, u.asid, va.toNat / 64 * 64, BitVec.ofNat 512 (memVal s.hbm (pa / 64 * 64) 64)⟩)
          else .ok d s
      else if 256 ≤ s.outstanding then .wait .remote s
      else if mode == 2 && (s.dieWait die u.part u.asid va.toNat || s.fills.any (fun f => f.die == die && f.part == u.part && f.asid == u.asid &&
          f.va == va.toNat / 64 * 64 && f.closed)) then .wait .remote s
      else if mode == 2 then
        let base := va.toNat / 64 * 64
        let w := (s.uid, s.agentNo, elem, va.toNat % 64, n)
        match s.fills.find? (fun f => f.die == die && f.part == u.part && f.asid == u.asid && f.va == base && !f.closed) with
        | some f =>
          let s := { s with fills := s.fills.map (fun (g : FcFill) => if g.tag == f.tag then { g with waiters := g.waiters ++ [w] } else g) }
          .wait .remote (s.modCu (fun u => { u with replies := u.replies ++ [⟨f.tag, s.agentNo, elem, va, peer, none, none, false⟩] }))
        | none =>
          let t := s.nextTag
          let s1 := s.request elem va peer (pa / 64 * 64) (.load 64) none
          .wait .remote { s1 with fills := ⟨t, die, u.part, u.asid, base, peer, false, false, [w]⟩ :: s1.fills }
      else .wait .remote (s.request elem va peer pa (.load n) none)

/-- Record the failure of a task's oldest failed remote store, by the order of issue (R71). -/
def State.storeFailed (s : State) (uid r tag : Nat) (code : Nat) (va : Word) (peer : Nat) : State :=
  s.modUnit uid (fun u => u.modReeve r (fun x => { x with
    fail := match x.fail with
      | some f => if f.tag ≤ tag then some f else some ⟨tag, BitVec.ofNat 8 code, va, peer⟩
      | none => some ⟨tag, BitVec.ofNat 8 code, va, peer⟩ }))

/-- A store to a peer (R60, R65, R71): sent, never trapping on its own instruction. -/
def State.peerStore (s : State) (va : Word) (peer pa mode : Nat) (hold : BitVec 2) (l : List Byte) : State :=
  let u := s.cu
  let r := s.rIdx
  let s := if mode != 2 then s
    else if hold = 3 then s.fcDrop (dieOf s.curCore) u.part u.asid va.toNat
    else s.fcStore (dieOf s.curCore) u.part u.asid va.toNat l
  if s.peerGone peer then s.storeFailed s.uid r s.nextTag cMCHK va peer
  else if s.peer == some peer then
    let (ok, s) := s.admits pa peer u.part expW
    if !ok then s.storeFailed s.uid r s.nextTag cPERM va peer
    else if KMap.get false s.hbmRetired (pa / 4096) then s.storeFailed s.uid r s.nextTag cMCHK va peer
    else (s.keepSnap s.uid pa l.length).hbmStore pa l
  else
    let t := s.nextTag
    let n := s.agentNo
    let s := { s with nextTag := t + 1 }.sendReq u.part peer pa (.peerReq peer ⟨(s.peer).getD 0, u.part, t, pa, .store l⟩)
    s.modRe (fun x => { x with stores := x.stores ++ [⟨t, n, va, peer, false, hold⟩] })

/-- An AMO or CAS at the home (R69): admitted, then performed at its line; none while the line is busy. -/
def State.homeAtomic (s : State) (pa n : Nat) (f : Nat → Option Nat) : Option (Nat × State) :=
  if s.lineBusy pa then none
  else
    let old := memVal s.hbm pa n
    some (old, match f old with
      | some v => s.hbmStore pa (leBytes n v)
      | none => s)

/-- Perform an atomic of `n` bytes on a checked target: `f` gives the new value or none for no store; `op` is the request a
peer is sent (R67, R69, R355, R356). -/
def State.atomicPhys (s : State) (elem : Nat) (x : Phys) (va : Word) (n : Nat) (f : Nat → Option Nat) (op : PeerOp) : Acc Nat :=
  match x with
  | .hbm pa _ =>
    if s.hbmBad pa n then .trap (tr cMCHK 2 va) s
    else
      match (s.keepSnap s.uid pa n).homeAtomic pa n f with
      | none => .wait .busy s
      | some (old, s) => .ok old s
  | .loft u o =>
    let old := leVal (s.loftRead u o n)
    if s.loftBad u o n then .trap (tr cMCHK 2 va) s
    else .ok old (match f old with
      | some v => s.loftWrite u o (leBytes n v)
      | none => s)
  | .peer peer pa mode _ _ _ =>
    let u := s.cu
    match u.pendOf s.agentNo elem with
    | some p =>
      match p.reply with
      | none => .wait .remote s
      | some r => (answer va peer r s).bind fun l s => .ok (leVal l) s
    | none =>
      if s.peerGone peer then .trap (peerTrap va peer) s
      else if s.peer == some peer then
        let (ok, s) := s.admits pa peer u.part expA
        if !ok then .trap (tr cPERM 0 va) s
        else if s.homeBad pa n then .trap (tr cMCHK 2 va) s
        else
          match (s.keepSnap s.uid pa n).homeAtomic pa n f with
          | none => .wait .busy s
          | some (old, s) => .ok old (if mode == 2 then s.fcDrop (dieOf s.curCore) u.part u.asid va.toNat else s)
      else
        let s := if mode == 2 then s.fcDrop (dieOf s.curCore) u.part u.asid va.toNat else s
        .wait .remote (s.request elem va peer pa op (if mode == 2 then some (dieOf s.curCore) else none))
  | _ => .trap (tr cPERM 0 va) s

/-! ### Acknowledgements and order (R65, R66, R71) -/

/-- The plain qualifiers of a slot's access (R330). -/
def plainMem : MemQ := ⟨0, 0, 0⟩


/-- The acknowledgement a release or fence waits for: 0 none, 1 accepted, 2 visible (R65). -/
def ackNeed (scope : Nat) (ack : BitVec 2) : Nat := if ack = 0 then (if 4 ≤ scope then 2 else 0) else ack.toNat

/-- The trap that a recorded failure raises, later than it arose (R71, R314). -/
def StoreFail.trap (f : StoreFail) : TrapInfo :=
  { (if f.code = BitVec.ofNat 8 cMCHK then peerTrap f.addr f.peer else tr f.code.toNat 0 f.addr) with late := true }
/-- The earlier remote stores that an operation of the executing agent follows: those of its task's reeve and sheaves, or of its routine (R297). -/
def State.ownStores (s : State) : List RemoteStore :=
  s.re.stores.filter (fun t => match s.who with | .wain _ => t.agent == s.agentNo | _ => decide (t.agent < 10))
/-- Later memory operations wait for a store of the same agents with an acknowledgement level (R65). -/
def State.held (s : State) : Bool := s.ownStores.any (fun t => decide (2 ≤ t.hold.toNat) || (t.hold = 1 && !t.accepted))
/-- The recorded store failure of the executing task (R71); a failed store of a routine faults its command instead (R286). -/
def State.ownFail (s : State) : Option StoreFail := match s.who with | .wain _ => none | _ => s.re.fail
/-- Wait for the earlier remote stores of the task, then raise a recorded failure (R65, R71); `none` when neither applies. -/
def State.ackGate (s : State) (need : Nat) : Option (Acc PUnit) :=
  if need == 0 then none
  else
    let own := s.ownStores
    if (if need == 1 then own.any (fun t => !t.accepted) else !own.isEmpty) then some (.wait .fence s)
    else
      match s.ownFail with
      | some f => some (.trap f.trap
          (s.modRe (fun x => { x with fail := none })))
      | none => none

/-- A store with an acknowledgement level raises a recorded failure before it is performed (R71). -/
def State.failGate (s : State) (ack : BitVec 2) : Option (Acc PUnit) :=
  if ack = 0 then none
  else
    match s.ownFail with
    | some f => some (.trap f.trap
        (s.modRe (fun x => { x with fail := none })))
    | none => none

/-- What a memory operation of the memory class waits for before it is performed (R65, R71): its task's held stores, then for a
release the earlier stores, then a recorded failure. `release` marks order 2, and order 3 of a store, AMO or CAS. -/
def State.orderGate (s : State) (release : Bool) (m : MemQ) (store : Bool) : Option (Acc PUnit) :=
  if s.inFlight then none
  else if s.held then some (.wait .fence s)
  else if release then s.ackGate (ackNeed m.scope.toNat m.ack)
  else if store then s.failGate m.ack
  else none
/-- What a load waits for (R65, R203, R206): held stores, and for `.sc` at `.dm` or wider every earlier store. -/
def State.loadGate (s : State) (m : MemQ) : Option (Acc PUnit) :=
  if s.inFlight then none
  else if s.held || (m.ord = 3 && decide (4 ≤ m.scope.toNat) && !s.ownStores.isEmpty) then some (.wait .fence s)
  else none
/-- How long later memory operations wait for a store itself (R65): for a `.sc` store, marked 3, until it is visible at its scope (R203, R206). -/
def storeHold (m : MemQ) : BitVec 2 := if m.ord = 3 then 3 else if m.ord = 2 then 0 else m.ack
/-- The log a load of the executing agent reads through: its reeve's, which the builder of a view tile reads for, too; engines read the
snapshot (R215, R301). -/
def State.curLog (s : State) : List LogEntry :=
  match s.eng, s.who with
  | some n, _ => if 20 ≤ n ∧ n < 28 then s.re.log else []
  | none, .wain _ => []
  | none, _ => s.re.log
/-- The reeve whose log takes a sealed store of the executing agent; none for an engine (R215). -/
def State.curWriter (s : State) : Option Nat :=
  match s.eng, s.who with
  | some _, _ => none
  | none, .wain _ => none
  | none, _ => some s.rIdx

end Sys2Proof.Machine
end

