-- ==== Sys2Proof/Machine/Ops.lean ====
section
/-!
DEFINITION. The shared operations: how an instruction ends (`Eff`, `finish`), the next word (R418 for a sheaf), timeline
counters, taking an exception and returning from one (R307-R309, R161), parking with the context record (R149-R151), the
turns of a core (R139), the end of a pass, and the checks before every meaning (R333).
-/
namespace Sys2Proof.Machine

/-- How an instruction's own effect ends. -/
inductive Eff where
  /-- It completes, and the next word follows. -/
  | go (s : State)
  /-- It completes and sets the next word's address. -/
  | jump (s : State) (target : Word)
  /-- It completes and has set everything itself. -/
  | stay (s : State)
  /-- It traps; the state carries the effects that remain (R21). -/
  | trap (t : TrapInfo) (s : State)
  /-- It waits, and runs again later. -/
  | wait (w : Wait) (s : State)

/-- Continue an access as an effect. -/
def Acc.eff {α : Type} (x : Acc α) (f : α → State → Eff) : Eff :=
  match x with
  | .ok a s => f a s
  | .trap t s => .trap t s
  | .wait w s => .wait w s

/-! ### Timeline counters -/

/-- The largest counter value (R360). -/
def tlMax : Nat := 2 ^ 64 - 1
/-- One indivisible advance of counter `n` of unit `u` by `k`, which also sets the reeves' event latches (R172, R360, R366).
`wide` marks a scope of `.dm` or more; the counter's value before its first wide advance is kept for R358. -/
def Unit.advance (u : Unit) (n k : Nat) (wide : Bool) : Unit :=
  if k == 0 then u
  else
    let old := (KMap.get 0 u.tl n).toNat
    let v := old + k
    let u := { u with
      tl := KMap.set 0 u.tl n (toW (if v ≤ tlMax then v else tlMax))
      tlWide := if wide && (KMap.get Option.none u.tlWide n).isNone then KMap.set Option.none u.tlWide n (some old) else u.tlWide }
    let u := u.modReeve 0 (fun x => { x with latch := true })
    if 1 < u.rv then u.modReeve 1 (fun x => { x with latch := true }) else u
/-- Set the event latch of reeve `r` of a unit (R366). -/
def State.wake (s : State) (uid r : Nat) : State := s.modUnit uid (fun u => u.modReeve r (fun x => { x with latch := true }))
/-- Advance counter `n` of unit `uid` by `k`. -/
def State.advance (s : State) (uid n k : Nat) (wide : Bool) : State := s.modUnit uid (fun u => u.advance n k wide)

/-! ### The next word -/

/-- SloopExit (R423): SLP, `%rrb` and `%stg` become 0. -/
def sloopExit (x : Sheaf) : Sheaf := { x with slp := 0, rrb := 0, stg := 0 }
/-- SLP.V. -/
def slpV (x : Sheaf) : Bool := x.slp.toNat.testBit 63
/-- SLP.LPN. -/
def slpLp (x : Sheaf) : Nat := fld x.slp.toNat 62 1
/-- S of a busy SLOOP. -/
def slpS (x : Sheaf) : Nat := fld x.slp.toNat 56 3 + 1
/-- SloopStep (R423) with the decremented count `c`. -/
def sloopStep (x : Sheaf) (c : Nat) : Sheaf :=
  let S := slpS x
  let stg := ((fld x.stg.toNat 0 8) * 2 + (if S ≤ c then 1 else 0)) % 2 ^ S
  let w := fld x.rrb.toNat 8 6
  let step := 2 ^ fld x.rrb.toNat 16 2
  let rrb := fld x.rrb.toNat 0 6
  let rrb' := if w == 0 then rrb else (rrb + w * step - step) % w
  { x with stg := toW stg, rrb := toW (putFld x.rrb.toNat 0 6 rrb') }
/-- Loop register `k`. -/
def Sheaf.loopReg (x : Sheaf) (k : Nat) : Loop := KMap.get Loop.idle x.lp k
/-- Replace loop register `k`. -/
def Sheaf.setLoop (x : Sheaf) (k : Nat) (l : Loop) : Sheaf := { x with lp := KMap.set Loop.idle x.lp k l }
/-- One turn of R418's loop for register `k`: the sheaf, the next word, and whether the back-edge was taken. -/
def loopTurn (x : Sheaf) (next : Word) (k : Nat) : Sheaf × Word × Bool :=
  let l := x.loopReg k
  if l.count ≠ 0 ∧ next = l.stop then
    if 1 < l.count.toNat then
      let y := x.setLoop k { l with count := l.count - 1 }
      (if slpV y && slpLp y == k then sloopStep y (l.count.toNat - 1) else y, l.start, true)
    else
      let y := x.setLoop k { l with count := 0 }
      (if slpV y && slpLp y == k then sloopExit y else y, next, false)
  else (x, next, false)
/-- The sheaf's choice of its next word (R418): the inner loop first. -/
def sheafNext (x : Sheaf) (next : Word) : Sheaf :=
  let a := loopTurn x next 1
  if a.2.2 then { a.1 with pc := a.2.1 }
  else
    let b := loopTurn a.1 a.2.1 0
    { b.1 with pc := b.2.1 }

/-- Retire the executing agent's word with `next` as the word that follows. -/
def State.retireTo (s : State) (next : Word) : State :=
  match s.who with
  | .reeve _ => s.modRe (fun x => { x with pc := next, wait := none, waited := 0 })
  | .sheaf _ => s.modSh (fun x => { sheafNext x next with wait := none })
  | .wain c => s.modRt c (fun x => { x with pc := next })
/-- Retire with the word after it. -/
def State.retire (s : State) : State := s.retireTo (s.pc + 8)

/-- Mark the executing agent as waiting (R139); it runs the same word again later. -/
def State.markWait (s : State) (w : Wait) : State :=
  match s.who with
  | .reeve _ => s.modRe (fun x => { x with wait := some w })
  | .sheaf _ => s.modSh (fun x => { x with wait := some w })
  | .wain _ => s

/-! ### Context records (R149-R151, R319-R321) -/

/-- Section offsets of the model's context records, in bytes (log 14): reeve, sheaf, statex, matrix, loop, timeline, replies. -/
def ctxSections : List Nat := [64, 128, 192, 256, 320, 832, 960]
/-- NREPL and the size of a record. -/
def Unit.ctxSize (u : Unit) : Nat := 960 + 96 * u.listed.length
/-- The header of R151. -/
def ctxHeader (u : Unit) : Desc :=
  BitVec.ofNat 512 (1 + ((if (u.reeveOf 0).ended then 1 else 0) + (if (u.reeveOf 1).ended then 2 else 0)) * 2 ^ 16 +
    u.nSheaves * 2 ^ 24 + (u.listed.length % 65536) * 2 ^ 32 + u.cause0.toNat * 2 ^ 48 + u.cause1.toNat * 2 ^ 56 +
    (if u.loftResident then 0 else u.loftPA % 2 ^ 64) * 2 ^ 64 +
    (leVal (ctxSections.flatMap (fun o => leBytes 2 (o / 64)))) * 2 ^ 128 +
    u.ctxSize * 2 ^ 256 + (u.idx % 2 ^ 32) * 2 ^ 288 + (u.reeveOf 0).budget.toNat * 2 ^ 320 + (u.reeveOf 1).budget.toNat * 2 ^ 384 +
    u.passId.toNat * 2 ^ 448)
/-- One sheaf's entry of the loop-state section (R320). -/
def loopBytes (x : Sheaf) : List Byte :=
  let l0 := x.loopReg 0
  let l1 := x.loopReg 1
  leBytes 8 l0.start.toNat ++ leBytes 8 l0.stop.toNat ++ leBytes 8 l0.count.toNat ++
  leBytes 8 l1.start.toNat ++ leBytes 8 l1.stop.toNat ++ leBytes 8 l1.count.toNat ++ leBytes 8 x.slp.toNat ++ leBytes 8 0
/-- The word at which agent `a` of a unit stands: from the block buffer, or from the task's memory. -/
def State.haltedWord (s : State) (uid a : Nat) : Option Instr :=
  let u := s.unitOf uid
  let w : Option Word :=
    if a < 2 then
      match s.readVA ⟨u.part, u.asid, true, some uid⟩ [] (u.reeveOf a).pc 8 with
      | .ok l _ => some (bytesWord l)
      | _ => none
    else
      let x := u.sheafOf (a - 2)
      x.block[(x.pc.toNat - x.blockAddr.toNat) / 8]?
  w.bind decode
/-- The register that a reply to an instruction lands in. -/
def replyReg : Instr → Nat
  | .ld _ d .. | .amo _ _ d .. | .cas _ d .. => d.toNat
  | .vld x .. | .vlds _ x .. | .vldx _ x _ | .vlsh _ x _ | .vamo _ _ x _ => x.d.toNat
  | .vst x .. | .vsts _ x .. | .vstx _ x _ | .vssh _ x _ => x.d.toNat
  | .vldm d .. => d.toNat
  | .dualWord (.ldD d ..) _ | .dualWord (.ldW d ..) _ | .dualWord _ (.ldD d ..) | .dualWord _ (.ldW d ..) => d.toNat
  | _ => 0
/-- The byte of a register group at which the data of access `k` lies. -/
def replyByte (x : Sheaf) (k : Nat) : Nat :=
  let j := k % 2 ^ 20
  if tyIsE8 (vtType x.vt) then j
  else match vtType x.vt with
    | .i4 => 2 * j
    | .i3 => 8 * j
    | _ => j * (vtSew x.vt / 8)
/-- One pending-reply entry (R319), for an agent that stands at instruction `i`. -/
def replyBytes (x : Sheaf) (i : Option Instr) (p : Pending) : List Byte :=
  let st := match p.reply with
    | some (.ok, _) => 0
    | some (.refused, _) => 1
    | some (.unreachable, _) => 2
    | some (.poison, _) => 2
    | none => 0
  let sheaf := decide (2 ≤ p.agent)
  let o := if sheaf then replyByte x p.elem else 0
  let got : List Byte := match p.reply with
    | some (.ok, l) => l
    | _ => []
  leBytes 64 (leVal got <<< (8 * (o % 64))) ++
  leBytes 8 ((i.map replyReg).getD 0 + (if sheaf then 128 + (p.agent - 2) % 8 * 256 + o / 64 % 256 * 4096 else 0) + st * 2 ^ 20) ++
  leBytes 8 (if st == 0 then 0 else p.va.toNat) ++ leBytes 8 ((2 ^ got.length - 1) <<< (o % 64)) ++ leBytes 8 0
/-- The pending-reply section of a unit's record (R319). -/
def State.replySection (s : State) (uid : Nat) : List Byte :=
  let u := s.unitOf uid
  u.listed.flatMap (fun p => replyBytes (if p.agent < 2 then Sheaf.reset else u.sheafOf (p.agent - 2)) (s.haltedWord uid p.agent) p)
/-- `n` free bytes of an opaque section (R321, log 9). -/
def opaqueBytes (seed n : Nat) : List Byte := (List.range n).map (fun i => Config.sectionByte seed i)
/-- A unit's context record: `replies` is its last section. -/
def ctxBytes (u : Unit) (seed : Nat) (replies : List Byte) : List Byte :=
  leBytes 64 (ctxHeader u).toNat ++ opaqueBytes (7 * seed) 64 ++ opaqueBytes (7 * seed + 1) 64 ++ opaqueBytes (7 * seed + 2) 64 ++
  opaqueBytes (7 * seed + 3) 64 ++ (List.range 8).flatMap (fun k => loopBytes (u.sheafOf k)) ++ opaqueBytes (7 * seed + 4) 128 ++ replies
/-- Does byte `o` of a record belong to an opaque section (R321)? -/
def ctxOpaque (o : Nat) : Bool := (decide (64 ≤ o) && decide (o < 320)) || decide (832 ≤ o)
/-- Write a parked unit's context record to its reserve slot and keep its check values (R149, R321); it leaves shadow storage. -/
def State.writeContext (s : State) (uid : Nat) : State :=
  let u := s.unitOf uid
  let l := ctxBytes u s.fresh (s.replySection uid)
  let s := ({ s with fresh := s.fresh + 1 }.hbmWrite u.ctxPA l).modCore u.core (fun c => { c with shadow := c.shadow.filter (· != uid) })
  s.modUnit uid (fun u => { u with
    ctxCheck :=
    (List.range l.length).filterMap (fun o => if ctxOpaque o then some (o, l.getD o 0) else none) })
/-- A reply to a unit whose record is written: the record's last section follows it (R318, R319). -/
def State.refreshReplies (s : State) (uid : Nat) : State :=
  let u := s.unitOf uid
  if u.ctxCheck.isEmpty then s
  else
    let l := s.replySection uid
    (s.hbmWrite (u.ctxPA + 960) l).modUnit uid (fun u => { u with
      ctxCheck := u.ctxCheck.filter (fun e => decide (e.1 < 960)) ++ (List.range l.length).map (fun i => (960 + i, l.getD i 0)) })
/-- Has a context record kept every opaque byte the dispatcher wrote, and can it be read (R321, R34)? -/
def State.contextOk (s : State) (uid : Nat) : Bool :=
  let u := s.unitOf uid
  u.ctxBad == 0 && u.ctxCheck.all (fun e => KMap.get 0 s.hbm (u.ctxPA + e.1) == e.2) && (u.ctxCheck.isEmpty || !s.hbmBad u.ctxPA u.ctxSize)
/-- A sheaf with the loop state of its record entry (R320). -/
def loadLoops (x : Sheaf) (b : List Byte) : Sheaf :=
  let w (i : Nat) : Word := toW (leVal ((b.drop (8 * i)).take 8))
  { (x.setLoop 0 ⟨w 0, w 1, w 2⟩).setLoop 1 ⟨w 3, w 4, w 5⟩ with slp := w 6 }
/-- Take from a unit's record what a keeper may have changed: the budgets and the loop state (R149, R320). -/
def State.reloadContext (s : State) (uid : Nat) : State :=
  let u := s.unitOf uid
  if u.ctxCheck.isEmpty then s
  else
    let b (o n : Nat) : List Byte := memRead s.hbm (u.ctxPA + o) n
    s.modUnit uid (fun u =>
      let u1 := (List.range u.rv).foldl (fun u r => u.modReeve r (fun x => { x with budget := toW (leVal (b (40 + 8 * r) 8)) })) u
      { (List.range 8).foldl (fun u k => u.modSheaf k (fun x => loadLoops x (b (320 + 64 * k) 64))) u1 with ctxCheck := [] })

/-! ### Fault records -/

/-- Bits of the fault record's FLAGS (R314). -/
def recFlags (parked kmode sheaf : Bool) (k : Nat) (deferred : Bool) : Nat :=
  (if parked then 1 else 0) + (if kmode then 2 else 0) + (if sheaf then 4 else 0) + (if sheaf then k % 8 * 8 else 0) +
  (if deferred then 64 else 0)
/-- The task id of reeve `r` of a unit (R134). -/
def Unit.taskId (u : Unit) (r : Nat) : Nat := u.idx * u.rv + r
/-- Queue the fault record of a trap (R310, R313, R314). -/
def State.record (s : State) (uid r : Nat) (t : TrapInfo) (iaddr : Word) (flags : Nat) (parks : Bool) : State :=
  let u := s.unitOf uid
  s.queueRec u.part ⟨faultBody flags t.code.toNat t.sub.toNat (u.taskId r) u.passId iaddr t.tval t.info0 t.info1
    (if parks then toW u.ctxPA else 0), u.passId, u.taskId r, uid, r, parks⟩

/-- The cause that a halted unit's task `i` carries when task `r` parks it with `code` (R149, R151). -/
def Unit.parkCause (u : Unit) (r : Nat) (code : BitVec 8) (i : Nat) : BitVec 8 :=
  if i == r then code else if i < u.rv && !(u.reeveOf i).ended then BitVec.ofNat 8 cPREEMPT else 0
/-- A context that was changed, lost or cannot be read parks its unit with FT_MCHK when the unit would go on (R321, R34, R32). -/
def State.faultContext (s : State) (uid : Nat) : State :=
  let u := s.unitOf uid
  let r := if (u.reeveOf 0).ended then 1 else 0
  let c := u.parkCause r (BitVec.ofNat 8 cMCHK)
  let s1 := s.modUnit uid (fun u => { u with place := .faulted, cause0 := c 0, cause1 := c 1 })
  let s2 := if u.ctxCheck.isEmpty then s1.writeContext uid else s1.hbmWrite u.ctxPA (leBytes 64 (ctxHeader (s1.unitOf uid)).toNat)
  s2.record uid r (tr cMCHK (if u.ctxBad == 0 then 7 else u.ctxBad) 0) 0 (recFlags true ((u.reeveOf r).mode == .keeper) false 0 false) true

/-! ### The turns of a core (R139, R148) and its loft halves (R148, R150) -/

/-- May a unit start or resume on the core it is placed on? -/
def Unit.runnable (u : Unit) : Bool := u.live && (u.place == .ready || u.place == .unstarted)
/-- The units placed on core `c` that may run, as (index, handle). -/
def State.readyOn (s : State) (c : Nat) : List (Nat × Nat) :=
  s.units.filterMap (fun p => if p.2.core == c && p.2.runnable then some (p.2.idx, p.1) else none)
/-- The order of turns: by index, and among units of equal index by handle. -/
def pairLt (p q : Nat × Nat) : Bool := decide (p.1 < q.1) || (p.1 == q.1 && decide (p.2 < q.2))
/-- The first of a list of pairs in that order. -/
def minPair : List (Nat × Nat) → Option (Nat × Nat)
  | [] => none
  | p :: t =>
    match minPair t with
    | some q => if pairLt q p then some q else some p
    | none => some p
/-- The next unit in turn after the unit of index and handle `last`, wrapping round (R139). -/
def State.nextOn (s : State) (c : Nat) (last : Nat × Nat) : Option Nat :=
  let l := s.readyOn c
  match minPair (l.filter (pairLt last)) with
  | some p => some p.2
  | none => (minPair l).map (·.2)
/-- A unit's place in the order of turns. -/
def State.turnOf (s : State) (uid : Nat) : Nat × Nat := ((s.unitOf uid).idx, uid)

/-- The uncorrectable marks of the words of a loft as marks of the 64-byte lines of its image at `pa`. -/
def loftToLines (m : KMap Bool) (pa : Nat) (l : KMap Bool) : KMap Bool := m.foldl (fun l p => if p.2 then KMap.set false l ((pa + 8 * p.1) / 64) true else l) l
/-- The marks of an image's lines as marks of the words of the loft. -/
def linesToLoft (l : KMap Bool) (pa n : Nat) : KMap Bool :=
  (l.filter (fun p => decide (pa / 64 ≤ p.1) && decide (64 * p.1 < pa + n))).foldl (fun m p =>
    (List.range 8).foldl (fun m j => KMap.set false m ((64 * p.1 - pa) / 8 + j) true) m) []
/-- Spill a unit's loft to its image in the reserve (R150); a record already written then names the image. -/
def State.spillLoft (s : State) (uid : Nat) : State :=
  let u := s.unitOf uid
  if !u.loftResident then s
  else
    let s1 := s.hbmWrite u.loftPA (memRead u.loft 0 u.loftSize)
    let s2 := { s1 with hbmPoison := loftToLines u.loftPoison u.loftPA s1.hbmPoison }.modUnit uid (fun u =>
      { u with loft := [], loftPoison := [], loftResident := false })
    if u.ctxCheck.isEmpty then s2 else s2.hbmWrite (u.ctxPA + 8) (leBytes 8 u.loftPA)
/-- Bring a spilled loft back into the core (R150). -/
def State.fillLoft (s : State) (uid : Nat) : State :=
  let x := s.unitOf uid
  if x.loftResident then s
  else
    let s1 := s.modUnit uid (fun u => { u with
      loft := memWrite [] 0 (memRead s.hbm u.loftPA u.loftSize), loftPoison := linesToLoft s.hbmPoison u.loftPA u.loftSize, loftResident := true })
    if x.ctxCheck.isEmpty then s1 else s1.hbmWrite (x.ctxPA + 8) (leBytes 8 0)
/-- A LOFT of at most 2 MiB, which one half holds. -/
def State.fitsHalf (s : State) (uid : Nat) : Bool := decide ((s.unitOf uid).loftSize ≤ 2 ^ 21)
/-- The started units whose lofts lie in core `c`, in order of handle. -/
def State.residents (s : State) (c : Nat) : List Nat :=
  s.units.filterMap (fun p => if p.2.live && p.2.core == c && p.2.loftResident && p.2.loftSize != 0 && p.2.place != .unstarted && p.2.place != .over
    then some p.1 else none)
/-- The lofts that need not stay in core `c` while unit `uid` has one half there and `other` may have the second: the spills R150 calls for. -/
def State.crowd (s : State) (c uid : Nat) (other : Option Nat) : List Nat :=
  (s.residents c).filter (fun v => v != uid && !(other == some v && s.fitsHalf uid && s.fitsHalf v))
/-- The unit that keeps the second half of a core beside unit `uid`: the preloaded one, or the one that ran last. -/
def State.second (s : State) (c uid : Nat) : Option Nat := (((s.coreOf c).preloaded.toList ++ (s.coreOf c).shadow).filter (· != uid)).head?
/-- Give unit `uid` a half of core `c`: the lofts in its way are spilled, and its own comes in. -/
def State.takeHalf (s : State) (c uid : Nat) (other : Option Nat) : State := ((s.crowd c uid other).foldl State.spillLoft s).fillLoft uid

/-- Put a unit on its core: its context comes from shadow storage or its record. A resumed unit's waiting instructions run again. -/
def State.putOn (s : State) (c uid : Nat) : State :=
  let s := (s.takeHalf c uid (s.second c uid)).reloadContext uid
  let first := (s.unitOf uid).place == .unstarted
  let s := (s.modCore c (fun x => { x with
    running := some uid, turn := 0, rerun := x.rerun.filter (· != uid), preloaded := if x.preloaded == some uid then none else x.preloaded,
    shadow := x.shadow.filter (· != uid) })).modUnit uid
    (fun u => { u with place := .running, cause0 := 0, cause1 := 0 })
  if first then s.modUnit uid (fun u => { u with reeves := u.reeves.map (fun p => (p.1, { p.2 with started := decide (p.1 < u.rv) })) })
  else s.modUnit uid (fun u => { u with reeves := u.reeves.map (fun p => (p.1, { p.2 with latch := true, waited := 0, fetchBuf := [] })) })
/-- The unit that starts next on core `c`: a rerun that goes first, the preloaded unit, else the next in turn (R139, R148). -/
def State.nextStart (s : State) (c : Nat) (last : Nat × Nat) : Option Nat :=
  let x := s.coreOf c
  let may (u : Nat) : Bool := (s.unitOf u).runnable && (s.unitOf u).core == c
  match x.rerun.find? may, x.preloaded.filter may with
  | some u, _ => some u
  | none, some u => some u
  | none, none => s.nextOn c last
/-- Start the next unit whose context is whole, among at most `n`; one whose context is not parks with FT_MCHK (R321). -/
def State.startWhole (s : State) (c : Nat) (last : Nat × Nat) : Nat → State
  | 0 => s
  | n + 1 =>
    match s.nextStart c last with
    | some u => if s.contextOk u then s.putOn c u else (s.faultContext u).startWhole c last n
    | none => s
/-- Start the next unit on a core with nothing running (R139, R148). -/
def State.startNext (s : State) (c : Nat) (last : Nat × Nat) : State :=
  let x := s.coreOf c
  if x.running.isSome || x.unpowered then s else s.startWhole c last (s.units.length + 1)
/-- A unit halts (R150): a waiting PLAN and the requests of an MLDR are abandoned (R78, R90), replies that have come have landed (R318), and
cached view tiles go (R301). -/
def Unit.halt (u : Unit) (place : Place) : Unit :=
  { u with
    place := place
    replies := (u.replies.filter (fun p => decide (p.elem < memberKey) || p.agent != 0 && p.agent != 1)).map (fun p =>
      { p with landed := p.landed || p.reply.isSome })
    views := u.views.map (fun p => (p.1, p.2.map (fun v => { v with tiles := [] })))
    reeves := u.reeves.map (fun p => (p.1, { p.2 with planWait := Option.none })) }
/-- The context of unit `uid` goes to the shadow storage of its core; the one there moves on to its record (R150). -/
def State.toShadow (s : State) (c uid : Nat) : State :=
  let s1 := ((s.coreOf c).shadow.filter (· != uid)).foldl (fun s v =>
    let x := s.unitOf v
    if x.live && (x.place == .ready || x.place == .preempted) && x.ctxCheck.isEmpty then s.writeContext v else s) s
  s1.modCore c (fun x => { x with shadow := [uid] })
/-- Take a unit off its core, leaving it at `place`, and start what runs next there. -/
def State.leaveCore (s : State) (uid : Nat) (place : Place) : State :=
  let u := s.unitOf uid
  let s := s.modUnit uid (fun u => u.halt place)
  if (s.coreOf u.core).running == some uid then
    let s := s.modCore u.core (fun x => { x with running := none, turn := 0 })
    let s := if place == .ready || place == .preempted then s.toShadow u.core uid else s
    s.startNext u.core (u.idx, uid)
  else s
/-- A turn ends: the unit parks as for pre-emption and the next one starts (R139). -/
def State.endTurn (s : State) (c : Nat) : State :=
  match (s.coreOf c).running with
  | some uid =>
    let u := s.unitOf uid
    let p (r : Nat) : BitVec 8 := if r < u.rv && !(u.reeveOf r).ended then BitVec.ofNat 8 cPREEMPT else 0
    (s.modUnit uid (fun u => { u with cause0 := p 0, cause1 := p 1 })).leaveCore uid .ready
  | none => s

/-! ### Key slots (R40, R127) -/

/-- Put a key into a slot of every Thouruth port: its counters start at 0 (R40, R127). A confirmation of the partner that came while the slot
was empty stands for the new key; one for an earlier key does not. -/
def State.putKey (s : State) (slot : Nat) (key : BitVec 256) : State :=
  let fresh := key != 0 && KMap.get 0 s.keys slot == 0
  { s with
    keys := KMap.set 0 s.keys slot key
    ports := (s.ports.map (fun p => (p.1, { p.2 with
      slots := KMap.set PortSlot.empty p.2.slots slot { PortSlot.empty with loaded := fresh && (p.2.slotOf slot).loaded } }))).filter (fun p => p.2 != Port.reset) }
/-- Load a key into a slot, and tell the partner of each port in use in a link-control flit, whose first byte names the slot (R40, log 18). -/
def State.loadKey (s : State) (slot : Nat) (key : BitVec 256) : State :=
  let s1 := s.putKey slot key
  (s1.ports.filter (fun p => p.2.routed)).foldl (fun s p => s.sendControl p.1 (leBytes 1 slot)) s1
/-- Zeroise a key slot: every tag check under it fails from here on (R41). -/
def State.zeroise (s : State) (slot : Nat) : State := if slot == 0 then s else s.putKey slot 0
/-- Zeroise the key slot of a plan that is gone, unless another member partition of the plan still uses it here. -/
def State.dropPlanKey (s : State) (slot : Nat) : State := if s.plans.any (fun q => q.keySlot == slot) then s else s.zeroise slot
/-- Release the plans of a pass and their key slots (R85, R129). -/
def State.freePlans (s : State) (p : Nat) (id : Word) : State :=
  let mine (q : Plan) : Bool := q.part == p && q.passId == id
  (s.plans.filter mine).foldl (fun s q => s.dropPlanKey q.keySlot) { s with plans := s.plans.filter (fun q => !mine q) }

/-! ### The end of a pass (R107, R141, R142) -/

/-- Stop every unit of a pass and take it off its core; its wain commands and plans stop with it (R142). -/
def State.stopUnits (s : State) (p seq : Nat) : State :=
  let id := passIdOf p seq
  let s : State := if s.cores.any (fun c => c.2.preloadPass == some (p, seq)) then
      { s with cores := s.cores.map (fun c => (c.1, { c.2 with preloadPass := c.2.preloadPass.filter (· != (p, seq)) })) } else s
  (s.units.filter (fun x => x.2.live && x.2.part == p && x.2.passId == id && !x.2.initial)).foldl (fun s x =>
    let s := s.leaveCore x.1 .over
    let s := s.modUnit x.1 (fun u => { u with mq := [], reeves := u.reeves.map (fun q => (q.1, { q.2 with log := [] })) })
    s.modCore x.2.core (fun c => { c with
      wq := c.wq.filter (fun w => w.uid != x.1),
      routine := c.routine.bind (fun r => if r.uid == x.1 then none else some r) })) s
/-- End a pass FAULTED or CANCELLED: every task stops, its logs are discarded, and its record awaits writing (R142, R149). -/
def State.endPass (s : State) (p seq : Nat) (st : PassState) (reason cause : Nat) : State :=
  match s.passAt p seq with
  | some x =>
    if x.st.over then s
    else
      let s := s.stopUnits p seq
      (s.modPass p seq (fun y => { y with st := st, reason := reason, cause := BitVec.ofNat 8 cause })).freePlans p (passIdOf p seq)
  | none => s

/-- Zeroise every enclave key and plan key on the package (R128). -/
def State.zeroEnclaves (s : State) : State :=
  let s0 : State := { s with enclaves := s.enclaves.map (fun e => { e with key := 0 }) }
  let s1 := (s.enclaves.filter (fun e => e.key != 0)).foldl (fun s e => s.zeroise e.slot) s0
  s1.plans.foldl (fun s q => s.zeroise q.keySlot) s1
/-- Remove a partition (R115): cores and shares return, keys are zeroised (R128), and the partition is OFF. Its sequence numbers go on, since
only a start of the device begins them again (R101). -/
def State.dropPartition (s : State) (p : Nat) : State :=
  let x := s.partOf p
  let gone (u : Nat) : Bool := let y := s.unitOf u; y.part == p && y.live
  let s1 := if x.enclave == 0 then s else s.zeroEnclaves
  let s2 := x.cores.foldl (fun s c => s.modCore c (fun y => { y with running := none, preloaded := none, preloadPass := none, rerun := [], wq := [], routine := none, shadow := [], turn := 0 })) s1
  let parts := KMap.set Partition.off s2.parts p { Partition.off with pcseq := x.pcseq }
  { s2 with
    units := s2.units.filter (fun u => !gone u.1)
    parts := parts
    plans := s2.plans.filter (fun q => q.part != p)
    sigs := s2.sigs.filter (fun q => q.part != p)
    tlb := s2.tlb.filter (fun t => t.part != p)
    ptrs := s2.ptrs.filter (fun t => t.part != p)
    fabric := s2.fabric.filter (fun t => t.part != p)
    fills := s2.fills.filter (fun t => t.part != p)
    migration := s2.migration.filter (fun t => t.part != p)
    shardOut := s2.shardOut.filter (fun o => !gone o.uid)
    shardHeld := s2.shardHeld.filter (fun h => h.part != p)
    pairs := s2.pairs.filter (fun q => q.2.part != p)
    enclaves := s2.enclaves.filter (fun e => parts.any (fun q => q.2.enclave == e.id)) }

/-- RESULT codes of MGSTS (R112). -/
def resOK : Nat := 0
def resBUSY : Nat := 1
def resBADIMAGE : Nat := 2
def resSVN : Nat := 3
def resNOTQ : Nat := 4
def resFAILED : Nat := 5
def resBADPART : Nat := 6

/-! ### Taking an exception -/

/-- Causes that always park (R308). -/
def alwaysParks (code : BitVec 8) : Bool :=
  code = BitVec.ofNat 8 cSEAL || code = BitVec.ofNat 8 cBUDGET || code = BitVec.ofNat 8 cMCHK
/-- The value `%cause` takes (R303). -/
def causeWord (t : TrapInfo) (keep sheaf : Bool) (k : Nat) : Word :=
  toW (t.code.toNat + t.sub.toNat * 2 ^ 8 + (if keep then 1 else 0) * 2 ^ 24 + (if sheaf then 1 else 0) * 2 ^ 26 +
    (if sheaf then k % 8 else 0) * 2 ^ 27 + (if t.slotB then 1 else 0) * 2 ^ 30)

/-- The address `%epc` takes, or that a parked task's program counter holds (R309): the next word for FT_TRAP. -/
def trapPc (t : TrapInfo) (pc : Word) : Word := if t.code = BitVec.ofNat 8 cTRAP then pc + 8 else pc

/-- The initial keeper task trapped (R116): command 4 ends FAILED and the partition is removed. -/
def State.initialTrap (s : State) (t : TrapInfo) : State :=
  let s := s.dropPartition s.cu.part
  { s with mgst := .ready, mgres := resFAILED, telemetry := KMap.set 0 s.telemetry tmKeeperCause t.code.toNat }

/-- Park the unit for a trap of reeve `r` (R149): the causes, the context record, then the fault record. -/
def State.park (s : State) (r : Nat) (t : TrapInfo) (iaddr : Word) (flags : Nat) : State :=
  let uid := s.uid
  let s := s.modCu (fun u => { u with cause0 := u.parkCause r t.code 0, cause1 := u.parkCause r t.code 1 })
  let s := s.leaveCore uid .faulted
  let s := s.writeContext uid
  s.record uid r t iaddr flags true

/-- Enter the handler on reeve `r` (R309): `%epc`, `%cause`, `%tval`, keeper mode, `%tvec`; the fetch buffer is refilled. -/
def State.enter (s : State) (r : Nat) (t : TrapInfo) (epc cause : Word) : State :=
  let tvec := (s.partOf s.cu.part).tvec
  s.modCu (fun u => u.modReeve r (fun x =>
    { x with
      epc := epc, cause := cause, tval := t.tval, mode := .keeper, inHandler := true, pc := tvec, wait := none, waited := 0,
      wfeLeft := none, fetchBuf := [] }))

/-- Stop or release the sheaves of reeve `r` (R161). -/
def Unit.stopSheaves (u : Unit) (r : Nat) (b : Bool) : Unit :=
  (u.owned r).foldl (fun u k => u.modSheaf k (fun x => { x with stopped := b })) u

/-- FT_REVOKED ends the pass, never delivered (R308, R131). -/
def State.revoked (s : State) : State := s.endPass s.cu.part (passSeq s.cu.passId) .faulted 0 cREVOKED

/-- The faulted engine commands of reeve `r` of a unit whose trap was taken start again (R258, R286). -/
def State.retry (s : State) (uid r : Nat) : State :=
  { s.modUnit uid (fun u => { u with
      mq := u.mq.map (fun e => if e.reeve == r && e.reported then { e with fault := none, reported := false } else e) }) with
    cores := s.cores.map (fun p => (p.1, { p.2 with
      wq := p.2.wq.map (fun w => if w.uid == uid && w.reeve == r && w.reported then { w with fault := none, reported := false } else w) })) }

/-- A trap of reeve `r` with `pc` as the trapping word: the outcome by mode and mask of R307. `deferred` marks a fault taken
later than it arose, on the word at `pc`, with `iaddr` naming its own instruction. Whether a trap that abandons a gate writes a record is a free
choice: R307 says that it writes none, R310 that it writes one (log 24). -/
def State.reeveTrap (s : State) (t : TrapInfo) (deferred : Bool) (iaddr : Word) : State :=
  let r := s.rIdx
  let x := s.re
  let masked := x.mask.getLsbD t.code.toNat && decide (t.code.toNat < 64) && !alwaysParks t.code
  let late := deferred || t.late
  let noRec := t.code = BitVec.ofNat 8 cTRAP ∨ t.code = BitVec.ofNat 8 cBRK
  if t.code = BitVec.ofNat 8 cREVOKED then s.revoked
  else if s.cu.initial then s.initialTrap t
  else if x.mode = .task then
    if masked then
      let s1 := s.enter r t (trapPc t x.pc) (causeWord t false false 0)
      if noRec then s1 else s1.record s.uid r t iaddr (recFlags false false false 0 late) false
    else
      (s.modRe (fun x => { x with pc := trapPc t x.pc })).park r t iaddr (recFlags true false false 0 late)
  else
    match x.link with
    | some l =>
      if !x.inHandler && masked then
        let s1 := (s.modRe (fun x => { x with
          g := KMap.set 0 x.g 8 (0x8000000000000000 ||| toW (t.sub.toNat * 256 + t.code.toNat)),
          gPoison := KMap.set false x.gPoison 8 false,
          pc := l.ret, mode := l.mode, mask := l.mask, link := none, tval := t.tval, wait := none, waited := 0, fetchBuf := [] })).retry s.uid r
        if Config.choice s.fresh then { s1 with fresh := s.fresh + 1 }.record s.uid r t iaddr (recFlags false true false 0 late) false else { s1 with fresh := s.fresh + 1 }
      else
        (s.modRe (fun x => { x with pc := trapPc t x.pc })).park r t iaddr (recFlags true true false 0 late)
    | none => (s.modRe (fun x => { x with pc := trapPc t x.pc })).park r t iaddr (recFlags true true false 0 late)

/-- May a sheaf's trap of this cause be taken in place (R307)? -/
def sheafMay (t : TrapInfo) : Bool := t.code == BitVec.ofNat 8 cPAGE || t.code == BitVec.ofNat 8 cPERM || t.code == BitVec.ofNat 8 cFETCH
/-- A trap of sheaf `k` (R161, R307): in place only for FT_PAGE, FT_PERM and FT_FETCH of a reeve in task mode. -/
def State.sheafTrap (s : State) (k : Nat) (t : TrapInfo) (iaddr : Word) : State :=
  let r := s.cu.owner k
  let x := s.cu.reeveOf r
  if t.code = BitVec.ofNat 8 cREVOKED then s.revoked
  else if s.cu.initial then s.initialTrap t
  else if x.mode = .task ∧ sheafMay t ∧ x.mask.getLsbD t.code.toNat then
    let s := s.modCu (fun u => u.stopSheaves r true)
    let s := s.enter r t x.pc (causeWord t false true k)
    s.record s.uid r t iaddr (recFlags false false true k t.late) false
  else s.park r t iaddr (recFlags true (x.mode = .keeper) true k t.late)

/-- A fault of a wain routine's instruction (R286, R297): the command is faulted and holds its place; its reeve takes the trap
at its next boundary. -/
def State.routineTrap (s : State) (c : Nat) (t : TrapInfo) : State :=
  let q := (s.rt c).seq
  (s.modCore c (fun x => { x with wq := x.wq.map (fun w => if w.seq == q then { w with fault := some t, reported := false } else w) })).wake
    (s.rt c).uid (s.rt c).reeve

/-- TAKING AN EXCEPTION: the one operation every trap goes through (R307, R309). `iaddr` is the faulting instruction. A sheaf's trap
in place waits until its reeve has reached a boundary (R161). -/
def State.takeTrapAt (s : State) (t : TrapInfo) (iaddr : Word) : State :=
  match s.who with
  | .reeve _ => s.reeveTrap t false iaddr
  | .sheaf k =>
    let r := s.cu.owner k
    if (s.cu.reeveOf r).mode = .task ∧ sheafMay t ∧ s.reqOut s.uid r then s.markWait .remote else s.sheafTrap k t iaddr
  | .wain c => s.routineTrap c t
/-- A trap on the executing agent's current word. -/
def State.takeTrap (s : State) (t : TrapInfo) : State := s.takeTrapAt t s.pc

/-- The mode `%cause`.PMODE names for ERET (R309): 0 task, 1 keeper; 2 and 3 name no mode of a reeve (free choice, log 9). -/
def pmode (cause : Word) (n : Nat) : Mode :=
  match fld cause.toNat 24 2 with
  | 0 => .task
  | 1 => .keeper
  | _ => if Config.choice n then .keeper else .task

/-- RETURN FROM AN EXCEPTION (R309, R161): resume at `%epc` in mode PMODE; the reeve's sheaves resume. -/
def State.eret (s : State) : State :=
  let x := s.re
  let r := s.rIdx
  let m := pmode x.cause s.fresh
  { s.modCu (fun u => (u.modReeve r (fun x => { x with
      pc := x.epc, mode := m, inHandler := false, wait := none, waited := 0,
      fetchBuf := [] })).stopSheaves r false) with fresh := s.fresh + 1 }.retry s.uid r

/-! ### `%vt` at an entry's place (R250) -/

/-- Does a block dispatched before place `q` keep sheaf `k` from being used at that place, by `f` of its rest? -/
def Unit.blockBefore (u : Unit) (k q : Nat) (f : Sheaf → Bool) : Bool :=
  let x := u.sheafOf k
  (x.busy && decide (x.blockSeq < q) && f x) || x.queue.any (fun e => decide (e.seq < q))

/-- Keep `%vt` of sheaf `k` for the matrix entries whose place in program order it has reached. -/
def Unit.captureVt (u : Unit) (k : Nat) : Unit :=
  { u with
    mq := u.mq.map (fun e =>
      if e.vt.isNone && e.sn == k && !u.blockBefore k e.seq (fun _ => true) then { e with vt := some (u.sheafOf k).vt } else e) }

/-! ### Before every meaning (R333) -/

/-- Is the executing word of a switched-off SLOOP stage (R423)? -/
def stageOff (x : Sheaf) : Bool :=
  if slpV x then
    let l := x.loopReg (slpLp x)
    if l.start.toNat ≤ x.pc.toNat && x.pc.toNat < l.stop.toNat then
      let u := (x.pc.toNat - l.start.toNat) / 8
      let k := ((List.range (slpS x - 1)).filter (fun j => decide (fld x.slp.toNat (8 * j) 8 ≤ u))).length
      !(x.stg.toNat.testBit k)
    else false
  else false
/-- Is the executing agent's word switched off? -/
def State.off (s : State) : Bool :=
  match s.who with
  | .sheaf _ => stageOff s.sh
  | _ => false

/-- May a word of these contexts run where the executing agent runs it (R343, R297)? -/
def runsIn (r : Runs) (w : Who) : Bool :=
  match w with
  | .reeve _ => r.reeve
  | .sheaf _ => r.sheaf
  | .wain _ => r.wain

/-- FT_ILLEGAL with the whole word as `%tval` (R333). -/
def illegal (sub : Nat) (w : Word) : TrapInfo := tr cILLEGAL sub w

/-- The word where a sheaf that retires its word would go on, when that is no multiple of 8 (R323): only a loop register that a keeper wrote into
a context record leads there (R320). -/
def State.badNext (s : State) : Option Word :=
  match s.who with
  | .sheaf _ => let a := (sheafNext s.sh (s.pc + 8)).pc; if a.toNat % 8 ≠ 0 then some a else none
  | _ => none
/-- The ops that choose their next word themselves: LOOP, SLOOP, LPBRK and VEND. -/
def ownNext (w : Word) : Bool := wTag w == 0 && (wOp w == 0xD0 || wOp w == 0xD1 || wOp w == 0xD2 || wOp w == 0xD5)
/-- Retire a word that does nothing, or trap where the next word is misaligned. -/
def State.retireOff (s : State) : State :=
  match s.badNext with
  | some a => s.takeTrap (tr cALIGN 0 a)
  | none => s.retire
/-- The end of an instruction: the machine's next state. -/
def finish (e : Eff) : Host.Outcome State Fault Refusal :=
  match e with
  | .go s => .next (s.dropReplies.retire)
  | .jump s t => .next (s.dropReplies.retireTo t)
  | .stay s => .next s
  | .trap t s => .next (s.dropReplies.takeTrap t)
  | .wait w s => .next (s.markWait w)

/-- Steps 2 to 4 of R333 that depend on the executing agent, poison on the scalar sources, and the alignment of the next word: the trap, if any. -/
def State.before (s : State) (w : Word) (r : Runs) (keeperOnly : Bool) (regs srcs : List Reg) : Option TrapInfo :=
  if !runsIn r s.who then some (illegal 3 w)
  else if keeperOnly && !s.keeper then some (tr cPRIV 0 0)
  else if regs.any s.badReg then some (illegal 1 w)
  else if srcs.any s.poisoned then some (tr cMCHK 1 0)
  else if ownNext w then none
  else s.badNext.map (tr cALIGN 0)

/-- Run one instruction: a switched-off word completes at once, a failed check traps, and otherwise its effect ends it. -/
def State.perform (s : State) (w : Word) (r : Runs) (keeperOnly : Bool) (regs srcs : List Reg) (body : State → Eff) :
    Host.Outcome State Fault Refusal :=
  if s.off then .next s.retireOff
  else
    match s.before w r keeperOnly regs srcs with
    | some t => .next (s.takeTrap t)
    | none => finish (body s)

/-- The executing agent may run this word now: its stage is on and no check before its entry fails. -/
def State.clear (s : State) (r : Runs) (keeperOnly : Bool) (regs srcs : List Reg) : Bool :=
  !s.off && runsIn r s.who && (!keeperOnly || s.keeper) && !regs.any s.badReg && !srcs.any s.poisoned && s.badNext.isNone

end Sys2Proof.Machine
end

