-- ==== Sys2Proof/Machine/Fetch.lean ====
section
/-!
DEFINITION. Fetching an instruction's word for each agent (R160, R189, R297) and the trap of a word that does not decode, by the
order of R333.
-/
namespace Sys2Proof.Machine

/-- Read the word at a code address (R182, R189): every failed check is FT_FETCH, or FT_MCHK for an uncorrectable error. -/
def State.readCode (s : State) (c : XCtx) (a : Word) : Acc Word :=
  (s.xlate c .fetch false a 8 8).bind fun x s =>
    match s.readPhys [] x a 8 with
    | .error t => .trap t s
    | .ok l => .ok (bytesWord l) s

/-- Prefetch `n` words from `a` into a fetch buffer, stopping at the first that fails (R189); the leaves used are marked accessed (R182). -/
def State.prefetch (s : State) (c : XCtx) (a : Word) : Nat → List (Word × Word) × State
  | 0 => ([], s)
  | n + 1 =>
    match s.readCode c a with
    | .ok w s => let r := s.prefetch c (a + 8) n; ((a, w) :: r.1, r.2)
    | _ => ([], s)

/-- A routine's page has K and X both set (R297). -/
def State.routinePage (s : State) (a : Word) : Bool :=
  match s.leafFor s.xc a with
  | some (some l) => pteK l.pte && pteX l.pte
  | _ => false

/-- The word the executing agent runs next: a reeve's from its fetch buffer or memory (R189), a sheaf's from its block buffer
(R160), where an uncorrectable error raises FT_MCHK (R34), a routine's from a page with K and X (R297). -/
def State.fetchWord (s : State) : Acc Word :=
  match s.who with
  | .reeve _ =>
    match s.re.fetchBuf.find? (fun p => p.1 == s.pc) with
    | some p => .ok p.2 s
    | none =>
      (s.readCode s.xc s.pc).bind fun w s1 =>
        if s.fetchAhead == 0 then .ok w s1
        else
          let r := s1.prefetch s1.xc (s1.pc + 8) (s.fetchAhead % 64)
          .ok w (r.2.modRe (fun x => { x with fetchBuf := r.1 }))
  | .sheaf _ =>
    let x := s.sh
    if x.pc.toNat < x.blockAddr.toNat then .trap (tr cFETCH 0 x.pc) s
    else
      let i := (x.pc.toNat - x.blockAddr.toNat) / 8
      match x.block[i]? with
      | some w => if KMap.get false x.blockPoison i then .trap (tr cMCHK 2 x.pc) s else .ok w s
      | none => .trap (tr cFETCH 0 x.pc) s
  | .wain _ =>
    if s.routinePage s.pc then s.readCode { s.xc with keep := true } s.pc else .trap (tr cFETCH 0 s.pc) s

/-- The subcode that steps 1, 2 and 4 of R333 give a slot, if any: reserved op6, context, nonzero unused field or `h` beyond 15. -/
def State.slotSub (s : State) (b : BitVec 31) : Option Nat :=
  let op := (b.extractLsb' 25 6).toNat
  if 0x1B ≤ op then some 1
  else if !runsIn (slotRuns op) s.who then some 3
  else
    match decodeSlot b with
    | none => some 1
    | some sl =>
      let regs := match sl with
        | .vec .. => []
        | .vmv .. => []
        | _ => slotReads sl ++ (slotWrites sl).toList
      if regs.any s.badReg then some 1 else none

/-- The trap of a D word's checks (R333), slot A first, then slot B, then the pairing of R331; none when all pass. -/
def State.dualTrap (s : State) (w : Word) : Option TrapInfo :=
  match s.slotSub (slotBitsA w) with
  | some k => some (illegal k w)
  | none =>
    match s.slotSub (slotBitsB w) with
    | some k => some { illegal k w with slotB := true }
    | none =>
      match decodeSlot (slotBitsA w), decodeSlot (slotBitsB w) with
      | some a, some b =>
        if !pair1 0 a then some (illegal 2 w)
        else if !pair1 1 b then some { illegal 2 w with slotB := true }
        else if !pair2 0 a then some (illegal 2 w)
        else if !pair2 1 b then some { illegal 2 w with slotB := true }
        else if (slotMem a && slotMem b) || (slotBr a && slotBr b) then some (illegal 2 w)
        else none
      | _, _ => none

/-- Is a word's tag and op assigned (step 1 of R333)? -/
def wordAssigned (w : Word) : Bool :=
  match (wTag w).toNat with
  | 0 => opAssigned (wOp w)
  | 1 => true
  | 2 => wOp w == 0x1B || wOp w == 0x1D || wOp w == 0x51 || wOp w == 0x52
  | _ => false

/-- The trap of a word that does not decode, by the first failure in the order of R333. -/
def State.illegalWord (s : State) (w : Word) : TrapInfo :=
  if !wordAssigned w then illegal 1 w
  else if (wTag w).toNat == 1 then (s.dualTrap w).getD (illegal 1 w)
  else if !runsIn (opRuns (wOp w)) s.who then illegal 3 w
  else if opKeeper (wOp w) && !s.keeper then tr cPRIV 0 0
  else if (wOp w == 0x70 || wOp w == 0x71) && sysKeeper ((wX w).extractLsb' 0 6) && !s.keeper then tr cPRIV 0 0
  else illegal 1 w

end Sys2Proof.Machine
end

