-- ==== Sys2Proof/Machine/Schedule.lean ====
section
/-!
DEFINITION. Time: what one step charges (R146, R337, log 6), and which waits count as blocked (R139).
-/
namespace Sys2Proof.Machine

/-- The clock of a core in MHz (R30). -/
def State.mhz (s : State) (c : Nat) : Nat := (KMap.get Die.reset s.dies (dieOf c)).mhz

/-- Is a sheaf's block runnable: busy, not stopped, not waiting (R363)? -/
def Sheaf.runnable (x : Sheaf) : Bool := x.busy && !x.stopped && x.wait.isNone
/-- Does a wait count as blocked under R139? A VRPL or VJOIN does when the sheaf it waits on has no runnable block (R363). -/
def Unit.blocked (u : Unit) (w : Wait) : Bool :=
  match w with
  | .tlwait => true
  | .wfe => true
  | .bar => true
  | .stream => true
  | .vrpl k => !(u.sheafOf k).runnable
  | .vjoin k => !(u.sheafOf k).runnable
  | _ => false

/-- Charge a reeve `n` cycles of its unit's residence (R146); the initial keeper task is charged no budget (R116). -/
def tickReeve (u : Unit) (n : Nat) (x : Reeve) : Reeve :=
  if !x.started || x.ended then x
  else
    let b := match x.wait with
      | some w => u.blocked w
      | none => false
    { x with
      cyc := x.cyc + toW n, charged := x.charged + n,
      budget := if u.initial then x.budget else if x.budget.toNat ≤ n then 0 else x.budget - toW n,
      waited := if b then x.waited + n else 0,
      wfeLeft := x.wfeLeft.map (fun k => k - n) }

/-- Charge `n` cycles to a running unit. -/
def tickUnit (n : Nat) (u : Unit) : Unit :=
  if u.live && u.place == .running then { u with reeves := u.reeves.map (fun p => (p.1, tickReeve u n p.2)) } else u

/-- Picoseconds since the start that `%tim` and its fraction stand for (R337). -/
def State.picos (s : State) : Nat := s.tim.toNat * 1000 + s.timFrac
/-- Picoseconds of one step: `pace` cycles of the executing core, rounded up (log 6). -/
def State.stepPicos (s : State) : Nat := (s.pace * 1000000 + s.mhz s.curCore - 1) / s.mhz s.curCore
/-- Cycles of core `c` that a step takes: those its clock completes meanwhile (R30). -/
def State.stepCycles (s : State) (c : Nat) : Nat :=
  (s.picos + s.stepPicos) * s.mhz c / 1000000 - s.picos * s.mhz c / 1000000
/-- The time of one step (log 6): every running unit and core is charged its own clock's cycles, and `%tim` counts nanoseconds (R337). -/
def State.tick (s : State) : State :=
  let t := s.picos + s.stepPicos
  { s with
    units := s.units.map (fun p => (p.1, tickUnit (s.stepCycles p.2.core) p.2))
    cores := s.cores.map (fun p => (p.1, if p.2.running.isSome then { p.2 with turn := p.2.turn + s.stepCycles p.1 } else p.2))
    tim := toW (t / 1000)
    timFrac := t % 1000 }

end Sys2Proof.Machine
end

