-- ==== Sys2Proof/Machine/Integer.lean ====
section
/-!
DEFINITION. The integer instructions in register and immediate form, and the constants and addresses (R345-R347, R234).
-/
namespace Sys2Proof.Machine

/-! ### Results (R345, R234) -/

/-- MULH: bits 127:64 of the signed product. -/
def mulhS (a b : Word) : Word := ((a.signExtend 128) * (b.signExtend 128)).extractLsb' 64 64
/-- MULHN: bits 127:64 of the unsigned product. -/
def mulhN (a b : Word) : Word := ((a.zeroExtend 128) * (b.zeroExtend 128)).extractLsb' 64 64
/-- DIV: truncated toward zero; all bits set for B = 0; the minimum by −1 gives the minimum (R234). -/
def divS (a b : Word) : Word := if b = 0 then -1 else a.sdiv b
/-- DIVN: all bits set for B = 0. -/
def divN (a b : Word) : Word := if b = 0 then -1 else a / b
/-- REM: the sign of A; A for B = 0 (R234). -/
def remS (a b : Word) : Word := if b = 0 then a else a.srem b
/-- REMN: A for B = 0. -/
def remN (a b : Word) : Word := if b = 0 then a else a % b
/-- The shift amount B mod 64. -/
def shAmt (b : Word) : Nat := b.toNat % 64
/-- MIN, signed. -/
def minS (a b : Word) : Word := if b.slt a then b else a
/-- MAX, signed. -/
def maxS (a b : Word) : Word := if a.slt b then b else a
/-- MINN, unsigned. -/
def minN (a b : Word) : Word := if b < a then b else a
/-- MAXN, unsigned. -/
def maxN (a b : Word) : Word := if a < b then b else a
/-- Leading zeros of a `k`-bit pattern. -/
def clzGo (n : Nat) : Nat → Nat
  | 0 => 0
  | k + 1 => if n.testBit k then 0 else clzGo n k + 1
/-- CLZ; 64 for A = 0. -/
def clzW (a : Word) : Word := toW (clzGo a.toNat 64)
/-- Trailing zeros from bit `i`, over `k` bits. -/
def ctzGo (n : Nat) : Nat → Nat → Nat
  | 0, _ => 0
  | k + 1, i => if n.testBit i then 0 else ctzGo n k (i + 1) + 1
/-- CTZ; 64 for A = 0. -/
def ctzW (a : Word) : Word := toW (ctzGo a.toNat 64 0)
/-- The number of set bits among the low `k`. -/
def popGo (n : Nat) : Nat → Nat
  | 0 => 0
  | k + 1 => popGo n k + (if n.testBit k then 1 else 0)
/-- POPC. -/
def popW (a : Word) : Word := toW (popGo a.toNat 64)
/-- w of SEXT and ZEXT: ((B − 1) mod 64) + 1. -/
def extW (b : Word) : Nat := (b.toNat + 63) % 64 + 1
/-- SEXT. -/
def sextW (a b : Word) : Word := toW (wrapInt 64 (sInt (extW b) a.toNat))
/-- ZEXT. -/
def zextW (a b : Word) : Word := toW (low (extW b) a.toNat)
/-- cond(A, B) of BC and SETC (R325, R346). -/
def condHolds (c : Cond) (a b : Word) : Bool :=
  match c with
  | .eq => a == b
  | .ne => a != b
  | .lt => a.slt b
  | .ge => !a.slt b
  | .ltn => decide (a < b)
  | .gen => !decide (a < b)
/-- 1 or 0. -/
def boolW (b : Bool) : Word := if b then 1 else 0
/-- LIH: the low half of A under imm32, which is not sign-extended (R347). -/
def lihW (a : Word) (imm : BitVec 32) : Word := zx64 (a.extractLsb' 0 32) ||| (zx64 imm <<< 32)

/-! ### The two forms -/

/-- The register form `op d, a, b`: one write of a result of two sources, in any context (R343, R345). -/
def State.intReg (s : State) (i : Instr) (d a b : Reg) (v : Word → Word → Word) : Host.Outcome State Fault Refusal :=
  s.perform (encode i) (opRuns 0x00) false [d, a, b] [a, b] fun s => .go (s.wr d (v (s.rd a) (s.rd b)))
/-- A register form with one source. -/
def State.intUn (s : State) (i : Instr) (d a : Reg) (v : Word → Word) : Host.Outcome State Fault Refusal :=
  s.perform (encode i) (opRuns 0x00) false [d, a] [a] fun s => .go (s.wr d (v (s.rd a)))
/-- The immediate form `op d, a, imm`: B is imm32 sign-extended (R345). -/
def State.intImm (s : State) (i : Instr) (d a : Reg) (imm : BitVec 32) (v : Word → Word → Word) :
    Host.Outcome State Fault Refusal :=
  s.perform (encode i) (opRuns 0x00) false [d, a] [a] fun s => .go (s.wr d (v (s.rd a) (imm32 imm)))

/-! ### The meanings -/

/-- ADD (R345): A + B. -/
def execAdd (d a b : Reg) (s : State) : Host.Outcome State Fault Refusal :=
  s.intReg (.add d a b) d a b (· + ·)
/-- SUB (R345): A − B. -/
def execSub (d a b : Reg) (s : State) : Host.Outcome State Fault Refusal :=
  s.intReg (.sub d a b) d a b (· - ·)
/-- MUL (R345): bits 63:0 of A × B. -/
def execMul (d a b : Reg) (s : State) : Host.Outcome State Fault Refusal :=
  s.intReg (.mul d a b) d a b (· * ·)
/-- MULH (R345): the high half of the signed product. -/
def execMulh (d a b : Reg) (s : State) : Host.Outcome State Fault Refusal :=
  s.intReg (.mulh d a b) d a b mulhS
/-- MULHN (R345): the high half of the unsigned product. -/
def execMulhn (d a b : Reg) (s : State) : Host.Outcome State Fault Refusal :=
  s.intReg (.mulhn d a b) d a b mulhN
/-- DIV (R345): the signed quotient. -/
def execDiv (d a b : Reg) (s : State) : Host.Outcome State Fault Refusal :=
  s.intReg (.div d a b) d a b divS
/-- DIVN (R345): the unsigned quotient. -/
def execDivn (d a b : Reg) (s : State) : Host.Outcome State Fault Refusal :=
  s.intReg (.divn d a b) d a b divN
/-- REM (R345): the signed remainder. -/
def execRem (d a b : Reg) (s : State) : Host.Outcome State Fault Refusal :=
  s.intReg (.rem d a b) d a b remS
/-- REMN (R345): the unsigned remainder. -/
def execRemn (d a b : Reg) (s : State) : Host.Outcome State Fault Refusal :=
  s.intReg (.remn d a b) d a b remN
/-- AND (R345): A & B. -/
def execAnd (d a b : Reg) (s : State) : Host.Outcome State Fault Refusal :=
  s.intReg (.and d a b) d a b (· &&& ·)
/-- OR (R345): A | B. -/
def execOr (d a b : Reg) (s : State) : Host.Outcome State Fault Refusal :=
  s.intReg (.or d a b) d a b (· ||| ·)
/-- XOR (R345): A ^ B. -/
def execXor (d a b : Reg) (s : State) : Host.Outcome State Fault Refusal :=
  s.intReg (.xor d a b) d a b (· ^^^ ·)
/-- ANDN (R345): A & ~B. -/
def execAndn (d a b : Reg) (s : State) : Host.Outcome State Fault Refusal :=
  s.intReg (.andn d a b) d a b (fun a b => a &&& ~~~b)
/-- SHL (R345): A << (B mod 64). -/
def execShl (d a b : Reg) (s : State) : Host.Outcome State Fault Refusal :=
  s.intReg (.shl d a b) d a b (fun a b => a <<< shAmt b)
/-- SHR (R345): A >> (B mod 64), logical. -/
def execShr (d a b : Reg) (s : State) : Host.Outcome State Fault Refusal :=
  s.intReg (.shr d a b) d a b (fun a b => a >>> shAmt b)
/-- SRA (R345): A >> (B mod 64), arithmetic. -/
def execSra (d a b : Reg) (s : State) : Host.Outcome State Fault Refusal :=
  s.intReg (.sra d a b) d a b (fun a b => a.sshiftRight (shAmt b))
/-- MIN (R345): the signed minimum. -/
def execMin (d a b : Reg) (s : State) : Host.Outcome State Fault Refusal :=
  s.intReg (.min d a b) d a b minS
/-- MAX (R345): the signed maximum. -/
def execMax (d a b : Reg) (s : State) : Host.Outcome State Fault Refusal :=
  s.intReg (.max d a b) d a b maxS
/-- MINN (R345): the unsigned minimum. -/
def execMinn (d a b : Reg) (s : State) : Host.Outcome State Fault Refusal :=
  s.intReg (.minn d a b) d a b minN
/-- MAXN (R345): the unsigned maximum. -/
def execMaxn (d a b : Reg) (s : State) : Host.Outcome State Fault Refusal :=
  s.intReg (.maxn d a b) d a b maxN
/-- SEXT (R345): sign extension from w bits. -/
def execSext (d a b : Reg) (s : State) : Host.Outcome State Fault Refusal :=
  s.intReg (.sext d a b) d a b sextW
/-- ZEXT (R345): zero extension from w bits. -/
def execZext (d a b : Reg) (s : State) : Host.Outcome State Fault Refusal :=
  s.intReg (.zext d a b) d a b zextW
/-- CLZ (R345). -/
def execClz (d a : Reg) (s : State) : Host.Outcome State Fault Refusal :=
  s.intUn (.clz d a) d a clzW
/-- CTZ (R345). -/
def execCtz (d a : Reg) (s : State) : Host.Outcome State Fault Refusal :=
  s.intUn (.ctz d a) d a ctzW
/-- POPC (R345). -/
def execPopc (d a : Reg) (s : State) : Host.Outcome State Fault Refusal :=
  s.intUn (.popc d a) d a popW
/-- SETC (R345, R346): 1 when the condition holds. -/
def execSetc (c : Cond) (d a b : Reg) (s : State) : Host.Outcome State Fault Refusal :=
  s.intReg (.setc c d a b) d a b (fun x y => boolW (condHolds c x y))
/-- CSEL (R345): A when g[c] is not 0, otherwise B. -/
def execCsel (d a b c : Reg) (s : State) : Host.Outcome State Fault Refusal :=
  s.perform (encode (.csel d a b c)) (opRuns 0x00) false [d, a, b, c] [a, b, c] fun s =>
    .go (s.wr d (if s.rd c ≠ 0 then s.rd a else s.rd b))
/-- ADD with an immediate (R345): A + B. -/
def execAddI (d a : Reg) (imm : BitVec 32) (s : State) : Host.Outcome State Fault Refusal :=
  s.intImm (.addI d a imm) d a imm (· + ·)
/-- SUB with an immediate (R345): A − B. -/
def execSubI (d a : Reg) (imm : BitVec 32) (s : State) : Host.Outcome State Fault Refusal :=
  s.intImm (.subI d a imm) d a imm (· - ·)
/-- MUL with an immediate (R345): bits 63:0 of A × B. -/
def execMulI (d a : Reg) (imm : BitVec 32) (s : State) : Host.Outcome State Fault Refusal :=
  s.intImm (.mulI d a imm) d a imm (· * ·)
/-- MULH with an immediate (R345): the high half of the signed product. -/
def execMulhI (d a : Reg) (imm : BitVec 32) (s : State) : Host.Outcome State Fault Refusal :=
  s.intImm (.mulhI d a imm) d a imm mulhS
/-- MULHN with an immediate (R345): the high half of the unsigned product. -/
def execMulhnI (d a : Reg) (imm : BitVec 32) (s : State) : Host.Outcome State Fault Refusal :=
  s.intImm (.mulhnI d a imm) d a imm mulhN
/-- DIV with an immediate (R345): the signed quotient. -/
def execDivI (d a : Reg) (imm : BitVec 32) (s : State) : Host.Outcome State Fault Refusal :=
  s.intImm (.divI d a imm) d a imm divS
/-- DIVN with an immediate (R345): the unsigned quotient. -/
def execDivnI (d a : Reg) (imm : BitVec 32) (s : State) : Host.Outcome State Fault Refusal :=
  s.intImm (.divnI d a imm) d a imm divN
/-- REM with an immediate (R345): the signed remainder. -/
def execRemI (d a : Reg) (imm : BitVec 32) (s : State) : Host.Outcome State Fault Refusal :=
  s.intImm (.remI d a imm) d a imm remS
/-- REMN with an immediate (R345): the unsigned remainder. -/
def execRemnI (d a : Reg) (imm : BitVec 32) (s : State) : Host.Outcome State Fault Refusal :=
  s.intImm (.remnI d a imm) d a imm remN
/-- AND with an immediate (R345): A & B. -/
def execAndI (d a : Reg) (imm : BitVec 32) (s : State) : Host.Outcome State Fault Refusal :=
  s.intImm (.andI d a imm) d a imm (· &&& ·)
/-- OR with an immediate (R345): A | B. -/
def execOrI (d a : Reg) (imm : BitVec 32) (s : State) : Host.Outcome State Fault Refusal :=
  s.intImm (.orI d a imm) d a imm (· ||| ·)
/-- XOR with an immediate (R345): A ^ B. -/
def execXorI (d a : Reg) (imm : BitVec 32) (s : State) : Host.Outcome State Fault Refusal :=
  s.intImm (.xorI d a imm) d a imm (· ^^^ ·)
/-- ANDN with an immediate (R345): A & ~B. -/
def execAndnI (d a : Reg) (imm : BitVec 32) (s : State) : Host.Outcome State Fault Refusal :=
  s.intImm (.andnI d a imm) d a imm (fun a b => a &&& ~~~b)
/-- SHL with an immediate (R345): A << (B mod 64). -/
def execShlI (d a : Reg) (imm : BitVec 32) (s : State) : Host.Outcome State Fault Refusal :=
  s.intImm (.shlI d a imm) d a imm (fun a b => a <<< shAmt b)
/-- SHR with an immediate (R345): A >> (B mod 64), logical. -/
def execShrI (d a : Reg) (imm : BitVec 32) (s : State) : Host.Outcome State Fault Refusal :=
  s.intImm (.shrI d a imm) d a imm (fun a b => a >>> shAmt b)
/-- SRA with an immediate (R345): A >> (B mod 64), arithmetic. -/
def execSraI (d a : Reg) (imm : BitVec 32) (s : State) : Host.Outcome State Fault Refusal :=
  s.intImm (.sraI d a imm) d a imm (fun a b => a.sshiftRight (shAmt b))
/-- MIN with an immediate (R345): the signed minimum. -/
def execMinI (d a : Reg) (imm : BitVec 32) (s : State) : Host.Outcome State Fault Refusal :=
  s.intImm (.minI d a imm) d a imm minS
/-- MAX with an immediate (R345): the signed maximum. -/
def execMaxI (d a : Reg) (imm : BitVec 32) (s : State) : Host.Outcome State Fault Refusal :=
  s.intImm (.maxI d a imm) d a imm maxS
/-- MINN with an immediate (R345): the unsigned minimum. -/
def execMinnI (d a : Reg) (imm : BitVec 32) (s : State) : Host.Outcome State Fault Refusal :=
  s.intImm (.minnI d a imm) d a imm minN
/-- MAXN with an immediate (R345): the unsigned maximum. -/
def execMaxnI (d a : Reg) (imm : BitVec 32) (s : State) : Host.Outcome State Fault Refusal :=
  s.intImm (.maxnI d a imm) d a imm maxN
/-- SEXT with an immediate (R345): sign extension from w bits. -/
def execSextI (d a : Reg) (imm : BitVec 32) (s : State) : Host.Outcome State Fault Refusal :=
  s.intImm (.sextI d a imm) d a imm sextW
/-- ZEXT with an immediate (R345): zero extension from w bits. -/
def execZextI (d a : Reg) (imm : BitVec 32) (s : State) : Host.Outcome State Fault Refusal :=
  s.intImm (.zextI d a imm) d a imm zextW
/-- SETC with an immediate (R346). -/
def execSetcI (c : Cond) (d a : Reg) (imm : BitVec 32) (s : State) : Host.Outcome State Fault Refusal :=
  s.intImm (.setcI c d a imm) d a imm (fun x y => boolW (condHolds c x y))
/-- LI (R347): imm48 sign-extended. -/
def execLi (d : Reg) (imm : BitVec 48) (s : State) : Host.Outcome State Fault Refusal :=
  s.perform (encode (.li d imm)) (opRuns 0x1B) false [d] [] fun s => .go (s.wr d (sx64 imm))
/-- LIH (R347). -/
def execLih (d a : Reg) (imm : BitVec 32) (s : State) : Host.Outcome State Fault Refusal :=
  s.perform (encode (.lih d a imm)) (opRuns 0x1C) false [d, a] [a] fun s => .go (s.wr d (lihW (s.rd a) imm))
/-- ADDPC (R347): the address of this word plus imm48 sign-extended. -/
def execAddpc (d : Reg) (imm : BitVec 48) (s : State) : Host.Outcome State Fault Refusal :=
  s.perform (encode (.addpc d imm)) (opRuns 0x1D) false [d] [] fun s => .go (s.wr d (s.pc + sx64 imm))

end Sys2Proof.Machine
end

