-- ==== Sys2Proof/Machine/Lattice.lean ====
section
/-!
DEFINITION. E8 lattice points as data (R223, R224, R241, R242) and the arithmetic of accumulators (R237, R238, R245, R253).
-/
namespace Sys2Proof.Machine

/-! ### Points (R223, R224) -/

/-- The sum of a list of bits modulo 2. -/
def parity (l : List Bool) : Bool := l.foldl (fun a b => a != b) false
/-- The doubled component of a sign and a doubled magnitude. -/
def dblOf (neg : Bool) (m : Nat) : Int := if neg then -(m : Int) else m
/-- The doubled components 2x of an E8W16 code (R223). -/
def e8w16Dec (c : Nat) : List Int :=
  if !c.testBit 15 then
    let b := (List.range 7).map (fun i => c.testBit (8 + i))
    (List.range 8).map (fun i =>
      if (if i < 7 then b.getD i false else parity b) then dblOf (c.testBit i) 2 else 0)
  else
    let b := (List.range 8).map (fun i => c.testBit (7 + i))
    let s := (List.range 7).map (fun i => c.testBit i)
    (List.range 8).map (fun i =>
      dblOf (if i < 7 then s.getD i false else parity (s ++ b)) (if b.getD i false then 3 else 1))
/-- The doubled components of an E8W32 code without its scale (R224). -/
def e8w32Dec (c : Nat) : List Int :=
  if !c.testBit 23 then
    let m := (List.range 7).map (fun i => fld c (2 * i) 2)
    let m7 := 2 * fld c 14 1 + (if parity (m.map (fun v => v % 2 == 1)) then 1 else 0)
    (List.range 8).map (fun i => dblOf (c.testBit (15 + i)) (2 * (if i < 7 then m.getD i 0 else m7)))
  else
    let b := (List.range 8).map (fun i => fld c (2 * i) 2)
    let s := (List.range 7).map (fun i => c.testBit (16 + i))
    (List.range 8).map (fun i =>
      dblOf (if i < 7 then s.getD i false else parity (s ++ b.map (fun v => v % 2 == 1))) (2 * b.getD i 0 + 1))
/-- A number with the given bits, lowest first. -/
def bitsNat : List Bool → Nat
  | [] => 0
  | b :: t => (if b then 1 else 0) + 2 * bitsNat t
/-- The E8W16 code of doubled components (R223). -/
def e8w16Enc (half : Bool) (z : List Int) : Nat :=
  let neg := z.map (fun v => decide (v < 0))
  if !half then bitsNat neg + (bitsNat ((z.take 7).map (fun v => decide (v ≠ 0)))) <<< 8
  else 2 ^ 15 + bitsNat (neg.take 7) + (bitsNat (z.map (fun v => decide (v.natAbs = 3)))) <<< 7
/-- The E8W32 code of doubled components, without its scale (R224). -/
def e8w32Enc (half : Bool) (z : List Int) : Nat :=
  let neg := z.map (fun v => decide (v < 0))
  if !half then
    let m := z.map (fun v => v.natAbs / 2)
    packElems 2 (m.take 7) + (m.getD 7 0 / 2) <<< 14 + (bitsNat neg) <<< 15
  else 2 ^ 23 + packElems 2 (z.map (fun v => v.natAbs / 2)) + (bitsNat (neg.take 7)) <<< 16

/-! ### The nearest point (R241, R242) -/

/-- The integer nearest to a/d, ties to even. -/
def roundEven (a : Int) (d : Nat) : Int :=
  let q := a / (d : Int)
  let r := a % (d : Int)
  if (d : Int) < 2 * r || (2 * r == (d : Int) && q % 2 == 1) then q + 1 else q
/-- Clamp to ±m. -/
def clampI (x m : Int) : Int := if x < -m then -m else if m < x then m else x
/-- The index of the largest of a list of magnitudes, lowest first. -/
def argMax : List Nat → Nat → Nat → Nat → Nat
  | [], _, best, _ => best
  | v :: t, i, best, m => if m < v then argMax t (i + 1) i v else argMax t (i + 1) best m
/-- The parity step: `z` holds doubled values, `lim` the doubled range, 2y_i = a_i / d. -/
def parityMove (a : List Int) (d : Nat) (lim : Int) (z : List Int) : List Int :=
  if z.sum % 4 == 0 then z
  else
    let errs := (a.zip z).map (fun p => p.1 - p.2 * (d : Int))
    let k := argMax (errs.map Int.natAbs) 0 0 0
    (List.range 8).map (fun i =>
      let v := z.getD i 0
      if i == k then
        let up := decide (0 ≤ errs.getD i 0)
        let w := if up then v + 2 else v - 2
        if lim < w || w < -lim then (if up then v - 2 else v + 2) else w
      else v)
/-- Σ(y − z)² in units of 1/(2d)². -/
def sqErr (a : List Int) (d : Nat) (z : List Int) : Nat :=
  ((a.zip z).map (fun p => let e := (p.1 - p.2 * (d : Int)).natAbs; e * e)).sum
/-- The chosen point for 2y_i = a_i / d with component bound `c`: its coset and its doubled components. -/
def nearestE8 (c : Int) (a : List Int) (d : Nat) : Bool × List Int :=
  let zi := parityMove a d (2 * c) (a.map (fun v => 2 * clampI (roundEven v (2 * d)) c))
  let zh := parityMove a d (2 * c + 1) (a.map (fun v => clampI (2 * roundEven (v - (d : Int)) (2 * d) + 1) (2 * c + 1)))
  if sqErr a d zh < sqErr a d zi then (true, zh) else (false, zi)

/-- One quantised point (R241, R242): code without scale, overflow, NV; `none` stands for an all-zero code under a zero or NaN
scale or a NaN input. -/
structure PointQ where
  code : Nat
  beyond : Bool
  nv : Bool
  nanIn : Bool
/-- Quantise eight components under the scale byte `sb`; `w32` selects E8W32. -/
def quantPoint (w32 : Bool) (xs : List FVal) (sb : Nat) : PointQ :=
  let c : Int := if w32 then 3 else 1
  let nan := xs.any (fun x => match x with | .nan _ => true | _ => false)
  match zs8 sb with
  | .fin _ zm ze =>
    if nan then ⟨0, false, true, true⟩
    else if zm == 0 then ⟨0, false, false, false⟩
    else
      let es : List Int := xs.map (fun x => match x with | .fin _ _ e => e - ze | _ => 0)
      let lo : Int := es.foldl (fun a e => if e < a then e else a) 0
      let d := zm <<< (-lo).toNat
      let lim : Int := (c + 1) * (d : Int)
      let ys : List Int := xs.map (fun x => match x with
        | .fin n m e => scaled n m (e - ze) lo
        | .inf n => if n then -lim else lim
        | .nan _ => 0)
      let big := (xs.zip ys).any (fun p => (match p.1 with | .inf _ => true | _ => false) || decide (lim < (p.2.natAbs : Int)))
      let r := nearestE8 c (ys.map (2 * ·)) d
      ⟨if w32 then e8w32Enc r.1 r.2 else e8w16Enc r.1 r.2, big, false, false⟩
  | _ => ⟨0, false, true, nan⟩

/-! ### Accumulators (R236-R238, R245) -/

/-- The exact sum of two values; NaN (marked invalid) for opposite infinities. -/
def faddX (x y : FVal) : FVal :=
  match x, y with
  | .nan s, w => .nan (s || isSig w)
  | .inf _, .nan s => .nan s
  | .fin _ _ _, .nan s => .nan s
  | .inf n, .inf n' => if n == n' then .inf n else .nan true
  | .inf n, .fin _ _ _ => .inf n
  | .fin _ _ _, .inf n => .inf n
  | .fin n m e, .fin n' m' e' =>
    let lo := if e ≤ e' then e else e'
    let v := scaled n m e lo + scaled n' m' e' lo
    .fin (if v == 0 then n && n' && m == 0 && m' == 0 else decide (v < 0)) v.natAbs lo
/-- AccAdd of R236 and R238 into one accumulator of format `f`: a NaN block sum gives the canonical NaN and NV. -/
def accAdd (f : Fmt) (acc : Nat) (s : FVal) : Nat × Word :=
  match s with
  | .nan _ => (fmtNaN f, fNV)
  | _ => faddV f (fdec f acc) s
/-- AccAdd of R237 into a head and a tail. -/
def pairAdd (h t : Nat) (s : FVal) : (Nat × Nat) × Word :=
  let f := fmtOf .f32
  match s, fdec f h with
  | .nan _, _ => ((fmtNaN f, 0), fNV)
  | s, .fin n m e =>
    match faddX (faddX (.fin n m e) (fdec f t)) s with
    | .fin n' m' e' =>
      let r := fround f .rne .none n' m' 1 e'
      match fdec f r.1 with
      | .fin a b c =>
        let q := faddV f (.fin n' m' e') (fneg (.fin a b c))
        ((r.1, q.1), r.2 ||| q.2)
      | _ => ((r.1, 0), r.2)
    | u => let r := froundV f .rne .none u; ((r.1, 0), r.2)
  | s, hv => let r := faddV f hv s; ((r.1, 0), r.2)
/-- The value of a paired element (R237): the head's where it is a NaN or an infinity. -/
def pairVal (h t : Nat) : FVal :=
  match fdec (fmtOf .f32) h with
  | .fin n m e => faddX (.fin n m e) (fdec (fmtOf .f32) t)
  | v => v
/-- The bit of C[row][4λ + q] in a group whose registers have `lanes` lanes (R245): f32 slots, or f64 slots in mode 2. -/
def accBit (lanes : Nat) (f64 : Bool) (row lane q : Nat) : Nat :=
  if f64 then row / 2 * (512 * lanes) + 512 * lane + 64 * (row % 2 * 4 + q)
  else row / 4 * (512 * lanes) + 512 * lane + 32 * (row % 4 * 4 + q)
/-- Registers of a group in an accumulator mode. -/
def accRegs (acc : Nat) : Nat := if acc == 0 then 4 else 8
/-- The places (row, lane, column in lane) of a group. -/
def accPlaces (lanes : Nat) (rows : List Nat) : List (Nat × Nat × Nat) :=
  rows.flatMap (fun r => (List.range lanes).flatMap (fun l => (List.range 4).map (fun q => (r, l, q))))
/-- One AccAdd on the bits `n` of a group: the new bits and flags. -/
def accStep (acc lanes n row lane q : Nat) (s : FVal) : Nat × Word :=
  if acc == 2 then
    let b := accBit lanes true row lane q
    let r := accAdd (fmtOf .f64) (fld n b 64) s
    (putFld n b 64 r.1, r.2)
  else
    let b := accBit lanes false row lane q
    if acc == 0 then
      let r := accAdd (fmtOf .f32) (fld n b 32) s
      (putFld n b 32 r.1, r.2)
    else
      let t := b + 2048 * lanes
      let r := pairAdd (fld n b 32) (fld n t 32) s
      (putFld (putFld n b 32 r.1.1) t 32 r.1.2, r.2)

end Sys2Proof.Machine
end

