-- ==== Sys2Proof/Machine/Shard.lean ====
section
/-!
DEFINITION. Symmetric spaces (R87) and sharded accesses: the shard table (R191), descriptors and owners (R192, R193, R196),
serving a request (R194, R198), and the issuing side with its one replay (R194-R198, R183).
-/
namespace Sys2Proof.Machine

/-! ### Symmetric spaces -/

/-- The registered symmetric space of a partition (R99). -/
def Partition.sym (p : Partition) : Option Nat := if p.pcsym.toNat.testBit 63 then some (fld p.pcsym.toNat 0 16) else none
/-- The symmetric space of a partition that is present as a member (R87); none when the member is absent. -/
def State.symReady (s : State) (p : Nat) : Option Nat :=
  let x := s.partOf p
  if x.st == .off then none
  else
    match x.sym with
    | some a => if (s.dirEntry p a).getLsbD 0 then some a else none
    | none => none

/-- How the home answers for one address of a symmetric space. -/
inductive Home where
  | absent | refused | poison | at (pa : Nat)
  deriving DecidableEq, Repr

/-- Translate an address in a partition's symmetric space and admit it by the export table (R87, R57). -/
def State.symAddr (s : State) (p asid : Nat) (k : Kind) (va : Word) (peer rpart perm : Nat) : Home × State :=
  if !canonical va || inWindow va then (.refused, s)
  else
    match s.leafRead ⟨p, asid, true, none⟩ va with
    | (none, s) => (.refused, s)
    | (some none, s) => (.poison, s)
    | (some (some l), s) =>
      let pa := pteFrame l.pte * 4096 + va.toNat % l.size
      if !leafOk l || pteType l.pte != 0 || !(s.partOf p).holds pa || KMap.get false s.hbmRetired (pa / 4096) then (.refused, s)
      else
        let (ok, s) := (s.setAD k l).admits pa peer rpart perm
        (if ok then .at pa else .refused, s)

/-- Translate a range of a symmetric space, page by page: the pieces as (physical address, length), or the first failure. -/
def State.symRange (s : State) (p asid : Nat) (k : Kind) (va : Word) (n peer rpart perm : Nat) :
    Except Home (List (Nat × Nat)) × State :=
  (chunks va n).foldl (fun acc c =>
    match acc.1 with
    | .error e => (.error e, acc.2)
    | .ok l =>
      match acc.2.symAddr p asid k c.1 peer rpart perm with
      | (.at pa, s) => (if k == .load && s.hbmBad pa c.2 then .error .poison else .ok (l ++ [(pa, c.2)]), s)
      | (h, s) => (.error h, s)) (.ok [], s)

/-- Read the pieces of a range. -/
def State.readPieces (s : State) (l : List (Nat × Nat)) : List Byte := l.flatMap (fun c => memRead s.hbm c.1 c.2)
/-- Write bytes over the pieces of a range. -/
def State.writePieces (s : State) : List (Nat × Nat) → List Byte → State
  | [], _ => s
  | c :: t, b => (s.hbmStore c.1 (b.take c.2)).writePieces t (b.drop c.2)

/-! ### Descriptors (R192, R193) -/

/-- RANK. -/
def sdRank (d : Desc) : Nat := dfld d 1 1
/-- The element size in bytes. -/
def sdSize (d : Desc) : Nat := 2 ^ fld (dfld d 2 1) 0 2
/-- Extent of dimension `i`; 1 for an unused one. -/
def sdExt (d : Desc) (i : Nat) : Nat := if i < sdRank d then dfld d (24 + 4 * i) 4 else 1
/-- Block size of dimension `i`. -/
def sdBlk (d : Desc) (i : Nat) : Nat := dfld d (16 + 2 * i) 2
/-- Local stride of dimension `i`. -/
def sdStr (d : Desc) (i : Nat) : Nat := dfld d (40 + 4 * i) 4
/-- Mesh axis of dimension `i`. -/
def sdAxis (d : Desc) (i : Nat) : Nat := fld (dfld d 3 1) (2 * i) 2
/-- M of axis `a`. -/
def sdM (d : Desc) (a : Nat) : Nat := fld (dfld d 12 4) (10 * a) 10 + 1
/-- Peer stride of axis `a`. -/
def sdS (d : Desc) (a : Nat) : Nat := fld (dfld d 8 4) (10 * a) 10
/-- BPEER. -/
def sdPeer (d : Desc) : Nat := fld (dfld d 4 2) 0 12
/-- GEN. -/
def sdGen (d : Desc) : BitVec 16 := BitVec.ofNat 16 (dfld d 6 2)
/-- LBASE. -/
def sdBase (d : Desc) : Word := toW (dfld d 56 8)
/-- The used dimensions. -/
def sdDims (d : Desc) : List Nat := List.range (sdRank d)
/-- A valid descriptor (R192). -/
def sdValid (d : Desc) : Bool :=
  dfld d 0 1 == 1 && decide (1 ≤ sdRank d) && decide (sdRank d ≤ 4) &&
  (sdDims d).all (fun i => sdExt d i != 0 && sdBlk d i != 0) &&
  (sdDims d).all (fun i => (sdDims d).all (fun j => i == j || sdAxis d i == 3 || sdAxis d i != sdAxis d j)) &&
  decide (sdM d 0 * sdM d 1 * sdM d 2 ≤ 1024) &&
  fld (dfld d 2 1) 2 6 == 0 && fld (dfld d 4 2) 12 4 == 0 && fld (dfld d 12 4) 30 2 == 0 && fld (dfld d 8 4) 30 2 == 0
/-- ∏ E_d. -/
def sdCount (d : Desc) : Nat := sdExt d 0 * sdExt d 1 * sdExt d 2 * sdExt d 3
/-- Index of dimension `i` in linear index `n`. -/
def sdIdx (d : Desc) (n i : Nat) : Nat :=
  match i with
  | 0 => n / (sdExt d 1 * sdExt d 2 * sdExt d 3)
  | 1 => n / (sdExt d 2 * sdExt d 3) % sdExt d 1
  | 2 => n / sdExt d 3 % sdExt d 2
  | _ => n % sdExt d 3
/-- The mesh coordinate that a used dimension gives its axis. -/
def sdCoord (d : Desc) (n i : Nat) : Nat := sdIdx d n i / sdBlk d i % sdM d (sdAxis d i)
/-- Local index l_d. -/
def sdLocal (d : Desc) (n i : Nat) : Nat :=
  let x := sdIdx d n i
  if sdAxis d i == 3 then x else x / (sdBlk d i * sdM d (sdAxis d i)) * sdBlk d i + x % sdBlk d i
/-- The local address of linear index `n` (R193). -/
def sdAddr (d : Desc) (n : Nat) : Word :=
  sdBase d + toW (sdSize d * ((sdDims d).map (fun i => sdLocal d n i * sdStr d i)).sum)
/-- An axis no used dimension names. -/
def sdReplica (d : Desc) (a : Nat) : Bool := !(sdDims d).any (fun i => sdAxis d i == a)
/-- A mesh place. -/
abbrev Place3 := Nat × Nat × Nat
/-- The places of the mesh in increasing linear coordinate. -/
def sdMesh (d : Desc) : List Place3 :=
  (List.range (sdM d 0)).flatMap (fun x => (List.range (sdM d 1)).flatMap (fun y => (List.range (sdM d 2)).map (fun z => (x, y, z))))
/-- The peer number at a mesh place. -/
def sdAt (d : Desc) (c : Place3) : Nat := sdPeer d + c.1 * sdS d 0 + c.2.1 * sdS d 1 + c.2.2 * sdS d 2
/-- The coordinate of axis `a` for element `n`, with replica place `rc`. -/
def sdAxisCoord (d : Desc) (n : Nat) (rc : Nat) (a : Nat) : Nat :=
  match (sdDims d).find? (fun i => sdAxis d i == a) with
  | some i => sdCoord d n i
  | none => rc
/-- The owner's peer number of element `n` (R193). -/
def sdOwner (d : Desc) (rc : Place3) (n : Nat) : Nat :=
  sdAt d (sdAxisCoord d n rc.1 0, sdAxisCoord d n rc.2.1 1, sdAxisCoord d n rc.2.2 2)
/-- The replica place a load reads (R196): the package's own place when it lies in the mesh, else 0. -/
def sdOwn (d : Desc) (peer : Option Nat) : Place3 :=
  match (sdMesh d).find? (fun c => some (sdAt d c) == peer) with
  | some c => c
  | none => (0, 0, 0)
/-- The replica places a store writes, in increasing coordinate (R196). -/
def sdReplicas (d : Desc) : List Place3 :=
  (sdMesh d).filter (fun c => (sdReplica d 0 || c.1 == 0) && (sdReplica d 1 || c.2.1 == 0) && (sdReplica d 2 || c.2.2 == 0))

/-- Is generation `g` newer than `h` (R197)? -/
def genNewer (g h : BitVec 16) : Bool := let x := (g - h).toNat; decide (1 ≤ x) && decide (x ≤ 32767)

/-! ### The shard table (R191) -/

/-- The number of a handle among every table of the package. -/
def shKey (part asid h : Nat) : Nat := (part * 65536 + asid) * 2048 + h
/-- Address of a descriptor in HBM. -/
def State.shAddr (s : State) (part asid h : Nat) : Nat := dirShtf (s.dirEntry part asid) * 4096 + 64 * h
/-- Descriptor `h` of an address space; none at or above NSHD (R195). What a keeper's store changed is a free value (log 9). -/
def State.shDesc (s : State) (part asid h : Nat) : Option Desc :=
  if dirNshd (s.dirEntry part asid) ≤ h then none
  else
    let m : Desc := BitVec.ofNat 512 (memVal s.hbm (s.shAddr part asid h) 64)
    if m = KMap.get 0 s.shards (shKey part asid h) then some m else some (Config.shardDescriptor (shKey part asid h) m.toNat)
/-- Write descriptor `h` (R197): the table's memory and what the package knows it wrote. -/
def State.shWrite (s : State) (part asid h : Nat) (d : Desc) : State :=
  { s.hbmWrite (s.shAddr part asid h) (leBytes 64 d.toNat) with shards := KMap.set 0 s.shards (shKey part asid h) d }

/-! ### Serving a request (R194, R198) -/

/-- An owner's answer. -/
inductive Served where
  | hold | absent | refused | poison
  | stale (d : Desc)
  | done (items : List (Nat × List Byte))
  deriving DecidableEq, Repr

/-- The addresses of a request's elements, admitted; none when any is refused (the home performs no part of it, R57). -/
def State.shardPas (s : State) (p asid : Nat) (d : Desc) (q : ShardReq) : Except Home (List (Nat × Nat × List Byte)) × State :=
  let n := sdSize d
  q.items.foldl (fun acc it =>
    match acc.1 with
    | .error e => (.error e, acc.2)
    | .ok l =>
      let va := sdAddr d it.2.1
      if sdCount d ≤ it.2.1 || va.toNat % n != 0 then (.error .refused, acc.2)
      else
        match acc.2.symAddr p asid (if q.write then .store else .load) va q.peer q.part (if q.write then expW else expR) with
        | (.at pa, s) => (if !q.write && s.hbmBad pa n then .error .poison else .ok (l ++ [(it.1, pa, it.2.2)]), s)
        | (h, s) => (.error h, s)) (.ok [], s)

/-- Serve a request in partition `p` (R194, R198): lists are applied in list order. -/
def State.serveShard (s : State) (p : Nat) (q : ShardReq) : Served × State :=
  match s.symReady p with
  | none => (.absent, s)
  | some asid =>
    let s := s.cacheDir p asid
    match s.shDesc p asid q.handle with
    | none => (.refused, s)
    | some d =>
      if q.gen ≠ sdGen d then (if genNewer q.gen (sdGen d) then .hold else .stale d, s)
      else if !sdValid d then (.refused, s)
      else
        match s.shardPas p asid d q with
        | (.error .poison, s) => (.poison, s)
        | (.error _, s) => (.refused, s)
        | (.ok l, s) =>
          if q.write then (.done [], l.foldl (fun s it => s.hbmStore it.2.1 (it.2.2.take (sdSize d))) s)
          else (.done (l.map (fun it => (it.1, memRead s.hbm it.2.1 (sdSize d)))), s)

/-! ### The issuing side -/

/-- Statuses of a request in flight. -/
def shOK : Nat := 0
def shREFUSED : Nat := 1
def shGONE : Nat := 2
def shSTALE : Nat := 3
def shPOISON : Nat := 4
def shRANGE : Nat := 5
def shPEER : Nat := 6

/-- Settle a request in flight by its tag. -/
def State.shardSettle (s : State) (tag st : Nat) (d : Desc) (got : List (Nat × List Byte)) : State :=
  { s with shardOut := s.shardOut.map (fun o => if o.tag == tag && o.status.isNone then { o with status := some st, desc := d, got := got } else o) }
/-- Settle a request served by this package itself. -/
def State.shardLocal (s : State) (p : Nat) (q : ShardReq) : State :=
  match s.serveShard p q with
  | (.hold, s) => { s with shardHeld := s.shardHeld ++ [⟨p, q, s.tim⟩] }
  | (.absent, s) => s.shardSettle q.tag shGONE 0 []
  | (.refused, s) => s.shardSettle q.tag shREFUSED 0 []
  | (.poison, s) => s.shardSettle q.tag shPOISON 0 []
  | (.stale d, s) => s.shardSettle q.tag shSTALE d []
  | (.done l, s) => s.shardSettle q.tag shOK 0 l

/-- Send one owner its request (R194); the package itself is served through the same checks (R55). -/
def State.shardSend (s : State) (o : ShardOut) : State :=
  let q : ShardReq := ⟨(s.peer).getD 0, s.cu.part, o.tag, o.handle, o.gen, o.write, o.items⟩
  let s : State := { s with shardOut := s.shardOut.map (fun x => if x.tag == o.tag then { x with gone := true } else x) }
  if s.peerGone o.peer then s.shardSettle o.tag shGONE 0 []
  else if s.peer == some o.peer then s.shardLocal s.cu.part q
  else s.sendReq s.cu.part o.peer o.addr.toNat (.shard o.peer s.cu.part q)
/-- Send the requests of the executing agent that have not left, in order, while fewer than 256 replies are outstanding (R318). -/
def State.shardPump (s : State) : State :=
  (s.shardOut.filter (fun o => o.uid == s.uid && o.agent == s.agentNo && !o.gone && o.status.isNone)).foldl
    (fun s o => if 256 ≤ s.outstanding && s.peer != some o.peer then s else s.shardSend o) s

/-- Why an element sends no request, if it does not (R195). -/
def shardBad (d : Desc) (rc : Place3) (n : Nat) : Option Nat :=
  if sdCount d ≤ n then some shRANGE else if 1024 ≤ sdOwner d rc n then some shPEER else none
/-- Note a request of the executing agent for elements, settled where a status is given. -/
def State.shardNote (s : State) (handle : Nat) (d : Desc) (write replayed : Bool) (peer : Nat) (st : Option Nat) (items : List (Nat × Nat × List Byte)) : State :=
  let t := s.nextTag
  let a := sdAddr d ((items.head?.map (·.2.1)).getD 0)
  { s with nextTag := t + 1, shardOut := s.shardOut ++ [⟨t, s.uid, s.agentNo, peer, handle, sdGen d, a, write, replayed, false, items, st, 0, []⟩] }
/-- Issue the requests of a list of elements under descriptor `d` (R194, R196). -/
def State.shardIssue (s : State) (handle : Nat) (d : Desc) (write replayed : Bool) (items : List (Nat × Nat × List Byte)) : State :=
  let rcs := if write then sdReplicas d else [sdOwn d s.peer]
  let bad (it : Nat × Nat × List Byte) : Option Nat := rcs.findSome? (fun rc => shardBad d rc it.2.1)
  let send := if write then items.takeWhile (fun it => (bad it).isNone) else items.filter (fun it => (bad it).isNone)
  let s := items.foldl (fun s it =>
    match bad it with
    | some st => s.shardNote handle d write replayed 0 (some st) [it]
    | none => s) s
  State.shardPump (rcs.foldl (fun s rc =>
    ((send.map (fun it => sdOwner d rc it.2.1)).eraseDups).foldl (fun s peer =>
      s.shardNote handle d write replayed peer none (send.filter (fun it => sdOwner d rc it.2.1 == peer))) s) s)

/-- The requests of the executing agent's instruction through one handle, as loads or as stores. -/
def State.shardMine (s : State) (handle : Nat) (write : Bool) : List ShardOut :=
  s.shardOut.filter (fun o => o.uid == s.uid && o.agent == s.agentNo && o.handle == handle && o.write == write)
/-- Forget the requests of the executing agent: what needed them is over. -/
def State.shardDrop (s : State) : State :=
  { s with shardOut := s.shardOut.filter (fun o => !(o.uid == s.uid && o.agent == s.agentNo)) }

/-- The one replay of stale elements (R198): under the newer of the own and the returned descriptor. -/
def State.shardReplay (s : State) (handle : Nat) (write : Bool) : State :=
  let u := s.cu
  ((s.shardMine handle write).filter (fun o => o.status == some shSTALE && !o.replayed)).foldl (fun s o =>
    let s := { s with shardOut := s.shardOut.filter (fun x => x.tag != o.tag) }
    let own := (s.shDesc u.part u.asid o.handle).getD 0
    let d := if genNewer (sdGen own) (sdGen o.desc) then own else o.desc
    if sdValid d then s.shardIssue o.handle d o.write true o.items
    else o.items.foldl (fun s it => s.shardNote o.handle d o.write true 0 (some shSTALE) [it]) s) s

/-- The trap of an element by its request's status. -/
def shardTrap (va : Word) (o : ShardOut) : TrapInfo :=
  match o.status.getD shOK with
  | 1 => tr cPERM 0 va
  | 2 => peerTrap va o.peer
  | 3 => tr cSHARD 1 va
  | 4 => tr cMCHK 2 va
  | 5 => tr cSHARD 2 va
  | _ => tr cSHARD 4 va
/-- Is an element's failure one that a store only records (R71, R195)? -/
def shardLate (write : Bool) (o : ShardOut) : Bool := write && (o.status == some shREFUSED || o.status == some shGONE || o.status == some shPOISON)

/-- The outcome of one element. -/
def shardElem (l : List ShardOut) (write : Bool) (va : Nat → Word) (e : Nat) : Except TrapInfo (List Byte) :=
  let mine := l.filter (fun o => o.items.any (fun it => it.1 == e))
  match mine.find? (fun o => o.status != some shOK && !shardLate write o) with
  | some o => .error (shardTrap (va e) o)
  | none =>
    if mine.isEmpty then .error (tr cSHARD 2 (va e))
    else .ok ((mine.findSome? (fun o => (o.got.find? (fun g => g.1 == e)).map (·.2))).getD [])

/-- Record the refused stores of a finished sharded access (R71). -/
def State.shardRecord (s : State) (l : List ShardOut) (va : Nat → Word) : State :=
  l.foldl (fun s o =>
    if shardLate true o then
      s.storeFailed s.uid s.rIdx o.tag (if o.status == some shGONE then cMCHK else cPERM) (va ((o.items.head?.map (·.1)).getD 0)) o.peer
    else s) s

/-- A sharded access of the executing agent (R194-R198): `va e` is the address an element's trap names. It waits while a request
is unanswered, and replays stale elements once; the requests stay noted until the instruction is over. -/
def State.shardAccess (s : State) (handle : Nat) (d : Desc) (write : Bool) (va : Nat → Word) (items : List (Nat × Nat × List Byte)) :
    Acc (List (Nat × Except TrapInfo (List Byte))) :=
  let s := if (s.shardMine handle write).isEmpty then s.shardIssue handle d write false items else s.shardPump
  let pending (s : State) : Bool := (s.shardMine handle write).any (fun o => o.status.isNone)
  if pending s then .wait .remote s
  else
    let s := s.shardReplay handle write
    if pending s then .wait .remote s
    else
      let l := s.shardMine handle write
      .ok (items.map (fun it => (it.1, shardElem l write va it.1))) (if write then s.shardRecord l va else s)

/-- A scalar access of `n` bytes through a type-7 page (R183): one element, of the descriptor's element size and aligned to it. -/
def State.shardScalar (s : State) (handle byte : Nat) (va : Word) (n : Nat) (data : Option (List Byte)) : Acc (List Byte) :=
  let u := s.cu
  let s := s.cacheDir u.part u.asid
  match s.shDesc u.part u.asid handle with
  | none => .trap (tr cSHARD 3 va) s
  | some d =>
    if !sdValid d then .trap (tr cSHARD 3 va) s
    else if sdSize d ≠ n ∨ byte % n ≠ 0 then .trap (tr cALIGN 0 va) s
    else
      (s.shardAccess handle d data.isSome (fun _ => va) [(0, byte / n, data.getD [])]).bind fun l s =>
        match l with
        | (_, .ok b) :: _ => .ok b s
        | (_, .error t) :: _ => .trap t s
        | [] => .ok [] s

end Sys2Proof.Machine
end

