-- ==== Sys2Proof/Machine/Views.lean ====
section
/-!
DEFINITION. Loads and stores of an agent at a checked target, and the transformed views that loads of the unit are served from
(R299-R301).
-/
namespace Sys2Proof.Machine

/-! ### Accesses to memory itself -/

/-- Note that the wain command of the executing engine or routine touches a page of type 4 or 6 (R211). -/
def State.touchPage (s : State) (x : Phys) : State :=
  match x with
  | .peer .. | .host .. =>
    match (match s.eng, s.who with
      | some n, _ => if 100 ≤ n then some (n - 100) else none
      | none, .wain c => some (s.rt c).seq
      | none, _ => none) with
    | some q => { s with cores := s.cores.map (fun p => (p.1, { p.2 with wq := p.2.wq.map (fun w => if w.seq == q then { w with wide := true } else w) })) }
    | none => s
  | _ => s
/-- Load `n` bytes of a checked target for element `elem` of the executing agent. -/
def State.rawLoad (s : State) (elem : Nat) (va : Word) (n : Nat) (x : Phys) : Acc (List Byte) :=
  let s := s.touchPage x
  match x with
  | .peer peer pa mode _ _ _ => s.peerLoad elem va peer pa mode n
  | .shard h byte => s.shardScalar h byte va n none
  | _ =>
    match s.readPhys s.curLog x va n with
    | .error t => .trap t s
    | .ok b => .ok b s
/-- A store, atomic, drain or wain write of the unit invalidates its cached tiles (R301). -/
def State.dropTiles (s : State) : State :=
  if s.cu.views.any (fun p => match p.2 with | some v => !v.tiles.isEmpty | none => false) then
    s.modCu (fun u => { u with views := u.views.map (fun p => (p.1, p.2.map (fun v => { v with tiles := [] }))) })
  else s
/-- The stream buffer that holds the byte at an address, as (unit, buffer), for a destination of unit `uid` (R295). -/
def State.destOf (s : State) (uid : Nat) (va : Word) : Option (Nat × Nat) :=
  let u := s.unitOf uid
  match s.leafFor ⟨u.part, u.asid, false, some uid⟩ va with
  | some (some l) =>
    let o := pteFrame l.pte % 1024 * 4096 + va.toNat % l.size
    match pteType l.pte with
    | 1 => (u.streamAt o).map (fun k => (uid, k))
    | 2 => (s.passUnit u (pteFrame l.pte / 1024)).bind (fun v => ((s.unitOf v).streamAt o).map (fun k => (v, k)))
    | _ => none
  | _ => none
/-- A routine with STRM stores into a loft: bytes for its output's buffer join the command's bytes, another buffer refuses them
(R295, R296, R169). -/
def State.routineStore (s : State) (va : Word) (u o : Nat) (w : WainCmd) (b : List Byte) : Acc PUnit :=
  match (s.unitOf u).streamAt o with
  | none => .ok ⟨⟩ (s.loftWrite u o b).dropTiles
  | some k =>
    if s.destOf w.uid (toW (dfld w.desc 24 8)) = some (u, k) then
      .ok ⟨⟩ { s with cores := s.cores.map (fun p => (p.1, { p.2 with wq := p.2.wq.map (fun y => if y.seq == w.seq then { y with pend := y.pend ++ b } else y) })) }
    else .trap (tr cSTREAM 0 va) s
/-- Store bytes to a checked target for the executing agent; `hold` is the store's own acknowledgement level. A store to a line of a
fabric-cached page waits until another task's store of the die to it is visible, so that the home performs them in this order (R62). -/
def State.storeAt (s : State) (va : Word) (x : Phys) (hold : BitVec 2) (b : List Byte) : Acc PUnit :=
  let s := s.touchPage x
  match x with
  | .loft u o =>
    match s.routineStream with
    | some w => s.routineStore va u o w b
    | none => .ok ⟨⟩ (s.loftWrite u o b).dropTiles
  | .peer peer pa mode _ _ _ =>
    if mode == 2 && s.dieWait (dieOf s.curCore) s.cu.part s.cu.asid va.toNat then .wait .remote s
    else .ok ⟨⟩ (s.peerStore va peer pa mode hold b).dropTiles
  | .shard h byte => (s.shardScalar h byte va b.length (some b)).bind fun _ s => .ok ⟨⟩ s.dropTiles
  | _ =>
    match s.writePhys s.uid s.curWriter s.keeper x va b with
    | .error t => .trap t s
    | .ok s => .ok ⟨⟩ s.dropTiles
/-- An access that traps or waits leaves the state as it was before it (R264, R286). -/
def Acc.orElseAt {α : Type} (x : Acc α) (s : State) : Acc α :=
  match x with
  | .ok a t => .ok a t
  | .trap t _ => .trap t s
  | .wait w _ => .wait w s
/-- An atomic on a checked target for the executing agent. -/
def State.atomicAt (s : State) (elem : Nat) (x : Phys) (va : Word) (n : Nat) (f : Nat → Option Nat) (op : PeerOp) : Acc Nat :=
  ((s.touchPage x).atomicPhys elem x va n f op).bind fun old s => .ok old s.dropTiles

/-! ### Views -/

/-- STYPE. -/
def vwSty (d : Desc) : Ty := (tyOf (dfld d 5 1)).getD .n8
/-- OTYPE. -/
def vwOty (d : Desc) : Ty := (tyOf (dfld d 6 1)).getD .n8
/-- Bytes of an element of OTYPE. -/
def vwSize (d : Desc) : Nat := tyWidth (vwOty d) / 8
/-- Where the bytes of source element (r, c) lie: address and length of the storage that holds it (R221-R224). -/
def vwSrc (d : Desc) (r c : Nat) : Word × Nat :=
  let row := toW (dfld d 40 8) + toW (r * dfld d 36 4)
  match vwSty d with
  | .i4 => (row + toW (c / 2), 1)
  | .i3 => (row + toW (3 * (c / 8)), 3)
  | .e8w16 => (row + toW (2 * (c / 8)), 2)
  | .e8w32 => (row + toW (4 * (c / 8)), 4)
  | t => let n := tyWidth t / 8; (row + toW (n * c), n)
/-- The address of the scale byte of source element (r, c); none where no scale is read. -/
def vwScale (d : Desc) (r c : Nat) : Option Word :=
  if vwDeq d && vwSty d != .e8w32 then some (toW (dfld d 56 8) + toW (r * dfld d 28 4) + toW (c / 32)) else none
/-- A value times a scale, rounded to bf16: +0 under a scale of 0x00, 0x7FC0 under 0xFF (R300). -/
def vwDeqVal (x : Int) (halves : Bool) (sb : Nat) : Nat :=
  if sb == 0 then 0
  else
    match zs8 sb with
    | .fin _ zm ze => (fround (fmtOf .bf16) .rne .none (decide (x < 0)) (x.natAbs * zm) 1 (if halves then ze - 1 else ze)).1
    | _ => 0x7FC0
/-- The bits of a view element from its source bytes and scale byte (R300). -/
def vwVal (d : Desc) (c : Nat) (b : List Byte) (sb : Nat) : Nat :=
  let v := leVal b
  if !vwDeq d then v
  else
    match vwSty d with
    | .i4 => vwDeqVal (sInt 4 (fld v (4 * (c % 2)) 4)) false sb
    | .i3 => vwDeqVal (sInt 3 (fld v (3 * (c % 8)) 3)) false sb
    | .e8w16 => vwDeqVal ((e8w16Dec v).getD (c % 8) 0) true sb
    | _ => vwDeqVal ((e8w32Dec v).getD (c % 8) 0) true (fld v 24 8)
/-- The bound view of a unit that holds `n` bytes from `a`. -/
def viewOf (u : Unit) (a n : Nat) : Option View :=
  u.views.findSome? (fun p => p.2.bind (fun v => if vwBase v.desc ≤ a && a + n ≤ vwBase v.desc + vwBytes v.desc then some v else none))
/-- The bytes of element (a, b) in a cached tile. -/
def View.cached (v : View) (a b : Nat) : Option (List Byte) :=
  (v.tiles.find? (fun t => t.1 == a / 32 && t.2.1 == b / 32)).map (fun t =>
    let n := vwSize v.desc
    (t.2.2.drop (n * (32 * (a % 32) + b % 32))).take n)

/-- Read bytes at an address with plain loads of the unit, page by page, from piece key `k`; `f` performs one checked load. -/
def State.plainPieces (s : State) (f : State → Nat → Word → Nat → Phys → Acc (List Byte)) (k : Nat) (va : Word) (n : Nat) : Acc (List Byte) :=
  ((chunks va n).foldl (fun (acc : Nat × Acc (List Byte)) p =>
    (acc.1 + 1, acc.2.bind fun l s =>
      (s.xlate s.xc .load true p.1 p.2 1).bind fun x s =>
        (f s (k + acc.1) p.1 p.2 x).bind fun b s => .ok (l ++ b) s)) (0, .ok [] s)).2
/-- The bytes of view element (a, b): zero beyond the view, a cached tile's, or read from the source (R300, R301). -/
def State.viewElem (s : State) (f : State → Nat → Word → Nat → Phys → Acc (List Byte)) (k : Nat) (v : View) (a b : Nat) : Acc (List Byte) :=
  let d := v.desc
  if vwRows d ≤ a || vwCols d ≤ b then .ok (leBytes (vwSize d) 0) s
  else
    match v.cached a b with
    | some l => .ok l s
    | none =>
      let (r, c) := if vwTrans d then (b, a) else (a, b)
      let src := vwSrc d r c
      (s.plainPieces f k src.1 src.2).bind fun l s =>
        match vwScale d r c with
        | none => .ok (leBytes (vwSize d) (vwVal d c l 0)) s
        | some sv => (s.plainPieces f (k + 4) sv 1).bind fun z s => .ok (leBytes (vwSize d) (vwVal d c l (leVal z))) s
/-- Read `n` bytes at `va` of a view, element by element. -/
def State.viewBytes (s : State) (f : State → Nat → Word → Nat → Phys → Acc (List Byte)) (elem : Nat) (v : View) (va n : Nat) : Acc (List Byte) :=
  let d := v.desc
  let z := vwSize d
  let off := va - vwBase d
  let lo := off / z
  let els := (List.range (ceilDiv (off % z + n) z)).map (fun j => (lo + j) * z)
  let all := (els.zip (List.range els.length)).foldl (fun acc p => acc.bind fun l s =>
    (s.viewElem f ((elem + 1) * 2 ^ 40 + 8 * p.2) v (p.1 / vwPitch d) (p.1 % vwPitch d / z)).bind fun b s => .ok (l ++ b) s) (Acc.ok [] s)
  all.bind fun l s => .ok ((l.drop (off % z)).take n) s
/-- A load of a checked target: served from a bound view of the unit where one covers the address (R301). A view whose source
lies in another view is followed through at most `fuel` views. -/
def State.loadThrough : Nat → State → Nat → Word → Nat → Phys → Acc (List Byte)
  | 0, s, elem, va, n, x => s.rawLoad elem va n x
  | fuel + 1, s, elem, va, n, x =>
    match viewOf s.cu va.toNat n with
    | some v => s.viewBytes (fun s => s.loadThrough fuel) elem v va.toNat n
    | none => s.rawLoad elem va n x
/-- Load `n` bytes of a checked target for element `elem` of the executing agent. -/
def State.loadAt (s : State) (elem : Nat) (va : Word) (n : Nat) (x : Phys) : Acc (List Byte) := s.loadThrough 8 elem va n x

/-- A load of `n` bytes of a descriptor at a 64-byte aligned address by the issuing reeve (R283, R441): plain loads. -/
def State.descRead (s : State) (va : Word) : Acc Desc :=
  match s.loadGate plainMem with
  | some w => w.bind fun _ s => .ok 0 s
  | none =>
  (s.xlate s.xc .load false va 64 64).bind fun x s =>
    ((s.migrateAll [(va, x)]).loadAt 0 va 64 x).bind fun l s => .ok (BitVec.ofNat 512 (leVal l)) s

end Sys2Proof.Machine
end

