-- ==== Sys2Proof/Machine/Scalar.lean ====
section
/-!
DEFINITION. Scalar loads, stores, atomics and fences (R354-R356, R207, R208).
-/
namespace Sys2Proof.Machine

/-- A load of `n` bytes at a virtual address: order, checks, access, and the acquire that follows (R354, R201, R61). -/
def State.loadVa (s : State) (va : Word) (n : Nat) (m : MemQ) : Acc (List Byte) :=
  match s.loadGate m with
  | some w => w.bind fun _ s => .ok [] s
  | none =>
    (s.xlate s.xc .load false va n n).bind fun x s =>
      ((s.migrateAll [(va, x)]).loadAt 0 va n x).bind fun b s =>
        .ok b (if m.ord = 1 ∨ m.ord = 3 then s.acquire m.scope.toNat else s)
/-- A store of bytes at a virtual address (R354, R65, R71). -/
def State.storeVa (s : State) (va : Word) (b : List Byte) (m : MemQ) : Acc PUnit :=
  match s.orderGate (m.ord = 2 || m.ord = 3) m true with
  | some w => w
  | none =>
    (s.xlate s.xc .store false va b.length b.length).bind fun x s =>
      (s.migrateAll [(va, x)]).storeAt va x (storeHold m) b

/-- LD (R354). -/
def execLd (t : Ty) (d a : Reg) (off : BitVec 20) (m : MemQ) (s : State) : Host.Outcome State Fault Refusal :=
  s.perform (encode (.ld t d a off m)) (opRuns 0x58) false [d, a] [a] fun s =>
    (s.loadVa (s.ea a off) (tyWidth t / 8) m).eff fun b s => .go (s.wr d (extTy t (leVal b)))
/-- ST (R354). -/
def execSt (t : Ty) (d a : Reg) (off : BitVec 20) (m : MemQ) (s : State) : Host.Outcome State Fault Refusal :=
  s.perform (encode (.st t d a off m)) (opRuns 0x59) false [d, a] [d, a] fun s =>
    (s.storeVa (s.ea a off) (leBytes (tyWidth t / 8) (s.rd d).toNat) m).eff fun _ s => .go s

/-- An atomic at a virtual address, of element `elem` (R355, R356): `f` gives the value stored, or none. -/
def State.atomicVa (s : State) (va : Word) (n : Nat) (m : MemQ) (f : Nat → Option Nat) (op : PeerOp) : Acc Nat :=
  match s.orderGate (m.ord = 2 || m.ord = 3) m false with
  | some w => w.bind fun _ s => .ok 0 s
  | none =>
    (s.xlate s.xc .atomic false va n n).bind fun x s =>
      ((s.migrateAll [(va, x)]).atomicAt 0 x va n f op).bind fun old s =>
        .ok old (if m.ord = 1 ∨ m.ord = 3 then s.acquire m.scope.toNat else s)

/-- AMO (R355): g[d] gives the operand and receives the old value; no flag is set. -/
def execAmo (op : AmoOp) (t : Ty) (d a : Reg) (off : BitVec 20) (m : MemQ) (s : State) : Host.Outcome State Fault Refusal :=
  s.perform (encode (.amo op t d a off m)) (opRuns 0x5A) false [d, a] [d, a] fun s =>
    let p := s.rdTy t d
    (s.atomicVa (s.ea a off) (tyWidth t / 8) m (fun old => some (amoNew op t old p)) (.amo op t (toW p))).eff fun old s =>
      .go (s.wr d (extTy t old))
/-- CAS (R356): stores g[b] when memory holds g[d], which receives the old value. -/
def execCas (t : Ty) (d a b : Reg) (off : BitVec 20) (m : MemQ) (s : State) : Host.Outcome State Fault Refusal :=
  s.perform (encode (.cas t d a b off m)) (opRuns 0x5B) false [d, a, b] [d, a, b] fun s =>
    let e := s.rdTy t d
    let v := s.rdTy t b
    (s.atomicVa (s.ea a off) (tyWidth t / 8) m (fun old => if old = e then some v else none) (.cas t (toW e) (toW v))).eff
      fun old s => .go (s.wr d (extTy t old))

/-- The fetch buffer is refilled from memory (R189). -/
def State.refill (s : State) : State :=
  match s.who with
  | .reeve _ => s.modRe (fun x => { x with fetchBuf := [] })
  | _ => s
/-- FENCE (R207, R206, R65, R71, R61): a sc fence follows every earlier `.sc` store; kinds full, rel and sc wait on acknowledgements; full, acq and sc discard cached lines. -/
def execFence (m : MemQ) (s : State) : Host.Outcome State Fault Refusal :=
  s.perform (encode (.fence m)) (opRuns 0x5C) false [] [] fun s =>
    if m.ord = 3 && s.ownStores.any (fun t => t.hold = 3) then .wait .fence s
    else
    match (if m.ord = 1 then none else s.ackGate (ackNeed m.scope.toNat m.ack)) with
    | some w => w.eff fun _ s => .go s
    | none => .go (if m.ord = 2 then s else s.acquire m.scope.toNat).refill

/-- FT_ILLEGAL (wrong context) on a word's own check (R155). -/
def wrongCtx (i : Instr) : TrapInfo := illegal 3 (encode i)
/-- VFENCE (R208, R165): an owned sheaf; every access here is performed in order, so nothing is left to wait for (log 8). -/
def execVfence (sr : Bool) (n : BitVec 3) (s : State) : Host.Outcome State Fault Refusal :=
  s.perform (encode (.vfence sr n)) (opRuns 0x5D) false [] [] fun s =>
    if s.cu.owns s.rIdx n.toNat then .go s else .trap (wrongCtx (.vfence sr n)) s

end Sys2Proof.Machine
end

