-- ==== Sys2Proof/Machine/Vector.lean ====
section
/-!
DEFINITION. Sheaf arithmetic (R376-R400, R403, R404) but for the E8 and selection instructions: the checks of R380, the
element-wise rule of R379, and one meaning for each instruction.
-/
namespace Sys2Proof.Machine

/-! ### The checks of R380 and the element-wise rule of R379 -/

/-- The registers a matrix entry names in a sheaf (R245): first register and count. -/
def MEntry.accSpan (e : MEntry) : Nat × Nat := (e.vd, if e.acc = 0 then 4 else 8)
/-- Does a group of `k` registers at `r` share a physical register with one of a matrix entry? -/
def touchesAcc (x : Sheaf) (e : MEntry) (r k : Nat) : Bool :=
  (List.range k).any (fun j => let p := vphys x (r + j); decide (e.accSpan.1 ≤ p) && decide (p < e.accSpan.1 + e.accSpan.2))
/-- The interlock of R164: an earlier matrix entry that names this sheaf names a register of one of the groups. -/
def State.accBusy (s : State) (spans : List (Reg × Nat × Nat)) : Bool :=
  match s.who with
  | .sheaf k =>
    let u := s.cu
    let x := s.sh
    u.mq.any (fun e => e.reeve == u.owner k && decide (e.seq < x.blockSeq) && decide (e.sn ≤ k) && decide (k ≤ e.sm) &&
      spans.any (fun p => touchesAcc x e p.1.toNat p.2.1))
  | _ => false

/-- The executing context's TYPE, GROUP and SEW. -/
def State.ty (s : State) : Ty := vtType s.sh.vt
def State.grp (s : State) : Nat := vtGroup s.sh.vt
def State.sew (s : State) : Nat := vtSew s.sh.vt
/-- Does a type field stand for TYPE (R377)? -/
def State.tyIs (s : State) (t : Ty) : Bool := t == .i8 || t == s.ty
/-- The class "any" of R377. -/
def tyAny (t : Ty) : Bool := !tyIsE8 t
/-- i4 and i3 act as i8, and zs8 as n8 (R377). -/
def opTy : Ty → Ty
  | .i4 => .i8
  | .i3 => .i8
  | .zs8 => .n8
  | t => t

/-- What R380 checks: the type rules, a reserved combination of types, the spans as (register, count, limit), the entry's
own trap, and a poisoned active source. -/
structure VChk where
  ok : Bool
  reserved : Bool
  spans : List (Reg × Nat × Nat)
  own : Option TrapInfo
  poison : Bool

/-- The mask registers that a word reads: its mask field, and the sources of VIOTA, MPOP, MFST, MLOG and VSTM; a dual word reads none (R330). -/
def maskRegs (w : Word) : List Nat :=
  if wTag w != 0 then [] else (wQ w).toNat % 8 :: (match wOp w with
    | 0xB6 | 0xB7 | 0xB8 => [(wA w).toNat]
    | 0xB9 => [(wA w).toNat, (wB w).toNat]
    | 0xCA => [(wD w).toNat]
    | _ => [])
/-- Does a word read a poisoned word of a mask register (R317)? -/
def State.maskBad (s : State) (w : Word) : Bool := !s.sh.mPoison.isEmpty && (maskRegs w).any (fun m => m != 0 && s.mPoisoned m s.sh.vl)
/-- A mask operation, or FT_MCHK REGFILE where a mask it reads is poisoned. -/
def State.maskGo (s : State) (i : Instr) (e : Eff) : Eff := if s.maskBad (encode i) then .trap (tr cMCHK 1 0) s else e
/-- The checks of R380 in their order, with the interlock of R164; none when all pass. -/
def State.vgate (s : State) (i : Instr) (c : VChk) : Option Eff :=
  if vtIlf s.sh.vt || !c.ok then some (.trap (tr cVTYPE 0 0) s)
  else if c.reserved then some (.trap (illegal 1 (encode i)) s)
  else if !c.spans.all (fun p => spanOk p.1 p.2.1 p.2.2) then some (.trap (tr cVTYPE 0 0) s)
  else
    match c.own with
    | some t => some (.trap t s)
    | none =>
      if s.accBusy c.spans then some (.wait .queue s)
      else if c.poison || s.maskBad (encode i) then some (.trap (tr cMCHK 1 0) s)
      else none
/-- The scalar register of a two-source instruction (R376). -/
def scalarRegs (x : V3) : List Reg := if x.sc then [x.b] else []
/-- Run a vector instruction: R333 with its scalar registers `regs`, then R380, then its effect. -/
def State.vec (s : State) (i : Instr) (op : Nat) (regs : List Reg) (c : State → VChk) (body : State → Eff) : Host.Outcome State Fault Refusal :=
  s.perform (encode i) (opRuns op) false regs [] fun s =>
    match s.vgate i (c s) with
    | some e => e
    | none => body s

/-- Results of the active elements below `%vl`, with their flags. -/
def ewList (vl : Nat) (act : Nat → Bool) (f : Nat → Nat × Word) : List (Option (Nat × Word)) :=
  (List.range vl).map (fun i => if act i then some (f i) else none)
/-- The flags of a list of results. -/
def ewFlags (l : List (Option (Nat × Word))) : Word := l.foldl (fun a r => match r with | some p => a ||| p.2 | none => a) 0
/-- The element-wise rule of R379: `f i` is the result and flags of element `i`, written at width `w` to the `k` registers at `d`. -/
def State.ew (s : State) (d : Reg) (k w : Nat) (act : Nat → Bool) (f : Nat → Nat × Word) : State :=
  let vl := s.sh.vl
  let tail := vtTail s.sh.vt
  let l := ewList vl act f
  let a := (l.map (fun r => r.map (·.1))).toArray
  (s.vput d.toNat k w (fun i => if i < vl then a.getD i none else if tail then some 0 else none)).flag (ewFlags l)
/-- Write a mask destination (R379): `f i` for an active element below `%vl`, 0 elsewhere. -/
def State.ewMask (s : State) (d : Reg) (act : Nat → Bool) (f : Nat → Bool × Word) : State :=
  let l := ewList s.sh.vl act (fun i => let r := f i; ((if r.1 then 1 else 0), r.2))
  (s.setMask d.toNat (packElems 1 (l.map (fun r => (r.map (·.1)).getD 0)))).flag (ewFlags l)

/-- Source B of a two-source instruction at width `w`: an element of the group, or the scalar (R376). -/
def State.srcB (s : State) (x : V3) (k w : Nat) : Nat → Nat :=
  if x.sc then let v := low w (s.rd x.b).toNat; fun _ => v
  else let n := s.vget x.b.toNat k; fun i => elemOf n w i
/-- The checks of a two-source instruction at one width; `useD` marks one that reads its destination. -/
def State.chk3 (s : State) (x : V3) (ok useD : Bool) : VChk :=
  let g := s.grp
  let w := s.sew
  let act := s.actives x.q
  { ok := ok
    reserved := false
    spans := [(x.d, g, 8), (x.a, g, 8)] ++ (if x.sc then [] else [(x.b, g, 8)])
    own := none
    poison := s.vPoisoned x.a.toNat w act || (useD && s.vPoisoned x.d.toNat w act) ||
      (if x.sc then !act.isEmpty && s.poisoned x.b else s.vPoisoned x.b.toNat w act) }
/-- The checks of a one-source instruction at one width. -/
def State.chk2 (s : State) (x : V2) (ok : Bool) : VChk :=
  let g := s.grp
  { ok := ok
    reserved := false
    spans := [(x.d, g, 8), (x.a, g, 8)]
    own := none
    poison := s.vPoisoned x.a.toNat s.sew (s.actives x.q) }

/-- An element-wise instruction of two sources: `f t D A B`. -/
def State.ew3 (s : State) (i : Instr) (op : Nat) (x : V3) (cls : Ty → Bool) (useD : Bool) (f : Ty → Nat → Nat → Nat → Nat × Word) :
    Host.Outcome State Fault Refusal :=
  s.vec i op (scalarRegs x) (fun s => s.chk3 x (s.tyIs x.ty && cls s.ty) useD) fun s =>
    let g := s.grp
    let w := s.sew
    let nd := s.vget x.d.toNat g
    let na := s.vget x.a.toNat g
    let b := s.srcB x g w
    .go (s.ew x.d g w (s.active x.q) (fun i => f s.ty (elemOf nd w i) (elemOf na w i) (b i)))
/-- An element-wise instruction of one source. -/
def State.ew2 (s : State) (i : Instr) (op : Nat) (x : V2) (cls : Ty → Bool) (f : Ty → Nat → Nat × Word) :
    Host.Outcome State Fault Refusal :=
  s.vec i op [] (fun s => s.chk2 x (s.tyIs x.ty && cls s.ty)) fun s =>
    let g := s.grp
    let w := s.sew
    let na := s.vget x.a.toNat g
    .go (s.ew x.d g w (s.active x.q) (fun i => f s.ty (elemOf na w i)))
/-- A compare into a mask (R388). -/
def State.ewCmp (s : State) (i : Instr) (op : Nat) (x : V3) (cls : Ty → Bool) (f : Ty → Nat → Nat → Bool × Word) :
    Host.Outcome State Fault Refusal :=
  s.vec i op (scalarRegs x) (fun s => { s.chk3 x (s.tyIs x.ty && cls s.ty) false with spans := (s.chk3 x true false).spans.drop 1 }) fun s =>
    let g := s.grp
    let w := s.sew
    let na := s.vget x.a.toNat g
    let b := s.srcB x g w
    .go (s.ewMask x.d (s.active x.q) (fun i => f s.ty (elemOf na w i) (b i)))

/-! ### Results of one element -/

/-- An integer result that sets no flag, wrapped to the type's width. -/
def iRes (t : Ty) (v : Int) : Nat × Word := (wrapInt (tyWidth t) v, 0)
/-- The value of an element under the type's signedness (R377). -/
def eVal (t : Ty) (n : Nat) : Int := intVal (opTy t) n
/-- The shift amount modulo the width (R234). -/
def eSh (t : Ty) (b : Nat) : Nat := b % tyWidth t
/-- Bits 2·SEW−1:SEW of a product by signedness. -/
def eMulh (t : Ty) (a b : Nat) : Int := (eVal t a * eVal t b) / ((2 ^ tyWidth t : Nat) : Int)
/-- A shifted right, copying the top bit for n types too. -/
def eSra (t : Ty) (a b : Nat) : Int := sInt (tyWidth t) a / ((2 ^ eSh t b : Nat) : Int)
/-- |A| for i types, A for n types. -/
def eAbs (t : Ty) (a : Nat) : Int := ((eVal t a).natAbs : Int)
/-- A saturated result (R384). -/
def eSat (t : Ty) (v : Int) : Nat × Word := let r := satInt (opTy t) v; (wrapInt (tyWidth t) r.1, fIf r.2 fSAT)
/-- Integer conditions of `vcmp`. -/
def vcondHolds (c : VCond) (a b : Int) : Bool :=
  match c with
  | .eq => decide (a = b)
  | .ne => decide (a ≠ b)
  | .lt => decide (a < b)
  | .le => decide (a ≤ b)
  | .gt => decide (b < a)
  | .ge => decide (b ≤ a)
/-- The class bit of R390. -/
def fclass (f : Fmt) (n : Nat) : Nat :=
  match fdec f n with
  | .nan true => 2 ^ 8
  | .nan false => 2 ^ 9
  | .inf true => 1
  | .inf false => 2 ^ 7
  | .fin neg m _ =>
    if m == 0 then (if neg then 2 ^ 3 else 2 ^ 4)
    else if m < 2 ^ f.mb then (if neg then 2 ^ 2 else 2 ^ 5)
    else (if neg then 2 else 2 ^ 6)

/-! ### Vector length and type (R382, R383) -/

/-- VSETVL (R382). -/
def execVsetvl (d a : Reg) (s : State) : Host.Outcome State Fault Refusal :=
  s.perform (encode (.vsetvl d a)) (opRuns 0x80) false [d, a] [] fun s =>
    if vtIlf s.sh.vt then .trap (tr cVTYPE 0 0) s
    else if s.poisoned a then .trap (tr cMCHK 1 0) s
    else
      let n := if (s.rd a).toNat ≤ s.vlmax then (s.rd a).toNat else s.vlmax
      .go ((s.modSh (fun x => { x with vl := n })).wr d (toW n))
/-- VSETT (R383): the image in the word or in a register; `%vl` is cut to the new VLMAX. -/
def execVsett (r : Bool) (a : Reg) (image : BitVec 20) (s : State) : Host.Outcome State Fault Refusal :=
  s.perform (encode (.vsett r a image)) (opRuns 0x81) false [a] (if r then [a] else []) fun s =>
    let vt := vtWrite (if r then s.rd a else zx64 image)
    let m := vlMax vt s.lanes
    .go (s.modSh (fun x => { x with vt := vt, vl := if x.vl ≤ m then x.vl else m }))

/-! ### Integer operations (R384) -/

/-- VADD (R384: A + B). -/
def execVadd (x : V3) (s : State) : Host.Outcome State Fault Refusal :=
  s.ew3 (.vadd x) 0x82 x tyIsInt false (fun t _ a b => iRes t (eVal t a + eVal t b))
/-- VSUB (R384: A − B). -/
def execVsub (x : V3) (s : State) : Host.Outcome State Fault Refusal :=
  s.ew3 (.vsub x) 0x83 x tyIsInt false (fun t _ a b => iRes t (eVal t a - eVal t b))
/-- VMUL (R384: the low half of A × B). -/
def execVmul (x : V3) (s : State) : Host.Outcome State Fault Refusal :=
  s.ew3 (.vmul x) 0x84 x tyIsInt false (fun t _ a b => iRes t (eVal t a * eVal t b))
/-- VMULH (R384: the high half of A × B). -/
def execVmulh (x : V3) (s : State) : Host.Outcome State Fault Refusal :=
  s.ew3 (.vmulh x) 0x85 x tyIsInt false (fun t _ a b => iRes t (eMulh t a b))
/-- VMAC (R384: D + A × B). -/
def execVmac (x : V3) (s : State) : Host.Outcome State Fault Refusal :=
  s.ew3 (.vmac x) 0x86 x tyIsInt true (fun t d a b => iRes t (eVal t d + eVal t a * eVal t b))
/-- VMIN (R384). -/
def execVmin (x : V3) (s : State) : Host.Outcome State Fault Refusal :=
  s.ew3 (.vmin x) 0x87 x tyIsInt false (fun t _ a b => (if eVal t b < eVal t a then b else a, 0))
/-- VMAX (R384). -/
def execVmax (x : V3) (s : State) : Host.Outcome State Fault Refusal :=
  s.ew3 (.vmax x) 0x88 x tyIsInt false (fun t _ a b => (if eVal t a < eVal t b then b else a, 0))
/-- VAND (R384). -/
def execVand (x : V3) (s : State) : Host.Outcome State Fault Refusal :=
  s.ew3 (.vand x) 0x89 x tyAny false (fun _ _ a b => (a &&& b, 0))
/-- VOR (R384). -/
def execVor (x : V3) (s : State) : Host.Outcome State Fault Refusal :=
  s.ew3 (.vor x) 0x8A x tyAny false (fun _ _ a b => (a ||| b, 0))
/-- VXOR (R384). -/
def execVxor (x : V3) (s : State) : Host.Outcome State Fault Refusal :=
  s.ew3 (.vxor x) 0x8B x tyAny false (fun _ _ a b => (a ^^^ b, 0))
/-- VSHL (R384). -/
def execVshl (x : V3) (s : State) : Host.Outcome State Fault Refusal :=
  s.ew3 (.vshl x) 0x8C x tyIsInt false (fun t _ a b => (low (tyWidth t) (a <<< eSh t b), 0))
/-- VSHR (R384: logical). -/
def execVshr (x : V3) (s : State) : Host.Outcome State Fault Refusal :=
  s.ew3 (.vshr x) 0x8D x tyIsInt false (fun t _ a b => (a >>> eSh t b, 0))
/-- VSRA (R384: copying the top bit). -/
def execVsra (x : V3) (s : State) : Host.Outcome State Fault Refusal :=
  s.ew3 (.vsra x) 0x8E x tyIsInt false (fun t _ a b => iRes t (eSra t a b))
/-- VABS (R384): |A| modulo 2^SEW. -/
def execVabs (x : V2) (s : State) : Host.Outcome State Fault Refusal :=
  s.ew2 (.vabs x) 0x8F x tyIsInt (fun t a => iRes t (eAbs t a))
/-- VSADD (R384): A + B or A − B, clamped. -/
def execVsadd (sub : Bool) (x : V3) (s : State) : Host.Outcome State Fault Refusal :=
  s.ew3 (.vsadd sub x) 0x90 x tyIsInt false (fun t _ a b => eSat t (if sub then eVal t a - eVal t b else eVal t a + eVal t b))
/-- VCMP (R388). -/
def execVcmp (c : VCond) (x : V3) (s : State) : Host.Outcome State Fault Refusal :=
  s.ewCmp (.vcmp c x) 0x91 x tyIsInt (fun t a b => (vcondHolds c (eVal t a) (eVal t b), 0))
/-- VSEL (R389): A where active, B elsewhere below `%vl`. -/
def execVsel (x : V3) (s : State) : Host.Outcome State Fault Refusal :=
  s.vec (.vsel x) 0x92 (scalarRegs x) (fun s =>
    let all := List.range s.sh.vl
    let off := all.filter (fun i => !s.sel x.q i)
    { s.chk3 x (tyAny s.ty) false with
      poison := s.vPoisoned x.a.toNat s.sew (s.actives x.q) ||
        (if x.sc then !off.isEmpty && s.poisoned x.b else s.vPoisoned x.b.toNat s.sew off) }) fun s =>
    let g := s.grp
    let w := s.sew
    let na := s.vget x.a.toNat g
    let b := s.srcB x g w
    .go (s.ew x.d g w (fun _ => true) (fun i => (if s.active x.q i then elemOf na w i else b i, 0)))
/-- VMV (R400): bits of A, or of the scalar. -/
def execVmv (x : V3) (s : State) : Host.Outcome State Fault Refusal :=
  s.vec (.vmv x) 0x95 (scalarRegs x) (fun s =>
    { ok := s.tyIs x.ty && tyAny s.ty
      reserved := false
      spans := [(x.d, s.grp, 8)] ++ (if x.sc then [] else [(x.a, s.grp, 8)])
      own := none
      poison := if x.sc then !(s.actives x.q).isEmpty && s.poisoned x.b else s.vPoisoned x.a.toNat s.sew (s.actives x.q) }) fun s =>
    let g := s.grp
    let w := s.sew
    let na := s.vget x.a.toNat g
    let v := low w (s.rd x.b).toNat
    .go (s.ew x.d g w (s.active x.q) (fun i => (if x.sc then v else elemOf na w i, 0)))

/-! ### Mixed-width multiplies (R387) -/

/-- The product of an element at TYPE and one at TYPE2, with or without the old destination. -/
def wideMul (t t2 : Ty) (acc : Bool) (d a b : Nat) : Nat × Word :=
  if tyIsInt t then iRes t ((if acc then eVal t d else 0) + eVal t a * eVal t2 b)
  else
    let f := fmtOf t
    let p := fmulV (fdec f a) (fdec (fmtOf t2) b)
    if acc then ffma f (fdec f a) (fdec (fmtOf t2) b) (fdec f d) else froundV f .rne .none p
/-- VWMUL and VWMAC: B at TYPE2 (R387). -/
def State.wide (s : State) (i : Instr) (op : Nat) (t2 : Ty) (x : V3) (acc : Bool) : Host.Outcome State Fault Refusal :=
  s.vec i op (scalarRegs x) (fun s =>
    let g := s.grp
    let w := s.sew
    let u := vtType2 s.sh.vt
    let act := s.actives x.q
    { ok := s.tyIs x.ty && (t2 == .i8 || t2 == u) && ((tyIsInt s.ty && tyIsInt u) || (tyIsFloat s.ty && tyIsFloat u))
      reserved := false
      spans := [(x.d, g, 8), (x.a, g, 8)] ++ (if x.sc then [] else [(x.b, spanOf g (tyWidth u) w, 8)])
      own := none
      poison := s.vPoisoned x.a.toNat w act || (acc && s.vPoisoned x.d.toNat w act) ||
         (if x.sc then !act.isEmpty && s.poisoned x.b else s.vPoisoned x.b.toNat (tyWidth u) act) }) fun s =>
    let g := s.grp
    let w := s.sew
    let u := vtType2 s.sh.vt
    let nd := s.vget x.d.toNat g
    let na := s.vget x.a.toNat g
    let b := s.srcB x (spanOf g (tyWidth u) w) (tyWidth u)
    .go (s.ew x.d g w (s.active x.q) (fun i => wideMul s.ty u acc (elemOf nd w i) (elemOf na w i) (b i)))
/-- VWMUL (R387). -/
def execVwmul (t2 : Ty) (x : V3) (s : State) : Host.Outcome State Fault Refusal := s.wide (.vwmul t2 x) 0x93 t2 x false
/-- VWMAC (R387). -/
def execVwmac (t2 : Ty) (x : V3) (s : State) : Host.Outcome State Fault Refusal := s.wide (.vwmac t2 x) 0x94 t2 x true

/-! ### Floating point (R385, R386, R388, R390) -/

/-- VFADD (R385). -/
def execVfadd (x : V3) (s : State) : Host.Outcome State Fault Refusal :=
  s.ew3 (.vfadd x) 0x98 x tyIsFloat false (fun t _ a b => fadd (fmtOf t) a b)
/-- VFSUB (R385). -/
def execVfsub (x : V3) (s : State) : Host.Outcome State Fault Refusal :=
  s.ew3 (.vfsub x) 0x99 x tyIsFloat false (fun t _ a b => fsub (fmtOf t) a b)
/-- VFMUL (R385). -/
def execVfmul (x : V3) (s : State) : Host.Outcome State Fault Refusal :=
  s.ew3 (.vfmul x) 0x9A x tyIsFloat false (fun t _ a b => fmul (fmtOf t) a b)
/-- VFMA (R385): A × B + C with one rounding; C is named by c. -/
def execVfma (x : V3) (c : Reg) (s : State) : Host.Outcome State Fault Refusal :=
  s.vec (.vfma x c) 0x9B (scalarRegs x) (fun s =>
    let k := s.chk3 x (s.tyIs x.ty && tyIsFloat s.ty) false
    { k with
      spans := k.spans ++ [(c, s.grp, 8)]
      poison := k.poison || s.vPoisoned c.toNat s.sew (s.actives x.q) }) fun s =>
    let g := s.grp
    let w := s.sew
    let f := fmtOf s.ty
    let na := s.vget x.a.toNat g
    let nc := s.vget c.toNat g
    let b := s.srcB x g w
    .go (s.ew x.d g w (s.active x.q) (fun i => ffma f (fdec f (elemOf na w i)) (fdec f (b i)) (fdec f (elemOf nc w i))))
/-- VFMIN (R385, R233). -/
def execVfmin (x : V3) (s : State) : Host.Outcome State Fault Refusal :=
  s.ew3 (.vfmin x) 0x9C x tyIsFloat false (fun t _ a b => fminmax (fmtOf t) false a b)
/-- VFMAX (R385, R233). -/
def execVfmax (x : V3) (s : State) : Host.Outcome State Fault Refusal :=
  s.ew3 (.vfmax x) 0x9D x tyIsFloat false (fun t _ a b => fminmax (fmtOf t) true a b)
/-- VFDIV (R385). -/
def execVfdiv (x : V3) (s : State) : Host.Outcome State Fault Refusal :=
  s.ew3 (.vfdiv x) 0x9E x tyIsFloat false (fun t _ a b => fdiv (fmtOf t) a b)
/-- VFSQRT (R385, R386): √A, correctly rounded. -/
def execVfsqrt (x : V2) (s : State) : Host.Outcome State Fault Refusal :=
  s.ew2 (.vfsqrt x) 0x9F x tyIsFloat (fun t a => fsqrt (fmtOf t) a)
/-- VFRSQ (R385, R386): 1/√A, correctly rounded. -/
def execVfrsq (x : V2) (s : State) : Host.Outcome State Fault Refusal :=
  s.ew2 (.vfrsq x) 0xA0 x tyIsFloat (fun t a => frsqrt (fmtOf t) a)
/-- VFEXP2 (R385, R386): 2^A, correctly rounded. -/
def execVfexp2 (x : V2) (s : State) : Host.Outcome State Fault Refusal :=
  s.ew2 (.vfexp2 x) 0xA1 x tyIsFloat (fun t a => fexp2 (fmtOf t) a)
/-- VFLOG2 (R385, R386): log2 A, correctly rounded. -/
def execVflog2 (x : V2) (s : State) : Host.Outcome State Fault Refusal :=
  s.ew2 (.vflog2 x) 0xA2 x tyIsFloat (fun t a => flog2 (fmtOf t) a)
/-- VFCMP (R388, R349). -/
def execVfcmp (c : FCond) (x : V3) (s : State) : Host.Outcome State Fault Refusal :=
  s.ewCmp (.vfcmp c x) 0xA3 x tyIsFloat (fun t a b => fcompare (fmtOf t) c a b)
/-- VFCLS (R390). -/
def execVfcls (x : V2) (s : State) : Host.Outcome State Fault Refusal :=
  s.ew2 (.vfcls x) 0xA4 x tyIsFloat (fun t a => (fclass (fmtOf t) a, 0))

/-! ### Conversions and packing (R392, R393) -/

/-- VCVT (R392). With a type field of 0 the two types are judged together once TYPE is known (log 17). -/
def execVcvt (td : Ty) (rm : Rm) (ov : Ovf) (x : V2) (s : State) : Host.Outcome State Fault Refusal :=
  s.vec (.vcvt td rm ov x) 0xA8 [] (fun s =>
    let ts := s.ty
    { ok := s.tyIs x.ty && (tyIsPlainInt ts || tyIsFloat ts || ts == .e4m3 || ts == .e5m2 || ts == .i4 || ts == .i3)
      reserved := tyIsInt td && tyIsInt ts
      spans := [(x.d, spanOf s.grp (tyWidth td) s.sew, 8), (x.a, s.grp, 8)]
      own := none
      poison := s.vPoisoned x.a.toNat s.sew (s.actives x.q) }) fun s =>
    let na := s.vget x.a.toNat s.grp
    let w := s.sew
    .go (s.ew x.d (spanOf s.grp (tyWidth td) w) (tyWidth td) (s.active x.q) (fun i => fconvert td s.ty rm ov (elemOf na w i)))

/-- The packed width of an integer type (R221). -/
def packW : Ty → Nat
  | .i3 => 3
  | .i4 => 4
  | t => tyWidth t
/-- VPACK (R393): saturated elements in the dense image; the last byte or 3-byte group is filled with 0. -/
def execVpack (tn : Ty) (x : V2) (s : State) : Host.Outcome State Fault Refusal :=
  s.vec (.vpack tn x) 0xAE [] (fun s =>
    { ok := s.tyIs x.ty && tyIsInt s.ty
      reserved := decide (s.sew ≤ packW tn)
      spans := [(x.d, spanOf s.grp (packW tn) s.sew, 8), (x.a, s.grp, 8)]
      own := none
      poison := s.vPoisoned x.a.toNat s.sew (List.range s.sh.vl) }) fun s =>
    let w := s.sew
    let wn := packW tn
    let vl := s.sh.vl
    let na := s.vget x.a.toNat s.grp
    let l := (List.range vl).map (fun i => satInt tn (eVal s.ty (elemOf na w i)))
    let img := packElems wn (l.map (fun r => wrapInt wn r.1))
    let nb := if wn == 3 then 3 * ceilDiv vl 8 else ceilDiv (vl * wn) 8
    .go ((s.vput x.d.toNat (spanOf s.grp wn w) 8 (fun j =>
      if j < nb then some (fld img (8 * j) 8) else if vtTail s.sh.vt then some 0 else none)).flag (fIf (l.any (·.2)) fSAT))
/-- VUNPK (R393). -/
def execVunpk (tn : Ty) (x : V2) (s : State) : Host.Outcome State Fault Refusal :=
  s.vec (.vunpk tn x) 0xAF [] (fun s =>
    let wn := packW tn
    { ok := s.tyIs x.ty && tyIsInt s.ty
      reserved := decide (s.sew ≤ wn)
      spans := [(x.d, s.grp, 8), (x.a, spanOf s.grp wn s.sew, 8)]
      own := none
      poison := s.vPoisoned x.a.toNat 8 (((s.actives x.q).map (fun i => [i * wn / 8, (i * wn + wn - 1) / 8])).flatten) }) fun s =>
    let wn := packW tn
    let na := s.vget x.a.toNat (spanOf s.grp wn s.sew)
    .go (s.ew x.d s.grp s.sew (s.active x.q) (fun i =>
      let n := elemOf na wn i
      (if tySigned tn then wrapInt s.sew (sInt wn n) else n, 0)))

/-! ### Block quantisation (R394, R395, R240) -/

/-- The greatest magnitude of a list of values: a NaN if any is one, then an infinity (R240). -/
def amaxOf : List FVal → FVal
  | [] => .fin false 0 0
  | x :: t =>
    match x, amaxOf t with
    | .nan g, _ => .nan g
    | _, .nan g => .nan g
    | .inf _, _ => .inf false
    | _, .inf _ => .inf false
    | .fin _ m e, .fin n m' e' => if fcmp3 (.fin false m e) (.fin false m' e') < 0 then .fin n m' e' else .fin false m e
/-- qmax of a quantiser as a fraction (R240): i4, i3, e4m3, e8w16. -/
def qmaxOf (tq : Nat) : Nat × Nat :=
  match tq with
  | 0 => (7, 1)
  | 1 => (3, 1)
  | 2 => (448, 1)
  | _ => (3, 2)
/-- RoundNE(x / z) clamped, for a positive scale m · 2^e (R240 step 5): value bits at width 8, SAT for a clamp, NX when inexact;
e4m3 is converted as with `.sat` and keeps that conversion's flags (R228, R229). -/
def quantElem (tq : Nat) (x : FVal) (zm : Nat) (ze : Int) : Nat × Word :=
  match x with
  | .nan _ => (0, 0)
  | .inf n =>
    if tq == 2 then let r := finf (fmtOf .e4m3) .sat n; (r.1, r.2 ||| fSAT)
    else (wrapInt 8 (if n then (intRange (if tq == 0 then .i4 else .i3)).1 else (intRange (if tq == 0 then .i4 else .i3)).2), fSAT)
  | .fin n m e =>
    if tq == 2 then
      let r := fround (fmtOf .e4m3) .rne .sat n m zm (e - ze)
      (r.1, if r.2 &&& fOF = 0 then r.2 else r.2 ||| fSAT)
    else
      let (q, inex) := roundQ .rne n m zm (e - ze)
      let r := satInt (if tq == 0 then .i4 else .i3) (if n then -(q : Int) else q)
      (wrapInt 8 r.1, fIf r.2 fSAT ||| fIf inex fNX)
/-- One group of R240: the scale byte with its flags, and the value of an element under it. -/
def quantGroup (tq : Nat) (xs : List FVal) : Nat × Word :=
  let q := qmaxOf tq
  zs8Choose (amaxOf xs) q.1 q.2
/-- An element under a chosen scale byte: 0 under a zero or NaN scale. -/
def quantUnder (tq sb : Nat) (x : FVal) : Nat × Word :=
  match zs8 sb with
  | .fin _ zm ze => if zm == 0 then (0, 0) else quantElem tq x zm ze
  | _ => (0, 0)
/-- VBQ (R394, R240). -/
def execVbq (tq : BitVec 2) (sc : Reg) (x : V2) (s : State) : Host.Outcome State Fault Refusal :=
  s.vec (.vbq tq sc x) 0xA9 [] (fun s =>
    { ok := s.tyIs x.ty && shortFloat s.ty
      reserved := false
      spans := (if tq = 3 then [] else [(x.d, spanOf s.grp 8 s.sew, 8)]) ++ [(x.a, s.grp, 8), (sc, 1, 8)]
      own := none
      poison := s.vPoisoned x.a.toNat s.sew (s.actives x.q) }) fun s =>
    let w := s.sew
    let vl := s.sh.vl
    let na := s.vget x.a.toNat s.grp
    let v (i : Nat) : FVal := fdec (fmtOf s.ty) (elemOf na w i)
    let act := s.active x.q
    let groups := (List.range (ceilDiv vl 32)).map (fun j =>
      quantGroup tq.toNat (((List.range 32).map (fun i => 32 * j + i)).filter act |>.map v))
    let ga := groups.toArray
    let els := ewList vl act (fun i => quantUnder tq.toNat (ga.getD (i / 32) (0, 0)).1 (v i))
    let ea := els.toArray
    let fl := groups.foldl (fun a r => a ||| r.2) 0 ||| (if tq = 3 then 0 else ewFlags els)
    let s1 := if tq = 3 then s
      else s.vput x.d.toNat (spanOf s.grp 8 w) 8 (fun i => if i < vl then (ea.getD i none).map (·.1) else none)
    .go ((s1.vput sc.toNat 1 8 (fun j => if j < ceilDiv vl 32 then some (ga.getD j (0, 0)).1 else none)).flag fl)
/-- One dequantised element (R395). -/
def dequant (t : Ty) (tq a sb : Nat) : Nat × Word :=
  let f := fmtOf t
  let q : FVal := match tq with
    | 0 => let v := sInt 4 a; .fin (decide (v < 0)) v.natAbs 0
    | 1 => let v := sInt 3 a; .fin (decide (v < 0)) v.natAbs 0
    | _ => fdec (fmtOf .e4m3) a
  match zs8 sb, q with
  | .nan _, _ => (fmtNaN f, 0)
  | _, .nan _ => (fmtNaN f, 0)
  | .fin _ zm ze, .fin n m e => if zm == 0 then (0, 0) else fround f .rne .none n (m * zm) 1 (e + ze)
  | _, _ => (fmtNaN f, 0)
/-- VBDQ (R395). -/
def execVbdq (tq : BitVec 2) (sc : Reg) (x : V2) (s : State) : Host.Outcome State Fault Refusal :=
  s.vec (.vbdq tq sc x) 0xAA [] (fun s =>
    let k := spanOf s.grp 8 s.sew
    let act := s.actives x.q
    { ok := s.tyIs x.ty && shortFloat s.ty
      reserved := false
      spans := [(x.d, s.grp, 8), (x.a, k, 8), (sc, 1, 8)]
      own := none
      poison := s.vPoisoned x.a.toNat 8 act || s.vPoisoned sc.toNat 8 (act.map (· / 32)) }) fun s =>
    let na := s.vget x.a.toNat (spanOf s.grp 8 s.sew)
    let ns := s.vget sc.toNat 1
    .go (s.ew x.d s.grp s.sew (s.active x.q) (fun i => dequant s.ty tq.toNat (elemOf na 8 i) (elemOf ns 8 (i / 32))))

/-! ### Reductions (R399, R235, R231) -/

/-- One level of the pairwise tree of R235: adjacent nodes added, absent ones passed over. -/
def treeLevel (add : Nat → Nat → Nat × Word) : List (Option Nat) → List (Option Nat) × Word
  | [] => ([], 0)
  | [x] => ([x], 0)
  | x :: y :: t =>
    let r := treeLevel add t
    match x, y with
    | some a, some b => let p := add a b; (some p.1 :: r.1, p.2 ||| r.2)
    | none, y => (y :: r.1, r.2)
    | x, none => (x :: r.1, r.2)
/-- The tree over 2^n nodes. -/
def treeSum (add : Nat → Nat → Nat × Word) : Nat → List (Option Nat) → Option Nat × Word
  | 0, l => (l.head?.getD none, 0)
  | n + 1, l =>
    let p := treeLevel add l
    let r := treeSum add n p.1
    (r.1, p.2 ||| r.2)
/-- The least n with 2^n at least m. -/
def clog2 (m : Nat) : Nat := ((List.range 17).find? (fun n => decide (m ≤ 2 ^ n))).getD 17
/-- The payload of R231 over a list of (index, value), or none where the NaN rule gives none. -/
def nanPayload (l : List (Nat × FVal)) : Option Nat :=
  match l.find? (fun p => isNaN p.2) with
  | some p => some p.1
  | none =>
    let inf (n : Bool) := l.any (fun p => p.2 == .inf n)
    if inf true && inf false then (l.find? (fun p => p.2 == .inf true || p.2 == .inf false)).map (·.1) else none
/-- The summing type of R235. -/
def sumTy : Ty → Ty
  | .f16 => .f32
  | .bf16 => .f32
  | t => opTy t
/-- The sum of R235 with its flags. -/
def vsum (t : Ty) (l : List (Option Nat)) : Nat × Word :=
  let n := clog2 (if l.length == 0 then 1 else l.length)
  if tyIsInt t then
    ((treeSum (fun a b => (low (tyWidth t) (a + b), 0)) n l).1.getD 0, 0)
  else
    let f := fmtOf (sumTy t)
    let vals := ((List.range l.length).zip l).filterMap (fun p => p.2.map (fun v => (p.1, fdec (fmtOf t) v)))
    let conv := l.map (fun o => o.map (fun v => froundV f .rne .none (fdec (fmtOf t) v)))
    let r := treeSum (fadd f) n (conv.map (fun o => o.map (·.1)))
    let fl := r.2 ||| ewFlags conv ||| fIf (vals.any (fun p => p.2 == .inf true) && vals.any (fun p => p.2 == .inf false)) fNV
    let v := r.1.getD 0
    (match nanPayload vals with
      | some p => fmtNaNP f p
      | none => v, fl)
/-- The greatest or least of R399. -/
def vext (t : Ty) (mx : Bool) (l : List (Option Nat)) : Nat × Word :=
  let vs := l.filterMap id
  if tyIsInt t then
    match vs with
    | [] => (wrapInt (tyWidth t) (if mx then (intRange (opTy t)).1 else (intRange (opTy t)).2), 0)
    | v :: r => (r.foldl (fun a b => if mx then (if eVal t a < eVal t b then b else a) else (if eVal t b < eVal t a then b else a)) v, 0)
  else
    let f := fmtOf t
    let fl := fIf (vs.any (fun v => isSig (fdec f v))) fNV
    match ((List.range l.length).zip l).find? (fun p => match p.2 with | some v => isNaN (fdec f v) | none => false) with
    | some p => (fmtNaNP f p.1, fl)
    | none =>
      match vs with
      | [] => (fmtSign f mx + fmtInfBits f, 0)
      | v :: r => (r.foldl (fun a b => if mx then fmaxB f a b else fminB f a b) v, fl)
/-- A reduction into element 0 of one register (R399). -/
def State.reduce (s : State) (i : Instr) (op : Nat) (x : V2) (wide : Bool) (f : Ty → List (Option Nat) → Nat × Word) :
    Host.Outcome State Fault Refusal :=
  s.vec i op [] (fun s =>
    { s.chk2 x (s.tyIs x.ty && (tyIsInt s.ty || tyIsFloat s.ty)) with spans := [(x.d, 1, 8), (x.a, s.grp, 8)] }) fun s =>
    let w := s.sew
    let na := s.vget x.a.toNat s.grp
    let r := f s.ty ((List.range s.sh.vl).map (fun i => if s.active x.q i then some (elemOf na w i) else none))
    .go ((s.vput x.d.toNat 1 (if wide then tyWidth (sumTy s.ty) else w) (fun i => if i == 0 then some r.1 else none)).flag r.2)
/-- VRSUM (R399, R235). -/
def execVrsum (x : V2) (s : State) : Host.Outcome State Fault Refusal := s.reduce (.vrsum x) 0xB0 x true vsum
/-- VRMAX (R399). -/
def execVrmax (x : V2) (s : State) : Host.Outcome State Fault Refusal := s.reduce (.vrmax x) 0xB1 x false (fun t l => vext t true l)
/-- VRMIN (R399). -/
def execVrmin (x : V2) (s : State) : Host.Outcome State Fault Refusal := s.reduce (.vrmin x) 0xB2 x false (fun t l => vext t false l)

/-! ### Moves and permutes (R400) -/

/-- A move whose active element `i` takes `f A i`, or is left where that is none. -/
def State.moveEl (s : State) (x : V2) (f : (Nat → Nat) → Nat → Option Nat) : State :=
  let w := s.sew
  let vl := s.sh.vl
  let na := s.vget x.a.toNat s.grp
  let tail := vtTail s.sh.vt
  s.vput x.d.toNat s.grp w (fun i =>
    if i < vl then (if s.active x.q i then f (elemOf na w) i else none) else if tail then some 0 else none)
/-- The slide amount (R400). -/
def State.slideAmt (s : State) (i : Bool) (imm : BitVec 14) (b : Reg) : Nat := if i then imm.toNat else (s.rd b).toNat
/-- The checks of a slide that reads elements `els` of A. -/
def State.chkSlide (s : State) (i : Bool) (b : Reg) (x : V2) (els : List Nat) : VChk :=
  { s.chk2 x (s.tyIs x.ty && tyAny s.ty) with
    poison := (!i && !(s.actives x.q).isEmpty && s.poisoned b) || s.vPoisoned x.a.toNat s.sew els }
/-- VSLDU (R400): A at i − s, for i at least s. -/
def execVsldu (i : Bool) (imm : BitVec 14) (b : Reg) (x : V2) (s : State) : Host.Outcome State Fault Refusal :=
  s.vec (.vsldu i imm b x) 0xB3 [] (fun s =>
    let n := s.slideAmt i imm b
    s.chkSlide i b x ((s.actives x.q).filterMap (fun j => if n ≤ j then some (j - n) else none))) fun s =>
    let n := s.slideAmt i imm b
    .go (s.moveEl x (fun a j => if n ≤ j then some (a (j - n)) else none))
/-- VSLDD (R400): A at i + s, or 0 from `%vl` on. -/
def execVsldd (i : Bool) (imm : BitVec 14) (b : Reg) (x : V2) (s : State) : Host.Outcome State Fault Refusal :=
  s.vec (.vsldd i imm b x) 0xB4 [] (fun s =>
    let n := s.slideAmt i imm b
    s.chkSlide i b x ((s.actives x.q).filterMap (fun j => if j + n < s.sh.vl then some (j + n) else none))) fun s =>
    let n := s.slideAmt i imm b
    .go (s.moveEl x (fun a j => some (if j + n < s.sh.vl then a (j + n) else 0)))
/-- VPRM (R400): A at the index that element i of B holds, or 0. -/
def execVprm (b : Reg) (x : V2) (s : State) : Host.Outcome State Fault Refusal :=
  s.vec (.vprm b x) 0xB5 [] (fun s =>
    let nb := s.vget b.toNat s.grp
    let act := s.actives x.q
    let c := s.chk2 x (s.tyIs x.ty && tyAny s.ty)
    { c with
      spans := c.spans ++ [(b, s.grp, 8)]
      poison := s.vPoisoned b.toNat s.sew act ||
        s.vPoisoned x.a.toNat s.sew ((act.map (elemOf nb s.sew)).filter (fun p => decide (p < s.sh.vl))) }) fun s =>
    let w := s.sew
    let nb := s.vget b.toNat s.grp
    .go (s.moveEl x (fun a j => let p := elemOf nb w j; some (if p < s.sh.vl then a p else 0)))

/-! ### Masks (R391) -/

/-- VIOTA (R391): the number of set bits of mA below element i. -/
def execViota (x : V2) (s : State) : Host.Outcome State Fault Refusal :=
  s.vec (.viota x) 0xB6 [] (fun s =>
    { ok := s.tyIs x.ty && tyIsInt s.ty, reserved := false, spans := [(x.d, s.grp, 8)], own := none, poison := false }) fun s =>
    let m := s.mask x.a.toNat
    .go (s.ew x.d s.grp s.sew (s.active x.q) (fun i => (low s.sew (popGo m i), 0)))
/-- The elements a mask count sees (R391). -/
def State.maskBits (s : State) (a : Reg) (q : BitVec 4) : List Nat := (s.actives q).filter (fun i => (s.mask a.toNat).testBit i)
/-- MPOP (R391). -/
def execMpop (d a : Reg) (q : BitVec 4) (s : State) : Host.Outcome State Fault Refusal :=
  s.perform (encode (.mpop d a q)) (opRuns 0xB7) false [d] [] fun s =>
    s.maskGo (.mpop d a q) (.go (s.wr d (toW (s.maskBits a q).length)))
/-- MFST (R391). -/
def execMfst (d a : Reg) (q : BitVec 4) (s : State) : Host.Outcome State Fault Refusal :=
  s.perform (encode (.mfst d a q)) (opRuns 0xB8) false [d] [] fun s =>
    s.maskGo (.mfst d a q) (.go (s.wr d (match (s.maskBits a q).head? with
      | some i => toW i
      | none => -1)))
/-- op of MLOG (R391). -/
def mlogOp (op : BitVec 3) (a b : Bool) : Bool :=
  match op.toNat with
  | 0 => a && b
  | 1 => a || b
  | 2 => a != b
  | 3 => a && !b
  | 4 => !(a && b)
  | 5 => !(a || b)
  | 6 => a == b
  | _ => !a
/-- MLOG (R391). -/
def execMlog (op : BitVec 3) (d a b : Reg) (s : State) : Host.Outcome State Fault Refusal :=
  s.perform (encode (.mlog op d a b)) (opRuns 0xB9) false [] [] fun s =>
    let ma := s.mask a.toNat
    let mb := s.mask b.toNat
    s.maskGo (.mlog op d a b) (.go (s.setMask d.toNat (packElems 1 ((List.range s.sh.vl).map (fun i =>
      if mlogOp op (ma.testBit i) (mb.testBit i) then 1 else 0)))))

/-! ### Sorting and search (R403, R404) -/

/-- The order key of R403: every NaN above +Inf. -/
def sortKey (t : Ty) (n : Nat) : Int :=
  if tyIsInt t then eVal t n else if isNaN (fdec (fmtOf t) n) then ((2 ^ 70 : Nat) : Int) else fkey (fmtOf t) n
/-- Stable insertion by key. -/
def insertKey (desc : Bool) (x : Int × Nat × Nat) : List (Int × Nat × Nat) → List (Int × Nat × Nat)
  | [] => [x]
  | y :: t => if (if desc then decide (y.1 ≤ x.1) else decide (x.1 ≤ y.1)) then x :: y :: t else y :: insertKey desc x t
/-- Stable sort by key, ascending or descending. -/
def sortByKey (desc : Bool) : List (Int × Nat × Nat) → List (Int × Nat × Nat)
  | [] => []
  | x :: t => insertKey desc x (sortByKey desc t)
/-- VSORT (R403), with the original indices when vC is named. -/
def execVsort (desc idx : Bool) (c : Reg) (x : V2) (s : State) : Host.Outcome State Fault Refusal :=
  s.vec (.vsort desc idx c x) 0xBE [] (fun s =>
    let k := s.chk2 x (s.tyIs x.ty && (tyIsInt s.ty || tyIsFloat s.ty))
    { k with spans := k.spans ++ (if idx then [(c, spanOf s.grp 32 s.sew, 8)] else []) }) fun s =>
    let w := s.sew
    let vl := s.sh.vl
    let na := s.vget x.a.toNat s.grp
    let l := (sortByKey desc ((s.actives x.q).map (fun i => (sortKey s.ty (elemOf na w i), elemOf na w i, i)))).toArray
    let tail := vtTail s.sh.vt
    let put (f : Int × Nat × Nat → Nat) (i : Nat) : Option Nat :=
      if i < vl then (l[i]?).map f else if tail then some 0 else none
    let s1 := s.vput x.d.toNat s.grp w (put (fun p => p.2.1))
    .go (if idx then s1.vput c.toNat (spanOf s.grp 32 w) 32 (put (fun p => p.2.2)) else s1)
/-- VSRCH (R404): how many elements of A lie below each query. -/
def execVsrch (le : Bool) (b : Reg) (x : V2) (s : State) : Host.Outcome State Fault Refusal :=
  s.vec (.vsrch le b x) 0xBF [] (fun s =>
    { ok := s.tyIs x.ty && (tyIsInt s.ty || tyIsFloat s.ty)
      reserved := false
      spans := [(x.d, spanOf s.grp 32 s.sew, 8), (x.a, s.grp, 8), (b, s.grp, 8)]
      own := none
      poison := s.vPoisoned b.toNat s.sew (s.actives x.q) ||
         (!(s.actives x.q).isEmpty && s.vPoisoned x.a.toNat s.sew (List.range s.sh.vl)) }) fun s =>
    let w := s.sew
    let na := s.vget x.a.toNat s.grp
    let nb := s.vget b.toNat s.grp
    let keys := (List.range s.sh.vl).map (fun j => sortKey s.ty (elemOf na w j))
    .go (s.ew x.d (spanOf s.grp 32 w) 32 (s.active x.q) (fun i =>
      let k := sortKey s.ty (elemOf nb w i)
      ((keys.filter (fun j => if le then decide (j ≤ k) else decide (j < k))).length, 0)))

end Sys2Proof.Machine
end

