-- ==== Sys2Proof/Machine/Loops.lean ====
section
/-!
DEFINITION. Zero-overhead loops (R417-R423), replies, the end of a block and sheaf barriers (R424-R426).
-/
namespace Sys2Proof.Machine

/-- The word of `vend` (R425). -/
def vendWord : Word := 0x3540000000000000
/-- The address of the running block's `vend`. -/
def vendAddr (x : Sheaf) : Nat := x.blockAddr.toNat + 8 * ((x.block.findIdx? (· == vendWord)).getD x.block.length)
/-- FT_LOOP (R420). -/
def loopTrap (sub : Nat) : TrapInfo := tr cLOOP sub 0
/-- The checks ACTIVE and NEST of R420 around a RANGE check, in their order. -/
def loopCheck (x : Sheaf) (lp : Nat) (stop : Word) (range : Bool) : Option TrapInfo :=
  let o := x.loopReg (1 - lp)
  if (x.loopReg lp).count ≠ 0 then some (loopTrap 1)
  else if range || decide (vendAddr x < stop.toNat) then some (loopTrap 2)
  else if (o.count ≠ 0 && (lp == 0 || decide (o.stop.toNat < stop.toNat))) || slpV x then some (loopTrap 3)
  else none
/-- A loop word completes with `t`, and `next` follows it; a landing that is no multiple of 8 traps on the word itself (R323). -/
def State.loopGo (s t : State) (next : Word) : Eff :=
  let a := (sheafNext t.sh next).pc
  if a.toNat % 8 ≠ 0 then .trap (tr cALIGN 0 a) s else .jump t next
/-- END of a loop word (R417). -/
def State.loopEnd (s : State) (off : BitVec 9) : Word := s.pc + toW (8 * off.toNat)
/-- LOOP (R417, R420). The count is read after the checks. -/
def execLoop (lp : BitVec 1) (i : Bool) (a : Reg) (imm : BitVec 16) (off : BitVec 9) (s : State) : Host.Outcome State Fault Refusal :=
  s.perform (encode (.loop lp i a imm off)) (opRuns 0xD0) false (if i then [] else [a]) [] fun s =>
    let stop := s.loopEnd off
    match loopCheck s.sh lp.toNat stop false with
    | some t => .trap t s
    | none =>
      if !i && s.poisoned a then .trap (tr cMCHK 1 0) s
      else
      let c := if i then zx64 imm else s.rd a
      let s1 := s.modSh (fun x => x.setLoop lp.toNat ⟨s.pc + 8, stop, c⟩)
      s.loopGo s1 (if c = 0 then stop else s.pc + 8)

/-- The stage boundaries byte `j` of the word that b names (R421). -/
def stageByte (v : Word) (j : Nat) : Nat := fld v.toNat (8 * j) 8
/-- The RANGE checks of an SLOOP (R420): body length, boundaries, and W. -/
def sloopRange (v : Word) (S w step off : Nat) : Bool :=
  decide (256 < off) || (List.range (S - 1)).any (fun j => decide (off - 1 < stageByte v j) || (j != 0 && decide (stageByte v j < stageByte v (j - 1)))) ||
  decide (32 < w) || w % step != 0
/-- SLP of a new SLOOP (R422). -/
def slpOf (lp S : Nat) (v : Word) : Word := toW (2 ^ 63 + lp * 2 ^ 62 + (S - 1) * 2 ^ 56 + v.toNat % 2 ^ (8 * (S - 1)))
/-- SLOOP (R421, R420). -/
def execSloop (lp : BitVec 1) (a b : Reg) (sm : BitVec 3) (w : BitVec 6) (off : BitVec 9) (s : State) : Host.Outcome State Fault Refusal :=
  s.perform (encode (.sloop lp a b sm w off)) (opRuns 0xD1) false [a, b] [] fun s =>
    let S := sm.toNat + 1
    let v := s.rd b
    let stop := s.loopEnd off
    let g := fld s.sh.vt.toNat 3 3
    if vtIlf s.sh.vt || tyIsE8 (vtType s.sh.vt) then .trap (tr cVTYPE 0 0) s
    else if s.poisoned b then .trap (tr cMCHK 1 0) s
    else
      match loopCheck s.sh lp.toNat stop (sloopRange v S w.toNat (2 ^ g) off.toNat) with
      | some t => .trap t s
      | none =>
        if s.poisoned a then .trap (tr cMCHK 1 0) s
        else
        let n := (s.rd a).toNat
        if n = 0 then s.loopGo (s.modSh (fun x => x.setLoop lp.toNat ⟨s.pc + 8, stop, 0⟩)) stop
        else
          s.loopGo (s.modSh (fun x =>
            { x.setLoop lp.toNat ⟨s.pc + 8, stop, toW (if n + S - 1 < 2 ^ 64 then n + S - 1 else 2 ^ 64 - 1)⟩ with
              slp := slpOf lp.toNat S v
              rrb := toW (w.toNat * 2 ^ 8 + g * 2 ^ 16)
              stg := 1 })) (s.pc + 8)
/-- The sheaf after a taken break of loop `lp` (R419). -/
def loopBreak (x : Sheaf) (lp : Nat) : Sheaf :=
  let y := x.setLoop lp { x.loopReg lp with count := 0 }
  let y := if lp == 0 then y.setLoop 1 { y.loopReg 1 with count := 0 } else y
  if slpV x && (slpLp x == lp || lp == 0) then sloopExit y else y
/-- LPBRK (R419). -/
def execLpbrk (lp : BitVec 1) (u : Bool) (a : Reg) (s : State) : Host.Outcome State Fault Refusal :=
  s.perform (encode (.lpbrk lp u a)) (opRuns 0xD2) false (if u then [] else [a]) (if u then [] else [a]) fun s =>
    if u || s.rd a != 0 then
      let l := s.sh.loopReg lp.toNat
      if l.count = 0 then .trap (loopTrap 4) s else s.loopGo (s.modSh (fun x => loopBreak x lp.toNat)) l.stop
    else s.loopGo s (s.pc + 8)

/-- VRPT (R424, R162): 16 entries. -/
def execVrpt (a : Reg) (s : State) : Host.Outcome State Fault Refusal :=
  s.perform (encode (.vrpt a)) (opRuns 0xD4) false [a] [a] fun s =>
    if 16 ≤ s.sh.replies.length then .wait .vrpt s else .go ((s.modSh (fun x => { x with replies := x.replies ++ [s.rd a] })).wake s.uid s.rIdx)
/-- A sheaf whose block has ended (R425). -/
def sheafIdle (x : Sheaf) : Sheaf :=
  { sloopExit ((x.setLoop 0 { x.loopReg 0 with count := 0 }).setLoop 1 { x.loopReg 1 with count := 0 }) with
    busy := false
    block := []
    wait := none }
/-- VEND (R425). -/
def execVend (s : State) : Host.Outcome State Fault Refusal :=
  s.perform (encode .vend) (opRuns 0xD5) false [] [] fun s => .stay ((s.modSh sheafIdle).wake s.uid s.rIdx)

/-- A VBARS mask that names a sheaf of n or more, or leaves out the issuing one (R426). -/
def vbarsBad (u : Unit) (k : Nat) (m : BitVec 8) : Bool := decide (2 ^ u.nSheaves ≤ m.toNat) || !m.toNat.testBit k
/-- VBARS (R426): the first performance is the arrival; then it waits for its episode. -/
def execVbars (m : BitVec 8) (s : State) : Host.Outcome State Fault Refusal :=
  let i : Instr := .vbars m
  s.perform (encode i) (opRuns 0xD6) false [] [] fun s =>
    match s.who with
    | .sheaf k =>
      if vbarsBad s.cu k m then .trap (illegal 3 (encode i)) s
      else
        match s.sh.vbarsAt with
        | some (_, 0) => .go (s.modSh (fun x => { x with vbarsAt := none }))
        | some _ => .wait .vbars s
        | none =>
          let n := KMap.get 0 s.sh.arrivals m.toNat + 1
          .wait .vbars (s.modSh (fun x => { x with arrivals := KMap.set 0 x.arrivals m.toNat n, vbarsAt := some (m.toNat, n) }))
    | _ => .go s

end Sys2Proof.Machine
end

