-- ==== Sys2Proof/Machine/Sync.lean ====
section
/-!
DEFINITION. Timeline counters (R357-R360), sheaf dispatch and the lane partition (R361-R364, R158-R163), barriers, events
and yielding (R365-R367).
-/
namespace Sys2Proof.Machine

/-! ### Timeline counters -/

/-- The amount g[a] + imm24 modulo 2^64 of TLWAIT and TLADV. -/
def State.tlAmount (s : State) (a : Reg) (imm : BitVec 24) : Word := s.rd a + zx64 imm
/-- A failed plan of the unit that advances counter `n` (R84). -/
def State.planFailed (s : State) (n : Nat) : Option Plan :=
  s.plans.find? (fun p => p.uid == s.uid && p.failed.isSome && fld (dfld p.desc 13 1) 0 4 == n)
/-- The acquire of a TLWAIT for `n` units (R358, R211): it discards fabric-cache lines when a wide advance supplied any of them. -/
def State.tlAcquire (s : State) (c : Nat) (n : Word) : State :=
  match KMap.get Option.none s.cu.tlWide c with
  | some v => if v < n.toNat then s.acquire 4 else s
  | none => s

/-- TLWAIT (R358). -/
def execTlwait (a : Reg) (n : BitVec 4) (imm : BitVec 24) (s : State) : Host.Outcome State Fault Refusal :=
  s.perform (encode (.tlwait a n imm)) (opRuns 0x60) false [a] [a] fun s =>
    let k := s.tlAmount a imm
    if k ≤ KMap.get 0 s.cu.tl n.toNat then .go (s.tlAcquire n.toNat k)
    else
      match s.planFailed n.toNat with
      | some p => .trap (tr cPLAN ((p.failed.getD 0).toNat) (toW p.handle)) s
      | none => .wait .tlwait s
/-- TLRD (R359). -/
def execTlrd (d : Reg) (n : BitVec 4) (s : State) : Host.Outcome State Fault Refusal :=
  s.perform (encode (.tlrd d n)) (opRuns 0x61) false [d] [] fun s => .go (s.wr d (KMap.get 0 s.cu.tl n.toNat))
/-- TLADV (R360): a release at its scope, then one indivisible advance. -/
def execTladv (a : Reg) (n : BitVec 4) (imm : BitVec 24) (scope : BitVec 3) (s : State) : Host.Outcome State Fault Refusal :=
  s.perform (encode (.tladv a n imm scope)) (opRuns 0x62) false [a] [a] fun s =>
    match s.ackGate (ackNeed scope.toNat 0) with
    | some w => w.eff fun _ s => .go s
    | none => .go (s.advance s.uid n.toNat (s.tlAmount a imm).toNat (decide (4 ≤ scope.toNat)))

/-! ### Dispatch -/

/-- Is the unit's other reeve waiting at an LPART (R158 step 3)? -/
def State.lpartHeld (s : State) : Bool :=
  let o := 1 - s.rIdx
  decide (o < s.cu.rv) && (s.cu.reeveOf o).wait == some .lpart
/-- Registers `b` to `b + n - 1`. -/
def regRange (b : Reg) (n : Nat) : List Reg := (List.range n).map (fun i => b + BitVec.ofNat 6 i)
/-- An idle sheaf with an empty dispatch queue (R163). -/
def Sheaf.idle (x : Sheaf) : Bool := !x.busy && x.queue.isEmpty

/-- VBLK (R361, R362, R159). -/
def execVblk (a b : Reg) (k : BitVec 3) (n : BitVec 4) (s : State) : Host.Outcome State Fault Refusal :=
  let args := regRange b n.toNat
  s.perform (encode (.vblk a b k n)) (opRuns 0x63) false (a :: args) [] fun s =>
    let k := k.toNat
    if !s.cu.owns s.rIdx k then .trap (wrongCtx (.vblk a b (BitVec.ofNat 3 k) n)) s
    else if s.poisoned a then .trap (tr cMCHK 1 0) s
    else if (s.rd a).toNat % 8 ≠ 0 then .trap (tr cALIGN 0 (s.rd a)) s
    else if args.any s.poisoned then .trap (tr cMCHK 1 0) s
    else if s.lpartHeld || decide (4 ≤ (s.cu.sheafOf k).queue.length) then .wait .queue s
    else
      let e : DispatchEntry := ⟨s.rd a, args.map s.rd, s.cu.issue⟩
      .go (s.modCu (fun u => { u.modSheaf k (fun x => { x with queue := x.queue ++ [e] }) with issue := u.issue + 1 }))
/-- VRPL (R363, R162): pop the oldest reply. -/
def execVrpl (d : Reg) (k : BitVec 3) (s : State) : Host.Outcome State Fault Refusal :=
  s.perform (encode (.vrpl d k)) (opRuns 0x64) false [d] [] fun s =>
    if !s.cu.owns s.rIdx k.toNat then .trap (wrongCtx (.vrpl d k)) s
    else
      match (s.cu.sheafOf k.toNat).replies with
      | [] => .wait (.vrpl k.toNat) s
      | v :: t => .go ((s.modCu (fun u => u.modSheaf k.toNat (fun x => { x with replies := t }))).wr d v)
/-- VJOIN (R363, R163). -/
def execVjoin (k : BitVec 3) (s : State) : Host.Outcome State Fault Refusal :=
  s.perform (encode (.vjoin k)) (opRuns 0x65) false [] [] fun s =>
    if !s.cu.owns s.rIdx k.toNat then .trap (wrongCtx (.vjoin k)) s
    else if (s.cu.sheafOf k.toNat).idle then .go s
    else .wait (.vjoin k.toNat) s

/-- A sheaf after LPART (R158 step 5): registers zero, `%vl` 0, `%vt` ill-formed, no reply and no VBARS count left (R426). -/
def lpartSheaf (x : Sheaf) : Sheaf := { Sheaf.reset with vfx := x.vfx, vstrt := x.vstrt, rrb := x.rrb, stg := x.stg, slp := x.slp }
/-- May an LPART be performed (R158, R364)? -/
def Unit.lpartReady (u : Unit) : Bool := (List.range 8).all (fun k => (u.sheafOf k).idle) && u.mq.isEmpty
/-- LPART (R158, R364). -/
def execLpart (n : BitVec 2) (s : State) : Host.Outcome State Fault Refusal :=
  s.perform (encode (.lpart n)) (opRuns 0x66) false [] [] fun s =>
    if s.cu.lpartReady then
      .go (s.modCu (fun u => { u with
        lpart := lpartOf n.toNat u.rv
        sheaves := (List.range 8).foldl (fun m k => KMap.upd Sheaf.reset m k lpartSheaf) u.sheaves }))
    else .wait .lpart s

/-! ### Barriers, events, yielding -/

/-- The number of the last completed episode of the unit's pass; the initial keeper task is alone, so each of its arrivals
completes at once (R365). -/
def State.episode (s : State) (u : Unit) : Option Nat := (s.passOf u).map (·.episode)
/-- BAR (R365, R213): the first performance is the arrival; then it waits for its episode. -/
def State.doBar (s : State) (i : Instr) (r : Runs) (sealing : Bool) : Host.Outcome State Fault Refusal :=
  s.perform (encode i) r false [] [] fun s =>
    let u := s.cu
    match s.who with
    | .reeve ri =>
      match s.re.barAt with
      | none =>
        if (s.episode u).isNone then .go (s.acquire 3)
        else
          .wait .bar (s.modCu (fun u => u.modReeve ri (fun x =>
            { x with arrivals := x.arrivals + 1, barAt := some (x.arrivals + 1), barSealed := sealing })))
      | some k =>
        if k ≤ (s.episode u).getD k then
          .go ((s.modCu (fun u => u.modReeve ri (fun x => { x with barAt := none, barSealed := false }))).acquire 3)
        else .wait .bar s
    | .sheaf k =>
      match s.sh.arrived with
      | none =>
        if (s.episode u).isNone then .go (s.acquire 3)
        else
          let n := s.re.arrivals + 1
          .wait .bar (s.modCu (fun u => (u.modReeve (u.owner k) (fun x => { x with arrivals := n })).modSheaf k
            (fun x => { x with arrived := some n })))
      | some n =>
        if n ≤ (s.episode u).getD n then .go ((s.modSh (fun x => { x with arrived := none })).acquire 3)
        else .wait .bar s
    | .wain _ => .go s
/-- BAR (R365). -/
def execBar (s : State) : Host.Outcome State Fault Refusal := s.doBar .bar (opRuns 0x67) false
/-- BAR with SEAL, on a reeve only (R365). -/
def execBarSeal (s : State) : Host.Outcome State Fault Refusal := s.doBar .barSeal ⟨true, false, false⟩ true

/-- WFE (R366): continue when the event latch is set or the limit has passed, and clear the latch; else wait. -/
def execWfe (a : Reg) (s : State) : Host.Outcome State Fault Refusal :=
  s.perform (encode (.wfe a)) (opRuns 0x68) false [a] [a] fun s =>
    if s.re.latch || s.re.wfeLeft == some 0 then .go (s.modRe (fun x => { x with latch := false, wfeLeft := none }))
    else if s.re.wfeLeft.isNone && s.rd a != 0 then .wait .wfe (s.modRe (fun x => { x with wfeLeft := some (s.rd a).toNat }))
    else .wait .wfe s
/-- YIELD (R367): in task mode the unit gives up its turn when another unit on the core is ready. -/
def execYield (s : State) : Host.Outcome State Fault Refusal :=
  s.perform (encode .yield) (opRuns 0x69) false [] [] fun s =>
    if s.keeper || (s.readyOn s.cu.core).isEmpty then .go s else .stay (s.retire.endTurn s.cu.core)

end Sys2Proof.Machine
end

