-- ==== Sys2Proof/Machine/VecMem.lean ====
section
/-!
DEFINITION. Vector memory (R405-R416): the accesses of an instruction's elements, loads that are fault-only-first (R188, R408),
stores and atomics that restart from `%vstrt` (R409, R316), consuming loads (R411), sharded forms (R412) and the mask, compress,
expand and element moves.
-/
namespace Sys2Proof.Machine

/-! ### Accesses (R406, R407) -/

/-- One access: its lowest active element, its number (element, storage unit or point), address, bytes and alignment. -/
structure VAcc where
  el : Nat
  key : Nat
  va : Word
  n : Nat
  al : Nat
/-- Elements in one access, its bytes and its alignment. -/
def accShape (t : Ty) : Nat × Nat × Nat :=
  match t with
  | .i4 => (2, 1, 1)
  | .i3 => (8, 3, 1)
  | .e8w16 => (8, 2, 2)
  | .e8w32 => (8, 4, 4)
  | _ => (1, tyWidth t / 8, tyWidth t / 8)
/-- Types whose accesses hold one element each. -/
def tySingle (t : Ty) : Bool := (accShape t).1 == 1
/-- The accesses of the active elements from `lo` on, with access `k` at `addr k`. -/
def State.vaccs (s : State) (q : BitVec 4) (t : Ty) (lo : Nat) (addr : Nat → Word) : List VAcc :=
  let (per, n, al) := accShape t
  (List.range (ceilDiv s.sh.vl per)).filterMap (fun k =>
    let els := if tyIsE8 t then [8 * k] else (List.range per).map (fun j => per * k + j)
    (els.find? (fun i => decide (lo ≤ i) && s.active q i)).map (fun i => ⟨i, k, addr k, n, al⟩))
/-- Does a load or store of element-wise forms accept this type? -/
def indexTy (t : Ty) : Bool := tyIsPlainInt t
/-- The address base h[a] + SignExt(offset). -/
def State.vbase (s : State) (a : Reg) (off : BitVec 20) : Word := s.rd a + sx64 off
/-- Addresses of a unit-stride form. -/
def unitAddr (b : Word) (t : Ty) (k : Nat) : Word := b + toW (k * (accShape t).2.1)
/-- Index `i` of the group at `b`, by TYPE2. -/
def State.vindex (s : State) (b : Reg) : Nat → Word :=
  let t2 := vtType2 s.sh.vt
  let n := s.vget b.toNat (spanOf s.grp (tyWidth t2) s.sew)
  fun i => extTy t2 (elemOf n (tyWidth t2) i)
/-- The checks of a memory form whose data type is accepted when `ok`; `idx` names an index group read at a width. -/
def State.chkMem (s : State) (x : V2) (ok : Bool) (idx : Option (Reg × Nat)) (scalars : List Reg) (data : Bool) : VChk :=
  let act := s.actives x.q
  { ok := s.tyIs x.ty && ok
    reserved := false
    spans := [(x.d, s.grp, 8)] ++ (match idx with | some (b, w) => [(b, spanOf s.grp w s.sew, 8)] | none => [])
    own := none
    poison := (!act.isEmpty && scalars.any s.poisoned) || (match idx with | some (b, w) => s.vPoisoned b.toNat w act | none => false) ||
      (data && s.vPoisoned x.d.toNat s.sew (if tyIsE8 s.ty then (act.map (· / 8)).eraseDups else act)) }

/-! ### Translation of every access -/

/-- Translate a list of accesses in order: those that pass, with their pieces, and the first that fails. -/
def State.vxlate (s : State) (k : Kind) : List VAcc → List (VAcc × List (Word × Nat × Phys)) × Option (VAcc × TrapInfo) × State
  | [] => ([], none, s)
  | x :: t =>
    let pieces : Acc (List (Word × Nat × Phys)) :=
      (chunks x.va x.n).foldl (fun acc p => acc.bind fun l s =>
        (s.xlate s.xc k true p.1 p.2 (if p.1 == x.va then x.al else 1)).bind fun ph s => .ok (l ++ linePieces (p.1, p.2, ph)) s) (.ok [] s)
    match pieces with
    | .ok l s =>
      let r := s.vxlate k t
      ((x, l) :: r.1, r.2)
    | .trap e s => ([], some (x, e), s)
    | .wait _ s => ([], none, s)
/-- The pieces of a list of translated accesses, for the migration counters. -/
def vpieces (l : List (VAcc × List (Word × Nat × Phys))) : List (Word × Phys) := l.flatMap (fun a => a.2.map (fun p => (p.1, p.2.2)))

/-! ### Loads -/

/-- An element's outcome: bytes, a trap, or not known yet. -/
inductive VRes where
  | got (b : List Byte)
  | bad (t : TrapInfo)
  | pend

/-- The elements of a list that go through type-7 pages, one list of (key, linear index) for each handle (R183). -/
def shardItems (l : List (VAcc × List (Word × Nat × Phys))) (h n : Nat) : List (Nat × Nat × List Byte) :=
  l.filterMap (fun a => match a.2 with
    | [(_, m, .shard h' byte)] => if h' == h && m == n && byte % n == 0 then some (a.1.key, byte / n, []) else none
    | _ => none)
/-- Issue or look up the sharded elements of a load: outcomes by key. -/
def State.vshards (s : State) (l : List (VAcc × List (Word × Nat × Phys))) : List (Nat × VRes) × State :=
  let hs := (l.filterMap (fun a => match a.2 with | [(_, _, .shard h _)] => some h | _ => none)).eraseDups
  let va (k : Nat) : Word := ((l.find? (fun a => a.1.key == k)).map (fun a => a.1.va)).getD 0
  hs.foldl (fun acc h =>
    let s := acc.2.cacheDir acc.2.cu.part acc.2.cu.asid
    let keys := l.filterMap (fun a => match a.2 with | [(_, _, .shard h' _)] => if h' == h then some a.1.key else none | _ => none)
    match s.shDesc s.cu.part s.cu.asid h with
    | none => (acc.1 ++ keys.map (fun k => (k, .bad (tr cSHARD 3 (va k)))), s)
    | some d =>
      if !sdValid d then (acc.1 ++ keys.map (fun k => (k, .bad (tr cSHARD 3 (va k)))), s)
      else
        let items := shardItems l h (sdSize d)
        let wrong := keys.filter (fun k => !items.any (fun it => it.1 == k))
        let out := acc.1 ++ wrong.map (fun k => (k, VRes.bad (tr cALIGN 0 (va k))))
        if items.isEmpty then (out, s)
        else
          match s.shardAccess h d false va items with
          | .ok r s => (out ++ r.map (fun p => (p.1, match p.2 with | .ok b => VRes.got b | .error t => .bad t)), s)
          | .trap t s => (out ++ items.map (fun it => (it.1, .bad t)), s)
          | .wait _ s => (out ++ items.map (fun it => (it.1, VRes.pend)), s)) ([], s)
/-- Read one access: the pieces of element key `k`, piece number from `c`. -/
def State.vreadPieces (s : State) (k : Nat) : Nat → List (Word × Nat × Phys) → VRes × State
  | _, [] => (.got [], s)
  | c, (va, n, ph) :: t =>
    match s.loadAt (k + c * 2 ^ 20) va n ph with
    | .trap e s => (.bad e, s)
    | .wait _ s => let r := s.vreadPieces k (c + 1) t; ((match r.1 with | .bad e => .bad e | _ => .pend), r.2)
    | .ok b s =>
      let r := s.vreadPieces k (c + 1) t
      ((match r.1 with | .got l => .got (b ++ l) | z => z), r.2)
/-- Read every access in order, up to the first that fails: outcomes in order, newest last. -/
def State.vread (s : State) (sh : List (Nat × VRes)) : List (VAcc × List (Word × Nat × Phys)) → List (VAcc × VRes) × State
  | [] => ([], s)
  | (a, ps) :: t =>
    let r : VRes × State := match ps with
      | [(_, _, .shard _ _)] => (((sh.find? (fun p => p.1 == a.key)).map (·.2)).getD .pend, s)
      | _ => s.vreadPieces a.key 0 ps
    match r.1 with
    | .bad e => ([(a, .bad e)], r.2)
    | v => let q := r.2.vread sh t; ((a, v) :: q.1, q.2)

/-- The value of element `i` in the bytes of its access (R221, R223). -/
def vloadVal (t : Ty) (b : List Byte) (i : Nat) : Nat :=
  match t with
  | .i4 => wrapInt 8 (sInt 4 (fld (leVal b) (4 * (i % 2)) 4))
  | .i3 => wrapInt 8 (sInt 3 (fld (leVal b) (3 * (i % 8)) 3))
  | _ => leVal b
/-- Write the register of a load (R408): `n` bounds the elements, `tail` says whether the tail rule applies. -/
def State.vloadPut (s : State) (x : V2) (got : List (Nat × List Byte)) (n : Nat) (tail : Bool) : State :=
  let t := s.ty
  let vl := s.sh.vl
  let per := (accShape t).1
  let tl := tail && vtTail s.sh.vt
  let a : Array (Option (List Byte)) := got.foldl (fun a p => a.setIfInBounds p.1 (some p.2)) (Array.replicate (ceilDiv vl per) none)
  let look (k : Nat) : Option (List Byte) := a.getD k none
  if tyIsE8 t then
    let cut := ceilDiv vl 8
    let vals := ((List.range cut).map (fun j => if 8 * j < n && s.sel x.q (8 * j) then (look j).map leVal else none)).toArray
    s.vput x.d.toNat s.grp s.sew (fun j => if j < cut then vals.getD j none else if tl then some 0 else none)
  else
    let vals := ((List.range vl).map (fun i =>
      if i < n && s.active x.q i then (look (i / per)).map (fun b => vloadVal t b i) else none)).toArray
    s.vput x.d.toNat s.grp s.sew (fun i => if i < vl then vals.getD i none else if tl then some 0 else none)
/-- Bytes of the outcomes that came. -/
def vgot (l : List (VAcc × VRes)) : List (Nat × List Byte) :=
  l.filterMap (fun p => match p.2 with | .got b => some (p.1.key, b) | _ => none)
/-- The end of a load: fault-only-first, and the acquire of its order (R188, R408, R410). -/
def State.vloadEnd (s : State) (x : V2) (m : MemQ) (l : List (VAcc × VRes)) (fail : Option (VAcc × TrapInfo)) (first : Option Nat) : Eff :=
  let bad := (l.findSome? (fun p => match p.2 with | .bad e => some (p.1, e) | _ => none)).orElse (fun _ => fail)
  let acq (s : State) : State := if m.ord = 1 ∨ m.ord = 3 then s.acquire m.scope.toNat else s
  match bad with
  | some (a, e) =>
    if first == some a.el then .trap e s
    else .go (acq ((s.vloadPut x (vgot l) a.el false).modSh (fun y => { y with vl := a.el })))
  | none => .go (acq (s.vloadPut x (vgot l) s.sh.vl true))
/-- A non-consuming vector load of a list of accesses (R408). -/
def State.vload (s : State) (x : V2) (accs : List VAcc) (m : MemQ) : Eff :=
  match s.loadGate m with
  | some w => w.eff fun _ s => .go s
  | none =>
    let r := s.vxlate .load accs
    let s1 := r.2.2.migrateAll (vpieces r.1)
    let q := s1.vshards r.1
    let o := q.2.vread q.1 r.1
    if o.1.any (fun p => match p.2 with | .pend => true | _ => false) then .wait .remote o.2
    else o.2.vloadEnd x m o.1 r.2.1 (accs.head?.map (·.el))

/-- VLD (R405-R408). -/
def execVld (x : V2) (off : BitVec 20) (m : MemQ) (s : State) : Host.Outcome State Fault Refusal :=
  let i : Instr := .vld x off m
  s.perform (encode i) (opRuns 0xC0) false [x.a] [] fun s =>
    match s.vgate i (s.chkMem x true none [x.a] false) with
    | some e => e
    | none => s.vload x (s.vaccs x.q s.ty 0 (unitAddr (s.vbase x.a off) s.ty)) m
/-- VLDS (R405-R408). -/
def execVlds (b : Reg) (x : V2) (off : BitVec 20) (m : MemQ) (s : State) : Host.Outcome State Fault Refusal :=
  let i : Instr := .vlds b x off m
  s.perform (encode i) (opRuns 0xC1) false [x.a, b] [] fun s =>
    match s.vgate i (s.chkMem x (tySingle s.ty) none [x.a, b] false) with
    | some e => e
    | none => s.vload x (s.vaccs x.q s.ty 0 (fun k => s.vbase x.a off + toW k * s.rd b)) m
/-- VLDX (R405-R408). -/
def execVldx (b : Reg) (x : V2) (m : MemQ) (s : State) : Host.Outcome State Fault Refusal :=
  let i : Instr := .vldx b x m
  s.perform (encode i) (opRuns 0xC2) false [x.a] [] fun s =>
    match s.vgate i (s.chkMem x (tySingle s.ty && indexTy (vtType2 s.sh.vt)) (some (b, tyWidth (vtType2 s.sh.vt))) [x.a] false) with
    | some e => e
    | none => let ix := s.vindex b; s.vload x (s.vaccs x.q s.ty 0 (fun k => s.rd x.a + ix k)) m

/-! ### Consuming loads (R411, R168, R169) -/

/-- Bytes from the head of a stream buffer, wrapping in the ring. -/
def State.streamRead (s : State) (uid : Nat) (b : Stream) (n : Nat) : List Byte :=
  (List.range n).flatMap (fun j => s.loftRead uid (b.off + (b.head + j) % b.size) 1)
/-- Consume `n` bytes of buffer number `k`. -/
def Unit.consume (u : Unit) (k n : Nat) : Unit :=
  { u with
    streams := (List.range u.streams.length).zip u.streams |>.map (fun p =>
      if p.1 == k then { p.2 with head := (p.2.head + n) % p.2.size, fill := p.2.fill - n } else p.2) }
/-- VLD with C = 1 (R411). -/
def execVldC (x : V2) (off : BitVec 20) (s : State) : Host.Outcome State Fault Refusal :=
  let i : Instr := .vldC x off
  s.perform (encode i) (opRuns 0xC0) false [x.a] [] fun s =>
    match s.vgate i (s.chkMem x (s.ty != .i4 && s.ty != .i3) none [x.a] false) with
    | some e => e
    | none =>
      match s.loadGate plainMem with
      | some w => w.eff fun _ s => .go s
      | none =>
      let va := s.vbase x.a off
      (s.xlate s.xc .load true va 1 1).eff fun ph s =>
        let marked := match s.leafFor s.xc va with
          | some (some l) => pteStream l.pte
          | _ => false
        let k := match ph with
          | .loft u o => if u == s.uid && marked then s.cu.streamAt o else none
          | _ => none
        match k with
        | none => .trap (tr cSTREAM 0 va) s
        | some k =>
          let b := (s.cu.streams[k]?).getD ⟨0, 1, 0, 0, 0⟩
          let (per, n, _) := accShape s.ty
          let cnt := ceilDiv s.sh.vl per
          let nb := cnt * n
          if b.size < nb then .trap (tr cSTREAM 0 va) s
          else if b.fill < nb then .wait .stream s
          else if (List.range nb).any (fun j => s.loftBad s.uid (b.off + (b.head + j) % b.size) 1) then .trap (tr cMCHK 2 va) s
          else
            let bytes := s.streamRead s.uid b nb
            let got := (List.range cnt).map (fun j => (j, (bytes.drop (j * n)).take n))
            .go ((s.vloadPut x got s.sh.vl true).modCu (fun u => u.consume k nb))

/-! ### Stores -/

/-- START of `%vstrt` (R316). -/
def State.start (s : State) : Nat := fld s.sh.vstrt.toNat 0 17
/-- Set START. -/
def State.setStart (s : State) (n : Nat) : State := s.modSh (fun x => { x with vstrt := toW n })
/-- A vector store's trap at element `f` (R409, R314): START and INFO0, where the cause does not take INFO0 for itself. -/
def State.storeTrap (s : State) (f : Nat) (t : TrapInfo) : Eff :=
  .trap (if t.code = BitVec.ofNat 8 cMCHK ∧ t.sub = 4 then t else { t with info0 := toW f }) (s.setStart f)
/-- Store the pieces of one access: all of them, or none where one traps or waits (R216). -/
def State.vwritePieces (s : State) (hold : BitVec 2) (ps : List (Word × Nat × Phys)) (b : List Byte) : Acc PUnit :=
  let r := (ps.foldl (fun (acc : List Byte × Acc PUnit) p =>
    (acc.1.drop p.2.1, acc.2.bind fun _ s => s.storeAt p.1 p.2.2 hold (acc.1.take p.2.1))) (b, .ok ⟨⟩ s)).2
  match r with
  | .ok u s => .ok u s
  | .trap t _ => .trap t s
  | .wait w _ => .wait w s
/-- Store every access in order: `data a old` are its bytes given the bytes its storage unit holds; `needs a` says that it reads
them. The end is the element that stopped, with its trap or wait. An element of a `.sc` store waits until the earlier ones are visible (R206). -/
def State.vwrite (s : State) (hold : BitVec 2) (data : VAcc → List Byte → List Byte) (needs : VAcc → Bool) :
    List (VAcc × List (Word × Nat × Phys)) → (Nat × Acc PUnit) × State
  | [] => ((0, .ok ⟨⟩ s), s)
  | (a, ps) :: t =>
    if hold = 3 && s.held then ((a.el, .wait .fence s), s)
    else
    let old : VRes × State := if needs a then s.vreadPieces a.key 0 ps else (.got [], s)
    match old.1 with
    | .bad e => ((a.el, .trap e old.2), old.2)
    | .pend => ((a.el, .wait .remote old.2), old.2)
    | .got b =>
      match old.2.vwritePieces hold ps (data a b) with
      | .ok _ s => s.shardDrop.vwrite hold data needs t
      | .trap e s => ((a.el, .trap e s), s)
      | .wait w s => ((a.el, .wait w s), s)
/-- Does the executing store go on from elements that it has performed, so that its order is kept already (R409, R410)? It then waits at an element. -/
def State.midStore (s : State) : Bool :=
  s.start != 0 && (match s.sh.wait with
    | none | some .fence => false
    | _ => true)
/-- A vector store of a list of accesses (R409, R410). -/
def State.vstore (s : State) (accs : List VAcc) (m : MemQ) (data : VAcc → List Byte → List Byte) (needs : VAcc → Bool) : Eff :=
  match (if s.midStore then none else s.orderGate (m.ord = 2 || m.ord = 3) m true) with
  | some w => w.eff fun _ s => .go s
  | none =>
    let r := s.vxlate .store accs
    let s1 := r.2.2.migrateAll (vpieces r.1)
    let q := s1.vwrite (storeHold m) data needs r.1
    match q.1.2 with
    | .trap e s => s.storeTrap q.1.1 e
    | .wait w s => .wait w (s.setStart q.1.1)
    | .ok _ _ =>
      match r.2.1 with
      | some (a, e) => q.2.storeTrap a.el e
      | none => .go (q.2.setStart 0)
/-- The bytes of an access of the data group (R221, R409): `lo` is START. -/
def State.vdata (s : State) (x : V2) (lo : Nat) : VAcc → List Byte → List Byte :=
  let t := s.ty
  let n := s.vget x.d.toNat s.grp
  let w := s.sew
  let packed (bits per : Nat) (a : VAcc) (old : List Byte) : List Byte :=
    leBytes a.n ((List.range per).foldl (fun v j =>
      let i := per * a.key + j
      if lo ≤ i && s.active x.q i then putFld v (bits * j) bits (elemOf n w i) else v) (leVal old))
  match t with
  | .i4 => packed 4 2
  | .i3 => packed 3 8
  | _ => fun a _ => leBytes a.n (elemOf n w a.key)
/-- Does an access of a narrow type keep bits of memory (R409)? -/
def State.vneeds (s : State) (x : V2) (lo : Nat) (a : VAcc) : Bool :=
  let per := (accShape s.ty).1
  !tySingle s.ty && !tyIsE8 s.ty && !(List.range per).all (fun j => decide (lo ≤ per * a.key + j) && s.active x.q (per * a.key + j))
/-- The store of the accesses at `addr`. -/
def State.vstoreAt (s : State) (x : V2) (m : MemQ) (addr : Nat → Word) : Eff :=
  let lo := s.start
  s.vstore (s.vaccs x.q s.ty lo addr) m (s.vdata x lo) (s.vneeds x lo)
/-- VST (R405-R407, R409). -/
def execVst (x : V2) (off : BitVec 20) (m : MemQ) (s : State) : Host.Outcome State Fault Refusal :=
  let i : Instr := .vst x off m
  s.perform (encode i) (opRuns 0xC3) false [x.a] [] fun s =>
    match s.vgate i (s.chkMem x true none [x.a] true) with
    | some e => e
    | none => s.vstoreAt x m (unitAddr (s.vbase x.a off) s.ty)
/-- VSTS (R405-R407, R409). -/
def execVsts (b : Reg) (x : V2) (off : BitVec 20) (m : MemQ) (s : State) : Host.Outcome State Fault Refusal :=
  let i : Instr := .vsts b x off m
  s.perform (encode i) (opRuns 0xC4) false [x.a, b] [] fun s =>
    match s.vgate i (s.chkMem x (tySingle s.ty) none [x.a, b] true) with
    | some e => e
    | none => s.vstoreAt x m (fun k => s.vbase x.a off + toW k * s.rd b)
/-- VSTX (R405-R407, R409). -/
def execVstx (b : Reg) (x : V2) (m : MemQ) (s : State) : Host.Outcome State Fault Refusal :=
  let i : Instr := .vstx b x m
  s.perform (encode i) (opRuns 0xC5) false [x.a] [] fun s =>
    match s.vgate i (s.chkMem x (tySingle s.ty && indexTy (vtType2 s.sh.vt)) (some (b, tyWidth (vtType2 s.sh.vt))) [x.a] true) with
    | some e => e
    | none => let ix := s.vindex b; s.vstoreAt x m (fun k => s.rd x.a + ix k)

/-! ### Sharded loads and stores (R412, R194-R198) -/

/-- The descriptor a sharded form uses, or FT_SHARD INVALID (R195, R406). -/
def State.vshDesc (s : State) (a : Reg) : Except TrapInfo Desc :=
  match s.shDesc s.cu.part s.cu.asid (s.rd a).toNat with
  | none => .error (tr cSHARD 3 0)
  | some d => if !sdValid d || sdSize d != s.sew / 8 then .error (tr cSHARD 3 0) else .ok d
/-- The checks of VLSH and VSSH. -/
def State.chkShard (s : State) (x : V2) (b : Reg) (data : Bool) : VChk :=
  { s.chkMem x (tySingle s.ty) (some (b, 64)) [x.a] data with
    own := match s.vshDesc x.a with
      | .error t => some t
      | .ok _ => none }
/-- The trap of a sharded element: FT_SHARD names no address (R195). -/
def shardElTrap (t : TrapInfo) : TrapInfo := if t.code = BitVec.ofNat 8 cSHARD then { t with tval := 0 } else t
/-- VLSH (R412). -/
def execVlsh (b : Reg) (x : V2) (m : MemQ) (s : State) : Host.Outcome State Fault Refusal :=
  let i : Instr := .vlsh b x m
  s.perform (encode i) (opRuns 0xC6) false [x.a] [] fun s =>
    match s.vgate i (s.chkShard x b false) with
    | some e => e
    | none =>
      match s.loadGate m with
      | some w => w.eff fun _ s => .go s
      | none =>
        let s := s.cacheDir s.cu.part s.cu.asid
        let d := (s.vshDesc x.a).toOption.getD 0
        let nb := s.vget b.toNat (spanOf s.grp 64 s.sew)
        let act := s.actives x.q
        let va (e : Nat) : Word := sdAddr d (elemOf nb 64 e)
        (s.shardAccess (s.rd x.a).toNat d false va (act.map (fun e => (e, elemOf nb 64 e, [])))).eff fun r s =>
          let l := r.map (fun p => ((⟨p.1, p.1, va p.1, 0, 1⟩ : VAcc), match p.2 with | .ok v => VRes.got v | .error t => .bad (shardElTrap t)))
          match r.findSome? (fun p => match p.2 with | .error t => if t.code = BitVec.ofNat 8 cSHARD ∧ t.sub = 1 then some t else none | .ok _ => none) with
          | some t => .trap (shardElTrap t) s
          | none => s.vloadEnd x m l none act.head?
/-- VSSH (R412). -/
def execVssh (b : Reg) (x : V2) (m : MemQ) (s : State) : Host.Outcome State Fault Refusal :=
  let i : Instr := .vssh b x m
  s.perform (encode i) (opRuns 0xC7) false [x.a] [] fun s =>
    match s.vgate i (s.chkShard x b true) with
    | some e => e
    | none =>
      match s.orderGate (m.ord = 2 || m.ord = 3) m true with
      | some w => w.eff fun _ s => .go s
      | none =>
        let s := s.cacheDir s.cu.part s.cu.asid
        let d := (s.vshDesc x.a).toOption.getD 0
        let nb := s.vget b.toNat (spanOf s.grp 64 s.sew)
        let nd := s.vget x.d.toNat s.grp
        let w := s.sew
        let lo := s.start
        let items := ((s.actives x.q).filter (fun e => decide (lo ≤ e))).map (fun e => (e, elemOf nb 64 e, leBytes (w / 8) (elemOf nd w e)))
        if items.isEmpty then .go (s.setStart 0)
        else
          (s.shardAccess (s.rd x.a).toNat d true (fun e => sdAddr d (elemOf nb 64 e)) items).eff fun r s =>
            match r.findSome? (fun p => match p.2 with | .error t => some (p.1, t) | .ok _ => none) with
            | some (f, t) => s.storeTrap f (shardElTrap t)
            | none => .go (s.setStart 0)

/-! ### Vector atomics (R413) -/

/-- Keep the old values of performed elements as held replies while a later element waits. -/
def State.holdOld (s : State) (l : List (Nat × Nat × Nat)) : State :=
  s.modCu (fun u => { u with
    replies := u.replies ++ (l.filter (fun p => (u.pendOf s.agentNo p.1).isNone)).map (fun p =>
      ⟨0, s.agentNo, p.1, 0, 0, some (.ok, leBytes p.2.2 p.2.1), none, false⟩) })
/-- Perform the atomics of the accesses in order: the old values of those performed, and what stopped. -/
def State.vatomics (s : State) (f : Nat → Nat → Option Nat) (op : Nat → PeerOp) :
    List (VAcc × List (Word × Nat × Phys)) → List (Nat × Nat × Nat) × Option (Nat × Acc PUnit) × State
  | [] => ([], none, s)
  | (a, ps) :: t =>
    let one : Acc Nat := match s.cu.pendOf s.agentNo a.el with
      | some ⟨0, _, _, _, _, some (_, b), _, _⟩ => .ok (leVal b) s
      | _ =>
        match ps with
        | (va, n, ph) :: _ => s.atomicAt a.el ph va n (f a.el) (op a.el)
        | [] => .ok 0 s
    match one with
    | .ok v s => let r := s.vatomics f op t; ((a.el, v, a.n) :: r.1, r.2)
    | .trap e s => ([], some (a.el, .trap e s), s)
    | .wait w s => ([], some (a.el, .wait w s), s)
/-- VAMO (R413). -/
def execVamo (op : AmoOp) (b : Reg) (x : V2) (m : MemQ) (s : State) : Host.Outcome State Fault Refusal :=
  let i : Instr := .vamo op b x m
  s.perform (encode i) (opRuns 0xC8) false [x.a] [] fun s =>
    match s.vgate i (s.chkMem x (amoTy op s.ty && indexTy (vtType2 s.sh.vt)) (some (b, tyWidth (vtType2 s.sh.vt))) [x.a] true) with
    | some e => e
    | none =>
      match s.orderGate (m.ord = 2 || m.ord = 3) m false with
      | some w => w.eff fun _ s => .go s
      | none =>
        let ix := s.vindex b
        let nd := s.vget x.d.toNat s.grp
        let w := s.sew
        let t := s.ty
        let opnd (e : Nat) : Nat := elemOf nd w e
        let r := s.vxlate .atomic (s.vaccs x.q t s.start (fun k => s.rd x.a + ix k))
        let s1 := r.2.2.migrateAll (vpieces r.1)
        let q := s1.vatomics (fun e old => some (amoNew op t old (opnd e))) (fun e => .amo op t (toW (opnd e))) r.1
        let olds := q.1.map (fun p => (p.1, p.2.1))
        let put (s : State) : State := s.vput x.d.toNat s.grp w (fun e => (olds.find? (fun p => p.1 == e)).map (·.2))
        match q.2.1 with
        | some (f, .trap e s) => .trap e ((put s).setStart f)
        | some (_, .wait k s) => .wait k (s.holdOld q.1)
        | _ =>
          match r.2.1 with
          | some (a, e) => .trap e ((put q.2.2).setStart a.el)
          | none => .go ((if m.ord = 1 ∨ m.ord = 3 then (put q.2.2).acquire m.scope.toNat else put q.2.2).setStart 0)

/-! ### Masks, compress, expand and element moves (R414-R416) -/

/-- The byte accesses of a mask move. -/
def State.maskAccs (s : State) (b : Word) : List VAcc := (List.range (ceilDiv s.sh.vl 8)).map (fun j => ⟨8 * j, j, b + toW j, 1, 1⟩)
/-- VLDM (R414). -/
def execVldm (d a : Reg) (off : BitVec 20) (s : State) : Host.Outcome State Fault Refusal :=
  s.perform (encode (.vldm d a off)) (opRuns 0xC9) false [a] [a] fun s =>
    match s.loadGate plainMem with
    | some w => w.eff fun _ s => .go s
    | none =>
      let r := s.vxlate .load (s.maskAccs (s.vbase a off))
      match r.2.1 with
      | some (_, e) => .trap e r.2.2
      | none =>
        let q := (r.2.2.migrateAll (vpieces r.1)).vshards r.1
        let o := q.2.vread q.1 r.1
        match o.1.findSome? (fun p => match p.2 with | .bad e => some e | _ => none) with
        | some e => .trap e o.2
        | none =>
          if o.1.any (fun p => match p.2 with | .pend => true | _ => false) then .wait .remote o.2
          else .go (o.2.setMask d.toNat (low s.sh.vl (leVal ((vgot o.1).flatMap (·.2)))))
/-- VSTM (R414). -/
def execVstm (d a : Reg) (off : BitVec 20) (s : State) : Host.Outcome State Fault Refusal :=
  s.perform (encode (.vstm d a off)) (opRuns 0xCA) false [a] [a] fun s =>
    match s.orderGate false plainMem true with
    | some w => w.eff fun _ s => .go s
    | none =>
      let r := s.vxlate .store (s.maskAccs (s.vbase a off))
      match r.2.1 with
      | some (_, e) => .trap e r.2.2
      | none =>
        s.maskGo (.vstm d a off) <|
        let n := low s.sh.vl (s.mask d.toNat)
        let s1 := r.2.2.migrateAll (vpieces r.1)
        let q := s1.vwrite 0 (fun k _ => [BitVec.ofNat 8 (fld n (8 * k.key) 8)]) (fun _ => false) r.1
        match q.1.2 with
        | .trap e _ => .trap e s1
        | .wait w s => .wait w s
        | .ok _ _ => .go q.2

/-- The active elements of vA in order. -/
def State.survivors (s : State) (x : V2) : List Nat :=
  let na := s.vget x.a.toNat s.grp
  (s.actives x.q).map (elemOf na s.sew)
/-- VCPRS (R415). -/
def execVcprs (x : V2) (s : State) : Host.Outcome State Fault Refusal :=
  s.vec (.vcprs x) 0xCB [] (fun s => s.chk2 x (s.tyIs x.ty && tyAny s.ty)) fun s =>
    let t := (s.survivors x).toArray
    let n := t.size
    let tail := vtTail s.sh.vt
    .go ((s.vput x.d.toNat s.grp s.sew (fun j => if j < n then some (t.getD j 0) else if tail then some 0 else none)).modSh
      (fun y => { y with vl := n }))
/-- VEXPD (R415). -/
def execVexpd (x : V2) (s : State) : Host.Outcome State Fault Refusal :=
  s.vec (.vexpd x) 0xCC [] (fun s =>
    { s.chk2 x (s.tyIs x.ty && tyAny s.ty) with
      poison := s.vPoisoned x.a.toNat s.sew (List.range (s.actives x.q).length) }) fun s =>
    let w := s.sew
    let na := s.vget x.a.toNat s.grp
    let vl := s.sh.vl
    let tail := vtTail s.sh.vt
    let pos := (((List.range vl).foldl (fun (acc : List (Option Nat) × Nat) i =>
      if s.sel x.q i then (some acc.2 :: acc.1, acc.2 + 1) else (none :: acc.1, acc.2)) ([], 0)).1.reverse).toArray
    .go (s.vput x.d.toNat s.grp w (fun i =>
      if i < vl then (pos.getD i none).map (elemOf na w) else if tail then some 0 else none))
/-- VMVH (R416). -/
def execVmvh (ix : Bool) (d a b : Reg) (ty : Ty) (s : State) : Host.Outcome State Fault Refusal :=
  let i : Instr := .vmvh ix d a b ty
  s.perform (encode i) (opRuns 0xCD) false (d :: (if ix then [b] else [])) [] fun s =>
    let j := if ix then (s.rd b).toNat else 0
    let chk : VChk :=
      { ok := s.tyIs ty && tyAny s.ty
        reserved := false
        spans := [(a, s.grp, 8)]
        own := none
        poison := (ix && s.poisoned b) || (decide (j < s.vlmax) && s.vPoisoned a.toNat s.sew [j]) }
    match s.vgate i chk with
    | some e => e
    | none =>
      .go (s.wr d (if j < s.vlmax then extTy s.ty (elemOf (s.vget a.toNat s.grp) s.sew j) else 0))

end Sys2Proof.Machine
end

