-- ==== Sys2Proof/Machine/Engine.lean ====
section
/-!
DEFINITION. What the engines of a core share: accesses on behalf of a command (R210, R215, R284), advances held in issue order
(R211), what the remaining words of a block may still touch (R164), and the faults that reach the issuing reeve (R257, R286).
-/
namespace Sys2Proof.Machine

/-! ### Acting for a command -/

/-- Make command number `n` of reeve `r` of unit `uid` the executing agent (log 11). -/
def State.asEngine (s : State) (uid r n : Nat) : State := { s with uid := uid, who := .reeve r, eng := some n }
/-- Give the turn back to the agent of `old`. -/
def State.back (s old : State) : State := { s with uid := old.uid, who := old.who, eng := old.eng }
/-- The number of the matrix entry of reeve `r` (log 11). -/
def matNo (r : Nat) : Nat := 10 + r
/-- The number of wain command `q` (log 11). -/
def wainNo (q : Nat) : Nat := 100 + q

/-- Pages of type 5 and 7 raise FT_PERM for an engine (R248, R254, R284). -/
def engTarget (va : Word) (x : Phys) (s : State) : Acc Phys :=
  match x with
  | .mmio .. => .trap (tr cPERM 0 va) s
  | .shard .. => .trap (tr cPERM 0 va) s
  | _ => .ok x s
/-- Translate a piece of an engine's access. -/
def State.engXlate (s : State) (k : Kind) (va : Word) (n : Nat) : Acc Phys :=
  (s.xlate s.xc k true va n 1).bind fun x s =>
    match x with
    | .shard .. => engTarget va x s
    | _ => .ok x s
/-- Count a request to a migrating page, unless it is already out (R63). -/
def State.engCount (s : State) (key : Nat) (va : Word) (x : Phys) : State :=
  match x with
  | .peer pr _ 3 cls base size =>
    if s.peerGone pr || s.agentWait == some .busy || (s.cu.pendOf s.agentNo key).isSome || decide (256 ≤ s.outstanding) then s else s.migrate s.cu.part s.cu.asid base size pr cls
  | _ => let _ := va; s
/-- Read `n` bytes for an engine, one request for each line, from piece key `key`. -/
def State.engRead (s : State) (key : Nat) (va : Word) (n : Nat) : Acc (List Byte) :=
  ((lines va n).foldl (fun (acc : Nat × Acc (List Byte)) p =>
    (acc.1 + 1, acc.2.bind fun l s =>
      (s.engXlate .load p.1 p.2).bind fun x s =>
        ((s.engCount (key + acc.1) p.1 x).loadAt (key + acc.1) p.1 p.2 x).bind fun b s => .ok (l ++ b) s)) (0, .ok [] s)).2
/-- Check every byte of an engine's write before any is written. -/
def State.engProbe (s : State) (va : Word) (n : Nat) : Acc PUnit :=
  (lines va n).foldl (fun acc p => acc.bind fun _ s =>
    (s.engXlate .store p.1 p.2).bind fun x s =>
      match x with
      | .hbm _ true => .trap (tr cPERM 0 p.1) s
      | _ => .ok ⟨⟩ s) (.ok ⟨⟩ s)
/-- Write bytes for an engine, line by line. -/
def State.engWrite (s : State) (va : Word) (b : List Byte) : Acc PUnit :=
  ((lines va b.length).foldl (fun (acc : List Byte × Acc PUnit) p =>
    (acc.1.drop p.2, acc.2.bind fun _ s =>
      (s.engXlate .store p.1 p.2).bind fun x s => (s.engCount (2 ^ 60) p.1 x).storeAt p.1 x 0 (acc.1.take p.2))) (b, .ok ⟨⟩ s)).2
/-- Are remote stores of engine command `n` of reeve `r` still not visible? -/
def Unit.engOpen (u : Unit) (r n : Nat) : Bool := (u.reeveOf r).stores.any (fun t => t.agent == n)

/-! ### Advances in issue order (R211) -/

/-- Does a matrix entry name a counter, and which? `MZRO` names one only with `tlN` (R255). -/
def MEntry.counter (e : MEntry) : Option Nat := if e.adv then some e.tl else none
/-- The unit whose counter a wain command advances: with RTL the unit that owns the destination loft (R285, R295). -/
def State.wainUnit (s : State) (w : WainCmd) : Nat :=
  let rtl := (dfld w.desc (if w.op = 0xEC then 0 else 16) 4).testBit 6
  if !rtl then w.uid
  else
    let u := s.unitOf w.uid
    let va := toW (if w.op = 0xEC then dfld w.desc 24 8 else dfld w.desc 8 8)
    match s.leafFor ⟨u.part, u.asid, false, some w.uid⟩ va with
    | some (some l) => if pteType l.pte == 2 then (s.passUnit u (pteFrame l.pte / 1024)).getD w.uid else w.uid
    | _ => w.uid
/-- Is an advance of counter `n` of unit `uid` by the command issued at place `o` on core `c` held back by an earlier one? -/
def State.heldBack (s : State) (c o uid n : Nat) : Bool :=
  s.units.any (fun p => p.2.live && p.2.core == c && p.1 == uid &&
    (p.2.mq.any (fun e => decide (e.ord < o) && e.counter == some n) || p.2.heldAdv.any (fun h => decide (h.1 < o) && h.2 == n))) ||
  (s.coreOf c).wq.any (fun w => decide (w.seq < o) && w.tl == n && s.wainUnit w == uid)
/-- Release the advances of completed matrix entries of a unit that nothing holds back any longer, oldest first. -/
def State.releaseHeld (s : State) (uid : Nat) : Nat → State
  | 0 => s
  | fuel + 1 =>
    let u := s.unitOf uid
    match u.heldAdv.find? (fun h => !s.heldBack u.core h.1 uid h.2) with
    | none => s
    | some h => ((s.modUnit uid (fun u => { u with heldAdv := u.heldAdv.filter (· != h) })).advance uid h.2 1 false).releaseHeld uid fuel
/-- Release every held advance of the units of a core. -/
def State.releaseCore (s : State) (c : Nat) : State :=
  s.units.foldl (fun s p => if p.2.core == c && !p.2.heldAdv.isEmpty then s.releaseHeld p.1 p.2.heldAdv.length else s) s
/-- The advance of a completed matrix entry, which has left the queue. -/
def State.matAdvance (s : State) (uid : Nat) (e : MEntry) : State :=
  match e.counter with
  | none => s
  | some n => (s.modUnit uid (fun u => { u with heldAdv := u.heldAdv ++ [(e.ord, n)] })).releaseCore (s.unitOf uid).core

/-! ### What the remaining words of a block may touch (R164) -/

/-- Vector registers a word may touch, as (first register, registers) for a register group of `g`; none of them for a word that
does not decode, which traps. -/
def touchList (g : Nat) (i : Instr) : List (Nat × Nat) :=
  let n := if 2 ≤ g then 4 * g else 4
  let v2 (x : V2) (wd wa : Nat) : List (Nat × Nat) := [(x.d.toNat, wd), (x.a.toNat, wa)]
  let v3 (x : V3) : List (Nat × Nat) := [(x.d.toNat, g), (x.a.toNat, g)] ++ (if x.sc then [] else [(x.b.toNat, g)])
  match i with
  | .vadd x | .vsub x | .vmul x | .vmulh x | .vmac x | .vmin x | .vmax x | .vand x | .vor x | .vxor x | .vshl x | .vshr x | .vsra x
  | .vsadd _ x | .vcmp _ x | .vsel x | .vmv x | .vfadd x | .vfsub x | .vfmul x | .vfmin x | .vfmax x | .vfdiv x | .vfcmp _ x => v3 x
  | .vwmul _ x | .vwmac _ x => [(x.d.toNat, n), (x.a.toNat, g)] ++ (if x.sc then [] else [(x.b.toNat, g)])
  | .vfma x c => v3 x ++ [(c.toNat, g)]
  | .vabs x | .vfsqrt x | .vfrsq x | .vfexp2 x | .vflog2 x | .vfcls x | .viota x => v2 x g g
  | .vrsum x | .vrmax x | .vrmin x => v2 x n g
  | .vcvt _ _ _ x | .vpack _ x | .vunpk _ x => v2 x n n
  | .vbq _ c x | .vbdq _ c x => v2 x n n ++ [(c.toNat, 2)]
  | .ve8q _ c _ _ x | .ve8d _ c x => v2 x 32 32 ++ [(c.toNat, 2)]
  | .vscac pf d p a b => [(d.toNat, if pf then 8 else 4), (p.toNat, 4), (a.toNat, 1), (b.toNat, 1)]
  | .vsldu _ _ _ x | .vsldd _ _ _ x => v2 x g g
  | .vprm b x => v2 x g g ++ [(b.toNat, n)]
  | .vargmx _ d a _ _ => [(d.toNat, 8), (a.toNat, g)]
  | .vtopk _ _ d a _ _ => [(d.toNat, 8), (a.toNat, g)]
  | .vsort _ _ c x => v2 x g g ++ [(c.toNat, n)]
  | .vsrch _ b x => v2 x n g ++ [(b.toNat, g)]
  | .vld x _ _ | .vldC x _ | .vlds _ x _ _ | .vst x _ _ | .vsts _ x _ _ => [(x.d.toNat, g)]
  | .vldx b x _ | .vstx b x _ | .vlsh b x _ | .vssh b x _ | .vamo _ b x _ => [(x.d.toNat, g), (b.toNat, n)]
  | .vcprs x | .vexpd x => v2 x g g
  | .vmvh _ d a _ _ => [(d.toNat, g), (a.toNat, g)]
  | .sxupd _ a _ c f _ _ => [(a.toNat, g)] ++ (if f = 2 then [(c.toNat, n)] else [])
  | .dualWord sa sb => [sa, sb].flatMap (fun sl =>
      match sl with
      | .vec _ d a b => [(d.toNat, g), (a.toNat, g), (b.toNat, g)]
      | .vmv d a => [(d.toNat, g), (a.toNat, g)]
      | _ => [])
  | _ => []
/-- The instructions a busy sheaf may still run: from its word, or from the start of a live loop, to the block's end. -/
def remaining (x : Sheaf) : List Instr :=
  if !x.busy then []
  else
    let st (k : Nat) : Nat := let l := x.loopReg k; if l.count ≠ 0 ∧ l.start.toNat < x.pc.toNat then l.start.toNat else x.pc.toNat
    let lo := if st 0 < st 1 then st 0 else st 1
    (x.block.drop ((lo - x.blockAddr.toNat) / 8)).filterMap decode
/-- The largest group the remaining instructions may use: `%vt` as it stands and every image they may install. -/
def remGroup (x : Sheaf) (l : List Instr) : Nat :=
  l.foldl (fun g i =>
    match i with
    | .vsett r _ image =>
      let h := if r then 8 else vtGroup (zx64 image)
      if g < h then h else g
    | _ => g) (vtGroup x.vt)
/-- The rotating region's size the remaining instructions may use (R423); 0 when none can. -/
def remWindow (x : Sheaf) (l : List Instr) : Nat :=
  l.foldl (fun w i => match i with | .sloop _ _ _ _ v _ => if w < v.toNat then v.toNat else w | _ => w)
    (if slpV x then fld x.rrb.toNat 8 6 else 0)
/-- May the rest of a sheaf's block touch one of the `k` registers at `vd`? -/
def mayTouch (x : Sheaf) (vd k : Nat) : Bool :=
  let l := remaining x
  let g := remGroup x l
  let w := remWindow x l
  l.any (fun i => (touchList g i).any (fun p =>
    (decide (p.1 < vd + k) && decide (vd < p.1 + p.2)) || (decide (64 - w < p.1 + p.2) && decide (64 - w < vd + k))))
/-- May the rest of a sheaf's block write `%vt`? -/
def mayVsett (x : Sheaf) : Bool := (remaining x).any (fun i => match i with | .vsett .. => true | _ => false)

end Sys2Proof.Machine
end

