-- ==== Sys2Proof/Machine/Sketch.lean ====
section
/-!
DEFINITION. Statex images as data (R260-R263, R269-R278): headers, empty states, one contribution, the merge and the queries,
and the selection shared by TOPK registers and the states of R401.
-/
namespace Sys2Proof.Machine

/-! ### Headers (R261, R262) -/

/-- TYPE. -/
def sxType (i : SxImage) : Nat := dfld i 0 1
/-- P0. -/
def sxP0 (i : SxImage) : Nat := dfld i 4 2
/-- P1. -/
def sxP1 (i : SxImage) : Nat := dfld i 6 2
/-- SEED. -/
def sxSeed (i : SxImage) : Word := toW (dfld i 48 8)
/-- NIN. -/
def sxNin (i : SxImage) : Nat := dfld i 56 8
/-- E0 of an LHIST. -/
def sxE0 (i : SxImage) : Int := sInt 16 (sxP0 i)
/-- A field of `n` bytes at body offset `o`. -/
def sxGet (i : SxImage) (o n : Nat) : Nat := dfld i (64 + o) n
/-- Write a field of `n` bytes at body offset `o`. -/
def sxPut (i : SxImage) (o n v : Nat) : SxImage := dput i (64 + o) n v

/-- Do a type and its parameters stand in the table of R262? -/
def sxParams (t p0 p1 : Nat) : Bool :=
  match t with
  | 1 => decide (p0 ≤ 64) && p1 == 0
  | 2 => decide (p0 ≤ 14) && p1 == 0
  | 3 => decide (1 ≤ p0) && decide (p0 ≤ 16) && p1 == 0
  | 4 => decide (1 ≤ p0) && decide (p0 ≤ 8) && decide (1 ≤ p1) && decide (p1 ≤ 128) && p1 == 2 ^ p1.log2
  | 5 => decide (4 ≤ p0) && decide (p0 ≤ 12) && p1 == 0
  | 6 => decide (1 ≤ p0) && decide (p0 ≤ 256) && p1 == 0
  | 7 => decide (1 ≤ p0) && decide (p0 ≤ 256) && p1 == 0
  | 8 => decide (-126 ≤ sInt 16 p0) && decide (sInt 16 p0 ≤ 96) && p1 == 0
  | 9 => decide (1 ≤ p0) && decide (p0 ≤ 1024) && p1 == 0
  | _ => false
/-- Body bytes that a type uses (R262). -/
def sxUsed (t p0 p1 : Nat) : Nat :=
  match t with
  | 1 => 64 * p0
  | 2 => 288 * p0
  | 3 => 160 * p0
  | 4 => 4 * p0 * p1
  | 5 => 2 ^ p0
  | 6 => 2128
  | 7 => 16 * p0
  | 8 => 3120
  | _ => 4 * p0
/-- Does a type use SEED? -/
def sxSeeded (t : Nat) : Bool := t == 5 || t == 7
/-- A header that breaks nothing of R261 and R262: reserved bytes 0, and SEED and COEF only where the type uses them. -/
def sxHeaderOk (i : SxImage) : Bool :=
  sxParams (sxType i) (sxP0 i) (sxP1 i) && dfld i 1 3 == 0 && dfld i 8 8 == 0 &&
  (sxSeeded (sxType i) || dfld i 48 8 == 0) &&
  (if sxType i == 4 then fld (dfld i 16 32) (32 * sxP0 i) (256 - 32 * sxP0 i) == 0 else dfld i 16 32 == 0)
/-- An image that breaks nothing of R260 to R262: bytes the type does not use are 0. -/
def sxImageOk (i : SxImage) : Bool :=
  sxHeaderOk i && i.toNat >>> (8 * (64 + sxUsed (sxType i) (sxP0 i) (sxP1 i))) == 0
/-- Compatible headers (R263). -/
def sxCompatible (a b : SxImage) : Bool := dfld a 0 56 == dfld b 0 56

/-- The empty STAT of LSUM and MOM cells. -/
def sxStat0 : Nat := 0xFFFFFFFF
/-- The empty body of a type with `p0` cells, put under a header. -/
def sxEmpty (t p0 : Nat) (h : SxImage) : SxImage :=
  match t with
  | 1 => (List.range p0).foldl (fun i j => sxPut i (64 * j + 56) 8 sxStat0) h
  | 2 => (List.range p0).foldl (fun i j => sxPut i (288 * j + 280) 8 sxStat0) h
  | 3 => (List.range p0).foldl (fun i j =>
      sxPut (sxPut (sxPut i (160 * j + 144) 8 sxStat0) (160 * j + 140) 4 0xFF800000) (160 * j + 136) 4 0x7F800000) h
  | _ => h
/-- The header of an image with NIN 0 and the type's empty body (SXCLR, R265). -/
def sxClear (i : SxImage) : SxImage := sxEmpty (sxType i) (sxP0 i) (BitVec.ofNat 33280 (dfld i 0 56))

/-- ZH64 (R272). -/
def zh64 (k s : Word) : Word :=
  let h := (k ^^^ s) * 0xA24BAED4963EE407
  let h := h ^^^ (h >>> 31)
  let h := h * 0x9FB21C651E98DF25
  h ^^^ (h >>> 29)

/-- The register a declaration word sets up (R265); none where it raises FT_SXTYPE HEADER. -/
def sxInit (w : Word) : Option SxImage :=
  let n := w.toNat
  let t := fld n 8 8
  let p0 := fld n 16 16
  let p1 := fld n 32 16
  let s := toW (fld n 48 16)
  if !sxParams t p0 p1 then none
  else
    let coef := if t == 4 then
      (List.range p0).foldl (fun a r => a + ((zh64 (toW (2 * r)) s).toNat % 65536 + (zh64 (toW (2 * r + 1)) s).toNat % 65536 * 65536) <<< (32 * r)) 0
      else 0
    some (sxEmpty t p0 (BitVec.ofNat 33280 (t + p0 <<< 32 + p1 <<< 48 + coef <<< 128 + (if sxSeeded t then s.toNat else 0) <<< 384)))
/-- The register a header image sets up (R265); none where it raises FT_SXTYPE HEADER. -/
def sxInitImage (h : Desc) : Option SxImage :=
  let i : SxImage := BitVec.ofNat 33280 (h.toNat % 2 ^ 448)
  if sxHeaderOk i then some (sxClear i) else none

/-! ### Counters and sums -/

/-- Saturating addition in `n` bytes, with whether it clamped. -/
def satAdd (n a b : Nat) : Nat × Bool := if a + b < 2 ^ (8 * n) then (a + b, false) else (2 ^ (8 * n) - 1, true)
/-- Add to a saturating counter of `n` bytes at body offset `o`. -/
def sxAdd (i : SxImage) (o n v : Nat) : SxImage × Bool :=
  let r := satAdd n (sxGet i o n) v
  (sxPut i o n r.1, r.2)
/-- NIN after `n` more contributions (R266). -/
def sxCountIn (i : SxImage) (n : Nat) : SxImage := dput i 56 8 (satAdd 8 (sxNin i) n).1

/-- Where an LSUM-like cell keeps its parts: SUM offset and size, COUNT, STAT, and L of its least bit (R270, R271). -/
structure SumAt where
  sum : Nat
  sumN : Nat
  cnt : Nat
  stat : Nat
  lsb : Nat
/-- The parts of cell `j`. -/
def sumAt (t j : Nat) : SumAt :=
  match t with
  | 1 => ⟨64 * j, 48, 64 * j + 48, 64 * j + 56, 149⟩
  | 2 => ⟨288 * j, 272, 288 * j + 272, 288 * j + 280, 1074⟩
  | _ => ⟨160 * j + 8, 48, 160 * j, 160 * j + 144, 149⟩
/-- A STAT word from its parts. -/
def statOf (flags infIdx nanIdx : Nat) : Nat := nanIdx + infIdx * 2 ^ 16 + flags * 2 ^ 32
/-- The lesser of two numbers. -/
def leastN (a b : Nat) : Nat := if a ≤ b then a else b
/-- One contribution to an LSUM-like cell (R270): value `x`, index `idx`. -/
def sumApply (i : SxImage) (c : SumAt) (x : FVal) (idx : Nat) : SxImage :=
  let st := sxGet i c.stat 8
  let fl := fld st 32 32
  let i := (sxAdd i c.cnt 8 1).1
  let other := match x with
    | .fin true 0 _ => 0
    | _ => 8
  match x with
  | .nan _ => sxPut i c.stat 8 (statOf (fl ||| 1 ||| other) (fld st 16 16) (leastN (fld st 0 16) idx))
  | .inf n => sxPut i c.stat 8 (statOf (fl ||| (if n then 4 else 2) ||| other) (leastN (fld st 16 16) idx) (fld st 0 16))
  | .fin n m e =>
    let s := sInt (8 * c.sumN) (sxGet i c.sum c.sumN) + scaled n m e (-(c.lsb : Int))
    sxPut (sxPut i c.sum c.sumN (wrapInt (8 * c.sumN) s)) c.stat 8 (statOf (fl ||| other) (fld st 16 16) (fld st 0 16))
/-- Merge an LSUM-like cell of `b` into `a`. -/
def sumMerge (a b : SxImage) (c : SumAt) : SxImage × Bool :=
  let sa := sxGet a c.stat 8
  let sb := sxGet b c.stat 8
  let r := sxAdd a c.cnt 8 (sxGet b c.cnt 8)
  let i := sxPut r.1 c.sum c.sumN ((sxGet a c.sum c.sumN + sxGet b c.sum c.sumN) % 2 ^ (8 * c.sumN))
  (sxPut i c.stat 8 (statOf (fld sa 32 32 ||| fld sb 32 32) (leastN (fld sa 16 16) (fld sb 16 16)) (leastN (fld sa 0 16) (fld sb 0 16))), r.2)
/-- The query of an LSUM-like cell in format `f` (R270). -/
def sumQuery (i : SxImage) (c : SumAt) (f : Fmt) : Nat × Word :=
  let st := sxGet i c.stat 8
  let s := sInt (8 * c.sumN) (sxGet i c.sum c.sumN)
  if st.testBit 32 then (fmtNaNP f (fld st 0 16), 0)
  else if st.testBit 33 && st.testBit 34 then (fmtNaNP f (fld st 16 16), 0)
  else if st.testBit 33 then (fmtInfBits f, 0)
  else if st.testBit 34 then (fmtSign f true + fmtInfBits f, 0)
  else if sxGet i c.cnt 8 == 0 then (0, 0)
  else froundInt f .rne .none s (-(c.lsb : Int)) (!st.testBit 35)

/-! ### Moments (R271) -/

/-- The binary32 format. -/
def f32F : Fmt := fmtOf .f32
/-- The binary64 format. -/
def f64F : Fmt := fmtOf .f64
/-- One contribution to a MOM cell: pattern `v` (f32). -/
def momApply (i : SxImage) (j v idx : Nat) : SxImage :=
  let x := fdec f32F v
  let i := sumApply i (sumAt 3 j) x idx
  let o := 160 * j
  let i := match x with
    | .fin _ m e => sxPut i (o + 56) 80 ((sxGet i (o + 56) 80 + (scaled false (m * m) (2 * e) (-298)).toNat) % 2 ^ 640)
    | _ => i
  if isNaN x then i
  else sxPut (sxPut i (o + 136) 4 (fminB f32F (sxGet i (o + 136) 4) v)) (o + 140) 4 (fmaxB f32F (sxGet i (o + 140) 4) v)
/-- Merge a MOM cell. -/
def momMerge (a b : SxImage) (j : Nat) : SxImage × Bool :=
  let o := 160 * j
  let r := sumMerge a b (sumAt 3 j)
  let i := sxPut r.1 (o + 56) 80 ((sxGet a (o + 56) 80 + sxGet b (o + 56) 80) % 2 ^ 640)
  (sxPut (sxPut i (o + 136) 4 (fminB f32F (sxGet a (o + 136) 4) (sxGet b (o + 136) 4))) (o + 140) 4
    (fmaxB f32F (sxGet a (o + 140) 4) (sxGet b (o + 140) 4)), r.2)
/-- `mean` and `var` of a MOM cell. -/
def momStat (i : SxImage) (j : Nat) (var : Bool) : Nat × Word :=
  let o := 160 * j
  let st := sxGet i (o + 144) 8
  let n := sxGet i o 8
  let s := sInt 384 (sxGet i (o + 8) 48)
  if st.testBit 32 then (fmtNaNP f64F (fld st 0 16), 0)
  else if st.testBit 33 || st.testBit 34 then (if var then (fmtNaN f64F, 0) else sumQuery i (sumAt 3 j) f64F)
  else if n == 0 then (fmtNaN f64F, 0)
  else if var then
    let v : Int := (sxGet i (o + 56) 80 * n : Nat) - s * s
    fround f64F .rne .none (decide (v < 0)) v.natAbs (n * n) (-298)
  else fround f64F .rne .none (decide (s < 0)) s.natAbs n (-149)

/-! ### Sketches (R273, R274) -/

/-- Body offset of the CMS counter of key `k` in row `r`. -/
def cmsAt (i : SxImage) (r k : Nat) : Nat :=
  let a := dfld i (16 + 4 * r) 2 * 65536 + 1
  let b := dfld i (18 + 4 * r) 2 * 65536 + 1
  4 * (r * sxP1 i + ((a * k + b) % 2 ^ 32) >>> (32 - (sxP1 i).log2))
/-- One key into a CMS. -/
def cmsApply (i : SxImage) (k : Nat) : SxImage × Bool :=
  (List.range (sxP0 i)).foldl (fun acc r => let p := sxAdd acc.1 (cmsAt i r k) 4 1; (p.1, acc.2 || p.2)) (i, false)
/-- The CMS estimate. -/
def cmsEst (i : SxImage) (k : Nat) : Nat :=
  (List.range (sxP0 i)).foldl (fun a r => leastN a (sxGet i (cmsAt i r k) 4)) 0xFFFFFFFF
/-- One key into an HLL. -/
def hllApply (i : SxImage) (k : Word) : SxImage :=
  let h := (zh64 k (sxSeed i)).toNat
  let p := sxP0 i
  let j := h >>> (64 - p)
  let r := h % 2 ^ (64 - p)
  let rho := if r == 0 then 65 - p else 64 - p - r.log2
  if sxGet i j 1 < rho then sxPut i j 1 rho else i
/-- The registers of an HLL. -/
def hllRegs (i : SxImage) : List Nat := (List.range (2 ^ sxP0 i)).map (fun j => sxGet i j 1)
/-- V of R274 with LSB 2^−64. A register above 64, which only SXLD can place, has no value at that precision: a free
value (log 9). -/
def hllV (i : SxImage) : Nat :=
  let l := hllRegs i
  if l.any (fun m => decide (64 < m)) then Config.freeNat i.toNat else (l.map (fun m => 2 ^ (64 - m))).sum

/-! ### Selections (R275, R401) -/

/-- A selection: counts, exact sum with LSB 2^−149, and the held (value, key) pairs in order. -/
structure Topk where
  nanc : Nat
  pinf : Nat
  ninf : Nat
  adm : Nat
  fsum : Nat
  pairs : List (Nat × Nat)
  deriving DecidableEq, Repr
/-- The order of R275: value descending with −0 after +0, then key ascending. -/
def pairBefore (a b : Nat × Nat) : Bool :=
  let x := fkey f32F a.1
  let y := fkey f32F b.1
  decide (y < x) || (x == y && decide (a.2 ≤ b.2))
/-- Insert in order. -/
def insertPair (x : Nat × Nat) : List (Nat × Nat) → List (Nat × Nat)
  | [] => [x]
  | y :: t => if pairBefore x y then x :: y :: t else y :: insertPair x t
/-- Admit a value with its key, keeping `k` pairs; counters saturate at `n` bytes. -/
def Topk.insert (t : Topk) (k n v key : Nat) : Topk :=
  match fdec f32F v with
  | .nan _ => { t with nanc := (satAdd n t.nanc 1).1 }
  | .inf neg =>
    { t with
      adm := (satAdd n t.adm 1).1
      pinf := if neg then t.pinf else (satAdd n t.pinf 1).1
      ninf := if neg then (satAdd n t.ninf 1).1 else t.ninf
      pairs := (insertPair (v, key) t.pairs).take k }
  | .fin neg m e =>
    { t with
      adm := (satAdd n t.adm 1).1
      fsum := wrapInt 384 ((t.fsum : Int) + scaled neg m e (-149))
      pairs := (insertPair (v, key) t.pairs).take k }
/-- A sum of R275: infinities by sign, a NaN, the exact finite sum and the sign of a zero. -/
def topkRound (nan : Bool) (p n : Nat) (fin : Int) (negz : Bool) : Nat × Word :=
  if nan || (p != 0 && n != 0) then (fmtNaNP f64F (2 ^ 64), 0)
  else if p != 0 then (fmtInfBits f64F, 0)
  else if n != 0 then (fmtSign f64F true + fmtInfBits f64F, 0)
  else froundInt f64F .rne .none fin (-149) negz
/-- The exact sum of the finite values of a list of patterns. -/
def finSum (l : List Nat) : Int :=
  l.foldl (fun (a : Int) v => match fdec f32F v with
    | .fin n m e => a + scaled n m e (-149)
    | _ => a) 0
/-- `sel` of R275. -/
def Topk.sel (t : Topk) : Nat × Word :=
  let vs := t.pairs.map (·.1)
  let xs := vs.map (fdec f32F)
  topkRound (xs.any isNaN) (xs.filter (· == .inf false)).length (xs.filter (· == .inf true)).length (finSum vs)
    (!xs.isEmpty && xs.all isNeg)
/-- `rem` of R275. -/
def Topk.rem (t : Topk) : Nat × Word :=
  let vs := t.pairs.map (·.1)
  let xs := vs.map (fdec f32F)
  topkRound false (t.pinf - (xs.filter (· == .inf false)).length) (t.ninf - (xs.filter (· == .inf true)).length)
    (sInt 384 t.fsum - finSum vs) false
/-- The selection a TOPK register holds. -/
def sxTopk (i : SxImage) : Topk :=
  let adm := sxGet i 2072 8
  ⟨sxGet i 2048 8, sxGet i 2056 8, sxGet i 2064 8, adm, sxGet i 2080 48,
    (List.range (leastN adm (sxP0 i))).map (fun s => (sxGet i (8 * s) 4, sxGet i (8 * s + 4) 4))⟩
/-- A TOPK register with a selection as its body. -/
def sxSetTopk (i : SxImage) (t : Topk) : SxImage :=
  BitVec.ofNat 33280 (dfld i 0 64 +
    (packElems 64 (t.pairs.map (fun p => p.1 + p.2 * 2 ^ 32)) + t.nanc <<< 16384 + t.pinf <<< 16448 + t.ninf <<< 16512 +
      t.adm <<< 16576 + t.fsum <<< 16640) <<< 512)
/-- Merge two selections. -/
def Topk.merge (k : Nat) (a b : Topk) : Topk × Bool :=
  let n := satAdd 8 a.nanc b.nanc
  let p := satAdd 8 a.pinf b.pinf
  let m := satAdd 8 a.ninf b.ninf
  let d := satAdd 8 a.adm b.adm
  (⟨n.1, p.1, m.1, d.1, (a.fsum + b.fsum) % 2 ^ 384, ((a.pairs ++ b.pairs).foldl (fun l x => insertPair x l) []).take k⟩,
    n.2 || p.2 || m.2 || d.2)

/-! ### Samples (R276) -/

/-- An entry as (PRI, KEY, PAY). -/
abbrev ResEntry := Nat × Nat × Nat
/-- The order of R276. -/
def resBefore (a b : ResEntry) : Bool :=
  decide (a.1 < b.1) || (a.1 == b.1 && (decide (a.2.1 < b.2.1) || (a.2.1 == b.2.1 && decide (a.2.2 ≤ b.2.2))))
/-- Insert in order. -/
def insertRes (x : ResEntry) : List ResEntry → List ResEntry
  | [] => [x]
  | y :: t => if resBefore x y then x :: y :: t else y :: insertRes x t
/-- The held entries of a RES register. -/
def sxRes (i : SxImage) : List ResEntry :=
  (List.range (leastN (sxNin i) (sxP0 i))).map (fun s => (sxGet i (16 * s) 4, sxGet i (16 * s + 8) 8, sxGet i (16 * s + 4) 4))
/-- A RES register with these entries. -/
def sxSetRes (i : SxImage) (l : List ResEntry) : SxImage :=
  BitVec.ofNat 33280 (dfld i 0 64 + (packElems 128 ((l.take (sxP0 i)).map (fun e => e.1 + e.2.2 * 2 ^ 32 + e.2.1 * 2 ^ 64))) <<< 512)
/-- The entry of a key and payload. -/
def resEntry (i : SxImage) (k : Word) (pay : Nat) : ResEntry := ((zh64 k (sxSeed i)).toNat >>> 32, k.toNat, pay % 2 ^ 32)

/-! ### Histograms and maxima (R277, R278) -/

/-- The counter code of an f32 pattern under E0 (R277). -/
def lhistCode (e0 : Int) (v : Nat) : Nat :=
  let neg := v.testBit 31
  match fdec f32F v with
  | .nan _ => 517
  | .inf n => if n then 514 else 515
  | .fin _ m _ =>
    if m == 0 then 516
    else
      let ex : Int := (fld v 23 8 : Nat) - 127
      if fld v 23 8 == 0 || ex < e0 then (if neg then 512 else 513)
      else if e0 + 31 < ex then (if neg then 514 else 515)
      else (if neg then 256 else 0) + 8 * (ex - e0).toNat + fld v 20 3
/-- Offset and size of the counter of a code. -/
def lhistAt (code : Nat) : Nat × Nat := if code < 512 then (6 * code, 6) else (3072 + 8 * (code - 512), 8)
/-- A counter's value. -/
def lhistGet (i : SxImage) (code : Nat) : Nat := sxGet i (lhistAt code).1 (lhistAt code).2
/-- Codes in ascending order of value (R277). -/
def lhistOrder : List Nat :=
  [514] ++ (List.range 256).map (fun b => 511 - b) ++ [512, 516, 513] ++ List.range 256 ++ [515]
/-- The code that holds rank `n`. -/
def lhistRank (i : SxImage) : List Nat → Nat → Option Nat
  | [], _ => none
  | c :: t, n => let v := lhistGet i c; if n < v then some c else lhistRank i t (n - v)
/-- (1 + k/8)·2^e as f32 bits, rounded, with overflow to Inf. -/
def lhistBound (neg : Bool) (k : Nat) (e : Int) : Nat × Word := fround f32F .rne .none neg (8 + k) 8 e
/-- A code's bound (R277): `hi` or `lo`. -/
def lhistEdge (e0 : Int) (code : Nat) (hi : Bool) : Nat × Word :=
  let top (neg : Bool) := lhistBound neg 0 (e0 + 32)
  let bot (neg : Bool) := lhistBound neg 0 e0
  if code < 256 then lhistBound false (code % 8 + (if hi then 1 else 0)) (e0 + (code / 8 : Nat))
  else if code < 512 then lhistBound true (code % 8 + (if hi then 0 else 1)) (e0 + ((code - 256) / 8 : Nat))
  else
    match code with
    | 512 => if hi then (0x80000000, 0) else bot true
    | 513 => if hi then bot false else (0, 0)
    | 514 => if hi then top true else (0xFF800000, 0)
    | 515 => if hi then (0x7F800000, 0) else top false
    | 516 => (if hi then 0 else 0x80000000, 0)
    | _ => (fmtNaN f32F, 0)
/-- One contribution to an AMAX cell. -/
def amaxApply (i : SxImage) (j v idx : Nat) : SxImage :=
  let c := sxGet i (4 * j) 4
  let a := v % 2 ^ 31
  let cn := isNaN (fdec f32F c)
  let r :=
    if isNaN (fdec f32F v) then fmtNaNP f32F (if cn then leastN idx (fld c 0 22) else idx)
    else if cn then c
    else if c < a then a else c
  sxPut i (4 * j) 4 r
/-- Merge two AMAX cells. -/
def amaxMerge (a b : Nat) : Nat :=
  let x := isNaN (fdec f32F a)
  let y := isNaN (fdec f32F b)
  if x && y then (if fld b 0 22 < fld a 0 22 then b else a)
  else if x then a
  else if y then b
  else if a < b then b else a

/-! ### Updates, merges and queries -/

/-- Which updates a statex type takes (R266): element type and form F. -/
def sxAccepts (t : Nat) (ty : Ty) (form : Nat) : Bool :=
  let short := ty == .f32 || ty == .f16 || ty == .bf16
  match t with
  | 1 => short && (form == 1 || form == 2)
  | 2 => (ty == .f64 || ty == .f32) && (form == 1 || form == 2)
  | 3 => short && (form == 1 || form == 2)
  | 4 => tyIsPlainInt ty && form == 0
  | 5 => tyIsPlainInt ty && form == 0
  | 6 => ty == .f32 && form == 2
  | 7 => tyIsPlainInt ty && form == 2
  | 8 => short && form == 0
  | 9 => short && (form == 1 || form == 2)
  | _ => false
/-- Does a type have cells (R266)? -/
def sxCells (t : Nat) : Bool := t == 1 || t == 2 || t == 3 || t == 9
/-- An f16, bf16 or f32 pattern as f32 bits, exactly (NaNs stay NaNs). -/
def toF32 (t : Ty) (v : Nat) : Nat :=
  match t with
  | .f32 => v
  | _ => match fdec (fmtOf t) v with
    | .nan _ => fmtNaN f32F
    | x => (froundV f32F .rne .none x).1
/-- One contribution (R266 Apply): element pattern `v` of type `ty`, cell, index, and the key or payload. -/
def sxApply (i : SxImage) (ty : Ty) (v cell idx extra : Nat) : SxImage × Bool :=
  match sxType i with
  | 1 => (sumApply i (sumAt 1 cell) (fdec (fmtOf ty) v) idx, false)
  | 2 => (sumApply i (sumAt 2 cell) (fdec (fmtOf ty) v) idx, false)
  | 3 => (momApply i cell (toF32 ty v) idx, false)
  | 4 => cmsApply i ((extTy ty v).toNat % 2 ^ 32)
  | 5 => (hllApply i (extTy ty v), false)
  | 6 => (sxSetTopk i ((sxTopk i).insert (sxP0 i) 8 v extra), false)
  | 7 => (sxSetRes i (insertRes (resEntry i (extTy ty v) extra) (sxRes i)), false)
  | 8 => let c := lhistAt (lhistCode (sxE0 i) (toF32 ty v)); sxAdd i c.1 c.2 1
  | _ => (amaxApply i cell (toF32 ty v) idx, false)
/-- A list of contributions (pattern, cell, index, extra); NIN rises with each (R266), so a sample's held count follows. -/
def sxApplyAll (i : SxImage) (ty : Ty) (l : List (Nat × Nat × Nat × Nat)) : SxImage × Bool :=
  l.foldl (fun acc x =>
    let r := sxApply acc.1 ty x.1 x.2.1 x.2.2.1 x.2.2.2
    (sxCountIn r.1 1, acc.2 || r.2)) (i, false)

/-- Combine counters of `n` bytes at a list of offsets. -/
def sxAddAll (a b : SxImage) (l : List (Nat × Nat)) : SxImage × Bool :=
  l.foldl (fun acc o => let p := sxAdd acc.1 o.1 o.2 (sxGet b o.1 o.2); (p.1, acc.2 || p.2)) (a, false)
/-- The merge of the bodies of two compatible images, and whether a counter saturated (R267, R269). -/
def sxMergeBody (a b : SxImage) : SxImage × Bool :=
  let cells (f : SxImage → Nat → SxImage × Bool) : SxImage × Bool :=
    (List.range (sxP0 a)).foldl (fun acc j => let p := f acc.1 j; (p.1, acc.2 || p.2)) (a, false)
  match sxType a with
  | 1 => cells (fun i j => sumMerge i b (sumAt 1 j))
  | 2 => cells (fun i j => sumMerge i b (sumAt 2 j))
  | 3 => cells (fun i j => momMerge i b j)
  | 4 => sxAddAll a b ((List.range (sxP0 a * sxP1 a)).map (fun j => (4 * j, 4)))
  | 5 => ((List.range (2 ^ sxP0 a)).foldl (fun i j => if sxGet i j 1 < sxGet b j 1 then sxPut i j 1 (sxGet b j 1) else i) a, false)
  | 6 => let r := Topk.merge (sxP0 a) (sxTopk a) (sxTopk b); (sxSetTopk a r.1, r.2)
  | 7 => (sxSetRes a ((sxRes a ++ sxRes b).foldl (fun l x => insertRes x l) []), false)
  | 8 => sxAddAll a b ((List.range 518).map lhistAt)
  | _ => ((List.range (sxP0 a)).foldl (fun i j => sxPut i (4 * j) 4 (amaxMerge (sxGet i (4 * j) 4) (sxGet b (4 * j) 4))) a, false)
/-- The merge of R267: none where the headers are not compatible. -/
def sxMerge (a b : SxImage) : Option (SxImage × Bool) :=
  if !sxCompatible a b then none
  else
    let n := satAdd 8 (sxNin a) (sxNin b)
    let r := sxMergeBody a b
    some (dput r.1 56 8 n.1, r.2 || n.2)

/-- A query's answer: the value with its flags, or the subcode it traps with (R268, R439). -/
def sxQuery (i : SxImage) (kind op : Nat) : Except Nat (Nat × Word) :=
  let t := sxType i
  let p0 := sxP0 i
  let operand : Except Nat (Nat × Word) := .error 2
  let lim (n : Nat) (r : Nat × Word) : Except Nat (Nat × Word) := if n ≤ op then .error 3 else .ok r
  let plain (v : Nat) : Nat × Word := (v, 0)
  match t with
  | 1 =>
    if kind == 0 then lim p0 (sumQuery i (sumAt 1 op) f32F)
    else if kind == 1 then lim p0 (sumQuery i (sumAt 1 op) f64F)
    else if kind == 2 then lim p0 (plain (sxGet i (sumAt 1 op).cnt 8))
    else operand
  | 2 =>
    if kind == 0 then lim p0 (sumQuery i (sumAt 2 op) f32F)
    else if kind == 1 then lim p0 (sumQuery i (sumAt 2 op) f64F)
    else if kind == 2 then lim p0 (plain (sxGet i (sumAt 2 op).cnt 8))
    else operand
  | 3 =>
    if kind == 2 then lim p0 (plain (sxGet i (160 * op) 8))
    else if kind == 3 then lim p0 (sumQuery i (sumAt 3 op) f64F)
    else if kind == 4 then lim p0 (momStat i op false)
    else if kind == 5 then lim p0 (momStat i op true)
    else if kind == 6 then lim p0 (plain (sxGet i (160 * op + 136) 4))
    else if kind == 7 then lim p0 (plain (sxGet i (160 * op + 140) 4))
    else operand
  | 4 => if kind == 8 then .ok (plain (cmsEst i (op % 2 ^ 32))) else operand
  | 5 =>
    if kind == 9 then .ok (plain (hllV i % 2 ^ 64))
    else if kind == 10 then .ok (plain (hllV i / 2 ^ 64 % 2 ^ 64))
    else if kind == 11 then .ok (plain ((hllRegs i).filter (· == 0)).length)
    else operand
  | 6 =>
    let s := sxTopk i
    if kind == 12 then lim p0 (plain ((s.pairs.map (·.1)).getD op 0))
    else if kind == 13 then lim p0 (plain ((s.pairs.map (·.2)).getD op 0))
    else if kind == 2 then .ok (plain s.pairs.length)
    else if kind == 14 then .ok (plain s.nanc)
    else if kind == 15 then .ok s.sel
    else if kind == 16 then .ok s.rem
    else operand
  | 7 =>
    let l := sxRes i
    if kind == 17 then lim p0 (plain ((l.map (·.1)).getD op 0))
    else if kind == 13 then lim p0 (plain ((l.map (·.2.1)).getD op 0))
    else if kind == 18 then lim p0 (plain ((l.map (·.2.2)).getD op 0))
    else if kind == 2 then .ok (plain l.length)
    else operand
  | 8 =>
    if kind == 19 then .ok (plain ((lhistRank i lhistOrder op).getD (2 ^ 64 - 1)))
    else if kind == 20 then lim 518 (plain (lhistGet i op))
    else if kind == 21 then lim 518 (lhistEdge (sxE0 i) op false)
    else if kind == 22 then lim 518 (lhistEdge (sxE0 i) op true)
    else operand
  | 9 => if kind == 0 then lim p0 (plain (sxGet i (4 * op) 4)) else operand
  | _ => operand

/-- Does a register take a count (R281)? -/
def sxTakesCount (i : SxImage) : Bool := (sxType i == 1 || sxType i == 2 || sxType i == 3) && decide (1 ≤ sxP0 i)
/-- Apply a count to cell 0 as one contribution of index 0 (R281). -/
def sxCount (i : SxImage) (n : Nat) : SxImage :=
  if n == 0 then i
  else
    let v := froundInt f32F .rne .none (n : Int) 0 false
    sxCountIn (if sxType i == 3 then momApply i 0 v.1 0 else sumApply i (sumAt (sxType i) 0) (.fin false n 0) 0) 1

end Sys2Proof.Machine
end

