-- ==== Sys2Proof/Machine/Select.lean ====
section
/-!
DEFINITION. E8 quantise and decode (R396, R397, R241-R243), VSCAC (R398, R253) and the running selections (R401, R402).
-/
namespace Sys2Proof.Machine

/-- Statex register `n` of a unit. -/
def Unit.sxOf (u : Unit) (n : Nat) : SxImage := KMap.get sxReset u.sx n
/-- Write statex register `n`, whole: its poison mark clears (R317). -/
def Unit.setSx (u : Unit) (n : Nat) (i : SxImage) : Unit :=
  { u with sx := KMap.set sxReset u.sx n i, sxPoison := KMap.set false u.sxPoison n false }
/-- FT_SXTYPE (R263). -/
def sxTrap (sub : Nat) (tval : Word) : TrapInfo := tr cSXTYPE sub tval

/-! ### E8 (R396, R397) -/

/-- Registers of the scale operand of an E8 form. -/
def e8ScaleRegs (w32 : Bool) (grp : Nat) : Nat := if w32 && grp == 8 then 2 else 1
/-- The active points, by the mask bit of their element 0 (R243). -/
def State.points (s : State) (q : BitVec 4) : List Nat := (List.range (ceilDiv s.sh.vl 8)).filter (fun j => s.sel q (8 * j))
/-- The components of a list of points below `%vl`. -/
def State.pointEls (s : State) (ps : List Nat) : List Nat :=
  (ps.flatMap (fun j => (List.range 8).map (fun i => 8 * j + i))).filter (fun i => decide (i < s.sh.vl))
/-- VE8Q (R396). -/
def execVe8q (ts : Ty) (sc : Reg) (cnt : Bool) (n : Reg) (x : V2) (s : State) : Host.Outcome State Fault Refusal :=
  s.vec (.ve8q ts sc cnt n x) 0xAB [] (fun s =>
    let w32 := s.ty == .e8w32
    let ps := s.points x.q
    { ok := s.tyIs x.ty && tyIsE8 s.ty
      reserved := false
      spans := [(x.d, s.grp, 8), (x.a, dynSpan s.lanes (tyWidth ts) s.sh.vl, 32), (sc, e8ScaleRegs w32 s.grp, 8)]
      own := if cnt && !sxTakesCount (s.cu.sxOf n.toNat) then some (sxTrap 2 (toW n.toNat)) else none
      poison := s.vPoisoned x.a.toNat (tyWidth ts) (s.pointEls ps) || s.vPoisoned sc.toNat 8 (ps.map (fun j => if w32 then j else j / 4)) ||
        (cnt && KMap.get false s.cu.sxPoison n.toNat) }) fun s =>
    let w32 := s.ty == .e8w32
    let w := tyWidth ts
    let vl := s.sh.vl
    let na := s.vget x.a.toNat (dynSpan s.lanes w vl)
    let ns := s.vget sc.toNat (e8ScaleRegs w32 s.grp)
    let pts := (List.range (ceilDiv vl 8)).map (fun j =>
      if s.sel x.q (8 * j) then
        let sb := elemOf ns 8 (if w32 then j else j / 4)
        let q := quantPoint w32 ((List.range 8).map (fun i =>
          if 8 * j + i < vl then fdec (fmtOf ts) (elemOf na w (8 * j + i)) else .fin false 0 0)) sb
        some (if w32 then q.code + (if q.nanIn then 0xFF else sb) * 2 ^ 24 else q.code, q)
      else none)
    let pa := pts.toArray
    let beyond := (pts.filter (fun p => match p with | some (_, q) => q.beyond | none => false)).length
    let nv := pts.any (fun p => match p with | some (_, q) => q.nv | none => false)
    let s1 := (s.vput x.d.toNat s.grp s.sew (fun j => (pa.getD j none).map (·.1))).flag (fIf (beyond != 0) fSHOF ||| fIf nv fNV)
    .go (if cnt && beyond != 0 then s1.modCu (fun u => u.setSx n.toNat (sxCount (u.sxOf n.toNat) beyond)) else s1)
/-- VE8D (R397). -/
def execVe8d (td : Ty) (sc : Reg) (x : V2) (s : State) : Host.Outcome State Fault Refusal :=
  s.vec (.ve8d td sc x) 0xAC [] (fun s =>
    let w32 := s.ty == .e8w32
    let ps := s.points x.q
    { ok := s.tyIs x.ty && tyIsE8 s.ty
      reserved := w32 && sc != 0
      spans := [(x.d, dynSpan s.lanes (tyWidth td) s.sh.vl, 32), (x.a, s.grp, 8)] ++ (if w32 then [] else [(sc, 1, 8)])
      own := none
      poison := s.vPoisoned x.a.toNat s.sew ps || (!w32 && s.vPoisoned sc.toNat 8 (ps.map (· / 4))) }) fun s =>
    let w32 := s.ty == .e8w32
    let w := tyWidth td
    let vl := s.sh.vl
    let f := fmtOf td
    let na := s.vget x.a.toNat s.grp
    let ns := s.vget sc.toNat 1
    let els := (List.range vl).map (fun i =>
      let j := i / 8
      if s.sel x.q (8 * j) then
        let c := elemOf na s.sew j
        let z := (if w32 then e8w32Dec c else e8w16Dec c).getD (i % 8) 0
        some (match zs8 (if w32 then fld c 24 8 else elemOf ns 8 (j / 4)) with
          | .fin _ zm ze =>
            if zm == 0 || z == 0 then (0, 0) else fround f .rne .none (decide (z < 0)) (z.natAbs * zm) 1 (ze - 1)
          | _ => (fmtNaN f, 0))
      else none)
    let ea := els.toArray
    .go ((s.vput x.d.toNat (dynSpan s.lanes w vl) w (fun i => (ea.getD i none).map (·.1))).flag (ewFlags els))

/-! ### VSCAC (R253, R398) -/

/-- A misaligned accumulator group of a VSCAC (R253). -/
def scacBad (pf : Bool) (d p : Reg) : Bool :=
  let k := if pf then 8 else 4
  d.toNat % k != 0 || p.toNat % 4 != 0
/-- VSCAC (R253): P × sa × sb added into each accumulator of the sheaf's own lanes. -/
def execVscac (pf : Bool) (d p a b : Reg) (s : State) : Host.Outcome State Fault Refusal :=
  let i : Instr := .vscac pf d p a b
  s.perform (encode i) (opRuns 0xAD) false [] [] fun s =>
    let k := if pf then 8 else 4
    let L := s.lanes
    if scacBad pf d p then .trap (illegal 1 (encode i)) s
    else if s.accBusy [(d, k, 8), (p, 4, 8), (a, 1, 8), (b, 1, 8)] then .wait .queue s
    else if s.vPoisoned d.toNat 64 (List.range (8 * L * k)) || s.vPoisoned p.toNat 64 (List.range (32 * L)) ||
        s.vPoisoned a.toNat 64 [0, 1] || s.vPoisoned b.toNat 64 ((List.range L).map (8 * ·)) then .trap (tr cMCHK 1 0) s
    else
      let nd := s.vget d.toNat k
      let np := s.vget p.toNat 4
      let va := s.vget a.toNat 1
      let vb := s.vget b.toNat 1
      let r := (accPlaces L (List.range 16)).foldl (fun (acc : Nat × Word) c =>
        let sa := zs8 (fld va (8 * c.1) 8)
        let sb := zs8 (fld vb (512 * c.2.1 + 8 * c.2.2) 8)
        let v := fdec (fmtOf .f32) (fld np (accBit L false c.1 c.2.1 c.2.2) 32)
        let t := accStep (if pf then 1 else 0) L acc.1 c.1 c.2.1 c.2.2 (fmulV (fmulV v sa) sb)
        (t.1, acc.2 ||| t.2)) (nd, 0)
      .go ((s.vput d.toNat k 64 (fun j => some (fld r.1 (64 * j) 64))).flag r.2)

/-! ### Running selections (R401, R402) -/

/-- Registers of a selection state of size `k`. -/
def selRegs (lanes k : Nat) : Nat := ((List.range 4).map (fun j => 2 ^ j)).find? (fun n => decide (96 + 8 * k ≤ n * 64 * lanes)) |>.getD 16
/-- The selection in state bits `n`. -/
def selOf (n k : Nat) : Topk :=
  let b (o w : Nat) := fld n (8 * o) (8 * w)
  ⟨b 76 4, b 68 4, b 72 4, b 64 4, b 16 48, (List.range (leastN (b 80 2) k)).map (fun m => (b (96 + 8 * m) 4, b (100 + 8 * m) 4))⟩
/-- Does a state break a check of R402? -/
def selBad (n k : Nat) : Bool :=
  let b (o w : Nat) := fld n (8 * o) (8 * w)
  b 82 2 != k || b 80 2 != leastN (b 64 4) k || b 64 4 + b 76 4 != b 84 4 || decide (65536 < b 84 4) || b 88 8 != 0
/-- The bits of a state: the selection with its size, rows seen and the two rounded sums, and their flags. -/
def selBits (t : Topk) (k rown : Nat) : Nat × Word :=
  let a := t.sel
  let r := t.rem
  (a.1 + r.1 * 2 ^ 64 + t.fsum * 2 ^ 128 + t.adm * 2 ^ 512 + t.pinf * 2 ^ 544 + t.ninf * 2 ^ 576 + t.nanc * 2 ^ 608 +
    t.pairs.length * 2 ^ 640 + k * 2 ^ 656 + rown * 2 ^ 672 + (packElems 64 (t.pairs.map (fun p => p.1 + p.2 * 2 ^ 32))) * 2 ^ 768,
   (a.2 ||| r.2) &&& (fNX ||| fOF))
/-- VTOPK and VARGMX (R402). -/
def State.select (s : State) (i : Instr) (op : Nat) (new : Bool) (k : Nat) (d a b : Reg) (q : BitVec 4) : Host.Outcome State Fault Refusal :=
  s.perform (encode i) (opRuns op) false [b] [] fun s =>
    let w := selRegs s.lanes k
    let act := s.actives q
    let nd := s.vget d.toNat w
    let rown := if new then 0 else fld nd 672 32
    let chk : VChk :=
      { ok := s.ty == .f32
        reserved := false
        spans := [(d, w, 8), (a, s.grp, 8)]
        own := if (!new && selBad nd k) || decide (65536 < rown + act.length) then some (tr cVTYPE 0 0) else none
        poison := s.vPoisoned a.toNat 32 act || s.poisoned b || (!new && s.vPoisoned d.toNat 64 (List.range (12 + k))) }
    match s.vgate i chk with
    | some e => e
    | none =>
      let na := s.vget a.toNat s.grp
      let base := (s.rd b).toNat
      let t0 : Topk := if new then ⟨0, 0, 0, 0, 0, []⟩ else selOf nd k
      let t := act.foldl (fun t j => t.insert k 4 (elemOf na 32 j) ((base + j) % 2 ^ 32)) t0
      let r := selBits t k (rown + act.length)
      .go ((s.vput d.toNat w 64 (fun j => if j < 12 + k then some (fld r.1 (64 * j) 64) else none)).flag r.2)
/-- VARGMX (R402): a selection of size 1. -/
def execVargmx (new : Bool) (d a b : Reg) (q : BitVec 4) (s : State) : Host.Outcome State Fault Refusal :=
  s.select (.vargmx new d a b q) 0xBC new 1 d a b q
/-- VTOPK (R402). -/
def execVtopk (new : Bool) (k : BitVec 7) (d a b : Reg) (q : BitVec 4) (s : State) : Host.Outcome State Fault Refusal :=
  s.select (.vtopk new k d a b q) 0xBD new k.toNat d a b q

end Sys2Proof.Machine
end

