-- ==== Sys2Proof/Machine/Statex.lean ====
section
/-!
DEFINITION. The statex instructions (R260-R281, R437-R440): set-up, updates, merges in the file, queries, images in memory, and the
merge that a thresher performs.
-/
namespace Sys2Proof.Machine

/-- The bytes of an image. -/
def sxBytes (i : SxImage) : List Byte := leBytes 4160 i.toNat
/-- FT_MCHK for a poisoned statex register (R34). -/
def State.sxBad (s : State) (n : Reg) : Bool := KMap.get false s.cu.sxPoison n.toNat
/-- FT_ALIGN of an image address (R264). -/
def sxAlign (va : Word) : Option TrapInfo := if va.toNat % 64 ≠ 0 then some (tr cALIGN 0 va) else none

/-- Translate every 64-byte line of `n` bytes at `va`, in increasing address, before any is touched (R440). -/
def State.sxLines (s : State) (k : Kind) (va : Word) (n : Nat) : Acc (List (Word × Phys)) :=
  Acc.each (fun j s =>
    let a := va + toW (64 * j)
    (s.xlate s.xc k true a 64 1).bind fun x s => (engTarget a x s).bind fun x s => .ok (a, x) s) (List.range (n / 64)) s
/-- Read an image or a header with plain loads (R265, R267, R279). -/
def State.sxRead (s : State) (va : Word) (n : Nat) : Acc (List Byte) :=
  match s.loadGate plainMem with
  | some w => w.bind fun _ s => .ok [] s
  | none =>
    (s.sxLines .load va n).bind fun l s =>
      (Acc.each (fun (p : Nat × Word × Phys) s => s.loadAt p.1 p.2.1 64 p.2.2) ((List.range l.length).zip l) (s.migrateAll l)).bind
        fun b s => .ok b.flatten s

/-- SXINI (R265). -/
def execSxini (n a : Reg) (m : Bool) (off : BitVec 20) (s : State) : Host.Outcome State Fault Refusal :=
  s.perform (encode (.sxini n a m off)) (opRuns 0xF0) false [a] [a] fun s =>
    if !m then
      match sxInit (s.rd a) with
      | none => .trap (sxTrap 4 (s.rd a)) s
      | some i => .go (s.modCu (fun u => u.setSx n.toNat i))
    else
      let va := s.ea a off
      match sxAlign va with
      | some t => .trap t s
      | none =>
        (s.sxRead va 64).eff fun l s =>
          match sxInitImage (BitVec.ofNat 512 (leVal l)) with
          | none => .trap (sxTrap 4 va) s
          | some i => .go (s.modCu (fun u => u.setSx n.toNat i))
/-- SXCLR (R265). -/
def execSxclr (n : Reg) (s : State) : Host.Outcome State Fault Refusal :=
  s.perform (encode (.sxclr n)) (opRuns 0xF6) false [] [] fun s =>
    if s.sxBad n then .trap (tr cMCHK 2 0) s else .go (s.modCu (fun u => u.setSx n.toNat (sxClear (u.sxOf n.toNat))))
/-- SXTYP (R265): header bytes 7:0. -/
def execSxtyp (d n : Reg) (s : State) : Host.Outcome State Fault Refusal :=
  s.perform (encode (.sxtyp d n)) (opRuns 0xF7) false [d] [] fun s =>
    if s.sxBad n then .trap (tr cMCHK 2 0) s else .go (s.wr d (toW (dfld (s.cu.sxOf n.toNat) 0 8)))

/-- Element `j` of vC of an SXUPD: the cell, key or payload (R438). -/
def State.sxThird (s : State) (sxt : Nat) (c : Reg) : Nat → Nat :=
  let w := if sxt == 6 then 32 else s.sew
  let n := s.vget c.toNat (spanOf s.grp w s.sew)
  fun j => elemOf n w j
/-- SXUPD (R266, R438). -/
def execSxupd (n a : Reg) (q : BitVec 4) (c : Reg) (f : BitVec 2) (ty : Ty) (cell : BitVec 10) (s : State) : Host.Outcome State Fault Refusal :=
  s.perform (encode (.sxupd n a q c f ty cell)) (opRuns 0xF1) false [] [] fun s =>
    let i := s.cu.sxOf n.toNat
    let t := sxType i
    let act := s.actives q
    let wC := if t == 6 then 32 else s.sew
    let third := s.sxThird t c
    let cellOf (j : Nat) : Nat := if f = 2 then third j else cell.toNat
    let chk : VChk :=
      { ok := s.tyIs ty && !tyIsE8 s.ty
        reserved := false
        spans := [(a, s.grp, 8)] ++ (if f = 2 then [(c, spanOf s.grp wC s.sew, 8)] else [])
        own := if !sxAccepts t s.ty f.toNat then some (sxTrap 2 (toW n.toNat))
          else if sxCells t && act.any (fun j => decide (sxP0 i ≤ cellOf j)) then some (sxTrap 3 (toW n.toNat)) else none
        poison := s.vPoisoned a.toNat s.sew act || (f = 2 && s.vPoisoned c.toNat wC act) }
    match s.vgate (.sxupd n a q c f ty cell) chk with
    | some e => e
    | none =>
      if s.sxBad n then .trap (tr cMCHK 2 0) s
      else
        let na := s.vget a.toNat s.grp
        let r := sxApplyAll i s.ty (act.map (fun j => (elemOf na s.sew j, cellOf j, j, low 32 (third j))))
        .go ((s.modCu (fun u => u.setSx n.toNat r.1)).flag (fIf r.2 fSAT))

/-- The end of a merge in the file: the new register, or FT_SXTYPE MISMATCH (R267). -/
def State.sxMergeIn (s : State) (n : Reg) (b : SxImage) (tval : Word) : Eff :=
  match sxMerge (s.cu.sxOf n.toNat) b with
  | none => .trap (sxTrap 1 tval) s
  | some r => .go ((s.modCu (fun u => u.setSx n.toNat r.1)).flag (fIf r.2 fSAT))
/-- SXMRG (R267). -/
def execSxmrg (n a : Reg) (m : Bool) (off : BitVec 20) (s : State) : Host.Outcome State Fault Refusal :=
  s.perform (encode (.sxmrg n a m off)) (opRuns 0xF2) false (if m then [a] else []) (if m then [a] else []) fun s =>
    if !m then
      if s.sxBad n || s.sxBad a then .trap (tr cMCHK 2 0) s else s.sxMergeIn n (s.cu.sxOf a.toNat) (toW n.toNat)
    else
      let va := s.ea a off
      match sxAlign va with
      | some t => .trap t s
      | none => (s.sxRead va 4160).eff fun l s =>
          if s.sxBad n then .trap (tr cMCHK 2 0) s else s.sxMergeIn n (BitVec.ofNat 33280 (leVal l)) va
/-- SXQRY (R268, R439). -/
def execSxqry (d n b : Reg) (rg : Bool) (kind : BitVec 5) (cell : BitVec 10) (s : State) : Host.Outcome State Fault Refusal :=
  let regs := d :: (if rg then [b] else [])
  s.perform (encode (.sxqry d n b rg kind cell)) (opRuns 0xF3) false regs (if rg then [b] else []) fun s =>
    if s.sxBad n then .trap (tr cMCHK 2 0) s
    else
      match sxQuery (s.cu.sxOf n.toNat) kind.toNat (if rg then (s.rd b).toNat else cell.toNat) with
      | .error k => .trap (sxTrap k (toW n.toNat)) s
      | .ok r => .go ((s.wr d (toW r.1)).flag r.2)
/-- SXLD (R279). -/
def execSxld (n a : Reg) (off : BitVec 20) (s : State) : Host.Outcome State Fault Refusal :=
  s.perform (encode (.sxld n a off)) (opRuns 0xF4) false [a] [a] fun s =>
    let va := s.ea a off
    match sxAlign va with
    | some t => .trap t s
    | none =>
      (s.sxRead va 4160).eff fun l s =>
        let i : SxImage := BitVec.ofNat 33280 (leVal l)
        if sxImageOk i then .go (s.modCu (fun u => u.setSx n.toNat i)) else .trap (sxTrap 4 va) s
/-- Can the task's log take the sealed granules of an image, each counted once (R279)? The first that does not fit. -/
def State.sxLogFull (s : State) (l : List (Word × Phys)) : Option Word :=
  let log := s.re.log
  let fresh := l.filterMap (fun p => match p.2 with
    | .hbm pa true => if log.any (fun e => e.addr == pa / 64 * 64) || l.any (fun q => decide (q.1.toNat < p.1.toNat) && q.2 == .hbm pa true) then none else some p.1
    | _ => none)
  (fresh.drop (s.logCap s.cu - log.length)).head?
/-- SXST (R279): whole, or nothing written (R264). -/
def execSxst (n a : Reg) (off : BitVec 20) (s : State) : Host.Outcome State Fault Refusal :=
  s.perform (encode (.sxst n a off)) (opRuns 0xF5) false [a] [a] fun s =>
    let va := s.ea a off
    match sxAlign va with
    | some t => .trap t s
    | none =>
      match s.orderGate false plainMem true with
      | some w => w.eff fun _ s => .go s
      | none =>
        (s.sxLines .store va 4160).eff fun l s =>
          match s.sxLogFull l with
          | some v => .trap (tr cSEALFULL 0 v) s
          | none =>
            if s.sxBad n then .trap (tr cMCHK 2 0) s
            else
              let b := sxBytes (s.cu.sxOf n.toNat)
              ((Acc.each (fun (p : Nat × Word × Phys) s => s.storeAt p.2.1 p.2.2 0 ((b.drop (64 * p.1)).take 64)) ((List.range 65).zip l)
                (s.migrateAll l)).orElseAt s).eff fun _ s => .go s

/-! ### The merge in memory (R280, R440) -/

/-- The one home of an image's lines and their physical addresses there: this package's HBM, or one peer. -/
def sxHome (l : List (Word × Phys)) : Option (Option Nat × List Nat) :=
  let hbm := l.filterMap (fun p => match p.2 with | .hbm pa false => some pa | _ => none)
  let peers := l.filterMap (fun p => match p.2 with | .peer pr pa _ _ _ _ => some (pr, pa) | _ => none)
  if hbm.length == l.length then some (none, hbm)
  else
    match peers with
    | p :: _ => if peers.length == l.length && peers.all (fun q => q.1 == p.1) then some (some p.1, peers.map (·.2)) else none
    | [] => none
/-- The first line whose target a merge may not have: FT_PERM (R280). -/
def sxTargetBad (l : List (Word × Phys)) : Option Word :=
  (l.find? (fun p => match p.2 with | .hbm _ false => false | .peer .. => false | _ => true)).map (·.1)
/-- Post a merge command to the thresher of the stack that holds the image's first byte (R73, R280). -/
def State.postMerge (s : State) (uid agent tag : Nat) (lines : List Nat) (image : SxImage) (peer : Option (Nat × Nat)) : State :=
  let k := stackOf (lines.headD 0)
  { s with thresher := KMap.set [] s.thresher k (KMap.get [] s.thresher k ++ [.merge uid agent tag lines image peer]) }
/-- Send a merge of the executing agent and wait for its reply. -/
def State.sendMerge (s : State) (va : Word) (home : Option Nat) (lines : List Nat) (image : SxImage) : Acc (List Byte) :=
  let u := s.cu
  let t := s.nextTag
  let wait (peer : Nat) (s : State) : State :=
    let n := s.agentNo
    let s : State := { s with nextTag := t + 1 }
    s.modCu (fun u => { u with replies := u.replies ++ [⟨t, n, 0, va, peer, none, none, false⟩] })
  if 256 ≤ s.outstanding then .wait .remote s
  else if s.queueFull (lines.headD 0) && (home.isNone || s.peer == home) then .wait .busy s
  else
    match home with
    | none => .wait .remote ((wait 0 s).postMerge s.uid s.agentNo t lines image none)
    | some p =>
      if s.peerGone p then .trap (peerTrap va p) s
      else if s.peer == some p then
        let r := lines.foldl (fun (acc : Bool × State) pa => let x := acc.2.admits pa p u.part expA; (acc.1 && x.1, x.2)) (true, s)
        if r.1 then .wait .remote ((wait p r.2).postMerge s.uid s.agentNo t lines image none) else .trap (tr cPERM 0 va) r.2
      else .wait .remote (s.request 0 va p (lines.headD 0) (.merge (sxBytes image) lines) none)
/-- The issuing die's copies of the lines of an image at `va` are invalidated (R60). -/
def State.dropImage (s : State) (va : Word) : State :=
  (List.range 65).foldl (fun s j => s.fcDrop (dieOf s.curCore) s.cu.part s.cu.asid (va + toW (64 * j)).toNat) s
/-- What a merge's reply says: an image that did not match, or a saturated counter (R280). -/
def mergeReply (bad sat : Bool) : List Byte := [if bad then 1 else 0, if sat then 1 else 0]
/-- SXST.MRG (R280, R440). -/
def execSxstMrg (n a : Reg) (off : BitVec 20) (s : State) : Host.Outcome State Fault Refusal :=
  s.perform (encode (.sxstMrg n a off)) (opRuns 0xF5) false [a] [a] fun s =>
    let va := s.ea a off
    match sxAlign va with
    | some t => .trap t s
    | none =>
      match s.cu.pendOf s.agentNo 0 with
      | some p =>
        match p.reply with
        | none => .wait .remote s
        | some r =>
          (answer va p.peer r s).eff fun l s =>
            let s := s.dropImage va
            if l.headD 0 = 1 then .trap (sxTrap 1 va) s else .go (s.flag (fIf (l.getD 1 0 = 1) fSAT))
      | none =>
        match s.orderGate false plainMem false with
        | some w => w.eff fun _ s => .go s
        | none =>
          (s.sxLines .atomic va 4160).eff fun l s =>
            match sxTargetBad l with
            | some v => .trap (tr cPERM 0 v) s
            | none =>
              let i := s.cu.sxOf n.toNat
              if sxType i == 6 || sxType i == 7 then .trap (sxTrap 2 (toW n.toNat)) s
              else if s.sxBad n then .trap (tr cMCHK 2 0) s
              else
                match sxHome l with
                | none => .trap (tr cPERM 0 va) s
                | some (h, pas) => (((s.migrateAll l).dropImage va).sendMerge va h pas i).eff fun _ s => .go s

end Sys2Proof.Machine
end

