-- ==== Sys2Proof/Machine/Collective.lean ====
section
/-!
DEFINITION. Collectives: members and groups (R86, R87), the fold rule (R75), plans (R77-R85), MLDR and MSTB (R88-R92), SHGEN
(R197, R375), and the steps of plans, their arrivals and their failures.
-/
namespace Sys2Proof.Machine

/-! ### Member entries, keys and the fold rule -/

/-- Peer number of a member entry (R86). -/
def mePeer (m : BitVec 32) : Nat := fld m.toNat 0 12
/-- Partition of a member entry. -/
def mePart (m : BitVec 32) : Nat := fld m.toNat 12 3
/-- Logical core of a member entry. -/
def meCore (m : BitVec 32) : Nat := fld m.toNat 16 9
/-- Stage of a member entry. -/
def meStage (m : BitVec 32) : Nat := fld m.toNat 25 3
/-- Are the reserved bits of a member entry 0? -/
def meOk (m : BitVec 32) : Bool := !m.getLsbD 15 && fld m.toNat 28 4 == 0
/-- The executing agent's partition is REVOKED (R93, R441). -/
def State.isRevoked (s : State) : Bool := (s.partOf s.cu.part).st == .revoked
/-- FT_REVOKED. -/
def revokedTrap : TrapInfo := tr cREVOKED 0 0
/-- FT_PLAN with a subcode of R79. -/
def planTrap (sub : Nat) (tval : Word) : TrapInfo := tr cPLAN sub tval
/-- Subcodes of FT_PLAN (R79). -/
def plMISMATCH : Nat := 1
def plNORES : Nat := 2
def plBADDESC : Nat := 3
def plDUP : Nat := 4
def plABSENT : Nat := 5
def plFREED : Nat := 6
def plSXTYPE : Nat := 7

/-- Does a PLAN that waits for its members hold key slot `i` (R129)? `f` picks the waits that count. -/
def State.slotHeld (s : State) (i : Nat) (f : PlanWait → Bool) : Bool :=
  s.units.any (fun u => u.2.reeves.any (fun r => match r.2.planWait with
    | some w => f w && (match w.reserve with | some x => x.2 == i | none => false)
    | none => false))
/-- The key slots 16-255 that are free on this package (R129). -/
def State.freeSlots (s : State) : BitVec 256 :=
  BitVec.ofNat 256 (((List.range 256).filter (fun i => decide (16 ≤ i) && KMap.get 0 s.keys i = 0 && !s.slotHeld i (fun _ => true))).map (2 ^ ·)).sum
/-- The enclave of a partition. -/
def State.enclaveOf (s : State) (p : Nat) : Option Enclave :=
  let e := (s.partOf p).enclave
  if e == 0 then none else s.enclaves.find? (fun x => x.id == e)

/-- One later contribution combined with the running value (R75): one rounding, no flag. -/
def foldStep (op : Nat) (t : Ty) (a b : Nat) : Nat :=
  match op, tyIsFloat t with
  | 0, false => amoNew .add t a b
  | 1, false => amoNew .min t a b
  | 2, false => amoNew .max t a b
  | 0, true => (fadd (fmtOf t) a b).1
  | 1, true => fminB (fmtOf t) a b
  | _, true => fmaxB (fmtOf t) a b
  | _, false => low (tyWidth t) a
/-- A contribution converted exactly to the destination type (R75). -/
def foldIn (dt st : Ty) (n : Nat) : Nat := if dt == st then low (tyWidth st) n else (fconvert dt st .rne .none (low (tyWidth st) n)).1
/-- The fold of an element's contributions (rank, value) in rank order (R75), with the NaN rule of R231. -/
def foldElem (op : Nat) (dt st : Ty) (l : List (Nat × Nat)) : Nat :=
  let vs := l.map (fun p => (p.1, fdec (fmtOf st) (low (tyWidth st) p.2)))
  let nan : Option Nat :=
    if !tyIsFloat dt then none else if op == 0 then nanPayload vs else (vs.find? (fun p => isNaN p.2)).map (·.1)
  match nan with
  | some p => fmtNaNP (fmtOf dt) p
  | none =>
    match l.map (fun p => foldIn dt st p.2) with
    | [] => 0
    | x :: t => t.foldl (foldStep op dt) x
/-- The bytes of element `i` of size `n`. -/
def elemAt (b : List Byte) (n i : Nat) : Nat := leVal ((b.drop (n * i)).take n)
/-- The fold of `n` elements of whole contributions. -/
def foldBytes (op : Nat) (dt st : Ty) (n : Nat) (l : List (Nat × List Byte)) : List Byte :=
  let zs := tyWidth st / 8
  (List.range n).flatMap (fun i => leBytes (tyWidth dt / 8) (foldElem op dt st (l.map (fun p => (p.1, elemAt p.2 zs i)))))
/-- The merge of a tile's images in rank order (R94); none for types that do not merge so or do not match. -/
def foldImages (n : Nat) (l : List (Nat × List Byte)) : Option (List Byte) :=
  let img (b : List Byte) (i : Nat) : SxImage := BitVec.ofNat 33280 (elemAt b 4160 i)
  let one (i : Nat) : Option (List Byte) :=
    match l with
    | [] => some (leBytes 4160 0)
    | x :: t =>
      let all := x :: t
      if all.any (fun p => let h := img p.2 i; !sxHeaderOk h || sxType h == 6 || sxType h == 7) then none
      else (t.foldl (fun acc p => acc.bind (fun a => (sxMerge a (img p.2 i)).map (·.1))) (some (img x.2 i))).map sxBytes
  (List.range n).foldl (fun acc i => acc.bind (fun b => (one i).map (fun c => b ++ c))) (some [])

/-! ### Groups (R86) -/

/-- The group a handle names, of the executing task. -/
def State.groupOf (s : State) (h : Nat) : Option Group :=
  if 0x1000 ≤ h && h < 0x1008 then KMap.get none s.re.groups (h - 0x1000) else none
/-- The low 16 bits of a handle register (R441). -/
def handleOf (w : Word) : Nat := fld w.toNat 0 16
/-- Take the lowest free slot of the executing task (R86, R446). -/
def State.takeGroup (s : State) (d : Reg) (tval : Word) (g : Group) : Eff :=
  match (List.range 8).find? (fun i => (KMap.get none s.re.groups i).isNone) with
  | none => .trap (planTrap plNORES tval) s
  | some i => .go ((s.modRe (fun x => { x with groups := KMap.set none x.groups i (some g) })).wr d (toW (0x1000 + i)))
/-- Read `n` bytes as one plain load of the task at element key `k`. -/
def State.plainLoad (s : State) (k : Nat) (va : Word) (n : Nat) : Acc (List Byte) :=
  (s.xlate s.xc .load false va n n).bind fun x s => (s.engCount k va x).loadAt k va n x
/-- Does a group descriptor break its limits (R86, R446)? -/
def groupBad (h : List Byte) (m : List (BitVec 32)) : Bool :=
  let n := leVal ((h.drop 12).take 1)
  n == 0 || decide (64 < n) || leVal ((h.drop 8).take 4) == 0 || leVal (h.drop 13) != 0 || !m.all meOk ||
  !(m.map (fun e => (mePeer e, mePart e))).Nodup
/-- AGSET (R86, R446). -/
def execAgset (d a : Reg) (s : State) : Host.Outcome State Fault Refusal :=
  s.perform (encode (.agset d a)) (opRuns 0xFE) false [d, a] [a] fun s =>
    let va := s.rd a
    if s.isRevoked then .trap revokedTrap s
    else if va.toNat % 16 ≠ 0 then .trap (tr cALIGN 0 va) s
    else
      match s.loadGate plainMem with
      | some w => w.eff fun _ s => .go s
      | none =>
      (s.plainLoad 0 va 16).eff fun h s =>
        let n := leVal ((h.drop 12).take 1)
        (Acc.each (fun k s => s.plainLoad (k + 1) (va + toW (16 + 4 * k)) 4) (List.range n) s).eff fun l s =>
          let m := l.map (fun b => BitVec.ofNat 32 (leVal b))
          if groupBad h m then .trap (planTrap plBADDESC va) s
          else s.takeGroup d va ⟨toW (leVal (h.take 8)), leVal ((h.drop 8).take 4), m⟩
/-- The largest local index of dimension `i` at any owner (R193). -/
def sdMaxLocal (d : Desc) (i : Nat) : Nat :=
  let e := sdExt d i - 1
  if sdAxis d i == 3 then e
  else
    let b := sdBlk d i
    let w := b * sdM d (sdAxis d i)
    e / w * b + (if e % w < b then e % w else b - 1)
/-- The local extent of a descriptor in bytes (R86): from the base to the end of the element with every local index largest. -/
def sdExtent (d : Desc) : Nat := sdSize d * (((sdDims d).map (fun i => sdMaxLocal d i * sdStr d i)).sum + 1)
/-- AGSET from a shard descriptor (R86, R446). -/
def execAgsetSh (d a : Reg) (s : State) : Host.Outcome State Fault Refusal :=
  s.perform (encode (.agsetSh d a)) (opRuns 0xFE) false [d, a] [a] fun s =>
    let u := s.cu
    if s.isRevoked then .trap revokedTrap s
    else
      match s.shDesc u.part u.asid (s.rd a).toNat with
      | none => .trap (tr cSHARD 3 0) s
      | some x =>
        if !sdValid x then .trap (tr cSHARD 3 0) s
        else if 64 < (sdMesh x).length then .trap (planTrap plBADDESC (s.rd a)) s
        else
          let m := (sdMesh x).map (fun c =>
            let p := sdAt x c
            BitVec.ofNat 32 ((if p < 4096 then p else 4095) + u.part % 8 * 4096))
          s.takeGroup d (s.rd a) ⟨sdBase x, sdExtent x, m⟩

/-! ### What a member does (R87, R57, R92) -/

/-- A member's answer code (R89): absent, or refused. -/
def stABSENT : Nat := 1
def stREFUSED : Nat := 2
/-- Where an address of a partition's symmetric space lies in this package's HBM, if it lies there. -/
def State.symPlace (s : State) (p : Nat) (va : Word) : Option Nat :=
  match s.symReady p with
  | none => none
  | some a =>
    match s.leafFor ⟨p, a, true, none⟩ va with
    | some (some l) => if pteType l.pte == 0 then some (pteFrame l.pte * 4096 + va.toNat % l.size) else none
    | _ => none
/-- The HBM lines of a range of a partition's symmetric space. -/
def State.symLines (s : State) (p : Nat) (va : Word) (n : Nat) : List Nat := (lines va n).filterMap (fun q => (s.symPlace p q.1).map (· / 64))
/-- Read `n` bytes at an address of partition `p`'s symmetric space for a peer (R87). Without a domain identity the package is unreachable (R117). -/
def State.memberReadAt (s : State) (p peer rpart : Nat) (va : Word) (n : Nat) : (ReplyStatus × List Byte) × State :=
  match (if s.peer.isNone then none else s.symReady p) with
  | none => ((.unreachable, []), s)
  | some a =>
    match s.symRange p a .load va n peer rpart expR with
    | (.ok l, s) => ((.ok, s.readPieces l), s)
    | (.error .poison, s) => ((.poison, []), s)
    | (.error _, s) => ((.refused, []), s)
/-- The unit index an entry names in a pass: stage and core of a member entry (R92), or a whole unit index, which bit 31 marks (R52);
none outside the pass. -/
def Pass.indexOf (x : Pass) (m : BitVec 32) : Option Nat :=
  if m.getLsbD 31 then (let u := fld m.toNat 0 16; if u < x.x * x.y * x.s then some u else none)
  else if x.s ≤ meStage m || x.x * x.y ≤ meCore m then none
  else some (meStage m * (x.x * x.y) + meCore m)
/-- The unit that an advance for a member entry goes to: of the pass placed most recently in the symmetric space that has not ended
(R92). `some none` where the entry lies outside that pass's grid. -/
def State.memberUnit (s : State) (p asid : Nat) (m : BitVec 32) : Option (Option Nat) :=
  let open' := (s.partOf p).passes.filter (fun x => dfld x.lrec 30 2 == asid && !x.st.over && x.placedAt != 0)
  match open'.foldl (fun (b : Option Pass) x => match b with
    | some y => if y.placedAt < x.placedAt then some x else b
    | none => some x) none with
  | none => none
  | some x =>
    match x.indexOf m with
    | none => some none
    | some idx =>
      some ((s.units.find? (fun u => u.2.live && u.2.part == p && u.2.passId == passIdOf p x.seq && u.2.idx == idx)).map (·.1))
/-- The advance of a member's counter after an MSTB's data is visible (R92), or by an Ethernet ring (R52), at `.dm` where `wide`, else at `.pk`
(R211): to the unit, held, or dropped and counted. -/
def State.memberAdvance (s : State) (p asid n : Nat) (m : BitVec 32) (wide : Bool) : State :=
  match s.memberUnit p asid m with
  | some (some u) => s.advance u n 1 wide
  | some none => s.count tmStaleAdv
  | none =>
    if 256 ≤ (s.partOf p).held.length then s.count tmStaleAdv
    else s.modPart p (fun x => { x with held := x.held ++ [(asid, m, n, wide)] })
/-- An MSTB's store at a member, and its advance (R87, R91, R92). -/
def State.memberStore (s : State) (p peer rpart : Nat) (va : Word) (b : List Byte) (tl : Option Nat) (m : BitVec 32) : ReplyStatus × State :=
  match (if s.peer.isNone then none else s.symReady p) with
  | none => (.unreachable, s)
  | some a =>
    match s.symRange p a .store va b.length peer rpart expW with
    | (.ok l, s) =>
      let s := s.writePieces l b
      (.ok, match tl with
        | some n => s.memberAdvance p a n m true
        | none => s)
    | (.error _, s) => (.refused, s)
/-- MEMBER_READ: a peer's read of this member (R87, R88). -/
def execMemberRead (p peer rpart tag : Nat) (addr : Word) (n : Nat) (s : State) : Host.Outcome State Fault Refusal :=
  let r := s.memberReadAt p peer rpart addr n
  .next (r.2.sendReply p peer tag (s.symLines p addr n) (.peerReply peer tag r.1.1 r.1.2))
/-- MSTB_ARRIVAL: a multicast store lands here (R91, R92). -/
def execMstbArrival (p peer rpart tag : Nat) (addr : Word) (data : List Byte) (tle : Bool) (tl : Nat) (member : BitVec 32) (s : State) :
    Host.Outcome State Fault Refusal :=
  let r := s.memberStore p peer rpart addr data (if tle then some (tl % 16) else none) member
  .next (if r.1 == .ok then r.2.ackStore p (s.symLines p addr data.length) peer tag else r.2.sendReply p peer tag [] (.peerReply peer tag r.1 []))

/-! ### MLDR (R88, R444) -/

/-- One member's part of an MLDR. -/
inductive MemberNow where
  | done (r : ReplyStatus × List Byte) | waiting | send
/-- What stands of member `k` of an executing MLDR or SHGEN. -/
def State.memberNow (s : State) (k : Nat) (e : BitVec 32) : MemberNow :=
  match s.cu.pendOf s.agentNo (memberKey + k) with
  | some p =>
    match p.reply with
    | none => .waiting
    | some r => .done r
  | none => if s.peerGone (mePeer e) then .done (.unreachable, []) else .send
/-- Send member `k`'s read and wait for it. -/
def State.sendMemberRead (s : State) (k : Nat) (e : BitVec 32) (va : Word) (n : Nat) : State :=
  let t := s.nextTag
  let a := s.agentNo
  let s1 : State := { s with nextTag := t + 1 }.sendCol s.cu.part (mePeer e) va.toNat (.memberRead (mePeer e) (mePart e) t va n)
  s1.modCu (fun u => { u with replies := u.replies ++ [⟨t, a, memberKey + k, va, mePeer e, none, none, false⟩] })
/-- Every member's answer to the executing instruction's request, once all have come: the issuing package's own members answer at
once through the same checks (R55). -/
def State.members (s : State) (l : List (BitVec 32)) (own : State → BitVec 32 → (ReplyStatus × List Byte) × State)
    (send : State → Nat → BitVec 32 → State) : Acc (List (ReplyStatus × List Byte)) :=
  let ks := (List.range l.length).zip l
  let local' (e : BitVec 32) : Bool := s.peer == some (mePeer e)
  let todo := ks.filter (fun p => !local' p.2 && (match s.memberNow p.1 p.2 with | .send => true | _ => false))
  if !todo.isEmpty then
    if 256 < s.outstanding + todo.length then .wait .remote s
    else .wait .remote (todo.foldl (fun s p => send s p.1 p.2) s)
  else if ks.any (fun p => !local' p.2 && (match s.memberNow p.1 p.2 with | .waiting => true | _ => false)) then .wait .remote s
  else
    Acc.each (fun (p : Nat × BitVec 32) s =>
      if s.peer == some (mePeer p.2) then let r := own s p.2; .ok r.1 r.2
      else
        match s.memberNow p.1 p.2 with
        | .done r => .ok r s
        | _ => .ok (.unreachable, []) s) ks s
/-- The status of R89: 0, or the lowest absent or refused rank with its code. -/
def memberStatus (l : List ReplyStatus) : Word :=
  match ((List.range l.length).zip l).find? (fun p => p.2 == .unreachable || p.2 == .refused) with
  | some p => toW (p.1 * 2 ^ 16 + (if p.2 == .unreachable then stABSENT else stREFUSED))
  | none => 0
/-- Check a local buffer of the issuing task, piece by piece (R88, R91). -/
def State.colProbe (s : State) (k : Kind) (va : Word) (n al : Nat) : Acc PUnit :=
  (lines va n).foldl (fun acc p => acc.bind fun _ s =>
    (s.xlate s.xc k true p.1 p.2 al).bind fun x s =>
      match x with
      | .shard .. => .trap (tr cPERM 0 p.1) s
      | _ => .ok ⟨⟩ s) (.ok ⟨⟩ s)
/-- Write a local buffer of the issuing task, line by line. -/
def State.colWrite (s : State) (va : Word) (b : List Byte) : Acc PUnit :=
  ((lines va b.length).foldl (fun (acc : List Byte × Acc PUnit) p =>
    (acc.1.drop p.2, acc.2.bind fun _ s =>
      (s.xlate s.xc .store true p.1 p.2 1).bind fun x s => (s.engCount (2 ^ 60) p.1 x).storeAt p.1 x 0 (acc.1.take p.2))) (b, .ok ⟨⟩ s)).2
/-- Read a local buffer of the issuing task, line by line, aligned to `al`. -/
def State.colRead (s : State) (va : Word) (n al : Nat) : Acc (List Byte) :=
  ((lines va n).foldl (fun (acc : Nat × Acc (List Byte)) p =>
    (acc.1 + 1, acc.2.bind fun l s =>
      (s.xlate s.xc .load true p.1 p.2 al).bind fun x s =>
        (engTarget p.1 x s).bind fun x s => ((s.engCount acc.1 p.1 x).loadAt acc.1 p.1 p.2 x).bind fun b s => .ok (l ++ b) s)) (0, .ok [] s)).2
/-- The checks of MLDR and MSTB on the member offset (R88, R91). -/
def offsetTrap (g : Group) (off : Word) (size n : Nat) : Option TrapInfo :=
  if off.toNat % size ≠ 0 then some (tr cALIGN 0 off)
  else if g.len < off.toNat + n * size then some (tr cPERM 0 off)
  else none

/-- MLDR (R88, R444). -/
def execMldr (d a b c : Reg) (op : BitVec 2) (dt st : Ty) (ne : BitVec 12) (s : State) : Host.Outcome State Fault Refusal :=
  s.perform (encode (.mldr d a b c op dt st ne)) (opRuns 0xFC) false [d, a, b, c] [a, b, c] fun s =>
    let n := ne.toNat
    let zd := tyWidth dt / 8
    let zs := tyWidth st / 8
    if s.isRevoked then .trap revokedTrap s
    else
      match s.groupOf (handleOf (s.rd b)) with
      | none => .trap (planTrap plFREED (s.rd b)) s
      | some g =>
        match (if s.inFlight then none else s.loadGate plainMem) with
        | some w => w.eff fun _ s => .go s
        | none =>
          (s.colProbe .store (s.rd a) (n * zd) zd).eff fun _ s =>
            match offsetTrap g (s.rd c) zs n with
            | some t => .trap t s
            | none =>
              let va := g.base + s.rd c
              let me := (s.peer).getD 0
              let part := s.cu.part
              (s.members g.members (fun s e => s.memberReadAt (mePart e) me part va (n * zs))
                (fun s k e => s.sendMemberRead k e va (n * zs))).eff fun l s =>
                let w := memberStatus (l.map (·.1))
                if w ≠ 0 then .go (s.wr d w)
                else if l.any (fun r => r.1 == .poison) then .trap (tr cMCHK 2 va) s
                else
                  let data := (List.range l.length).zip (l.map (·.2))
                  (s.colWrite (s.rd a) (foldBytes op.toNat dt st n data)).eff fun _ s => .go (s.wr d 0)

/-! ### MSTB (R91, R445) -/

/-- Send the store of one member: to itself at once, to a peer as a remote store, or recorded as failed (R65, R71, R91). -/
def State.mstbSend (s : State) (va : Word) (b : List Byte) (tl : Option Nat) (e : BitVec 32) : State :=
  let peer := mePeer e
  let part := s.cu.part
  if s.peerGone peer then s.storeFailed s.uid s.rIdx s.nextTag cMCHK va peer
  else if s.peer == some peer then
    match s.memberStore (mePart e) peer part va b tl e with
    | (.ok, s) => s
    | (.unreachable, s) => s.storeFailed s.uid s.rIdx s.nextTag cMCHK va peer
    | (_, s) => s.storeFailed s.uid s.rIdx s.nextTag cPERM va peer
  else
    let t := s.nextTag
    let n := s.agentNo
    let s1 : State := { s with nextTag := t + 1 }.sendCol part peer va.toNat (.mstb peer (mePart e) t va b tl e)
    s1.modRe (fun x => { x with stores := x.stores ++ [⟨t, n, va, peer, false, 0⟩] })
/-- MSTB (R91, R445). -/
def execMstb (a b c : Reg) (t : Ty) (tle : Bool) (tl : BitVec 4) (ne : BitVec 12) (s : State) : Host.Outcome State Fault Refusal :=
  s.perform (encode (.mstb a b c t tle tl ne)) (opRuns 0xFD) false [a, b, c] [a, b, c] fun s =>
    let z := tyWidth t / 8
    let n := ne.toNat
    if s.isRevoked then .trap revokedTrap s
    else
      match s.groupOf (handleOf (s.rd b)) with
      | none => .trap (planTrap plFREED (s.rd b)) s
      | some g =>
        match s.orderGate false plainMem true with
        | some w => w.eff fun _ s => .go s
        | none =>
          (s.colRead (s.rd a) (n * z) z).eff fun data s =>
            match offsetTrap g (s.rd c) z n with
            | some t => .trap t s
            | none =>
              let va := g.base + s.rd c
              .go (g.members.foldl (fun s e => s.mstbSend va data (if tle then some tl.toNat else none) e) s)

/-! ### SHGEN (R197, R375) -/

/-- A member's install of a descriptor (R197): only a newer generation is written. -/
def State.shInstall (s : State) (p handle : Nat) (d : Desc) : ReplyStatus × State :=
  match (if s.peer.isNone then none else s.symReady p) with
  | none => (.unreachable, s)
  | some a =>
    match s.shDesc p a handle with
    | none => (.refused, s)
    | some x => (.ok, if genNewer (sdGen d) (sdGen x) then s.shWrite p a handle d else s)
/-- Answer a sharded request of a peer. -/
def State.answerShard (s : State) (p : Nat) (q : ShardReq) (st : Nat) (items : List (Nat × List Byte)) (d : Desc) : State :=
  s.sendReply p q.peer q.tag [] (.shardAnswer q.peer q.tag st items d)
/-- Serve again what waited for an install of partition `p` (R198). -/
def State.shRelease (s : State) (p : Nat) : State :=
  let held := s.shardHeld.filter (fun h => h.part == p)
  let s : State := { s with shardHeld := s.shardHeld.filter (fun h => h.part != p) }
  held.foldl (fun s h =>
    if s.shardOut.any (fun o => o.tag == h.req.tag) && s.peer == some h.req.peer then s.shardLocal p h.req
    else
      match s.serveShard p h.req with
      | (.hold, s) => { s with shardHeld := s.shardHeld ++ [h] }
      | (.absent, s) => s.answerShard p h.req shGONE [] 0
      | (.refused, s) => s.answerShard p h.req shREFUSED [] 0
      | (.poison, s) => s.answerShard p h.req shPOISON [] 0
      | (.stale d, s) => s.answerShard p h.req shSTALE [] d
      | (.done l, s) => s.answerShard p h.req shOK l 0) s
/-- Send member `k` a descriptor and wait for its answer. -/
def State.sendInstall (s : State) (k : Nat) (e : BitVec 32) (handle : Nat) (d : Desc) : State :=
  let t := s.nextTag
  let a := s.agentNo
  let s1 : State := { s with nextTag := t + 1 }.sendCol s.cu.part (mePeer e) 0 (.shgen (mePeer e) (mePart e) t handle d)
  s1.modCu (fun u => { u with replies := u.replies ++ [⟨t, a, memberKey + k, 0, mePeer e, none, none, false⟩] })
/-- SHGEN (R197, R375). -/
def execShgen (d a b : Reg) (s : State) : Host.Outcome State Fault Refusal :=
  s.perform (encode (.shgen d a b)) (opRuns 0x7B) true [d, a, b] [a, b] fun s =>
    let u := s.cu
    let h := (s.rd a).toNat
    match s.groupOf (handleOf (s.rd b)) with
    | none => .trap (planTrap plFREED (s.rd b)) s
    | some g =>
      match s.shDesc u.part u.asid h with
      | none => .trap (tr cSHARD 3 0) s
      | some x =>
        match (if s.inFlight then none else s.ackGate (ackNeed 4 0)) with
        | some w => w.eff fun _ s => .go s
        | none =>
          (s.members g.members (fun s e => let r := s.shInstall (mePart e) h x; ((r.1, []), r.2.shRelease (mePart e)))
            (fun s k e => s.sendInstall k e h x)).eff fun l s => .go (s.wr d (memberStatus (l.map (·.1))))
/-- SHGEN_INSTALL: a peer's descriptor arrives at member partition `p` (R197). -/
def execShgenInstall (p handle : Nat) (desc : BitVec 512) (peer tag : Nat) (s : State) : Host.Outcome State Fault Refusal :=
  let r := s.shInstall p handle desc
  .next ((r.2.shRelease p).sendReply p peer tag [] (.shgenAnswer peer tag (if r.1 == .ok then 0 else if r.1 == .unreachable then stABSENT else stREFUSED)))

/-! ### Plan descriptors (R77-R80) -/

/-- COUNT. -/
def pdCount (d : Desc) : Nat := dfld d 4 4
/-- OP. -/
def pdOp (d : Desc) : Nat := dfld d 12 1
/-- TL. -/
def pdTl (d : Desc) : Nat := fld (dfld d 13 1) 0 4
/-- MYRANK. -/
def pdRank (d : Desc) : Nat := dfld d 14 2
/-- NMEM. -/
def pdMembers (d : Desc) : Nat := dfld d 16 2
/-- NTENT. -/
def pdEntries (d : Desc) : Nat := dfld d 18 2
/-- TILEN. -/
def pdTile (d : Desc) : Nat := dfld d 20 4
/-- size(STYPE), 4,160 for images. -/
def pdSrcSize (d : Desc) : Nat := if pdOp d == 3 then 4160 else tyWidth ((tyOf (dfld d 10 1)).getD .i8) / 8
/-- size(DTYPE), 4,160 for images. -/
def pdDstSize (d : Desc) : Nat := if pdOp d == 3 then 4160 else tyWidth ((tyOf (dfld d 11 1)).getD .i8) / 8
/-- NT. -/
def pdTiles (d : Desc) : Nat := ceilDiv (pdCount d) (pdTile d)
/-- TB of R80. -/
def pdTB (d : Desc) : Nat := pdTile d * pdSrcSize d
/-- The elements of tile `t`: the last one is short. -/
def pdLen (d : Desc) (t : Nat) : Nat := if pdCount d < (t + 1) * pdTile d then pdCount d - t * pdTile d else pdTile d
/-- The address of source tile `t`. -/
def pdSrc (d : Desc) (t : Nat) : Word := toW (dfld d 56 8) + toW (t * pdTB d)
/-- The address of result tile `t`. -/
def pdDst (d : Desc) (t : Nat) : Word := toW (dfld d 40 8) + toW (t * pdTile d * pdDstSize d)
/-- Fields of a tile-table entry (R80). -/
def teKind (e : BitVec 128) : Nat := dfld e 5 1
def teTile (e : BitVec 128) : Nat := dfld e 6 2
def teAddr (e : BitVec 128) : Word := toW (dfld e 8 8)
/-- The ranks of an entry in increasing order. -/
def teRanks (e : BitVec 128) : List Nat :=
  (List.range (fld (dfld e 0 4) 10 11)).map (fun j => fld (dfld e 0 4) 0 10 + j * fld (dfld e 0 4) 21 10)
/-- Does a tile-table entry break its limits? -/
def teBad (d : Desc) (e : BitVec 128) : Bool :=
  let r := dfld e 0 4
  decide (2 < teKind e) || dfld e 4 1 != 0 || decide (pdTiles d ≤ teTile e) || r.testBit 31 || fld r 10 11 == 0 ||
  decide (1024 < fld r 10 11) || fld r 21 10 == 0 || decide (pdMembers d ≤ fld r 0 10 + (fld r 10 11 - 1) * fld r 21 10)
/-- Does a plan descriptor break its limits, its table apart (R77)? -/
def pdBad (d : Desc) : Bool :=
  let types :=
    if pdOp d == 3 then dfld d 10 1 == 0 && dfld d 11 1 == 0
    else match tyOf (dfld d 11 1), tyOf (dfld d 10 1) with
      | some dt, some st => decide (pdOp d < 3) && reduceTy dt st
      | _, _ => false
  dfld d 8 2 != 0 || fld (dfld d 13 1) 4 4 != 0 || !types || pdTile d == 0 || decide (65536 < pdTile d) || pdEntries d == 0 ||
  decide (4096 < pdEntries d) || pdMembers d == 0 || decide (1024 < pdMembers d) || decide (pdMembers d ≤ pdRank d) || pdCount d == 0 ||
  decide (65536 < pdTiles d) || dfld d 32 8 % 16 != 0
/-- Are all pages of a buffer of a permitted target type, and none SEALED (R77)? -/
def State.bufferOk (s : State) (part asid uid : Nat) (types : List Nat) (va : Word) (n : Nat) : Bool :=
  (chunks va n).all (fun c =>
    canonical c.1 &&
    match s.leafFor ⟨part, asid, false, some uid⟩ c.1 with
    | some (some l) => leafOk l && types.contains (pteType l.pte) && !pteSealed l.pte
    | _ => false)
/-- Are the buffers of a plan of the right target types (R77)? The staging buffer is the slots its FOLD entries read. -/
def State.buffersOk (s : State) (d : Desc) (table : List (BitVec 128)) : Bool :=
  let u := s.cu
  let ok := s.bufferOk u.part u.asid s.uid
  ok [0, 1, 2] (pdSrc d 0) (pdCount d * pdSrcSize d) && ok [0] (pdDst d 0) (pdCount d * pdDstSize d) && ok [0] (toW (dfld d 48 8)) 1 &&
  table.all (fun e => teKind e != 1 || (teRanks e).all (fun q => q == pdRank d || ok [0] (teAddr e + toW (q * pdTB d)) (pdTB d)))
/-- The digest of a member list (R78). -/
def memberDigest (m : List (BitVec 32)) : Word := m.foldl (fun h e => zh64 (zx64 e) h) 0
/-- The signature of a plan (R78). -/
def planSigOf (d : Desc) (m : List (BitVec 32)) : BitVec 256 :=
  BitVec.ofNat 256 (dfld d 0 4 + pdCount d * 2 ^ 32 + dfld d 10 1 * 2 ^ 64 + dfld d 11 1 * 2 ^ 72 + pdOp d * 2 ^ 80 + pdMembers d * 2 ^ 88 +
    (memberDigest m).toNat * 2 ^ 104)
/-- What plans and waiting PLANs have reserved of a resource: (amount, plans). -/
def State.reservedOf (s : State) (key : Nat) : Nat :=
  let sum (l : List (Nat × Nat)) : Nat := ((l.filter (fun p => p.1 == key)).map (·.2)).sum
  (s.plans.map (fun p => sum p.reserve)).sum +
  (s.units.map (fun u => (u.2.reeves.map (fun r => match r.2.planWait with
    | some w => sum ((w.reserve.map (·.1)).getD [])
    | none => 0)).sum)).sum
/-- The class with the fewest plans on a port, with that number (R78). -/
def State.portClass (s : State) (p : Nat) : Nat × Nat :=
  (List.range 8).foldl (fun b c => let n := s.reservedOf (resPort p c); if n < b.2 then (c, n) else b) (0, s.reservedOf (resPort p 0))
/-- The stack on which a plan's result tile begins. -/
def State.tileStack (s : State) (part asid uid : Nat) (d : Desc) (t : Nat) : Nat :=
  match s.leafFor ⟨part, asid, false, some uid⟩ (pdDst d t) with
  | some (some l) => stackOf (pteFrame l.pte * 4096 + (pdDst d t).toNat % l.size)
  | _ => 0
/-- What this member must reserve (R78); none when a thresher or a port cannot. -/
def State.planReserve (s : State) (d : Desc) (m : List (BitVec 32)) (table : List (BitVec 128)) : Option (List (Nat × Nat)) :=
  let u := s.cu
  let folds := (table.filter (fun e => teKind e == 1)).map (fun e => s.tileStack u.part u.asid s.uid d (teTile e))
  let perStack := folds.eraseDups.map (fun k => let f := (folds.filter (· == k)).length; (resStack k, if f < 64 then f else 64))
  let ports := ((table.filter (fun e => teKind e != 1)).flatMap (fun e => (teRanks e).flatMap (fun q => s.routePorts (mePeer (m.getD q 0))))).eraseDups
  let cls := ports.map (fun p => (p, s.portClass p))
  if perStack.any (fun x => decide (384 < s.reservedOf x.1 + x.2)) || cls.any (fun x => decide (64 ≤ x.2.2)) then none
  else some (perStack ++ cls.map (fun x => (resPort x.1 x.2.1, 1)))

/-! ### PLAN (R78, R442) -/

/-- Deliver a signature to partition `p` of this package, in place of an earlier one of that rank. -/
def State.takeSig (s : State) (g : PlanSig) : State :=
  { s with sigs := s.sigs.filter (fun x => !(x.part == g.part && x.planId = g.planId && x.rank == g.rank)) ++ [g] }
/-- Send this member's signature to every other rank. -/
def State.sendSigs (s : State) (w : PlanWait) (sig : BitVec 256) (reserved : Bool) : State :=
  let id := BitVec.ofNat 32 (dfld w.desc 0 4)
  let me := pdRank w.desc
  ((List.range w.members.length).zip w.members).foldl (fun s p =>
    if p.1 == me then s
    else if s.peer == some (mePeer p.2) then s.takeSig ⟨mePart p.2, id, me, sig, w.slots, reserved⟩
    else s.sendCol s.cu.part (mePeer p.2) 0 (.planSig (mePeer p.2) (mePart p.2) id me sig w.slots reserved)) s
/-- A PLAN is over: forget its signatures and the wait. -/
def State.planForget (s : State) (id : BitVec 32) : State :=
  let p := s.cu.part
  let s1 : State := { s with sigs := s.sigs.filter (fun x => !(x.part == p && x.planId = id)) }
  s1.modRe (fun x => { x with planWait := none })
/-- The key slot of a plan (R129): 0 outside an enclave, none when no slot was free on every member. Every member chooses from the same
announcements. -/
def State.planSlot (s : State) (w : PlanWait) (sigs : List PlanSig) : Option Nat :=
  match s.enclaveOf s.cu.part with
  | none => some 0
  | some e => if e.key == 0 then none else (List.range 256).find? (fun i => w.slots.getLsbD i && sigs.all (fun g => g.slots.getLsbD i))
/-- Has another plan taken a key slot on this package since it was announced? Member partitions of one plan share it. -/
def State.slotTaken (s : State) (slot : Nat) (id : BitVec 32) : Bool :=
  slot != 0 && (s.plans.any (fun q => q.keySlot == slot && q.planId ≠ id) || s.slotHeld slot (fun w => dfld w.desc 0 4 != id.toNat))
/-- Bind the plan key (R129): ENCLID, EPOCH, PLANID and the digest of the member list are its info. -/
def State.bindPlanKey (s : State) (slot : Nat) (w : PlanWait) : State :=
  match s.enclaveOf s.cu.part with
  | none => s
  | some e =>
    let k := hkdf384 e.key (leBytes 2 e.id ++ leBytes 8 e.epoch ++ leBytes 4 (dfld w.desc 0 4) ++ leBytes 8 (memberDigest w.members).toNat)
    if KMap.get 0 s.keys slot = k then s else s.loadKey slot k
/-- The lowest handle no plan of a partition has; its plans number at most 4,096. -/
def State.freeHandle (s : State) (p : Nat) : Option Nat :=
  (List.range 4096).find? (fun h => !s.plans.any (fun x => x.part == p && x.handle == h))
/-- A member this PLAN cannot reach (R79, R87). -/
def State.memberGone (s : State) (e : BitVec 32) : Bool :=
  s.peerGone (mePeer e) || (s.peer == some (mePeer e) && (s.symReady (mePart e)).isNone)
/-- Steps 2 and 3 of R78: the exchange, the reservation and the handle. A signature of zeros says that its member gave up: it was
absent, or it could not reserve. -/
def State.planExchange (s : State) (d : Reg) (va : Word) (w : PlanWait) : Eff :=
  let u := s.cu
  let id := BitVec.ofNat 32 (dfld w.desc 0 4)
  let me := pdRank w.desc
  let mine := s.sigs.filter (fun g => g.part == u.part && g.planId = id && g.rank != me)
  let give (sub : Nat) (s : State) : Eff := .trap (planTrap sub va) (s.planForget id)
  if w.members.any (fun e => s.memberGone e) then give plABSENT (s.sendSigs w 0 false)
  else if mine.any (fun g => g.sig = 0 && !g.reserved) then give plABSENT s
  else if mine.any (fun g => g.sig = 0) then give plNORES s
  else if mine.any (fun g => g.sig ≠ w.sig) then give plMISMATCH s
  else if !(List.range w.members.length).all (fun q => q == me || mine.any (fun g => g.rank == q)) then .wait .plan s
  else
    match w.reserve with
    | none =>
      match s.planReserve w.desc w.members w.table, (s.planSlot w mine).filter (fun k => !s.slotTaken k id) with
      | some r, some k =>
        let w' := { w with reserve := some (r, k) }
        .wait .plan ((s.sendSigs w w.sig true).modRe (fun x => { x with planWait := some w' }))
      | _, _ => give plNORES (s.sendSigs w 0 true)
    | some r =>
      if !mine.all (fun g => g.reserved) then .wait .plan s
      else
        match s.freeHandle u.part with
        | some h =>
          let p : Plan := ⟨u.part, h, u.passId, s.uid, s.rIdx, u.asid, id, w.desc, w.members, w.table, [], [], [], r.2, none, r.1⟩
          let s1 : State := { s with plans := s.plans ++ [p] }
          .go (((s1.bindPlanKey r.2 w).planForget id).wr d (toW h))
        | none => give plNORES (s.sendSigs w 0 true)
/-- Read `n` bytes as loads of the task (R77), every fault of which names the descriptor's address (R442). -/
def State.planRead (s : State) (key : Nat) (va tval : Word) (n : Nat) : Acc (List Byte) :=
  match ((lines va n).foldl (fun (acc : Nat × Acc (List Byte)) p =>
      (acc.1 + 1, acc.2.bind fun l s =>
        (s.xlate s.xc .load true p.1 p.2 1).bind fun x s =>
          (engTarget p.1 x s).bind fun x s => ((s.engCount acc.1 p.1 x).loadAt acc.1 p.1 p.2 x).bind fun b s => .ok (l ++ b) s)) (key, .ok [] s)).2 with
  | .trap t s => .trap { t with tval := tval } s
  | x => x
/-- PLAN (R78, R442). -/
def execPlan (d a : Reg) (s : State) : Host.Outcome State Fault Refusal :=
  s.perform (encode (.plan d a)) (opRuns 0xF8) false [d, a] [a] fun s =>
    let va := s.rd a
    let u := s.cu
    if s.isRevoked then .trap revokedTrap s
    else
      match s.re.planWait with
      | some w => s.planExchange d va w
      | none =>
        if va.toNat % 64 ≠ 0 then .trap (tr cALIGN 0 va) s
        else
          match s.loadGate plainMem with
          | some w => w.eff fun _ s => .go s
          | none =>
          (s.planRead 0 va va 64).eff fun l s =>
            let x : Desc := BitVec.ofNat 512 (leVal l)
            if pdBad x then .trap (planTrap plBADDESC va) s
            else
              (s.planRead 1 (toW (dfld x 24 8)) va (4 * pdMembers x)).eff fun lm s =>
                (s.planRead 100 (toW (dfld x 32 8)) va (16 * pdEntries x)).eff fun lt s =>
                  let m := (List.range (pdMembers x)).map (fun k => BitVec.ofNat 32 (elemAt lm 4 k))
                  let t := (List.range (pdEntries x)).map (fun k => BitVec.ofNat 128 (elemAt lt 16 k))
                  let own := m.getD (pdRank x) 0
                  if !m.all meOk || t.any (teBad x) || s.peer != some (mePeer own) || mePart own != u.part || !s.buffersOk x t then
                    .trap (planTrap plBADDESC va) s
                  else if s.plans.any (fun p => p.part == u.part && p.planId.toNat == dfld x 0 4) then .trap (planTrap plDUP va) s
                  else if decide (4096 ≤ (s.plans.filter (fun p => p.part == u.part)).length) ||
                      decide (64 ≤ (s.plans.filter (fun p => p.uid == s.uid && p.reeve == s.rIdx)).length) then .trap (planTrap plNORES va) s
                  else
                    let id := BitVec.ofNat 32 (dfld x 0 4)
                    let mine := s.sigs.find? (fun g => g.part == u.part && g.planId = id && g.rank == pdRank x)
                    let w : PlanWait := ⟨x, m, t, planSigOf x m, (mine.map (·.slots)).getD s.freeSlots, none⟩
                    let s := match mine with
                      | some g => if g.sig = w.sig then s else s.sendSigs w w.sig false
                      | none => s.sendSigs w w.sig false
                    let s := s.takeSig ⟨u.part, id, pdRank x, w.sig, w.slots, false⟩
                    (s.modRe (fun r => { r with planWait := some w })).planExchange d va w
/-- PLAN_SIGNATURE: a member's signature arrives (R78). A partition that is absent as a member says so (R87). -/
def execPlanSignature (p : Nat) (src : PeerPart) (planId : BitVec 32) (rank : Nat) (sig : BitVec 256) (offer : MemberOffer) (s : State) :
    Host.Outcome State Fault Refusal :=
  if s.peer.isNone || (s.symReady p).isNone then .next (s.sendCol p src.peer 0 (.planAbort src.peer src.part planId (BitVec.ofNat 16 plABSENT)))
  else .next (s.takeSig ⟨p, planId, rank, sig, offer.slots, offer.reserved⟩)

/-! ### Rounds (R81, R82) -/

/-- The plan that a handle names in a partition. -/
def State.planAt (s : State) (p h : Nat) : Option Plan := s.plans.find? (fun x => x.part == p && x.handle == h)
/-- Apply `f` to a plan. -/
def State.modPlan (s : State) (p h : Nat) (f : Plan → Plan) : State :=
  { s with plans := s.plans.map (fun x => if x.part == p && x.handle == h then f x else x) }
/-- Tile `t` of a plan. -/
def Plan.tile (p : Plan) (t : Nat) : Tile := KMap.get Tile.idle p.tiles t
/-- Apply `f` to tile `t` of a plan. -/
def Plan.modTile (p : Plan) (t : Nat) (f : Tile → Tile) : Plan := { p with tiles := KMap.upd Tile.idle p.tiles t f }
/-- The entries of tile `t`, in table order. -/
def Plan.entries (p : Plan) (t : Nat) : List (BitVec 128) := p.table.filter (fun e => teTile e == t)
/-- The entry a tile's round stands at. -/
def Plan.entry (p : Plan) (t : Nat) : Option (BitVec 128) :=
  let x := p.tile t
  if x.running then (p.entries t)[x.entry]? else none
/-- Does any round of a plan run? -/
def Plan.busy (p : Plan) : Bool := p.failed.isNone && p.tiles.any (fun x => x.2.running)
/-- May a plan perform a step (R84, R93)? -/
def State.planRuns (s : State) (p : Plan) : Bool := p.failed.isNone && (s.partOf p.part).st != .revoked
/-- The translation of a plan's own accesses (R87). -/
def Plan.xc (p : Plan) : XCtx := { part := p.part, asid := p.asid, keep := false, uid := some p.uid }
/-- The entry a tile stands at has completed here: the next one follows, or the round is over (R80, R81). -/
def Plan.stepDone (p : Plan) (t : Nat) : Plan :=
  let n := (p.entries t).length
  p.modTile t (fun x => { x with entry := x.entry + 1, issued := false, unacked := [], running := decide (x.entry + 1 < n) })
/-- A plan fails at this member (R84): it performs no further step, its unfinished result tiles hold free values but for tile `keep`, which stays
unwritten (R94), and its counter stops. -/
def State.failPlanBut (s : State) (p h sub : Nat) (keep : Option Nat) : State :=
  match s.planAt p h with
  | none => s
  | some x =>
    if x.failed.isSome then s
    else
      let s := (List.range (pdTiles x.desc)).foldl (fun s t =>
        if (x.tile t).final || keep == some t then s
        else
          let n := pdLen x.desc t * pdDstSize x.desc
          match s.writeVA x.xc x.uid none (pdDst x.desc t) ((List.range n).map (fun i => Config.tileByte (s.fresh + t) i)) with
          | .ok _ s => s
          | _ => s) s
      let s : State := { s with fresh := s.fresh + pdTiles x.desc }
      s.modPlan p h (fun y => { y with failed := some (BitVec.ofNat 16 sub), tiles := y.tiles.map (fun z => (z.1, { z.2 with running := false, flag := false })) })
/-- A plan fails at this member (R84). -/
def State.failPlan (s : State) (p h sub : Nat) : State := s.failPlanBut p h sub none
/-- A result tile is final here: the plan's counter advances by 1 at `.dm` (R82). -/
def State.tileDone (s : State) (p h t : Nat) : State :=
  match s.planAt p h with
  | none => s
  | some x => (s.modPlan p h (fun y => y.modTile t (fun z => { z with final := true }))).advance x.uid (pdTl x.desc) 1 true
/-- Free the plan key and forget the plan (R85, R129). -/
def State.dropPlan (s : State) (x : Plan) : State :=
  { s with plans := s.plans.filter (fun y => !(y.part == x.part && y.handle == x.handle)) }.dropPlanKey x.keySlot
/-- Set the flag of one tile. -/
def State.fireTile (s : State) (p h t : Nat) : State := s.modPlan p h (fun y => y.modTile t (fun z => { z with flag := true }))
/-- A trigger word at the doorbell of partition `p` (R81): ignored and counted where it names no tiles of a live plan. -/
def State.trigger (s : State) (p : Nat) (w : Word) : State :=
  let n := w.toNat
  let lo := fld n 16 16
  let hi := fld n 32 16
  match s.planAt p (fld n 0 12) with
  | none => s.count tmTrigger
  | some x =>
    if fld n 12 4 != 0 || fld n 48 16 != 0 || decide (hi < lo) || decide (pdTiles x.desc ≤ hi) || !s.planRuns x then s.count tmTrigger
    else
      (List.range (hi + 1 - lo)).foldl (fun s j =>
        match s.planAt p (fld n 0 12) with
        | some y => if (y.tile (lo + j)).flag then s.count tmTrigger else s.fireTile p (fld n 0 12) (lo + j)
        | none => s) s

/-- PLFREE (R85, R442). -/
def execPlfree (a : Reg) (s : State) : Host.Outcome State Fault Refusal :=
  s.perform (encode (.plfree a)) (opRuns 0xF9) false [a] [a] fun s =>
    let h := handleOf (s.rd a)
    let freed : Eff := .trap (planTrap plFREED (toW h)) s
    if s.isRevoked then .trap revokedTrap s
    else if 0x1000 ≤ h then
      if (s.groupOf h).isNone then freed
      else .go (s.modRe (fun x => { x with groups := KMap.set none x.groups (h - 0x1000) none }))
    else
      match s.planAt s.cu.part h with
      | none => freed
      | some p =>
        match p.failed with
        | some f =>
          if f.toNat == plFREED || f.toNat == plABSENT || f.toNat == plSXTYPE then .go (s.dropPlan p) else .trap (planTrap f.toNat (toW h)) s
        | none => if p.busy then .wait .plan s else .go (s.dropPlan p)
/-- CRDY (R81, R443). -/
def execCrdy (a b : Reg) (s : State) : Host.Outcome State Fault Refusal :=
  s.perform (encode (.crdy a b)) (opRuns 0xFA) false [a, b] [a, b] fun s =>
    let h := handleOf (s.rd a)
    if s.isRevoked then .trap revokedTrap s
    else
      match (if h < 0x1000 then s.planAt s.cu.part h else none) with
      | none => .trap (planTrap plFREED (toW h)) s
      | some p =>
        match p.failed with
        | some f => .trap (planTrap f.toNat (toW h)) s
        | none =>
          if pdTiles p.desc ≤ (s.rd b).toNat then .trap (planTrap plBADDESC (toW h)) s
          else
            match s.ackGate (ackNeed 4 0) with
            | some w => w.eff fun _ s => .go s
            | none => if (p.tile (s.rd b).toNat).flag then .wait .plan s else .go (s.fireTile p.part h (s.rd b).toNat)
/-- CFIRE (R81, R443). -/
def execCfire (a : Reg) (s : State) : Host.Outcome State Fault Refusal :=
  s.perform (encode (.cfire a)) (opRuns 0xFB) false [a] [a] fun s =>
    let h := fld (s.rd a).toNat 0 12
    if s.isRevoked then .trap revokedTrap s
    else
      match s.planAt s.cu.part h with
      | none => .trap (planTrap plFREED (toW h)) s
      | some p =>
        match p.failed with
        | some f => .trap (planTrap f.toNat (toW h)) s
        | none =>
          match s.ackGate (ackNeed 4 0) with
          | some w => w.eff fun _ s => .go s
          | none => .go (s.trigger p.part (s.rd a))
/-- TRIGGER_DOORBELL: a write to PCTRIG (R81, R99), which ends an idle state (R111) and is dropped in SAFE (R114). -/
def execTriggerDoorbell (p : Nat) (w : Word) (s : State) : Host.Outcome State Fault Refusal :=
  let t : State := { s with idle := .active }
  .next (if s.mgst == .safe || decide (8 ≤ p) then t else t.trigger p w)

/-- ROUND_START (R81): the flag clears and a new round of the tile's entries begins. -/
def execRoundStart (p h tile : Nat) (s : State) : Host.Outcome State Fault Refusal :=
  match s.planAt p h with
  | none => .next s
  | some x =>
    let t := x.tile tile
    if !s.planRuns x || !t.flag || t.running then .next s
    else .next (s.modPlan p h (fun y => y.modTile tile (fun z =>
      { z with flag := false, running := !(x.entries tile).isEmpty, entry := 0, round := z.round + 1, issued := false, unacked := [], final := false })))

/-- Where the first byte of a plan's own buffer address lies in this package's HBM. -/
def State.planPlace (s : State) (x : Plan) (va : Word) : Option Nat :=
  match s.leafFor x.xc va with
  | some (some l) => if pteType l.pte == 0 then some (pteFrame l.pte * 4096 + va.toNat % l.size) else none
  | _ => none
/-- The local address of rank `q`'s slot for a FOLD entry (R80). -/
def foldSlot (d : Desc) (e : BitVec 128) (q : Nat) : Word := teAddr e + toW (q * pdTB d)
/-- Is a place the slot of some FOLD entry of a plan? -/
def State.foldReads (s : State) (x : Plan) (pa : Nat) : Bool :=
  x.table.any (fun e => teKind e == 1 && (teRanks e).any (fun q => q != pdRank x.desc && s.planPlace x (foldSlot x.desc e q) == some pa))
/-- May a contribution for place `pa` not be held, since the plan's reserved entries on that stack are in use (R78, R82)? -/
def Plan.holdFull (x : Plan) (pa : Nat) : Bool :=
  let k := stackOf pa
  decide (((x.reserve.filter (fun r => r.1 == resStack k)).map (·.2)).sum ≤
    (x.heldC.filter (fun h => match h.1 with | c :: _ => stackOf c.1 == k | [] => false)).length)
/-- Data for a plan's buffer that the thresher does not take now: a line of it is busy, or it would be held and cannot (R74, R82). -/
def State.blocked (s : State) (x : Plan) (put : Bool) (va : Word) (n : Nat) : Bool :=
  (lines va n).any (fun p => match s.symPlace x.part p.1 with | some pa => s.lineBusy pa | none => false) ||
  (!put && (match s.symPlace x.part va with | some pa => x.arrived.contains pa && x.holdFull pa | none => false))
/-- A contribution reaches a staging slot of this member (R82): held while the slot's last one is unread. What no FOLD reads is written at once. -/
def State.takeContribution (s : State) (x : Plan) (va : Word) (b : List Byte) (peer rpart : Nat) : ReplyStatus × State :=
  match s.symReady x.part with
  | none => (.unreachable, s)
  | some a =>
    match s.symRange x.part a .store va b.length peer rpart expW with
    | (.ok l, s) =>
      let pa := (l.headD (0, 0)).1
      if x.arrived.contains pa then (.ok, s.modPlan x.part x.handle (fun y => { y with heldC := y.heldC ++ [(l, b)] }))
      else
        let s1 := s.writePieces l b
        (.ok, if s.foldReads x pa then s1.modPlan x.part x.handle (fun y => { y with arrived := y.arrived ++ [pa] }) else s1)
    | (.error _, s) => (.refused, s)
/-- A final tile reaches this member (R82). -/
def State.takeFinal (s : State) (x : Plan) (tile : Nat) (va : Word) (b : List Byte) (peer rpart : Nat) : ReplyStatus × State :=
  match s.symReady x.part with
  | none => (.unreachable, s)
  | some a =>
    match s.symRange x.part a .store va b.length peer rpart expW with
    | (.ok l, s) => (.ok, (s.writePieces l b).tileDone x.part x.handle tile)
    | (.error _, s) => (.refused, s)
/-- The live plan of a partition with a tag. -/
def State.planById (s : State) (p : Nat) (id : BitVec 32) : Option Plan := s.plans.find? (fun x => x.part == p && x.planId = id)
/-- Take a contribution or a final tile for the plan of a partition with a tag: the failure that the sender's plan then has, or 0. A freed plan
refuses with FREED (R85); one that has failed, or a member that is absent or refuses, fails the sender with ABSENT (R84). -/
def State.takeTile (s : State) (p : Nat) (id : BitVec 32) (put : Bool) (tile : Nat) (va : Word) (b : List Byte) (peer rpart : Nat) : Nat × State :=
  match s.planById p id with
  | none => (plFREED, s)
  | some y =>
    if !s.planRuns y then (plABSENT, s)
    else
      match (if put then s.takeFinal y tile va b peer rpart else s.takeContribution y va b peer rpart) with
      | (.ok, s) => (0, s)
      | (_, s) => (plABSENT, s)
/-- Send a tile of a running plan to one rank: at once where it is this package (R55), else as a message whose acceptance the entry
waits for. -/
def State.sendTile (s : State) (x : Plan) (put : Bool) (tile : Nat) (va : Word) (b : List Byte) (q : Nat) : State :=
  let e := x.members.getD q 0
  let peer := mePeer e
  let me := (s.peer).getD 0
  if s.peerGoneFor x.part peer then s.failPlan x.part x.handle plABSENT
  else if s.peer == some peer then
    let r := s.takeTile (mePart e) x.planId put tile va b me x.part
    if r.1 == 0 then r.2 else r.2.failPlan x.part x.handle r.1
  else
    let t := s.nextTag
    let s1 : State := { s with nextTag := t + 1 }.sendPlan x.part x.handle peer (if put then .planResult peer (mePart e) x.planId t tile va b
      else .planData peer (mePart e) x.planId t tile (pdRank x.desc) va b)
    (s1.modPlan x.part x.handle (fun y => y.modTile tile (fun z => { z with unacked := z.unacked ++ [t] }))).modPass x.part (passSeq x.passId)
      (fun y => { y with sends := y.sends ++ [(t, peer)] })
/-- Does the data of an entry wait at a member on this package? -/
def State.sendWaits (s : State) (x : Plan) (e : BitVec 128) (put : Bool) (va : Word) (n : Nat) : Bool :=
  (teRanks e).any (fun q =>
    let m := x.members.getD q 0
    s.peer == some (mePeer m) && (match s.planById (mePart m) x.planId with | some y => s.blocked y put va n | none => false))
/-- A plan's own read of its buffers; a page that no longer grants it fails the plan with BADDESC. -/
def State.planLoad (s : State) (x : Plan) (va : Word) (n : Nat) : Option (List Byte) × State :=
  match s.readVA x.xc [] va n with
  | .ok b s => (some b, s)
  | .trap _ s => (none, s.failPlan x.part x.handle plBADDESC)
  | .wait _ s => (none, s)
/-- The entry that a step of the given kind acts on. -/
def State.stepEntry (s : State) (p h tile kind : Nat) : Option (Plan × BitVec 128) :=
  match s.planAt p h with
  | none => none
  | some x =>
    if !s.planRuns x then none
    else (x.entry tile).bind (fun e => if teKind e == kind then some (x, e) else none)
/-- End a SEND or PUT entry once every target has accepted the data (R80). -/
def State.sendDone (s : State) (p h tile : Nat) : State :=
  match s.planAt p h with
  | some x => if (x.tile tile).issued && (x.tile tile).unacked.isEmpty && (x.tile tile).running then s.modPlan p h (fun y => y.stepDone tile) else s
  | none => s
/-- A SEND or PUT entry sends its tile to every rank of its set in increasing order (R80). -/
def State.sendAll (s : State) (x : Plan) (e : BitVec 128) (put : Bool) (tile : Nat) : State :=
  let d := x.desc
  if (x.tile tile).issued then s
  else
    match s.planLoad x (if put then pdDst d tile else pdSrc d tile) (pdLen d tile * (if put then pdDstSize d else pdSrcSize d)) with
    | (none, s) => s
    | (some b, s) =>
      let va := if put then teAddr e else teAddr e + toW (pdRank d * pdTB d)
      if s.sendWaits x e put va b.length then s
      else
      let s := s.modPlan x.part x.handle (fun y => y.modTile tile (fun z => { z with issued := true, unacked := [] }))
      let s := (teRanks e).foldl (fun s q =>
        match s.planAt x.part x.handle with
        | some y => if y.failed.isSome then s else s.sendTile x put tile va b q
        | none => s) s
      s.sendDone x.part x.handle tile
/-- SEND_STEP (R80). -/
def execSendStep (p h tile : Nat) (s : State) : Host.Outcome State Fault Refusal :=
  match s.stepEntry p h tile 0 with
  | none => .next s
  | some (x, e) => .next (s.sendAll x e false tile)
/-- PUT_STEP (R80). -/
def execPutStep (p h tile : Nat) (s : State) : Host.Outcome State Fault Refusal :=
  match s.stepEntry p h tile 2 with
  | none => .next s
  | some (x, e) => .next (s.sendAll x e true tile)
/-- Put the held contributions of folded slots into staging (R82). -/
def State.unhold (s : State) (x : Plan) : List (List (Nat × Nat) × List Byte) → State
  | [] => s
  | c :: rest =>
    let pa := (c.1.headD (0, 0)).1
    match s.planAt x.part x.handle with
    | none => s
    | some y =>
      if y.arrived.contains pa then (s.modPlan x.part x.handle (fun y => { y with heldC := y.heldC ++ [c] })).unhold x rest
      else ((s.writePieces c.1 c.2).modPlan x.part x.handle (fun y => { y with arrived := y.arrived ++ [pa] })).unhold x rest
/-- Does a thresher hold a command for a line of a plan's own buffer (R74)? -/
def State.bufferBusy (s : State) (x : Plan) (va : Word) (n : Nat) : Bool :=
  (lines va n).any (fun p => match s.planPlace x p.1 with | some pa => s.lineBusy pa | none => false)
/-- FOLD_STEP (R80, R75, R94): once every contribution of the round is here, and no line it touches is busy (R74). -/
def execFoldStep (p h tile : Nat) (s : State) : Host.Outcome State Fault Refusal :=
  match s.stepEntry p h tile 1 with
  | none => .next s
  | some (x, e) =>
    let d := x.desc
    let n := pdLen d tile
    let me := pdRank d
    let src (q : Nat) : Word := if q == me then pdSrc d tile else foldSlot d e q
    let gone := (teRanks e).any (fun q => s.peerGoneFor p (mePeer (x.members.getD q 0)))
    let waits := (teRanks e).any (fun q => q != me && (match s.planPlace x (foldSlot d e q) with | some pa => !x.arrived.contains pa | none => false))
    if waits then .next (if gone then s.failPlan p h plABSENT else s)
    else if s.bufferBusy x (pdDst d tile) (n * pdDstSize d) || (teRanks e).any (fun q => s.bufferBusy x (src q) (n * pdSrcSize d)) then .next s
    else
      match Acc.each (fun q s => s.readVA x.xc [] (src q) (n * pdSrcSize d)) (teRanks e) s with
      | .trap _ s => .next (s.failPlan p h plBADDESC)
      | .wait _ s => .next s
      | .ok l s =>
        let cs := (teRanks e).zip l
        let out := if pdOp d == 3 then foldImages n cs
          else some (foldBytes (pdOp d) ((tyOf (dfld d 11 1)).getD .i8) ((tyOf (dfld d 10 1)).getD .i8) n cs)
        match out with
        | none => .next (s.failPlanBut p h plSXTYPE (some tile))
        | some b =>
          match s.writeVA x.xc x.uid none (pdDst d tile) b with
          | .trap _ s => .next (s.failPlan p h plBADDESC)
          | .wait _ s => .next s
          | .ok _ s =>
            let used := ((teRanks e).filter (· != me)).filterMap (fun q => s.planPlace x (foldSlot d e q))
            let s := s.modPlan p h (fun y => { y with heldC := [], arrived := y.arrived.filter (fun a => !used.contains a) }.stepDone tile)
            .next ((s.unhold x x.heldC).tileDone p h tile)
/-- Data of a peer's plan reaches the member partition `p` (R80, R82, R85): it waits while the thresher does not take it (R74), and its sender is
told of its acceptance or refusal. -/
def State.tileArrives (s : State) (p peer rpart tag : Nat) (id : BitVec 32) (put : Bool) (tile : Nat) (va : Word) (b : List Byte) : State :=
  match s.planById p id with
  | some y =>
    if s.blocked y put va b.length then s
    else
      let r := s.takeTile p id put tile va b peer rpart
      r.2.sendPlan p y.handle peer (.planAnswer peer tag r.1)
  | none => s.sendCol p peer 0 (.planAnswer peer tag plFREED)
/-- CONTRIBUTION_ARRIVAL: a member's source tile reaches its staging slot here (R80, R82). -/
def execContributionArrival (p : Nat) (src : PeerPart) (tag : Nat) (planId : BitVec 32) (addr : Word) (data : List Byte) (s : State) :
    Host.Outcome State Fault Refusal :=
  .next (s.tileArrives p src.peer src.part tag planId false 0 addr data)
/-- TILE_FINAL: a PUT's data is visible here and the tile is final (R82). -/
def execTileFinal (p : Nat) (src : PeerPart) (tag : Nat) (q : PlanTile) (addr : Word) (data : List Byte) (s : State) :
    Host.Outcome State Fault Refusal :=
  .next (s.tileArrives p src.peer src.part tag q.planId true q.tile addr data)
/-- PLAN_FAILURE (R84): a member became unreachable, refused, or freed the plan, or images did not match. -/
def execPlanFailure (p h : Nat) (sub : BitVec 16) (s : State) : Host.Outcome State Fault Refusal := .next (s.failPlan p h sub.toNat)

end Sys2Proof.Machine
end

