-- ==== Sys2Proof/Machine/Control.lean ====
section
/-!
DEFINITION. Control transfer: branches, jumps and the gate (R352, R353, R306).
-/
namespace Sys2Proof.Machine

/-- A word offset from the executing word (R352). -/
def State.wordTarget {n : Nat} (s : State) (off : BitVec n) : Word := s.pc + sx64 off * 8

/-- BC (R352): to `pc + SignExt(x) × 8` when the condition holds, else to the next word. -/
def execBc (c : Cond) (a b : Reg) (off : BitVec 32) (s : State) : Host.Outcome State Fault Refusal :=
  s.perform (encode (.bc c a b off)) (opRuns 0x50) false [a, b] [a, b] fun s =>
    if condHolds c (s.rd a) (s.rd b) then .jump s (s.wordTarget off) else .go s
/-- J (R352). -/
def execJ (off : BitVec 48) (s : State) : Host.Outcome State Fault Refusal :=
  s.perform (encode (.j off)) (opRuns 0x51) false [] [] fun s => .jump s (s.wordTarget off)
/-- JL (R352): the link register takes the next word's address. -/
def execJl (d : Reg) (off : BitVec 48) (s : State) : Host.Outcome State Fault Refusal :=
  s.perform (encode (.jl d off)) (opRuns 0x52) false [d] [] fun s => .jump (s.wr d (s.pc + 8)) (s.wordTarget off)
/-- JR (R352): the target is read before the link is written, and must be word-aligned. -/
def execJr (d a : Reg) (off : BitVec 32) (s : State) : Host.Outcome State Fault Refusal :=
  s.perform (encode (.jr d a off)) (opRuns 0x53) false [d, a] [a] fun s =>
    let t := s.rd a + sx64 off
    if t.toNat % 8 ≠ 0 then .trap (tr cALIGN 0 t) s else .jump (s.wr d (s.pc + 8)) t

/-- The number of gate table entries (R304). -/
def gateCount (base : Word) : Nat := fld base.toNat 0 12 + 1
/-- The address of gate table entry `i` (R304, R305). -/
def gateAddr (base : Word) (i : Nat) : Word := toW (base.toNat / 4096 * 4096 + 32 * i)
/-- MODE byte of an entry (R305). -/
def gateMode (e : Nat) : Nat := fld e 0 8
/-- HANDLER of an entry. -/
def gateHandler (e : Nat) : Word := toW (fld e 64 64)
/-- MASK of an entry. -/
def gateMask (e : Nat) : Word := toW (fld e 128 64)
/-- An entry that a call may use: valid, reserved bits clear, HANDLER aligned (R305, R306). -/
def gateOk (e : Nat) : Bool :=
  (gateMode e).testBit 7 && fld e 1 6 == 0 && fld e 8 56 == 0 && fld e 192 64 == 0 && (gateHandler e).toNat % 8 == 0
/-- Read gate table entry `i` as keeper-mode hardware of the calling reeve (log 15). -/
def State.gateEntry (s : State) (i : Nat) : Acc Nat :=
  (s.readVA { s.xc with keep := true } [] (gateAddr (s.partOf s.cu.part).gatebase i) 32).bind fun l s => .ok (leVal l) s

/-- GATE (R306): the checks in their order, the gate link, then the entry's mode, mask mode and handler. -/
def execGate (imm : BitVec 16) (s : State) : Host.Outcome State Fault Refusal :=
  s.perform (encode (.gate imm)) (opRuns 0x54) false [] [] fun s =>
    if imm = 0 ∨ gateCount (s.partOf s.cu.part).gatebase ≤ imm.toNat then .trap (tr cGATE 1 0) s
    else if s.re.mode = .keeper ∨ s.re.link.isSome then .trap (tr cGATE 2 0) s
    else
      (s.gateEntry imm.toNat).eff fun e s =>
        if !gateOk e then .trap (tr cGATE 4 0) s
        else
          .jump (s.modRe (fun x =>
            { x with
              link := some ⟨x.pc + 8, x.mode, x.mask⟩, mode := if (gateMode e).testBit 0 then .keeper else .task
              mask := gateMask e })) (gateHandler e)
/-- GRET (R306): the mode, the mask mode and the program counter come back from the gate link, which empties. -/
def execGret (s : State) : Host.Outcome State Fault Refusal :=
  s.perform (encode .gret) (opRuns 0x55) false [] [] fun s =>
    match s.re.link with
    | none => .trap (tr cGATE 3 0) s
    | some l => .jump (s.modRe (fun x => { x with mode := l.mode, mask := l.mask, link := none })) l.ret

end Sys2Proof.Machine
end

