-- ==== Sys2Proof/Machine/Matrix.lean ====
section
/-!
DEFINITION. The matrix unit: the configuration and the matrix instructions at issue (R244-R247, R427-R433), and the events that
perform their entries (R248-R259): K-blocks, row-group starts, drained rows, zeroing and completions.
-/
namespace Sys2Proof.Machine

/-! ### Operand pairs (R244, R429) -/

/-- The A and B types of a pair code. -/
def pairTys (p : Nat) : Ty × Ty :=
  let narrow (k : Nat) : Ty := match k with | 0 => .i3 | 1 => .i4 | 2 => .e8w16 | _ => .e8w32
  match p with
  | 0 => (.e4m3, .e4m3) | 1 => (.e4m3, .e5m2) | 2 => (.e5m2, .e4m3) | 3 => (.e5m2, .e5m2)
  | 4 | 5 | 6 | 7 => (.e4m3, narrow (p - 4))
  | 8 | 9 | 10 | 11 => (.e5m2, narrow (p - 8))
  | 12 => (.bf16, .e4m3) | 13 => (.bf16, .e5m2) | 14 => (.bf16, .bf16)
  | 15 | 16 | 17 | 18 => (.bf16, narrow (p - 15))
  | 19 => (.e4m3, .bf16) | 20 => (.e5m2, .bf16) | 21 => (.f32, .f32) | _ => (.f64, .f64)
/-- KB of a pair. -/
def pairKB (p : Nat) : Nat := if p < 4 then 16 else if p < 12 then 32 else 8
/-- Bits of memory that one K element of a type takes (R248). -/
def kBits : Ty → Nat
  | .i3 => 3 | .i4 => 4 | .e8w16 => 2 | .e8w32 => 4 | t => tyWidth t
/-- Address and stride alignment of a type (R248). -/
def kAlign : Ty → Nat
  | .bf16 => 2 | .f32 => 4 | .f64 => 8 | .e8w16 => 2 | .e8w32 => 4 | _ => 1
/-- Narrow weight types, whose K is a multiple of 32 (R244). -/
def narrowTy : Ty → Bool
  | .i3 | .i4 | .e8w16 | .e8w32 => true
  | _ => false
/-- The window width of a pair (R236). -/
def pairWindow (p : Nat) : Nat := if p < 12 then 25 else 40
/-- The values of the elements packed in a list of bytes; E8 components are doubled and E8W32 scales are applied (R249). -/
def kVals (t : Ty) (n : Nat) (b : List Byte) : List FVal :=
  let v := leVal b
  match t with
  | .i4 => (List.range n).map (fun i => let x := sInt 4 (fld v (4 * i) 4); .fin (decide (x < 0)) x.natAbs 0)
  | .i3 => (List.range n).map (fun i => let x := sInt 3 (fld v (3 * i) 3); .fin (decide (x < 0)) x.natAbs 0)
  | .e8w16 => (List.range (n / 8)).flatMap (fun j => (e8w16Dec (fld v (16 * j) 16)).map (fun x => .fin (decide (x < 0)) x.natAbs 0))
  | .e8w32 => (List.range (n / 8)).flatMap (fun j =>
      let c := fld v (32 * j) 32
      (e8w32Dec c).map (fun x => fmulV (.fin (decide (x < 0)) x.natAbs 0) (zs8 (fld c 24 8))))
  | t => (List.range n).map (fun i => fdec (fmtOf t) (fld v (tyWidth t * i) (tyWidth t)))

/-! ### Block sums (R236, R238, R239) -/

/-- The special values of a block's products, if they govern (R238). -/
def blockSpecial (ps : List FVal) : Option FVal :=
  if ps.any (fun p => match p with | .nan _ => true | _ => false) then some (.nan true)
  else
    let pos := ps.any (fun p => match p with | .inf n => !n | _ => false)
    let neg := ps.any (fun p => match p with | .inf n => n | _ => false)
    if pos && neg then some (.nan true) else if pos then some (.inf false) else if neg then some (.inf true) else none
/-- A sum of integers in units of 2^lo: −0 only where every product is −0. -/
def blockZero (ps : List FVal) (v lo : Int) : FVal :=
  if v == 0 then .fin (ps.all (fun p => isZero p && isNeg p)) 0 0 else .fin (decide (v < 0)) v.natAbs lo
/-- The windowed block sum (R236) with NX when a truncation discards a nonzero bit; `half` halves an E8 sum. -/
def windowSum (w : Nat) (half : Bool) (ps : List FVal) : FVal × Word :=
  match blockSpecial ps with
  | some v => (v, 0)
  | none =>
    let tops : List Int := ps.filterMap (fun p => match p with | .fin _ m e => if m == 0 then none else some ((m.log2 : Int) + e) | _ => none)
    match tops with
    | [] => (blockZero ps 0 0, 0)
    | t :: ts =>
      let lsb : Int := ts.foldl (fun a b => if a < b then b else a) t - (w : Int) + 1
      let terms : List (Int × Bool) := ps.map (fun p => match p with
        | .fin n m e =>
          if lsb ≤ e then (scaled n m e lsb, false)
          else
            let k := (lsb - e).toNat
            ((if n then -((m >>> k : Nat) : Int) else (m >>> k : Nat)), m % 2 ^ k != 0)
        | _ => (0, false))
      (blockZero ps ((terms.map (·.1)).sum) (if half then lsb - 1 else lsb), fIf (terms.any (·.2)) fNX)
/-- The value of the low `k` balanced base-256 digits of X (R239). -/
def lowDigits (x : Int) : Nat → Int
  | 0 => 0
  | k + 1 =>
    let d := (x + 128) % 256 - 128
    d + 256 * lowDigits ((x - d) / 256) k
/-- An operand cut to its `n` most significant slices of `m` (R239). -/
def sliced (m n : Nat) (x : FVal) : FVal :=
  match x with
  | .fin neg v e =>
    let i : Int := if neg then -(v : Int) else v
    let y := i - lowDigits i (m - n)
    if y == 0 then .fin neg 0 e else .fin (decide (y < 0)) y.natAbs e
  | v => v
/-- The exact block sum of a sliced pair (R239). -/
def exactSum (ps : List FVal) : FVal :=
  match blockSpecial ps with
  | some v => v
  | none =>
    let lo : Int := ps.foldl (fun a p => match p with | .fin _ _ e => if e < a then e else a | _ => a) 0
    blockZero ps ((ps.map (fun p => match p with | .fin n m e => scaled n m e lo | _ => 0)).sum) lo
/-- BlockSum(r, c, kb) of R251 from a row's and a column's values. -/
def blockSum (pair slices : Nat) (a b : List FVal) : FVal × Word :=
  if pair < 21 then
    let t := (pairTys pair).2
    windowSum (pairWindow pair) (tyIsE8 t) ((a.zip b).map (fun p => fmulV p.1 p.2))
  else
    let m := if pair == 21 then 4 else 7
    (exactSum ((a.zip b).map (fun p => fmulV (sliced m slices p.1) (sliced m slices p.2))), 0)

/-! ### Issue (R246, R247, R427-R433) -/

/-- ACC, TL, RSTEP and SC of a matrix configuration (R246). -/
def cfgAcc (w : Word) : Nat := fld w.toNat 0 2
def cfgTl (w : Word) : Nat := fld w.toNat 8 4
def cfgStep (w : Word) : Nat := fld w.toNat 12 3
def cfgSc (w : Word) : Bool := w.toNat.testBit 15
/-- Does a value break R246? -/
def cfgBad (w : Word) : Bool := fld w.toNat 16 48 != 0 || fld w.toNat 2 6 != 0 || cfgAcc w == 3 || decide (4 < cfgStep w)
/-- MCFG (R246, R432). -/
def execMcfg (a b : Reg) (s : State) : Host.Outcome State Fault Refusal :=
  s.perform (encode (.mcfg a b)) (opRuns 0xE0) false [a, b] [a, b] fun s =>
    if cfgBad (s.rd a) then .trap (illegal 1 (s.rd a)) s
    else .go (s.modRe (fun x => { x with mcfg := s.rd a, t0 := s.rd b }))

/-- The named sheaves (R433). -/
def named (sn sm : Nat) : List Nat := (List.range (sm + 1 - sn)).map (sn + ·)
/-- R247 step 1: SN ≤ SM < n, all owned by the issuing reeve. -/
def State.namedOk (s : State) (sn sm : Nat) : Bool := decide (sn ≤ sm) && (named sn sm).all (fun k => s.cu.owns s.rIdx k)
/-- N: four times the lanes of the named sheaves (R157). -/
def Unit.tileN (u : Unit) (sn sm : Nat) : Nat := 4 * (32 / u.nSheaves) * (sm + 1 - sn)
/-- The first of a list of (value, alignment) that is misaligned: FT_ALIGN with the value as the address (R247 step 4). -/
def alignFirst (l : List (Word × Nat)) : Option TrapInfo := (l.find? (fun p => p.1.toNat % p.2 != 0)).map (fun p => tr cALIGN 0 p.1)
/-- An entry with nothing performed. -/
def MEntry.fresh (k : MKind) (s : State) : MEntry :=
  { kind := k, reeve := s.rIdx, iaddr := s.pc, pair := 0, fmt := 0, kBlocks := 0, sn := 0, sm := 0, vd := 0, acc := 0, a := 0, sa := 0,
    b := 0, sb := 0, c := 0, tl := 0, adv := true, start := none, startMet := 0, started := false, rows := 0, kb := 0, flags := 0,
    seq := s.cu.issue, ord := s.nextTag, vt := none, fault := none, reported := false }
/-- Take a queue entry and retire, or wait for one (R164, R158 step 3). -/
def State.matPost (s : State) (e : MEntry) : Eff :=
  let r := s.rIdx
  if s.lpartHeld || decide (32 ≤ (s.cu.mq.filter (fun x => x.reeve == r)).length) then .wait .queue s
  else
    .go ({ s with nextTag := s.nextTag + 1 }.modCu (fun u =>
      let u := { u with mq := u.mq ++ [e], issue := u.issue + 1 }
      (if e.start.isSome then u.modReeve r (fun x => { x with mcfg := toW (putFld x.mcfg.toNat 15 1 0) }) else u).captureVt e.sn))

/-- MMA at issue (R430). -/
def execMma (x : MmaArgs) (s : State) : Host.Outcome State Fault Refusal :=
  let i : Instr := .mma x
  let regs := [x.a, x.a + 1, x.b, x.c]
  s.perform (encode i) (opRuns 0xE1) false regs regs fun s =>
    let p := x.pair.toNat
    let k := (x.kx.toNat + 1) * pairKB p
    let ty := pairTys p
    let cfg := s.re.mcfg
    let w := if cfgAcc cfg == 0 then 4 else 8
    if !s.namedOk x.sn.toNat x.sm.toNat then .trap (wrongCtx i) s
    else if narrowTy ty.2 && k % 32 != 0 then .trap (illegal 1 (encode i)) s
    else if x.d.toNat % w != 0 || (cfgAcc cfg == 2) != (p == 22) then .trap (tr cVTYPE 0 0) s
    else
      match alignFirst [(s.rd x.a, kAlign ty.1), (s.rd (x.a + 1), kAlign ty.1), (s.rd x.b, kAlign ty.2), (s.rd x.c, kAlign ty.2)] with
      | some t => .trap t s
      | none =>
        s.matPost { MEntry.fresh .mma s with
          pair := x.pair
          kBlocks := x.kx.toNat + 1
          sn := x.sn.toNat
          sm := x.sm.toNat
          vd := x.d.toNat
          acc := BitVec.ofNat 2 (cfgAcc cfg)
          a := s.rd x.a
          sa := s.rd (x.a + 1)
          b := s.rd x.b
          sb := s.rd x.c
          tl := x.tl.toNat
          start := if cfgSc cfg then some (cfgTl cfg, cfgStep cfg, s.re.t0) else none }

/-- The alignment of a drain format (R254). -/
def drnAlign (f : Nat) : Nat := match f with | 0 => 8 | 1 => 4 | 2 => 2 | 5 => 2 | _ => 1
/-- MDRN at issue (R431). -/
def execMdrn (x : MdrnArgs) (s : State) : Host.Outcome State Fault Refusal :=
  let i : Instr := .mdrn x
  let f := x.fmt.toNat
  let regs := [x.a, x.b] ++ (if 3 ≤ f then [x.c] else [])
  s.perform (encode i) (opRuns 0xE2) false regs regs fun s =>
    let acc := cfgAcc s.re.mcfg
    let w := if acc == 0 then 4 else 8
    if !s.namedOk x.sn.toNat x.sm.toNat then .trap (wrongCtx i) s
    else if x.d.toNat % w != 0 || (acc == 2) != (f == 0) then .trap (tr cVTYPE 0 0) s
    else
      match alignFirst [(s.rd x.a, drnAlign f), (s.rd x.b, drnAlign f)] with
      | some t => .trap t s
      | none =>
        s.matPost { MEntry.fresh .mdrn s with
          fmt := x.fmt
          sn := x.sn.toNat
          sm := x.sm.toNat
          vd := x.d.toNat
          acc := BitVec.ofNat 2 acc
          a := s.rd x.a
          sa := s.rd x.b
          c := s.rd x.c
          tl := x.tl.toNat }
/-- MZRO at issue (R432). -/
def execMzro (d : Reg) (sn sm : BitVec 3) (t : Bool) (tl : BitVec 4) (s : State) : Host.Outcome State Fault Refusal :=
  let i : Instr := .mzro d sn sm t tl
  s.perform (encode i) (opRuns 0xE3) false [] [] fun s =>
    let acc := cfgAcc s.re.mcfg
    if !s.namedOk sn.toNat sm.toNat then .trap (wrongCtx i) s
    else if d.toNat % (if acc == 0 then 4 else 8) != 0 then .trap (tr cVTYPE 0 0) s
    else
      s.matPost { MEntry.fresh .mzro s with
        sn := sn.toNat
        sm := sm.toNat
        vd := d.toNat
        acc := BitVec.ofNat 2 acc
        tl := tl.toNat
        adv := t }
/-- MRPG (R258, R432): the flags of completed blocks and rows go to `%vfx` of the named sheaves; discard the reeve's entries, advance their counters in issue order, clear `%rowp`. -/
def execMrpg (s : State) : Host.Outcome State Fault Refusal :=
  s.perform (encode .mrpg) (opRuns 0xE4) false [] [] fun s =>
    let r := s.rIdx
    let uid := s.uid
    let gone := s.cu.mq.filter (fun e => e.reeve == r)
    let s1 := s.modCu (fun u => { u.modReeve r (fun x => { x with rowp := 0 }) with
      mq := u.mq.filter (fun e => e.reeve != r)
      replies := u.replies.filter (fun p => p.agent != matNo r) })
    let s1 := gone.foldl (fun s e => s.modUnit uid (fun u =>
      (named e.sn e.sm).foldl (fun u k => u.modSheaf k (fun x => { x with vfx := x.vfx ||| e.flags })) u)) s1
    .go (gone.foldl (fun s e => s.matAdvance uid e) s1)

/-! ### Performing entries (R251-R257) -/

/-- The reeve's oldest entry. -/
def Unit.matHead (u : Unit) (r : Nat) : Option MEntry := u.mq.find? (fun e => e.reeve == r)
/-- Replace the reeve's oldest entry. -/
def setHead (r : Nat) (e : MEntry) : List MEntry → List MEntry
  | [] => []
  | x :: t => if x.reeve == r then e :: t else x :: setHead r e t
/-- Drop the reeve's oldest entry. -/
def dropHead (r : Nat) : List MEntry → List MEntry
  | [] => []
  | x :: t => if x.reeve == r then t else x :: dropHead r t
/-- `%rowp` for an entry (R256). -/
def rowpOf (e : MEntry) : Word :=
  toW (2 ^ 63 + (match e.kind with | .mma => 1 | .mdrn => 2 | .mzro => 0) * 2 ^ 24 + e.rows % 32 * 2 ^ 16 + e.kb % 1024)
/-- Record an entry's progress in the queue and in `%rowp`. -/
def State.setEntry (s : State) (uid r : Nat) (e : MEntry) : State :=
  s.modUnit uid (fun u => { u.modReeve r (fun x => { x with rowp := rowpOf e }) with mq := setHead r e u.mq })
/-- The entry stops before its failing K-block or row (R257). -/
def State.faultEntry (s : State) (uid r : Nat) (e : MEntry) (t : TrapInfo) : State :=
  (s.setEntry uid r { e with started := true, fault := some t, reported := false }).wake uid r
/-- May the reeve's oldest entry progress: its unit is on its core, it is of this kind, and it is not faulted. -/
def State.matReady (s : State) (uid r : Nat) (k : MKind) : Option MEntry :=
  let u := s.unitOf uid
  if !u.live || u.place != .running then none
  else
    match u.matHead r with
    | some e => if e.kind == k && e.fault.isNone then some e else none
    | Option.none => Option.none
/-- Do blocks dispatched before an entry still hold its accumulators (R164)? -/
def Unit.accHeld (u : Unit) (e : MEntry) : Bool :=
  (named e.sn e.sm).any (fun k => u.blockBefore k e.seq (fun x => mayTouch x e.vd (accRegs e.acc.toNat)))
/-- `%vt` of the lowest-numbered named sheaf at the entry's place (R250); none while an earlier block may still write it. -/
def Unit.entryVt (u : Unit) (e : MEntry) : Option Word :=
  match e.vt with
  | some v => some v
  | Option.none => if u.blockBefore e.sn e.seq mayVsett then Option.none else some (u.sheafOf e.sn).vt
/-- What an MMA's start finds: it must wait, it faults (R250), or its slice count. -/
def Unit.startSlices (u : Unit) (e : MEntry) : Option (Except TrapInfo Nat) :=
  if e.pair.toNat < 21 then some (.ok 0)
  else
    (u.entryVt e).map (fun v => if vtIlf v || vtSlices v == 0 then .error (tr cVTYPE 0 0) else .ok (vtSlices v))
/-- The bits of an accumulator group of sheaf `k`, without renaming. -/
def accGroup (u : Unit) (k : Nat) (e : MEntry) : Nat :=
  vgroup { u.sheafOf k with slp := 0 } (32 / u.nSheaves) e.vd (accRegs e.acc.toNat)
/-- Write an accumulator group of sheaf `k`. -/
def accWrite (u : Unit) (k : Nat) (e : MEntry) (n : Nat) : Unit :=
  u.modSheaf k (fun x => { x with v := (vgroupSet { x with slp := 0 } (32 / u.nSheaves) e.vd n (accRegs e.acc.toNat)).v })
/-- Is a word of an entry's group poisoned in some named sheaf (R317)? -/
def accPoisoned (u : Unit) (e : MEntry) : Bool :=
  (named e.sn e.sm).any (fun k => (u.sheafOf k).vPoison.any (fun p =>
    p.2 && decide (e.vd ≤ p.1 / 256) && decide (p.1 / 256 < e.vd + accRegs e.acc.toNat)))
/-- One K-block of rows 4g to 4g + 3 of one sheaf: the new group bits and flags. -/
def blockSheaf (e : MEntry) (slices L g lam0 : Nat) (rows cols : Array (List FVal)) (n : Nat) : Nat × Word :=
  (accPlaces L ((List.range 4).map (4 * g + ·))).foldl (fun (acc : Nat × Word) p =>
    let bs := blockSum e.pair.toNat slices (rows.getD (p.1 - 4 * g) []) (cols.getD (4 * (lam0 + p.2.1) + p.2.2) [])
    let t := accStep e.acc.toNat L acc.1 p.1 p.2.1 p.2.2 bs.1
    (t.1, acc.2 ||| bs.2 ||| t.2)) (n, 0)
/-- Read the operands of one K-block: four rows of A, then N columns of B (R248). -/
def State.kRead (s : State) (e : MEntry) (N : Nat) : Acc (List (List FVal) × List (List FVal)) :=
  let ty := pairTys e.pair.toNat
  let kb := pairKB e.pair.toNat
  let na := kb * kBits ty.1 / 8
  let nb := kb * kBits ty.2 / 8
  let get (key : Nat) (base : Word) (n : Nat) (t : Ty) (s : State) : Acc (List FVal) :=
    (s.engRead (16 * key) base n).bind fun l s => .ok (kVals t kb l) s
  (Acc.each (fun j s => get j (e.a + toW (e.rows + j) * e.sa + toW (e.kb * na)) na ty.1 s) (List.range 4) s).bind fun rows s =>
    (Acc.each (fun c s => get (4 + c) (e.b + toW c * e.sb + toW (e.kb * nb)) nb ty.2 s) (List.range N) s).bind fun cols s =>
      .ok (rows, cols) s
/-- MMA_KBLOCK (R251): the next K-block of the reeve's oldest entry, read whole before it changes an accumulator. -/
def execMmaKblock (uid r : Nat) (s : State) : Host.Outcome State Fault Refusal :=
  match s.matReady uid r .mma with
  | none => .next s
  | some e =>
    let u := s.unitOf uid
    let g := e.rows / 4
    if 16 ≤ e.rows || (e.start.isSome && decide (e.startMet ≤ g)) || u.accHeld e then .next s
    else
      match u.startSlices e with
      | none => .next s
      | some (.error t) => .next (s.faultEntry uid r e t)
      | some (.ok slices) =>
        if accPoisoned u e then .next (s.faultEntry uid r e (tr cMCHK 1 0))
        else
          let e := { e with started := true }
          match (s.asEngine uid r (matNo r)).kRead e (u.tileN e.sn e.sm) with
          | .trap t s1 => .next ((s1.dropReplies.back s).faultEntry uid r e t)
          | .wait _ s1 => .next ((s1.back s).setEntry uid r e)
          | .ok ops s1 =>
            let s1 := s1.dropReplies.back s
            let rows := ops.1.toArray
            let cols := ops.2.toArray
            let L := 32 / u.nSheaves
            let r1 := (named e.sn e.sm).foldl (fun (acc : Unit × Word) k =>
              let t := blockSheaf e slices L g ((k - e.sn) * L) rows cols (accGroup acc.1 k e)
              (accWrite acc.1 k e t.1, acc.2 ||| t.2)) (s1.unitOf uid, e.flags)
            let done := e.kb + 1 == e.kBlocks
            let e := { e with flags := r1.2, kb := if done then 0 else e.kb + 1, rows := if done then e.rows + 4 else e.rows }
            .next ((s1.setUnit uid r1.1).setEntry uid r e)
/-- The threshold of row group `g` (R252). -/
def startNeed (t0 : Word) (step g : Nat) : Nat := t0.toNat + ceilDiv (4 * (g + 1)) (2 ^ step) - 1
/-- ROW_GROUP_START (R252): the next row group of an entry with a start condition may begin; the wait is an acquire (R211). -/
def execRowGroupStart (uid r : Nat) (s : State) : Host.Outcome State Fault Refusal :=
  match s.matReady uid r .mma with
  | none => .next s
  | some e =>
    match e.start with
    | none => .next s
    | some (n, step, t0) =>
      let u := s.unitOf uid
      let g := e.rows / 4
      let need := startNeed t0 step g
      if e.startMet ≠ g ∨ 16 ≤ e.rows ∨ (KMap.get 0 u.tl n).toNat < need then .next s
      else .next ((((s.asEngine uid r (matNo r)).tlAcquire n (toW need)).back s).setEntry uid r { e with started := true, startMet := g + 1 })
/-- The end of an entry (R251, R254): flags to every named sheaf, `%rowp` clear, then the advance. -/
def State.endEntry (s : State) (uid r : Nat) (e : MEntry) : State :=
  (s.modUnit uid (fun u =>
    { (named e.sn e.sm).foldl (fun u k => u.modSheaf k (fun x => { x with vfx := x.vfx ||| e.flags }))
        (u.modReeve r (fun x => { x with rowp := 0 })) with mq := dropHead r u.mq })).matAdvance uid e
/-- MMA_COMPLETE (R251). -/
def execMmaComplete (uid r : Nat) (s : State) : Host.Outcome State Fault Refusal :=
  match s.matReady uid r .mma with
  | some e => if e.rows = 16 then .next (s.endEntry uid r e) else .next s
  | none => .next s

/-! ### Drains (R254) -/

/-- The value and the raw bits of the columns of row `row`, in column order. -/
def rowVals (u : Unit) (e : MEntry) (row : Nat) : List (FVal × Nat) :=
  let L := 32 / u.nSheaves
  (named e.sn e.sm).flatMap (fun k =>
    let n := accGroup u k e
    (accPlaces L [row]).map (fun p =>
      if e.acc.toNat == 2 then let v := fld n (accBit L true p.1 p.2.1 p.2.2) 64; (fdec (fmtOf .f64) v, v)
      else
        let b := accBit L false p.1 p.2.1 p.2.2
        let h := fld n b 32
        if e.acc.toNat == 0 then (fdec (fmtOf .f32) h, h)
        else
          let v := pairVal h (fld n (b + 2048 * L) 32)
          match v with
          | .fin .. => (v, (froundV (fmtOf .f32) .rne .none v).1)
          | _ => (v, h)))
/-- Flags of an f32 drain of a paired row. -/
def f32Flags (e : MEntry) (vs : List (FVal × Nat)) : Word :=
  if e.acc.toNat == 0 then 0
  else vs.foldl (fun a p => match p.1 with | .fin .. => a ||| (froundV (fmtOf .f32) .rne .none p.1).2 | _ => a) 0
/-- Pack nibbles or bytes of a list of values. -/
def packBytes (w : Nat) (l : List Nat) : List Byte := leBytes (w * l.length / 8) (packElems w l)
/-- A row of a drain: its bytes, its scale bytes and its flags. -/
def drainRow (e : MEntry) (vs : List (FVal × Nat)) : List Byte × List Byte × Word :=
  let f := e.fmt.toNat
  let xs := vs.map (·.1)
  let n := vs.length
  let groups := (List.range (ceilDiv n 32)).map (fun j => (xs.drop (32 * j)).take 32)
  match f with
  | 0 => (packBytes 64 (vs.map (·.2)), [], 0)
  | 1 => (packBytes 32 (vs.map (·.2)), [], f32Flags e vs)
  | 2 =>
    let r := xs.map (froundV (fmtOf .bf16) .rne .none)
    (packBytes 16 (r.map (·.1)), [], r.foldl (fun a p => a ||| p.2) 0)
  | 3 =>
    let q := quantGroup 2 xs
    let r := xs.map (quantUnder 2 q.1)
    (packBytes 8 (r.map (·.1)), [BitVec.ofNat 8 q.1], r.foldl (fun a p => a ||| p.2) q.2)
  | 4 =>
    let qs := groups.map (fun g => (quantGroup 0 g, g))
    let r := qs.flatMap (fun p => p.2.map (quantUnder 0 p.1.1))
    (packBytes 4 (r.map (·.1)), qs.map (fun p => BitVec.ofNat 8 p.1.1), r.foldl (fun a p => a ||| p.2) (qs.foldl (fun a p => a ||| p.1.2) 0))
  | _ =>
    let qs := groups.map (fun g => (quantGroup 3 g, g))
    let pts := qs.flatMap (fun p => (List.range (p.2.length / 8)).map (fun j => quantPoint false ((p.2.drop (8 * j)).take 8) p.1.1))
    (packBytes 16 (pts.map (·.code)), qs.map (fun p => BitVec.ofNat 8 p.1.1),
      pts.foldl (fun a q => a ||| fIf q.beyond fSHOF ||| fIf q.nv fNV) (qs.foldl (fun a p => a ||| p.1.2) 0))
/-- Where row `row`'s scale bytes go (R254). -/
def scaleAddr (e : MEntry) (row n : Nat) : Word := e.c + toW (if e.fmt.toNat == 3 then row else row * ceilDiv n 32)
/-- MDRN_ROW (R254): write the next row and its scale bytes. -/
def execMdrnRow (uid r : Nat) (s : State) : Host.Outcome State Fault Refusal :=
  match s.matReady uid r .mdrn with
  | none => .next s
  | some e =>
    let u := s.unitOf uid
    if 16 ≤ e.rows || u.accHeld e then .next s
    else if accPoisoned u e then .next (s.faultEntry uid r e (tr cMCHK 1 0))
    else
      let d := drainRow e (rowVals u e e.rows)
      let e := { e with started := true }
      match ((s.asEngine uid r (matNo r)).engWrite (e.a + toW e.rows * e.sa) d.1).bind fun _ s =>
          if d.2.1.isEmpty then .ok ⟨⟩ s else s.engWrite (scaleAddr e e.rows (u.tileN e.sn e.sm)) d.2.1 with
      | .trap t s1 => .next ((s1.back s).faultEntry uid r e t)
      | .wait _ s1 => .next ((s1.back s).setEntry uid r e)
      | .ok _ s1 => .next ((s1.back s).setEntry uid r { e with rows := e.rows + 1, flags := e.flags ||| d.2.2 })
/-- MDRN_COMPLETE (R254): every byte has been written. -/
def execMdrnComplete (uid r : Nat) (s : State) : Host.Outcome State Fault Refusal :=
  match s.matReady uid r .mdrn with
  | some e => if e.rows = 16 && !(s.unitOf uid).engOpen r (matNo r) then .next (s.endEntry uid r e) else .next s
  | none => .next s
/-- MZRO_PERFORM (R255): +0 in every element of the group, which clears poison marks; then the advance. -/
def execMzroPerform (uid r : Nat) (s : State) : Host.Outcome State Fault Refusal :=
  match s.matReady uid r .mzro with
  | none => .next s
  | some e =>
    let u := s.unitOf uid
    if u.accHeld e then .next s
    else
      .next ((s.modUnit uid (fun u => (named e.sn e.sm).foldl (fun u k =>
        (accWrite u k e 0).modSheaf k (fun x => { x with
          vPoison := x.vPoison.filter (fun p => !(decide (e.vd ≤ p.1 / 256) && decide (p.1 / 256 < e.vd + accRegs e.acc.toNat))) })) u)).endEntry uid r e)

end Sys2Proof.Machine
end

