-- ==== Sys2Proof/Machine/Wain.lean ====
section
/-!
DEFINITION. The wain: commands at issue (R282, R283, R434), transformed views (R299-R301, R435), and the events that perform
commands (R284-R295), commit granules to stream buffers (R168), run routines (R296-R298) and build view tiles.
-/
namespace Sys2Proof.Machine

/-! ### Descriptors (R288, R291, R296) -/

/-- OPT of a copy, fill, gather or scatter descriptor. -/
def wOpt (d : Desc) : Nat := dfld d 16 4
/-- SSWZ and DSWZ. -/
def wSsw (d : Desc) : Nat := fld (wOpt d) 0 2
def wDsw (d : Desc) : Nat := fld (wOpt d) 2 2
/-- FLAG, STRM and RTL. -/
def wFlag (d : Desc) : Bool := (wOpt d).testBit 4
def wStrm (d : Desc) : Bool := (wOpt d).testBit 5
def wRtl (d : Desc) : Bool := (wOpt d).testBit 6
/-- Bytes of a fill element. -/
def wEsize (d : Desc) : Nat := 2 ^ fld (wOpt d) 8 2
/-- SRCVA and DSTVA. -/
def wSrc (d : Desc) : Word := toW (dfld d 0 8)
def wDst (d : Desc) : Word := toW (dfld d 8 8)
/-- CNT0: bytes of a run. -/
def wCnt0 (d : Desc) : Nat := dfld d 20 4
/-- CNT1, CNT2, CNT3. -/
def wCnt (d : Desc) (i : Nat) : Nat := dfld d (24 + 2 * i) 2
/-- Source and destination strides of dimension 1, 2, 3. -/
def wSstr (d : Desc) (i : Nat) : Int := dint d (28 + 4 * i) 4
def wDstr (d : Desc) (i : Nat) : Int := dint d (40 + 4 * i) 4
/-- ROWB, LPITCH, TPITCH, NIDX, BOUND, IDXVA, STATVA, FLAGVA. -/
def wRowb (d : Desc) : Nat := dfld d 20 4
def wLp (d : Desc) : Nat := dfld d 24 4
def wTp (d : Desc) : Nat := dfld d 28 4
def wNidx (d : Desc) : Nat := dfld d 32 4
def wBound (d : Desc) : Nat := dfld d 36 4
def wIdx (d : Desc) : Word := toW (dfld d 40 8)
def wStat (d : Desc) : Word := toW (dfld d 48 8)
def wFlagVa (d : Desc) : Word := toW (dfld d 56 8)

/-- A swizzled side that breaks R294: `n` bytes a row, a base and the strides or pitch of the side. -/
def swBad (k n : Nat) (base : Word) (strides : List Int) : Bool :=
  k != 0 && (n % (16 * 2 ^ k) != 0 || base.toNat % 16 != 0 || strides.any (fun x => x % 16 != 0))
/-- OPT bits every copy, fill, gather and scatter keeps: bit 7 and bits 31:10 zero, FLAGVA aligned, no swizzle into a stream. -/
def optBad (d : Desc) : Bool :=
  (wOpt d).testBit 7 || fld (wOpt d) 10 22 != 0 || (wFlag d && (wFlagVa d).toNat % 8 != 0) || (wStrm d && wDsw d != 0)
/-- The limits of `wcpy` and `wfil` (R434). -/
def copyBad (fill : Bool) (d : Desc) : Bool :=
  optBad d || wCnt0 d == 0 || decide (2 ^ 24 < wCnt0 d) || dfld d 24 2 != 0 || wCnt d 1 == 0 || wCnt d 2 == 0 || wCnt d 3 == 0 ||
  swBad (wDsw d) (wCnt0 d) (wDst d) [wDstr d 1, wDstr d 2, wDstr d 3] ||
  (if fill then wSsw d != 0 || dfld d 32 4 != 0 || wCnt0 d % wEsize d != 0
   else wEsize d != 1 || swBad (wSsw d) (wCnt0 d) (wSrc d) [wSstr d 1, wSstr d 2, wSstr d 3])
/-- The limits of `wgth` and `wsct` (R434). -/
def gatherBad (scatter : Bool) (d : Desc) : Bool :=
  optBad d || wNidx d == 0 || decide (65536 < wNidx d) || wRowb d == 0 || decide (65536 < wRowb d) || (wIdx d).toNat % 4 != 0 ||
  (wStat d).toNat % 8 != 0 || wEsize d != 1 || (scatter && wStrm d) ||
  swBad (wSsw d) (wRowb d) (wSrc d) [(if scatter then wLp d else wTp d : Nat)] ||
  swBad (wDsw d) (wRowb d) (wDst d) [(if scatter then wTp d else wLp d : Nat)]
/-- The limits of `wxfm` (R434). -/
def xfmBad (d : Desc) : Bool :=
  dfld d 8 8 % 8 != 0 || dfld d 0 4 &&& 0xFFFFFF9F != 0 || ((dfld d 0 4).testBit 5 && dfld d 24 8 == 0)

/-! ### Issue (R283) -/

/-- Post a command: alignment, descriptor, limits, then a queue entry of the core (R283). -/
def State.wainPost (s : State) (i : Instr) (op : Nat) (a : Reg) (tl : BitVec 4) (bad : Desc → Bool) : Host.Outcome State Fault Refusal :=
  s.perform (encode i) (opRuns op) false [a] [a] fun s =>
    let va := s.rd a
    if va.toNat % 64 ≠ 0 then .trap (tr cALIGN 0 va) s
    else
      (s.descRead va).eff fun d s =>
        if bad d then .trap (illegal 1 va) s
        else
          let c := s.cu.core
          if 256 ≤ (s.coreOf c).wq.length then .wait .queue s
          else
            let w : WainCmd :=
              { seq := s.nextTag, op := BitVec.ofNat 8 op, uid := s.uid, reeve := s.rIdx, iaddr := s.pc, descVA := va, desc := d,
                tl := tl.toNat, done := 0, copied := 0, zeroed := 0, advanced := 0, pend := [], committed := 0, wide := false, stated := false,
                finished := false, fault := none, reported := false }
            .go ({ s with nextTag := s.nextTag + 1 }.modCore c (fun x => { x with wq := x.wq ++ [w] }))
/-- WCPY (R282, R288). -/
def execWcpy (a : Reg) (tl : BitVec 4) (s : State) : Host.Outcome State Fault Refusal :=
  s.wainPost (.wcpy a tl) 0xE8 a tl (copyBad false)
/-- WGTH (R282, R291). -/
def execWgth (a : Reg) (tl : BitVec 4) (s : State) : Host.Outcome State Fault Refusal :=
  s.wainPost (.wgth a tl) 0xE9 a tl (gatherBad false)
/-- WSCT (R282, R291). -/
def execWsct (a : Reg) (tl : BitVec 4) (s : State) : Host.Outcome State Fault Refusal :=
  s.wainPost (.wsct a tl) 0xEA a tl (gatherBad true)
/-- WFIL (R282, R290). -/
def execWfil (a : Reg) (tl : BitVec 4) (s : State) : Host.Outcome State Fault Refusal :=
  s.wainPost (.wfil a tl) 0xEB a tl (copyBad true)
/-- WXFM (R282, R296). -/
def execWxfm (a : Reg) (tl : BitVec 4) (s : State) : Host.Outcome State Fault Refusal :=
  s.wainPost (.wxfm a tl) 0xEC a tl xfmBad

/-! ### Views (R299-R301, R435) -/

/-- A type of 1, 2 or 4 bytes whose elements are their own (R299). -/
def viewTy (t : Ty) : Bool :=
  match t with
  | .i4 | .i3 | .e8w16 | .e8w32 => false
  | t => decide (tyWidth t ≤ 32)
/-- NCOL's multiple for a source type (R299). -/
def colMult : Ty → Nat
  | .i4 => 2 | .i3 => 8 | .e8w16 => 8 | .e8w32 => 8 | _ => 1
/-- A view descriptor that breaks R299 or R435. -/
def viewBad (d : Desc) : Bool :=
  let n := dfld d 24 4
  let m := dfld d 20 4
  dfld d 0 4 != 0 || decide (7 < dfld d 4 1) || dfld d 8 12 != 0 || vwBase d % 4096 != 0 || n == 0 || decide (65536 < n) || m == 0 ||
  decide (65536 < m) || dfld d 7 1 &&& 0x7C != 0 ||
  match tyOf (dfld d 5 1), tyOf (dfld d 6 1) with
  | some st, some ot =>
    (if vwDeq d then !(narrowStore st) || ot != .bf16 else ot != st || !viewTy st) || n % colMult st != 0 ||
    vwPitch d % 64 != 0 || decide (vwPitch d < ceilDiv (vwCols d) 32 * 32 * (tyWidth ot / 8))
  | _, _ => true
where
  /-- i3, i4, e8w16 and e8w32. -/
  narrowStore (t : Ty) : Bool := match t with | .i4 | .i3 | .e8w16 | .e8w32 => true | _ => false
/-- Does a region lie on pages of target type 0, 1 or 3 of the unit (R435)? -/
def State.viewPages (s : State) (va n : Nat) : Bool :=
  (List.range (ceilDiv n 4096)).all (fun j =>
    let a := toW (va + 4096 * j)
    canonical a &&
    match s.leafFor s.xc a with
    | some (some l) => leafOk l && (pteType l.pte == 0 || pteType l.pte == 1 || pteType l.pte == 3)
    | _ => false)
/-- WAPR (R299-R301, R435): bind or unbind a view slot, before it retires. -/
def execWapr (a : Reg) (s : State) : Host.Outcome State Fault Refusal :=
  s.perform (encode (.wapr a)) (opRuns 0xED) false [a] [a] fun s =>
    let va := s.rd a
    if va.toNat % 64 ≠ 0 then .trap (tr cALIGN 0 va) s
    else
      (s.descRead va).eff fun d s =>
        let slot := dfld d 4 1
        let set (v : Option View) (s : State) : State := s.modCu (fun u => { u with views := KMap.set none u.views slot v })
        if (dfld d 7 1).testBit 7 then (if 7 < slot then .trap (illegal 1 va) s else .go (set none s))
        else if viewBad d then .trap (illegal 1 va) s
        else if !s.viewPages (vwBase d) (vwBytes d) ||
            s.cu.views.any (fun p => p.1 != slot && (match p.2 with | some v => vwTouches v.desc (vwBase d) (vwBytes d) | none => false)) then
          .trap (tr cPERM 0 (toW (vwBase d))) s
        else .go (set (some ⟨d, []⟩) s)
/-- VIEW_TILE_BUILD (R300, R301): the wain builds and caches one tile of 32 × 32 elements, up to 64 of them. It reads through the log of a
sealed unit's reeve; a unit with two reeves that have stored to sealed pages gets no tile. -/
def execViewTileBuild (uid slot ti tj : Nat) (s : State) : Host.Outcome State Fault Refusal :=
  let u := s.unitOf uid
  match KMap.get none u.views slot with
  | none => .next s
  | some v =>
    if !u.live || u.place == .over || decide (ceilDiv (vwRows v.desc) 32 ≤ ti) || decide (ceilDiv (vwCols v.desc) 32 ≤ tj) ||
        v.tiles.any (fun t => t.1 == ti && t.2.1 == tj) || (u.rv == 2 && u.reeves.any (fun r => !r.2.log.isEmpty)) then .next s
    else
      let els := (List.range 1024).map (fun e => (e, 32 * ti + e / 32, 32 * tj + e % 32))
      match Acc.each (fun p s => s.viewElem (fun s => s.loadThrough 8) (8 * p.1) v p.2.1 p.2.2) els (s.asEngine uid 0 (20 + slot)) with
      | .trap _ s1 => .next (s1.dropReplies.back s)
      | .wait _ s1 => .next (s1.back s)
      | .ok b s1 =>
        .next ((s1.dropReplies.back s).modUnit uid (fun u => { u with
          views := KMap.set none u.views slot (some { v with tiles := ((ti, tj, b.flatten) :: v.tiles).take 64 }) }))

/-! ### Swizzled accesses (R293, R294) -/

/-- The pieces of a row under swizzle `k` with row number `rho`: the offset of each 16-byte chunk in the row, and its address. -/
def swPieces (base : Word) (n k rho : Nat) : List (Nat × Word × Nat) :=
  if k == 0 then [(0, base, n)]
  else (List.range (n / 16)).map (fun c => (16 * c, base + toW ((16 * c) ^^^ ((rho % 2 ^ k) * 16)), 16))
/-- A swizzled side lies in a loft (R293). -/
def State.swTarget (s : State) (k : Nat) (kd : Kind) (va : Word) : Acc PUnit :=
  if k == 0 then .ok ⟨⟩ s
  else
    (s.engXlate kd va 1).bind fun x s =>
      match x with
      | .loft .. => .ok ⟨⟩ s
      | _ => .trap (tr cPERM 0 va) s
/-- Read(base, n, k, ρ). -/
def State.swRead (s : State) (key : Nat) (base : Word) (n k rho : Nat) : Acc (List Byte) :=
  (Acc.each (fun p s => (s.swTarget k .load p.2.1).bind fun _ s => s.engRead (key + 2 * p.1) p.2.1 p.2.2) (swPieces base n k rho) s).bind
    fun l s => .ok l.flatten s
/-- Write(base, data, k, ρ): whole, or nothing written, since a command stops before its failing run or row (R286). -/
def State.swWrite (s : State) (base : Word) (data : List Byte) (k rho : Nat) : Acc PUnit :=
  ((Acc.each (fun p s => (s.swTarget k .store p.2.1).bind fun _ s => s.engWrite p.2.1 ((data.drop p.1).take p.2.2))
    (swPieces base data.length k rho) s).bind fun _ s => .ok ⟨⟩ s).orElseAt s

/-! ### Performing commands (R284-R295) -/

/-- A command of a core's queue by its number. -/
def State.wainCmd (s : State) (c q : Nat) : Option WainCmd := (s.coreOf c).wq.find? (fun w => w.seq == q)
/-- Apply `f` to a command. -/
def State.modWain (s : State) (c q : Nat) (f : WainCmd → WainCmd) : State :=
  s.modCore c (fun x => { x with wq := x.wq.map (fun w => if w.seq == q then f w else w) })
/-- Act for a command. -/
def State.asWain (s : State) (w : WainCmd) : State := s.asEngine w.uid w.reeve (wainNo w.seq)
/-- Does a command write into a stream buffer, and which address names it (R295, R296)? -/
def wStream (w : WainCmd) : Option Word :=
  if w.op = 0xEC then (if (dfld w.desc 0 4).testBit 5 then some (toW (dfld w.desc 24 8)) else none)
  else if wStrm w.desc then some (wDst w.desc) else none
/-- RTL of a command, and the address it applies to. -/
def wRtlVa (w : WainCmd) : Option Word :=
  if w.op = 0xEC then (if (dfld w.desc 0 4).testBit 6 then some (toW (dfld w.desc 24 8)) else none)
  else if wRtl w.desc then some (wDst w.desc) else none
/-- The units of work of a command: runs or rows; a routine's end is its only one. -/
def wTotal (w : WainCmd) : Nat :=
  if w.op = 0xE9 ∨ w.op = 0xEA then wNidx w.desc
  else if w.op = 0xEC then (if w.finished then 0 else 1)
  else wCnt w.desc 1 * wCnt w.desc 2 * wCnt w.desc 3
/-- Is the work itself done? -/
def wDone (w : WainCmd) : Bool := decide (wTotal w ≤ w.done)
/-- Bytes one unit of work produces. -/
def wUnit (w : WainCmd) : Nat := wCnt0 w.desc
/-- Units the command's counter takes in all (R285, R292). -/
def wAdvances (w : WainCmd) : Nat := if w.op = 0xE9 ∨ w.op = 0xEA then ceilDiv (wNidx w.desc) 8 else 1
/-- Stop a command before its failing run, row or instruction (R286). -/
def State.faultWain (s : State) (c q : Nat) (t : TrapInfo) : State :=
  let s1 := s.modWain c q (fun w => { w with fault := some t, reported := false })
  match s.wainCmd c q with
  | some w => s1.wake w.uid w.reeve
  | none => s1
/-- The checks of a stream destination and of RTL (R293, R295): a type-2 page for RTL, a stream buffer for STRM. -/
def State.wainDest (s : State) (w : WainCmd) : Acc PUnit :=
  let rtl : Acc PUnit := match wRtlVa w with
    | none => .ok ⟨⟩ s
    | some va =>
      (s.engXlate .store va 1).bind fun _ s =>
        match s.leafFor s.xc va with
        | some (some l) => if pteType l.pte == 2 then .ok ⟨⟩ s else .trap (tr cPERM 0 va) s
        | _ => .trap (tr cPERM 0 va) s
  rtl.bind fun _ s =>
    match wStream w with
    | none => .ok ⟨⟩ s
    | some va =>
      (s.engXlate .store va 1).bind fun _ s =>
        if (s.destOf w.uid va).isSome then .ok ⟨⟩ s else .trap (tr cSTREAM 0 va) s
/-- Is an earlier command of the core still producing into the same stream buffer (R295)? -/
def State.streamBusy (s : State) (c : Nat) (w : WainCmd) : Bool :=
  match wStream w with
  | none => false
  | some va =>
    let d := s.destOf w.uid va
    (s.coreOf c).wq.any (fun x => decide (x.seq < w.seq) && !(wDone x && x.pend.isEmpty) &&
      (match wStream x with | some y => s.destOf x.uid y == d | none => false))
/-- May a command work on: neither faulted nor behind another producer, and at most one run ahead of its stream buffer. -/
def State.wainReady (s : State) (c : Nat) (w : WainCmd) : Bool :=
  w.fault.isNone && (s.unitOf w.uid).live && !wDone w && !s.streamBusy c w && ((wStream w).isNone || decide (w.pend.length < 64))

/-- Batches of a gather whose every byte is written, committed bytes for a stream (R292). -/
def wBatches (w : WainCmd) : Nat :=
  let rows := if (wStream w).isSome && wUnit w != 0 then
      (if wDone w && w.pend.isEmpty then w.done else w.committed / wUnit w)
    else w.done
  if wNidx w.desc ≤ rows then ceilDiv (wNidx w.desc) 8 else rows / 8
/-- Does one of the pages of a range have type 4, 6 or 7 (R211)? -/
def State.wideAt (s : State) (va : Word) (n : Nat) : Bool :=
  (chunks va n).any (fun p =>
    match s.leafFor s.xc p.1 with
    | some (some l) => pteType l.pte == 4 || decide (6 ≤ pteType l.pte)
    | _ => false)
/-- Does any row, index, status record or flag of a gather or scatter lie on a page of type 4, 6 or 7? An advance has the scope of all pages
that its command touches, those of later batches too (R211). -/
def State.gatherWide (s : State) (w : WainCmd) : Bool :=
  let d := w.desc
  let near (j : Nat) : Bool := if w.op = 0xEA then s.wideAt (wSrc d + toW (j * wLp d)) (wRowb d)
    else (wStream w).isNone && s.wideAt (wDst d + toW (j * wLp d)) (wRowb d)
  let far (i : Nat) : Bool := decide (i < wBound d) && s.wideAt ((if w.op = 0xEA then wDst d else wSrc d) + toW (i * wTp d)) (wRowb d)
  w.wide || (wStat d ≠ 0 && s.wideAt (wStat d) 8) || (wFlag d && s.wideAt (wFlagVa d) 8) ||
  (List.range (wNidx d)).any (fun j =>
    let ia := wIdx d + toW (4 * j)
    s.wideAt ia 4 || near j || (match s.engRead (2 ^ 41) ia 4 with | .ok b _ => far (leVal b) | _ => false))
/-- Advance a command's counter as far as its written batches allow, one unit at a time (R211, R285, R292). The last unit waits for
the status record and the flag, and a faulted command advances nothing (R286). -/
def State.wainAdvance (s : State) (c q : Nat) : State :=
  match s.wainCmd c q with
  | none => s
  | some w =>
    let uid := s.wainUnit w
    if w.fault.isSome || (s.unitOf w.uid).engOpen w.reeve (wainNo q) || s.heldBack c q uid w.tl then s
    else
      let gather := w.op = 0xE9 ∨ w.op = 0xEA
      let got := if w.finished && wDone w && w.pend.isEmpty then wAdvances w
        else if gather then (let b := wBatches w; if b == wAdvances w then b - 1 else b) else 0
      let wide := if gather then decide (w.advanced < got) && (s.asWain w).gatherWide w else w.wide
      let s1 := (List.range (got - w.advanced)).foldl (fun s _ => s.advance uid w.tl 1 wide) s
      s1.modWain c q (fun w => { w with advanced := if w.advanced < got then got else w.advanced })

/-- The indices (i1, i2, i3) of run `t` in traversal order (R289). -/
def runIdx (d : Desc) (t : Nat) : Nat × Nat × Nat := (t % wCnt d 1, t / wCnt d 1 % wCnt d 2, t / (wCnt d 1 * wCnt d 2))
/-- An address moved by indices times strides. -/
def runAddr (base : Word) (str : Nat → Int) (x : Nat × Nat × Nat) : Word :=
  base + BitVec.ofInt 64 ((x.1 : Int) * str 1 + (x.2.1 : Int) * str 2 + (x.2.2 : Int) * str 3)
/-- The bytes of run `t` of a fill (R290). -/
def fillBytes (d : Desc) (t : Nat) : List Byte :=
  let z := wEsize d
  let per := wCnt0 d / z
  (List.range per).flatMap (fun j => leBytes z (dfld d 0 8 + (t * per + j) * dfld d 36 8))
/-- Produce data at a command's stream, or write it (R295). -/
def State.wainPut (s : State) (c q : Nat) (w : WainCmd) (base : Word) (b : List Byte) (k rho : Nat) : Acc PUnit :=
  if (wStream w).isSome then .ok ⟨⟩ (s.modWain c q (fun w => { w with pend := w.pend ++ b }))
  else s.swWrite base b k rho
/-- WAIN_RUN (R289, R290): the next run of a copy or fill. -/
def execWainRun (core seq : Nat) (s : State) : Host.Outcome State Fault Refusal :=
  match s.wainCmd core seq with
  | none => .next s
  | some w =>
    if !(w.op = 0xE8 || w.op = 0xEB) || !s.wainReady core w then .next s
    else
      let d := w.desc
      let x := runIdx d w.done
      match ((s.asWain w).wainDest w).bind fun _ s =>
          ((if w.op = 0xEB then Acc.ok (fillBytes d w.done) s
            else s.swRead 0 (runAddr (wSrc d) (wSstr d) x) (wCnt0 d) (wSsw d) x.1).bind fun b s =>
            s.wainPut core seq w (runAddr (wDst d) (wDstr d) x) b (wDsw d) x.1) with
      | .trap t s1 => .next ((s1.dropReplies.back s).faultWain core seq t)
      | .wait _ s1 => .next (s1.back s)
      | .ok _ s1 => .next ((s1.dropReplies.back s).modWain core seq (fun w => { w with done := w.done + 1 }))

/-- One row of a gather or scatter (R292): whether its index names a row. -/
def State.wainRow (s : State) (c q : Nat) (w : WainCmd) (j : Nat) : Acc Bool :=
  let d := w.desc
  let n := wRowb d
  (s.engRead (2 ^ 40) (wIdx d + toW (4 * j)) 4).bind fun ib s =>
    let i := leVal ib
    let hit := decide (i < wBound d)
    if w.op = 0xE9 then
      (if hit then s.swRead 0 (wSrc d + toW (i * wTp d)) n (wSsw d) i else .ok (leBytes n 0) s).bind fun b s =>
        (s.wainPut c q w (wDst d + toW (j * wLp d)) b (wDsw d) j).bind fun _ s => .ok hit s
    else if hit then
      (s.swRead 0 (wSrc d + toW (j * wLp d)) n (wSsw d) j).bind fun b s =>
        (s.swWrite (wDst d + toW (i * wTp d)) b (wDsw d) i).bind fun _ s => .ok true s
    else .ok false s
/-- Rows of a batch, up to the one that stops it: how it ended. -/
def State.wainRows (s : State) (c q : Nat) : Nat → Option (Option TrapInfo) × State
  | 0 => (none, s)
  | k + 1 =>
    match s.wainCmd c q with
    | none => (none, s)
    | some w =>
      match s.wainRow c q w w.done with
      | .trap t s => (some (some t), s)
      | .wait _ s => (some none, s)
      | .ok hit s =>
        (s.dropReplies.modWain c q (fun w => { w with
          done := w.done + 1
          copied := if hit then w.copied + 1 else w.copied
          zeroed := if hit then w.zeroed else w.zeroed + 1 })).wainRows c q k
/-- GATHER_BATCH (R292): the rows of the next batch, then its advance. -/
def execGatherBatch (core seq : Nat) (s : State) : Host.Outcome State Fault Refusal :=
  match s.wainCmd core seq with
  | none => .next s
  | some w =>
    if !(w.op = 0xE9 || w.op = 0xEA) || !s.wainReady core w then .next s
    else
      let stop := if w.done / 8 * 8 + 8 ≤ wNidx w.desc then w.done / 8 * 8 + 8 else wNidx w.desc
      match (s.asWain w).wainDest w with
      | .trap t s1 => .next ((s1.dropReplies.back s).faultWain core seq t)
      | .wait _ s1 => .next (s1.back s)
      | .ok _ s1 =>
        match s1.wainRows core seq (stop - w.done) with
        | (some (some t), s2) => .next ((s2.dropReplies.back s).faultWain core seq t)
        | (some none, s2) => .next (s2.back s)
        | (none, s2) => .next (((s2.dropReplies.back s).wainAdvance core seq).releaseCore core)
/-- The status record of a gather or scatter whose work is done (R292). -/
def State.wainStatus (s : State) (w : WainCmd) : Acc PUnit :=
  if (w.op = 0xE9 ∨ w.op = 0xEA) ∧ wStat w.desc ≠ 0 ∧ w.stated = false then s.engWrite (wStat w.desc) (leBytes 8 (w.zeroed * 2 ^ 32 + w.copied))
  else .ok ⟨⟩ s
/-- The arrival flag of a command whose data and status record are written (R212, R285). -/
def State.wainFlag (s : State) (w : WainCmd) : Acc PUnit :=
  if w.op ≠ 0xEC ∧ wFlag w.desc then s.engWrite (wFlagVa w.desc) (leBytes 8 1) else .ok ⟨⟩ s
/-- WAIN_COMPLETE (R212, R285, R292): a command whose every byte is written writes its status record, then, when that is visible, its flag; it
advances, and leaves. -/
def execWainComplete (core seq : Nat) (s : State) : Host.Outcome State Fault Refusal :=
  match s.wainCmd core seq with
  | none => .next s
  | some w =>
    let opened (s : State) : Bool := (s.unitOf w.uid).engOpen w.reeve (wainNo seq)
    let out (s : State) : State :=
      let s := s.wainAdvance core seq
      match s.wainCmd core seq with
      | some w =>
        if w.finished && wDone w && w.advanced == wAdvances w && w.pend.isEmpty then
          (s.modCore core (fun x => { x with wq := x.wq.filter (fun y => y.seq != seq) })).releaseCore core
        else s.releaseCore core
      | none => s
    if w.fault.isSome || !wDone w || !w.pend.isEmpty || opened s then .next s
    else if w.finished then .next (out s)
    else
      match (s.asWain w).wainStatus w with
      | .trap t s1 => .next ((s1.back s).faultWain core seq t)
      | .wait _ s1 => .next (s1.back s)
      | .ok _ s1 =>
        let s2 := (s1.back s).modWain core seq (fun w => { w with stated := true })
        if opened s2 then .next s2
        else
          match (s2.asWain w).wainFlag w with
          | .trap t s3 => .next ((s3.back s).faultWain core seq t)
          | .wait _ s3 => .next (s3.back s)
          | .ok _ s3 => .next (out ((s3.back s).modWain core seq (fun w => { w with finished := true })))

/-! ### Streams (R168) -/

/-- Free bytes of a stream buffer in whole granules (R168). -/
def Stream.free (b : Stream) : Nat := b.size - (b.fill + b.head % 64)
/-- Write one granule at the tail of buffer `k` of a unit and count it; tiles of views that may have read it are dropped (R301). -/
def State.granule (s : State) (uid k : Nat) (g : List Byte) : State :=
  match (s.unitOf uid).streams[k]? with
  | none => s
  | some b =>
    (s.loftWrite uid (b.off + b.tail) (g ++ leBytes (64 - g.length) 0)).modUnit uid (fun u => { u with
      streams := u.streams.set k { b with tail := (b.tail + 64) % b.size, fill := b.fill + 64 }
      views := u.views.map (fun p => (p.1, p.2.map (fun v => { v with tiles := [] }))) })
/-- The commands that have a granule for buffer `k` of unit `uid`, as (core, number): the oldest of each core. -/
def State.producers (s : State) (uid k : Nat) : List (Nat × Nat) :=
  s.cores.filterMap (fun p =>
    (p.2.wq.find? (fun w => (match wStream w with | some va => s.destOf w.uid va == some (uid, k) | none => false) &&
      (decide (64 ≤ w.pend.length) || (wDone w && !w.pend.isEmpty)))).map (fun w => (p.1, w.seq)))
/-- GRANULE_COMMIT (R168, R295): a producer commits 64 bytes, padding its last granule. Which of several producers does is free
(log 9). -/
def execGranuleCommit (uid k : Nat) (s : State) : Host.Outcome State Fault Refusal :=
  let u := s.unitOf uid
  match u.streams[k]?, s.producers uid k with
  | some b, p :: ps =>
    if b.free < 64 || !u.live then .next s
    else
      let l := p :: ps
      let (c, q) := l.getD (Config.freeNat s.fresh % l.length) p
      match s.wainCmd c q with
      | none => .next s
      | some w =>
        let g := w.pend.take 64
        .next ((((({ s with fresh := s.fresh + 1 }.granule uid k g).modWain c q (fun w =>
          { w with pend := w.pend.drop 64, committed := w.committed + g.length })).wainAdvance c q)).releaseCore c)
  | _, _ => .next s

/-! ### Routines (R296-R298) -/

/-- A routine's registers at its start (R296). -/
def routineOf (u : Unit) (w : WainCmd) : Routine :=
  let d := w.desc
  { seq := w.seq, uid := w.uid, reeve := w.reeve
    g := ([dfld d 16 8, dfld d 24 8, dfld d 4 4, dfld d 32 8, dfld d 40 8, dfld d 48 8, dfld d 56 8, u.taskId w.reeve, windowBase].zip
      (List.range 9)).foldl (fun g p => KMap.set 0 g (p.2 + 1) (toW p.1)) []
    gPoison := []
    vec := Sheaf.reset
    pc := toW (dfld d 8 8)
    consumed := 0
    held := [] }
/-- ROUTINE_START (R296, R297): the oldest routine command of an idle wain core. -/
def execRoutineStart (core : Nat) (s : State) : Host.Outcome State Fault Refusal :=
  let x := s.coreOf core
  if x.routine.isSome then .next s
  else
    match x.wq.find? (fun w => w.op = 0xEC && !w.finished && w.fault.isNone && (s.unitOf w.uid).live) with
    | none => .next s
    | some w =>
      if s.streamBusy core w then .next s
      else
        match (s.asWain w).wainDest w with
        | .trap t s1 => .next ((s1.dropReplies.back s).faultWain core w.seq t)
        | .wait _ s1 => .next (s1.back s)
        | .ok _ s1 => .next ((s1.back s).modCore core (fun x => { x with routine := some (routineOf (s.unitOf w.uid) w) }))

/-- P0-P3 of a routine command. -/
def kvP (d : Desc) (i : Nat) : Nat := dfld d (32 + 8 * i) 8
/-- C, W and t0 of KVQ. -/
def kvC (d : Desc) : Nat := fld (kvP d 3) 0 16
def kvW (d : Desc) : Nat := fld (kvP d 3) 16 16
def kvT0 (d : Desc) : Nat := fld (kvP d 3) 32 32
/-- KVQ's check of P3 (R436). -/
def kvOk (d : Desc) : Bool := kvC d % 32 == 0 && decide (kvC d ≤ 8192) && kvC d != 0 && decide (1 ≤ kvW d) && decide (kvW d ≤ 1024)
/-- INBYTES. -/
def kvIn (d : Desc) : Nat := dfld d 4 4
/-- Bytes of the tokens KVQ keeps: T tokens of 2C bytes. -/
def kvKeep (d : Desc) : Nat := if kvOk d then kvIn d / (2 * kvC d) * (2 * kvC d) else 0
/-- The archive row of a ring token under the channel scales (R298). -/
def kvRow (c : Nat) (ring scales : List Byte) : List Byte :=
  let v := leVal ring
  packBytes4 ((List.range c).map (fun i => (quantUnder 0 (scales.getD i 0).toNat (fdec (fmtOf .bf16) (fld v (16 * i) 16))).1))
where
  /-- Two nibbles a byte, the lower element in the lower nibble. -/
  packBytes4 (l : List Nat) : List Byte := leBytes (l.length / 2) (packElems 4 l)
/-- Token number `t` with its bytes (R298): archive the token that leaves the window, then write the ring. -/
def State.kvToken (s : State) (d : Desc) (t : Nat) (tok : List Byte) : Acc PUnit :=
  let c := kvC d
  let slot := toW (kvP d 0 + 2 * c * (t % kvW d))
  (s.engProbe slot (2 * c)).bind fun _ s =>
    (if t < kvW d then s.engWrite slot tok
     else
       (s.engRead 0 slot (2 * c)).bind fun ring s =>
         (s.engRead (2 ^ 40) (toW (kvP d 2)) c).bind fun sc s =>
           ((s.engWrite (toW (kvP d 1 + (t - kvW d) * (c / 2))) (kvRow c ring sc)).bind fun _ s => s.engWrite slot tok).orElseAt s)
/-- Do up to `n` bytes at the head of buffer `k` of a unit hold a word with an uncorrectable error (R34)? -/
def State.kvBad (s : State) (uid k n : Nat) : Bool :=
  match (s.unitOf uid).streams[k]? with
  | none => false
  | some b => (List.range (if b.fill < n then b.fill else n)).any (fun j => s.loftBad uid (b.off + (b.head + j) % b.size) 1)
/-- Consume up to `n` bytes of buffer `k` of a unit. -/
def State.kvTake (s : State) (uid k n : Nat) : List Byte × State :=
  match (s.unitOf uid).streams[k]? with
  | none => ([], s)
  | some b =>
    let m := if b.fill < n then b.fill else n
    (s.streamRead uid b m, s.modUnit uid (fun u => u.consume k m))
/-- KVQ (R298, R436): the standard routine, whose code and entry address the spec does not give (log 9), run for a routine at that address.
One event consumes what the stream holds up to the next token's end, handles that token, or ends the command. -/
def execKvq (core : Nat) (s : State) : Host.Outcome State Fault Refusal :=
  let x := s.rt core
  match s.wainCmd core x.seq with
  | none => .next s
  | some w =>
    let d := w.desc
    if (s.coreOf core).routine.isNone || x.pc != Config.kvqEntry || w.fault.isSome then .next s
    else if x.consumed = kvIn d ∧ x.held = [] then
      .next (s.modCore core (fun y => { y with
        routine := none
        wq := y.wq.map (fun z => if z.seq == w.seq then { z with finished := true } else z) }))
    else
      match s.destOf w.uid (toW (dfld d 16 8)) with
      | none => .next (s.faultWain core w.seq (tr cSTREAM 0 (toW (dfld d 16 8))))
      | some (v, k) =>
        if v ≠ w.uid then .next (s.faultWain core w.seq (tr cSTREAM 0 (toW (dfld d 16 8))))
        else
          let tokens := decide (x.consumed < kvKeep d) || !x.held.isEmpty
          let want := if tokens then 2 * kvC d - x.held.length else kvIn d - x.consumed
          if s.kvBad w.uid k want then .next (s.faultWain core w.seq (tr cMCHK 2 (toW (dfld d 16 8))))
          else
          let r := s.kvTake w.uid k want
          let held := if tokens then x.held ++ r.1 else []
          let s1 := r.2.modRt core (fun y => { y with consumed := y.consumed + r.1.length, held := held })
          if tokens && held.length == 2 * kvC d then
            let j := (x.consumed + r.1.length) / (2 * kvC d) - 1
            match (s1.asWain w).kvToken d (kvT0 d + j) held with
            | .trap t s2 => .next ((s2.dropReplies.back s).faultWain core w.seq t)
            | .wait _ s2 => .next (s2.back s)
            | .ok _ s2 => .next ((s2.dropReplies.back s).modRt core (fun y => { y with held := [] }))
          else .next s1

end Sys2Proof.Machine
end

