-- ==== Sys2Proof/Machine/Events.lean ====
section
/-!
DEFINITION. Events of traps, blocks and barriers: deferred faults (R257, R286), AS_INTR (R311), fault records (R315), block fetches
(R160), barrier episodes with the sealed merge (R365, R217, R426), counter advances from outside (R172) and the end of a WFE (R366).
-/
namespace Sys2Proof.Machine

/-! ### Faults that reach a reeve later -/

/-- May reeve `r` of a unit take an event at a boundary: it runs, and its instruction has nothing in flight? -/
def State.atBoundary (s : State) (uid r : Nat) : Bool :=
  let u := s.unitOf uid
  let x := u.reeveOf r
  u.live && u.place == .running && decide (r < u.rv) && x.started && !x.ended && !s.reqOut uid r
/-- A faulted engine command of a reeve that it has not been told of: the trap, the instruction, and what marks it as told. -/
structure EngFault where
  trap : TrapInfo
  iaddr : Word
  wain : Option (Nat × Nat)
/-- A wain command's fault: INFO0 is its progress and INFO1 its descriptor (R314). -/
def State.wainFault (s : State) (uid r : Nat) : Option EngFault :=
  s.cores.findSome? (fun p => p.2.wq.findSome? (fun w =>
    if w.uid == uid && w.reeve == r && !w.reported then
      w.fault.map (fun t => ⟨{ t with info0 := toW w.done, info1 := w.descVA }, w.iaddr, some (p.1, w.seq)⟩)
    else none))
/-- The next such fault: the oldest matrix entry's, else a wain command's in order of issue. -/
def State.engFault (s : State) (uid r : Nat) : Option EngFault :=
  let u := s.unitOf uid
  match u.matHead r with
  | some e =>
    match e.fault, e.reported with
    | some t, false => some ⟨{ t with info0 := (u.reeveOf r).rowp, info1 := 0 }, e.iaddr, none⟩
    | _, _ => s.wainFault uid r
  | none => s.wainFault uid r
/-- Is a deferred fault due for a reeve? Not inside a trap handler (R322). -/
def State.faultDue (s : State) (uid r : Nat) : Bool :=
  s.atBoundary uid r && !((s.unitOf uid).reeveOf r).inHandler && (s.engFault uid r).isSome
/-- The fault of a wain command whose task has ended (R371). -/
def State.endedFault (s : State) (uid r : Nat) : Option EngFault :=
  let u := s.unitOf uid
  if u.live && !u.initial && (u.reeveOf r).ended && (match s.passOf u with | some x => !x.st.over | none => false) then s.wainFault uid r else none
/-- DEFERRED_FAULT (R257, R286, R371): the reeve takes a faulted engine command's trap at its next boundary; the fault of a command whose task has
ended ends the pass FAULTED with its cause and one record. -/
def execDeferredFault (uid r : Nat) (s : State) : Host.Outcome State Fault Refusal :=
  let u := s.unitOf uid
  match s.endedFault uid r with
  | some f =>
    let s1 := match f.wain with
      | some (c, q) => s.modWain c q (fun w => { w with reported := true })
      | none => s
    .next ((s1.record uid r f.trap f.iaddr (recFlags false false false 0 true) false).endPass u.part (passSeq u.passId) .faulted 0 f.trap.code.toNat)
  | none =>
  if !s.faultDue uid r then .next s
  else
    match s.engFault uid r with
    | none => .next s
    | some f =>
      let s1 := match f.wain with
        | some (c, q) => s.modWain c q (fun w => { w with reported := true })
        | none => s.modUnit uid (fun u => match u.matHead r with
          | some e => { u with mq := setHead r { e with reported := true } u.mq }
          | none => u)
      let s2 : State := { s1 with uid := uid, who := .reeve r, eng := none }
      .next ((s2.reeveTrap f.trap true f.iaddr).back s)

/-- The task that AS_INTR goes to: running, in task mode, with mask bit 0x21 set; lowest pass id, then lowest task id (R311). -/
def State.intrTarget (s : State) (p : Nat) : Option (Nat × Nat) :=
  let c := s.units.flatMap (fun x =>
    if x.2.part != p then []
    else (List.range x.2.rv).filterMap (fun r =>
      let y := x.2.reeveOf r
      if x.2.live && x.2.place == .running && y.started && !y.ended && y.mode == .task && y.mask.getLsbD cINTR && !x.2.initial then
        some (x.2.passId.toNat, x.2.taskId r, x.1, r)
      else none))
  (c.foldl (fun (b : Option (Nat × Nat × Nat × Nat)) x => match b with
    | none => some x
    | some y => if x.1 < y.1 || (x.1 == y.1 && decide (x.2.1 < y.2.1)) then some x else b) none).map (fun x => x.2.2)
/-- Is a signal due and deliverable? -/
def State.intrDue (s : State) (p : Nat) : Option (Nat × Nat) :=
  let x := s.partOf p
  if x.signalled < x.faultSeq then (s.intrTarget p).filter (fun t => s.atBoundary t.1 t.2) else none
/-- AS_INTR (R311): new fault records are signalled to one task. -/
def execAsIntr (p : Nat) (s : State) : Host.Outcome State Fault Refusal :=
  match s.intrDue p with
  | none => .next s
  | some (uid, r) =>
    let q := (s.partOf p).faultSeq
    let t := tr cINTR 0 (toW q)
    let s1 : State := { s with uid := uid, who := .reeve r, eng := none }
    .next (((s1.enter r t s1.re.pc (causeWord t false false 0)).modPart p (fun x => { x with signalled := q })).back s)

/-! ### Fault records (R315) -/

/-- FAULT_RECORD (R315, R107): the oldest waiting record is written, bytes 63:8 and then its SEQ; without space it waits. -/
def execFaultRecord (p : Nat) (s : State) : Host.Outcome State Fault Refusal :=
  let x := s.partOf p
  match x.faults with
  | [] => .next s
  | f :: rest =>
    if !s.recordFits p then .next s
    else
      let q := x.faultSeq + 1
      let a := x.reserveBase + 64 * ((q - 1) % recSlots)
      let s1 := (s.hbmWrite (a + 8) ((leBytes 64 f.body.toNat).drop 8)).hbmWrite a (leBytes 8 q)
      let s2 := s1.modPart p (fun x => { x with faults := rest, faultSeq := q })
      let s3 := if f.passId = 0 then s2
        else s2.modPass p (passSeq f.passId) (fun y => { y with
          nflt := if y.nflt < 255 then y.nflt + 1 else 255
          ftask := y.ftask.orElse (fun _ => some f.task) })
      .next (if f.parks then s3.modUnit f.uid (fun u => if f.reeve == 0 then { u with seq0 := q } else { u with seq1 := q }) else s3)

/-! ### Blocks (R160) -/

/-- Read words from `a` up to and including the first VEND, at most `n` of them; the trap names the failing address. -/
def State.fetchBlock (s : State) (start : Word) : Nat → Word → List Word → Acc (List Word)
  | 0, _, _ => .trap (tr cFETCH 0 start) s
  | n + 1, a, acc =>
    match s.readCode s.xc a with
    | .trap t s => .trap t s
    | .wait w s => .wait w s
    | .ok w s =>
      if decode w == some .vend then .ok (acc ++ [w]) s else s.fetchBlock start n (a + 8) (acc ++ [w])
/-- May sheaf `k` of a unit take its next block? -/
def State.blockDue (s : State) (uid k : Nat) : Bool :=
  let u := s.unitOf uid
  let x := u.sheafOf k
  u.live && u.place == .running && decide (k < u.nSheaves) && !x.busy && !x.stopped && !x.queue.isEmpty
/-- Start a block on a sheaf: its words and arguments. -/
def startBlock (e : DispatchEntry) (l : List Word) (x : Sheaf) : Sheaf :=
  { x with
    queue := x.queue.drop 1
    busy := true
    pc := e.addr
    blockAddr := e.addr
    block := l
    blockPoison := []
    blockSeq := e.seq
    wait := none
    h := ((List.range e.args.length).zip e.args).foldl (fun h p => KMap.set 0 h p.1 p.2) x.h
    hPoison := (List.range e.args.length).foldl (fun h i => KMap.set false h i false) x.hPoison }
/-- BLOCK_FETCH (R160): an idle sheaf takes its oldest dispatch; a failed fetch is a trap of the sheaf on the block (R161). -/
def execBlockFetch (uid k : Nat) (s : State) : Host.Outcome State Fault Refusal :=
  if !s.blockDue uid k then .next s
  else
    match ((s.unitOf uid).sheafOf k).queue with
    | [] => .next s
    | e :: _ =>
      let s1 : State := { s.modUnit uid (fun u => u.captureVt k) with uid := uid, who := .sheaf k, eng := none }
      match s1.fetchBlock e.addr 512 e.addr [] with
      | .trap t s2 => .next ((s2.takeTrapAt t e.addr).back s)
      | .wait _ s2 => .next (s2.back s)
      | .ok l s2 => .next ((s2.modSh (startBlock e l)).back s)

/-! ### Barriers (R365, R217, R426) -/

/-- The tasks of a pass as (task id, unit, reeve), in task-id order. -/
def State.tasksOf (s : State) (p : Nat) (id : Word) : List (Nat × Nat × Nat) :=
  (s.units.filter (fun x => x.2.live && x.2.part == p && x.2.passId == id && !x.2.initial)).flatMap (fun x =>
    (List.range x.2.rv).map (fun r => (x.2.taskId r, x.1, r)))
/-- The bytes a task's log holds, as (physical, virtual) addresses. -/
def logBytes (l : List LogEntry) : List (Nat × Nat) :=
  l.flatMap (fun e => (List.range 64).filterMap (fun i => if e.mask.getLsbD i then some (e.addr + i, e.va.toNat + i) else none))
/-- A conflict of a merge: the lowest address A that two logs share, and the two lowest tasks t1 < t2 that hold it. -/
structure Conflict where
  va : Word
  t1 : Nat
  t2 : Nat × Nat × Nat
/-- Step 1 of R217. -/
def State.sealConflict (s : State) (tasks : List (Nat × Nat × Nat)) : Option Conflict :=
  let logs := tasks.map (fun t => (t, logBytes ((s.unitOf t.2.1).reeveOf t.2.2).log))
  let holders (pa : Nat) : List (Nat × Nat × Nat) := (logs.filter (fun l => l.2.any (fun b => b.1 == pa))).map (·.1)
  let shared := logs.flatMap (fun l => l.2.filter (fun b => logs.any (fun m => m.1.1 != l.1.1 && m.2.any (fun c => c.1 == b.1))))
  match minPair (shared.map (fun b => (b.2, b.1))) with
  | none => none
  | some (va, pa) =>
    match minPair ((holders pa).map (fun t => (t.1, t.1))) with
    | none => none
    | some (t1, _) =>
      let others := (holders pa).filter (fun t => t.1 != t1)
      match minPair (others.map (fun t => (t.1, t.1))) with
      | none => none
      | some (t2, _) => (others.find? (fun t => t.1 == t2)).map (fun t => ⟨toW va, t1, t⟩)
/-- Write one log entry's bytes to memory. -/
def State.mergeEntry (s : State) (e : LogEntry) : State :=
  (List.range 64).foldl (fun s i => if e.mask.getLsbD i then s.hbmStore (e.addr + i) [e.data.extractLsb' (8 * i) 8] else s) s
/-- Step 2 of R217: the logs are written in increasing task id and emptied. -/
def State.mergeLogs (s : State) (tasks : List (Nat × Nat × Nat)) : State :=
  tasks.foldl (fun s t =>
    let log := ((s.unitOf t.2.1).reeveOf t.2.2).log
    (log.foldl State.mergeEntry s).modUnit t.2.1 (fun u => u.modReeve t.2.2 (fun x => { x with log := [] }))) s
/-- The FT_SEAL of R217. -/
def sealTrap (c : Conflict) : TrapInfo := { tr cSEAL 0 c.va with info0 := toW c.t1, info1 := toW c.t2.1 }
/-- Raise FT_SEAL on the arrival instruction of task t2 for episode `e`: its reeve's BAR, or that of one of its sheaves. -/
def State.raiseSeal (s : State) (c : Conflict) (e : Nat) : State :=
  let (_, uid, r) := c.t2
  let u := s.unitOf uid
  if u.place != .running then s
  else if (u.reeveOf r).barAt == some e then
    let s1 : State := { s with uid := uid, who := .reeve r, eng := none }
    (s1.takeTrap (sealTrap c)).back s
  else
    match (u.owned r).find? (fun k => (u.sheafOf k).arrived == some e) with
    | none => s
    | some k =>
      let s1 : State := { s with uid := uid, who := .sheaf k, eng := none }
      (s1.takeTrap (sealTrap c)).back s
/-- Have all tasks of a pass arrived at its pending episode, or ended (R365)? -/
def State.episodeDue (s : State) (x : Pass) (p : Nat) : Bool :=
  let tasks := s.tasksOf p (passIdOf p x.seq)
  !x.st.over && tasks.any (fun t => !((s.unitOf t.2.1).reeveOf t.2.2).ended) &&
  tasks.all (fun t => let y := (s.unitOf t.2.1).reeveOf t.2.2; y.ended || decide (x.episode < y.arrivals))
/-- Is the pending episode of a pass one that merges: a sealed pass with a `bar.seal` among its arrivals? -/
def State.sealEpisode (s : State) (x : Pass) (p : Nat) : Bool :=
  (dfld x.lrec 8 2).testBit 0 && (s.tasksOf p (passIdOf p x.seq)).any (fun t =>
    let y := (s.unitOf t.2.1).reeveOf t.2.2
    y.barAt == some (x.episode + 1) && y.barSealed)
/-- BAR_EPISODE (R365, R217): the pending episode of a pass completes, or its merge finds a conflict. -/
def execBarEpisode (passId : Word) (s : State) : Host.Outcome State Fault Refusal :=
  let p := passPart passId
  match s.passAt p (passSeq passId) with
  | none => .next s
  | some x =>
    if !s.episodeDue x p then .next s
    else
      let fin (s : State) : State := s.modPass p x.seq (fun y => { y with episode := y.episode + 1 })
      if !s.sealEpisode x p then .next (fin s)
      else
        let tasks := s.tasksOf p passId
        match s.sealConflict tasks with
        | none => .next (fin ((s.mergeLogs tasks).modPass p x.seq (fun y => { y with snap := [] })))
        | some c =>
          if ((s.unitOf c.t2.2.1).reeveOf c.t2.2.2).ended then
            .next ((s.modPass p x.seq (fun y => { y with ftask := some c.t2.1 })).endPass p x.seq .faulted 0 cSEAL)
          else .next (s.raiseSeal c (x.episode + 1))
/-- The episode that completes for mask `m`, if any: the lowest waiting arrival, when every sheaf of `m` has made it (R426). -/
def Unit.vbarsDue (u : Unit) (m : Nat) : Option Nat :=
  let ks := (List.range 8).filter (fun k => m.testBit k)
  let at' := ks.filterMap (fun k => match (u.sheafOf k).vbarsAt with
    | some (a, n) => if a == m && n != 0 then some (n, k) else Option.none
    | Option.none => Option.none)
  match minPair at' with
  | Option.none => Option.none
  | some (n, _) => if ks.all (fun k => decide (n ≤ KMap.get 0 (u.sheafOf k).arrivals m)) then some n else Option.none
/-- VBARS_EPISODE (R426): every sheaf of the mask has arrived, and the waiting arrivals resume. -/
def execVbarsEpisode (uid : Nat) (m : BitVec 8) (s : State) : Host.Outcome State Fault Refusal :=
  match (s.unitOf uid).vbarsDue m.toNat with
  | none => .next s
  | some n => .next (s.modUnit uid (fun u => (List.range 8).foldl (fun u k => u.modSheaf k (fun x =>
      if x.vbarsAt == some (m.toNat, n) then { x with vbarsAt := some (m.toNat, 0) } else x)) u))

/-! ### Counters and WFE -/

/-- TIMELINE_ADVANCE (R172, R211): one indivisible advance of a counter of a unit by an engine outside its core, at `.pk`. -/
def execTimelineAdvance (uid n : Nat) (k : Word) (s : State) : Host.Outcome State Fault Refusal :=
  if (s.unitOf uid).live && decide (n < 16) then .next (s.advance uid n k.toNat false) else .next s
/-- WFE_TIMEOUT (R366): the limit of a waiting WFE has passed, so it waits no longer. -/
def execWfeTimeout (uid r : Nat) (s : State) : Host.Outcome State Fault Refusal :=
  let x := (s.unitOf uid).reeveOf r
  if x.wait == some .wfe && x.wfeLeft == some 0 then .next (s.modUnit uid (fun u => u.modReeve r (fun x => { x with wait := none }))) else .next s

end Sys2Proof.Machine
end

