-- ==== Sys2Proof/Machine/System.lean ====
section
/-!
DEFINITION. The system instructions (R368-R374): special registers, traps and returns, the end of a task or routine, TLB
invalidation and the shard table's own write.
-/
namespace Sys2Proof.Machine

/-! ### Special registers (R337, R369) -/

/-- The value of system register `num`, of sheaf `k` where a sheaf owns it, zero-extended. -/
def State.sysValue (s : State) (num k : Nat) : Word :=
  let x := s.cu.sheafOf k
  let r := s.re
  let p := s.partOf s.cu.part
  match num with
  | 0x00 => toW x.vl
  | 0x01 => x.vt
  | 0x02 => x.vstrt
  | 0x03 => r.rowp
  | 0x04 => x.rrb
  | 0x05 => x.stg
  | 0x06 => s.cu.lpart
  | 0x07 => r.fx
  | 0x08 => x.vfx
  | 0x09 => r.cause
  | 0x0A => r.epc
  | 0x0B => r.tval
  | 0x0C => p.tvec
  | 0x0D => p.gatebase
  | 0x0E => r.budget
  | 0x0F => r.cyc
  | 0x10 => s.tim
  | 0x11 => toW r.taskId
  | _ => 0
/-- Registers that are RO in the mode concerned (R337): `%vstrt` only in task mode. -/
def sysRO (num : Nat) (keep : Bool) : Bool :=
  num == 0x03 || num == 0x06 || decide (0x0E ≤ num) || (num == 0x02 && !keep)
/-- Write sheaf-owned register `num` (R369, R316, R339). -/
def sysSheaf (num : Nat) (v : Word) (lanes : Nat) (x : Sheaf) : Sheaf :=
  match num with
  | 0x00 => let m := vlMax x.vt lanes; let n := fld v.toNat 0 17; { x with vl := if n ≤ m then n else m }
  | 0x01 => { x with vt := vtWrite v }
  | 0x02 => { x with vstrt := toW (fld v.toNat 0 17) }
  | 0x04 => { x with rrb := v }
  | 0x05 => { x with stg := v }
  | _ => { x with vfx := toW (fld v.toNat 0 7) }
/-- Write system register `num` (R369). Reserved fields of `%cause` and `%tvec` read 0 (log 16), as do the RO bits of `%fx` and `%vfx`, where
SHOF reads 0 in `%fx` (R229). -/
def State.sysPut (s : State) (num k : Nat) (v : Word) : State :=
  match num with
  | 0x07 => s.modRe (fun x => { x with fx := toW (fld v.toNat 0 6) })
  | 0x09 => s.modRe (fun x => { x with cause := toW (fld v.toNat 0 31) })
  | 0x0A => s.modRe (fun x => { x with epc := v })
  | 0x0B => s.modRe (fun x => { x with tval := v })
  | 0x0C => s.modPart s.cu.part (fun p => { p with tvec := toW (v.toNat / 8 * 8) })
  | 0x0D => s.modPart s.cu.part (fun p => { p with gatebase := v })
  | 0x01 => s.modCu (fun u => (u.captureVt k).modSheaf k (sysSheaf num v (32 / u.nSheaves)))
  | _ => s.modCu (fun u => u.modSheaf k (sysSheaf num v (32 / u.nSheaves)))
/-- May sheaf `k`'s registers be reached now (R337)? -/
def State.sheafOpen (s : State) (k : Nat) : Bool := let x := s.cu.sheafOf k; x.stopped || !x.busy

/-- SYSRD (R369). -/
def execSysrd (d : Reg) (k : BitVec 3) (num : BitVec 6) (s : State) : Host.Outcome State Fault Refusal :=
  s.perform (encode (.sysrd d k num)) (opRuns 0x70) (sysKeeper num) [d] [] fun s =>
    if sheafSys num && !s.cu.owns s.rIdx k.toNat then .trap (wrongCtx (.sysrd d k num)) s
    else if sheafSys num && !s.sheafOpen k.toNat then .wait .queue s
    else .go (s.wr d (s.sysValue num.toNat k.toNat))
/-- SYSWR (R369). -/
def execSyswr (a : Reg) (k : BitVec 3) (num : BitVec 6) (s : State) : Host.Outcome State Fault Refusal :=
  s.perform (encode (.syswr a k num)) (opRuns 0x71) (sysKeeper num) [a] [a] fun s =>
    if sysRO num.toNat s.keeper || (sheafSys num && !s.cu.owns s.rIdx k.toNat) then .trap (wrongCtx (.syswr a k num)) s
    else if sheafSys num && !s.sheafOpen k.toNat then .wait .queue s
    else .go (s.sysPut num.toNat k.toNat (s.rd a))

/-! ### Traps, return, end -/

/-- TRAP (R370): FT_TRAP with subcode imm16. -/
def execTrap (imm : BitVec 16) (s : State) : Host.Outcome State Fault Refusal :=
  s.perform (encode (.trap imm)) (opRuns 0x72) false [] [] fun s => .trap (tr cTRAP imm.toNat 0) s
/-- BRK (R370): FT_BRK. -/
def execBrk (s : State) : Host.Outcome State Fault Refusal :=
  s.perform (encode .brk) (opRuns 0x77) false [] [] fun s => .trap (tr cBRK 0 0) s
/-- ERET (R309, R370), in keeper mode; a misaligned `%epc` raises FT_ALIGN on it (R323). -/
def execEret (s : State) : Host.Outcome State Fault Refusal :=
  s.perform (encode .eret) (opRuns 0x73) true [] [] fun s =>
    if s.re.epc.toNat % 8 ≠ 0 then .trap (tr cALIGN 0 s.re.epc) s else .stay s.eret
/-- NOP (R373). -/
def execNop (s : State) : Host.Outcome State Fault Refusal :=
  s.perform (encode .nop) (opRuns 0x76) false [] [] fun s => .go s

/-- May the reeve's task end now (R371 step 1, R163, R71)? -/
def State.endReady (s : State) : Bool :=
  let u := s.cu
  let r := s.rIdx
  (u.owned r).all (fun k => (u.sheafOf k).idle) && !u.mq.any (fun e => e.reeve == r) && !s.ownStores.any (fun t => !t.accepted)
/-- What END waits for: an implicit VJOIN of each owned sheaf first (R163), a runnable one before the others, then the rest. -/
def State.endWait (s : State) : Wait :=
  let l := (s.cu.owned s.rIdx).filter (fun k => !(s.cu.sheafOf k).idle)
  match l.find? (fun k => (s.cu.sheafOf k).runnable), l with
  | some k, _ => .vjoin k
  | none, k :: _ => .vjoin k
  | none, [] => .fence
/-- The task of reeve `r` has ended (R371, R163): no link, no handler, no reply left. -/
def Unit.endTask (u : Unit) (r : Nat) : Unit :=
  (u.owned r).foldl (fun u k => u.modSheaf k (fun x => { x with replies := [] }))
    (u.modReeve r (fun x => { x with ended := true, link := Option.none, inHandler := false, mode := .task, wait := Option.none, waited := 0 }))
/-- Have all tasks of a unit ended? -/
def Unit.allEnded (u : Unit) : Bool := (List.range u.rv).all (fun r => (u.reeveOf r).ended)
/-- The initial keeper task executed END (R116): the unit is gone, the partition is ACTIVE and command 4 ends with OK. -/
def State.initialEnd (s : State) : State :=
  let p := s.cu.part
  let uid := s.uid
  let s := (s.modCu (fun u => u.endTask 0)).leaveCore uid .over
  { s.modPart p (fun x => { x with st := if x.pcctl.getLsbD 0 then .quiesced else .active }) with
    units := KMap.set Unit.none s.units uid Unit.none, mgst := .ready, mgres := resOK }
/-- The end of a task whose conditions hold (R371, R71, R139). -/
def State.endNow (s : State) : State :=
  let u := s.cu
  let r := s.rIdx
  match s.re.fail with
  | some f =>
    if u.initial then s.initialTrap (tr f.code.toNat 0 f.addr)
    else
      s.endPass u.part (passSeq u.passId) .faulted 0 f.code.toNat
  | none =>
    if u.initial then s.initialEnd
    else
      let s := s.modCu (fun u => u.endTask r)
      if s.cu.allEnded then s.leaveCore s.uid .over else s
/-- A wain routine ends its command (R297); its flags are discarded. -/
def State.endRoutine (s : State) (c : Nat) : State :=
  let q := (s.rt c).seq
  s.modCore c (fun x => { x with
    routine := none
    wq := x.wq.map (fun w => if w.seq == q then { w with finished := true } else w) })
/-- END (R371, R297). -/
def execEndTask (s : State) : Host.Outcome State Fault Refusal :=
  s.perform (encode .endTask) (opRuns 0x74) false [] [] fun s =>
    match s.who with
    | .wain c => .stay (s.endRoutine c)
    | _ => if s.endReady then .stay s.endNow else .wait s.endWait s

/-! ### TLB invalidation (R372, R186) -/

/-- What a TLBINV covers: an address space of the partition, or all of them. -/
def invCovers (asid : Option Nat) (x : Nat) : Bool :=
  match asid with
  | none => true
  | some a => a == x
/-- Does a page range touch one of the pages that hold `va`, by the leaves cached for it? -/
def State.invPages (s : State) (part asid : Nat) (va : Word) : List (Nat × Nat) :=
  (va.toNat / 4096 * 4096, 4096) ::
  (s.tlb.filter (fun t => t.part == part && t.asid == asid && decide (t.base ≤ va.toNat) && decide (va.toNat < t.base + t.size))).map
    (fun t => (t.base, t.size))
/-- Does an address lie in one of a list of ranges? -/
def inRanges (l : List (Nat × Nat)) (a : Nat) : Bool := l.any (fun r => decide (r.1 ≤ a) && decide (a < r.1 + r.2))
/-- Is an earlier access by old entries still outstanding (R186): a remote store not yet accepted, or a load, atomic or sharded request whose
reply has not come? -/
def State.invBusy (s : State) (part : Nat) (asid : Option Nat) (hit : Nat → Bool) : Bool :=
  let c (u : Unit) : Bool := u.live && u.part == part && invCovers asid u.asid
  s.units.any (fun u => c u.2 &&
    (u.2.reeves.any (fun r => r.2.stores.any (fun t => !t.accepted && hit t.addr.toNat)) || u.2.replies.any (fun p => p.reply.isNone && hit p.va.toNat))) ||
  s.shardOut.any (fun o => o.gone && o.status.isNone && c (s.unitOf o.uid))
/-- Drop every cached copy of the covered pages on the package (R186, R61, R64, R189). -/
def State.invDrop (s : State) (part : Nat) (asid : Option Nat) (hit : Nat → Bool) (dirs : Bool) : State :=
  let c (p a : Nat) : Bool := p == part && invCovers asid a
  let s := { s with
    tlb := s.tlb.filter (fun t => !(c t.part t.asid && hit t.base))
    ptrs := s.ptrs.filter (fun t => !c t.part t.asid)
    fabric := s.fabric.filter (fun l => !(c l.part l.asid && hit l.va))
    fills := s.fills.map (fun f => if c f.part f.asid && hit f.va then { f with noInstall := true, closed := true } else f)
    migration := s.migration.filter (fun m => !(c m.part m.asid && hit m.base))
    units := s.units.map (fun u => if c u.2.part u.2.asid then
      (u.1, { u.2 with views := u.2.views.map (fun v => (v.1, v.2.map (fun w => { w with tiles := [] }))) }) else u) }
  if dirs then
    s.modPart part (fun p => { p with dir := p.dir.filter (fun e => !invCovers asid e.1) })
  else s
/-- A TLBINV of a covering test. -/
def State.doInv (s : State) (asid : Option Nat) (hit : Nat → Bool) (dirs : Bool) : Eff :=
  let part := s.cu.part
  if s.invBusy part asid hit then .wait .fence s else .go (s.invDrop part asid hit dirs).refill
/-- The address space g[b][15:0]. -/
def State.invAsid (s : State) (b : Reg) : Nat := fld (s.rd b).toNat 0 16

/-- TLBINV of one page (R372). -/
def execTlbinvPg (a b : Reg) (s : State) : Host.Outcome State Fault Refusal :=
  s.perform (encode (.tlbinvPg a b)) (opRuns 0x75) true [a, b] [a, b] fun s =>
    if !canonical (s.rd a) then .trap (tr cPAGE 0 (s.rd a)) s
    else
      let l := s.invPages s.cu.part (s.invAsid b) (s.rd a)
      s.doInv (some (s.invAsid b)) (inRanges l) false
/-- TLBINV of one address space (R372, R176). -/
def execTlbinvAs (b : Reg) (s : State) : Host.Outcome State Fault Refusal :=
  s.perform (encode (.tlbinvAs b)) (opRuns 0x75) true [b] [b] fun s => s.doInv (some (s.invAsid b)) (fun _ => true) true
/-- TLBINV of every address space of the partition (R372, R176). -/
def execTlbinvAll (s : State) : Host.Outcome State Fault Refusal :=
  s.perform (encode .tlbinvAll) (opRuns 0x75) true [] [] fun s => s.doInv none (fun _ => true) true

/-- SHSET (R374): the descriptor at g[b] becomes descriptor g[a] of the current address space. -/
def execShset (a b : Reg) (s : State) : Host.Outcome State Fault Refusal :=
  s.perform (encode (.shset a b)) (opRuns 0x7A) true [a, b] [a, b] fun s =>
    let va := s.rd b
    if va.toNat % 64 ≠ 0 then .trap (tr cALIGN 0 va) s
    else
      (s.descRead va).eff fun d s =>
        let u := s.cu
        if dirNshd (s.dirEntry u.part u.asid) ≤ (s.rd a).toNat then .trap (tr cSHARD 3 0) s
        else .go (s.shWrite u.part u.asid (s.rd a).toNat d)

end Sys2Proof.Machine
end

