-- ==== Sys2Proof/Machine/Dispatcher.lean ====
section
/-!
DEFINITION. The dispatcher: launches and their check (R100-R104, R132, R133), placement and task start (R134-R141, R92), pre-emption
and resumption (R143, R144, R148, R150), turns (R139), budgets (R147), dispositions of parked units (R149, R321) and completion (R107-R109).
-/
namespace Sys2Proof.Machine

/-! ### Launch records and image headers -/

/-- PROGVA. -/
def lrProg (d : Desc) : Word := toW (dfld d 56 8)
/-- ARGVA. -/
def lrArg (d : Desc) : Word := toW (dfld d 48 8)
/-- CMPVA. -/
def lrCmp (d : Desc) : Word := toW (dfld d 40 8)
/-- BUDGET. -/
def lrBudget (d : Desc) : Nat := dfld d 32 8
/-- ASID. -/
def lrAsid (d : Desc) : Nat := dfld d 30 2
/-- PRIO. -/
def lrPrio (d : Desc) : Nat := dfld d 10 1
/-- FLAGS. -/
def lrFlags (d : Desc) : Nat := dfld d 8 2
/-- SEALED. -/
def lrSealed (d : Desc) : Bool := (lrFlags d).testBit 0
/-- A field of the record, or the header's where it is 0 (R133). -/
def lrOr (d h : Desc) (a b : Nat) : Nat := if dfld d a 1 ≠ 0 then dfld d a 1 else dfld h b 1
/-- X, Y, S, Rv and LANES of a launch. -/
def lrX (d h : Desc) : Nat := lrOr d h 15 16
def lrY (d h : Desc) : Nat := lrOr d h 14 17
def lrS (d h : Desc) : Nat := lrOr d h 13 18
def lrRv (d h : Desc) : Nat := lrOr d h 12 19
def lrLanes (d h : Desc) : Nat := lrOr d h 11 20
/-- WLOG of a launch (R133). -/
def lrWlog (d h : Desc) : Nat := if !lrSealed d then 0 else if dfld d 16 4 ≠ 0 then dfld d 16 4 else dfld h 28 4
/-- LOFT of an image. -/
def imLoft (h : Desc) : Nat := dfld h 24 4
/-- The predecessor distances that are used. -/
def lrPred (d : Desc) : List Nat := ((List.range 4).map (fun k => dfld d (20 + 2 * k) 2)).filter (· ≠ 0)

/-- The record's own fields (R102). -/
def recordOk (d : Desc) : Bool :=
  dfld d 0 4 == 0 && decide (dfld d 6 2 < 2048) && decide (lrFlags d < 8) && decide (lrPrio d < 8) && decide (dfld d 12 1 ≤ 2) &&
  (dfld d 11 1 == 0 || dfld d 11 1 == 1 || dfld d 11 1 == 2 || dfld d 11 1 == 4 || dfld d 11 1 == 8) &&
  decide (dfld d 13 1 ≤ 8) && decide (dfld d 14 1 ≤ 64) && decide (dfld d 15 1 ≤ 8) && dfld d 56 8 % 64 == 0 && dfld d 40 8 % 32 == 0 &&
  (lrSealed d || dfld d 16 4 == 0)
/-- The image header's own fields (R132). -/
def headerOk (h : Desc) : Bool :=
  dfld h 0 2 == 0x5A4C && decide (dfld h 2 1 < 2) && dfld h 3 5 == 0 && dfld h 23 1 == 0 && dfld h 40 24 == 0 && dfld h 8 4 % 8 == 0 &&
  dfld h 12 4 % 8 == 0 && decide (dfld h 21 1 ≤ 32) && decide (dfld h 22 1 ≤ 64) && imLoft h % 4096 == 0 && decide (imLoft h ≤ 2 ^ 22) &&
  dfld h 32 4 % 8 == 0 && dfld h 36 4 % 8 == 0
/-- The grid that results (R17, R133). -/
def gridOk (d h : Desc) : Bool :=
  decide (1 ≤ lrX d h) && decide (lrX d h ≤ 8) && decide (1 ≤ lrY d h) && decide (lrY d h ≤ 64) && decide (lrX d h * lrY d h ≤ 512) &&
  decide (1 ≤ lrS d h) && decide (lrS d h ≤ 8) && (lrRv d h == 1 || lrRv d h == 2) &&
  (lrLanes d h == 1 || lrLanes d h == 2 || lrLanes d h == 4 || lrLanes d h == 8) &&
  lrSealed d == (dfld h 2 1).testBit 0 && (!lrSealed d || lrWlog d h != 0)
/-- Stream-table entries as (offset, size) (R132). -/
def streamTab (l : List Byte) (n : Nat) : List (Nat × Nat) := (List.range n).map (fun k => (elemAt l 4 (2 * k), elemAt l 4 (2 * k + 1)))
/-- The stream table's checks (R132). -/
def streamsOk (loft : Nat) (l : List (Nat × Nat)) : Bool :=
  l.all (fun e => e.1 % 64 == 0 && e.2 != 0 && e.2 % 64 == 0 && decide (e.1 + e.2 ≤ loft)) &&
  ((List.range l.length).zip l).all (fun a => ((List.range l.length).zip l).all (fun b =>
    a.1 == b.1 || decide (a.2.1 + a.2.2 ≤ b.2.1) || decide (b.2.1 + b.2.2 ≤ a.2.1)))
/-- The statex declarations' checks (R132, R265). -/
def declsOk (l : List Word) : Bool :=
  l.all (fun w => decide (fld w.toNat 0 8 ≤ 31) && (sxInit w).isSome) && (l.map (fun w => fld w.toNat 0 8)).Nodup
/-- Bytes a pass needs in the dispatcher reserve (R140). -/
def reserveNeed (x y s rv loft wlog : Nat) : Nat := x * y * s * (2 ^ 19 + loft) + x * y * s * rv * wlog * 4096
/-- The need of a pass. -/
def Pass.need (x : Pass) : Nat := reserveNeed x.x x.y x.s x.rv (imLoft x.header) x.wlog
/-- The reserve left for passes: all of it but the first 1 MiB (R315). -/
def Partition.reserveLo (p : Partition) : Nat := p.reserveBase + 2 ^ 20
/-- The end of a partition's share and reserve. -/
def Partition.shareEnd (p : Partition) : Nat := p.shareBase + p.shareSize

/-- What the check of R103 finds: the pass with header and tables read, or none for BADREC. -/
def State.checkLaunch (s : State) (p : Nat) (x : Pass) : Option Pass × State :=
  let d := x.lrec
  let c : XCtx := ⟨p, lrAsid d, false, none⟩
  let part := s.partOf p
  if !recordOk d || dfld d 28 2 ≠ part.enclave then (none, s)
  else
    match s.readVA c [] (lrProg d) 64 with
    | .ok l s =>
      let h : Desc := BitVec.ofNat 512 (leVal l)
      if !headerOk h || !gridOk d h then (none, s)
      else
        match (s.readVA c [] (lrProg d + toW (dfld h 36 4)) (8 * dfld h 22 1)).bind (fun st s =>
            (s.readVA c [] (lrProg d + toW (dfld h 32 4)) (8 * dfld h 21 1)).bind (fun sx s => .ok (st, sx) s)) with
        | .ok t s =>
          let streams := streamTab t.1 (dfld h 22 1)
          let decls := (List.range (dfld h 21 1)).map (fun k => toW (elemAt t.2 8 k))
          let y := { x with header := h, streams := streams, decls := decls, x := lrX d h, y := lrY d h, s := lrS d h, rv := lrRv d h, lanes := lrLanes d h, wlog := lrWlog d h }
          if streamsOk (imLoft h) streams && declsOk decls && decide (y.need ≤ part.shareEnd - part.reserveLo) then (some y, s) else (none, s)
        | .trap _ s => (none, s)
        | .wait _ s => (none, s)
    | .trap _ s => (none, s)
    | .wait _ s => (none, s)

/-- A new pass of a launch record. -/
def Pass.new (seq : Nat) (d : Desc) : Pass :=
  { seq := seq, lrec := d, header := 0, streams := [], decls := [], st := .queued, x := 0, y := 0, s := 0, rv := 0, lanes := 0, wlog := 0,
    reason := 0, cause := 0, ftask := none, nflt := 0, cycles := 0, taskMax := 0, episode := 0, sends := [], recorded := false, placedAt := 0, snap := [] }
/-- Is the dispatcher paused for its update (R119)? -/
def State.paused (s : State) (ctl : Nat) : Bool := s.updating.any (fun u => u.1 == ctl)
/-- A record is taken at the ordering point of a launch window (R100, R101). -/
def State.takeLaunch (s : State) (p : Nat) (rec : BitVec 512) : State :=
  let x := s.partOf p
  if x.st != .active || decide (256 ≤ x.openPasses) then s.send (.launchAnswer p false)
  else (s.modPart p (fun y => { y with pcseq := y.pcseq + 1, passes := y.passes ++ [Pass.new (y.pcseq + 1) rec] })).send (.launchAnswer p true)
/-- LAUNCH_DMWR (R100, R101, R114, R119): a record reaches a launch window; while the dispatcher is paused it waits. -/
def execLaunchDmwr (p : Nat) (rec : BitVec 512) (s : State) : Host.Outcome State Fault Refusal :=
  let s := { s with idle := .active }
  if s.mgst == .safe || decide (8 ≤ p) then .next (s.send (.unsupported p))
  else if s.paused 0 then .next { s with dmwrs := s.dmwrs ++ [(p, rec)] }
  else .next (s.takeLaunch p rec)
/-- How a pass's predecessors stand (R104): its new state, or none while one has not ended. -/
def Partition.resolve (t : Partition) (x : Pass) : Option PassState :=
  let named := (lrPred x.lrec).filterMap (fun k => if k < x.seq then t.passes.find? (fun y => y.seq == x.seq - k) else none)
  if named.any (fun y => !y.st.over) then none
  else if (lrFlags x.lrec).testBit 2 || named.all (fun y => y.st == .done) then some .ready
  else some .cancelled
/-- PREDECESSOR_RESOLVE (R104): put a checked or held pass where its predecessors let it. -/
def State.resolvePass (s : State) (p seq : Nat) : State :=
  match s.passAt p seq with
  | none => s
  | some x =>
    match (s.partOf p).resolve x with
    | none => s.modPass p seq (fun y => { y with st := .held })
    | some .cancelled => s.endPass p seq .cancelled 2 0
    | some st => s.modPass p seq (fun y => { y with st := st })
/-- LAUNCH_CHECK (R103, R104, R141): the dispatcher checks a queued pass. -/
def execLaunchCheck (p seq : Nat) (s : State) : Host.Outcome State Fault Refusal :=
  match s.passAt p seq with
  | none => .next s
  | some x =>
    if x.st != .queued then .next s
    else
      match s.checkLaunch p x with
      | (none, s) => .next (s.endPass p seq .faulted 1 0)
      | (some y, s) => .next ((s.modPass p seq (fun _ => y)).resolvePass p seq)

/-! ### Placement (R138, R140, R143) -/

/-- Does a pass hold slots? -/
def Pass.placed (x : Pass) : Bool := x.st == .placed || x.st == .running
/-- Units of a pass, in increasing index. -/
def State.unitsOf (s : State) (p : Nat) (id : Word) : List Nat :=
  let l := s.units.filter (fun u => u.2.live && u.2.part == p && u.2.passId == id && !u.2.initial)
  (List.range (l.foldl (fun m u => if m ≤ u.2.idx then u.2.idx + 1 else m) 0)).filterMap (fun i => (l.find? (fun u => u.2.idx == i)).map (·.1))
/-- The free slots of a partition, in increasing order: none of a placed pass, and on a powered core. -/
def State.freeSlotsOf (s : State) (p : Nat) : List Nat :=
  let x := s.partOf p
  (List.range x.remap.length).filter (fun k => !(s.coreOf (x.remap.getD k 0)).unpowered && !s.units.any (fun u =>
    u.2.live && u.2.part == p && !u.2.initial && u.2.slot == k &&
    (match s.passAt p (passSeq u.2.passId) with | some y => y.placed | none => false)))
/-- The slots a pass takes now: min(U, P) of the lowest free ones, or none (R138). -/
def State.slotsFor (s : State) (p : Nat) (x : Pass) : Option (List Nat) :=
  let n := (s.partOf p).remap.length
  let U := x.x * x.y * x.s
  let k := if U < n then U else n
  let free := s.freeSlotsOf p
  if k == 0 || free.length < k then none else some (free.take k)
/-- What the passes that hold reserve need of it (R140). -/
def State.needHeld (s : State) (p : Nat) : Nat :=
  (((s.partOf p).passes.filter (fun x => !(s.unitsOf p (passIdOf p x.seq)).isEmpty)).map Pass.need).sum
/-- The slots and images of contexts and lofts in the reserve, as (base, size). -/
def State.reserveUsed (s : State) (p : Nat) : List (Nat × Nat) :=
  (s.units.filter (fun u => u.2.live && u.2.part == p && !u.2.initial)).flatMap (fun u => [(u.2.ctxPA, 2 ^ 19), (u.2.loftPA, u.2.loftSize)])
/-- The lowest `n` free bytes between `lo` and `hi`. -/
def gapFor (lo hi : Nat) (used : List (Nat × Nat)) (n : Nat) : Option Nat :=
  if n == 0 then some lo
  else (minPair (((lo :: used.map (fun r => r.1 + r.2)).filter (fun b => decide (lo ≤ b) && decide (b + n ≤ hi) &&
    used.all (fun r => r.2 == 0 || decide (b + n ≤ r.1) || decide (r.1 + r.2 ≤ b)))).map (fun b => (b, b)))).map (·.1)
/-- Places of the contexts and lofts of `n` units, each the lowest that is free. -/
def regionsIn (lo hi loft : Nat) : Nat → List (Nat × Nat) → Option (List (Nat × Nat))
  | 0, _ => some []
  | n + 1, used =>
    (gapFor lo hi used (2 ^ 19)).bind (fun c =>
      (gapFor lo hi ((c, 2 ^ 19) :: used) loft).bind (fun l => (regionsIn lo hi loft n ((l, loft) :: (c, 2 ^ 19) :: used)).map (fun r => (c, l) :: r)))
/-- Where the contexts and lofts of a pass's units go in the reserve, while its need is no more than what other passes have left (R140). -/
def State.regionsFor (s : State) (p : Nat) (x : Pass) : Option (List (Nat × Nat)) :=
  let t := s.partOf p
  if t.shareEnd - t.reserveLo < s.needHeld p + x.need then none
  else regionsIn t.reserveLo t.shareEnd (imLoft x.header) (x.x * x.y * x.s) (s.reserveUsed p)
/-- The passes the dispatcher may place or resume next, in its order: those of the highest priority that waits, parked ones first. -/
def State.candidates (s : State) (p : Nat) : List Pass :=
  let w := (s.partOf p).passes.filter (fun x => x.st == .ready || x.st == .parked)
  let top := w.foldl (fun m x => if m < lrPrio x.lrec then lrPrio x.lrec else m) 0
  let c := w.filter (fun x => lrPrio x.lrec == top)
  c.filter (fun x => x.st == .parked) ++ c.filter (fun x => x.st == .ready)
/-- Put unit number `u` of a pass on a chosen slot: u mod k (R138). -/
def State.slotOf (s : State) (p : Nat) (slots : List Nat) (u : Nat) : Nat × Nat :=
  let k := slots.getD (u % slots.length) 0
  (k, (s.partOf p).remap.getD k 0)
/-- May the units of a parked pass go to these slots: a unit leaves its core only after every store it issued has been performed (R214)? -/
def State.mayMove (s : State) (p : Nat) (x : Pass) (slots : List Nat) : Bool :=
  (s.unitsOf p (passIdOf p x.seq)).all (fun v =>
    let u := s.unitOf v
    (s.slotOf p slots u.idx).2 == u.core || u.reeves.all (fun r => r.2.stores.isEmpty))
/-- Can a pass be placed or resumed now? -/
def State.passFits (s : State) (p : Nat) (x : Pass) : Bool :=
  match s.slotsFor p x with
  | some l => if x.st == .parked then s.mayMove p x l else (s.regionsFor p x).isSome
  | none => false
/-- The next pass to place or resume. -/
def State.nextPass (s : State) (p : Nat) : Option Pass := (s.candidates p).find? (s.passFits p)

/-- The task mask mode: MASK of gate-table entry 0; 0 where the table cannot be read or the entry is not valid (R136, R305, log 15). -/
def State.startMask (s : State) (p asid : Nat) : Word × State :=
  match s.readVA ⟨p, asid, true, none⟩ [] (gateAddr (s.partOf p).gatebase 0) 32 with
  | .ok l s => let e := leVal l; (if gateMode e == 0x80 then gateMask e else 0, s)
  | .trap _ s => (0, s)
  | .wait _ s => (0, s)
/-- Reeve `r`'s start state (R136). -/
def startReeve (p : Pass) (idx r : Nat) (mask : Word) : Reeve :=
  let task := idx * p.rv + r
  let n := p.x * p.y
  let loft := imLoft p.header
  let g : List (Nat × Nat) := [(1, task), (2, idx % n / p.y + idx % p.y * 2 ^ 8 + idx / n * 2 ^ 16 + r * 2 ^ 24), (3, (lrArg p.lrec).toNat),
    (4, p.x + p.y * 2 ^ 8 + p.s * 2 ^ 16 + p.rv * 2 ^ 24), (5, windowBase), (62, windowBase + (if r == 0 then loft else loft / 2))]
  { Reeve.reset with
    g := g.foldl (fun m e => KMap.set 0 m e.1 (toW e.2)) []
    pc := lrProg p.lrec + toW (dfld p.header 8 4)
    mask := mask
    taskId := task
    budget := if lrBudget p.lrec = 0 then 0xFFFFFFFFFFFFFFFF else toW (lrBudget p.lrec) }
/-- NSH for LANES sheaves. -/
def nshOf (lanes : Nat) : Nat := if lanes == 8 then 3 else if lanes == 4 then 2 else if lanes == 2 then 1 else 0
/-- A unit's start state (R136, R18). -/
def startUnit (p : Nat) (x : Pass) (idx : Nat) (mask : Word) : Unit :=
  { Unit.none with
    live := true
    passId := passIdOf p x.seq
    part := p
    idx := idx
    asid := lrAsid x.lrec
    rv := x.rv
    loftSize := imLoft x.header
    reeves := (List.range x.rv).map (fun r => (r, startReeve x idx r mask))
    lpart := lpartOf (nshOf x.lanes) x.rv
    sx := x.decls.foldl (fun m w => match sxInit w with
      | some i => KMap.set sxReset m (fld w.toNat 0 8) i
      | Option.none => m) []
    streams := x.streams.map (fun e => ⟨e.1, e.2, 0, 0, 0⟩)
    place := .unstarted }
/-- Apply the held advances of the pass's space (R92): to its units, or dropped and counted outside its grid. -/
def State.applyHeld (s : State) (p : Nat) (x : Pass) : State :=
  let a := lrAsid x.lrec
  let mine := (s.partOf p).held.filter (fun h => h.1 == a)
  let s := s.modPart p (fun t => { t with held := t.held.filter (fun h => h.1 != a) })
  mine.foldl (fun s h =>
    match x.indexOf h.2.1 with
    | none => s.count tmStaleAdv
    | some idx =>
      match s.units.find? (fun u => u.2.live && u.2.part == p && u.2.passId == passIdOf p x.seq && u.2.idx == idx) with
      | some u => s.advance u.1 h.2.2.1 1 h.2.2.2
      | none => s.count tmStaleAdv) s
/-- Start what can start on the cores of a partition. -/
def State.startCores (s : State) (p : Nat) : State := (s.partOf p).cores.foldl (fun s c => s.startNext c (2 ^ 32, 0)) s
/-- The first unit of a pass takes the place of the half that was loaded for it, on the core where it lands; elsewhere the half is given up (R148). -/
def State.claimPreload (s : State) (p seq : Nat) : State :=
  let first := (s.unitsOf p (passIdOf p seq)).find? (fun v => (s.unitOf v).runnable)
  { s with cores := s.cores.map (fun c => (c.1, if c.2.preloadPass == some (p, seq) then
      { c.2 with preloadPass := none, preloaded := if first.any (fun v => (s.unitOf v).core == c.1) then first else c.2.preloaded } else c.2)) }
/-- PASS_PLACE (R136, R138, R140, R141, R143): the next READY pass takes its slots, its units are built, and free cores start. -/
def execPassPlace (p : Nat) (s : State) : Host.Outcome State Fault Refusal :=
  match s.nextPass p with
  | none => .next s
  | some x =>
    if x.st != .ready then .next s
    else
      match s.slotsFor p x, s.regionsFor p x with
      | some slots, some places =>
        let m := s.startMask p (lrAsid x.lrec)
        let s1 := ((List.range places.length).zip places).foldl (fun (s : State) u =>
          let k := s.slotOf p slots u.1
          { s.setUnit s.nextUid { startUnit p x u.1 m.1 with slot := k.1, core := k.2, ctxPA := u.2.1, loftPA := u.2.2 } with nextUid := s.nextUid + 1 }) m.2
        .next ((((s1.modPass p x.seq (fun y => { y with st := .placed, placedAt := s1.nextUid })).applyHeld p x).claimPreload p x.seq).startCores p)
      | _, _ => .next s

/-! ### Resumption (R143, R144, R149, R150, R214) -/

/-- A unit whose context is whole goes on as `place`; else it parks again (R321). -/
def State.resumeUnit (s : State) (uid : Nat) (place : Place) : State :=
  if s.contextOk uid then (s.reloadContext uid).modUnit uid (fun u => { u with place := place, cause0 := 0, cause1 := 0 })
  else s.faultContext uid
/-- A parked unit's slot is now slot `k` on core `c`: where the core changes, its context leaves the old core's shadow storage for its reserve
slot, and its loft the old core for its image (R150). -/
def State.moveUnit (s : State) (uid k c : Nat) : State :=
  let u := s.unitOf uid
  let started := u.place == .ready || u.place == .preempted
  let s1 := if u.core == c || !(u.reeveOf 0).started then s
    else (if started && u.ctxCheck.isEmpty then s.writeContext uid else s).spillLoft uid
  (s1.modCore u.core (fun y => if u.core == c then y else { y with shadow := y.shadow.filter (· != uid) })).modUnit uid (fun u => { u with slot := k, core := c })
/-- PASS_RESUME (R143, R144): the next PARKED pass takes slots afresh and its units go on. -/
def execPassResume (p : Nat) (s : State) : Host.Outcome State Fault Refusal :=
  match s.nextPass p with
  | none => .next s
  | some x =>
    if x.st != .parked then .next s
    else
      match s.slotsFor p x with
      | none => .next s
      | some slots =>
        let s1 := (s.unitsOf p (passIdOf p x.seq)).foldl (fun (s : State) uid =>
          let u := s.unitOf uid
          let k := s.slotOf p slots u.idx
          let s := s.moveUnit uid k.1 k.2
          if u.place != .preempted then s
          else s.resumeUnit uid (if (u.reeveOf 0).started then .ready else .unstarted)) s
        .next (((s1.modPass p x.seq (fun y => { y with st := .running })).claimPreload p x.seq).startCores p)
/-- The victim of a pre-emption (R144): the RUNNING pass of lowest priority, and among equals the last, if it lies below `prio`. -/
def State.victim (s : State) (p prio : Nat) : Option Pass :=
  ((s.partOf p).passes.filter (fun x => x.st == .running && decide (lrPrio x.lrec < prio))).foldl (fun (b : Option Pass) x => match b with
    | none => some x
    | some y => if lrPrio x.lrec ≤ lrPrio y.lrec then some x else b) none
/-- The CAUSE that a halted unit's task carries (R151). -/
def Unit.preemptCause (u : Unit) (r : Nat) : BitVec 8 := if r < u.rv && !(u.reeveOf r).ended then BitVec.ofNat 8 cPREEMPT else 0
/-- Halt a unit that does not run, for the dispatcher's pre-emption: neither it nor its core starts it (R144, R148). -/
def State.haltIdle (s : State) (uid : Nat) : State :=
  let s : State := { s with cores := s.cores.map (fun c => (c.1, if c.2.preloaded == some uid then { c.2 with preloaded := none } else c.2)) }
  s.modUnit uid (fun u =>
    if u.place == .over || u.place == .faulted || u.place == .running then u
    else { u with cause0 := u.preemptCause 0, cause1 := u.preemptCause 1, place := .preempted })
/-- Retire the END at which a reeve of a running unit stands, where it can complete (R322). -/
def State.retireEnd (s : State) (uid r : Nat) : State :=
  let u := s.unitOf uid
  let x := u.reeveOf r
  if u.place != .running || u.initial || u.rv ≤ r || !x.started || x.ended || s.haltedWord uid r != some .endTask then s
  else
    let s1 : State := { s with uid := uid, who := .reeve r, eng := none }
    if s1.endReady then s1.endNow.back s else s
/-- Retire what can retire of a running unit's ENDs before it halts. -/
def State.retireEnds (s : State) (uid : Nat) : State := (s.retireEnd uid 0).retireEnd uid 1
/-- Halt a running unit for the dispatcher's pre-emption (R144, R150, R322). -/
def State.haltRunning (s : State) (uid : Nat) : State :=
  let s := s.retireEnds uid
  if (s.unitOf uid).place == .running then
    (s.modUnit uid (fun u => { u with cause0 := u.preemptCause 0, cause1 := u.preemptCause 1 })).leaveCore uid .preempted
  else s
/-- Halt every unit of a pass for the dispatcher's pre-emption (R144, R150): first those that wait, so that none starts as another leaves. -/
def State.haltPass (s : State) (p seq : Nat) : State :=
  let us := s.unitsOf p (passIdOf p seq)
  us.foldl State.haltRunning (us.foldl State.haltIdle (s.modPass p seq (fun y => { y with st := .parked })))
/-- A pass that waits for slots alone (R144). -/
def State.lacksSlots (s : State) (p : Nat) : Option Pass :=
  (s.candidates p).find? (fun x => (s.slotsFor p x).isNone && (x.st == .parked || (s.regionsFor p x).isSome))
/-- PREEMPT (R144): one pass of lower priority is pre-empted whole for one that lacks slots. -/
def execPreempt (p : Nat) (s : State) : Host.Outcome State Fault Refusal :=
  match s.lacksSlots p with
  | none => .next s
  | some x =>
    match s.victim p (lrPrio x.lrec) with
    | none => .next s
    | some v => .next (s.haltPass p v.seq)

/-! ### Turns, preload, shadow storage (R139, R147, R148, R150) -/

/-- Have all of a running unit's tasks been blocked for 4,096 cycles? -/
def Unit.allBlocked (u : Unit) : Bool :=
  (List.range u.rv).all (fun r => (u.reeveOf r).ended || decide (4096 ≤ (u.reeveOf r).waited))
/-- The running unit of a core, when another there is ready. -/
def State.contended (s : State) (c : Nat) : Option Nat := if (s.readyOn c).isEmpty then none else (s.coreOf c).running
/-- The turn of unit `u` on a core ends, once an END that can complete has retired (R139, R322). -/
def State.haltTurn (s : State) (c u : Nat) : State :=
  let s := s.retireEnds u
  if (s.coreOf c).running == some u then s.endTurn c else s
/-- BLOCKED_TIMEOUT (R139). -/
def execBlockedTimeout (core : Nat) (s : State) : Host.Outcome State Fault Refusal :=
  match s.contended core with
  | some u => if (s.unitOf u).allBlocked then .next (s.haltTurn core u) else .next s
  | none => .next s
/-- QUANTUM_EXPIRY (R139): 2^20 cycles since the unit last started. -/
def execQuantumExpiry (core : Nat) (s : State) : Host.Outcome State Fault Refusal :=
  match s.contended core with
  | some u => if 2 ^ 20 ≤ (s.coreOf core).turn then .next (s.haltTurn core u) else .next s
  | none => .next s
/-- Is a budget overrun due for reeve `r` of a unit: in task mode with `%budget` 0 (R147)? -/
def State.overrun (s : State) (uid r : Nat) : Bool :=
  let u := s.unitOf uid
  let x := u.reeveOf r
  u.live && u.place == .running && !u.initial && decide (r < u.rv) && x.started && !x.ended && x.mode == .task && x.budget == 0
/-- BUDGET_OVERRUN (R147): the unit parks with FT_BUDGET for the task. -/
def execBudgetOverrun (uid r : Nat) (s : State) : Host.Outcome State Fault Refusal :=
  if !s.overrun uid r then .next s
  else
    let s1 : State := { s with uid := uid, who := .reeve r, eng := none }
    .next ((s1.park r (tr cBUDGET 0 0) 0 (recFlags true false false 0 false)).back s)
/-- The unit to be preloaded on a core: the next in turn, where it and the running one declare at most 2 MiB (R148). -/
def State.preloadUnit (s : State) (c : Nat) : Option Nat :=
  match (s.coreOf c).running with
  | none => none
  | some r => if (s.coreOf c).preloaded.isSome || !s.fitsHalf r then none else (s.nextOn c (s.turnOf r)).filter (s.fitsHalf ·)
/-- The pass whose first unit is to be preloaded on a core where no other unit waits: the one to be placed or resumed next (R148). -/
def State.preloadNext (s : State) (c : Nat) : Option (Nat × Nat) :=
  let x := s.coreOf c
  match x.running, (List.range 8).find? (fun p => (s.partOf p).cores.contains c) with
  | some r, some p =>
    if x.preloaded.isSome || x.preloadPass.isSome || !s.fitsHalf r || !(s.readyOn c).isEmpty || (s.unitOf r).initial then none
    else ((s.candidates p).head?.filter (fun y => decide (imLoft y.header ≤ 2 ^ 21))).map (fun y => (p, y.seq))
  | _, _ => none
/-- PRELOAD (R148): the other half of the loft is filled with the next unit's, or kept for the first unit of the pass to be placed next. -/
def execPreload (core : Nat) (s : State) : Host.Outcome State Fault Refusal :=
  match s.preloadUnit core, (s.coreOf core).running with
  | some n, some r =>
    let s1 := ((s.crowd core r (some n)).foldl State.spillLoft s).fillLoft n
    .next (s1.modCore core (fun y => { y with preloaded := some n, preloadPass := none }))
  | _, some r =>
    match s.preloadNext core with
    | some q => .next (((s.crowd core r none).foldl State.spillLoft s).modCore core (fun y => { y with preloadPass := some q }))
    | none => .next s
  | _, none => .next s
/-- CONTEXT_SPILL (R150): the context in a core's shadow storage moves on to its reserve slot. -/
def execContextSpill (core : Nat) (s : State) : Host.Outcome State Fault Refusal :=
  match (s.coreOf core).shadow with
  | [] => .next s
  | uid :: _ =>
    let u := s.unitOf uid
    .next (if u.live && (u.place == .ready || u.place == .preempted) && u.ctxCheck.isEmpty then s.writeContext uid
      else s.modCore core (fun y => { y with shadow := y.shadow.filter (· != uid) }))
/-- LOFT_SPILL (R150): a parked unit's loft, whose half is needed, moves to its image in the reserve. -/
def execLoftSpill (core : Nat) (s : State) : Host.Outcome State Fault Refusal :=
  let parked (v : Nat) : Bool := let p := (s.unitOf v).place; p == .ready || p == .preempted || p == .faulted
  match (s.residents core).find? (fun v => parked v && (s.coreOf core).preloaded != some v && !(s.unitOf v).initial) with
  | none => .next s
  | some uid => .next (s.spillLoft uid)

/-! ### Dispositions (R149) -/

/-- Does a cause of a parked unit's task count: neither 0 nor AS_PREEMPT? -/
def realCause (c : BitVec 8) : Bool := c != 0 && c != BitVec.ofNat 8 cPREEMPT
/-- The disposition a keeper has stored for a faulted unit; none when nothing is to be done. -/
def State.disposition (s : State) (uid : Nat) : Option Nat :=
  let u := s.unitOf uid
  if u.live && u.place == .faulted && (realCause u.cause0 || realCause u.cause1) then some (KMap.get 0 s.hbm (u.ctxPA + 1)).toNat else none
/-- Is the unit's pass on slots? -/
def State.onSlots (s : State) (u : Unit) : Bool :=
  match s.passOf u with
  | some x => x.placed
  | none => true
/-- DISP_RESUME (R149, R258, R286): DISP 1. -/
def execDispResume (uid : Nat) (s : State) : Host.Outcome State Fault Refusal :=
  if s.disposition uid ≠ some 1 then .next s
  else
    let u := s.unitOf uid
    let s1 := s.resumeUnit uid (if s.onSlots u then .ready else .preempted)
    if (s1.unitOf uid).place == .faulted then .next s1
    else .next (((s1.retry uid 0).retry uid 1).startNext u.core (u.idx, uid))
/-- A rerun goes before the unit that is, or is being, preloaded on its core when its priority is as high (R148). -/
def State.queueRerun (s : State) (c uid : Nat) (x : Pass) : State :=
  let y := s.coreOf c
  let next := y.preloaded.orElse (fun _ => s.preloadUnit c)
  let first := match next with
    | some q => q != uid && (match s.passOf (s.unitOf q) with | some z => decide (lrPrio z.lrec ≤ lrPrio x.lrec) | none => true)
    | none => false
  if first then s.modCore c (fun y => { y with rerun := y.rerun ++ [uid] }) else s
/-- DISP_RESTART (R149, R365): DISP 2: the context and logs go, and the unit starts again; its arrival counts become the number of the
last completed episode. -/
def execDispRestart (uid : Nat) (s : State) : Host.Outcome State Fault Refusal :=
  if s.disposition uid ≠ some 2 then .next s
  else
    let u := s.unitOf uid
    match s.passOf u with
    | none => .next s
    | some x =>
      let m := s.startMask u.part u.asid
      let fresh := startUnit u.part x u.idx m.1
      let keep (r : Nat) (y : Reeve) : Reeve :=
        let o := u.reeveOf r
        { y with charged := o.charged, stores := o.stores, arrivals := x.episode }
      let v : Unit := { fresh with
        reeves := fresh.reeves.map (fun p => (p.1, keep p.1 p.2))
        slot := u.slot
        core := u.core
        ctxPA := u.ctxPA
        loftPA := u.loftPA
        place := if s.onSlots u then .unstarted else .preempted }
      let s0 := m.2.setUnit uid v
      let s1 : State := { s0 with cores := s0.cores.map (fun c => (c.1, { c.2 with
        wq := c.2.wq.filter (fun w => w.uid != uid)
        routine := c.2.routine.bind (fun r => if r.uid == uid then none else some r)
        shadow := c.2.shadow.filter (· != uid) })) }
      .next (if v.place == .unstarted then (s1.queueRerun u.core uid x).startNext u.core (u.idx, uid) else s1)
/-- DISP_END (R149): DISP 3: the pass ends FAULTED with the recorded cause. -/
def execDispEnd (uid : Nat) (s : State) : Host.Outcome State Fault Refusal :=
  if s.disposition uid ≠ some 3 then .next s
  else
    let u := s.unitOf uid
    let c := if realCause u.cause0 && realCause u.cause1 then (if u.seq1 < u.seq0 then u.cause1 else u.cause0)
      else if realCause u.cause0 then u.cause0 else u.cause1
    .next (s.endPass u.part (passSeq u.passId) .faulted 0 c.toNat)

/-! ### The end of a pass (R107-R109, R142) -/

/-- STATE of a completion record (R107). -/
def endCode : PassState → Nat
  | .done => 1
  | .faulted => 2
  | _ => 3
/-- Cycles charged to each task of a pass. -/
def State.charges (s : State) (p : Nat) (id : Word) : List Nat :=
  (s.unitsOf p id).flatMap (fun u => (List.range (s.unitOf u).rv).map (fun r => ((s.unitOf u).reeveOf r).charged))
/-- The completion record of a pass (R107). -/
def completion (p : Nat) (x : Pass) (cycles top : Nat) : BitVec 256 :=
  BitVec.ofNat 256 (1 + endCode x.st * 2 ^ 16 + (x.reason % 256) * 2 ^ 24 + (x.nflt % 256) * 2 ^ 32 + x.cause.toNat * 2 ^ 40 +
    dfld x.lrec 4 2 * 2 ^ 48 + ((x.ftask.getD 0xFFFFFFFF) % 2 ^ 32) * 2 ^ 64 + (if top < 2 ^ 32 then top else 2 ^ 32 - 1) * 2 ^ 96 +
    (cycles % 2 ^ 64) * 2 ^ 128 + (passIdOf p x.seq).toNat * 2 ^ 192)
/-- All tasks of a pass have ended: its logs merge, and it is DONE, or FAULTED on a conflict (R141, R217). -/
def State.finishPass (s : State) (p : Nat) (x : Pass) : State :=
  let tasks := s.tasksOf p (passIdOf p x.seq)
  match (if lrSealed x.lrec then s.sealConflict tasks else none) with
  | some c => (s.modPass p x.seq (fun y => { y with ftask := some c.t2.1 })).endPass p x.seq .faulted 0 cSEAL
  | none => ((s.mergeLogs tasks).modPass p x.seq (fun y => { y with st := .done, snap := [] })).freePlans p (passIdOf p x.seq)
/-- Have all tasks of a placed pass ended? -/
def State.allTasksEnded (s : State) (p : Nat) (x : Pass) : Bool :=
  let us := s.unitsOf p (passIdOf p x.seq)
  x.placed && !us.isEmpty && us.all (fun u => (s.unitOf u).allEnded)
/-- Is the work that the tasks of a pass left behind done (R371): their wain commands, and the rounds of its plans? -/
def State.workDone (s : State) (p : Nat) (x : Pass) : Bool :=
  let us := s.unitsOf p (passIdOf p x.seq)
  !s.cores.any (fun c => c.2.wq.any (fun w => us.contains w.uid)) &&
  !s.plans.any (fun q => q.part == p && q.passId == passIdOf p x.seq && s.planRuns q &&
    q.tiles.any (fun t => t.2.running || t.2.flag || !t.2.unacked.isEmpty))
/-- May the record of an ended pass be written: its commands are over, its stores are visible, and its fault records stand (R107, R108, R142)? -/
def State.recordReady (s : State) (p : Nat) (x : Pass) : Bool :=
  let us := s.unitsOf p (passIdOf p x.seq)
  x.st.over && !x.recorded && x.sends.isEmpty && us.all (fun u => (s.unitOf u).reeves.all (fun r => r.2.stores.isEmpty)) &&
  !s.shardOut.any (fun o => us.contains o.uid && o.write && o.gone && o.status.isNone) &&
  !(s.partOf p).faults.any (fun f => f.passId == passIdOf p x.seq) &&
  !s.cores.any (fun c => c.2.wq.any (fun w => us.contains w.uid && w.fault.isNone))
/-- An ended pass leaves its units, its reserve and its slots. -/
def State.dropUnits (s : State) (p : Nat) (id : Word) : State :=
  let us := s.unitsOf p id
  { s with
    units := s.units.filter (fun u => !us.contains u.1)
    cores := s.cores.map (fun c => (c.1, { c.2 with
      wq := c.2.wq.filter (fun w => !us.contains w.uid)
      routine := c.2.routine.bind (fun r => if us.contains r.uid then none else some r)
      shadow := c.2.shadow.filter (fun u => !us.contains u)
      preloaded := c.2.preloaded.filter (fun u => !us.contains u) })) }
/-- OPEN has fallen: a QUIESCING partition with none left is QUIESCED (R106). -/
def State.settleQuiesce (s : State) (p : Nat) : State :=
  s.modPart p (fun x => if x.st == .quiescing && x.openPasses == 0 then { x with st := .quiesced } else x)
/-- Write an ended pass's completion record, count it out of OPEN, and signal the host (R107-R109); then held passes look again
(R104). -/
def State.writeRecord (s : State) (p : Nat) (x : Pass) : State :=
  let id := passIdOf p x.seq
  let ch := s.charges p id
  let top := ch.foldl (fun m n => if m < n then n else m) 0
  let b := leBytes 32 (completion p x ch.sum top).toNat
  let c : XCtx := ⟨p, lrAsid x.lrec, false, none⟩
  let s1 := match (s.writeVA c 0 none (lrCmp x.lrec + 2) (b.drop 2)).bind (fun _ s => s.writeVA c 0 none (lrCmp x.lrec) (b.take 2)) with
    | .ok _ s => s
    | .trap _ s => s.modPart p (fun t => { t with lostcmp := if t.lostcmp < 65535 then t.lostcmp + 1 else t.lostcmp })
    | .wait _ s => s
  let s2 := (s1.dropUnits p id).modPass p x.seq (fun y => { y with recorded := true, cycles := ch.sum, taskMax := top })
  let s3 := if (lrFlags x.lrec).testBit 1 then s2.send (.msix (dfld x.lrec 6 2)) else s2
  let held := ((s3.partOf p).passes.filter (fun y => y.st == .held)).map (·.seq)
  ((held.foldl (fun s q => s.resolvePass p q) s3).settleQuiesce p)
/-- COMPLETION_RECORD (R108): a pass whose tasks have all ended is settled, and the record of an ended pass is written. -/
def execCompletionRecord (p seq : Nat) (s : State) : Host.Outcome State Fault Refusal :=
  match s.passAt p seq with
  | none => .next s
  | some x =>
    if s.allTasksEnded p x then .next (if s.workDone p x then s.finishPass p x else s)
    else if s.recordReady p x then .next (s.writeRecord p x)
    else .next s

end Sys2Proof.Machine
end

