-- ==== Sys2Proof/Machine/Dual.lean ====
section
/-!
DEFINITION. The dual word (R329-R332): both slots read, a memory slot performs its access, then both write.
-/
namespace Sys2Proof.Machine

/-- Where both of two sets of contexts hold. -/
def runsBoth (a b : Runs) : Runs := ⟨a.reeve && b.reeve, a.sheaf && b.sheaf, a.wain && b.wain⟩
/-- A slot of vector operations names `v` registers. -/
def slotIsVec : Slot → Bool
  | .vec .. => true
  | .vmv .. => true
  | _ => false
/-- Scalar registers a slot names. -/
def slotScalars (sl : Slot) : List Reg := if slotIsVec sl then [] else slotReads sl ++ (slotWrites sl).toList
/-- Scalar registers a slot reads. -/
def slotSources (sl : Slot) : List Reg := if slotIsVec sl then [] else slotReads sl
/-- The ALU result of a slot (R330). -/
def slotAluVal (op : SlotAlu) (a b : Word) : Word :=
  match op with
  | .add => a + b
  | .sub => a - b
  | .and => a &&& b
  | .or => a ||| b
  | .xor => a ^^^ b
  | .shl => a <<< (b.toNat % 64)
  | .shr => a >>> (b.toNat % 64)
  | .sra => a.sshiftRight (b.toNat % 64)
  | .min => if a.slt b then a else b
  | .max => if a.slt b then b else a
/-- Does a branch slot's condition hold? -/
def slotCondHolds (c : SlotCond) (x y : Word) : Bool :=
  match c with
  | .eq => x == y
  | .ne => x != y
  | .lt => x.slt y
  | .ge => !x.slt y
/-- The unmasked operands of a vector slot. -/
def slotV3 (d a b : Reg) : V3 := ⟨d, a, b, 0, .i8, false⟩
/-- The class of a vector slot's operation. -/
def slotCls : SlotVec → Ty → Bool
  | .vadd => tyIsInt
  | .vsub => tyIsInt
  | .vmul => tyIsInt
  | .vfadd => tyIsFloat
  | .vfmul => tyIsFloat
/-- One element of a vector slot. -/
def slotVecVal (op : SlotVec) (t : Ty) (a b : Nat) : Nat × Word :=
  match op with
  | .vadd => iRes t (eVal t a + eVal t b)
  | .vsub => iRes t (eVal t a - eVal t b)
  | .vmul => iRes t (eVal t a * eVal t b)
  | .vfadd => fadd (fmtOf t) a b
  | .vfmul => fmul (fmtOf t) a b
/-- The access of a memory slot: kind, address and size. -/
def State.slotAcc (s : State) : Slot → Option (Kind × Word × Nat)
  | .ldD _ a imm => some (.load, s.rd a + sx64 imm, 8)
  | .ldW _ a imm => some (.load, s.rd a + sx64 imm, 4)
  | .stD _ a imm => some (.store, s.rd a + sx64 imm, 8)
  | .stW _ a imm => some (.store, s.rd a + sx64 imm, 4)
  | _ => none
/-- What stops a slot before either is performed: its vector checks, or its address. -/
def State.slotStop (s : State) (i : Instr) (sl : Slot) : Option Eff :=
  match sl with
  | .vec op d a b => s.vgate i (s.chk3 (slotV3 d a b) (slotCls op s.ty) false)
  | .vmv d a => s.vgate i (s.chk2 ⟨d, a, 0, .i8⟩ (tyAny s.ty))
  | _ =>
    match s.slotAcc sl with
    | some (k, va, n) =>
      match s.xlate s.xc k false va n n with
      | .trap t s => some (.trap t s)
      | _ => none
    | none => none
/-- The access of a memory slot, performed: the bytes read. -/
def State.slotPerform (s : State) (sl : Slot) : Acc (List Byte) :=
  match sl, s.slotAcc sl with
  | .stD d _ _, some (_, va, n) => (s.storeVa va (leBytes n (s.rd d).toNat) plainMem).bind fun _ s => .ok [] s
  | .stW d _ _, some (_, va, n) => (s.storeVa va (leBytes n (s.rd d).toNat) plainMem).bind fun _ s => .ok [] s
  | _, some (_, va, n) => s.loadVa va n plainMem
  | _, none => .ok [] s
/-- What a slot writes, from the values of the state `o` at the start of the word and the bytes its load read. -/
def State.slotWrite (o : State) (sl : Slot) (bytes : List Byte) (s : State) : State :=
  match sl with
  | .alu op d a b => s.wr d (slotAluVal op (o.rd a) (o.rd b))
  | .addI13 d a imm => s.wr d (o.rd a + sx64 imm)
  | .li13 d imm => s.wr d (sx64 imm)
  | .ldD d _ _ => s.wr d (toW (leVal bytes))
  | .ldW d _ _ => s.wr d (toW (leVal bytes))
  | .vec op d a b =>
    let na := o.vget a.toNat o.grp
    let nb := o.vget b.toNat o.grp
    s.ew d o.grp o.sew (fun _ => true) (fun i => slotVecVal op o.ty (elemOf na o.sew i) (elemOf nb o.sew i))
  | .vmv d a =>
    let na := o.vget a.toNat o.grp
    s.ew d o.grp o.sew (fun _ => true) (fun i => (elemOf na o.sew i, 0))
  | _ => s
/-- The target of a taken branch slot. -/
def State.slotTarget (s : State) (sl : Slot) : Option Word :=
  match sl with
  | .br c d a imm => if slotCondHolds c (s.rd d) (s.rd a) then some (s.pc + sx64 imm * 8) else none
  | _ => none
/-- The dual word (R332). The checks of R333 name the slot that fails. -/
def execDualWord (sa sb : Slot) (s : State) : Host.Outcome State Fault Refusal :=
  let i : Instr := .dualWord sa sb
  match (if s.off then none else s.dualTrap (encode i)) with
  | some t => .next (s.takeTrap t)
  | none =>
    s.perform (encode i) (runsBoth (slotRuns (slotOp sa)) (slotRuns (slotOp sb))) false (slotScalars sa ++ slotScalars sb)
      (slotSources sa ++ slotSources sb) fun s =>
      match s.slotStop i sa, s.slotStop i sb with
      | some e, _ => e
      | none, some e => e
      | none, none =>
        (s.slotPerform sa).eff fun da s1 =>
          (s1.slotPerform sb).eff fun db s2 =>
            let t := s.slotWrite sb db (s.slotWrite sa da s2)
            match s.slotTarget sa, s.slotTarget sb with
            | some a, _ => .jump t a
            | none, some a => .jump t a
            | none, none => .go t

end Sys2Proof.Machine
end

