-- ==== Sys2Proof/Machine/Remote.lean ====
section
/-!
DEFINITION. What arrives over Thouruth and what the threshers perform: requests of peers (R55-R58, R69), replies and
acknowledgements (R65-R71, R318), fabric-cache fills (R61, R209), thresher commands (R73, R74, R280) and sharded requests (R194-R198).
-/
namespace Sys2Proof.Machine

/-! ### Requests of peers -/

/-- The permission a request needs (R57). -/
def opPerm : PeerOp → Nat
  | .load _ => expR
  | .store _ => expW
  | _ => expA
/-- Post a command to the thresher of the stack that holds an address (R69, R73). -/
def State.postThresher (s : State) (pa : Nat) (c : ThCmd) : State :=
  { s with thresher := KMap.set [] s.thresher (stackOf pa) (KMap.get [] s.thresher (stackOf pa) ++ [c]) }
/-- Admit every frame of a list for a request. -/
def State.admitAll (s : State) (peer part perm : Nat) (pas : List Nat) : Bool × State :=
  pas.foldl (fun (acc : Bool × State) pa => let x := acc.2.admits pa peer part perm; (acc.1 && x.1, x.2)) (true, s)
/-- The lines of `n` bytes of HBM. -/
def hbmLines (pa n : Nat) : List Nat := (List.range (ceilDiv (pa % 64 + n) 64)).map (fun j => pa / 64 + j)
/-- The partition that answers for a frame. -/
def State.servingPart (s : State) (pa : Nat) : Nat := (s.homePart pa).getD 0
/-- HOME_REQUEST (R57, R69, R117): a peer's request is refused, or admitted and performed; atomics and merges go to the thresher of
their stack, and wait outside its queue while that is full (R74). -/
def execHomeRequest (q : PeerReq) (s : State) : Host.Outcome State Fault Refusal :=
  let p := s.servingPart q.addr
  let reply (s : State) (st : ReplyStatus) (lines : List Nat) (d : List Byte) : State := s.sendReply p q.peer q.tag lines (.peerReply q.peer q.tag st d)
  let post (s1 : State) (t : State) : Host.Outcome State Fault Refusal := if s1.queueFull q.addr then .next s else .next t
  if s.peer.isNone then .next (reply s .refused [] [])
  else
    let pas := match q.op with
      | .merge _ l => l
      | _ => [q.addr]
    let a := s.admitAll q.peer q.part (opPerm q.op) pas
    let s1 := a.2
    if !a.1 then .next (reply s1 .refused [] [])
    else if pas.any (fun pa => KMap.get false s1.hbmRetired (pa / 4096)) then .next (reply s1 .poison [] [])
    else
      match q.op with
      | .load n => .next (if s1.hbmBad q.addr n then reply s1 .poison [] [] else reply s1 .ok (hbmLines q.addr n) (memRead s1.hbm q.addr n))
      | .store d => .next ((s1.hbmStore q.addr d).ackStore p (hbmLines q.addr d.length) q.peer q.tag)
      | .amo op t v => post s1 (s1.postThresher q.addr (.amo 0 0 0 q.addr op t v (some (q.peer, q.tag))))
      | .cas t e v => post s1 (s1.postThresher q.addr (.cas 0 0 0 q.addr t e v (some (q.peer, q.tag))))
      | .merge i l => post s1 (s1.postMerge 0 0 0 l (BitVec.ofNat 33280 (leVal i)) (some (q.peer, q.tag)))

/-! ### Threshers -/

/-- Answer a thresher command on some lines: the waiting agent of this package, or the peer that asked, once the operation is visible (R67). -/
def State.thAnswer (s : State) (lines : List Nat) (uid agent key : Nat) (tagged : Bool) (peer : Option (Nat × Nat)) (r : ReplyStatus × List Byte) : State :=
  match peer with
  | some (p, t) => s.sendVisible (s.servingPart (64 * lines.headD 0)) lines p t (.peerReply p t r.1 r.2)
  | none => s.modUnit uid (fun u => { u with replies := u.replies.map (fun p =>
      if p.agent == agent && (if tagged then p.tag == key else p.elem == key) && p.reply.isNone then { p with reply := some r } else p) })
/-- Take the oldest command of a stack's queue. -/
def State.thPop (s : State) (k : Nat) : State := { s with thresher := KMap.set [] s.thresher k ((KMap.get [] s.thresher k).drop 1) }
/-- An atomic on `n` bytes at the home: poison, or the old value and the state after it (R69). -/
def State.thAtomic (s : State) (pa n : Nat) (f : Nat → Option Nat) : (ReplyStatus × List Byte) × State :=
  if s.hbmBad pa n then ((.poison, []), s)
  else
    let old := memVal s.hbm pa n
    ((.ok, leBytes n old), match f old with
      | some v => s.hbmStore pa (leBytes n v)
      | none => s)
/-- THRESHER_ATOMIC (R69, R73): the oldest command of a stack's queue, when it is an atomic. -/
def execThresherAtomic (stack : Nat) (s : State) : Host.Outcome State Fault Refusal :=
  match KMap.get [] s.thresher stack with
  | .amo uid agent elem pa op t v peer :: _ =>
    let r := (s.thPop stack).thAtomic pa (tyWidth t / 8) (fun old => some (amoNew op t old v.toNat))
    .next (r.2.thAnswer [pa / 64] uid agent elem false peer r.1)
  | .cas uid agent elem pa t e v peer :: _ =>
    let w := tyWidth t
    let r := (s.thPop stack).thAtomic pa (w / 8) (fun old => if old = low w e.toNat then some (low w v.toNat) else none)
    .next (r.2.thAnswer [pa / 64] uid agent elem false peer r.1)
  | _ => .next s
/-- Write an image over its lines. -/
def State.writeLines (s : State) : List Nat → List Byte → State
  | [], _ => s
  | pa :: t, b => (s.hbmStore pa (b.take 64)).writeLines t (b.drop 64)
/-- THRESHER_MERGE (R280): the oldest command of a stack's queue, when it is a statex merge, whole. -/
def execThresherMerge (stack : Nat) (s : State) : Host.Outcome State Fault Refusal :=
  match KMap.get [] s.thresher stack with
  | .merge uid agent tag lines image peer :: _ =>
    let s1 := s.thPop stack
    if lines.any (fun pa => s.hbmBad pa 64) then .next (s1.thAnswer (lines.map (· / 64)) uid agent tag true peer (.poison, []))
    else
      let m : SxImage := BitVec.ofNat 33280 (leVal (lines.flatMap (fun pa => memRead s.hbm pa 64)))
      match (if sxHeaderOk m then sxMerge m image else none) with
      | none => .next (s1.thAnswer (lines.map (· / 64)) uid agent tag true peer (.ok, mergeReply true false))
      | some r => .next ((s1.writeLines lines (sxBytes r.1)).thAnswer (lines.map (· / 64)) uid agent tag true peer (.ok, mergeReply false r.2))
  | _ => .next s

/-! ### Replies and acknowledgements -/

/-- The status code of a sharded request that a reply settles. -/
def shardCode : ReplyStatus → Nat
  | .ok => shOK
  | .refused => shREFUSED
  | .unreachable => shGONE
  | .poison => shPOISON
/-- The elements of a load answer, packed in list order (R194). -/
def unpackItems (items : List (Nat × Nat × List Byte)) (data : List Byte) : List (Nat × List Byte) :=
  let n := if items.length == 0 then 0 else data.length / items.length
  ((List.range items.length).zip items).map (fun p => (p.2.1, (data.drop (n * p.1)).take n))
/-- The die's copy of the line that an atomic's reply concerns is invalidated again (R60). -/
def State.dropReplied (s : State) (tag : Nat) : State :=
  s.units.foldl (fun s u => u.2.replies.foldl (fun s p =>
    match p.drops with
    | some d => if p.tag == tag && p.reply.isNone then s.fcDrop d u.2.part u.2.asid p.va.toNat else s
    | none => s) s) s
/-- The records of the parked units that await a reply follow it (R319). -/
def State.refreshTag (s : State) (tag : Nat) : State :=
  s.units.foldl (fun s u => if !u.2.ctxCheck.isEmpty && u.2.replies.any (fun p => p.tag == tag) then s.refreshReplies u.1 else s) s
/-- REMOTE_REPLY (R67, R70, R318): the reply of a request in flight lands in its pending entry; a reply that nothing awaits any
longer is discarded (R90). -/
def execRemoteReply (tag : Nat) (st : ReplyStatus) (data : List Byte) (s : State) : Host.Outcome State Fault Refusal :=
  if s.fills.any (fun f => f.tag == tag) then .next s
  else
    let s1 := s.dropReplied tag
    let s2 : State := { s1 with
      units := s1.units.map (fun u => (u.1, { u.2 with replies := u.2.replies.map (fun p =>
        if p.tag == tag && p.reply.isNone then { p with reply := some (st, data) } else p) }))
      shardOut := s1.shardOut.map (fun o =>
        if o.tag == tag && o.status.isNone then { o with status := some (shardCode st), got := unpackItems o.items data } else o) }
    .next (s2.refreshTag tag)
/-- Apply `f` to the stores of every task. -/
def State.mapStores (s : State) (f : List RemoteStore → List RemoteStore) : State :=
  { s with units := s.units.map (fun u => (u.1, { u.2 with reeves := u.2.reeves.map (fun r => (r.1, { r.2 with stores := f r.2.stores })) })) }
/-- The plan tile whose entry waits for a tag. -/
def State.tileOfTag (s : State) (tag : Nat) : Option (Plan × Nat) :=
  s.plans.findSome? (fun p => (p.tiles.find? (fun t => t.2.unacked.contains tag)).map (fun t => (p, t.1)))
/-- REMOTE_ACK (R65, R80): a remote store is accepted, or visible. -/
def execRemoteAck (tag : Nat) (visible : Bool) (s : State) : Host.Outcome State Fault Refusal :=
  let s := if visible then s.dropSends (fun _ t _ => t == tag) else s
  match s.tileOfTag tag with
  | some (p, t) =>
    .next ((s.modPlan p.part p.handle (fun y => y.modTile t (fun z => { z with unacked := z.unacked.filter (· != tag) }))).sendDone p.part p.handle t)
  | none =>
    .next (s.mapStores (fun l =>
      if visible then l.filter (fun t => t.tag != tag) else l.map (fun t => if t.tag == tag then { t with accepted := true } else t)))
/-- The cause a failed remote store records (R71). -/
def storeCause : ReplyStatus → Nat
  | .ok => cPERM
  | .refused => cPERM
  | .unreachable => cMCHK
  | .poison => cMCHK
/-- The task of a remote store in flight. -/
def State.storeOfTag (s : State) (tag : Nat) : Option (Nat × Nat × RemoteStore) :=
  s.units.findSome? (fun u => u.2.reeves.findSome? (fun r => (r.2.stores.find? (fun t => t.tag == tag)).map (fun t => (u.1, r.1, t))))
/-- REMOTE_STORE_FAILURE (R71, R84): a remote store was refused or its peer became unreachable. -/
def execRemoteStoreFailure (tag : Nat) (st : ReplyStatus) (s : State) : Host.Outcome State Fault Refusal :=
  let s := s.dropSends (fun _ t _ => t == tag)
  match s.tileOfTag tag with
  | some (p, _) => .next (s.failPlan p.part p.handle plABSENT)
  | none =>
    match s.storeOfTag tag with
    | none => .next s
    | some (uid, r, t) => .next ((s.storeFailed uid r t.tag (storeCause st) t.addr t.peer).mapStores (fun l => l.filter (fun x => x.tag != tag)))
/-- FABRIC_FILL (R61, R209): a line's data arrives: its loads take their bytes, and it is installed unless an acquire or a store of the
die came after the request. -/
def execFabricFill (tag : Nat) (st : ReplyStatus) (data : List Byte) (s : State) : Host.Outcome State Fault Refusal :=
  match s.fills.find? (fun f => f.tag == tag) with
  | none => .next s
  | some f =>
    let take (uid : Nat) (p : Pending) : Pending :=
      if p.tag != tag || p.reply.isSome then p
      else
        match f.waiters.find? (fun w => w.1 == uid && w.2.1 == p.agent && w.2.2.1 == p.elem) with
        | some w => { p with reply := some (st, if st == .ok then (data.drop w.2.2.2.1).take w.2.2.2.2 else []) }
        | none => p
    let s1 : State := { s with
      fills := s.fills.filter (fun g => g.tag != tag)
      units := s.units.map (fun u => (u.1, { u.2 with replies := u.2.replies.map (take u.1) })) }
    let s2 := s1.refreshTag tag
    .next (if st == .ok && !f.noInstall then s2.fcInstall ⟨f.die, f.part, f.asid, f.va, BitVec.ofNat 512 (leVal (data.take 64))⟩ else s2)

/-! ### Sharded requests (R194, R198) -/

/-- SHARD_REQUEST (R194, R198): an owner serves a sharded request, refuses it, or holds it for an install. -/
def execShardRequest (p : Nat) (q : ShardReq) (s : State) : Host.Outcome State Fault Refusal :=
  if s.peer.isNone then .next (s.answerShard p q shGONE [] 0)
  else
    match s.serveShard p q with
    | (.hold, s) => .next { s with shardHeld := s.shardHeld ++ [⟨p, q, s.tim⟩] }
    | (.absent, s) => .next (s.answerShard p q shGONE [] 0)
    | (.refused, s) => .next (s.answerShard p q shREFUSED [] 0)
    | (.poison, s) => .next (s.answerShard p q shPOISON [] 0)
    | (.stale d, s) => .next (s.answerShard p q shSTALE [] d)
    | (.done l, s) => .next (s.answerShard p q shOK l 0)
/-- SHARD_STALE_REPLAY (R198): an owner refused a request as stale and returned its descriptor; the issuing instruction replays its
elements once. -/
def execShardStaleReplay (tag : Nat) (desc : BitVec 512) (s : State) : Host.Outcome State Fault Refusal :=
  .next (s.shardSettle tag shSTALE desc [])
/-- A held request has waited for its install for 100 µs (R198). -/
def State.holdOver (s : State) (h : HeldShard) : Bool := decide (100000 ≤ s.tim.toNat - h.since.toNat)
/-- SHARD_HOLD_TIMEOUT (R198): a held request whose generation was not installed in time is refused as stale. -/
def execShardHoldTimeout (p tag : Nat) (s : State) : Host.Outcome State Fault Refusal :=
  match s.shardHeld.find? (fun h => h.part == p && h.req.tag == tag) with
  | none => .next s
  | some h =>
    if !s.holdOver h then .next s
    else
      let d := match s.symReady p with
        | some a => (s.shDesc p a h.req.handle).getD 0
        | none => 0
      let s1 : State := { s with shardHeld := s.shardHeld.filter (fun x => !(x.part == p && x.req.tag == tag && x.req.peer == h.req.peer)) }
      .next (if s1.peer == some h.req.peer then s1.shardSettle tag shSTALE d [] else s1.answerShard p h.req shSTALE [] d)

end Sys2Proof.Machine
end

