-- ==== Sys2Proof/Machine/Ethernet.lean ====
section
/-!
DEFINITION. The Ethernet ports: queue pairs, rings and doorbells (R50, R51), frames sent and received (R52, R53). A port's accesses are judged
as task-mode accesses in the ring's address space on behalf of the unit that a descriptor names (log 19).
-/
namespace Sys2Proof.Machine

/-! ### Rings (R50, R51) -/

/-- Queue pair `q` of port `p`. -/
def State.pairOf (s : State) (p q : Nat) : QPair := KMap.get QPair.reset s.pairs (64 * p + q)
/-- Ring of a queue pair. -/
def QPair.ring (b : QPair) (recv : Bool) : Ring := if recv then b.recv else b.send
/-- Apply `f` to a ring. -/
def State.modRing (s : State) (p q : Nat) (recv : Bool) (f : Ring → Ring) : State :=
  { s with pairs := KMap.upd QPair.reset s.pairs (64 * p + q) (fun b => if recv then { b with recv := f b.recv } else { b with send := f b.send }) }
/-- Does the package have this pair? -/
def pairOk (p q : Nat) : Bool := decide (p < 16) && decide (q < 64)
/-- A doorbell (R51): accepted where it lies at most the ring's size beyond CONS, else ignored and counted. -/
def State.doorbell (s : State) (p q : Nat) (recv : Bool) (w : Word) : State :=
  let r := (s.pairOf p q).ring recv
  let v : BitVec 32 := BitVec.ofNat 32 w.toNat
  if !pairOk p q || !r.en then s
  else if (v - r.cons).toNat ≤ 2 ^ r.logn then s.modRing p q recv (fun r => { r with prod := v })
  else s.count tmDoorbell
/-- A write to a ring's configuration register (R51). A base is used as written (R51 asks for a multiple of 512; log 25). -/
def State.ringConfig (s : State) (p q : Nat) (recv : Bool) (w : Word) : State :=
  let r := (s.pairOf p q).ring recv
  let n := fld w.toNat 0 4
  let en := w.getLsbD 4 && decide (4 ≤ n) && decide (n ≤ 12)
  if !pairOk p q then s
  else if r.en then (if w.getLsbD 4 then s else s.modRing p q recv (fun r => { r with en := false }))
  else s.modRing p q recv (fun r =>
    { r with logn := n, asid := fld w.toNat 16 16, en := en, cons := if en then 0 else r.cons, prod := if en then 0 else r.prod, taken := if en then 0 else r.taken })
/-- SEND_DOORBELL (R51). -/
def execSendDoorbell (port q : Nat) (w : Word) (s : State) : Host.Outcome State Fault Refusal := .next (s.doorbell port q false w)
/-- RECEIVE_DOORBELL (R51). -/
def execReceiveDoorbell (port q : Nat) (w : Word) (s : State) : Host.Outcome State Fault Refusal := .next (s.doorbell port q true w)
/-- RING_ENABLE (R51): EN from 0 to 1 sets the indices to 0; a LOGN outside 4 to 12 leaves EN clear. -/
def execRingEnable (port q : Nat) (recv : Bool) (w : Word) (s : State) : Host.Outcome State Fault Refusal :=
  .next (s.ringConfig port q recv (w ||| 16))
/-- RING_DISABLE (R51): clearing EN stops the ring; CONS keeps its value. -/
def execRingDisable (port q : Nat) (recv : Bool) (w : Word) (s : State) : Host.Outcome State Fault Refusal :=
  .next (s.ringConfig port q recv (w &&& 0xFFFFFFFFFFFFFFEF))

/-! ### Descriptors (R50) -/

/-- A descriptor's fields. -/
def edUnit (d : BitVec 256) : Nat := dfld d 16 2
def edTl (d : BitVec 256) : Nat := dfld d 14 1
def edAdvance (d : BitVec 256) : Bool := (dfld d 12 2).testBit 0
def edLen (d : BitVec 256) : Nat := dfld d 8 4
def edVa (d : BitVec 256) : Word := toW (dfld d 0 8)
/-- The address of the descriptor a ring processes next. -/
def Ring.next (r : Ring) : Word := r.base + toW (32 * (r.cons.toNat % 2 ^ r.logn))
/-- Has a ring a descriptor to process? -/
def Ring.ready (r : Ring) : Bool := r.en && r.cons != r.prod
/-- The entry that names unit index `u` whole, apart from the stage and core of a member entry (R52, R92). -/
def rawUnit (u : Nat) : BitVec 32 := BitVec.ofNat 32 (2 ^ 31 + u % 65536)
/-- The unit a descriptor names: of the pass placed most recently in the ring's space that has not ended (R52). -/
def State.ringUnit (s : State) (b : QPair) (r : Ring) (d : BitVec 256) : Option Nat :=
  match s.memberUnit b.part r.asid (rawUnit (edUnit d)) with
  | some (some u) => some u
  | _ => none
/-- On whose behalf a ring's accesses translate. -/
def ringCtx (b : QPair) (r : Ring) (u : Option Nat) : XCtx := ⟨b.part, r.asid, false, u⟩
/-- An engine that acts for the port, so that FT_STREAM does not apply to it. -/
def State.asPort (s : State) : State := { s with eng := some 0 }
/-- The ring itself failed: EN is cleared and the failure counted (R51). -/
def State.ringFault (s : State) (p q : Nat) (recv : Bool) : State := (s.modRing p q recv (fun r => { r with en := false })).count tmRing
/-- Targets that a buffer may have (R50). -/
def bufTarget (x : Phys) : Bool :=
  match x with
  | .mmio .. => false
  | .peer .. => false
  | .shard .. => false
  | _ => true
/-- Every piece of a buffer may be accessed and has a target of R50. -/
def State.bufOk (s : State) (c : XCtx) (k : Kind) (va : Word) (n : Nat) : Bool :=
  (chunks va n).all (fun p =>
    match s.xlate c k false p.1 p.2 1 with
    | .ok x _ => bufTarget x
    | _ => false)
/-- Write back TIME, STATUS and FLEN, advance the counter at `.pk`, and go on to the next descriptor (R52, R211). -/
def State.ringDone (s : State) (p q : Nat) (recv : Bool) (d : BitVec 256) (status flen : Nat) : State :=
  let b := s.pairOf p q
  let r := b.ring recv
  let l := leBytes 2 flen ++ leBytes 4 status ++ leBytes 8 s.tim.toNat
  match s.writeVA (ringCtx b r none) 0 none (r.next + 18) l with
  | .ok _ s =>
    let s1 := s.modRing p q recv (fun r => { r with cons := r.cons + 1, taken := 0 })
    if !edAdvance d then s1 else s1.memberAdvance b.part r.asid (edTl d % 16) (rawUnit (edUnit d)) false
  | _ => s.ringFault p q recv

/-! ### Sending (R52) -/

/-- The longest frame (R49). -/
def frameMax : Nat := 9216
/-- FRAME_SEND (R52): the port reads a buffer, sends the frame, writes the descriptor back and advances a counter. A BLEN beyond the longest frame
sends that many bytes, with status 1 (log 25). -/
def execFrameSend (port q : Nat) (s : State) : Host.Outcome State Fault Refusal :=
  let b := s.pairOf port q
  let r := b.send
  if !pairOk port q || !r.ready then .next s
  else
    let s0 := s.asPort
    match s0.readVA (ringCtx b r none) [] r.next 32 with
    | .ok l s1 =>
      let d : BitVec 256 := BitVec.ofNat 256 (leVal l)
      let n := if edLen d < frameMax then edLen d else frameMax
      let c := ringCtx b r (s1.ringUnit b r d)
      match (if s1.bufOk c .load (edVa d) n then s1.readVA c [] (edVa d) n else .trap (tr cPERM 0 (edVa d)) s1) with
      | .ok f s2 => .next (((s2.send (.frame port q f)).ringDone port q false d (if edLen d ≤ frameMax then 0 else 1) n).back s)
      | _ => .next (((s1.ringDone port q false d 2 0).count tmRing).back s)
    | _ => .next ((s0.ringFault port q false).back s)

/-! ### Receiving (R53) -/

/-- The priority class of a frame: the PCP of its 802.1Q tag, else 0 (R49). -/
def frameClass (f : List Byte) : Nat :=
  if (f.getD 12 0).toNat == 0x81 && (f.getD 13 0).toNat == 0 then (f.getD 14 0).toNat / 32 else 0
/-- Produce a frame into a stream buffer, one granule after the other while 64 bytes are free, the last one padded: what is left (R52, R168). -/
def State.streamFrame (s : State) (uid k : Nat) : Nat → List Byte → List Byte × State
  | 0, l => (l, s)
  | n + 1, l =>
    let free := match (s.unitOf uid).streams[k]? with | some x => x.free | none => 0
    if l.isEmpty || decide (free < 64) then (l, s) else (s.granule uid k (l.take 64)).streamFrame uid k n (l.drop 64)
/-- The stream buffer that a receive buffer's address names, with its unit. -/
def State.bufStream (s : State) (c : XCtx) (va : Word) : Option (Nat × Nat) :=
  match s.xlate c .store false va 1 1 with
  | .ok (.loft u o) _ => ((s.unitOf u).streamAt o).map (fun k => (u, k))
  | _ => none
/-- FRAME_RECEIVE (R49, R53): a received frame fills a descriptor's buffer, is dropped and counted, or pauses the sender where priority flow
control is enabled for its class. A frame that its stream buffer has no room for waits in the port, and goes on from what is committed (R168). -/
def execFrameReceive (port q : Nat) (header payload : List Byte) (fcsOk : Bool) (s : State) : Host.Outcome State Fault Refusal :=
  let data := header ++ payload
  let b := s.pairOf port q
  let r := b.recv
  let s := { s with idle := .active }
  if !pairOk port q || !fcsOk || decide (frameMax < data.length) then .next (s.count tmFrame)
  else if !r.ready && r.taken == 0 then
    .next (if KMap.get false s.pfc (8 * port + frameClass data) then s.send (.pause port (frameClass data)) else s.count tmFrame)
  else
    let s0 := s.asPort
    match s0.readVA (ringCtx b r none) [] r.next 32 with
    | .ok l s1 =>
      let d : BitVec 256 := BitVec.ofNat 256 (leVal l)
      let n := if data.length < edLen d then data.length else edLen d
      let st := if edLen d < data.length then 1 else 0
      let c := ringCtx b r (s1.ringUnit b r d)
      if !s1.bufOk c .store (edVa d) n then .next (((s1.ringDone port q true d 2 0).count tmRing).back s)
      else
        match s1.bufStream c (edVa d) with
        | some (u, k) =>
          let x := s1.streamFrame u k (n + 1) ((data.take n).drop r.taken)
          if x.1.isEmpty then .next ((x.2.ringDone port q true d st n).back s)
          else .next ((x.2.modRing port q true (fun r => { r with taken := n - x.1.length })).back s)
        | none =>
          match s1.writeVA c 0 none (edVa d) (data.take n) with
          | .ok _ s2 => .next ((s2.ringDone port q true d st n).back s)
          | _ => .next (((s1.ringDone port q true d 2 0).count tmRing).back s)
    | _ => .next ((s0.ringFault port q true).back s)

end Sys2Proof.Machine
end

