-- ==== Sys2Proof/Machine/Float.lean ====
section
/-!
DEFINITION. Scalar floating point on a reeve (R348-R351): one rounding, flags into `%fx`, no trap on a value.
-/
namespace Sys2Proof.Machine

/-- Write a floating-point result, zero-extended (R335, R350), and OR its flags into `%fx` (R229). -/
def State.fres (s : State) (d : Reg) (p : Nat × Word) : Eff := .go ((s.flag p.2).wr d (toW p.1))

/-- A two-operand instruction of R348. -/
def State.fp2 (s : State) (i : Instr) (op : Nat) (t : Ty) (d a b : Reg) (v : Nat → Nat → Nat × Word) :
    Host.Outcome State Fault Refusal :=
  s.perform (encode i) (opRuns op) false [d, a, b] [a, b] fun s => s.fres d (v (s.rdTy t a) (s.rdTy t b))

/-- FADD (R348): A + B. -/
def execFadd (t : Ty) (d a b : Reg) (s : State) : Host.Outcome State Fault Refusal :=
  s.fp2 (.fadd t d a b) 0x40 t d a b (fadd (fmtOf t))
/-- FSUB (R348): A − B. -/
def execFsub (t : Ty) (d a b : Reg) (s : State) : Host.Outcome State Fault Refusal :=
  s.fp2 (.fsub t d a b) 0x41 t d a b (fsub (fmtOf t))
/-- FMUL (R348): A × B. -/
def execFmul (t : Ty) (d a b : Reg) (s : State) : Host.Outcome State Fault Refusal :=
  s.fp2 (.fmul t d a b) 0x42 t d a b (fmul (fmtOf t))
/-- FMA (R348): A × B + C with one rounding. -/
def execFma (t : Ty) (d a b c : Reg) (s : State) : Host.Outcome State Fault Refusal :=
  s.perform (encode (.fma t d a b c)) (opRuns 0x43) false [d, a, b, c] [a, b, c] fun s =>
    let f := fmtOf t
    s.fres d (ffma f (fdec f (s.rdTy t a)) (fdec f (s.rdTy t b)) (fdec f (s.rdTy t c)))
/-- FDIV (R348): A / B. -/
def execFdiv (t : Ty) (d a b : Reg) (s : State) : Host.Outcome State Fault Refusal :=
  s.fp2 (.fdiv t d a b) 0x44 t d a b (fdiv (fmtOf t))
/-- FSQRT (R348): √A. -/
def execFsqrt (t : Ty) (d a : Reg) (s : State) : Host.Outcome State Fault Refusal :=
  s.perform (encode (.fsqrt t d a)) (opRuns 0x45) false [d, a] [a] fun s => s.fres d (fsqrt (fmtOf t) (s.rdTy t a))
/-- FMIN (R233, R348). -/
def execFmin (t : Ty) (d a b : Reg) (s : State) : Host.Outcome State Fault Refusal :=
  s.fp2 (.fmin t d a b) 0x46 t d a b (fminmax (fmtOf t) false)
/-- FMAX (R233, R348). -/
def execFmax (t : Ty) (d a b : Reg) (s : State) : Host.Outcome State Fault Refusal :=
  s.fp2 (.fmax t d a b) 0x47 t d a b (fminmax (fmtOf t) true)
/-- FCMP (R349): 1 or 0, with the NV rule of its condition. -/
def execFcmp (c : FCond) (t : Ty) (d a b : Reg) (s : State) : Host.Outcome State Fault Refusal :=
  s.fp2 (.fcmp c t d a b) 0x48 t d a b (fun x y => let r := fcompare (fmtOf t) c x y; ((boolW r.1).toNat, r.2))
/-- FCVT (R351): one value, one rounding; an integer result is extended by its type. -/
def execFcvt (td ts : Ty) (rm : Rm) (ov : Ovf) (d a : Reg) (s : State) : Host.Outcome State Fault Refusal :=
  s.perform (encode (.fcvt td ts rm ov d a)) (opRuns 0x49) false [d, a] [a] fun s =>
    let r := fconvert td ts rm ov (s.rdTy ts a)
    s.fres d (if tyIsInt td then (extTy td r.1).toNat else r.1, r.2)

end Sys2Proof.Machine
end

