-- ==== Sys2Proof/Machine/Power.lean ====
section
/-!
DEFINITION. Clocks and power (R28-R31), critical trips (R32), HBM temperature, patrol scrub, spare rows and recalibration (R33, R34, R121,
R122), and the retirement of cores (R35, R36, R120).
-/
namespace Sys2Proof.Machine

/-- Compute die `d`. -/
def State.die (s : State) (d : Nat) : Die := KMap.get Die.reset s.dies d
/-- Apply `f` to compute die `d`. -/
def State.modDie (s : State) (d : Nat) (f : Die → Die) : State := { s with dies := KMap.upd Die.reset s.dies d f }
/-- One step up, to at most 1.7 GHz, or down, to at least 0.6 GHz (R5, R30). -/
def stepUp (m : Nat) : Nat := if m + 50 ≤ 1700 then m + 50 else 1700
def stepDown (m : Nat) : Nat := if 650 ≤ m then m - 50 else 600
/-- The thermal request (R30). -/
def thermalReq (m temp : Nat) : Nat :=
  if temp < 90 then stepUp m else if temp < 95 then m else if temp < 105 then stepDown m else 600
/-- The power request (R30). -/
def State.powerReq (s : State) (d : Die) : Nat :=
  if d.share < d.avg then stepDown d.mhz
  else if d.avg * 100 < d.share * 95 && d.pkgAvg * 100 < s.powerLimit * 95 then stepUp d.mhz
  else d.mhz
/-- The cores of a die. -/
def dieCores (d : Nat) : List Nat := (List.range 64).map (fun k => 64 * d + k)
/-- Does a parked unit lose something at a trip of die `d`: its context in shadow storage, or its loft (R32)? -/
def Unit.losesTo (u : Unit) (d : Nat) : Bool :=
  u.live && !u.initial && dieOf u.core == d && (u.place == .ready || u.place == .preempted || u.place == .faulted) &&
  ((u.place != .faulted && u.ctxCheck.isEmpty) || (u.loftResident && u.loftSize != 0))
/-- A critical trip (R32, R128): the die's cores lose power, every pass with a task placed there ends FAULTED, contexts of parked passes there
are lost, so that their units park with FT_MCHK when they would go on, and it is reported. A partition whose initial task ran there is removed
and command 4 fails (R116). -/
def State.trip (s : State) (d : Nat) : State :=
  let on := s.units.filter (fun u => u.2.live && dieOf u.2.core == d && u.2.place != .over)
  let s : State := { s with units := s.units.map (fun u => (u.1, if u.2.losesTo d then { u.2 with ctxBad := 6 } else u.2)) }
  let s1 := (dieCores d).foldl (fun s c => s.modCore c (fun x => { x with unpowered := true, preloaded := none, preloadPass := none, wq := [], routine := none, shadow := [] })) s
  let s2 := on.foldl (fun s u =>
    if u.2.initial then { s.dropPartition u.2.part with mgst := .ready, mgres := resFAILED, telemetry := KMap.set 0 s.telemetry tmKeeperCause cMCHK }
    else if s.onSlots u.2 then s.endPass u.2.part (passSeq u.2.passId) .faulted 0 cMCHK else s) s1
  ((s2.zeroEnclaves).modDie d (fun x => { x with tripped := true })).count tmTrip
/-- POWER_INTERVAL (R30): every 10 µs a die's clock follows the lower of its two requests, one step at most but for the emergency level. -/
def execPowerInterval (die temp : Nat) (s : State) : Host.Outcome State Fault Refusal :=
  let d := s.die die
  if 6 ≤ die || d.tripped then .next s
  else if 115 ≤ temp then .next (s.trip die)
  else
    let t := thermalReq d.mhz temp
    let p := s.powerReq d
    .next (s.modDie die (fun x => { x with mhz := if t < p then t else p }))
/-- POWER_SHARE (R30): root firmware divides what the stacks, I/O dies and SerDes leave of the limit among the dies by their demand. The model takes
a die's own 1 ms average to be the demand measured for the division, and equal shares when no die demands anything (log 25). -/
def execPowerShare (aside : Nat) (demand : List Nat) (pkgAvg : Nat) (s : State) : Host.Outcome State Fault Refusal :=
  let rest := s.powerLimit - aside
  let total := ((List.range 6).map (fun d => demand.getD d 0)).sum
  .next ((List.range 6).foldl (fun (s : State) d => s.modDie d (fun x =>
    { x with avg := demand.getD d 0, share := if total == 0 then rest / 6 else rest * demand.getD d 0 / total, pkgAvg := pkgAvg })) s)
/-- CRITICAL_TRIP (R32). -/
def execCriticalTrip (die : Nat) (s : State) : Host.Outcome State Fault Refusal :=
  if 6 ≤ die || (s.die die).tripped then .next s else .next (s.trip die)

/-- Apply `f` to an HBM stack's health. -/
def State.modStack (s : State) (k : Nat) (f : Stack → Stack) : State := { s with stackHealth := KMap.upd Stack.reset s.stackHealth k f }
/-- HBM_THERMAL (R33): from 95 °C refresh doubles, until a reading below that (log 25); from 105 °C until below 100 °C bandwidth is halved. -/
def execHbmThermal (stack temp : Nat) (s : State) : Host.Outcome State Fault Refusal :=
  if 12 ≤ stack then .next s
  else .next (s.modStack stack (fun x => { x with doubleRefresh := decide (95 ≤ temp), halfBandwidth := decide (105 ≤ temp) || (x.halfBandwidth && decide (100 ≤ temp)) }))
/-- PATROL_SCRUB (R34): the scrub visits a row; no value changes. -/
def execPatrolScrub (stack row : Nat) (s : State) : Host.Outcome State Fault Refusal :=
  if 12 ≤ stack then .next s else .next ((s.modStack stack (fun x => { x with scrubbed := row })).count tmPatrol)
/-- ROW_SPARE (R121): a failing row is spared in place; when no spare is left, telemetry reports its frames and MSI-X vector 0 is raised. -/
def execRowSpare (stack row : Nat) (s : State) : Host.Outcome State Fault Refusal :=
  if 12 ≤ stack then .next s
  else if (KMap.get Stack.reset s.stackHealth stack).spares < Config.spareRows stack then .next (s.modStack stack (fun x => { x with spares := x.spares + 1 }))
  else
    let new := (Config.rowFrames stack row).filter (fun f => !s.rowReports.contains f)
    .next (({ s with rowReports := s.rowReports ++ new }.count tmRow).send (.msix 0))
/-- HBM_RECALIBRATE (R122): one channel recalibrates; timing only. -/
def execHbmRecalibrate (stack channel : Nat) (s : State) : Host.Outcome State Fault Refusal :=
  if 12 ≤ stack then .next s else .next (s.modStack stack (fun x => { x with recal := channel }))

/-- The other cores of a partition that a retired core's entries may go to: powered, and not retired. -/
def State.spareCores (s : State) (p core : Nat) : List Nat :=
  (s.partOf p).cores.filter (fun c => c != core && !(s.coreOf c).retired && !(s.coreOf c).unpowered)
/-- CORE_RETIRE (R120): once a core's task has parked or ended, the remap entries and the units of the core go to other cores of its
partition, which time-slice. -/
def execCoreRetire (core : Nat) (s : State) : Host.Outcome State Fault Refusal :=
  let c := s.coreOf core
  if 384 ≤ core || c.retired || c.running.isSome || c.routine.isSome || !c.wq.isEmpty then .next s
  else
    let s1 := s.modCore core (fun x => { x with retired := true, marked := false, preloaded := none, preloadPass := none })
    match (List.range 8).find? (fun p => (s.partOf p).cores.contains core) with
    | none => .next s1
    | some p =>
      let l := s.spareCores p core
      match l with
      | [] => .next s
      | _ :: _ =>
        let heir (k : Nat) : Nat := l.getD (k % l.length) 0
        let s2 := s1.modPart p (fun x => { x with
          cores := x.cores.filter (· != core)
          remap := ((List.range x.remap.length).zip x.remap).map (fun e => if e.2 == core then heir e.1 else e.2) })
        let s3 := (s2.units.filter (fun u => u.2.live && u.2.core == core && u.2.part == p)).foldl
          (fun s u => s.moveUnit u.1 u.2.slot (heir u.2.slot)) s2
        .next (s3.startCores p)

end Sys2Proof.Machine
end

