-- ==== Sys2Proof/Machine/Ports.lean ====
section
/-!
DEFINITION. Thouruth ports: which peers are reachable (R47, R70, R71), training and the confirm step (R42-R45), and flits as they arrive, are
acknowledged and are sent again (R38-R41).
-/
namespace Sys2Proof.Machine

/-! ### Reachability (R47) -/

/-- The peers that a plan sends to or folds from (R84). -/
def Plan.partners (x : Plan) : List Nat :=
  ((x.table.flatMap teRanks).eraseDups.filter (· != pdRank x.desc)).map (fun q => mePeer (x.members.getD q 0))
/-- Complete what is outstanding to the peers of `f`, by partition and peer, as for an unreachable peer (R70, R71, R84). -/
def State.failPeers (s : State) (f : Nat → Nat → Bool) : State :=
  let s := s.dropSends (fun p _ k => f p k)
  let failed := s.units.flatMap (fun u => u.2.reeves.flatMap (fun r => (r.2.stores.filter (fun t => f u.2.part t.peer)).map (fun t => (u.1, r.1, t))))
  let s1 := failed.foldl (fun s x => s.storeFailed x.1 x.2.1 x.2.2.tag cMCHK x.2.2.addr x.2.2.peer) s
  let gone (g : FcFill) : Bool := f g.part g.peer
  let filled (uid : Nat) (p : Pending) : Bool := s.fills.any (fun g => gone g && g.waiters.any (fun w => w.1 == uid && w.2.1 == p.agent && w.2.2.1 == p.elem && g.tag == p.tag))
  let s2 : State := { s1 with
    fills := s1.fills.filter (fun g => !gone g)
    units := s1.units.map (fun u => (u.1, { u.2 with
      replies := u.2.replies.map (fun p => if p.reply.isNone && (f u.2.part p.peer || filled u.1 p) then { p with reply := some (.unreachable, []) } else p)
      reeves := u.2.reeves.map (fun r => (r.1, { r.2 with stores := r.2.stores.filter (fun t => !f u.2.part t.peer) })) }))
    shardOut := s1.shardOut.map (fun o => if o.status.isNone && f (s1.unitOf o.uid).part o.peer then { o with status := some shGONE } else o) }
  let plans := s2.plans.filter (fun p => p.failed.isNone && p.partners.any (f p.part))
  plans.foldl (fun s p => s.failPlan p.part p.handle plABSENT) s2
/-- Mark the peers of the domain that no port reaches, and complete what is outstanding to them (R47). -/
def State.refreshReach (s : State) : State :=
  let gone := (s.routes.map (·.1)).filter (fun k => s.peer != some k && KMap.get 0xFFFFFFFF s.routes k != 0xFFFFFFFF && (s.routedPorts k).isEmpty)
  let s1 : State := { s with unreachable := gone.map (fun k => (k, true)) }
  s1.failPeers (fun _ k => gone.contains k)
/-- A port leaves the route sets (R47): its unacknowledged and waiting data flits go to the port that the new hash selects, its link-control
flits are void, and peers left without a port become unreachable. Sequence numbers go on where they stood when it trains again (log 25). -/
def State.leaveUp (s : State) (i : Nat) : State :=
  let p := s.portOf i
  let s1 := s.modPort i (fun p => { p with routed := false, unacked := [], waiting := [], resend := false })
  ((p.flits.filter (fun f => !f.control)).foldl (fun s f => s.enqueue f) s1).refreshReach.settle
/-- Put a port in a state; from UP, and from the narrowing of a port that is then DISABLED, it leaves the route sets (R47). A narrowing that is
disputed keeps them: its flits are sent again once the port is UP (R45). -/
def State.portTo (s : State) (i : Nat) (f : Port → Port) : State :=
  let p := s.portOf i
  let s1 := s.modPort i f
  if p.st == .up || (p.routed && (f p).st == .disabled) then s1.leaveUp i else s1

/-! ### Training (R42-R45) -/

/-- Nibble `k` of a lane map. -/
def lane (m : BitVec 16) (k : Nat) : Nat := fld m.toNat (4 * k) 4
/-- A lane map of four nibbles. -/
def laneMap (f : Nat → Nat) : BitVec 16 := BitVec.ofNat 16 (((List.range 4).map (fun k => f k % 16 * 2 ^ (4 * k))).sum)
/-- Is a lane used, retired? -/
def laneUsed (n : Nat) : Bool := n.testBit 3
def laneRetired (n : Nat) : Bool := n.testBit 2
/-- Do two lane maps agree: is each one's map of used lanes the inverse of the other's (R43)? -/
def mapsAgree (a b : BitVec 16) : Bool :=
  let half (x y : BitVec 16) : Bool := (List.range 4).all (fun k => !laneUsed (lane x k) || (laneUsed (lane y (lane x k % 4)) && lane y (lane x k % 4) % 4 == k))
  half a b && half b a
/-- The counter of the oldest flit a port will send under a slot once UP (R43). -/
def Port.oldest (p : Port) (k : Nat) : Nat := (p.slotOf k).tx - (p.unacked.filter (fun f => f.key == k)).length
/-- The confirm record of a port (R43). -/
def State.ownRecord (s : State) (i : Nat) : ConfirmRec :=
  let p := s.portOf i
  { serial := Config.serial, port := i, peer := s.peer.getD 0, width := p.width, speed := p.speed, lanes := p.lanes
    counters := s.keys.map (fun k => (k.1, p.oldest k.1)) }
/-- Send the confirm record (R43), in a link-control flit that takes no sequence number, since the port is not in UP (log 18). -/
def State.sendConfirm (s : State) (i : Nat) : State :=
  let s1 := s.send (.confirm i (s.ownRecord i))
  let p := s.portOf i
  let h := flitHdr 3 3 0 p.rxSeq p.nak 0 p.partnerPeer 7
  let b := leBytes 112 (Config.flitPayload s1.sent.length).toNat
  s1.send (.flit i h b (flitCrc h b))

/-- SIGNAL_DETECT (R42, R44): a partner's signal, its lanes, or the retraining of a disputed port. -/
def execSignalDetect (port : Nat) (s : State) : Host.Outcome State Fault Refusal :=
  let goTo (x : PortState) : Host.Outcome State Fault Refusal := .next (s.modPort port (fun p => { p with st := x }))
  if 36 ≤ port then .next s
  else
    match (s.portOf port).st with
    | .down => goTo .detect
    | .detect => goTo .equalise
    | .disputed => goTo .equalise
    | _ => .next s
/-- LOSS_OF_SIGNAL (R42): a port in DETECT, or in UP with no lane left, is DOWN. -/
def execLossOfSignal (port : Nat) (s : State) : Host.Outcome State Fault Refusal :=
  let p := s.portOf port
  if p.st == .detect || p.st == .up then .next (s.portTo port (fun p => { p with st := .down, width := 3 })) else .next s
/-- The lanes of a port that are not retired. -/
def healthyLanes (m : BitVec 16) : List Nat := (List.range 4).filter (fun k => !laneRetired (lane m k))
/-- The width that `n` healthy lanes support, no wider than `w`; code 3 with none (R37, R45). -/
def narrowed (n : Nat) (w : BitVec 2) : BitVec 2 :=
  let c : BitVec 2 := if n == 0 then 3 else if n == 1 then 2 else if n < 4 then 1 else 0
  if c.toNat < w.toNat then w else c
/-- The lanes a width uses. -/
def widthLanes (w : BitVec 2) : Nat := if w = 0 then 4 else if w = 1 then 2 else if w = 2 then 1 else 0
/-- The lane map that uses the lanes of `use`, each joined to the partner's lane `join` gives; a retired lane stays retired (R45). -/
def mapOf (m : BitVec 16) (use : List Nat) (join : Nat → Nat) : BitVec 16 :=
  laneMap (fun k => (if laneRetired (lane m k) then 4 else 0) + (if use.contains k then 8 + join k % 4 else 0))
/-- The partner's lane that a lane joins: as recorded while it is used, else the lane of its number. -/
def joined (m : BitVec 16) (k : Nat) : Nat := if laneUsed (lane m k) then lane m k % 4 else k
/-- EQUALISE_DONE (R42, R44): the chosen width, speed and partner lanes; CONFIRM begins. A width uses the lowest-numbered healthy lanes, and is
no wider than they support (R37); the goal of the training settles the rest. -/
def execEqualiseDone (port : Nat) (width speed : BitVec 2) (lanes : BitVec 16) (s : State) : Host.Outcome State Fault Refusal :=
  let p := s.portOf port
  let h := healthyLanes p.lanes
  let go (w v : BitVec 2) (use : List Nat) : Host.Outcome State Fault Refusal :=
    .next ((s.modPort port (fun p => { p with st := .confirm, width := w, speed := v, lanes := mapOf p.lanes use (lane lanes) })).sendConfirm port)
  let wide (w v : BitVec 2) : Host.Outcome State Fault Refusal :=
    let w := narrowed h.length w
    if w = 3 ∨ v = 3 then .next s else go w v (h.take (widthLanes w))
  if p.st != .equalise then .next s
  else
    match p.goal with
    | .any => wide width speed
    | .full => wide 0 0
    | .lowest => go 2 2 ((List.range 4).filter (fun k => laneUsed (lane p.lanes k)))
/-- The lane of the lowest common configuration: the lowest that both records list as healthy, else lane 0 (R44). -/
def commonLane (a b : BitVec 16) : Nat := ((List.range 4).find? (fun k => !laneRetired (lane a k) && !laneRetired (lane b k))).getD 0
/-- The records disagree (R44): DISPUTED, to retrain at the lowest common configuration, or DISABLED on the third outcome. -/
def State.dispute (s : State) (i : Nat) (r : ConfirmRec) : State :=
  let s1 := s.portTo i (fun p =>
    let n := p.disp + 1
    let k := commonLane p.lanes r.lanes
    { p with
      st := if 3 ≤ n then .disabled else .disputed
      disp := if n < 3 then n else 3
      goal := .lowest
      lanes := mapOf p.lanes [k] (fun _ => 0) })
  if (s1.portOf i).st == .disabled then s1.count tmDispute else s1
/-- Send every unacknowledged flit of a port again, bit for bit (R39). -/
def State.resendAll (s : State) (i : Nat) : State :=
  let p := s.portOf i
  { s.modPort i (fun p => { p with resend := false }) with sent := s.sent ++ p.unacked.map (fun f => .flit i f.hdr f.wire f.integrity) }
/-- The records agree (R43): UP, with the partner recorded and its announced counters taken. -/
def State.enterUp (s : State) (i : Nat) (r : ConfirmRec) : State :=
  let s1 := s.modPort i (fun p =>
    let q := { p with st := .up, partnerSerial := r.serial, partnerPort := r.port, partnerPeer := r.peer, goal := .any, routed := true, since := s.tim }
    r.counters.foldl (fun q c => if KMap.get 0 s.keys c.1 = 0 then q else q.modSlot c.1 (fun x => { x with rx := c.2, loaded := true })) q)
  ((s1.refreshReach).resendAll i).flush i
/-- The port in CONFIRM compares the partner's record with its own (R43). -/
def State.compareRecord (s : State) (i : Nat) (r : ConfirmRec) : State :=
  let p := s.portOf i
  if p.width == r.width && p.speed == r.speed && mapsAgree p.lanes r.lanes then s.enterUp i r else s.dispute i r
/-- The lowest-numbered lanes of `h` that the width of a narrowing port uses (R37, R45). -/
def narrowPort (p : Port) (h : List Nat) : Port :=
  let w := narrowed h.length p.width
  { p with st := .confirm, width := w, lanes := mapOf p.lanes (h.take (widthLanes w)) (joined p.lanes) }
/-- RETIRE ends in CONFIRM at the narrower width, without equalisation: the record goes to the partner (R45). -/
def State.narrow (s : State) (i : Nat) (h : List Nat) : State := (s.modPort i (fun p => narrowPort p h)).sendConfirm i
/-- The healthy lanes of a port whose partner lists retired lanes: those healthy at both ends. -/
def bothHealthy (m r : BitVec 16) : List Nat := (healthyLanes m).filter (fun k => !(laneUsed (lane m k) && laneRetired (lane r (lane m k % 4))))
/-- CONFIRM_RECORD (R43-R45): the partner's record is compared with the port's own. A port that is narrowing goes through CONFIRM first; a port
in UP whose partner narrows narrows with it, to the lanes that are healthy at both ends. -/
def execConfirmRecord (port : Nat) (r : ConfirmRec) (s : State) : Host.Outcome State Fault Refusal :=
  let p := s.portOf port
  match p.st with
  | .confirm => .next (s.compareRecord port r)
  | .retire => .next ((s.narrow port (healthyLanes p.lanes)).compareRecord port r)
  | .up => .next ((s.narrow port (bothHealthy p.lanes r.lanes)).compareRecord port r)
  | _ => .next s
/-- DISPUTE_RESET (R44): after 60 s in UP the dispute count is 0. -/
def execDisputeReset (port : Nat) (s : State) : Host.Outcome State Fault Refusal :=
  let p := s.portOf port
  if p.st == .up && decide (60000000000 ≤ s.tim.toNat - p.since.toNat) then .next (s.modPort port (fun p => { p with disp := 0 })) else .next s
/-- ROOT_RETRAIN (R44): a port in UP retrains at x4 and 224 Gb/s. -/
def execRootRetrain (port : Nat) (s : State) : Host.Outcome State Fault Refusal :=
  if (s.portOf port).st == .up then .next (s.portTo port (fun p => { p with st := .equalise, goal := .full })) else .next s
/-- PORT_ENABLE (R42): root firmware enables a DISABLED port, with a dispute count of 0 (log 25). -/
def execPortEnable (port : Nat) (s : State) : Host.Outcome State Fault Refusal :=
  if (s.portOf port).st == .disabled then .next (s.modPort port (fun p => { p with st := .detect, disp := 0, goal := .any })) else .next s
/-- LANE_RETIRE (R45): a lane of a port in UP retires and the port enters RETIRE, where it sends no new flit; with no lane left it is DOWN (R42).
On a port in RETIRE the narrowing is done, and CONFIRM begins. -/
def execLaneRetire (port lane' : Nat) (s : State) : Host.Outcome State Fault Refusal :=
  let p := s.portOf port
  if p.st == .retire then .next (s.narrow port (healthyLanes p.lanes))
  else if p.st != .up || decide (4 ≤ lane') || laneRetired (lane p.lanes lane') then .next s
  else
    let m := laneMap (fun k => if k == lane' then 4 else lane p.lanes k)
    if (healthyLanes m).isEmpty then .next (s.portTo port (fun p => { p with st := .down, width := 3, lanes := m }))
    else .next (s.modPort port (fun p => { p with st := .retire, lanes := m }))
/-- PORT_LOSS (R47): a port leaves UP for DOWN; its flits go elsewhere. -/
def execPortLoss (port : Nat) (s : State) : Host.Outcome State Fault Refusal :=
  let p := s.portOf port
  if p.st == .up then .next (s.portTo port (fun p => { p with st := .down, width := 3 })) else .next s

/-! ### Flits (R38-R41) -/

/-- Fields of a header (R38). -/
def hdKind (h : Word) : Nat := fld h.toNat 60 4
def hdVc (h : Word) : Nat := fld h.toNat 58 2
def hdSeq (h : Word) : Nat := fld h.toNat 46 12
def hdAck (h : Word) : Nat := fld h.toNat 34 12
def hdNak (h : Word) : Bool := h.toNat.testBit 33
def hdKey (h : Word) : Nat := fld h.toNat 25 8
/-- Tell the partner what has arrived, and whether to replay: an acknowledgement flit without payload (R38, R39). -/
def State.answerFlit (s : State) (i : Nat) : State :=
  let p := s.portOf i
  if p.st != .up then s
  else
    let h := flitHdr 2 3 0 p.rxSeq p.nak 0 p.partnerPeer 0
    s.send (.flit i h (payloadOf []) (flitCrc h (payloadOf [])))
/-- Discard a flit and ask for a replay (R39). -/
def State.discardFlit (s : State) (i : Nat) : State := (s.modPort i (fun p => { p with nak := true })).answerFlit i
/-- Take an ackseq: the flits it covers are let go, and a nak asks for the rest again (R39). -/
def Port.ack (p : Port) (a : Nat) (nak : Bool) : Port :=
  match p.unacked.findIdx? (fun f => f.seq == a) with
  | some j => { p with unacked := p.unacked.drop (j + 1), resend := p.resend || nak }
  | none => { p with resend := p.resend || nak }
/-- Is a flit one that takes a sequence number: data, and link control between ports in UP (R39 does not say; log 25)? -/
def hdSequenced (h : Word) : Bool := hdKind h == 1 || hdKind h == 3
/-- Deliver a flit that is in sequence, or take its number and drop it (R39, R41). -/
def State.deliver (s : State) (i : Nat) (h : Word) (plain : List Byte) (kept : Bool) : State :=
  (s.modPort i (fun p =>
    { p with rxSeq := hdSeq h, nak := false, delivered := if kept then p.delivered ++ [(hdVc h, plain)] else p.delivered })).answerFlit i
/-- Requests under a slot that is dropped complete as for an unreachable peer (R41): an enclave's, or those of the plan that has the slot. -/
def State.slotLost (s : State) (k : Nat) : State :=
  let s1 := s.failPeers (fun p peer => s.partSlot p == k && s.slotShut k peer)
  (s1.plans.filter (fun x => x.keySlot == k && x.failed.isNone && x.members.any (fun m => s.peer != some (mePeer m) && s.slotShut k (mePeer m)))).foldl
    (fun s x => s.failPlan x.part x.handle plABSENT) s1
/-- A tag check failed (R41): the flit is lost; at the eighth in succession its slot's flits are dropped without nak. -/
def State.tagFailure (s : State) (i : Nat) (h : Word) : State :=
  let s1 := (s.count tmAuth).modPort i (fun p => p.modSlot (hdKey h) (fun x => { x with failsInRow := x.failsInRow + 1, dropping := x.dropping || decide (8 ≤ x.failsInRow + 1) }))
  if ((s1.portOf i).slotOf (hdKey h)).dropping then (if hdSequenced h then s1.deliver i h [] false else s1).slotLost (hdKey h)
  else s1.discardFlit i
/-- A link-control flit (R40, log 18): its first payload byte names a slot the partner has loaded. -/
def State.linkControl (s : State) (i : Nat) (payload : List Byte) : State :=
  let k := (payload.getD 0 0).toNat
  if k == 0 then s else (s.modPort i (fun p => p.modSlot k (fun x => { x with loaded := true }))).flush i
/-- FLIT_RECEIVE (R38-R41): a flit is decoded, checked and delivered in sequence, or discarded with nak. A confirm record's flit is
CONFIRM_RECORD's; outside UP no other flit counts (R42). -/
def execFlitReceive (port : Nat) (fecOk : Bool) (hdr : Word) (payload : List Byte) (integrity : Word) (s : State) : Host.Outcome State Fault Refusal :=
  let p := s.portOf port
  let k := hdKey hdr
  let slot := p.slotOf k
  let bad := !fecOk || decide (4 ≤ hdKind hdr) || fld hdr.toNat 0 10 != 0 || payload.length != 112
  let key := KMap.get 0 s.keys k
  let iv := flitIv p.partnerPeer p.partnerPort slot.rx
  if p.st != .up then .next s
  else if bad then .next ((s.count tmFlit).discardFlit port)
  else if k == 0 && flitCrc hdr payload != integrity then .next ((s.count tmFlit).discardFlit port)
  else if hdSequenced hdr && hdSeq hdr != (p.rxSeq + 1) % 4096 then .next (s.discardFlit port)
  else if k != 0 && slot.dropping then .next (if hdSequenced hdr then s.deliver port hdr [] false else s)
  else if k != 0 && (key = 0 || gcmTag key iv (hdrBytes hdr) payload != integrity) then .next (s.tagFailure port hdr)
  else
    let s1 := ((s.modPort port (fun p =>
      let q := p.ack (hdAck hdr) (hdNak hdr)
      if k == 0 then q else q.modSlot k (fun x => { x with rx := x.rx + 1, failsInRow := 0 }))).flush port).settle
    let plain := (if k == 0 then payload else gcmCipher key iv payload).take (16 * fld hdr.toNat 10 3)
    match hdKind hdr with
    | 1 => .next (s1.deliver port hdr plain true)
    | 3 => .next ((s1.deliver port hdr plain false).linkControl port plain)
    | _ => .next s1
/-- FLIT_RESEND (R39): on a nak, every flit from ackseq + 1. -/
def execFlitResend (port : Nat) (s : State) : Host.Outcome State Fault Refusal :=
  let p := s.portOf port
  if p.st == .up && p.resend then .next (s.resendAll port) else .next s
/-- COUNTER_WRAP (R40): a transmit counter that would wrap stops all sending under its slot and is reported. -/
def execCounterWrap (port slot : Nat) (s : State) : Host.Outcome State Fault Refusal :=
  let x := (s.portOf port).slotOf slot
  if slot != 0 && decide (2 ^ 64 ≤ x.tx + 1) && !x.stopped then
    .next ((s.count tmSlot).modPort port (fun p => p.modSlot slot (fun x => { x with stopped := true })))
  else .next s

end Sys2Proof.Machine
end

