-- ==== Sys2Proof/Machine/Security.lean ====
section
/-!
DEFINITION. The security controller: measurements and sessions (R123, R124), enclave records (R125-R128) and revocation (R130, R131).
-/
namespace Sys2Proof.Machine

/-! ### Measurements and sessions (R123, R124) -/

/-- An attestation register. -/
def State.attestReg (s : State) (i : Nat) : BitVec 384 := KMap.get 0 s.attest i
/-- A digest as its bytes. -/
def digestBytes (m : BitVec 384) : List Byte := leBytes 48 m.toNat
/-- A register extended by the digest of an image: SHA-384(M ‖ digest). -/
def extended (m : BitVec 384) (image : List Byte) : BitVec 384 := sha384 (digestBytes m ++ digestBytes (sha384 image))
/-- Extend attestation register `i` with an image. -/
def State.measure (s : State) (i : Nat) (image : List Byte) : State :=
  { s with attest := KMap.set 0 s.attest i (extended (s.attestReg i) image) }
/-- The indices of R123. -/
def measured (i : Nat) : Bool := decide (i ≤ 10) || (decide (16 ≤ i) && decide (i ≤ 23))
/-- The number of a host's session of partition `p`; a package's controller has its peer number (log 10). -/
def hostSession (p : Nat) : Nat := 4096 + p
/-- Send a message to a session's partner: the host, or a controller over virtual channel 3 (R124). -/
def State.sendPartner (s : State) (partner : Nat) (m : Msg) : State := if partner < 4096 then s.sendCtl partner m else s.send m
/-- Send bytes in a session: AES-256-GCM under the session key, with the number of the message as IV (R124, log 10). -/
def State.sendSecured (s : State) (partner : Nat) (plain : List Byte) : State :=
  let n := KMap.get 0 s.sessionSeq partner
  let key := KMap.get 0 s.sessions partner
  let wire := gcmCipher key (BitVec.ofNat 96 n) plain
  { s with sessionSeq := KMap.set 0 s.sessionSeq partner (n + 1) }.sendPartner partner (.secured partner wire (gcmTag key (BitVec.ofNat 96 n) [] wire))
/-- Answer a partner: in its session where it has one, else in the open. -/
def State.answer (s : State) (partner : Nat) (m : Msg) (plain : List Byte) : State :=
  if KMap.get 0 s.sessions partner = 0 then s.sendPartner partner m else s.sendSecured partner plain
/-- A measurement block as it is signed: the index, then the register. -/
def measurementBytes (index : Nat) (v : BitVec 384) : List Byte := leBytes 1 index ++ digestBytes v
/-- GET_MEASUREMENTS (R124): a register is returned as a measurement block, signed with the device identity key. -/
def execGetMeasurements (q : MeasureReq) (s : State) : Host.Outcome State Fault Refusal :=
  let v := s.attestReg q.index
  let g := Config.identitySign (measurementBytes q.index v)
  if measured q.index then .next (s.answer q.partner (.measurement q.partner q.index v g) (measurementBytes q.index v ++ leBytes 96 g.toNat))
  else .next s
/-- SECURE_SESSION (R124): a key exchange with the host or with another package's controller. The answer carries the own public point, signed
together with the partner's, and the certificate chain of the key that signs. -/
def execSecureSession (partner : Nat) (point : BitVec 768) (s : State) : Host.Outcome State Fault Refusal :=
  let own := Config.ecdhePoint s.fresh
  let s1 : State := { s with
    sessions := KMap.set 0 s.sessions partner (Config.ecdheKey s.fresh point), sessionSeq := KMap.set 0 s.sessionSeq partner 0, fresh := s.fresh + 1 }
  .next (s1.sendPartner partner (.session partner own (Config.identitySign (leBytes 96 point.toNat ++ leBytes 96 own.toNat)) Config.certChain))

/-! ### Enclave records (R125-R127) -/

/-- `n` bytes of a record from byte `lo`, as a number. -/
def rfld (b : List Byte) (lo n : Nat) : Nat := leVal ((b.drop lo).take n)
def erNpart (b : List Byte) : Nat := rfld b 6 1
def erNmemb (b : List Byte) : Nat := rfld b 7 1
def erQuorum (b : List Byte) : Nat := rfld b 5 1
def erSlot (b : List Byte) : Nat := rfld b 4 1
def erId (b : List Byte) : Nat := rfld b 0 2
/-- The participants' public points. -/
def erPoints (b : List Byte) : List (BitVec 768) := (List.range (erNpart b)).map (fun j => BitVec.ofNat 768 (rfld b (256 + 96 * j) 96))
/-- The member entries. -/
def erMembers (b : List Byte) : List (BitVec 32) := (List.range (erNmemb b)).map (fun k => BitVec.ofNat 32 (rfld b (256 + 96 * erNpart b + 4 * k) 4))
/-- The four digests of POLICY. -/
def erPolicy (b : List Byte) : List (BitVec 384) := (List.range 4).map (fun k => BitVec.ofNat 384 (rfld b (64 + 48 * k) 48))
/-- The length of a record without its signatures. -/
def erLen (b : List Byte) : Nat := 256 + 96 * erNpart b + 4 * erNmemb b
/-- Participant index of a member entry. -/
def mePt (m : BitVec 32) : Nat := fld m.toNat 16 4
/-- The form of a record (R125), with a signature of every participant after it. -/
def erForm (b : List Byte) : Bool :=
  decide (1 ≤ erNpart b) && decide (erNpart b ≤ 16) && decide (1 ≤ erNmemb b) &&
  (if erNpart b == 1 then erQuorum b == 0 else decide (1 ≤ erQuorum b) && decide (erQuorum b < erNpart b)) &&
  decide (1 ≤ erSlot b) && decide (erSlot b ≤ 15) && rfld b 2 2 == 0 && rfld b 16 48 == 0 && erId b != 0 && rfld b 8 8 == 0 &&
  b.length == erLen b + 96 * erNpart b &&
  (erMembers b).all (fun m => !m.getLsbD 15 && fld m.toNat 20 12 == 0 && decide (mePt m < erNpart b) && decide (fld m.toNat 0 12 < 1024))
/-- The participants' signatures over SHA-384 of the whole record (R127). -/
def erSigned (b : List Byte) : Bool :=
  let d := sha384 (b.take (erLen b))
  ((List.range (erNpart b)).zip (erPoints b)).all (fun p => ecdsaVerify p.2 d (BitVec.ofNat 768 (rfld b (erLen b + 96 * p.1) 96)))
/-- Registers 3-9 taken together (R125). -/
def controllersOf (reg : Nat → BitVec 384) : BitVec 384 := sha384 ((List.range 7).flatMap (fun k => digestBytes (reg (3 + k))))
def State.controllerDigest (s : State) : BitVec 384 := controllersOf s.attestReg
/-- Do a package's registers match a policy for a member partition (R125)? -/
def meetsPolicy (policy : List (BitVec 384)) (reg : Nat → BitVec 384) (p : Nat) : Bool :=
  reg 1 == policy.getD 0 0 && reg 2 == policy.getD 1 0 && controllersOf reg == policy.getD 2 0 && reg (16 + p) == policy.getD 3 0
def State.matchesPolicy (s : State) (policy : List (BitVec 384)) (p : Nat) : Bool := meetsPolicy policy s.attestReg p
/-- The member entries of this package. -/
def State.ownMembers (s : State) (l : List (BitVec 32)) : List (BitVec 32) := l.filter (fun m => s.peer == some (mePeer m))
/-- The point of the participant that this package's partitions belong to in an enclave. -/
def State.ownPoint (s : State) (e : Enclave) : Option (BitVec 768) := (s.ownMembers e.members).head?.bind (fun m => e.points[mePt m]?)
/-- Does partition `p` belong to an enclave whose key this package holds? Where the key has been zeroised it may join anew (R128). -/
def State.inEnclave (s : State) (p : Nat) : Bool := s.enclaves.any (fun e => e.id == (s.partOf p).enclave && e.key != 0)
/-- The checks of R127 at this package. -/
def State.enclaveOk (s : State) (b : List Byte) : Bool :=
  let mine := s.ownMembers (erMembers b)
  erForm b && erSigned b && !mine.isEmpty &&
  mine.all (fun m => (s.partOf (mePart m)).st == .active && (s.partOf (mePart m)).openPasses == 0 && !s.inEnclave (mePart m) &&
    s.matchesPolicy (erPolicy b) (mePart m) && mine.all (fun n => mePt n == mePt m)) &&
  (s.enclaves.filter (fun e => e.key != 0)).all (fun e => e.id != erId b && e.slot != erSlot b &&
    s.ownPoint e == (mine.head?.bind (fun m => (erPoints b)[mePt m]?))) &&
  (List.range 8).all (fun p => (s.partOf p).enclave != erId b || mine.any (fun m => mePart m == p)) &&
  KMap.get 0 s.keys (erSlot b) == 0
/-- The package of member entry 0, whose controller draws the key. -/
def erFirst (b : List Byte) : Nat := mePeer ((erMembers b).headD 0)
/-- The other members' packages. -/
def State.erOthers (s : State) (b : List Byte) : List Nat := ((erMembers b).map mePeer).eraseDups.filter (fun k => s.peer != some k)
/-- The controller of member entry 0 attests the others (R127): of each it has a session, and measurement blocks that meet the policy for
every member partition there. A member whose own checks failed sends none. -/
def State.attests (s : State) (b : List Byte) (blocks : List (Nat × List (BitVec 384))) : Bool :=
  (s.erOthers b).all (fun k => KMap.get 0 s.sessions k != 0 && blocks.any (fun x => x.1 == k &&
    ((erMembers b).filter (fun m => mePeer m == k)).all (fun m => meetsPolicy (erPolicy b) (fun i => x.2.getD i 0) (mePart m))))
/-- Load the key of an enclave and let its member partitions here join (R127 step 4). -/
def State.joinEnclave (s : State) (b : List Byte) (key : BitVec 256) : State :=
  let mine := s.ownMembers (erMembers b)
  let e : Enclave := { id := erId b, slot := erSlot b, epoch := 0, quorum := erQuorum b, points := erPoints b,
                       members := erMembers b, revoked := [], key := key, policy := erPolicy b }
  let s0 : State := { s with enclaves := s.enclaves.filter (fun x => x.id != erId b) ++ [e] }
  let s1 := s0.loadKey (erSlot b) key
  let s2 := mine.foldl (fun s m => s.modPart (mePart m) (fun x => { x with enclave := erId b })) s1
  { s2 with enclaves := s2.enclaves.filter (fun e => s2.parts.any (fun q => q.2.enclave == e.id)) }
/-- ENCLAVE_RECORD (R127): a record that arrives in the host's session of partition `p` is checked; the controller of member entry 0 then draws
the key and sends it to each other member's controller in a session, from which those take it. -/
def execEnclaveRecord (p : Nat) (data : List Byte) (news : EnclaveNews) (s : State) : Host.Outcome State Fault Refusal :=
  let first := s.peer == some (erFirst data)
  let ok := KMap.get 0 s.sessions (hostSession p) != 0 && s.enclaveOk data &&
    (if first then s.attests data news.blocks else news.key != 0 && KMap.get 0 s.sessions (erFirst data) != 0)
  let say (s : State) (ok : Bool) : Host.Outcome State Fault Refusal :=
    .next (s.answer (hostSession p) (.enclaveAnswer ok) (leBytes 1 (if ok then 1 else 0)))
  if !ok then say s false
  else if first then
    let k := Config.freshKey s.fresh
    let s1 := (s.erOthers data).foldl (fun s j => s.sendSecured j (leBytes 32 k.toNat)) { s with fresh := s.fresh + 1 }
    say (s1.joinEnclave data k) true
  else say (s.joinEnclave data news.key) true

/-! ### Revocation (R130, R131) -/

/-- Do signatures stand for distinct participants in increasing index, from `lo` on? -/
def signersOk (e : Enclave) (victim : Nat) (d : BitVec 384) : List (BitVec 768) → Nat → Bool
  | [], _ => true
  | g :: t, lo =>
    match (List.range e.points.length).find? (fun j => decide (lo ≤ j) && j != victim && !e.revoked.contains j && ecdsaVerify (e.points.getD j 0) d g) with
    | some j => signersOk e victim d t (j + 1)
    | none => false
/-- Is a revocation record one the controller accepts (R130)? -/
def revocationOk (e : Enclave) (b : List Byte) : Bool :=
  let n := rfld b 3 1
  let v := rfld b 2 1
  rfld b 8 8 == e.epoch + 1 && rfld b 4 4 == 0 && n == e.quorum && b.length == 16 + 96 * n && decide (v < e.points.length) && !e.revoked.contains v &&
  signersOk e v (sha384 (b.take 16)) ((List.range n).map (fun k => BitVec.ofNat 768 (rfld b (16 + 96 * k) 96))) 0
/-- A partition of the revoked participant (R131, R106): REVOKED, its open passes FAULTED with FT_REVOKED, its held advances dropped. -/
def State.revokePart (s : State) (p : Nat) : State :=
  let s1 := s.modPart p (fun x => { x with st := .revoked, held := [] })
  ((s1.partOf p).passes.filter (fun x => !x.st.over)).foldl (fun s x => s.endPass p x.seq .faulted 0 cREVOKED) s1
/-- Zeroise the enclave's slot and the key slots of its partitions' plans. -/
def State.zeroEnclave (s : State) (e : Enclave) (parts : List Nat) : State :=
  let s1 : State := { s with enclaves := s.enclaves.map (fun x => if x.id == e.id then { x with key := 0 } else x) }
  (s1.plans.filter (fun q => parts.contains q.part)).foldl (fun s q => s.zeroise q.keySlot) (s1.zeroise e.slot)
/-- The member partitions of an enclave on this package that belong to it still. -/
def State.memberParts (s : State) (e : Enclave) : List Nat :=
  ((s.ownMembers e.members).map mePart).eraseDups.filter (fun p => (s.partOf p).enclave == e.id)
/-- Fail the plans of partitions `parts` that include a package of `gone` (R93). -/
def State.failPlansOf (s : State) (parts : List Nat) (gone : Nat → Bool) : State :=
  (s.plans.filter (fun q => parts.contains q.part && q.failed.isNone && q.members.any (fun m => gone (mePeer m)))).foldl
    (fun s q => s.failPlan q.part q.handle plABSENT) s
/-- Apply a revocation of participant `v` (R131, R93). -/
def State.applyRevocation (s : State) (e : Enclave) (v epoch : Nat) : State :=
  let s1 : State := { s with enclaves := s.enclaves.map (fun x => if x.id == e.id then { x with epoch := epoch, revoked := v :: x.revoked } else x) }
  let parts := s.memberParts e
  let gone (k : Nat) : Bool := e.members.any (fun m => mePeer m == k && mePt m == v)
  if (s.ownMembers e.members).any (fun m => mePt m == v) then parts.foldl (fun s p => s.revokePart p) (s1.zeroEnclave e parts)
  else (s1.failPeers (fun p k => parts.contains p && gone k)).failPlansOf parts gone
/-- REVOCATION_RECORD (R130, R131): from the host in the session of partition `p`, or forwarded by a member's controller. It is checked; what
the host delivers is forwarded to every other member's controller; it is applied, and acknowledged to who sent it. -/
def execRevocationRecord (r : RevocationMsg) (s : State) : Host.Outcome State Fault Refusal :=
  let say (s : State) (ok : Bool) : State :=
    match r.via with
    | none => s.answer (hostSession r.p) (.enclaveAnswer ok) (leBytes 1 (if ok then 1 else 0))
    | some k => if ok then s.sendCtl k (.revocationAck k) else s
  match s.enclaves.find? (fun e => e.id == rfld r.data 0 2) with
  | none => .next (say s false)
  | some e =>
    let came := match r.via with
      | none => KMap.get 0 s.sessions (hostSession r.p) != 0
      | some k => e.members.any (fun m => mePeer m == k)
    if !came || !revocationOk e r.data then .next (say s false)
    else
      let others := if r.via.isNone then ((e.members.map mePeer).filter (fun k => s.peer != some k)).eraseDups else []
      let s1 := others.foldl (fun s k => s.sendCtl k (.revocation k r.data)) s
      .next (say (s1.applyRevocation e (rfld r.data 2 1) (rfld r.data 8 8)) true)

end Sys2Proof.Machine
end

