-- ==== Sys2Proof/Machine/Manage.lean ====
section
/-!
DEFINITION. The host's and root firmware's side: partition control registers and cancellation (R98, R99, R105, R106), idle states (R110, R111),
management commands (R112-R119): starts, live update, partitions, the power limit and the domain.
-/
namespace Sys2Proof.Machine

/-! ### Partition control (R99, R105, R106) -/

/-- DROPQ (R99): every pass not yet PLACED is cancelled while QUIESCE is set. -/
def State.dropQueue (s : State) (p : Nat) : State :=
  ((s.partOf p).passes.filter (fun x => x.st == .queued || x.st == .held || x.st == .ready)).foldl (fun s x => s.endPass p x.seq .cancelled 4 0) s
/-- A write to PCCTL (R99, R106): QUIESCE moves an ACTIVE partition to QUIESCING, and back; DROPQ acts while QUIESCE is set. -/
def State.writePcctl (s : State) (p : Nat) (w : Word) : State :=
  let v := w &&& 3
  let s1 := s.modPart p (fun x => { x with
    pcctl := v
    st := if v.getLsbD 0 then (if x.st == .active then .quiescing else x.st) else (if x.st == .quiescing || x.st == .quiesced then .active else x.st) })
  let s2 := if v = 3 then s1.dropQueue p else s1
  s2.settleQuiesce p
/-- A pass id written to PCCANCEL (R105). -/
def State.cancelPass (s : State) (p : Nat) (id : Word) : State :=
  match s.passAt p (passSeq id) with
  | none => s
  | some x => if passPart id != p || x.st.over || s.allTasksEnded p x then s else s.endPass p x.seq .cancelled 3 0
/-- The host reaches the device: it leaves its idle state (R111). -/
def State.touched (s : State) : State := { s with idle := .active }
/-- Are the partition control registers reachable: not in SAFE (R114), and of a partition number there is? -/
def State.barOpen (s : State) (p : Nat) : Bool := s.mgst != .safe && decide (p < 8)
/-- QUIESCE_SET (R106). -/
def execQuiesceSet (p : Nat) (w : Word) (s : State) : Host.Outcome State Fault Refusal :=
  .next (if s.barOpen p then s.touched.writePcctl p (w ||| 1) else s.touched)
/-- QUIESCE_CLEAR (R106). -/
def execQuiesceClear (p : Nat) (w : Word) (s : State) : Host.Outcome State Fault Refusal :=
  .next (if s.barOpen p then s.touched.writePcctl p (w &&& 2) else s.touched)
/-- DROPQ (R99). -/
def execDropq (p : Nat) (s : State) : Host.Outcome State Fault Refusal :=
  .next (if s.barOpen p then s.touched.writePcctl p ((s.partOf p).pcctl ||| 2) else s.touched)
/-- PCCANCEL (R105). -/
def execPccancel (p : Nat) (id : Word) (s : State) : Host.Outcome State Fault Refusal :=
  .next (if s.barOpen p then s.touched.cancelPass p id else s.touched)

/-! ### Idle states (R110, R111) -/

/-- Is the device idle (R110)? -/
def State.quiet (s : State) : Bool :=
  s.parts.all (fun p => p.2.openPasses == 0) && s.cores.all (fun c => c.2.wq.isEmpty && c.2.routine.isNone) && s.units.all (fun u => !u.2.live) &&
  s.fills.isEmpty && s.shardOut.isEmpty && s.shardHeld.isEmpty && s.thresher.isEmpty && s.device.isEmpty && s.starting.isNone && s.updating.isNone
/-- Exit latencies in ns. -/
def exitLatency : Idle → Nat
  | .active => 0
  | .i1 => 2000
  | .i2 => 20000
  | .i3 => 2000000
/-- L (R110): the smaller of Max Snoop and Max No-Snoop Latency. -/
def latencyOf (l : Nat × Nat) : Nat := if l.1 < l.2 then l.1 else l.2
/-- The deepest idle state that L allows and that `elapsed` has earned (R110). -/
def State.idleFor (s : State) (l elapsed : Nat) : Idle :=
  let ok (x : Idle) : Bool := decide (exitLatency x ≤ l) && decide (exitLatency x ≤ elapsed)
  if ok .i3 && s.ports.all (fun p => p.2.st != .up) then .i3 else if ok .i2 then .i2 else if ok .i1 then .i1 else .active
/-- IDLE_ENTRY (R110): an idle device, idle for `elapsed` ns, enters the deepest state allowed; none while LTR is not enabled. -/
def execIdleEntry (elapsed : Nat) (s : State) : Host.Outcome State Fault Refusal :=
  match s.ltr with
  | none => .next s
  | some l => if s.quiet then .next { s with idle := s.idleFor (latencyOf l) elapsed } else .next s
/-- IDLE_WAKE (R111). -/
def execIdleWake (s : State) : Host.Outcome State Fault Refusal := .next s.touched

/-! ### Starting the device (R112-R114) -/

/-- Is a start or update in progress, so that a command ends BUSY (R112)? -/
def State.mgBusy (s : State) : Bool := s.mgst == .starting || s.mgst == .updating
/-- A command's result. -/
def State.result (s : State) (r : Nat) : State := { s with mgres := r }
/-- Is every partition QUIESCED, OFF or REVOKED (R112)? -/
def State.allQuiet (s : State) : Bool := s.parts.all (fun p => p.2.st == .quiesced || p.2.st == .off || p.2.st == .revoked)
/-- FORCE (R112): every open pass ends CANCELLED with reason START. -/
def State.forceEnd (s : State) : State :=
  (List.range 8).foldl (fun s p => ((s.partOf p).passes.filter (fun x => !x.st.over)).foldl (fun s x => s.endPass p x.seq .cancelled 5 0) s) s
/-- The records of the ended passes are written before the reset. -/
def State.flushRecords (s : State) : State :=
  (List.range 8).foldl (fun s p => ((s.partOf p).passes.filter (fun x => !x.recorded)).foldl (fun s x => s.writeRecord p x) s) s
/-- The bytes that MGIMGA and MGIMGL name in host memory. -/
def State.image (s : State) : List Byte := memRead s.host s.mgimga.toNat s.mgimgl.toNat
/-- The fuse and retirement state as register 10 measures it (R123): retired cores, spared rows of each stack, disabled ports. -/
def State.fuses (s : State) : List Byte :=
  Config.fuseImage ((s.cores.filter (fun c => c.2.retired)).map (·.1)) ((s.stackHealth.filter (fun x => x.2.spares != 0)).map (fun x => (x.1, x.2.spares)))
    ((s.ports.filter (fun p => p.2.st == .disabled)).map (·.1))
/-- A start measures the boot ROM, the loader, each image of the bundle, and the retirement state (R113, R123). -/
def State.measureBundle (s : State) (fuses : List Byte) : State :=
  let b := s.image
  let s0 : State := { s with attest := [] }
  ((List.range 10).foldl (fun (s : State) i => s.measure i (Config.bundlePart b i)) s0).measure 10 fuses
/-- A port at a cold start trains anew, its retired lanes in use again (R42, R45, R113). -/
def coldPort (p : Port) : Port := { Port.reset with st := if p.st == .disabled then .detect else .down }
/-- A port at a warm start: kept while UP and its partner unchanged (R113); which partners are is free (log 9). -/
def warmPort (n : Nat) (p : Nat × Port) : Nat × Port := if p.2.st == .up && Config.choice (n + p.1) then (p.1, { p.2 with slots := [] }) else (p.1, coldPort p.2)
/-- The reset of a start (R112-R114, R117, R128, R337: `%tim` begins anew): every partition and its work are cleared, keys zeroised, lofts, statex files and shadow
storage scrubbed with the units that held them, the domain identity gone and the power limit back at 3,400 W. -/
def State.clearAll (s : State) (cold : Bool) : State :=
  let s1 := (List.range 8).foldl (fun s p => s.dropPartition p) (s.zeroEnclaves)
  { s1 with
    units := []
    parts := []
    cores := (s1.cores.map (fun c => (c.1, { Core.reset with unpowered := c.2.unpowered, retired := c.2.retired, marked := c.2.marked }))).filter (fun c => c.2 != Core.reset)
    fabric := [], fills := [], migration := [], tlb := [], shards := [], thresher := [], plans := [], sigs := [], shardOut := [], shardHeld := []
    heldReplies := [], pairs := [], device := [], dmwrs := [], enclaves := [], sessions := [], sessionSeq := [], keys := [], tim := 0, timFrac := 0
    domId := 0, peer := none, routes := [], unreachable := [], powerLimit := 3400
    ports := ((if cold then s1.ports.map (fun p => (p.1, coldPort p.2)) else s1.ports.map (warmPort s1.fresh))).filter (fun p => p.2 != Port.reset)
    fresh := s1.fresh + 36 }
/-- Begin a start. -/
def State.beginStart (s : State) (cold : Bool) : State :=
  { (s.clearAll cold).measureBundle s.fuses with mgst := .starting, starting := some cold }
/-- Command 1 or 2 (R112, R113): a warm start runs as a cold one when the calibration is lost; only a cold start leaves SAFE (R114). -/
def State.startCmd (s : State) (cold force : Bool) : State :=
  if s.mgBusy then s.result resBUSY
  else if s.mgst == .safe && !cold then s.result resFAILED
  else if !force && !s.allQuiet then s.result resNOTQ
  else ((if force then s.forceEnd else s).flushRecords).beginStart (cold || !s.calibrated)
/-- COLD_START (R113). -/
def execColdStart (force : Bool) (s : State) : Host.Outcome State Fault Refusal := .next (s.touched.startCmd true force)
/-- WARM_START (R113). -/
def execWarmStart (force : Bool) (s : State) : Host.Outcome State Fault Refusal := .next (s.touched.startCmd false force)
/-- START_COMPLETION (R113, R114): a start succeeds, and every die is in service; or it fails: the second warm start in succession runs a cold
one, the third cold start in succession leaves SAFE. -/
def execStartCompletion (ok : Bool) (s : State) : Host.Outcome State Fault Refusal :=
  match s.starting with
  | none => .next s
  | some cold =>
    if ok then
      .next { s with
        mgst := .ready, mgres := resOK, starting := none, wfail := 0, cfail := 0, calibrated := true, dies := []
        cores := (s.cores.map (fun c => (c.1, { c.2 with unpowered := false }))).filter (fun c => c.2 != Core.reset) }
    else if cold then
      let n := if s.cfail < 3 then s.cfail + 1 else 3
      .next { s with mgres := resFAILED, starting := none, cfail := n, mgst := if 3 ≤ n then .safe else .off }
    else
      let n := if s.wfail < 3 then s.wfail + 1 else 3
      let s1 : State := { s with mgres := resFAILED, starting := none, wfail := n, mgst := .off }
      .next (if 2 ≤ n then s1.beginStart true else s1)
/-- PACKAGE_POWER_LOSS (R113): power is lost and returns: all but host memory, retirement, the security floor and the telemetry of the past is as at
reset, and the calibration is gone. -/
def execPackagePowerLoss (s : State) : Host.Outcome State Fault Refusal :=
  .next { State.reset with
    host := s.host, sent := s.sent, svn := s.svn, turns := s.turns, fresh := s.fresh, nextTag := s.nextTag, nextUid := s.nextUid
    wfail := s.wfail, cfail := s.cfail
    fetchAhead := s.fetchAhead, staleTlb := s.staleTlb, pace := s.pace, ltr := s.ltr
    stackHealth := (s.stackHealth.map (fun x => (x.1, { Stack.reset with spares := x.2.spares }))).filter (fun x => x.2 != Stack.reset)
    cores := (s.cores.map (fun c => (c.1, { Core.reset with retired := c.2.retired, marked := c.2.marked }))).filter (fun c => c.2 != Core.reset) }
/-- CXL_PORT_DOWN (R97): a CXL root port or its expander goes down or comes back. -/
def execCxlPortDown (port : Nat) (up : Bool) (s : State) : Host.Outcome State Fault Refusal :=
  .next { s with cxlDown := KMap.set false s.cxlDown port (!up) }

/-! ### Live update (R119, R128) -/

/-- LIVE_UPDATE (R119): command 3: the controller takes the staged image and pauses while it is verified. -/
def State.updateCmd (s : State) (ctl : Nat) : State :=
  if s.mgBusy then s.result resBUSY
  else if s.mgst != .ready || decide (6 < ctl) then s.result resFAILED
  else { s with mgst := .updating, updating := some (ctl, s.image) }
/-- LIVE_UPDATE (R119). -/
def execLiveUpdate (ctl : Nat) (s : State) : Host.Outcome State Fault Refusal := .next (s.touched.updateCmd ctl)
/-- Would the measurement leave a register outside the policy of an enclave whose key is held (R128)? -/
def State.breaksPolicy (s s1 : State) : Bool :=
  s.enclaves.any (fun e => KMap.get 0 s.keys e.slot != 0 && (s1.attestReg 2 != e.policy.getD 1 0 || s1.controllerDigest != e.policy.getD 2 0))
/-- The controller goes on: an update ends with a result, and the launches that waited for it are taken in order (R119). -/
def State.updateEnd (s : State) (r : Nat) : State :=
  s.dmwrs.foldl (fun s d => s.takeLaunch d.1 d.2) { s with mgst := .ready, mgres := r, updating := none, dmwrs := [] }
/-- UPDATE_COMPLETION (R119, R128): the image is refused, or measured and run. -/
def execUpdateCompletion (s : State) : Host.Outcome State Fault Refusal :=
  match s.updating with
  | none => .next s
  | some (ctl, image) =>
    let done := State.updateEnd
    let s1 := s.measure (3 + ctl) image
    if !Config.imageSigned image then .next (done s resBADIMAGE)
    else if Config.imageVersion image < s.svn then .next (done s resSVN)
    else if s.breaksPolicy s1 then .next (done s resBADIMAGE)
    else .next (done s1 resOK)

/-! ### Partitions (R115, R116) -/

/-- The fields of a keeper image's header (R116). -/
def kiTvec (b : List Byte) : Nat := rfld b 0 8
def kiGate (b : List Byte) : Nat := rfld b 8 8
def kiLen (b : List Byte) : Nat := rfld b 16 8
def kiKva (b : List Byte) : Nat := rfld b 24 8
def kiShva (b : List Byte) : Nat := rfld b 32 8
def kiInit (b : List Byte) : Nat := rfld b 40 8
/-- Does a range lie in one half of the canonical range (R174)? -/
def rangeOk (a n : Nat) : Bool := decide (a + n ≤ 2 ^ 56) || (decide (2 ^ 64 - 2 ^ 56 ≤ a) && decide (a + n ≤ 2 ^ 64))
/-- The checks of R116 for a share of `size` bytes. -/
def imageOk (b : List Byte) (size : Nat) : Bool :=
  rfld b 48 16 == 0 && kiTvec b % 8 == 0 && decide (64 ≤ kiLen b) && decide (kiLen b ≤ 2 ^ 26) && kiKva b % 4096 == 0 && kiShva b % 2 ^ 30 == 0 &&
  kiInit b % 8 == 0 && decide (kiInit b < kiLen b) && rangeOk (kiKva b) (kiLen b) && rangeOk (kiShva b) size &&
  (decide (kiKva b + kiLen b ≤ kiShva b) || decide (kiShva b + size ≤ kiKva b)) && decide (2 ^ 21 + kiLen b ≤ size - size / 8)
/-- A page table being built in the second MiB of a share: the memory, and the offsets where the next table of level 1 and the next smaller one go
(R116; the places are the model's, log 20). -/
structure Tables where
  mem : Memory
  big : Nat
  small : Nat
/-- The entry at `a`, or a new table's pointer there. -/
def Tables.step (t : Tables) (share a : Nat) (level : Nat) : Nat × Tables :=
  let e := memVal t.mem a 8
  if e % 2 == 1 then (fld e 30 31 * 4096, t)
  else
    let at' := share + (if level == 0 then t.big else t.small)
    (at', { mem := memWrite t.mem a (leBytes 8 (at' / 4096 * 2 ^ 30 + 1)), big := if level == 0 then t.big + 2 ^ 17 else t.big, small := if level == 0 then t.small else t.small + 4096 })
/-- Map one page: `last` is the level of its leaf (R175). -/
def Tables.map (t : Tables) (share va leaf : Nat) (last : Nat) : Tables :=
  let w := toW va
  let go := (List.range last).foldl (fun (x : Nat × Tables) l => x.2.step share (x.1 + 8 * vaIndex w l false) l) (share + 2 ^ 20, t)
  { go.2 with mem := memWrite go.2.mem (go.1 + 8 * vaIndex w last false) (leBytes 8 leaf) }
/-- Address space 0 of a new partition (R116 step 2): the image from KVA in 4 KiB pages with R, W, X and K, and the share at SHVA in 1 GiB
pages with R, W and K. -/
def keeperSpace (m : Memory) (share size : Nat) (b : List Byte) : Memory :=
  let m1 := memWrite m share (leBytes 16 ((share + 2 ^ 20) / 4096 * 2 ^ 30 + 1))
  let t0 : Tables := ⟨m1, 2 ^ 20 + 2 ^ 17, 2 ^ 20 + 2 ^ 17 * 6⟩
  let t1 := (List.range (ceilDiv (kiLen b) 4096)).foldl (fun t i =>
    Tables.map t share (kiKva b + 4096 * i) ((share + 2 ^ 21 + 4096 * i) / 4096 * 2 ^ 30 + 0x1F) 3) t0
  ((List.range (size / 2 ^ 30)).foldl (fun t i => Tables.map t share (kiShva b + 2 ^ 30 * i) ((share + 2 ^ 30 * i) / 4096 * 2 ^ 30 + 0x17) 1) t1).mem
/-- The initial keeper task (R116 step 5): every register but its arguments is 0; it is charged no budget. -/
def initialUnit (p core share size : Nat) (b : List Byte) : Unit :=
  { Unit.none with
    live := true
    part := p
    rv := 1
    initial := true
    reeves := [(0, { Reeve.reset with g := [(1, toW p), (3, toW share), (4, toW size)].foldl (fun g e => KMap.set 0 g e.1 e.2) [],
                                      pc := toW (kiKva b + kiInit b), started := true, mode := .keeper, budget := 0 })]
    sheaves := [(0, { Sheaf.reset with vt := 0 })]
    lpart := lpartOf 0 1
    place := .running
    core := core }
/-- Set up a partition whose record and image have passed their checks (R115, R116). -/
def State.setUp (s : State) (p : Nat) (cores : List Nat) (share size cx cxSize : Nat) (b : List Byte) : State :=
  let m0 := KMap.clear (KMap.clear s.hbm share (2 ^ 21)) (share + (size - size / 8)) (2 ^ 20)
  let m1 := memWrite m0 (share + 2 ^ 21) (b.take (kiLen b))
  let core := cores.headD 0
  let part : Partition := { Partition.off with
    pcseq := (s.partOf p).pcseq, tvec := toW (kiTvec b), gatebase := toW (kiGate b), cores := cores, remap := cores
    shareBase := share, shareSize := size, cxlBase := cx, cxlSize := cxSize, initUid := s.nextUid }
  let s1 := ({ s with
    hbm := keeperSpace m1 share size b
    parts := KMap.set Partition.off s.parts p part
    mgst := .updating
    nextUid := s.nextUid + 1 }.setUnit s.nextUid (initialUnit p core share size b)).modCore core (fun c => { c with running := some s.nextUid, turn := 0 })
  { s1 with attest := KMap.set 0 s1.attest (16 + p) (extended (s1.attestReg (16 + p)) (b.take (kiLen b))) }
/-- Command 4 (R115, R116). -/
def State.createCmd (s : State) (p : Nat) : State :=
  let pr := memRead s.host s.mgimga.toNat 64
  let map := rfld pr 16 48
  let cores := (List.range 384).filter (fun c => map.testBit c)
  let size := rfld pr 12 4 * 2 ^ 30
  let cx := rfld pr 8 4 * 2 ^ 30
  let b := memRead s.host (s.mgimga.toNat + 64) (if s.mgimgl.toNat ≤ 2 ^ 26 + 64 then s.mgimgl.toNat - 64 else 64)
  let taken (c : Nat) : Bool := (s.coreOf c).retired || (s.coreOf c).unpowered || (List.range 8).any (fun q => (s.partOf q).cores.contains c)
  let total := if Config.cxlGiB < 3072 then Config.cxlGiB else 3072
  if s.mgBusy then s.result resBUSY
  else if 7 < p || (s.partOf p).st != .off then s.result resBADPART
  else if s.mgst != .ready || cores.isEmpty || cores.any taken || size == 0 then s.result resFAILED
  else
    match gapFor 0 hbmBytes (s.parts.map (fun q => (q.2.shareBase, q.2.shareSize))) size, gapFor 0 (total * 2 ^ 30) (s.parts.map (fun q => (q.2.cxlBase, q.2.cxlSize))) cx with
    | some share, some cxb =>
      if !imageOk b size || s.mgimgl.toNat != 64 + kiLen b then s.result resBADIMAGE
      else s.setUp p cores share size cxb cx b
    | _, _ => s.result resFAILED
/-- CREATE_PARTITION (R115, R116). -/
def execCreatePartition (p : Nat) (s : State) : Host.Outcome State Fault Refusal := .next (s.touched.createCmd p)
/-- Command 5 (R115). -/
def State.removeCmd (s : State) (p : Nat) : State :=
  let st := (s.partOf p).st
  if s.mgBusy then s.result resBUSY
  else if 7 < p || st == .off then s.result resBADPART
  else if st != .quiesced && st != .revoked then s.result resNOTQ
  else (s.dropPartition p).result resOK
/-- REMOVE_PARTITION (R115). -/
def execRemovePartition (p : Nat) (s : State) : Host.Outcome State Fault Refusal := .next (s.touched.removeCmd p)

/-! ### Power limit and domain (R117, R118) -/

/-- Command 6 (R117). -/
def State.powerCmd (s : State) : State :=
  let w := s.mgimgl.toNat
  if s.mgBusy then s.result resBUSY
  else if 1800 ≤ w ∧ w ≤ 3400 ∧ w % 50 = 0 then { s with powerLimit := w }.result resOK
  else s.result resFAILED
/-- SET_POWER_LIMIT (R117). -/
def execSetPowerLimit (s : State) : Host.Outcome State Fault Refusal := .next s.touched.powerCmd
/-- The form of a domain record (R118). -/
def domainOk (b : List Byte) : Bool :=
  let route (k : Nat) : List Nat := (List.range 4).map (fun j => rfld b (64 + 4 * k + j) 1)
  rfld b 18 46 == 0 && rfld b 8 8 == 0 && rfld b 0 8 != 0 && decide (rfld b 16 2 < 1024) &&
  (List.range 1024).all (fun k => (route k).all (fun x => decide (x < 36) || x == 255) && ((route k).filter (· != 255)).Nodup) &&
  (route (rfld b 16 2)).all (· == 255)
/-- The route table of a record. -/
def routesOf (b : List Byte) : KMap (BitVec 32) :=
  (List.range 1024).filterMap (fun k => let r : BitVec 32 := BitVec.ofNat 32 (rfld b (64 + 4 * k) 4); if r = 0xFFFFFFFF then none else some (k, r))
/-- Every port in UP runs CONFIRM again (R117). -/
def State.reconfirm (s : State) : State :=
  (s.ports.filter (fun p => p.2.st == .up)).foldl (fun s p => (s.portTo p.1 (fun x => { x with st := .confirm })).sendConfirm p.1) s
/-- Command 7 (R117). -/
def State.domainCmd (s : State) (force : Bool) : State :=
  let b := s.image
  if s.mgBusy then s.result resBUSY
  else if s.mgimgl != 4160 || !domainOk b then s.result resBADIMAGE
  else
    let dom := toW (rfld b 0 8)
    let peer := rfld b 16 2
    if s.domId = dom ∧ s.peer = some peer then ({ s with routes := routesOf b }.refreshReach).result resOK
    else if !force && !s.allQuiet then s.result resNOTQ
    else
      let s1 := if force then s.forceEnd else s
      (({ s1 with domId := dom, peer := some peer, routes := routesOf b }.reconfirm).refreshReach).result resOK
/-- SET_DOMAIN (R117). -/
def execSetDomain (force : Bool) (s : State) : Host.Outcome State Fault Refusal := .next (s.touched.domainCmd force)

/-! ### Register writes (R98, R99, R112) -/

/-- A command written to MGCMD (R112). -/
def State.mgCommand (s : State) (w : Word) : State :=
  let id := fld w.toNat 8 8
  let force := w.getLsbD 16
  match fld w.toNat 0 8 with
  | 1 => s.startCmd true force
  | 2 => s.startCmd false force
  | 3 => s.updateCmd id
  | 4 => s.createCmd id
  | 5 => s.removeCmd id
  | 6 => s.powerCmd
  | 7 => s.domainCmd force
  | _ => s
/-- A write to a partition control register (R99): the keeper alone writes PCEXPB, PCEXPC and PCSYM. -/
def State.pcWrite (s : State) (keep : Bool) (p off : Nat) (w : Word) : State :=
  match off with
  | 0x08 => s.writePcctl p w
  | 0x10 => s.cancelPass p w
  | 0x18 => s.trigger p w
  | 0x20 => if keep then s.modPart p (fun x => { x with pcexpb := w }) else s
  | 0x28 => if keep then s.modPart p (fun x => { x with pcexpc := w &&& 0x1FFFFFF }) else s
  | 0x30 => if keep then s.modPart p (fun x => { x with pcsym := w &&& 0x800000000000FFFF }) else s
  | _ => s
/-- A write to BAR 0 (R98, R100, R114). -/
def State.bar0Write (s : State) (keep : Bool) (off : Nat) (w : Word) : State :=
  let p := off / 2 ^ 20
  let o := off % 2 ^ 20
  if !s.barOpen p then (if o < 64 then s.send (.unsupported p) else s)
  else if o < 64 then s.send (.unsupported p)
  else if 0x1000 ≤ o ∧ o < 0x1040 then s.pcWrite keep p (o - 0x1000) w
  else s
/-- A write to BAR 4 (R98, R112): management registers, and diagnostics from 0x8000. -/
def State.bar4Write (s : State) (off : Nat) (w : Word) : State :=
  match off with
  | 0 => s.mgCommand w
  | 0x10 => { s with mgimga := w }
  | 0x18 => { s with mgimgl := w }
  | _ => if 0x8000 ≤ off ∧ off + 8 ≤ 0x10000 then { s with bar4 := memWrite s.bar4 off (leBytes 8 w.toNat) } else s
/-- A setting of root firmware (log 21): 0 binds a queue pair to a partition (R50), 1 runs an Ethernet port at 800 Gb/s (R49), 2 marks an HBM
frame retired (R121), 3 marks a core (R35), 4 enables priority flow control of a class of an Ethernet port (R49), 5 an IDE stream, and 6 locks a
BAR 0 slice as a TDI (R96). -/
def State.rootWrite (s : State) (kind off : Nat) (w : Word) : State :=
  match kind with
  | 0 => if off < 1024 then { s with pairs := KMap.upd QPair.reset s.pairs off (fun b => { b with part := if w.toNat < 8 then w.toNat else 8 }) } else s
  | 1 => if off < 16 then { s with ethSlow := KMap.set false s.ethSlow off (w.getLsbD 0) } else s
  | 2 => { s with hbmRetired := KMap.set false s.hbmRetired off (w.getLsbD 0) }
  | 3 => if off < 384 then s.modCore off (fun c => { c with marked := w.getLsbD 0 }) else s
  | 4 => if off < 128 then { s with pfc := KMap.set false s.pfc off (w.getLsbD 0) } else s
  | 5 => if off < 9 then { s with ide := KMap.set false s.ide off (w.getLsbD 0) } else s
  | 6 => if off < 8 then { s with tdi := KMap.set false s.tdi off (w.getLsbD 0) } else s
  | _ => s
/-- The host's LTR capability (R110, log 21): Max Snoop Latency in [31:0] and Max No-Snoop Latency in [62:32], in ns; bit 63 is set while the
mechanism is not enabled. A value that the idle state no longer fits wakes the device (R111). -/
def State.ltrWrite (s : State) (w : Word) : State :=
  let l := if w.getLsbD 63 then none else some (fld w.toNat 0 32, fld w.toNat 32 31)
  let fits := match l with
    | some n => decide (exitLatency s.idle ≤ latencyOf n)
    | none => false
  { s with ltr := l, idle := if fits then s.idle else .active }
/-- REGISTER_WRITE (R98, R99, R112): a write to a register, by the host, a keeper or root firmware. BAR 2 is read-only; the number 8 stands for the
host's LTR capability. -/
def execRegisterWrite (who : Writer) (bar : Nat) (off : Nat) (w : Word) (s : State) : Host.Outcome State Fault Refusal :=
  match who, bar with
  | .root, _ => .next (s.rootWrite bar off w)
  | _, 0 => .next (s.touched.bar0Write (who == .keeper) off w)
  | .host, 4 => .next (s.touched.bar4Write off w)
  | .host, 8 => .next (s.ltrWrite w)
  | _, _ => .next s

/-- A read of BAR 4 (R98, R112): MGCMD is write-only and reads 0; diagnostics read back what was written. -/
def State.bar4Read (s : State) (off : Nat) : Word :=
  match off with
  | 0x08 => toW (mgCode s.mgst + s.mgres % 16 * 16 + s.wfail % 4 * 256 + s.cfail % 4 * 1024)
  | 0x10 => s.mgimga
  | 0x18 => s.mgimgl
  | _ => if 0x8000 ≤ off ∧ off + 8 ≤ 0x10000 then toW (memVal s.bar4 off 8) else 0
where
  /-- STATE of MGSTS. -/
  mgCode : MgState → Nat
    | .off => 0 | .starting => 1 | .ready => 2 | .updating => 3 | .safe => 4
/-- A read by the host (R98, R100, R114): the launch windows answer Unsupported Request; an unassigned offset reads 0. -/
def State.hostRead (s : State) (bar off : Nat) : State :=
  let t := if bar == 0 || bar == 4 then s.touched else s
  match bar with
  | 0 =>
    if off < 2 ^ 23 ∧ off % 2 ^ 20 < 64 then t.send (.unsupported (off / 2 ^ 20))
    else t.send (.hostData 0 off (if off < 2 ^ 23 then t.mmioRead (off / 4096) (off % 4096) else 0))
  | 2 => t.send (.hostData 2 off (if off < 2 ^ 20 then t.mmioRead (0x1000 + off / 4096) (off % 4096) else 0))
  | 4 => t.send (.hostData 4 off (t.bar4Read off))
  | _ => t

/-- A device write that has left its task (R181) is performed. -/
def State.deviceWrite (s : State) (w : DevWrite) : State :=
  match w with
  | .reg keep off v => s.bar0Write keep off v
  | .doorbell p q recv v => s.doorbell p q recv v
  | .ring p q recv _ v => s.ringConfig p q recv v

end Sys2Proof.Machine
end

