-- ==== Sys2Proof/Machine/Dispatch.lean ====
section
/-!
DEFINITION. The dispatch: one arm per constructor of `Instr`, each one direct call of its meaning.
-/
namespace Sys2Proof.Machine

/-- The meaning of an instruction or event. -/
def exec (i : Instr) (s : State) : Host.Outcome State Fault Refusal :=
  match i with
  | .add d a b => Sys2Proof.Machine.execAdd d a b s
  | .sub d a b => Sys2Proof.Machine.execSub d a b s
  | .mul d a b => Sys2Proof.Machine.execMul d a b s
  | .mulh d a b => Sys2Proof.Machine.execMulh d a b s
  | .mulhn d a b => Sys2Proof.Machine.execMulhn d a b s
  | .div d a b => Sys2Proof.Machine.execDiv d a b s
  | .divn d a b => Sys2Proof.Machine.execDivn d a b s
  | .rem d a b => Sys2Proof.Machine.execRem d a b s
  | .remn d a b => Sys2Proof.Machine.execRemn d a b s
  | .and d a b => Sys2Proof.Machine.execAnd d a b s
  | .or d a b => Sys2Proof.Machine.execOr d a b s
  | .xor d a b => Sys2Proof.Machine.execXor d a b s
  | .andn d a b => Sys2Proof.Machine.execAndn d a b s
  | .shl d a b => Sys2Proof.Machine.execShl d a b s
  | .shr d a b => Sys2Proof.Machine.execShr d a b s
  | .sra d a b => Sys2Proof.Machine.execSra d a b s
  | .min d a b => Sys2Proof.Machine.execMin d a b s
  | .max d a b => Sys2Proof.Machine.execMax d a b s
  | .minn d a b => Sys2Proof.Machine.execMinn d a b s
  | .maxn d a b => Sys2Proof.Machine.execMaxn d a b s
  | .clz d a => Sys2Proof.Machine.execClz d a s
  | .ctz d a => Sys2Proof.Machine.execCtz d a s
  | .popc d a => Sys2Proof.Machine.execPopc d a s
  | .sext d a b => Sys2Proof.Machine.execSext d a b s
  | .zext d a b => Sys2Proof.Machine.execZext d a b s
  | .setc c d a b => Sys2Proof.Machine.execSetc c d a b s
  | .csel d a b c => Sys2Proof.Machine.execCsel d a b c s
  | .addI d a imm => Sys2Proof.Machine.execAddI d a imm s
  | .subI d a imm => Sys2Proof.Machine.execSubI d a imm s
  | .mulI d a imm => Sys2Proof.Machine.execMulI d a imm s
  | .mulhI d a imm => Sys2Proof.Machine.execMulhI d a imm s
  | .mulhnI d a imm => Sys2Proof.Machine.execMulhnI d a imm s
  | .divI d a imm => Sys2Proof.Machine.execDivI d a imm s
  | .divnI d a imm => Sys2Proof.Machine.execDivnI d a imm s
  | .remI d a imm => Sys2Proof.Machine.execRemI d a imm s
  | .remnI d a imm => Sys2Proof.Machine.execRemnI d a imm s
  | .andI d a imm => Sys2Proof.Machine.execAndI d a imm s
  | .orI d a imm => Sys2Proof.Machine.execOrI d a imm s
  | .xorI d a imm => Sys2Proof.Machine.execXorI d a imm s
  | .andnI d a imm => Sys2Proof.Machine.execAndnI d a imm s
  | .shlI d a imm => Sys2Proof.Machine.execShlI d a imm s
  | .shrI d a imm => Sys2Proof.Machine.execShrI d a imm s
  | .sraI d a imm => Sys2Proof.Machine.execSraI d a imm s
  | .minI d a imm => Sys2Proof.Machine.execMinI d a imm s
  | .maxI d a imm => Sys2Proof.Machine.execMaxI d a imm s
  | .minnI d a imm => Sys2Proof.Machine.execMinnI d a imm s
  | .maxnI d a imm => Sys2Proof.Machine.execMaxnI d a imm s
  | .sextI d a imm => Sys2Proof.Machine.execSextI d a imm s
  | .zextI d a imm => Sys2Proof.Machine.execZextI d a imm s
  | .setcI c d a imm => Sys2Proof.Machine.execSetcI c d a imm s
  | .li d imm => Sys2Proof.Machine.execLi d imm s
  | .lih d a imm => Sys2Proof.Machine.execLih d a imm s
  | .addpc d imm => Sys2Proof.Machine.execAddpc d imm s
  | .fadd t d a b => Sys2Proof.Machine.execFadd t d a b s
  | .fsub t d a b => Sys2Proof.Machine.execFsub t d a b s
  | .fmul t d a b => Sys2Proof.Machine.execFmul t d a b s
  | .fma t d a b c => Sys2Proof.Machine.execFma t d a b c s
  | .fdiv t d a b => Sys2Proof.Machine.execFdiv t d a b s
  | .fsqrt t d a => Sys2Proof.Machine.execFsqrt t d a s
  | .fmin t d a b => Sys2Proof.Machine.execFmin t d a b s
  | .fmax t d a b => Sys2Proof.Machine.execFmax t d a b s
  | .fcmp c t d a b => Sys2Proof.Machine.execFcmp c t d a b s
  | .fcvt td ts rm ov d a => Sys2Proof.Machine.execFcvt td ts rm ov d a s
  | .bc c a b off => Sys2Proof.Machine.execBc c a b off s
  | .j off => Sys2Proof.Machine.execJ off s
  | .jl d off => Sys2Proof.Machine.execJl d off s
  | .jr d a off => Sys2Proof.Machine.execJr d a off s
  | .gate imm => Sys2Proof.Machine.execGate imm s
  | .gret => Sys2Proof.Machine.execGret s
  | .ld t d a off m => Sys2Proof.Machine.execLd t d a off m s
  | .st t d a off m => Sys2Proof.Machine.execSt t d a off m s
  | .amo o t d a off m => Sys2Proof.Machine.execAmo o t d a off m s
  | .cas t d a b off m => Sys2Proof.Machine.execCas t d a b off m s
  | .fence m => Sys2Proof.Machine.execFence m s
  | .vfence sr n => Sys2Proof.Machine.execVfence sr n s
  | .tlwait a n imm => Sys2Proof.Machine.execTlwait a n imm s
  | .tlrd d n => Sys2Proof.Machine.execTlrd d n s
  | .tladv a n imm scope => Sys2Proof.Machine.execTladv a n imm scope s
  | .vblk a b k n => Sys2Proof.Machine.execVblk a b k n s
  | .vrpl d k => Sys2Proof.Machine.execVrpl d k s
  | .vjoin k => Sys2Proof.Machine.execVjoin k s
  | .lpart n => Sys2Proof.Machine.execLpart n s
  | .bar => Sys2Proof.Machine.execBar s
  | .barSeal => Sys2Proof.Machine.execBarSeal s
  | .wfe a => Sys2Proof.Machine.execWfe a s
  | .yield => Sys2Proof.Machine.execYield s
  | .sysrd d k num => Sys2Proof.Machine.execSysrd d k num s
  | .syswr a k num => Sys2Proof.Machine.execSyswr a k num s
  | .trap imm => Sys2Proof.Machine.execTrap imm s
  | .eret => Sys2Proof.Machine.execEret s
  | .endTask => Sys2Proof.Machine.execEndTask s
  | .tlbinvPg a b => Sys2Proof.Machine.execTlbinvPg a b s
  | .tlbinvAs b => Sys2Proof.Machine.execTlbinvAs b s
  | .tlbinvAll => Sys2Proof.Machine.execTlbinvAll s
  | .nop => Sys2Proof.Machine.execNop s
  | .brk => Sys2Proof.Machine.execBrk s
  | .shset a b => Sys2Proof.Machine.execShset a b s
  | .shgen d a b => Sys2Proof.Machine.execShgen d a b s
  | .dualWord sa sb => Sys2Proof.Machine.execDualWord sa sb s
  | .vsetvl d a => Sys2Proof.Machine.execVsetvl d a s
  | .vsett r a image => Sys2Proof.Machine.execVsett r a image s
  | .vadd x => Sys2Proof.Machine.execVadd x s
  | .vsub x => Sys2Proof.Machine.execVsub x s
  | .vmul x => Sys2Proof.Machine.execVmul x s
  | .vmulh x => Sys2Proof.Machine.execVmulh x s
  | .vmac x => Sys2Proof.Machine.execVmac x s
  | .vmin x => Sys2Proof.Machine.execVmin x s
  | .vmax x => Sys2Proof.Machine.execVmax x s
  | .vand x => Sys2Proof.Machine.execVand x s
  | .vor x => Sys2Proof.Machine.execVor x s
  | .vxor x => Sys2Proof.Machine.execVxor x s
  | .vshl x => Sys2Proof.Machine.execVshl x s
  | .vshr x => Sys2Proof.Machine.execVshr x s
  | .vsra x => Sys2Proof.Machine.execVsra x s
  | .vabs x => Sys2Proof.Machine.execVabs x s
  | .vsadd sub x => Sys2Proof.Machine.execVsadd sub x s
  | .vcmp c x => Sys2Proof.Machine.execVcmp c x s
  | .vsel x => Sys2Proof.Machine.execVsel x s
  | .vwmul t2 x => Sys2Proof.Machine.execVwmul t2 x s
  | .vwmac t2 x => Sys2Proof.Machine.execVwmac t2 x s
  | .vmv x => Sys2Proof.Machine.execVmv x s
  | .vfadd x => Sys2Proof.Machine.execVfadd x s
  | .vfsub x => Sys2Proof.Machine.execVfsub x s
  | .vfmul x => Sys2Proof.Machine.execVfmul x s
  | .vfma x c => Sys2Proof.Machine.execVfma x c s
  | .vfmin x => Sys2Proof.Machine.execVfmin x s
  | .vfmax x => Sys2Proof.Machine.execVfmax x s
  | .vfdiv x => Sys2Proof.Machine.execVfdiv x s
  | .vfsqrt x => Sys2Proof.Machine.execVfsqrt x s
  | .vfrsq x => Sys2Proof.Machine.execVfrsq x s
  | .vfexp2 x => Sys2Proof.Machine.execVfexp2 x s
  | .vflog2 x => Sys2Proof.Machine.execVflog2 x s
  | .vfcmp c x => Sys2Proof.Machine.execVfcmp c x s
  | .vfcls x => Sys2Proof.Machine.execVfcls x s
  | .vcvt td rm ov x => Sys2Proof.Machine.execVcvt td rm ov x s
  | .vbq tq sv x => Sys2Proof.Machine.execVbq tq sv x s
  | .vbdq tq sv x => Sys2Proof.Machine.execVbdq tq sv x s
  | .ve8q ts sv cnt n x => Sys2Proof.Machine.execVe8q ts sv cnt n x s
  | .ve8d td sv x => Sys2Proof.Machine.execVe8d td sv x s
  | .vscac pf d p a b => Sys2Proof.Machine.execVscac pf d p a b s
  | .vpack tn x => Sys2Proof.Machine.execVpack tn x s
  | .vunpk tn x => Sys2Proof.Machine.execVunpk tn x s
  | .vrsum x => Sys2Proof.Machine.execVrsum x s
  | .vrmax x => Sys2Proof.Machine.execVrmax x s
  | .vrmin x => Sys2Proof.Machine.execVrmin x s
  | .vsldu im imm b x => Sys2Proof.Machine.execVsldu im imm b x s
  | .vsldd im imm b x => Sys2Proof.Machine.execVsldd im imm b x s
  | .vprm b x => Sys2Proof.Machine.execVprm b x s
  | .viota x => Sys2Proof.Machine.execViota x s
  | .mpop d a q => Sys2Proof.Machine.execMpop d a q s
  | .mfst d a q => Sys2Proof.Machine.execMfst d a q s
  | .mlog o d a b => Sys2Proof.Machine.execMlog o d a b s
  | .vargmx new d a b q => Sys2Proof.Machine.execVargmx new d a b q s
  | .vtopk new k d a b q => Sys2Proof.Machine.execVtopk new k d a b q s
  | .vsort desc idx c x => Sys2Proof.Machine.execVsort desc idx c x s
  | .vsrch le b x => Sys2Proof.Machine.execVsrch le b x s
  | .vld x off m => Sys2Proof.Machine.execVld x off m s
  | .vldC x off => Sys2Proof.Machine.execVldC x off s
  | .vlds b x off m => Sys2Proof.Machine.execVlds b x off m s
  | .vldx b x m => Sys2Proof.Machine.execVldx b x m s
  | .vst x off m => Sys2Proof.Machine.execVst x off m s
  | .vsts b x off m => Sys2Proof.Machine.execVsts b x off m s
  | .vstx b x m => Sys2Proof.Machine.execVstx b x m s
  | .vlsh b x m => Sys2Proof.Machine.execVlsh b x m s
  | .vssh b x m => Sys2Proof.Machine.execVssh b x m s
  | .vamo o b x m => Sys2Proof.Machine.execVamo o b x m s
  | .vldm d a off => Sys2Proof.Machine.execVldm d a off s
  | .vstm d a off => Sys2Proof.Machine.execVstm d a off s
  | .vcprs x => Sys2Proof.Machine.execVcprs x s
  | .vexpd x => Sys2Proof.Machine.execVexpd x s
  | .vmvh im d a b ty => Sys2Proof.Machine.execVmvh im d a b ty s
  | .loop lp im a imm off => Sys2Proof.Machine.execLoop lp im a imm off s
  | .sloop lp a b sv w off => Sys2Proof.Machine.execSloop lp a b sv w off s
  | .lpbrk lp u a => Sys2Proof.Machine.execLpbrk lp u a s
  | .vrpt a => Sys2Proof.Machine.execVrpt a s
  | .vend => Sys2Proof.Machine.execVend s
  | .vbars m => Sys2Proof.Machine.execVbars m s
  | .mcfg a b => Sys2Proof.Machine.execMcfg a b s
  | .mma x => Sys2Proof.Machine.execMma x s
  | .mdrn x => Sys2Proof.Machine.execMdrn x s
  | .mzro d sn sm t tl => Sys2Proof.Machine.execMzro d sn sm t tl s
  | .mrpg => Sys2Proof.Machine.execMrpg s
  | .wcpy a tl => Sys2Proof.Machine.execWcpy a tl s
  | .wgth a tl => Sys2Proof.Machine.execWgth a tl s
  | .wsct a tl => Sys2Proof.Machine.execWsct a tl s
  | .wfil a tl => Sys2Proof.Machine.execWfil a tl s
  | .wxfm a tl => Sys2Proof.Machine.execWxfm a tl s
  | .wapr a => Sys2Proof.Machine.execWapr a s
  | .sxini n a m off => Sys2Proof.Machine.execSxini n a m off s
  | .sxupd n a q c f ty cell => Sys2Proof.Machine.execSxupd n a q c f ty cell s
  | .sxmrg n a m off => Sys2Proof.Machine.execSxmrg n a m off s
  | .sxqry d n b rg kind cell => Sys2Proof.Machine.execSxqry d n b rg kind cell s
  | .sxld n a off => Sys2Proof.Machine.execSxld n a off s
  | .sxst n a off => Sys2Proof.Machine.execSxst n a off s
  | .sxstMrg n a off => Sys2Proof.Machine.execSxstMrg n a off s
  | .sxclr n => Sys2Proof.Machine.execSxclr n s
  | .sxtyp d n => Sys2Proof.Machine.execSxtyp d n s
  | .plan d a => Sys2Proof.Machine.execPlan d a s
  | .plfree a => Sys2Proof.Machine.execPlfree a s
  | .crdy a b => Sys2Proof.Machine.execCrdy a b s
  | .cfire a => Sys2Proof.Machine.execCfire a s
  | .mldr d a b c o dt st1 ne => Sys2Proof.Machine.execMldr d a b c o dt st1 ne s
  | .mstb a b c t tle tl ne => Sys2Proof.Machine.execMstb a b c t tle tl ne s
  | .agset d a => Sys2Proof.Machine.execAgset d a s
  | .agsetSh d a => Sys2Proof.Machine.execAgsetSh d a s
  | .deferredFault uid r => Sys2Proof.Machine.execDeferredFault uid r s
  | .asIntr p => Sys2Proof.Machine.execAsIntr p s
  | .faultRecord p => Sys2Proof.Machine.execFaultRecord p s
  | .blockFetch uid k => Sys2Proof.Machine.execBlockFetch uid k s
  | .barEpisode passId => Sys2Proof.Machine.execBarEpisode passId s
  | .vbarsEpisode uid m => Sys2Proof.Machine.execVbarsEpisode uid m s
  | .wfeTimeout uid r => Sys2Proof.Machine.execWfeTimeout uid r s
  | .thresherAtomic stack => Sys2Proof.Machine.execThresherAtomic stack s
  | .thresherMerge stack => Sys2Proof.Machine.execThresherMerge stack s
  | .mmaKblock uid r => Sys2Proof.Machine.execMmaKblock uid r s
  | .rowGroupStart uid r => Sys2Proof.Machine.execRowGroupStart uid r s
  | .mmaComplete uid r => Sys2Proof.Machine.execMmaComplete uid r s
  | .mdrnRow uid r => Sys2Proof.Machine.execMdrnRow uid r s
  | .mdrnComplete uid r => Sys2Proof.Machine.execMdrnComplete uid r s
  | .mzroPerform uid r => Sys2Proof.Machine.execMzroPerform uid r s
  | .wainRun core seq => Sys2Proof.Machine.execWainRun core seq s
  | .gatherBatch core seq => Sys2Proof.Machine.execGatherBatch core seq s
  | .wainComplete core seq => Sys2Proof.Machine.execWainComplete core seq s
  | .granuleCommit uid k => Sys2Proof.Machine.execGranuleCommit uid k s
  | .routineStart core => Sys2Proof.Machine.execRoutineStart core s
  | .kvq core => Sys2Proof.Machine.execKvq core s
  | .roundStart p h tile => Sys2Proof.Machine.execRoundStart p h tile s
  | .sendStep p h tile => Sys2Proof.Machine.execSendStep p h tile s
  | .foldStep p h tile => Sys2Proof.Machine.execFoldStep p h tile s
  | .putStep p h tile => Sys2Proof.Machine.execPutStep p h tile s
  | .launchCheck p seq => Sys2Proof.Machine.execLaunchCheck p seq s
  | .passPlace p => Sys2Proof.Machine.execPassPlace p s
  | .passResume p => Sys2Proof.Machine.execPassResume p s
  | .preempt p => Sys2Proof.Machine.execPreempt p s
  | .completionRecord p seq => Sys2Proof.Machine.execCompletionRecord p seq s
  | .blockedTimeout core => Sys2Proof.Machine.execBlockedTimeout core s
  | .quantumExpiry core => Sys2Proof.Machine.execQuantumExpiry core s
  | .budgetOverrun uid r => Sys2Proof.Machine.execBudgetOverrun uid r s
  | .dispResume uid => Sys2Proof.Machine.execDispResume uid s
  | .dispRestart uid => Sys2Proof.Machine.execDispRestart uid s
  | .dispEnd uid => Sys2Proof.Machine.execDispEnd uid s
  | .shardHoldTimeout p tag => Sys2Proof.Machine.execShardHoldTimeout p tag s
  | .frameSend port q => Sys2Proof.Machine.execFrameSend port q s
  | .timelineAdvance uid n k => Sys2Proof.Machine.execTimelineAdvance uid n k s
  | .remoteReply tag st1 data => Sys2Proof.Machine.execRemoteReply tag st1 data s
  | .remoteAck tag visible => Sys2Proof.Machine.execRemoteAck tag visible s
  | .remoteStoreFailure tag st1 => Sys2Proof.Machine.execRemoteStoreFailure tag st1 s
  | .fabricFill tag st1 data => Sys2Proof.Machine.execFabricFill tag st1 data s
  | .homeRequest q => Sys2Proof.Machine.execHomeRequest q s
  | .viewTileBuild uid slot ti tj => Sys2Proof.Machine.execViewTileBuild uid slot ti tj s
  | .contributionArrival p src tag planId addr data => Sys2Proof.Machine.execContributionArrival p src tag planId addr data s
  | .tileFinal p src tag q addr data => Sys2Proof.Machine.execTileFinal p src tag q addr data s
  | .planFailure p h sub => Sys2Proof.Machine.execPlanFailure p h sub s
  | .planSignature p src planId rank sig offer => Sys2Proof.Machine.execPlanSignature p src planId rank sig offer s
  | .mstbArrival p peer rpart tag addr data tle tl member => Sys2Proof.Machine.execMstbArrival p peer rpart tag addr data tle tl member s
  | .memberRead p peer rpart tag addr n => Sys2Proof.Machine.execMemberRead p peer rpart tag addr n s
  | .shardRequest p q => Sys2Proof.Machine.execShardRequest p q s
  | .shardStaleReplay tag desc => Sys2Proof.Machine.execShardStaleReplay tag desc s
  | .shgenInstall p handle desc peer tag => Sys2Proof.Machine.execShgenInstall p handle desc peer tag s
  | .launchDmwr p lr => Sys2Proof.Machine.execLaunchDmwr p lr s
  | .preload core => Sys2Proof.Machine.execPreload core s
  | .contextSpill core => Sys2Proof.Machine.execContextSpill core s
  | .loftSpill core => Sys2Proof.Machine.execLoftSpill core s
  | .quiesceSet p w => Sys2Proof.Machine.execQuiesceSet p w s
  | .quiesceClear p w => Sys2Proof.Machine.execQuiesceClear p w s
  | .dropq p => Sys2Proof.Machine.execDropq p s
  | .pccancel p id => Sys2Proof.Machine.execPccancel p id s
  | .triggerDoorbell p w => Sys2Proof.Machine.execTriggerDoorbell p w s
  | .registerWrite who bar off w => Sys2Proof.Machine.execRegisterWrite who bar off w s
  | .coldStart force => Sys2Proof.Machine.execColdStart force s
  | .warmStart force => Sys2Proof.Machine.execWarmStart force s
  | .liveUpdate ctl => Sys2Proof.Machine.execLiveUpdate ctl s
  | .createPartition p => Sys2Proof.Machine.execCreatePartition p s
  | .removePartition p => Sys2Proof.Machine.execRemovePartition p s
  | .setPowerLimit => Sys2Proof.Machine.execSetPowerLimit s
  | .setDomain force => Sys2Proof.Machine.execSetDomain force s
  | .sendDoorbell port q w => Sys2Proof.Machine.execSendDoorbell port q w s
  | .receiveDoorbell port q w => Sys2Proof.Machine.execReceiveDoorbell port q w s
  | .ringEnable port q recv w => Sys2Proof.Machine.execRingEnable port q recv w s
  | .ringDisable port q recv w => Sys2Proof.Machine.execRingDisable port q recv w s
  | .frameReceive port q header payload fcsOk => Sys2Proof.Machine.execFrameReceive port q header payload fcsOk s
  | .flitReceive port fecOk hdr payload integrity => Sys2Proof.Machine.execFlitReceive port fecOk hdr payload integrity s
  | .flitResend port => Sys2Proof.Machine.execFlitResend port s
  | .counterWrap port slot => Sys2Proof.Machine.execCounterWrap port slot s
  | .signalDetect port => Sys2Proof.Machine.execSignalDetect port s
  | .lossOfSignal port => Sys2Proof.Machine.execLossOfSignal port s
  | .equaliseDone port width speed lanes => Sys2Proof.Machine.execEqualiseDone port width speed lanes s
  | .confirmRecord port r => Sys2Proof.Machine.execConfirmRecord port r s
  | .disputeReset port => Sys2Proof.Machine.execDisputeReset port s
  | .rootRetrain port => Sys2Proof.Machine.execRootRetrain port s
  | .portEnable port => Sys2Proof.Machine.execPortEnable port s
  | .laneRetire port lane => Sys2Proof.Machine.execLaneRetire port lane s
  | .portLoss port => Sys2Proof.Machine.execPortLoss port s
  | .powerInterval die temp => Sys2Proof.Machine.execPowerInterval die temp s
  | .powerShare aside demand pkgAvg => Sys2Proof.Machine.execPowerShare aside demand pkgAvg s
  | .criticalTrip die => Sys2Proof.Machine.execCriticalTrip die s
  | .hbmThermal stack temp => Sys2Proof.Machine.execHbmThermal stack temp s
  | .patrolScrub stack row => Sys2Proof.Machine.execPatrolScrub stack row s
  | .rowSpare stack row => Sys2Proof.Machine.execRowSpare stack row s
  | .coreRetire core => Sys2Proof.Machine.execCoreRetire core s
  | .hbmRecalibrate stack channel => Sys2Proof.Machine.execHbmRecalibrate stack channel s
  | .idleEntry elapsed => Sys2Proof.Machine.execIdleEntry elapsed s
  | .idleWake => Sys2Proof.Machine.execIdleWake s
  | .getMeasurements q => Sys2Proof.Machine.execGetMeasurements q s
  | .enclaveRecord p data news => Sys2Proof.Machine.execEnclaveRecord p data news s
  | .revocationRecord r => Sys2Proof.Machine.execRevocationRecord r s
  | .startCompletion ok => Sys2Proof.Machine.execStartCompletion ok s
  | .updateCompletion => Sys2Proof.Machine.execUpdateCompletion s
  | .packagePowerLoss => Sys2Proof.Machine.execPackagePowerLoss s
  | .cxlPortDown port up => Sys2Proof.Machine.execCxlPortDown port up s
  | .secureSession partner point => Sys2Proof.Machine.execSecureSession partner point s

end Sys2Proof.Machine
end

