-- ==== Sys2Proof/Machine/Occur.lean ====
section
/-!
DEFINITION. Occurrences that a schedule may hold (log 23): errors in memories and registers (R34, R317), failed residue checks and their replay
(R35), and the host's reads (R98, R100).
-/
namespace Sys2Proof.Machine

/-- A unit has its state on the die. -/
def State.present (s : State) (uid : Nat) : Bool := (s.unitOf uid).live && (s.unitOf uid).place != .over
/-- Poison a word of a register (R317): of `g`, `h`, a routine's registers, `v`, `m`, or a statex register. -/
def State.poisonReg (s : State) (uid : Nat) (who : Who) (file : RegFile) (r w : Nat) : State :=
  match who, file with
  | .reeve q, .scalar => s.modUnit uid (fun u => u.modReeve q (fun x => { x with gPoison := KMap.set false x.gPoison (r % 64) true }))
  | .sheaf k, .scalar => s.modUnit uid (fun u => u.modSheaf k (fun x => { x with hPoison := KMap.set false x.hPoison (r % 16) true }))
  | .sheaf k, .vector => s.modUnit uid (fun u => u.modSheaf k (fun x => { x with vPoison := KMap.set false x.vPoison (256 * (r % 64) + w % 256) true }))
  | .sheaf k, .mask => s.modUnit uid (fun u => u.modSheaf k (fun x => { x with mPoison := KMap.set false x.mPoison (1024 * (r % 8) + w % 1024) true }))
  | .wain c, .scalar => s.modRt c (fun x => { x with gPoison := KMap.set false x.gPoison (r % 64) true })
  | .wain c, .vector => s.modRt c (fun x => { x with vec := { x.vec with vPoison := KMap.set false x.vec.vPoison (256 * (r % 64) + w % 256) true } })
  | .wain c, .mask => s.modRt c (fun x => { x with vec := { x.vec with mPoison := KMap.set false x.vec.mPoison (1024 * (r % 8) + w % 1024) true } })
  | _, .statex => s.modUnit uid (fun u => { u with sxPoison := KMap.set false u.sxPoison (r % 32) true })
  | .reeve _, _ => s
/-- An error in the wain core's registers concerns a routine, any other a unit. -/
def State.regThere (s : State) (uid : Nat) (who : Who) : Bool :=
  match who with
  | .wain c => (s.coreOf c).routine.isSome
  | _ => s.present uid
/-- Root firmware marks a core for retirement (R35). -/
def State.markCore (s : State) (c : Nat) : State := s.modCore c (fun x => { x with marked := true })
/-- Does an agent execute now, and wait for nothing? -/
def State.issuing (s : State) (uid : Nat) (who : Who) : Bool :=
  let u := s.unitOf uid
  u.live && u.place == .running &&
  match who with
  | .reeve r => decide (r < u.rv) && (u.reeveOf r).started && !(u.reeveOf r).ended && (u.reeveOf r).wait.isNone
  | .sheaf k => decide (k < u.nSheaves) && (u.sheafOf k).busy && !(u.sheafOf k).stopped && (u.sheafOf k).wait.isNone
  | .wain _ => false
/-- What an occurrence does. -/
def State.occur (s : State) (o : Occurrence) : State :=
  match o with
  | .line false n => if 64 * n < hbmBytes then { s with hbmPoison := KMap.set false s.hbmPoison n true }.count tmUncorrected else s
  | .line true n => { s with cxlPoison := KMap.set false s.cxlPoison n true }.count tmUncorrected
  | .loftWord uid w =>
    if s.present uid && (s.unitOf uid).loftResident && decide (8 * w < (s.unitOf uid).loftSize) then
      (s.modUnit uid (fun u => { u with loftPoison := KMap.set false u.loftPoison w true })).count tmUncorrected
    else s
  | .blockWord uid k w =>
    if s.present uid && decide (w < ((s.unitOf uid).sheafOf k).block.length) then
      (s.modUnit uid (fun u => u.modSheaf k (fun x => { x with blockPoison := KMap.set false x.blockPoison w true }))).count tmUncorrected
    else s
  | .register uid who file r w => if s.regThere uid who then (s.poisonReg uid who file r w).count tmDeferred else s
  | .shadow c =>
    match (s.coreOf c).shadow with
    | [] => s
    | l => (l.foldl (fun s uid => s.modUnit uid (fun u => { u with ctxBad := 2 })) s).count tmUncorrected
  | .corrected => s.count tmCorrected
  | .replay uid who ok =>
    if !s.issuing uid who then s
    else if ok then s.count tmReplay
    else
      let s1 : State := { (s.count tmReplay).markCore (s.unitOf uid).core with uid := uid, who := who, eng := none }
      (s1.takeTrap (tr cMCHK 3 0)).back s
  | .blockReplay uid r ok =>
    match s.matReady uid r .mma with
    | none => s
    | some e =>
      if ok then s.count tmReplay
      else ((s.count tmReplay).markCore (s.unitOf uid).core).faultEntry uid r e (tr cMCHK 3 0)
  | .hostRead bar off => s.hostRead bar off

end Sys2Proof.Machine
end

