-- ==== Sys2Proof/Machine/Turns.lean ====
section
/-!
DEFINITION. Turns: which agent moves next when the schedule names none (R145, log 3), which event falls due by itself, and how a device write is
performed (R181).
-/
namespace Sys2Proof.Machine

/-! ### Agents -/

/-- The agents of a running unit that may execute, reeves first. -/
def Unit.agents (u : Unit) : List Who :=
  if !u.live || u.place != .running then []
  else
    ((List.range u.rv).filter (fun r => (u.reeveOf r).started && !(u.reeveOf r).ended)).map .reeve ++
    ((List.range u.nSheaves).filter (fun k => (u.sheafOf k).busy && !(u.sheafOf k).stopped)).map .sheaf
/-- Does a unit stall, since a record of it waits for space in the queue (R315)? -/
def State.stalled (s : State) (uid : Nat) : Bool := s.parts.any (fun p => p.2.faults.any (fun f => f.uid == uid && f.passId != 0))
/-- Every agent that may execute now, in a fixed order: units by handle, then wain cores whose routine is not faulted. -/
def State.agents (s : State) : List (Nat × Who) :=
  s.units.flatMap (fun p => if s.stalled p.1 then [] else p.2.agents.map (fun w => (p.1, w))) ++
  s.cores.filterMap (fun p =>
    match p.2.routine with
    | some r =>
      if p.2.wq.any (fun w => w.seq == r.seq && w.fault.isSome) then none else some (r.uid, .wain p.1)
    | none => none)
/-- An agent's place in the round: units by handle, reeves before sheaves; then wain cores by number. -/
def agentKey (a : Nat × Who) : Nat × Nat :=
  match a.2 with
  | .reeve r => (a.1, r)
  | .sheaf k => (a.1, 2 + k)
  | .wain c => (2 ^ 64, c)
/-- The agent after `cur` in a list in that order, wrapping round; `cur` itself may have left it. -/
def nextAgent (cur : Nat × Who) (l : List (Nat × Who)) : Option (Nat × Who) :=
  match l.find? (fun x => pairLt (agentKey cur) (agentKey x)) with
  | some x => some x
  | none => l.head?
/-- The next agent in turn (R145: round-robin). -/
def State.pick (s : State) : Option (Nat × Who) := nextAgent (s.uid, s.who) s.agents
/-- Make an agent the executing one. A PLACED pass is RUNNING from its first instruction on (R141). -/
def State.setAgent (s : State) (a : Nat × Who) : State :=
  let s1 : State := { s with uid := a.1, who := a.2 }
  match s1.passOf s1.cu with
  | some x => if x.st == .placed then s1.modPass s1.cu.part x.seq (fun y => { y with st := .running }) else s1
  | none => s1
/-- Perform one device write. -/
def doDevice (s : State) (w : DevWrite) : State := s.deviceWrite w

/-- The reeve of whose task an agent is (R147). -/
def State.taskReeve (s : State) (uid : Nat) (who : Who) : Option Nat :=
  match who with
  | .reeve r => some r
  | .sheaf k => some ((s.unitOf uid).owner k)
  | .wain _ => none

/-! ### What is due -/

/-- Does an event change the state, apart from cached table entries and the count of free values? One that only waits is not due. -/
def moves (f : State → Host.Outcome State Fault Refusal) (s : State) : Bool :=
  match f s with
  | .next t => decide ({ t with tlb := s.tlb, ptrs := s.ptrs, fresh := s.fresh } ≠ s)
  | _ => false
/-- The event, when it moves. -/
def ifMoves (s : State) (i : Instr) (f : State → Host.Outcome State Fault Refusal) : Option Instr := if moves f s then some i else none
/-- The first that answers of a list of cases. -/
def firstOf : List (PUnit.{1} → Option Instr) → Option Instr
  | [] => none
  | f :: t => match f ⟨⟩ with
    | some i => some i
    | none => firstOf t
/-- Events of traps and records (R315, R257, R286). -/
def State.dueTrap (s : State) : Option Instr :=
  firstOf [
    fun _ => s.parts.findSome? (fun p => if !p.2.faults.isEmpty && s.recordFits p.1 then some (.faultRecord p.1) else none),
    fun _ => s.units.findSome? (fun u => (List.range u.2.rv).findSome? (fun r => if s.faultDue u.1 r || (s.endedFault u.1 r).isSome then some (.deferredFault u.1 r) else none))]
/-- A merge conflict whose task cannot take its trap now. -/
def State.sealStuck (s : State) (p : Nat) (x : Pass) : Bool :=
  s.sealEpisode x p && (match s.sealConflict (s.tasksOf p (passIdOf p x.seq)) with
    | none => false
    | some c => !((s.unitOf c.t2.2.1).reeveOf c.t2.2.2).ended && (s.unitOf c.t2.2.1).place != .running)
/-- Events of blocks, barriers, waits and budgets (R160, R365, R426, R366, R147). -/
def State.dueUnit (s : State) : Option Instr :=
  firstOf [
    fun _ => s.units.findSome? (fun u => (List.range u.2.nSheaves).findSome? (fun k =>
      if s.blockDue u.1 k && !((u.2.sheafOf k).wait == some .remote && s.reqOut u.1 (u.2.owner k)) then some (.blockFetch u.1 k) else none)),
    fun _ => s.parts.findSome? (fun p => p.2.passes.findSome? (fun x =>
      if s.episodeDue x p.1 && !s.sealStuck p.1 x then some (.barEpisode (passIdOf p.1 x.seq)) else none)),
    fun _ => s.units.findSome? (fun u => (List.range 8).findSome? (fun k =>
      match (u.2.sheafOf k).vbarsAt with
      | some (m, _) => if u.2.live && (u.2.vbarsDue m).isSome then some (.vbarsEpisode u.1 (BitVec.ofNat 8 m)) else none
      | none => none)),
    fun _ => s.units.findSome? (fun u => (List.range u.2.rv).findSome? (fun r =>
      if u.2.live && (u.2.reeveOf r).wait == some .wfe && (u.2.reeveOf r).wfeLeft == some 0 then some (.wfeTimeout u.1 r) else none)),
    fun _ => s.units.findSome? (fun u => (List.range u.2.rv).findSome? (fun r => if s.overrun u.1 r then some (.budgetOverrun u.1 r) else none))]
/-- Events of threshers and matrix queues (R73, R247-R257). -/
def State.dueEngine (s : State) : Option Instr :=
  firstOf [
    fun _ => s.thresher.findSome? (fun q => match q.2 with
      | .merge .. :: _ => some (.thresherMerge q.1)
      | _ :: _ => some (.thresherAtomic q.1)
      | [] => none),
    fun _ => s.units.findSome? (fun u => if !u.2.live || u.2.mq.isEmpty then none else (List.range u.2.rv).findSome? (fun r =>
      firstOf [
        fun _ => ifMoves s (.rowGroupStart u.1 r) (execRowGroupStart u.1 r),
        fun _ => ifMoves s (.mmaComplete u.1 r) (execMmaComplete u.1 r),
        fun _ => ifMoves s (.mmaKblock u.1 r) (execMmaKblock u.1 r),
        fun _ => ifMoves s (.mdrnComplete u.1 r) (execMdrnComplete u.1 r),
        fun _ => ifMoves s (.mdrnRow u.1 r) (execMdrnRow u.1 r),
        fun _ => ifMoves s (.mzroPerform u.1 r) (execMzroPerform u.1 r)]))]
/-- Events of wains and streams (R282-R298, R168). -/
def State.dueWain (s : State) : Option Instr :=
  firstOf [
    fun _ => s.units.findSome? (fun u => (List.range u.2.streams.length).findSome? (fun k => ifMoves s (.granuleCommit u.1 k) (execGranuleCommit u.1 k))),
    fun _ => s.cores.findSome? (fun c => if c.2.wq.isEmpty then none else
      firstOf [
        fun _ => c.2.wq.findSome? (fun w => ifMoves s (.wainComplete c.1 w.seq) (execWainComplete c.1 w.seq)),
        fun _ => c.2.wq.findSome? (fun w => ifMoves s (.gatherBatch c.1 w.seq) (execGatherBatch c.1 w.seq)),
        fun _ => c.2.wq.findSome? (fun w => ifMoves s (.wainRun c.1 w.seq) (execWainRun c.1 w.seq)),
        fun _ => ifMoves s (.routineStart c.1) (execRoutineStart c.1),
        fun _ => ifMoves s (.kvq c.1) (execKvq c.1)])]
/-- Steps of collective plans (R81, R82). -/
def State.duePlan (s : State) : Option Instr :=
  s.plans.findSome? (fun x => x.tiles.findSome? (fun t =>
    firstOf [
      fun _ => ifMoves s (.roundStart x.part x.handle t.1) (execRoundStart x.part x.handle t.1),
      fun _ => ifMoves s (.sendStep x.part x.handle t.1) (execSendStep x.part x.handle t.1),
      fun _ => ifMoves s (.foldStep x.part x.handle t.1) (execFoldStep x.part x.handle t.1),
      fun _ => ifMoves s (.putStep x.part x.handle t.1) (execPutStep x.part x.handle t.1)]))
/-- The dispatcher's events (R103, R107, R138-R149), then AS_INTR, which a pre-emption goes before (R311, R322). -/
def State.dueDispatcher (s : State) : Option Instr :=
  firstOf [
    fun _ => s.units.findSome? (fun u => match s.disposition u.1 with
      | some 1 => some (.dispResume u.1)
      | some 2 => if (s.passOf u.2).isSome then some (.dispRestart u.1) else none
      | some 3 => some (.dispEnd u.1)
      | _ => none),
    fun _ => s.parts.findSome? (fun p => p.2.passes.findSome? (fun x =>
      if (s.allTasksEnded p.1 x && s.workDone p.1 x) || s.recordReady p.1 x then some (.completionRecord p.1 x.seq) else none)),
    fun _ => s.parts.findSome? (fun p => p.2.passes.findSome? (fun x => if x.st == .queued then some (.launchCheck p.1 x.seq) else none)),
    fun _ => s.parts.findSome? (fun p => match s.nextPass p.1 with
      | some x => if x.st == .parked then some (.passResume p.1) else some (.passPlace p.1)
      | none => none),
    fun _ => s.parts.findSome? (fun p => match s.lacksSlots p.1 with
      | some x => if (s.victim p.1 (lrPrio x.lrec)).isSome then some (.preempt p.1) else none
      | none => none),
    fun _ => s.cores.findSome? (fun c => match s.contended c.1 with
      | some u => if (s.unitOf u).allBlocked then some (.blockedTimeout c.1) else if 2 ^ 20 ≤ c.2.turn then some (.quantumExpiry c.1) else none
      | none => none),
    fun _ => s.cores.findSome? (fun c => if (s.preloadUnit c.1).isSome || (s.preloadNext c.1).isSome then some (.preload c.1) else none),
    fun _ => s.parts.findSome? (fun p => if (s.intrDue p.1).isSome then some (.asIntr p.1) else none)]
/-- A sharded request held too long (R198). -/
def State.dueHold (s : State) : Option Instr :=
  s.shardHeld.findSome? (fun h => if s.holdOver h then some (.shardHoldTimeout h.part h.req.tag) else none)
/-- A frame that a send ring has ready (R52). -/
def State.dueFrame (s : State) : Option Instr :=
  s.pairs.findSome? (fun b => if b.2.send.ready && pairOk (b.1 / 64) (b.1 % 64) then some (.frameSend (b.1 / 64) (b.1 % 64)) else none)
/-- The event that falls due by itself, if any, in the model's order (log 3). -/
def State.due (s : State) : Option Instr :=
  firstOf [fun _ => s.dueTrap, fun _ => s.dueUnit, fun _ => s.dueEngine, fun _ => s.dueWain, fun _ => s.duePlan, fun _ => s.dueDispatcher, fun _ => s.dueHold, fun _ => s.dueFrame]

end Sys2Proof.Machine
end

