-- ==== Sys2Proof/Machine/Step.lean ====
section
/-!
DEFINITION. One step of the machine: a device write, a scheduled turn, an event that is due, or the next agent's instruction;
and where the host's question places an instruction.
-/
namespace Sys2Proof.Machine

/-- The executing agent fetches, decodes and executes one word (R333). -/
def runAgent (s : State) : Host.Outcome State Fault Refusal :=
  match s.fetchWord with
  | .trap t s => .next (s.takeTrap t)
  | .wait w s => .next (s.markWait w)
  | .ok w s =>
    match decode w with
    | some i => exec i s
    | none => if s.off then .next s.retireOff else .next (s.takeTrap (s.illegalWord w))

/-- A turn of the schedule. An agent of a stalled unit does nothing (R315), and one whose task has used its budget overruns it (R147). -/
def runTurn (t : Turn) (s : State) : Host.Outcome State Fault Refusal :=
  match t with
  | .event i => exec i s
  | .occur o => .next (s.occur o)
  | .run u w =>
    if s.stalled u then .next s
    else
      match (s.taskReeve u w).filter (s.overrun u ·) with
      | some r => exec (.budgetOverrun u r) s
      | none => runAgent (s.setAgent (u, w))

/-- One step. -/
def step (s : State) : Host.Outcome State Fault Refusal :=
  match s.device with
  | w :: rest => .next (doDevice { s with device := rest } w)
  | [] =>
    match s.turns with
    | t :: rest => runTurn t { s.tick with turns := rest }
    | [] =>
      match s.due with
      | some i => exec i s
      | none =>
        match s.pick with
        | some a => runAgent (s.tick.setAgent a)
        | none => .next s.tick

/-! ### Where the host places an instruction -/

/-- The code address that `withFetchWord` uses: 2 MiB into partition 0's share, virtual and physical alike. -/
def placeAt : Nat := 0x200000
/-- Does a word run on a reeve? Otherwise it is placed in a sheaf. -/
def reeveWord (w : Word) : Bool :=
  match (wTag w).toNat with
  | 0 => (opRuns (wOp w)).reeve
  | 1 => (slotRuns (w.extractLsb' 56 6).toNat).reeve && (slotRuns (w.extractLsb' 25 6).toNat).reeve
  | _ => true
/-- The partition of the placement: ACTIVE, a 1 GiB share from physical address 0, core 0. -/
def placePart : Partition :=
  { Partition.off with st := .active, cores := [0], remap := [0], shareBase := 0, shareSize := 2 ^ 30, initUid := 1 }
/-- The keeper task of the placement (R116): reeve 0 of unit 1 in keeper mode, at `placeAt`; sheaf 0 holds a block of the word. -/
def placeUnit (w : Word) : Unit :=
  let r : Reeve := { Reeve.reset with pc := toW placeAt, started := true, mode := .keeper, budget := 0xFFFFFFFFFFFFFFFF }
  let k : Sheaf := { Sheaf.reset with busy := true, pc := toW placeAt, blockAddr := toW placeAt, block := [w] }
  { Unit.none with
    live := true, part := 0, rv := 1, initial := true, reeves := [(0, r)],
    sheaves := if reeveWord w then [] else [(0, k)], place := .running, core := 0, ctxPA := 0x38100000, passId := 0 }
/-- HBM of the placement: directory entry 0, a root table, a level-1 table with one 1 GiB leaf (R, W, X), and the word. -/
def placeMem (m : Memory) (w : Word) : Memory :=
  let m := memWrite m 0 (leBytes 16 (256 * 2 ^ 30 + 1))
  let m := memWrite m 0x100000 (leBytes 8 (288 * 2 ^ 30 + 1))
  let m := memWrite m 0x120000 (leBytes 8 0x6F)
  memWrite m placeAt (wordBytes w)

/-- `s` with an instruction where the next step fetches it: a keeper task of partition 0 on core 0, whose turn is next. -/
def State.withFetchWord (s : State) (nbits w : Nat) : State :=
  let v : Word := bytesWord (leBytes 8 (w % 2 ^ nbits))
  { s with
    uid := 1, who := .reeve 0,
    units := KMap.set Unit.none s.units 1 (placeUnit v)
    cores := KMap.set Core.reset s.cores 0 { Core.reset with running := some 1 }
    parts := KMap.set Partition.off s.parts 0 placePart
    hbm := placeMem s.hbm v
    tlb := []
    ptrs := []
    device := []
    turns := [.run 1 (if reeveWord v then .reeve 0 else .sheaf 0)] }

end Sys2Proof.Machine
end

