-- ==== Sys2Proof/Safety.lean ====
section
/-!
DEFINITION. What counts as a safe run, and the vocabulary of frames that the statements use.
-/
namespace Sys2Proof.Machine

/-- Every step of the first `n` steps from `s` answers a next state. -/
def Safe : Nat → State → Prop
  | 0, _ => True
  | n + 1, s => ∃ t, step s = .next t ∧ Safe n t

/-- From `s` to `t` nothing changed but registers of the executing agent: every memory, partition, pass, port, peer table, other unit,
other reeve, other sheaf and other core is as it was, and so is the executing agent's own identity. -/
structure TouchesOwn (s t : State) : Prop where
  /-- Every field of the package but the maps of units and cores. -/
  outside : t = { s with units := t.units, cores := t.cores }
  /-- Every other unit. -/
  units : ∀ u, u ≠ s.uid → t.unitOf u = s.unitOf u
  /-- Every field of the agent's unit but the maps of its reeves and sheaves: its loft, counters, queues and statex registers too. -/
  unit : t.cu = { s.cu with reeves := t.cu.reeves, sheaves := t.cu.sheaves }
  /-- Every other reeve of that unit. -/
  reeves : ∀ r, s.who ≠ .reeve r → t.cu.reeveOf r = s.cu.reeveOf r
  /-- Every other sheaf of that unit. -/
  sheaves : ∀ k, s.who ≠ .sheaf k → t.cu.sheafOf k = s.cu.sheafOf k
  /-- Every core but the one whose wain executes. -/
  cores : ∀ c, s.who ≠ .wain c → t.coreOf c = s.coreOf c
  /-- Of that core, everything but its routine's registers. -/
  core : ∀ c, s.who = .wain c →
    t.coreOf c = { s.coreOf c with routine := (s.coreOf c).routine.map (fun x =>
      { x with g := (t.rt c).g, gPoison := (t.rt c).gPoison, vec := (t.rt c).vec, pc := (t.rt c).pc }) }

/-- The word that follows the executing one in a straight line. A sheaf's loop registers may choose another (R418). -/
def State.follow (s : State) : Word :=
  match s.who with
  | .sheaf _ => (sheafNext s.sh (s.pc + 8)).pc
  | _ => s.pc + 8

/-- Of the executing agent, all is as it was but the scalar registers that `d` names, the word that follows (from `next` on) and the mark
that it waits; flags `f` are ORed into a reeve's `%fx`. A register that is written loses its poison mark. -/
structure ScalarFrame (s t : State) (d : Option Reg) (f next : Word) : Prop where
  own : TouchesOwn s.dropReplies t
  regs : ∀ r, some r ≠ d → t.rd r = s.rd r ∧ t.poisoned r = s.poisoned r
  reeve : ∀ r, s.who = .reeve r →
    t.re = { s.re with g := t.re.g, gPoison := t.re.gPoison, fx := s.re.fx ||| f, pc := next, wait := none, waited := 0 }
  sheaf : ∀ k, s.who = .sheaf k → t.sh = { sheafNext s.sh next with h := t.sh.h, hPoison := t.sh.hPoison, wait := none }
  wain : ∀ c, s.who = .wain c → (s.routineOf c).isSome = true → t.rt c = { s.rt c with g := (t.rt c).g, gPoison := (t.rt c).gPoison, pc := next }

/-- The word that runs after the executing one when that names `next`: a sheaf's loop registers may choose another (R418). -/
def State.after (s : State) (next : Word) : Word :=
  match s.who with
  | .sheaf _ => (sheafNext s.sh next).pc
  | _ => next

/-- The machine once the executing word has completed with no effect of its own but that `next` follows it: the replies it held are dropped,
and `next`, by way of a sheaf's loop registers, becomes the program counter. -/
def State.ran (s : State) (next : Word) : State := s.dropReplies.retireTo next

/-- Of the executing vector context, all is as it was but its vector, mask and vector control registers, the word that follows (from `next`
on) and the mark that it waits. -/
structure VecFrame (s t : State) (next : Word) : Prop where
  own : TouchesOwn s.dropReplies t
  regs : ∀ r, t.rd r = s.rd r ∧ t.poisoned r = s.poisoned r
  sheaf : ∀ k, s.who = .sheaf k → t.sh =
    { sheafNext s.sh next with
      v := t.sh.v, vPoison := t.sh.vPoison, m := t.sh.m, mPoison := t.sh.mPoison, vl := t.sh.vl, vt := t.sh.vt, vstrt := t.sh.vstrt, vfx := t.sh.vfx, wait := none }
  wain : ∀ c, s.who = .wain c → (s.routineOf c).isSome = true → t.rt c = { s.rt c with vec := t.sh, pc := next }

/-- The executing agent exists: a wain core runs a routine. -/
def State.agentOk (s : State) : Bool :=
  match s.who with
  | .wain c => (s.routineOf c).isSome
  | _ => true

/-- The executing agent exists, its word is not switched off by a SLOOP stage, the scalar registers named by the word exist in the agent's
context, none that it reads is poisoned, and the word that a sheaf's loop registers would choose next is aligned (R333, R317, R323). -/
def State.ready (s : State) (regs srcs : List Reg) : Bool :=
  s.agentOk && !s.off && !regs.any s.badReg && !srcs.any s.poisoned && s.badNext.isNone

/-- What a scalar register holds after a value was written to it: `g0` of a reeve or routine stays 0 (R334). -/
def State.written (s : State) (d : Reg) (v : Word) : Word :=
  match s.who with
  | .sheaf _ => v
  | _ => if d = 0 then 0 else v

end Sys2Proof.Machine
end

