-- ==== Sys2Proof/Certificates/Slice0/Obligations.lean ====
section
/-!
DEFINITION. The statements about the machine, each a `Prop`. The definitions before a statement write the spec's tables and formulas over
integers, naturals and rationals, apart from the meanings they are compared with.
-/
section
open Sys2Proof Sys2Proof.Machine

namespace Sys2Proof.Claims
end Sys2Proof.Claims
open Sys2Proof.Claims

/-! ### Integer words (R345-R347) -/

namespace Sys2Proof.Claims

/-- What an integer word does: its destination, the registers it reads, and its result from the register file and its own address. -/
structure IntRule where
  dst : Reg
  srcs : List Reg
  val : (Reg → Word) → Word → Word

/-- A register form of two sources. -/
def two (d a b : Reg) (f : Word → Word → Word) : Option IntRule := some ⟨d, [a, b], fun g _ => f (g a) (g b)⟩
/-- A form of one source. -/
def one (d a : Reg) (f : Word → Word) : Option IntRule := some ⟨d, [a], fun g _ => f (g a)⟩
/-- An immediate form: imm32 sign-extended is B (R345). -/
def imm (d a : Reg) (i : BitVec 32) (f : Word → Word → Word) : Option IntRule := some ⟨d, [a], fun g _ => f (g a) (BitVec.ofInt 64 i.toInt)⟩

/-- An integer modulo 2^64. -/
def wrap (x : Int) : Word := BitVec.ofInt 64 x
/-- A condition of SETC and BC over the signed and unsigned values (R325). -/
def condSays (c : Cond) (a b : Word) : Bool :=
  match c with
  | .eq => decide (a.toNat = b.toNat)
  | .ne => decide (a.toNat ≠ b.toNat)
  | .lt => decide (a.toInt < b.toInt)
  | .ge => decide (b.toInt ≤ a.toInt)
  | .ltn => decide (a.toNat < b.toNat)
  | .gen => decide (b.toNat ≤ a.toNat)
/-- The width of SEXT and ZEXT: ((B − 1) mod 64) + 1. -/
def extWidth (b : Word) : Nat := (b - 1).toNat % 64 + 1
/-- The results of R345 for operands A and B, over integers and naturals. -/
def rMulh (a b : Word) : Word := wrap (a.toInt * b.toInt / 2 ^ 64)
def rMulhn (a b : Word) : Word := BitVec.ofNat 64 (a.toNat * b.toNat / 2 ^ 64)
def rDiv (a b : Word) : Word := if b.toNat = 0 then wrap (-1) else wrap (a.toInt.tdiv b.toInt)
def rDivn (a b : Word) : Word := if b.toNat = 0 then wrap (-1) else BitVec.ofNat 64 (a.toNat / b.toNat)
def rRem (a b : Word) : Word := if b.toNat = 0 then a else wrap (a.toInt.tmod b.toInt)
def rRemn (a b : Word) : Word := if b.toNat = 0 then a else BitVec.ofNat 64 (a.toNat % b.toNat)
def rShl (a b : Word) : Word := BitVec.ofNat 64 (a.toNat * 2 ^ (b.toNat % 64))
def rShr (a b : Word) : Word := BitVec.ofNat 64 (a.toNat / 2 ^ (b.toNat % 64))
def rSra (a b : Word) : Word := wrap (a.toInt / 2 ^ (b.toNat % 64))
def rMin (a b : Word) : Word := if a.toInt ≤ b.toInt then a else b
def rMax (a b : Word) : Word := if b.toInt ≤ a.toInt then a else b
def rMinn (a b : Word) : Word := if a.toNat ≤ b.toNat then a else b
def rMaxn (a b : Word) : Word := if b.toNat ≤ a.toNat then a else b
def rSext (a b : Word) : Word := let w := extWidth b; wrap ((a.toNat % 2 ^ w : Nat) - (if a.toNat.testBit (w - 1) then (2 ^ w : Nat) else 0 : Nat))
def rZext (a b : Word) : Word := BitVec.ofNat 64 (a.toNat % 2 ^ extWidth b)
/-- Leading zeros, trailing zeros and set bits of A; 64 leading and 64 trailing for A = 0. -/
def rClz (a : Word) : Word := BitVec.ofNat 64 (if a.toNat = 0 then 64 else 63 - a.toNat.log2)
def rCtz (a : Word) : Word := BitVec.ofNat 64 (((List.range 64).find? (fun i => a.getLsbD i)).getD 64)
def rPopc (a : Word) : Word := BitVec.ofNat 64 ((List.range 64).filter (fun i => a.getLsbD i)).length

/-- R345-R347, row by row. -/
def intRule : Instr → Option IntRule
  | .add d a b => two d a b (fun x y => wrap (x.toInt + y.toInt))
  | .sub d a b => two d a b (fun x y => wrap (x.toInt - y.toInt))
  | .mul d a b => two d a b (fun x y => wrap (x.toInt * y.toInt))
  | .mulh d a b => two d a b rMulh
  | .mulhn d a b => two d a b rMulhn
  | .div d a b => two d a b rDiv
  | .divn d a b => two d a b rDivn
  | .rem d a b => two d a b rRem
  | .remn d a b => two d a b rRemn
  | .and d a b => two d a b (· &&& ·)
  | .or d a b => two d a b (· ||| ·)
  | .xor d a b => two d a b (· ^^^ ·)
  | .andn d a b => two d a b (fun x y => x &&& ~~~y)
  | .shl d a b => two d a b rShl
  | .shr d a b => two d a b rShr
  | .sra d a b => two d a b rSra
  | .min d a b => two d a b rMin
  | .max d a b => two d a b rMax
  | .minn d a b => two d a b rMinn
  | .maxn d a b => two d a b rMaxn
  | .clz d a => one d a rClz
  | .ctz d a => one d a rCtz
  | .popc d a => one d a rPopc
  | .sext d a b => two d a b rSext
  | .zext d a b => two d a b rZext
  | .setc c d a b => two d a b (fun x y => if condSays c x y then 1 else 0)
  | .csel d a b c => some ⟨d, [a, b, c], fun g _ => if (g c).toNat ≠ 0 then g a else g b⟩
  | .addI d a i => imm d a i (fun x y => wrap (x.toInt + y.toInt))
  | .subI d a i => imm d a i (fun x y => wrap (x.toInt - y.toInt))
  | .mulI d a i => imm d a i (fun x y => wrap (x.toInt * y.toInt))
  | .mulhI d a i => imm d a i rMulh
  | .mulhnI d a i => imm d a i rMulhn
  | .divI d a i => imm d a i rDiv
  | .divnI d a i => imm d a i rDivn
  | .remI d a i => imm d a i rRem
  | .remnI d a i => imm d a i rRemn
  | .andI d a i => imm d a i (· &&& ·)
  | .orI d a i => imm d a i (· ||| ·)
  | .xorI d a i => imm d a i (· ^^^ ·)
  | .andnI d a i => imm d a i (fun x y => x &&& ~~~y)
  | .shlI d a i => imm d a i rShl
  | .shrI d a i => imm d a i rShr
  | .sraI d a i => imm d a i rSra
  | .minI d a i => imm d a i rMin
  | .maxI d a i => imm d a i rMax
  | .minnI d a i => imm d a i rMinn
  | .maxnI d a i => imm d a i rMaxn
  | .sextI d a i => imm d a i rSext
  | .zextI d a i => imm d a i rZext
  | .setcI c d a i => imm d a i (fun x y => if condSays c x y then 1 else 0)
  | .li d i => some ⟨d, [], fun _ _ => wrap i.toInt⟩
  | .lih d a i => some ⟨d, [a], fun g _ => BitVec.ofNat 64 ((g a).toNat % 2 ^ 32 + i.toNat * 2 ^ 32)⟩
  | .addpc d i => some ⟨d, [], fun _ pc => wrap (pc.toInt + i.toInt)⟩
  | _ => none

end Sys2Proof.Claims

def Obligations.IntegerWordsWriteTheirResult : Prop :=
  ∀ (i : Instr) (R : IntRule) (s : State), intRule i = some R → s.ready (R.dst :: R.srcs) R.srcs = true →
    ∃ t, exec i s = .next t ∧ t.rd R.dst = s.written R.dst (R.val s.rd s.pc) ∧ t.pc = s.follow ∧
      ScalarFrame s t (some R.dst) 0 (s.pc + 8)

/-! ### Scalar floating point (R348-R351) -/

namespace Sys2Proof.Claims

/-- What a floating-point word does: its destination, the registers it reads, and its result with its flags from the register file. -/
structure FpRule where
  dst : Reg
  srcs : List Reg
  val : (Reg → Word) → Nat × Word

/-- An operand of type `t`: the low bits of its register (R350). -/
def opnd (t : Ty) (w : Word) : Nat := w.toNat % 2 ^ tyWidth t
/-- A result as its register takes it: i types are sign-extended, all others zero-extended (R350, R351). -/
def extended (t : Ty) (n : Nat) : Word :=
  if tySigned t then wrap ((n % 2 ^ tyWidth t : Nat) - (if n.testBit (tyWidth t - 1) then (2 ^ tyWidth t : Nat) else 0 : Nat)) else BitVec.ofNat 64 n
/-- A form of two operands. -/
def fp2 (t : Ty) (d a b : Reg) (f : Nat → Nat → Nat × Word) : Option FpRule := some ⟨d, [a, b], fun g => f (opnd t (g a)) (opnd t (g b))⟩

/-- R348-R351, row by row, over the operations of R227-R233. -/
def fpRule : Instr → Option FpRule
  | .fadd t d a b => fp2 t d a b (fadd (fmtOf t))
  | .fsub t d a b => fp2 t d a b (fun x y => faddV (fmtOf t) (fdec (fmtOf t) x) (fneg (fdec (fmtOf t) y)))
  | .fmul t d a b => fp2 t d a b (fmul (fmtOf t))
  | .fma t d a b c => some ⟨d, [a, b, c], fun g =>
      ffma (fmtOf t) (fdec (fmtOf t) (opnd t (g a))) (fdec (fmtOf t) (opnd t (g b))) (fdec (fmtOf t) (opnd t (g c)))⟩
  | .fdiv t d a b => fp2 t d a b (fdiv (fmtOf t))
  | .fsqrt t d a => some ⟨d, [a], fun g => fsqrt (fmtOf t) (opnd t (g a))⟩
  | .fmin t d a b => fp2 t d a b (fminmax (fmtOf t) false)
  | .fmax t d a b => fp2 t d a b (fminmax (fmtOf t) true)
  | .fcmp c t d a b => fp2 t d a b (fun x y => ((if (fcompare (fmtOf t) c x y).1 then 1 else 0), (fcompare (fmtOf t) c x y).2))
  | .fcvt td ts rm ov d a => some ⟨d, [a], fun g =>
      ((extended td (fconvert td ts rm ov (opnd ts (g a))).1).toNat, (fconvert td ts rm ov (opnd ts (g a))).2)⟩
  | _ => none

/-- The exact value of a finite pattern as a rational: (−1)^sign · m · 2^e of R218-R220; none for a NaN or an infinity. -/
def ratOf (f : Fmt) (n : Nat) : Option Rat :=
  let ex := n / 2 ^ f.mb % 2 ^ f.eb
  let m := n % 2 ^ f.mb
  let sg : Rat := if n.testBit (f.eb + f.mb) then -1 else 1
  if ex = 2 ^ f.eb - 1 then none
  else some (sg * (if ex = 0 then m else m + 2 ^ f.mb : Nat) * (2 : Rat) ^ ((if ex = 0 then 1 else ex : Nat) - (2 ^ (f.eb - 1) - 1 : Int) - f.mb))

/-- The magnitude of a rational. -/
def mag (x : Rat) : Rat := if x < 0 then -x else x
/-- The magnitude from which RNE overflows: the largest finite value and half a step more (R228). -/
def rneLimit (f : Fmt) : Rat := (2 ^ (f.mb + 2) - 1) * (2 : Rat) ^ ((2 ^ (f.eb - 1) - 2 : Int) - f.mb)

/-- `r` is the exact value `x` rounded once to nearest, ties to the even pattern, with R228's infinities (R227). -/
def Nearest (f : Fmt) (x : Rat) (r : Nat) : Prop :=
  r < 2 ^ (f.eb + f.mb + 1) ∧
  (mag x < rneLimit f → ∃ y, ratOf f r = some y ∧ (y ≠ 0 → (y < 0 ↔ x < 0)) ∧ (x < 0 → r.testBit (f.eb + f.mb) = true) ∧
    (0 < x → r.testBit (f.eb + f.mb) = false) ∧
    ∀ n z, ratOf f n = some z → mag (y - x) ≤ mag (z - x) ∧ (mag (y - x) = mag (z - x) → z = y ∨ r % 2 = 0)) ∧
  (rneLimit f ≤ mag x → r = (if x < 0 then 2 ^ (f.eb + f.mb) else 0) + (2 ^ f.eb - 1) * 2 ^ f.mb)

/-- The four types of R348. -/
def fp4 : List Ty := [.f64, .f32, .f16, .bf16]

end Sys2Proof.Claims

def Sys2Proof.Claims.floatWordsWriteTheirResult : Prop :=
  ∀ (i : Instr) (R : FpRule) (s : State) (r : Nat), fpRule i = some R → s.who = .reeve r →
    s.ready (R.dst :: R.srcs) R.srcs = true →
    ∃ t, exec i s = .next t ∧ t.rd R.dst = s.written R.dst (BitVec.ofNat 64 (R.val s.rd).1) ∧ t.pc = s.pc + 8 ∧
      ScalarFrame s t (some R.dst) (R.val s.rd).2 (s.pc + 8)

def Obligations.ArithmeticRoundsOnceToNearest : Prop :=
  ∀ t ∈ fp4, ∀ (a b c : Nat) (x y z : Rat), ratOf (fmtOf t) a = some x → ratOf (fmtOf t) b = some y → ratOf (fmtOf t) c = some z →
    (x + y ≠ 0 → Nearest (fmtOf t) (x + y) (fadd (fmtOf t) a b).1) ∧
    (x - y ≠ 0 → Nearest (fmtOf t) (x - y) (fsub (fmtOf t) a b).1) ∧
    (x * y ≠ 0 → Nearest (fmtOf t) (x * y) (fmul (fmtOf t) a b).1) ∧
    (x ≠ 0 → y ≠ 0 → Nearest (fmtOf t) (x / y) (fdiv (fmtOf t) a b).1) ∧
    (x * y + z ≠ 0 → Nearest (fmtOf t) (x * y + z) (ffma (fmtOf t) (fdec (fmtOf t) a) (fdec (fmtOf t) b) (fdec (fmtOf t) c)).1)

namespace Sys2Proof.Claims
/-- A NaN pattern, and a signaling one (R218, R230). -/
def nanBits (f : Fmt) (n : Nat) : Bool := n / 2 ^ f.mb % 2 ^ f.eb == 2 ^ f.eb - 1 && n % 2 ^ f.mb != 0
def sigBits (f : Fmt) (n : Nat) : Bool := nanBits f n && !n.testBit (f.mb - 1)
/-- The canonical NaN of each type (R230). -/
def canonNaN : Ty → Nat
  | .f64 => 0x7FF8000000000000
  | .f32 => 0x7FC00000
  | .f16 => 0x7E00
  | _ => 0x7FC0
/-- The sign bit of a type's patterns. -/
def signBit (t : Ty) : Nat := tyWidth t - 1
end Sys2Proof.Claims

/-- R230, R232, R233, R348, R349: special values of scalar arithmetic. -/
def Sys2Proof.Claims.floatSpecialValues : Prop :=
  ∀ t ∈ fp4, ∀ a b : Nat, a < 2 ^ tyWidth t → b < 2 ^ tyWidth t →
    let f := fmtOf t
    -- a NaN operand gives the canonical NaN, and NV exactly when one is signaling
    (nanBits f a || nanBits f b → ∀ r ∈ [fadd f a b, fsub f a b, fmul f a b, fdiv f a b, fminmax f false a b, fminmax f true a b],
      r = (canonNaN t, if sigBits f a || sigBits f b then 16 else 0)) ∧
    -- infinity minus infinity, zero times infinity, 0/0 and ∞/∞ are invalid; a finite nonzero value over zero sets DZ
    (∀ n, let inf := (2 ^ f.eb - 1) * 2 ^ f.mb
      fsub f inf inf = (canonNaN t, 16) ∧ fmul f 0 inf = (canonNaN t, 16) ∧ fdiv f 0 0 = (canonNaN t, 16) ∧
      fdiv f inf inf = (canonNaN t, 16) ∧
      (0 < n → n < inf → fdiv f n 0 = (inf, 8) ∧ fdiv f n (2 ^ signBit t) = (2 ^ signBit t + inf, 8))) ∧
    -- zeros: a sum of zeros is −0 only when both are, an exact cancellation is +0, and −0 is below +0
    (fadd f 0 0 = (0, 0) ∧ fadd f 0 (2 ^ signBit t) = (0, 0) ∧ fadd f (2 ^ signBit t) (2 ^ signBit t) = (2 ^ signBit t, 0)) ∧
    (∀ x, ratOf f a = some x → fsub f a a = (0, 0)) ∧
    (fminmax f false 0 (2 ^ signBit t) = (2 ^ signBit t, 0) ∧ fminmax f true (2 ^ signBit t) 0 = (0, 0)) ∧
    (∀ x y, ratOf f a = some x → ratOf f b = some y →
      (x < y → fminmax f false a b = (a, 0) ∧ fminmax f true a b = (b, 0)) ∧
      -- FCMP by value, where −0 equals +0
      fcompare f .eq a b = (decide (x = y), 0) ∧ fcompare f .ne a b = (decide (x ≠ y), 0) ∧ fcompare f .lt a b = (decide (x < y), 0) ∧
      fcompare f .le a b = (decide (x ≤ y), 0) ∧ fcompare f .un a b = (false, 0)) ∧
    -- unordered operands
    (nanBits f a || nanBits f b →
      let nv : Word := if sigBits f a || sigBits f b then 16 else 0
      fcompare f .eq a b = (false, nv) ∧ fcompare f .ne a b = (true, nv) ∧ fcompare f .un a b = (true, nv) ∧
      fcompare f .lt a b = (false, 16) ∧ fcompare f .le a b = (false, 16))

/-- R346-R352, R230-R233: every scalar floating-point word writes the result and ORs the flags that its row gives, special values among them. -/
def Obligations.FloatWordsAndSpecialValues : Prop :=
  Claims.floatWordsWriteTheirResult ∧ Claims.floatSpecialValues

/-! ### Control transfer (R352, R353, R306) -/

namespace Sys2Proof.Claims

/-- What a branch or jump does: its link register (`g0`: none), the registers it names, those it reads, and where it goes. -/
structure JumpRule where
  link : Option Reg
  srcs : List Reg
  target : (Reg → Word) → Word → Word

/-- R352, row by row. -/
def jumpRule : Instr → Option JumpRule
  | .bc c a b off => some ⟨none, [a, b], fun g pc => if condSays c (g a) (g b) then wrap (pc.toInt + 8 * off.toInt) else wrap (pc.toInt + 8)⟩
  | .j off => some ⟨none, [], fun _ pc => wrap (pc.toInt + 8 * off.toInt)⟩
  | .jl d off => some ⟨some d, [], fun _ pc => wrap (pc.toInt + 8 * off.toInt)⟩
  | .jr d a off => some ⟨some d, [a], fun g _ => wrap ((g a).toInt + off.toInt)⟩
  | _ => none

/-- Branches and jumps run on a reeve and in a routine (R343, R297). -/
def isReeveOrWain : Who → Bool
  | .sheaf _ => false
  | _ => true
end Sys2Proof.Claims

def Sys2Proof.Claims.branchesAndJumps : Prop :=
  ∀ (i : Instr) (R : JumpRule) (s : State), jumpRule i = some R → isReeveOrWain s.who = true →
    s.ready (R.link.toList ++ R.srcs) R.srcs = true →
    ((∀ d a off, i = .jr d a off → (R.target s.rd s.pc).toNat % 8 = 0) →
      ∃ t, exec i s = .next t ∧ t.pc = R.target s.rd s.pc ∧ (∀ d, R.link = some d → t.rd d = s.written d (s.pc + 8)) ∧
        ScalarFrame s t R.link 0 (R.target s.rd s.pc)) ∧
    -- a misaligned JR target traps FT_ALIGN with the target as `%tval`, and no link is written before the trap is taken
    (∀ d a off, i = .jr d a off → (R.target s.rd s.pc).toNat % 8 ≠ 0 →
      exec i s = .next (s.dropReplies.takeTrap (tr cALIGN 0 (R.target s.rd s.pc))))

namespace Sys2Proof.Claims
/-- A reeve executes a word that may run now. -/
def onReeve (s : State) (r : Nat) (regs srcs : List Reg) : Prop := s.who = .reeve r ∧ s.ready regs srcs = true
/-- A gate table entry that a call may use: valid, reserved bits clear, HANDLER a multiple of 8 (R305, R306). -/
def goodEntry (e : Nat) : Bool :=
  e.testBit 7 && e / 2 % 64 == 0 && e / 256 % 2 ^ 56 == 0 && e / 2 ^ 192 % 2 ^ 64 == 0 && e / 2 ^ 64 % 8 == 0
/-- The number of entries of the gate table (R304). -/
def gateEntries (s : State) : Nat := (s.partOf s.cu.part).gatebase.toNat % 4096 + 1
end Sys2Proof.Claims

def Sys2Proof.Claims.gateCalls : Prop :=
  ∀ (s : State) (r : Nat), onReeve s r [] [] →
    -- GATE enters the entry's mode and mask mode and continues at its handler
    (∀ (imm : BitVec 16) (e : Nat) (u : State), imm ≠ 0 → imm.toNat < gateEntries s → s.re.mode = .task → s.re.link = none →
      s.gateEntry imm.toNat = .ok e u → goodEntry e = true →
      ∃ t, exec (.gate imm) s = .next t ∧ TouchesOwn u.dropReplies t ∧
        t.re = { u.re with
          link := some ⟨u.re.pc + 8, .task, u.re.mask⟩, mode := if e % 2 = 1 then .keeper else .task,
          mask := BitVec.ofNat 64 (e / 2 ^ 128), pc := BitVec.ofNat 64 (e / 2 ^ 64), wait := none, waited := 0 }) ∧
    -- its checks, in order, and GRET's own
    (∀ imm : BitVec 16, (imm = 0 ∨ gateEntries s ≤ imm.toNat) → exec (.gate imm) s = .next (s.dropReplies.takeTrap (tr cGATE 1 0))) ∧
    (∀ imm : BitVec 16, imm ≠ 0 → imm.toNat < gateEntries s → (s.re.mode = .keeper ∨ s.re.link.isSome = true) →
      exec (.gate imm) s = .next (s.dropReplies.takeTrap (tr cGATE 2 0))) ∧
    (∀ (imm : BitVec 16) (e : Nat) (u : State), imm ≠ 0 → imm.toNat < gateEntries s → s.re.mode = .task → s.re.link = none →
      s.gateEntry imm.toNat = .ok e u → goodEntry e = false → exec (.gate imm) s = .next (u.dropReplies.takeTrap (tr cGATE 4 0))) ∧
    (s.re.link = none → exec .gret s = .next (s.dropReplies.takeTrap (tr cGATE 3 0))) ∧
    -- GRET restores the mode, the mask mode and the program counter, and empties the link
    (∀ l, s.re.link = some l →
      ∃ t, exec .gret s = .next t ∧ TouchesOwn s.dropReplies t ∧
        t.re = { s.re with mode := l.mode, mask := l.mask, link := none, pc := l.ret, wait := none, waited := 0 })

/-- R306, R324, R335, R353: branches, jumps and calls go where their row says, and GATE enters the gate that its table entry names. -/
def Obligations.ControlTransfersAndGates : Prop :=
  Claims.branchesAndJumps ∧ Claims.gateCalls

/-! ### Taking an exception and returning (R307-R310, R149, R161, R370) -/

namespace Sys2Proof.Claims

/-- The number of a cause (R308). -/
def trapCode (t : TrapInfo) : Nat := t.code.toNat
/-- FT_TRAP and FT_BRK, which write no record (R310). -/
def noRecord (t : TrapInfo) : Bool := trapCode t == 0x12 || trapCode t == 0x11
/-- FT_SEAL, FT_BUDGET and FT_MCHK, which always park (R308). -/
def parksAlways (t : TrapInfo) : Bool := trapCode t == 0x09 || trapCode t == 0x10 || trapCode t == 0x13
/-- A cause whose bit a mask mode sets, among those that honour it; FT_REVOKED is never delivered (R307, R308). -/
def enabled (t : TrapInfo) (mask : Word) : Bool := decide (trapCode t < 64) && mask.getLsbD (trapCode t) && !parksAlways t
/-- Where `%epc` points for a trap of the word at `pc` (R309). -/
def epcOf (t : TrapInfo) (pc : Word) : Word := if trapCode t = 0x12 then wrap (pc.toInt + 8) else pc
/-- `%cause` (R303) for a trap from mode `pm`, of sheaf `k` if any. -/
def causeOf (t : TrapInfo) (pm : Nat) (sheaf : Option Nat) : Word :=
  BitVec.ofNat 64 (trapCode t + 2 ^ 8 * t.sub.toNat + 2 ^ 24 * pm + (match sheaf with | none => 0 | some k => 2 ^ 26 + 2 ^ 27 * (k % 8)) +
    (if t.slotB then 2 ^ 30 else 0))
/-- A reeve at the first word of the handler (R309). -/
def inHandlerAt (x : Reeve) (tvec epc cause tval : Word) : Reeve :=
  { x with
    epc := epc, cause := cause, tval := tval, mode := .keeper, inHandler := true, pc := tvec, wait := none, waited := 0, wfeLeft := none,
    fetchBuf := [] }
/-- A fault record that waits to be written holds these fields (R314). -/
def recordIs (r : FaultRec) (flags : Nat) (t : TrapInfo) (task : Nat) (pass iaddr ctxpa : Word) : Prop :=
  dfld r.body 8 1 = flags ∧ dfld r.body 9 1 = trapCode t ∧ dfld r.body 10 2 = t.sub.toNat ∧ dfld r.body 12 4 = task % 2 ^ 32 ∧
  dfld r.body 16 8 = pass.toNat ∧ dfld r.body 24 8 = iaddr.toNat ∧ dfld r.body 32 8 = t.tval.toNat ∧ dfld r.body 40 8 = t.info0.toNat ∧
  dfld r.body 48 8 = t.info1.toNat ∧ dfld r.body 56 8 = ctxpa.toNat
/-- The DEFER bit of FLAGS: the event arose at an earlier instruction (R314). -/
def deferBit (t : TrapInfo) : Nat := if t.late then 64 else 0
/-- No other unit would start on the core of the executing one (R139, R148). -/
def alone (s : State) : Prop := ∀ v, v ≠ s.uid → (s.unitOf v).runnable = false ∨ (s.unitOf v).core ≠ s.cu.core
/-- Only the current unit, the queue of fault records of its partition and the telemetry that counts a record's wait (R315) changed. -/
def onlyUnitAndRecords (s t : State) : Prop :=
  t = { s with units := t.units, parts := t.parts, telemetry := t.telemetry } ∧ (∀ u, u ≠ s.uid → t.unitOf u = s.unitOf u) ∧
  (∀ p, p ≠ s.cu.part → t.partOf p = s.partOf p) ∧ t.partOf s.cu.part = { s.partOf s.cu.part with faults := (t.partOf s.cu.part).faults }
/-- The keys of a map strictly rise. -/
def rising {α : Type} (m : KMap α) : Prop := (m.map Prod.fst).Pairwise (· < ·)
/-- An ordinary task of a reeve executes (R302), in task mode. -/
def taskOnReeve (s : State) (r : Nat) : Prop := s.who = .reeve r ∧ s.cu.initial = false ∧ s.re.mode = .task
end Sys2Proof.Claims

/-- R307 row 1, R309, R310: a trap of a reeve in task mode whose mask bit is set is taken in place. -/
def Sys2Proof.Claims.trapsAreTakenInPlace : Prop :=
  ∀ (s : State) (r : Nat) (t : TrapInfo), taskOnReeve s r → trapCode t ≠ 0x0E → enabled t s.re.mask = true →
    (s.takeTrap t).re = inHandlerAt s.re (s.partOf s.cu.part).tvec (epcOf t s.pc) (causeOf t 0 none) t.tval ∧
    (s.takeTrap t).cu = { s.cu with reeves := (s.takeTrap t).cu.reeves } ∧
    (∀ q, q ≠ r → (s.takeTrap t).cu.reeveOf q = s.cu.reeveOf q) ∧ onlyUnitAndRecords s (s.takeTrap t) ∧
    (noRecord t = true → (s.takeTrap t).parts = s.parts) ∧
    (noRecord t = false → ∃ x, ((s.takeTrap t).partOf s.cu.part).faults = (s.partOf s.cu.part).faults ++ [x] ∧ x.parks = false ∧
      recordIs x (deferBit t) t (s.cu.idx * s.cu.rv + r) s.cu.passId s.pc 0)

/-- R370 with R309: TRAP and BRK raise their causes on themselves, and where the mask mode enables them the next word is the handler's. -/
def Sys2Proof.Claims.trapAndBrkRaiseTheirCauses : Prop :=
  ∀ (s : State) (r : Nat) (imm : BitVec 16), onReeve s r [] [] → s.cu.initial = false → s.re.mode = .task →
    (s.re.mask.getLsbD 0x12 = true → ∃ t, exec (.trap imm) s = .next t ∧ t.parts = s.parts ∧
      t.re = inHandlerAt s.re (s.partOf s.cu.part).tvec (wrap (s.pc.toInt + 8)) (BitVec.ofNat 64 (0x12 + 2 ^ 8 * imm.toNat)) 0) ∧
    (s.re.mask.getLsbD 0x11 = true → ∃ t, exec .brk s = .next t ∧ t.parts = s.parts ∧
      t.re = inHandlerAt s.re (s.partOf s.cu.part).tvec s.pc 0x11 0)

/-- R307, R309, R310, R370: a trap of a task whose mask bit is set is taken in place, and TRAP and BRK raise theirs. -/
def Obligations.TrapsAreTakenInPlaceByTheMask : Prop :=
  Claims.trapsAreTakenInPlace ∧ Claims.trapAndBrkRaiseTheirCauses

/-- R307 row 2, R149, R151, R314: a trap in task mode whose mask bit is clear, or that always parks, parks the unit with its context record. -/
def Sys2Proof.Claims.trapsParkTheUnit : Prop :=
  ∀ (s : State) (r : Nat) (t : TrapInfo), taskOnReeve s r → r < 2 → rising s.units → trapCode t ≠ 0x0E →
    enabled t s.re.mask = false →
    let u := (s.takeTrap t).unitOf s.uid
    let cause (q : Nat) : Nat := if q = r then trapCode t else if q < s.cu.rv ∧ (s.cu.reeveOf q).ended = false then 0x20 else 0
    u.place = .faulted ∧ u.cause0.toNat = cause 0 ∧ u.cause1.toNat = cause 1 ∧
    (u.reeveOf r).pc = epcOf t s.pc ∧ (u.reeveOf r).g = s.re.g ∧ (u.reeveOf r).mode = .task ∧ u.sheaves = s.cu.sheaves ∧
    ((s.takeTrap t).coreOf s.cu.core).running ≠ some s.uid ∧
    -- the context record's first byte and its causes stand in memory
    KMap.get 0 (s.takeTrap t).hbm s.cu.ctxPA = 1 ∧
    (KMap.get 0 (s.takeTrap t).hbm (s.cu.ctxPA + 6)).toNat = cause 0 ∧ (KMap.get 0 (s.takeTrap t).hbm (s.cu.ctxPA + 7)).toNat = cause 1 ∧
    -- the trap's own fault record is the last
    (∃ l x, ((s.takeTrap t).partOf s.cu.part).faults = (s.partOf s.cu.part).faults ++ l ++ [x] ∧ x.parks = true ∧
      recordIs x (1 + deferBit t) t (s.cu.idx * s.cu.rv + r) s.cu.passId s.pc (BitVec.ofNat 64 s.cu.ctxPA)) ∧
    -- where no other unit starts on the core, the loft stays, nothing outside the context record changed, and there is no other fault record
    (alone s → u.loft = s.cu.loft ∧
      (∀ a, a < s.cu.ctxPA ∨ s.cu.ctxPA + u.ctxSize ≤ a → KMap.get 0 (s.takeTrap t).hbm a = KMap.get 0 s.hbm a) ∧
      ((s.takeTrap t).partOf s.cu.part).faults.length = (s.partOf s.cu.part).faults.length + 1)

/-- R307 row 3: a trap inside a keeper gate whose mask bit is set abandons the gate. Whether it writes a record, with KMODE set, is the model's
free choice (log entry 24). -/
def Sys2Proof.Claims.keeperGatesAreAbandoned : Prop :=
  ∀ (s : State) (r : Nat) (t : TrapInfo) (l : GateLink), s.who = .reeve r → s.cu.initial = false → s.re.mode = .keeper → s.re.link = some l →
    s.re.inHandler = false → trapCode t ≠ 0x0E → enabled t s.re.mask = true →
    let u := s.takeTrap t
    u.re = { s.re with
      g := u.re.g, gPoison := u.re.gPoison, pc := l.ret, mode := l.mode, mask := l.mask, link := none, tval := t.tval, wait := none, waited := 0,
      fetchBuf := [] } ∧
    (∀ q : Reg, u.rd q = if q = 8 then BitVec.ofNat 64 (2 ^ 63 + 2 ^ 8 * t.sub.toNat + trapCode t) else s.rd q) ∧
    u.hbm = s.hbm ∧ u.cu.sheaves = s.cu.sheaves ∧ u.cu.loft = s.cu.loft ∧
    (u.parts = s.parts ∨ ∃ x, (u.partOf s.cu.part).faults = (s.partOf s.cu.part).faults ++ [x] ∧ x.parks = false ∧
      recordIs x (2 + deferBit t) t (s.cu.idx * s.cu.rv + r) s.cu.passId s.pc 0)

/-- R161, R307: a sheaf's FT_PAGE, FT_PERM or FT_FETCH is taken in place by its reeve, whose sheaves stop; any other cause parks the unit. -/
def Sys2Proof.Claims.sheafTraps : Prop :=
  ∀ (s : State) (k r : Nat) (t : TrapInfo), s.who = .sheaf k → s.cu.owner k = r → s.cu.initial = false → (s.cu.reeveOf r).mode = .task →
    rising s.units → trapCode t ≠ 0x0E → s.reqOut s.uid r = false →
    (trapCode t ∈ [0x06, 0x07, 0x08] → (s.cu.reeveOf r).mask.getLsbD (trapCode t) = true →
      (s.takeTrap t).cu.reeveOf r =
        inHandlerAt (s.cu.reeveOf r) (s.partOf s.cu.part).tvec (s.cu.reeveOf r).pc (causeOf t 0 (some k)) t.tval ∧
      (∀ j, (s.takeTrap t).cu.sheafOf j = { s.cu.sheafOf j with
        stopped := (s.cu.sheafOf j).stopped || (decide (j < s.cu.nSheaves) && s.cu.owner j == r) }) ∧
      onlyUnitAndRecords s (s.takeTrap t) ∧
      ∃ x, ((s.takeTrap t).partOf s.cu.part).faults = (s.partOf s.cu.part).faults ++ [x] ∧ x.parks = false ∧
        recordIs x (4 + 8 * (k % 8) + deferBit t) t (s.cu.idx * s.cu.rv + r) s.cu.passId s.pc 0) ∧
    ((trapCode t ∉ [0x06, 0x07, 0x08] ∨ (s.cu.reeveOf r).mask.getLsbD (trapCode t) = false) →
      ((s.takeTrap t).unitOf s.uid).place = .faulted ∧ ((s.takeTrap t).unitOf s.uid).sheaves = s.cu.sheaves ∧
      ∃ l x, ((s.takeTrap t).partOf s.cu.part).faults = (s.partOf s.cu.part).faults ++ l ++ [x] ∧ x.parks = true ∧
        recordIs x (5 + 8 * (k % 8) + deferBit t) t (s.cu.idx * s.cu.rv + r) s.cu.passId s.pc (BitVec.ofNat 64 s.cu.ctxPA))

/-- R149, R151, R161, R307, R314: a trap that the mask mode does not let a handler take parks the unit, one inside a keeper gate abandons the gate,
and a sheaf's is taken by its reeve or parks. -/
def Obligations.TrapsParkAbandonOrStopSheaves : Prop :=
  Claims.trapsParkTheUnit ∧ Claims.keeperGatesAreAbandoned ∧ Claims.sheafTraps

/-- R309, R161, R323: ERET in keeper mode resumes at `%epc` in mode PMODE, and the reeve's sheaves run again; a misaligned `%epc` traps. -/
def Obligations.EretReturns : Prop :=
  ∀ (s : State) (r : Nat), onReeve s r [] [] → s.eng = none → s.re.mode = .keeper →
    (s.re.epc.toNat % 8 = 0 → ∃ t, exec .eret s = .next t ∧
      t.re = { s.re with pc := s.re.epc, mode := t.re.mode, inHandler := false, wait := none, waited := 0, fetchBuf := [] } ∧
      (s.re.cause.toNat / 2 ^ 24 % 4 = 0 → t.re.mode = .task) ∧ (s.re.cause.toNat / 2 ^ 24 % 4 = 1 → t.re.mode = .keeper) ∧
      (∀ j, t.cu.sheafOf j = { s.cu.sheafOf j with
        stopped := (s.cu.sheafOf j).stopped && !(decide (j < s.cu.nSheaves) && s.cu.owner j == r) }) ∧
      t.hbm = s.hbm ∧ t.parts = s.parts) ∧
    (s.re.epc.toNat % 8 ≠ 0 → exec .eret s = .next (s.dropReplies.takeTrap (tr cALIGN 0 s.re.epc)))

/-! ### The checks before every meaning (R333, R343, R297, R368, R369, R317, R423) -/

namespace Sys2Proof.Claims

/-- The major opcode of a word (R324). -/
def majorOp (w : Word) : Nat := w.toNat / 2 ^ 54 % 2 ^ 8
/-- `x` lies in one of the ranges of a list. -/
def within (l : List (Nat × Nat)) (x : Nat) : Bool := l.any (fun p => decide (p.1 ≤ x) && decide (x ≤ p.2))
/-- Opcodes that run on a reeve, in a sheaf and in a wain routine (R343, R297). -/
def reeveOps : List (Nat × Nat) := [(0x00, 0x7F), (0xE0, 0xF0), (0xF2, 0xFF)]
def sheafOps : List (Nat × Nat) := [(0x00, 0x3F), (0x58, 0x5C), (0x60, 0x61), (0x67, 0x67), (0x76, 0x76), (0x80, 0xD6), (0xF0, 0xF7)]
def wainOps : List (Nat × Nat) :=
  [(0x00, 0x3F), (0x50, 0x53), (0x58, 0x5C), (0x61, 0x62), (0x74, 0x74), (0x76, 0x76), (0x80, 0x92), (0x98, 0x9D), (0xA8, 0xAA), (0xAE, 0xAF),
   (0xC0, 0xC1), (0xC3, 0xC4)]
/-- May a word run where it is: `bar.seal` on a reeve only (R365). -/
def mayRun (i : Instr) : Who → Bool
  | .reeve _ => within reeveOps (majorOp (encode i))
  | .sheaf _ => within sheafOps (majorOp (encode i)) && i != .barSeal
  | .wain _ => within wainOps (majorOp (encode i))
/-- A word of the F or L format. -/
def plainWord (i : Instr) : Bool := i.wf && (match i with | .dualWord .. => false | _ => true)
/-- The words only keeper mode may run: R368's, and SYSRD and SYSWR of the registers that R337 closes to task mode. -/
def keeperOnly : Instr → Bool
  | .eret | .tlbinvPg .. | .tlbinvAs .. | .tlbinvAll | .shset .. | .shgen .. => true
  | .sysrd _ _ num | .syswr _ _ num => [0x00, 0x01, 0x04, 0x05, 0x09, 0x0A, 0x0B, 0x0C, 0x0D].contains num.toNat
  | _ => false
end Sys2Proof.Claims

/-- R343, R297, R333 step 2: a word that its context does not run traps FT_ILLEGAL (wrong context) with the whole word as `%tval`, whatever
else it holds. -/
def Sys2Proof.Claims.wordsOfAnotherContextTrap : Prop :=
  ∀ (i : Instr) (s : State), plainWord i = true → s.off = false → mayRun i s.who = false →
    exec i s = .next (s.takeTrap (tr 0x01 3 (encode i)))

/-- R423: in a SLOOP block every word whose stage is off only advances the program counter; a loop target that is no multiple of 8 traps
FT_ALIGN with that target (R323). -/
def Sys2Proof.Claims.switchedOffWordsOnlyAdvance : Prop :=
  ∀ (i : Instr) (s : State), i.wf = true → s.off = true →
    (s.badNext = none → exec i s = .next (s.retireTo (s.pc + 8))) ∧
    (∀ a, s.badNext = some a → a.toNat % 8 ≠ 0 ∧ exec i s = .next (s.takeTrap (tr 0x05 0 a)))

/-- R302, R333 step 3, R368, R369: a keeper-only word of a reeve in task mode traps FT_PRIV, before any operand is read. -/
def Sys2Proof.Claims.keeperWordsTrapInTaskMode : Prop :=
  ∀ (i : Instr) (s : State) (r : Nat), keeperOnly i = true → s.who = .reeve r → s.re.mode = .task →
    exec i s = .next (s.takeTrap (tr 0x03 0 0))

/-- R334, R317, R323: in a sheaf a scalar register beyond `h15` is a reserved encoding; a poisoned source traps FT_MCHK REGFILE; a word after
which a loop register leads to a misaligned address traps FT_ALIGN with that address. -/
def Sys2Proof.Claims.scalarRegisterChecks : Prop :=
  ∀ (i : Instr) (R : IntRule) (s : State), intRule i = some R → s.off = false →
    ((∃ k, s.who = .sheaf k) → (∃ r ∈ R.dst :: R.srcs, 16 ≤ r.toNat) → exec i s = .next (s.takeTrap (tr 0x01 1 (encode i)))) ∧
    ((∀ r ∈ R.dst :: R.srcs, s.badReg r = false) → (∃ r ∈ R.srcs, s.poisoned r = true) → exec i s = .next (s.takeTrap (tr 0x13 1 0))) ∧
    ((∀ r ∈ R.dst :: R.srcs, s.badReg r = false) → (∀ r ∈ R.srcs, s.poisoned r = false) → ∀ a, s.badNext = some a →
      exec i s = .next (s.takeTrap (tr 0x05 0 a)))

/-! ### Memory accesses of the scalar words (R354-R356, R182, R179, R207, R208, R215, R216) -/

namespace Sys2Proof.Claims

/-- A byte as the log of a task shows it (R215): the newest logged byte of its 64-byte granule, else what memory holds. -/
def logged (log : List LogEntry) (a : Nat) (old : Byte) : Byte :=
  match log.find? (fun e => e.addr == a / 64 * 64) with
  | some e => if e.mask.getLsbD (a % 64) then BitVec.ofNat 8 (e.data.toNat / 2 ^ (8 * (a % 64))) else old
  | none => old
/-- A byte of HBM as a SEALED page of the executing agent's pass shows it without its log: as it stood at the last merge point (R215). -/
def snapByte (u : State) (a : Nat) : Byte :=
  ((u.passOf u.cu).bind (fun p => KMap.get none p.snap a)).getD (KMap.get 0 u.hbm a)
/-- Byte `j` at a local target that a load may read: memory without an uncorrectable error, or a device register of 8 bytes. -/
def localByte (u : State) (x : Phys) (n : Nat) : Option (Nat → Byte) :=
  match x with
  | .hbm pa sealed =>
    if u.hbmBad pa n then none
    else some (fun j => if sealed then logged u.curLog (pa + j) (snapByte u (pa + j)) else KMap.get 0 u.hbm (pa + j))
  | .loft v o =>
    let y := u.unitOf v
    if u.loftBad v o n then none else some (fun j => if y.loftResident then KMap.get 0 y.loft (o + j) else KMap.get 0 u.hbm (y.loftPA + o + j))
  | .cxl pa => if u.cxlPortDown pa || u.cxlBad pa n then none else some (fun j => KMap.get 0 u.cxl (pa + j))
  | .host pa => some (fun j => KMap.get 0 u.host (pa + j))
  | .mmio f o => some (fun j => BitVec.ofNat 8 ((u.mmioRead f o).toNat / 2 ^ (8 * j)))
  | _ => none
/-- The little-endian value of `n` bytes. -/
def littleEndian (b : Nat → Byte) : Nat → Nat
  | 0 => 0
  | n + 1 => littleEndian b n + (b n).toNat * 2 ^ (8 * n)
/-- Byte `j` of a value. -/
def byteOf (v j : Nat) : Byte := BitVec.ofNat 8 (v / 2 ^ (8 * j))
/-- The bytes of memory `m` and then those of `m'`: `n` bytes from `a` hold the value, every other byte is as it was. -/
def holds (m m' : Memory) (a n v : Nat) : Prop :=
  ∀ k, KMap.get 0 m' k = if a ≤ k ∧ k < a + n then byteOf v (k - a) else KMap.get 0 m k
/-- No wain command or routine executes: an access of one to a page of type 4 or 6 is noted in its command (R211). -/
def noCommand (u : State) : Bool := u.eng.isNone && (match u.who with | .wain _ => false | _ => true)
/-- No unit has a context record, read-only bytes of which a store does not change (R149), and the executing unit caches no view tile (R301). -/
def plainStores (s : State) : Prop :=
  (s.units.any (fun p => p.2.recorded)) = false ∧
  (s.cu.views.any (fun p => match p.2 with | some v => !v.tiles.isEmpty | none => false)) = false
/-- What a store by a page without SEALED does first: in a sealed pass the bytes of the last merge point are kept for its SEALED pages (R215). -/
def snapKept (u : State) (x : Phys) (n : Nat) : State :=
  match x with
  | .hbm pa false => u.keepSnap u.uid pa n
  | _ => u
/-- The marks of 8-byte words with an uncorrectable error, once `n` bytes at `o` are written: those wholly written are clear (R317). -/
def marksAfter (m m' : KMap Bool) (o n : Nat) : Prop :=
  ∀ k, KMap.get false m' k = (KMap.get false m k && !(decide (o ≤ 8 * k) && decide (8 * k + 8 ≤ o + n)))
/-- From `u`, `n` bytes of value `v` were stored at a local target and `w` is the result: nothing else changed. -/
def storedAt (u w : State) (x : Phys) (va : Word) (n v : Nat) : Prop :=
  match x with
  | .hbm pa false => w = { snapKept u x n with hbm := w.hbm } ∧ holds u.hbm w.hbm pa n v
  | .hbm pa true => ∃ l, logWrite (u.logCap u.cu) u.re.log pa va (leBytes n v) = some l ∧ w = u.modRe (fun x => { x with log := l })
  | .loft q o =>
    if (u.unitOf q).loftResident then
      w = u.modUnit q (fun y => { y with loft := (w.unitOf q).loft, loftPoison := (w.unitOf q).loftPoison }) ∧
        holds (u.unitOf q).loft (w.unitOf q).loft o n v ∧ marksAfter (u.unitOf q).loftPoison (w.unitOf q).loftPoison o n
    else w = { u with hbm := w.hbm } ∧ holds u.hbm w.hbm ((u.unitOf q).loftPA + o) n v
  | .cxl pa => w = { u with cxl := w.cxl } ∧ holds u.cxl w.cxl pa n v
  | .host pa => w = { u with host := w.host } ∧ holds u.host w.host pa n v
  | .mmio f o => w = u.mmioWrite u.keeper f o (BitVec.ofNat 64 v)
  | _ => False
/-- A local target that takes a store of `n` bytes: room in the log of a sealed page, a port that is up, no doorbell of a failed plan. -/
def takesStore (u : State) (x : Phys) (va : Word) (n v : Nat) : Prop :=
  match x with
  | .hbm pa true => u.curWriter = some u.rIdx ∧ (logWrite (u.logCap u.cu) u.re.log pa va (leBytes n v)).isSome = true
  | .hbm _ false => True
  | .loft _ _ => u.routineStream = none
  | .cxl pa => u.cxlPortDown pa = false
  | .host _ => noCommand u = true
  | .mmio f o => u.fireTrap f o (BitVec.ofNat 64 v) = none
  | _ => False
/-- What an acquire at a scope discards: at `.dm` and wider the die's cached lines of the address space, and no fill in flight installs (R61). -/
def acquired (s : State) (scope : Nat) : State :=
  if scope < 4 then s
  else
    let mine (die part asid : Nat) : Bool := die == s.curCore / 64 && part == s.cu.part && asid == s.cu.asid
    { s with
      fabric := s.fabric.filter (fun x => !mine x.die x.part x.asid)
      fills := s.fills.map (fun f => if mine f.die f.part f.asid then { f with noInstall := true } else f) }
/-- Orders 1 and 3 acquire (R201). -/
def acquires (m : MemQ) : Bool := m.ord == 1 || m.ord == 3
/-- Orders 2 and 3 of a store, AMO or CAS release (R201). -/
def releases (m : MemQ) : Bool := m.ord == 2 || m.ord == 3
/-- Bytes of a type. -/
def bytesOf (t : Ty) : Nat := tyWidth t / 8
/-- The effective address (R354). -/
def addr (s : State) (a : Reg) (off : BitVec 20) : Word := wrap ((s.rd a).toInt + off.toInt)
/-- The integer an atomic's operand or old value stands for. -/
def asInt (t : Ty) (n : Nat) : Int := if tySigned t && n.testBit (tyWidth t - 1) then (n : Int) - 2 ^ tyWidth t else n
/-- R355's new value. -/
def amoRule (op : AmoOp) (t : Ty) (old p : Nat) : Nat :=
  match op with
  | .swap => p
  | .add => (old + p) % 2 ^ tyWidth t
  | .and => old &&& p
  | .or => old ||| p
  | .xor => old ^^^ p
  | .min => if asInt t p < asInt t old then p else old
  | .max => if asInt t old < asInt t p then p else old
  | .fadd => (fadd (fmtOf t) old p).1
  | .fmin => (fminmax (fmtOf t) false old p).1
  | .fmax => (fminmax (fmtOf t) true old p).1
end Sys2Proof.Claims

/-- R354: a load of a local target completes with the value of its bytes, extended by its type; memory is as it was. -/
def Obligations.LoadsReadTheirBytes : Prop :=
  ∀ (t : Ty) (d a : Reg) (off : BitVec 20) (m : MemQ) (s u : State) (x : Phys) (b : Nat → Byte), s.ready [d, a] [a] = true →
    s.loadGate m = none → s.xlate s.xc .load false (addr s a off) (bytesOf t) (bytesOf t) = .ok x u →
    viewOf u.cu (addr s a off).toNat (bytesOf t) = none → localByte u x (bytesOf t) = some b → (∀ pa, x = .host pa → noCommand u = true) →
    ∃ w, exec (.ld t d a off m) s = .next w ∧ w.rd d = s.written d (extended t (littleEndian b (bytesOf t))) ∧ w.pc = s.follow ∧
      ScalarFrame (if acquires m then acquired u m.scope.toNat else u) w (some d) 0 (s.pc + 8)

/-- R354: a store to a local target completes, its bytes hold the low bits of g[d], and nothing else changes. -/
def Obligations.StoresWriteTheirBytes : Prop :=
  ∀ (t : Ty) (d a : Reg) (off : BitVec 20) (m : MemQ) (s u : State) (x : Phys), s.ready [d, a] [d, a] = true →
    s.orderGate (releases m) m true = none → s.xlate s.xc .store false (addr s a off) (bytesOf t) (bytesOf t) = .ok x u → plainStores u →
    takesStore u x (addr s a off) (bytesOf t) ((s.rd d).toNat % 2 ^ tyWidth t) →
    ∃ w, storedAt u w x (addr s a off) (bytesOf t) ((s.rd d).toNat % 2 ^ tyWidth t) ∧ exec (.st t d a off m) s = .next (w.ran (s.pc + 8))

/-- R355, R356, R69: an AMO or CAS of HBM or a loft reads the old value into g[d] and stores the new one, in one step. -/
def Obligations.AtomicsReadAndWriteOnce : Prop :=
  ∀ (t : Ty) (d a b : Reg) (off : BitVec 20) (m : MemQ) (op : AmoOp) (s u : State) (x : Phys) (y : Nat → Byte), s.ready [d, a, b] [d, a, b] = true →
    s.orderGate (releases m) m false = none → s.xlate s.xc .atomic false (addr s a off) (bytesOf t) (bytesOf t) = .ok x u → plainStores u →
    localByte u x (bytesOf t) = some y →
    (match x with | .hbm pa z => z = false ∧ u.lineBusy pa = false | .loft _ _ => True | _ => False) →
    let old := littleEndian y (bytesOf t)
    let lowOf (r : Reg) : Nat := (s.rd r).toNat % 2 ^ tyWidth t
    let done (w : State) : State := (if acquires m then acquired w m.scope.toNat else w).wr d (extended t old)
    (∃ w, storedAt u w x (addr s a off) (bytesOf t) (amoRule op t old (lowOf d)) ∧
      exec (.amo op t d a off m) s = .next ((done w).ran (s.pc + 8))) ∧
    (old = lowOf d → ∃ w, storedAt u w x (addr s a off) (bytesOf t) (lowOf b) ∧ exec (.cas t d a b off m) s = .next ((done w).ran (s.pc + 8))) ∧
    (old ≠ lowOf d → exec (.cas t d a b off m) s = .next ((done (snapKept u x (bytesOf t))).ran (s.pc + 8)))

/-- R354-R356, R182, R312: an access that fails its checks traps precisely on its word. -/
def Sys2Proof.Claims.failedAccessesTrapOnTheirWord : Prop :=
  ∀ (t : Ty) (d a b : Reg) (off : BitVec 20) (m : MemQ) (op : AmoOp) (s u : State) (f : TrapInfo), s.ready [d, a, b] [d, a, b] = true →
    (s.loadGate m = none → s.xlate s.xc .load false (addr s a off) (bytesOf t) (bytesOf t) = .trap f u →
      exec (.ld t d a off m) s = .next (u.dropReplies.takeTrap f)) ∧
    (s.orderGate (releases m) m true = none → s.xlate s.xc .store false (addr s a off) (bytesOf t) (bytesOf t) = .trap f u →
      exec (.st t d a off m) s = .next (u.dropReplies.takeTrap f)) ∧
    (s.orderGate (releases m) m false = none → s.xlate s.xc .atomic false (addr s a off) (bytesOf t) (bytesOf t) = .trap f u →
      exec (.amo op t d a off m) s = .next (u.dropReplies.takeTrap f) ∧ exec (.cas t d a b off m) s = .next (u.dropReplies.takeTrap f))

/-- R182, R174, R176, R177, R179, R181, R184: a translation that succeeds grants what the leaf allows, keeps to the partition, and changes nothing
but A and D of its leaf and what is cached; one that fails changes only what is cached. -/
def Sys2Proof.Claims.translationKeepsToThePartition : Prop :=
  ∀ (s u : State) (c : XCtx) (k : Kind) (vec : Bool) (va : Word) (n al : Nat),
    (∀ x, s.xlate c k vec va n al = .ok x u →
      (∃ l, s.leafFor c va = some (some l) ∧ (pteK l.pte = true → c.keep = true) ∧
        ((k = .load ∨ k = .atomic) → pteR l.pte = true) ∧ ((k = .store ∨ k = .atomic) → pteW l.pte = true) ∧ (k = .fetch → pteX l.pte = true)) ∧
      va.toNat % al = 0 ∧
      (∀ pa z, x = .hbm pa z → (s.partOf c.part).holds pa = true ∧ (c.keep = false → (s.partOf c.part).hidden pa = false)) ∧
      (∀ pa, x = .cxl pa → (s.partOf c.part).cxlBase ≤ pa ∧ pa < (s.partOf c.part).cxlBase + (s.partOf c.part).cxlSize) ∧
      (∀ q o, x = .loft q o → c.uid.isSome = true ∧ k ≠ .fetch) ∧
      u = { s with hbm := u.hbm, tlb := u.tlb, ptrs := u.ptrs, parts := u.parts } ∧
      (∀ p, u.partOf p = { s.partOf p with dir := (u.partOf p).dir }) ∧
      (∀ a, KMap.get 0 u.hbm a ≠ KMap.get 0 s.hbm a → ∃ e l, s.leafFor c va = some (some l) ∧ l.entry = some e ∧ a = e ∧
        KMap.get 0 u.hbm a = KMap.get 0 s.hbm a ||| (if k = .store ∨ k = .atomic then 0x60 else 0x20))) ∧
    (∀ t, s.xlate c k vec va n al = .trap t u → t.tval = va ∧ u = { s with ptrs := u.ptrs, parts := u.parts } ∧
      (∀ p, u.partOf p = { s.partOf p with dir := (u.partOf p).dir })) ∧
    (∀ w, s.xlate c k vec va n al ≠ .wait w u)

/-- R174-R182, R312, R354-R356: an access that fails its checks traps precisely, and a translation keeps to its partition. -/
def Obligations.FailedAccessesTrapAndTranslationsConfine : Prop :=
  Claims.failedAccessesTrapOnTheirWord ∧ Claims.translationKeepsToThePartition

/-- R216, R215: a logged store is read back through the log, and every other byte reads as before. -/
def Sys2Proof.Claims.loggedStoresAreReadBack : Prop :=
  ∀ (cap : Nat) (log new : List LogEntry) (pa : Nat) (va : Word) (l : List Byte), logWrite cap log pa va l = some new → pa % 64 + l.length ≤ 64 →
    (∀ j, j < l.length → ∀ old, logged new (pa + j) old = l.getD j 0) ∧
    (∀ a, (a < pa ∨ pa + l.length ≤ a) → ∀ old, logged new a old = logged log a old) ∧
    (new.length ≤ log.length ∨ new.length = log.length + 1 ∧ log.length < cap)

/-- R206, R207, R65, R71, R61, R189, R297: FENCE waits for the stores of its task (or routine) that its acknowledgement covers, and `fence.sc` for
earlier `.sc` stores, raises a recorded failure, and then discards cached lines and the fetch buffer; VFENCE of an owned sheaf completes (R208). -/
def Sys2Proof.Claims.fencesCompleteWhenStoresAre : Prop :=
  ∀ (s : State) (m : MemQ), s.ready [] [] = true →
    let need := if m.ack = 0 then (if 4 ≤ m.scope.toNat then 2 else 0) else m.ack.toNat
    let routine := match s.who with | .wain _ => true | _ => false
    let mine := s.re.stores.filter (fun t => if routine then t.agent == s.agentNo else decide (t.agent < 10))
    let scOut := m.ord = 3 ∧ ∃ t ∈ mine, t.hold = 3
    let pending := scOut ∨ (need = 1 ∧ ∃ t ∈ mine, t.accepted = false) ∨ (2 ≤ need ∧ mine ≠ [])
    ((m.ord = 1 ∨ ¬pending ∧ (need = 0 ∨ routine = true ∨ s.re.fail = none)) → ∃ t, exec (.fence m) s = .next t ∧
      t = (match s.who with
        | .reeve _ => (if m.ord = 2 then s else acquired s m.scope.toNat).modRe (fun x => { x with fetchBuf := [] })
        | _ => if m.ord = 2 then s else acquired s m.scope.toNat).ran (s.pc + 8)) ∧
    (m.ord ≠ 1 → pending → exec (.fence m) s = .next (s.markWait .fence)) ∧
    (m.ord ≠ 1 → ¬pending → need ≠ 0 → routine = false → ∀ f, s.re.fail = some f → ∃ v,
      exec (.fence m) s = .next ((s.modRe (fun x => { x with fail := none })).dropReplies.takeTrap v) ∧ v.code = f.code ∧ v.tval = f.addr ∧
        v.late = true) ∧
    (∀ r sr n, s.who = .reeve r → s.cu.owns r n.toNat = true → exec (.vfence sr n) s = .next (s.ran (s.pc + 8))) ∧
    (∀ r sr n, s.who = .reeve r → s.cu.owns r n.toNat = false →
      exec (.vfence sr n) s = .next (s.dropReplies.takeTrap (tr 0x01 3 (encode (.vfence sr n)))))

/-- R373: NOP changes nothing but the program counter. -/
def Obligations.NopOnlyAdvances : Prop :=
  ∀ s : State, s.ready [] [] = true → exec .nop s = .next (s.ran (s.pc + 8)) ∧ ScalarFrame s (s.ran (s.pc + 8)) none 0 (s.pc + 8)

/-! ### Timeline counters, dispatch, barriers, system words (R357-R375) -/

namespace Sys2Proof.Claims

/-- Counter `n` of the executing unit. -/
def counter (s : State) (n : Nat) : Word := KMap.get 0 s.cu.tl n
/-- The amount of TLWAIT and TLADV: (g[a] + imm24) mod 2^64. -/
def amount (s : State) (a : Reg) (imm : BitVec 24) : Nat := ((s.rd a).toNat + imm.toNat) % 2 ^ 64
/-- Outside the executing unit nothing but what the end of a word drops changed. -/
def onlyUnit (s t : State) : Prop :=
  t = { s.dropReplies with units := t.units } ∧ ∀ u, u ≠ s.uid → t.unitOf u = s.unitOf u
/-- A reeve that has completed its word. -/
def doneAt (x : Reeve) (next : Word) : Reeve := { x with pc := next, wait := none, waited := 0 }
/-- Every store the release of a scope covers is acknowledged (R65). -/
def releaseDone (s : State) (scope : Nat) : Prop := scope < 4 ∨ (s.re.stores.filter (fun t => decide (t.agent < 10)) = [] ∧ s.re.fail = none)
end Sys2Proof.Claims

/-- R359: TLRD writes the counter's value to g[d], and nothing else. -/
def Obligations.TlrdReadsItsCounter : Prop :=
  ∀ (s : State) (d : Reg) (n : BitVec 4), s.ready [d] [] = true →
    ∃ t, exec (.tlrd d n) s = .next t ∧ t.rd d = s.written d (counter s n.toNat) ∧ ScalarFrame s t (some d) 0 (s.pc + 8) ∧
      t.fabric = s.fabric ∧ t.fills = s.fills

/-- R358, R360, R84, R139, R211: TLWAIT ends when its counter holds n, waits while it holds less, and traps for a failed plan; TLADV advances its
counter once, saturating, and sets the event latches of the unit's reeves. -/
def Sys2Proof.Claims.timelineWaitsAndAdvances : Prop :=
  ∀ (s : State) (a : Reg) (n : BitVec 4) (imm : BitVec 24) (scope : BitVec 3) (r : Nat), s.who = .reeve r → s.ready [a] [a] = true →
    let k := amount s a imm
    (k ≤ (counter s n.toNat).toNat → exec (.tlwait a n imm) s = .next ((match KMap.get none s.cu.tlWide n.toNat with
      | some v => if v < k then acquired s 4 else s
      | none => s).ran (s.pc + 8))) ∧
    ((counter s n.toNat).toNat < k → s.planFailed n.toNat = none → exec (.tlwait a n imm) s = .next (s.markWait .tlwait)) ∧
    (∀ p, (counter s n.toNat).toNat < k → s.planFailed n.toNat = some p → exec (.tlwait a n imm) s =
      .next (s.dropReplies.takeTrap (tr 0x0D (p.failed.getD 0).toNat (BitVec.ofNat 64 p.handle)))) ∧
    (releaseDone s scope.toNat → ∃ t, exec (.tladv a n imm scope) s = .next t ∧ onlyUnit s t ∧
      t.cu = { s.dropReplies.cu with tl := t.cu.tl, tlWide := t.cu.tlWide, reeves := t.cu.reeves } ∧
      (∀ j, KMap.get 0 t.cu.tl j = if j = n.toNat then
        (if (counter s j).toNat + k < 2 ^ 64 then BitVec.ofNat 64 ((counter s j).toNat + k) else BitVec.ofNat 64 (2 ^ 64 - 1)) else counter s j) ∧
      (∀ q, t.cu.reeveOf q =
        let x := s.cu.reeveOf q
        let y := { x with latch := x.latch || (decide (k ≠ 0) && (q == 0 || (q == 1 && decide (1 < s.cu.rv)))) }
        if q = r then doneAt y (s.pc + 8) else y))

/-- R84, R139, R189, R206-R208, R211, R358, R360: FENCE, VFENCE, TLWAIT and TLADV. -/
def Obligations.FencesAndTimelineWords : Prop :=
  Claims.fencesCompleteWhenStoresAre ∧ Claims.timelineWaitsAndAdvances

/-- R361-R364, R155, R158, R159, R162, R163: VBLK queues a block, VRPL pops the oldest reply, VJOIN waits for an idle sheaf, LPART divides the lanes
anew; each makes its ownership check and waits while it must. -/
def Sys2Proof.Claims.dispatchWords : Prop :=
  ∀ (s : State) (r : Nat) (a b d : Reg) (k : BitVec 3) (n : BitVec 4) (h : BitVec 2), s.who = .reeve r → s.ready [d] [] = true →
    let args := (List.range n.toNat).map (fun i => b + BitVec.ofNat 6 i)
    let x := s.cu.sheafOf k.toNat
    let idle (y : Sheaf) : Prop := y.busy = false ∧ y.queue = []
    -- VBLK checks its address before it reads an argument (R362)
    (s.cu.owns r k.toNat = true →
      (s.poisoned a = true → exec (.vblk a b k n) s = .next (s.dropReplies.takeTrap (tr 0x13 1 0))) ∧
      (s.poisoned a = false → (s.rd a).toNat % 8 ≠ 0 → exec (.vblk a b k n) s = .next (s.dropReplies.takeTrap (tr 0x05 0 (s.rd a)))) ∧
      (s.poisoned a = false → (s.rd a).toNat % 8 = 0 →
        ((∃ q ∈ args, s.poisoned q = true) → exec (.vblk a b k n) s = .next (s.dropReplies.takeTrap (tr 0x13 1 0))) ∧
        ((∀ q ∈ args, s.poisoned q = false) →
          (s.lpartHeld = false → x.queue.length < 4 → exec (.vblk a b k n) s = .next ((s.modCu (fun u =>
            { u.modSheaf k.toNat (fun y => { y with queue := x.queue ++ [⟨s.rd a, args.map s.rd, u.issue⟩] }) with issue := u.issue + 1 })).ran
              (s.pc + 8))) ∧
          (4 ≤ x.queue.length → exec (.vblk a b k n) s = .next (s.markWait .queue))))) ∧
    (s.cu.owns r k.toNat = false →
      exec (.vblk a b k n) s = .next (s.dropReplies.takeTrap (tr 0x01 3 (encode (.vblk a b k n)))) ∧
      exec (.vrpl d k) s = .next (s.dropReplies.takeTrap (tr 0x01 3 (encode (.vrpl d k)))) ∧
      exec (.vjoin k) s = .next (s.dropReplies.takeTrap (tr 0x01 3 (encode (.vjoin k))))) ∧
    (s.cu.owns r k.toNat = true →
      (∀ v rest, x.replies = v :: rest → exec (.vrpl d k) s =
        .next (((s.modCu (fun u => u.modSheaf k.toNat (fun y => { y with replies := rest }))).wr d v).ran (s.pc + 8))) ∧
      (x.replies = [] → exec (.vrpl d k) s = .next (s.markWait (.vrpl k.toNat))) ∧
      (idle x → exec (.vjoin k) s = .next (s.ran (s.pc + 8))) ∧
      (¬idle x → exec (.vjoin k) s = .next (s.markWait (.vjoin k.toNat)))) ∧
    ((∀ j < 8, idle (s.cu.sheafOf j)) → s.cu.mq = [] → ∃ t, exec (.lpart h) s = .next t ∧ onlyUnit s t ∧
      t.cu = { s.dropReplies.cu with lpart := t.cu.lpart, sheaves := t.cu.sheaves, reeves := t.cu.reeves } ∧ t.re = doneAt s.re (s.pc + 8) ∧
      t.cu.nSheaves = 2 ^ h.toNat ∧
      (∀ j < 2 ^ h.toNat, t.cu.owner j = if s.cu.rv = 2 ∧ (2 ^ h.toNat + 1) / 2 ≤ j then 1 else 0) ∧
      (∀ j < 8, (t.cu.sheafOf j).vl = 0 ∧ (t.cu.sheafOf j).vt = 0x8000000000000000 ∧ (t.cu.sheafOf j).v = [] ∧ (t.cu.sheafOf j).m = [] ∧
        (t.cu.sheafOf j).h = [] ∧ (t.cu.sheafOf j).lp = [] ∧ (t.cu.sheafOf j).replies = [] ∧ (t.cu.sheafOf j).vfx = (s.cu.sheafOf j).vfx)) ∧
    (((∃ j < 8, ¬idle (s.cu.sheafOf j)) ∨ s.cu.mq ≠ []) → exec (.lpart h) s = .next (s.markWait .lpart))

/-- R365-R367, R213, R139: BAR and `bar.seal` arrive once and go on when their episode is complete, WFE takes the event latch or its limit, and
YIELD gives up the turn in task mode when another unit is ready. -/
def Sys2Proof.Claims.barriersEventsAndYield : Prop :=
  ∀ (s : State) (r : Nat) (a : Reg), s.who = .reeve r → s.ready [a] [a] = true →
    (∀ i sealing, (i, sealing) ∈ [(Instr.bar, false), (Instr.barSeal, true)] →
      (∀ k, s.episode s.cu = some k → s.re.barAt = none → exec i s = .next ((s.modCu (fun u => u.modReeve r (fun x =>
        { x with arrivals := x.arrivals + 1, barAt := some (x.arrivals + 1), barSealed := sealing }))).markWait .bar)) ∧
      (s.episode s.cu = none → s.re.barAt = none → exec i s = .next (s.ran (s.pc + 8))) ∧
      (∀ k e, s.episode s.cu = some e → s.re.barAt = some k → k ≤ e →
        exec i s = .next ((s.modRe (fun x => { x with barAt := none, barSealed := false })).ran (s.pc + 8))) ∧
      (∀ k e, s.episode s.cu = some e → s.re.barAt = some k → e < k → exec i s = .next (s.markWait .bar))) ∧
    ((s.re.latch = true ∨ s.re.wfeLeft = some 0) →
      exec (.wfe a) s = .next ((s.modRe (fun x => { x with latch := false, wfeLeft := none })).ran (s.pc + 8))) ∧
    (s.re.latch = false → s.re.wfeLeft = none → s.rd a ≠ 0 →
      exec (.wfe a) s = .next ((s.modRe (fun x => { x with wfeLeft := some (s.rd a).toNat })).markWait .wfe)) ∧
    (s.re.latch = false → s.re.wfeLeft = none → s.rd a = 0 → exec (.wfe a) s = .next (s.markWait .wfe)) ∧
    ((s.keeper = true ∨ s.readyOn s.cu.core = []) → exec .yield s = .next (s.ran (s.pc + 8))) ∧
    (s.keeper = false → rising s.units → (s.coreOf s.cu.core).running = some s.uid → (s.coreOf s.cu.core).unpowered = false → (s.coreOf s.cu.core).rerun = [] →
      (s.coreOf s.cu.core).preloaded = none → (s.coreOf s.cu.core).shadow = [] → s.readyOn s.cu.core ≠ [] →
      (∀ p ∈ s.readyOn s.cu.core, p.1 ≠ s.cu.idx ∧ p.2 ≠ s.uid ∧ s.contextOk p.2 = true) →
      ∃ t v, exec .yield s = .next t ∧ (t.unitOf s.uid).place = .ready ∧ ((t.unitOf s.uid).reeveOf r).pc = s.pc + 8 ∧
        ((t.unitOf s.uid).reeveOf r).g = s.re.g ∧ v ∈ s.readyOn s.cu.core ∧ (t.coreOf s.cu.core).running = some v.2 ∧
        (t.unitOf v.2).place = .running)

/-- R365: in a sheaf BAR arrives and goes on like its reeve's. -/
def Sys2Proof.Claims.sheavesArriveAtBarriers : Prop :=
  ∀ (s : State) (k : Nat), s.who = .sheaf k → s.ready [] [] = true →
    (∀ e, s.episode s.cu = some e → s.sh.arrived = none → ∃ t, exec .bar s = .next t ∧ (t.cu.sheafOf k).arrived = some (s.re.arrivals + 1) ∧
      (t.cu.reeveOf (s.cu.owner k)).arrivals = s.re.arrivals + 1 ∧ (t.cu.sheafOf k).wait = some .bar ∧ (t.cu.sheafOf k).pc = s.pc) ∧
    (∀ e n, s.episode s.cu = some e → s.sh.arrived = some n → n ≤ e →
      exec .bar s = .next ((s.modSh (fun x => { x with arrived := none })).ran (s.pc + 8)))

/-- R139, R213, R365-R367: BAR, WFE and YIELD on a reeve, and BAR on a sheaf. -/
def Obligations.BarriersEventsYieldAndSheafArrivals : Prop :=
  Claims.barriersEventsAndYield ∧ Claims.sheavesArriveAtBarriers

namespace Sys2Proof.Claims
/-- The value of a system register by its number (R337), of sheaf `k` where a sheaf owns it. -/
def sysOf (s : State) (num k : Nat) : Word :=
  let x := s.cu.sheafOf k
  let p := s.partOf s.cu.part
  ([BitVec.ofNat 64 x.vl, x.vt, x.vstrt, s.re.rowp, x.rrb, x.stg, s.cu.lpart, s.re.fx, x.vfx, s.re.cause, s.re.epc, s.re.tval, p.tvec, p.gatebase,
    s.re.budget, s.re.cyc, s.tim, BitVec.ofNat 64 s.re.taskId] : List Word).getD num 0
/-- The sheaf-owned registers: `%vl`, `%vt`, `%vstrt`, `%rrb`, `%stg`, `%vfx`. -/
def ofSheaf (num : Nat) : Bool := [0x00, 0x01, 0x02, 0x04, 0x05, 0x08].contains num
/-- The registers SYSWR writes in a mode (R337): `%vstrt` in keeper mode only. -/
def writable (num : Nat) (keeper : Bool) : Bool :=
  [0x00, 0x01, 0x04, 0x05, 0x07, 0x08, 0x09, 0x0A, 0x0B, 0x0C, 0x0D].contains num || (num == 0x02 && keeper)
/-- What a written register then holds (R369, R303, R304, R339). -/
def sysStored (s : State) (num k : Nat) (v : Word) : Word :=
  let x := s.cu.sheafOf k
  let vlm := if x.vt.getLsbD 63 then 0 else (32 / s.cu.nSheaves) * 512 / (8 * 2 ^ (x.vt.toNat % 8)) * 2 ^ (x.vt.toNat / 8 % 8) *
    (if x.vt.toNat / 64 % 32 = 16 ∨ x.vt.toNat / 64 % 32 = 17 then 8 else 1)
  match num with
  | 0x00 => BitVec.ofNat 64 (if v.toNat % 2 ^ 17 ≤ vlm then v.toNat % 2 ^ 17 else vlm)
  | 0x01 => if vtBad v then BitVec.ofNat 64 (v.toNat % 2 ^ 63 + 2 ^ 63) else BitVec.ofNat 64 (v.toNat % 2 ^ 63)
  | 0x02 => BitVec.ofNat 64 (v.toNat % 2 ^ 17)
  | 0x07 => BitVec.ofNat 64 (v.toNat % 2 ^ 6)
  | 0x08 => BitVec.ofNat 64 (v.toNat % 2 ^ 7)
  | 0x09 => BitVec.ofNat 64 (v.toNat % 2 ^ 31)
  | 0x0C => BitVec.ofNat 64 (v.toNat / 8 * 8)
  | _ => v
/-- A sheaf whose registers its reeve may reach: idle, or stopped by a trap (R337). -/
def reachable (s : State) (k : Nat) : Bool := (s.cu.sheafOf k).stopped || !(s.cu.sheafOf k).busy
end Sys2Proof.Claims

/-- R369, R337: SYSRD reads each register, and SYSWR replaces each writable one as its rule says and no other system register. -/
def Sys2Proof.Claims.systemRegisters : Prop :=
  ∀ (s : State) (r : Nat) (a : Reg) (k : BitVec 3) (num : BitVec 6), s.who = .reeve r → s.ready [a] [a] = true → sysOk k num = true →
    (keeperOnly (.sysrd a k num) = true → s.keeper = true) →
    ((ofSheaf num.toNat = true → s.cu.owns r k.toNat = true) →
      ((ofSheaf num.toNat = true → reachable s k.toNat = true) →
        (∃ t, exec (.sysrd a k num) s = .next t ∧ t.rd a = s.written a (sysOf s num.toNat k.toNat) ∧ ScalarFrame s t (some a) 0 (s.pc + 8)) ∧
        (writable num.toNat s.keeper = true → ∃ t, exec (.syswr a k num) s = .next t ∧
          sysOf t num.toNat k.toNat = sysStored s num.toNat k.toNat (s.rd a) ∧
          (∀ n j, (n ≠ num.toNat ∨ ofSheaf n = true ∧ j ≠ k.toNat) → sysOf t n j = sysOf s n j) ∧
          (∀ q, t.rd q = s.rd q) ∧ t.pc = s.pc + 8 ∧ t.hbm = s.hbm ∧ (∀ u, u ≠ s.uid → t.unitOf u = s.unitOf u))) ∧
      (ofSheaf num.toNat = true → reachable s k.toNat = false → exec (.sysrd a k num) s = .next (s.markWait .queue))) ∧
    (ofSheaf num.toNat = true → s.cu.owns r k.toNat = false →
      exec (.sysrd a k num) s = .next (s.dropReplies.takeTrap (tr 0x01 3 (encode (.sysrd a k num)))) ∧
      exec (.syswr a k num) s = .next (s.dropReplies.takeTrap (tr 0x01 3 (encode (.syswr a k num))))) ∧
    (writable num.toNat s.keeper = false → exec (.syswr a k num) s = .next (s.dropReplies.takeTrap (tr 0x01 3 (encode (.syswr a k num)))))

namespace Sys2Proof.Claims
/-- The reeve's task may end (R371): its sheaves idle, no matrix entry of its own, the remote stores of its reeve and
sheaves accepted. -/
def mayEnd (s : State) (r : Nat) : Prop :=
  (∀ k < s.cu.nSheaves, s.cu.owner k = r → (s.cu.sheafOf k).busy = false ∧ (s.cu.sheafOf k).queue = []) ∧
  (∀ e ∈ s.cu.mq, e.reeve ≠ r) ∧ (∀ t ∈ s.re.stores, t.agent < 10 → t.accepted = true)
/-- A reeve whose task has ended. -/
def endedReeve (x : Reeve) : Reeve :=
  { x with ended := true, link := none, inHandler := false, mode := .task, wait := none, waited := 0 }
end Sys2Proof.Claims

/-- R371, R163, R297, R116: END ends the task once its conditions hold and waits before; the last task's END takes the unit off its core, a routine's
END finishes its command, and the initial keeper task's END makes its partition ACTIVE. -/
def Sys2Proof.Claims.endWords : Prop :=
  ∀ (s : State), s.ready [] [] = true →
    (∀ r, s.who = .reeve r → s.re.fail = none →
      (mayEnd s r → s.cu.initial = false → (∃ q < s.cu.rv, q ≠ r ∧ (s.cu.reeveOf q).ended = false) →
        ∃ t, exec .endTask s = .next t ∧ t.re = endedReeve s.re ∧ t = { s with units := t.units } ∧
          (∀ u, u ≠ s.uid → t.unitOf u = s.unitOf u) ∧ (∀ q, q ≠ r → t.cu.reeveOf q = s.cu.reeveOf q) ∧
          (∀ k, t.cu.sheafOf k = { s.cu.sheafOf k with
            replies := if k < s.cu.nSheaves ∧ s.cu.owner k = r then [] else (s.cu.sheafOf k).replies })) ∧
      (mayEnd s r → s.cu.initial = false → r < s.cu.rv → rising s.units → (∀ q < s.cu.rv, q = r ∨ (s.cu.reeveOf q).ended = true) →
        ∃ t, exec .endTask s = .next t ∧ (t.unitOf s.uid).place = .over ∧ (t.coreOf s.cu.core).running ≠ some s.uid ∧
          (alone s → t.hbm = s.hbm)) ∧
      (¬mayEnd s r → ∃ w, exec .endTask s = .next (s.markWait w)) ∧
      (mayEnd s r → s.cu.initial = true → ∃ t, exec .endTask s = .next t ∧ t.mgst = .ready ∧ t.mgres = 0 ∧ t.unitOf s.uid = Unit.none ∧
        (t.partOf s.cu.part).st = if (s.partOf s.cu.part).pcctl.getLsbD 0 then .quiesced else .active)) ∧
    (∀ c, s.who = .wain c → ∃ t, exec .endTask s = .next t ∧ t = { s with cores := t.cores } ∧ (t.coreOf c).routine = none ∧
      (∀ w ∈ (t.coreOf c).wq, w.seq = (s.rt c).seq → w.finished = true) ∧ (∀ j, j ≠ c → t.coreOf j = s.coreOf j))

/-- R116, R155, R158, R159, R162, R163, R361-R364, R371: VBLK, VRPL, VJOIN, LPART and END. -/
def Obligations.DispatchAndEndWords : Prop :=
  Claims.dispatchWords ∧ Claims.endWords

namespace Sys2Proof.Claims
/-- The pages that a `tlbinv.pg` of `va` covers: its 4 KiB page and every cached leaf of the space that holds it (R372, R175). -/
def pageCovered (s : State) (asid : Nat) (va : Word) (a : Nat) : Bool :=
  (decide (va.toNat / 4096 * 4096 ≤ a) && decide (a < va.toNat / 4096 * 4096 + 4096)) ||
  s.tlb.any (fun e => e.part == s.cu.part && e.asid == asid && decide (e.base ≤ va.toNat) && decide (va.toNat < e.base + e.size) &&
    decide (e.base ≤ a) && decide (a < e.base + e.size))
/-- After an invalidation no copy of what it covers stands, and every other copy does (R186); cached pointer entries of every covered address
space go (R184), and no fill in flight brings a covered line back. `c` covers an address of a space, `a` a space. -/
def invalidated (s t : State) (r : Nat) (c : Nat → Nat → Bool) (a : Nat → Bool) : Prop :=
  t.tlb = s.tlb.filter (fun e => !(e.part == s.cu.part && c e.asid e.base)) ∧
  t.ptrs = s.ptrs.filter (fun e => !(e.part == s.cu.part && a e.asid)) ∧
  (∀ f ∈ t.fills, f.part = s.cu.part → c f.asid f.va = true → f.noInstall = true) ∧
  t.fabric = s.fabric.filter (fun l => !(l.part == s.cu.part && c l.asid l.va)) ∧
  t.migration = s.migration.filter (fun m => !(m.part == s.cu.part && c m.asid m.base)) ∧
  t.re = { doneAt s.re (s.pc + 8) with fetchBuf := [] } ∧ t.hbm = s.hbm ∧ s.who = .reeve r
end Sys2Proof.Claims

/-- R372, R186, R189, R176: TLBINV drops the covered translations, cached lines and counters, re-reads the directory for kinds 1 and 2, and refills
the fetch buffer; it waits for accesses by old entries. R374: SHSET stores the descriptor it reads. -/
def Sys2Proof.Claims.translationWords : Prop :=
  ∀ (s : State) (r : Nat) (a b : Reg), s.who = .reeve r → s.ready [a, b] [a, b] = true → s.keeper = true →
    let space := (s.rd b).toNat % 2 ^ 16
    (canonical (s.rd a) = false → exec (.tlbinvPg a b) s = .next (s.dropReplies.takeTrap (tr 0x06 0 (s.rd a)))) ∧
    (canonical (s.rd a) = true →
      s.invBusy s.cu.part (some space) (pageCovered s space (s.rd a)) = false →
      ∃ t, exec (.tlbinvPg a b) s = .next t ∧ invalidated s t r (fun x p => x == space && pageCovered s space (s.rd a) p) (· == space) ∧ t.parts = s.parts) ∧
    (s.invBusy s.cu.part (some space) (fun _ => true) = false →
      ∃ t, exec (.tlbinvAs b) s = .next t ∧ invalidated s t r (fun x _ => x == space) (· == space) ∧
        (t.partOf s.cu.part).dir = (s.partOf s.cu.part).dir.filter (fun e => !(e.1 == space))) ∧
    (s.invBusy s.cu.part none (fun _ => true) = false →
      ∃ t, exec .tlbinvAll s = .next t ∧ invalidated s t r (fun _ _ => true) (fun _ => true) ∧ (t.partOf s.cu.part).dir = []) ∧
    (s.invBusy s.cu.part none (fun _ => true) = true → exec .tlbinvAll s = .next (s.markWait .fence)) ∧
    ((s.rd b).toNat % 64 ≠ 0 → exec (.shset a b) s = .next (s.dropReplies.takeTrap (tr 0x05 0 (s.rd b)))) ∧
    (∀ x u l v, (s.rd b).toNat % 64 = 0 → s.loadGate plainMem = none → s.xlate s.xc .load false (s.rd b) 64 64 = .ok x u →
      (u.migrateAll [(s.rd b, x)]).loadAt 0 (s.rd b) 64 x = .ok l v →
      v.pc = s.pc → v.cu.part = s.cu.part → v.cu.asid = s.cu.asid →
      let e := v.dirEntry s.cu.part s.cu.asid
      ((s.rd a).toNat < e.toNat / 2 ^ 64 % 2 ^ 11 → ∃ t : State, exec (.shset a b) s = .next (t.ran (s.pc + 8)) ∧
        t = { v with hbm := t.hbm, hbmPoison := t.hbmPoison, shards := t.shards } ∧
        (∀ j, KMap.get false t.hbmPoison j = (KMap.get false v.hbmPoison j && j != e.toNat / 2 ^ 94 % 2 ^ 31 * 64 + (s.rd a).toNat)) ∧
        holds v.hbm t.hbm (e.toNat / 2 ^ 94 % 2 ^ 31 * 4096 + 64 * (s.rd a).toNat) 64 (leVal l % 2 ^ 512) ∧
        KMap.get 0 t.shards (shKey s.cu.part s.cu.asid (s.rd a).toNat) = BitVec.ofNat 512 (leVal l)) ∧
      (e.toNat / 2 ^ 64 % 2 ^ 11 ≤ (s.rd a).toNat → exec (.shset a b) s = .next (v.dropReplies.takeTrap (tr 0x0B 3 0))))

/-- R176, R186, R189, R337, R369, R372, R374: SYSRD and SYSWR, TLBINV and SHSET. -/
def Obligations.SystemRegistersAndTranslationWords : Prop :=
  Claims.systemRegisters ∧ Claims.translationWords

/-! ### Dual words (R330-R332) -/

namespace Sys2Proof.Claims
/-- The major form that a scalar slot stands for (R330). -/
def majorOf : Slot → Option Instr
  | .alu .add d a b => some (.add d a b)
  | .alu .sub d a b => some (.sub d a b)
  | .alu .and d a b => some (.and d a b)
  | .alu .or d a b => some (.or d a b)
  | .alu .xor d a b => some (.xor d a b)
  | .alu .shl d a b => some (.shl d a b)
  | .alu .shr d a b => some (.shr d a b)
  | .alu .sra d a b => some (.sra d a b)
  | .alu .min d a b => some (.min d a b)
  | .alu .max d a b => some (.max d a b)
  | .addI13 d a i => some (.addI d a (i.signExtend 32))
  | .li13 d i => some (.li d (i.signExtend 48))
  | _ => none
/-- What a slot without an access writes, from the registers at the start of the word: `some none` where it writes nothing. -/
def slotSays (s : State) (sl : Slot) : Option (Option (Reg × Word)) :=
  match sl with
  | .nop => some none
  | .br .. => some none
  | _ => ((majorOf sl).bind intRule).map (fun R => some (R.dst, R.val s.rd s.pc))
/-- Where a slot's branch goes, if it is taken. -/
def slotGoes (s : State) : Slot → Option Word
  | .br c d a i =>
    let holds := condSays (match c with | .eq => .eq | .ne => .ne | .lt => .lt | .ge => .ge) (s.rd d) (s.rd a)
    if holds then some (wrap (s.pc.toInt + 8 * i.toInt)) else none
  | _ => none
/-- The word after a dual word. -/
def dualNext (s : State) (sa sb : Slot) : Word := ((slotGoes s sa).orElse (fun _ => slotGoes s sb)).getD (s.pc + 8)
/-- Write a slot's result, if any. -/
def putResult (s : State) : Option (Reg × Word) → State
  | none => s
  | some (d, v) => s.wr d v
/-- A load slot: destination, address register, offset and bytes. -/
def slotLoads : Slot → Option (Reg × Reg × BitVec 13 × Nat)
  | .ldD d a i => some (d, a, i, 8)
  | .ldW d a i => some (d, a, i, 4)
  | _ => none
/-- A store slot. -/
def slotStores : Slot → Option (Reg × Reg × BitVec 13 × Nat)
  | .stD d a i => some (d, a, i, 8)
  | .stW d a i => some (d, a, i, 4)
  | _ => none
/-- A dual word that passes its checks where it runs. -/
def dualReady (s : State) (sa sb : Slot) : Prop :=
  s.dualTrap (encode (.dualWord sa sb)) = none ∧ s.agentOk = true ∧
  s.clear (runsBoth (slotRuns (slotOp sa)) (slotRuns (slotOp sb))) false (slotScalars sa ++ slotScalars sb) (slotSources sa ++ slotSources sb) = true
/-- An access of the memory class is not held back by earlier stores (R65). -/
def noHold (s : State) : Prop := s.inFlight = true ∨ s.held = false
end Sys2Proof.Claims

/-- R330, R332: both slots of a dual word read first, then both write what their major forms give, and a taken branch follows the other slot. -/
def Sys2Proof.Claims.dualWordsDoBothSlots : Prop :=
  ∀ (s : State) (sa sb : Slot), dualReady s sa sb →
    (∀ wa wb, slotSays s sa = some wa → slotSays s sb = some wb →
      exec (.dualWord sa sb) s = .next ((putResult (putResult s wa) wb).ran (dualNext s sa sb))) ∧
    -- one slot loads or stores
    (∀ (first : Bool) (m o : Slot) (w : Option (Reg × Word)) (d a : Reg) (i : BitVec 13) (n : Nat) (u : State) (x : Phys),
      (sa, sb) = (if first then (m, o) else (o, m)) → slotSays s o = some w → noHold s →
      let va := wrap ((s.rd a).toInt + i.toInt)
      (∀ b, slotLoads m = some (d, a, i, n) → s.xlate s.xc .load false va n n = .ok x u → viewOf u.cu va.toNat n = none →
        localByte u x n = some b → (∀ pa, x = .host pa → noCommand u = true) →
        let r := some (d, BitVec.ofNat 64 (littleEndian b n))
        exec (.dualWord sa sb) s = .next ((putResult (putResult u (if first then r else w)) (if first then w else r)).ran (dualNext s sa sb))) ∧
      (slotStores m = some (d, a, i, n) → s.xlate s.xc .store false va n n = .ok x u → plainStores u →
        takesStore u x va n ((s.rd d).toNat % 2 ^ (8 * n)) →
        ∃ v, storedAt u v x va n ((s.rd d).toNat % 2 ^ (8 * n)) ∧ exec (.dualWord sa sb) s = .next ((putResult v w).ran (dualNext s sa sb))))

/-- R332, R333: a dual word whose check fails traps with neither slot performed; slot A's failure comes first. -/
def Sys2Proof.Claims.dualWordsTrapAsOne : Prop :=
  ∀ (s : State) (sa sb : Slot), (Instr.dualWord sa sb).wf = true → s.off = false →
    (∀ t, s.dualTrap (encode (.dualWord sa sb)) = some t → exec (.dualWord sa sb) s = .next (s.takeTrap t)) ∧
    (∀ sl ∈ [sa, sb], runsIn (slotRuns (slotOp sl)) s.who = false → (sl = sb → runsIn (slotRuns (slotOp sa)) s.who = true) →
      (∀ r ∈ slotScalars sa, s.badReg r = false) →
      ∃ t, exec (.dualWord sa sb) s = .next (s.takeTrap t) ∧ t.code.toNat = 0x01 ∧ t.sub.toNat = 3 ∧ t.tval = encode (.dualWord sa sb) ∧
        (t.slotB = true → sl = sb) ∧ (runsIn (slotRuns (slotOp sa)) s.who = true → t.slotB = true)) ∧
    (∀ f u, dualReady s sa sb → s.slotStop (.dualWord sa sb) sa = some (.trap f u) →
      exec (.dualWord sa sb) s = .next (u.dropReplies.takeTrap f))

/-- R330, R332, R333: a dual word performs both slots as one, or traps with neither performed. -/
def Obligations.DualWordsDoBothSlotsOrNone : Prop :=
  Claims.dualWordsDoBothSlots ∧ Claims.dualWordsTrapAsOne

/-! ### Encoding, stepping, reset (R324-R344, R333, R160, R189, R99, R112, R136) -/

/-- Decoding an encoded well-formed instruction gives it back, every operand at every value. -/
def Obligations.DecodeAndEncodeAgree : Prop :=
  ∀ i : Instr, i.wf = true → decode (encode i) = some i

/-- R333, R344: a word that decodes is exactly the encoding of a well-formed instruction: no bit of a word is ignored, and reserved bits are
refused. -/
def Obligations.DecodedWordsHaveNoOtherBits : Prop :=
  ∀ (w : Word) (i : Instr), decode w = some i → i.wf = true ∧ encode i = w

/-- Words written out in spec listings decode to the instructions they stand for. -/
def Obligations.ListedWordsDecode : Prop :=
  decode 0x1500000000000001 = some (.gate 1) ∧
  decode 0x18C01CA000000002 = some (.vblk 7 10 0 2) ∧
  decode 0x190C000000000000 = some (.vrpl 12 0) ∧
  decode 0x1400380000000003 = some (.bc .eq 14 0 3) ∧
  decode 0x1D00000000000000 = some .endTask ∧
  decode 0x1800005000000400 = some (.tlwait 0 5 4) ∧
  decode 0x0649183000000000 = some (.setc .eq 9 6 3) ∧
  decode 0x16842810000103B2 = some (.amo .add .n64 4 10 16 ⟨3, 0, 2⟩) ∧
  decode 0x16842820000103B2 = some (.amo .and .n64 4 10 16 ⟨3, 0, 2⟩) ∧
  decode 0x168428A0000103B2 = none ∧ decode 0x16842810000104B2 = none ∧
  decode 0x86CA000000000010 = some (.li 10 16) ∧
  decode 0x3540000000000000 = some .vend ∧
  decode 0xC000000000000000 = none

namespace Sys2Proof.Claims
/-- An agent may run in its turn: its unit's core is not stalled (R315) and its task has not used up its budget (R147). -/
def mayTurn (y : State) (a : Nat × Who) : Prop :=
  y.stalled a.1 = false ∧ ∀ r, y.taskReeve a.1 a.2 = some r → y.overrun a.1 r = false
/-- The state in which a step executes agent `a`: scheduled, or picked when no event is due. -/
def executes (s : State) (a : Nat × Who) (v : State) : Prop :=
  s.device = [] ∧
  ((∃ rest, s.turns = .run a.1 a.2 :: rest ∧ mayTurn { s.tick with turns := rest } a ∧ v = { s.tick with turns := rest }.setAgent a) ∨
   (s.turns = [] ∧ s.due = none ∧ s.pick = some a ∧ v = s.tick.setAgent a))
end Sys2Proof.Claims

/-- R333, R160, R189, R147, R315, R34: when the word at an agent's program counter decodes to an instruction, the step is that instruction's
execution; a reeve's word comes from the eight bytes at its program counter, a sheaf's from its block; an event that the schedule names, or that is
due, is executed; a scheduled agent of a stalled unit does nothing, and one whose task has used up its budget overruns it.
The order of turns is the model's choice (log entry 3). -/
def Obligations.StepsExecuteTheDecodedWord : Prop :=
  ∀ (s v u : State) (a : Nat × Who) (w : Word) (i : Instr),
    (executes s a v → v.fetchWord = .ok w u → decode w = some i → step s = exec i u) ∧
    (∀ (x : Phys) (b : Nat → Byte) (r : Nat), v.who = .reeve r → v.re.fetchBuf = [] → v.fetchAhead = 0 →
      v.xlate v.xc .fetch false v.pc 8 8 = .ok x u → (∃ pa, x = .hbm pa false) → localByte u x 8 = some b →
      v.fetchWord = .ok (BitVec.ofNat 64 (littleEndian b 8)) u) ∧
    (∀ k n, v.who = .sheaf k → v.sh.pc.toNat = v.sh.blockAddr.toNat + 8 * n → v.sh.block[n]? = some w →
      v.fetchWord = if KMap.get false v.sh.blockPoison n then .trap (tr 0x13 2 v.sh.pc) v else .ok w v) ∧
    (∀ rest, s.device = [] → s.turns = .run a.1 a.2 :: rest → let y : State := { s.tick with turns := rest }
      (y.stalled a.1 = true → step s = .next y) ∧
      (∀ r, y.stalled a.1 = false → y.taskReeve a.1 a.2 = some r → y.overrun a.1 r = true → step s = exec (.budgetOverrun a.1 r) y)) ∧
    (∀ o rest, s.device = [] → s.turns = .occur o :: rest → step s = .next (State.occur { s.tick with turns := rest } o)) ∧
    (∀ rest, s.device = [] → s.turns = .event i :: rest → step s = exec i { s.tick with turns := rest }) ∧
    (s.device = [] → s.turns = [] → s.due = some i → step s = exec i s)

/-- R333, R344: a word that names no instruction traps on itself: FT_ILLEGAL with the whole word as `%tval`, or FT_PRIV. -/
def Sys2Proof.Claims.undecodableWordsTrap : Prop :=
  ∀ (s u : State) (w : Word), s.fetchWord = .ok w u → decode w = none → u.off = false →
    ∃ t, runAgent s = .next (u.takeTrap t) ∧
      (t.code.toNat = 0x01 ∧ t.tval = w ∧ (t.sub.toNat = 1 ∨ t.sub.toNat = 2 ∨ t.sub.toNat = 3) ∨ t.code.toNat = 0x03) ∧
      (w.toNat / 2 ^ 62 = 3 → t.code.toNat = 0x01 ∧ t.sub.toNat = 1)

/-- R302, R317, R333, R334, R343, R344, R423: a word that its context, its stage, its mode, its registers or its bits forbid traps or only advances,
before any effect. -/
def Obligations.ChecksComeBeforeEffects : Prop :=
  Claims.wordsOfAnotherContextTrap ∧ Claims.switchedOffWordsOnlyAdvance ∧ Claims.keeperWordsTrapInTaskMode ∧ Claims.scalarRegisterChecks ∧ Claims.undecodableWordsTrap

/-- Every state steps to a next state: no step of the machine ends in a fault or a refusal.
That an event whose condition is not met changes nothing is the model's choice (log entry 22). -/
def Obligations.EveryStepAnswersANextState : Prop :=
  ∀ s : State, ∃ t, step s = .next t

namespace Sys2Proof.Claims
/-- The memories are in their one canonical form and the maps of units, cores and partitions are sorted by number. -/
def Canonical (s : State) : Prop :=
  KMap.wf 0 s.hbm = true ∧ KMap.wf 0 s.cxl = true ∧ KMap.wf 0 s.host = true ∧ rising s.units ∧ rising s.cores ∧ rising s.parts
end Sys2Proof.Claims

/-- Every step keeps the memories canonical and the maps sorted.
The form is the model's own (log entry 2). -/
def Obligations.StepsKeepStateCanonical : Prop :=
  ∀ s t : State, Canonical s → step s = .next t → Canonical t

/-- After reset the state is canonical, every partition is OFF, management is OFF, no unit and no translation exists, every port is DOWN at width
code 3, and the parts of a task that the spec resets hold their values: `%vt` ill-formed, all else zero (R99, R112, R136, R48).
Values that the spec does not give are the model's (log entries 1, 2 and 5). -/
def Obligations.ResetLeavesTheGivenValues : Prop :=
  Canonical State.reset ∧ (∀ p, (State.reset.partOf p).st = .off ∧ (State.reset.partOf p).pcctl = 0 ∧ (State.reset.partOf p).passes = []) ∧
  State.reset.mgst = .off ∧ State.reset.units = [] ∧ State.reset.tlb = [] ∧ State.reset.plans = [] ∧ State.reset.device = [] ∧
  (∀ p, (State.reset.portOf p).st = .down ∧ (State.reset.portOf p).status = 0x3000) ∧
  (∀ u r, ((State.reset.unitOf u).reeveOf r).mode = .task ∧ ((State.reset.unitOf u).reeveOf r).link = none ∧
    ((State.reset.unitOf u).reeveOf r).fx = 0 ∧ ∀ g, KMap.get 0 ((State.reset.unitOf u).reeveOf r).g g = 0) ∧
  (∀ u k, ((State.reset.unitOf u).sheafOf k).vt = 0x8000000000000000 ∧ ((State.reset.unitOf u).sheafOf k).vl = 0 ∧
    ((State.reset.unitOf u).sheafOf k).vfx = 0)

/-- Reading and writing bytes of a memory: a write is read back, every other byte is as it was, and the form stays canonical. -/
def Sys2Proof.Claims.memoryWritesAreReadBack : Prop :=
  ∀ (m : Memory) (a : Nat) (l : List Byte), KMap.wf 0 m = true →
    KMap.wf 0 (memWrite m a l) = true ∧
    (∀ k, KMap.get 0 (memWrite m a l) k = if a ≤ k ∧ k < a + l.length then l.getD (k - a) 0 else KMap.get 0 m k) ∧
    memRead (memWrite m a l) a l.length = l

/-- R3, R215, R216: what was stored is read back, through a log or in a memory, and nothing else changed. -/
def Obligations.LogsAndMemoriesAreReadBack : Prop :=
  Claims.loggedStoresAreReadBack ∧ Claims.memoryWritesAreReadBack

/-! ### Sheaf arithmetic (R376-R404, R415) -/

namespace Sys2Proof.Claims

/-- The register a `v` number names: the window of a running SLOOP turns with RRB (R423). -/
def named (x : Sheaf) (r : Nat) : Nat :=
  let w := x.rrb.toNat / 2 ^ 8 % 2 ^ 6
  let base := x.rrb.toNat % 2 ^ 6
  if x.slp.getLsbD 63 = true ∧ w ≠ 0 ∧ 64 - w ≤ r then 64 - w + (r - (64 - w) + base) % w else r
/-- Bit `b` of the group of registers at `r` with L lanes: 512·L bits a register, the first register lowest (R156, R336), under `x`'s
renaming and with the contents `v`. -/
def groupBit (x : Sheaf) (v : KMap VReg) (L r b : Nat) : Bool := (KMap.get 0 v (named x (r + b / (512 * L)))).getLsbD (b % (512 * L))
/-- Element `i` of width `w` of that group. -/
def element (x : Sheaf) (v : KMap VReg) (L r w i : Nat) : Nat :=
  ((List.range w).map (fun b => if groupBit x v L r (w * i + b) then 2 ^ b else 0)).sum
/-- Element `i` as the executing context reads it. -/
def el (s : State) (r : Reg) (w i : Nat) : Nat := element s.sh s.sh.v s.lanes r.toNat w i
/-- Bit `i` of a mask register; `m0` is all ones (R334). -/
def maskBit (s : State) (m i : Nat) : Bool := m == 0 || (KMap.get 0 s.sh.m m).getLsbD i
/-- Does the mask field select element `i` (R325)? -/
def chosen (s : State) (q : BitVec 4) (i : Nat) : Bool := q == 0 || (maskBit s (q.toNat % 8) i != q.getLsbD 3)
/-- How many of the elements below `n` are selected. -/
def chosenBelow (s : State) (q : BitVec 4) (n : Nat) : Nat := ((List.range n).filter (chosen s q)).length
/-- The selected elements below `%vl`. -/
def picked (s : State) (q : BitVec 4) : List Nat := (List.range s.sh.vl).filter (chosen s q)

/-- VLMAX (R339, R225): 0 while ILF is set. -/
def vlmaxOf (s : State) (vt : Word) : Nat :=
  let n := vt.toNat
  if n / 2 ^ 63 % 2 = 1 then 0
  else s.lanes * 512 / (8 * 2 ^ (n % 8)) * 2 ^ (n / 8 % 8) * (if n / 2 ^ 6 % 32 = 16 ∨ n / 2 ^ 6 % 32 = 17 then 8 else 1)
/-- `%vl` counts elements that exist. Only a keeper's SYSWR to `%vt` can leave it above VLMAX; the spec gives such elements no value. -/
def lengthFits (s : State) : Prop := s.sh.vl ≤ vlmaxOf s s.sh.vt

/-- A destination group: what each of its elements becomes, modulo 2^width, or none where it stays. -/
structure VecWrite where
  dst : Reg
  count : Nat
  width : Nat
  val : Nat → Option Int
/-- What a vector word does: whether TYPE and its fields suit it, its source groups (first register, registers), the scalar registers it
reads, its destinations, the flags it ORs into `%vfx`, and, for the words that set them, `%vl` and a statex register. -/
structure VecRule where
  ok : Bool
  reads : List (Reg × Nat)
  scalars : List Reg := []
  writes : List VecWrite
  flags : List Word := []
  vl : Option Nat := none
  sx : Option (Nat × SxImage) := none
  lim : Nat := 8
  typed : Bool := true

/-- R379: the value of each selected element below `%vl`, the rest undisturbed; past `%vl` zeros or undisturbed by TAIL. -/
def eachOf (s : State) (on : Nat → Bool) (f : Nat → Option Int) (i : Nat) : Option Int :=
  if i < s.sh.vl then (if on i then f i else none) else if s.sh.vt.getLsbD 19 then some 0 else none
/-- TYPE as the integer operations read it: i4 and i3 as i8, zs8 as n8 (R377). -/
def intTy (s : State) : Ty := match s.ty with
  | .i4 => .i8
  | .i3 => .i8
  | .zs8 => .n8
  | t => t
/-- Does a type field fit TYPE: 0 (`.i8`) stands for it (R377)? -/
def fits (s : State) (t : Ty) : Bool := t == .i8 || t == s.ty
/-- Every type but the E8 types. -/
def anyTy (t : Ty) : Bool := t != .e8w16 && t != .e8w32
/-- Registers at another width (R378). -/
def regsAt (s : State) (w : Nat) : Nat := max 1 ((s.grp * w + s.sew - 1) / s.sew)
/-- Source B: an element, or the low bits of a scalar register (R376). -/
def elB (s : State) (x : V3) (w i : Nat) : Nat := if x.sc then (s.rd x.b).toNat % 2 ^ w else el s x.b w i

/-- An element-wise word of two sources with the results `f D A B`. -/
def ew3 (s : State) (x : V3) (cls : Ty → Bool) (f : Nat → Nat → Nat → Int × Word) : Option VecRule :=
  let w := s.sew
  let r (i : Nat) := f (el s x.d w i) (el s x.a w i) (elB s x w i)
  some { ok := fits s x.ty && cls s.ty, reads := (x.a, s.grp) :: (if x.sc then [] else [(x.b, s.grp)]), scalars := if x.sc then [x.b] else [],
         writes := [⟨x.d, s.grp, w, eachOf s (chosen s x.q) (fun i => some (r i).1)⟩], flags := (picked s x.q).map (fun i => (r i).2) }
/-- An integer word: values over the integers. -/
def int3 (s : State) (x : V3) (f : Int → Int → Int → Int) : Option VecRule :=
  ew3 s x tyIsInt (fun d a b => (f (asInt (intTy s) d) (asInt (intTy s) a) (asInt (intTy s) b), 0))
/-- A bitwise or shift word over patterns. -/
def bits3 (s : State) (x : V3) (cls : Ty → Bool) (f : Nat → Nat → Int) : Option VecRule := ew3 s x cls (fun _ a b => (f a b, 0))
/-- A floating-point word. -/
def float3 (s : State) (x : V3) (f : Fmt → Nat → Nat → Nat × Word) : Option VecRule :=
  ew3 s x tyIsFloat (fun _ a b => let r := f (fmtOf s.ty) a b; ((r.1 : Int), r.2))
/-- An element-wise word of one source: source and destination widths and registers as given. -/
def ew2 (s : State) (x : V2) (ok : Bool) (wd wa : Nat) (f : Nat → Int × Word) : Option VecRule :=
  some { ok := fits s x.ty && ok, reads := [(x.a, regsAt s wa)],
         writes := [⟨x.d, regsAt s wd, wd, eachOf s (chosen s x.q) (fun i => some (f (el s x.a wa i)).1)⟩],
         flags := (picked s x.q).map (fun i => (f (el s x.a wa i)).2) }
/-- A unary floating-point word. -/
def float2 (s : State) (x : V2) (f : Fmt → Nat → Nat × Word) : Option VecRule :=
  ew2 s x (tyIsFloat s.ty) s.sew s.sew (fun a => let r := f (fmtOf s.ty) a; ((r.1 : Int), r.2))
/-- A word that moves elements of A: what selected element `i` takes. -/
def move (s : State) (x : V2) (f : Nat → Option Nat) : VecRule :=
  { ok := fits s x.ty && anyTy s.ty, reads := [(x.a, s.grp)],
    writes := [⟨x.d, s.grp, s.sew, eachOf s (chosen s x.q) (fun i => (f i).map Int.ofNat)⟩] }

/-- The signed value of the low `w` bits. -/
def signed (w n : Nat) : Int := if n.testBit (w - 1) then (n % 2 ^ w : Nat) - (2 ^ w : Nat) else (n % 2 ^ w : Nat)
/-- The least and the greatest value of an integer type (R221). -/
def leastOf (t : Ty) : Int := match t with
  | .i3 => -4
  | .i4 => -8
  | t => if tySigned t then -(2 ^ (tyWidth t - 1)) else 0
def greatestOf (t : Ty) : Int := match t with
  | .i3 => 3
  | .i4 => 7
  | t => if tySigned t then 2 ^ (tyWidth t - 1) - 1 else 2 ^ tyWidth t - 1
/-- A value clamped to a type, and whether it was. -/
def clampTo (t : Ty) (v : Int) : Int × Bool :=
  if v < leastOf t then (leastOf t, true) else if greatestOf t < v then (greatestOf t, true) else (v, false)
/-- SAT when clamped. -/
def satIf (c : Bool) : Word := if c then 32 else 0
/-- Exact magnitude bits of a fold: R384's shift amounts are modulo SEW. -/
def shAmt (s : State) (b : Nat) : Nat := b % s.sew
/-- The class bit of R390. -/
def classBit (f : Fmt) (n : Nat) : Nat :=
  let ex := n / 2 ^ f.mb % 2 ^ f.eb
  let m := n % 2 ^ f.mb
  let neg := n.testBit (f.eb + f.mb)
  if ex = 2 ^ f.eb - 1 then (if m ≠ 0 then (if m.testBit (f.mb - 1) then 9 else 8) else if neg then 0 else 7)
  else if ex ≠ 0 then (if neg then 1 else 6)
  else if m ≠ 0 then (if neg then 2 else 5)
  else if neg then 3 else 4
/-- The place of a value in the total order of R403: every NaN above +Inf, −0 below +0. -/
def orderKey (s : State) (n : Nat) : Int :=
  if tyIsInt s.ty then asInt (intTy s) n
  else if nanBits (fmtOf s.ty) n then 2 ^ 100
  else if n.testBit (s.sew - 1) then -1 - (n % 2 ^ (s.sew - 1) : Nat) else (n : Int)

/-- A node of R235's tree over 2^n leaves from leaf `i` on: the sum of what is present below it, with the flags. -/
def treeNode (add : Nat → Nat → Nat × Word) (leaf : Nat → Option Nat) : Nat → Nat → Option Nat × Word
  | 0, i => (leaf i, 0)
  | n + 1, i =>
    let x := treeNode add leaf n i
    let y := treeNode add leaf n (i + 2 ^ n)
    match x.1, y.1 with
    | some a, some b => (some (add a b).1, (add a b).2 ||| x.2 ||| y.2)
    | some a, none => (some a, x.2 ||| y.2)
    | none, b => (b, x.2 ||| y.2)
/-- The height of R235's tree: 2^height is the smallest power of two at least max(`%vl`, 1). -/
def treeHeight (n : Nat) : Nat := if n ≤ 1 then 0 else (n - 1).log2 + 1
/-- The payload a NaN result carries (R231): the lowest element that is a NaN, else the lowest infinity where both infinities meet. -/
def payloadOf (s : State) (x : V2) : Option Nat :=
  let f := fmtOf s.ty
  let v (i : Nat) := el s x.a s.sew i
  let inf := (2 ^ f.eb - 1) * 2 ^ f.mb
  let isInf (i : Nat) : Bool := v i % 2 ^ (s.sew - 1) == inf
  match (picked s x.q).find? (fun i => nanBits f (v i)) with
  | some i => some i
  | none =>
    if (picked s x.q).any (fun i => v i == inf) && (picked s x.q).any (fun i => isInf i && v i != inf) then (picked s x.q).find? isInf else none
/-- VRSUM (R235): the value and its flags. -/
def sumRule (s : State) (x : V2) : Int × Word :=
  let leaf (i : Nat) : Option Nat := if i < s.sh.vl ∧ chosen s x.q i then some (el s x.a s.sew i) else none
  let h := treeHeight s.sh.vl
  if tyIsInt s.ty then (((picked s x.q).map (fun i => (el s x.a s.sew i : Int))).sum, 0)
  else
    let f := fmtOf s.ty
    let g := fmtOf (if s.ty == .f16 || s.ty == .bf16 then .f32 else s.ty)
    let r := treeNode (fadd g) (fun i => (leaf i).map (fun v => (froundV g .rne .none (fdec f v)).1)) h 0
    let inf := (2 ^ f.eb - 1) * 2 ^ f.mb
    let bad := (picked s x.q).any (fun i => sigBits f (el s x.a s.sew i)) ||
      ((picked s x.q).any (fun i => el s x.a s.sew i == inf) && (picked s x.q).any (fun i => el s x.a s.sew i == 2 ^ (s.sew - 1) + inf))
    (match payloadOf s x with
      | some p => (fmtNaNP g p : Int)
      | none => (r.1.getD 0 : Int), r.2 ||| (if bad then 16 else 0))
/-- VRMAX and VRMIN (R399): greatest or least, NaNs with the payload of the first, an empty set the type's other end. -/
def extRule (s : State) (x : V2) (mx : Bool) : Int × Word :=
  let f := fmtOf s.ty
  let inf := (2 ^ f.eb - 1) * 2 ^ f.mb
  let vs := (picked s x.q).map (el s x.a s.sew)
  let best := vs.find? (fun v => vs.all (fun u => if mx then decide (orderKey s u ≤ orderKey s v) else decide (orderKey s v ≤ orderKey s u)))
  if tyIsInt s.ty then
    (match best with
      | some v => (v : Int)
      | none => if mx then leastOf (intTy s) else greatestOf (intTy s), 0)
  else
    (match (picked s x.q).find? (fun i => nanBits f (el s x.a s.sew i)), best with
      | some i, _ => (fmtNaNP f i : Int)
      | none, some v => (v : Int)
      | none, none => if mx then (2 ^ (s.sew - 1) + inf : Nat) else (inf : Nat), if vs.any (sigBits f) then 16 else 0)
/-- A reduction into element 0 of one register. -/
def reduceTo (s : State) (x : V2) (w : Nat) (r : Int × Word) : Option VecRule :=
  some { ok := fits s x.ty && (tyIsInt s.ty || tyIsFloat s.ty), reads := [(x.a, s.grp)],
         writes := [⟨x.d, 1, w, fun i => if i = 0 then some r.1 else none⟩], flags := [r.2] }
/-- The rank of element `i` in VSORT's order: how many selected elements go before it. -/
def rankOf (s : State) (x : V2) (desc : Bool) (i : Nat) : Nat :=
  let k (j : Nat) : Int := orderKey s (el s x.a s.sew j)
  ((picked s x.q).filter (fun j => if desc then decide (k i < k j ∨ (k j = k i ∧ j < i)) else decide (k j < k i ∨ (k j = k i ∧ j < i)))).length
/-- The packed width of an integer type (R221, R393). -/
def denseWidth : Ty → Nat
  | .i3 => 3
  | .i4 => 4
  | t => tyWidth t
/-- R394's quantised group `j`: the scale byte with its flags from the selected elements of the group. -/
def groupScale (s : State) (x : V2) (tq : Nat) (j : Nat) : Nat × Word :=
  quantGroup tq (((picked s x.q).filter (fun i => i / 32 == j)).map (fun i => fdec (fmtOf s.ty) (el s x.a s.sew i)))
/-- Is TYPE one of the three types of VBQ and VBDQ? -/
def quantTy (t : Ty) : Bool := t == .f32 || t == .f16 || t == .bf16
/-- The dynamic span of R378. -/
def dynRegs (s : State) (w : Nat) : Nat := ([1, 2, 4, 8, 16, 32].find? (fun k => decide (s.sh.vl * w ≤ k * s.lanes * 512))).getD 64
/-- Point `j`'s code from its components under its scale byte (R396, R241-R243). -/
def pointCode (s : State) (x : V2) (ts : Ty) (sc : Reg) (j : Nat) : PointQ × Nat :=
  let w32 := s.ty == .e8w32
  let sb := el s sc 8 (if w32 then j else j / 4)
  let q := quantPoint w32 ((List.range 8).map (fun i =>
    if 8 * j + i < s.sh.vl then fdec (fmtOf ts) (el s x.a (tyWidth ts) (8 * j + i)) else .fin false 0 0)) sb
  (q, if w32 then q.code + 2 ^ 24 * (if q.nanIn then 255 else sb) else q.code)
/-- The selected points (R243). -/
def pointsOf (s : State) (q : BitVec 4) : List Nat := (List.range ((s.sh.vl + 7) / 8)).filter (fun j => chosen s q (8 * j))
/-- A decoded component times its scale (R397). -/
def e8Value (s : State) (x : V2) (td : Ty) (sc : Reg) (i : Nat) : Int × Word :=
  let w32 := s.ty == .e8w32
  let c := el s x.a s.sew (i / 8)
  let z := ((if w32 then e8w32Dec c else e8w16Dec c)[i % 8]?).getD 0
  match zs8 (if w32 then c / 2 ^ 24 else el s sc 8 (i / 32)) with
  | .fin _ zm ze =>
    if zm = 0 ∨ z = 0 then (0, 0)
    else let r := fround (fmtOf td) .rne .none (decide (z < 0)) (z.natAbs * zm) 1 (ze - 1); ((r.1 : Int), r.2)
  | _ => ((fmtNaN (fmtOf td) : Int), 0)
/-- One accumulator of VSCAC (R253): f32 slot `e` of the group with its new value and flags; `t` is the slot of the tail of a pair. -/
def scacAt (s : State) (pf : Bool) (d p a b : Reg) (e : Nat) : Int × Word :=
  let L := s.lanes
  let n := 64 * L
  let o := e % n
  let row := 4 * (o / (16 * L)) + o % 16 / 4
  let v := fmulV (fmulV (fdec (fmtOf .f32) (el s p 32 o)) (zs8 (el s a 8 row))) (zs8 (el s b 8 (64 * (o / 16 % L) + o % 4)))
  if pf then
    let r := pairAdd (el s d 32 o) (el s d 32 (o + n)) v
    (((if e < n then r.1.1 else r.1.2) : Int), r.2)
  else let r := accAdd (fmtOf .f32) (el s d 32 o) v; ((r.1 : Int), r.2)
/-- A running selection's state after a piece (R402): its 64-bit words and the rounding flags. -/
def selection (s : State) (new : Bool) (k : Nat) (d a b : Reg) (q : BitVec 4) : (Nat → Nat) × Word :=
  let old (o n : Nat) : Nat := ((List.range n).map (fun j => el s d 8 (o + j) * 2 ^ (8 * j))).sum
  let t0 : Topk := if new then ⟨0, 0, 0, 0, 0, []⟩
    else ⟨old 76 4, old 68 4, old 72 4, old 64 4, old 16 48, (List.range (min (old 64 4) k)).map (fun m => (old (96 + 8 * m) 4, old (100 + 8 * m) 4))⟩
  let t := (picked s q).foldl (fun (t : Topk) i => t.insert k 4 (el s a 32 i) (((s.rd b).toNat + i) % 2 ^ 32)) t0
  let w (j : Nat) : Nat := match j with
    | 0 => t.sel.1
    | 1 => t.rem.1
    | 8 => t.adm + 2 ^ 32 * t.pinf
    | 9 => t.ninf + 2 ^ 32 * t.nanc
    | 10 => t.pairs.length + 2 ^ 16 * k + 2 ^ 32 * ((if new then 0 else old 84 4) + (picked s q).length)
    | 11 => 0
    | j => if j < 8 then t.fsum / 2 ^ (64 * (j - 2)) % 2 ^ 64
           else match t.pairs[j - 12]? with
             | some p => p.1 + 2 ^ 32 * p.2
             | none => 0
  (w, (t.sel.2 ||| t.rem.2) &&& 5)
/-- A state a selection accepts (R402), and room for the piece. -/
def selectionOk (s : State) (new : Bool) (k : Nat) (d : Reg) (q : BitVec 4) : Bool :=
  let old (o n : Nat) : Nat := ((List.range n).map (fun j => el s d 8 (o + j) * 2 ^ (8 * j))).sum
  (new || (old 82 2 == k && old 80 2 == min (old 64 4) k && old 64 4 + old 76 4 == old 84 4 && old 88 8 == 0)) &&
    decide ((if new then 0 else old 84 4) + (picked s q).length ≤ 65536)
/-- VTOPK and VARGMX. -/
def selectRule (s : State) (new : Bool) (k : Nat) (d a b : Reg) (q : BitVec 4) : Option VecRule :=
  let n := ([1, 2, 4, 8].find? (fun n => decide (96 + 8 * k ≤ n * 64 * s.lanes))).getD 16
  some { ok := s.ty == .f32 && selectionOk s new k d q, reads := [(a, s.grp)], scalars := [b],
         writes := [⟨d, n, 64, fun j => if j < 12 + k then some ((selection s new k d a b q).1 j) else none⟩],
         flags := [(selection s new k d a b q).2] }

/-- R384-R404 and R415, row by row. -/
def vecRule (s : State) : Instr → Option VecRule
  | .vadd x => int3 s x (fun _ a b => a + b)
  | .vsub x => int3 s x (fun _ a b => a - b)
  | .vmul x => int3 s x (fun _ a b => a * b)
  | .vmulh x => int3 s x (fun _ a b => a * b / 2 ^ s.sew)
  | .vmac x => int3 s x (fun d a b => d + a * b)
  | .vmin x => int3 s x (fun _ a b => min a b)
  | .vmax x => int3 s x (fun _ a b => max a b)
  | .vand x => bits3 s x anyTy (fun a b => (a &&& b : Nat))
  | .vor x => bits3 s x anyTy (fun a b => (a ||| b : Nat))
  | .vxor x => bits3 s x anyTy (fun a b => (a ^^^ b : Nat))
  | .vshl x => bits3 s x tyIsInt (fun a b => (a * 2 ^ shAmt s b : Nat))
  | .vshr x => bits3 s x tyIsInt (fun a b => (a / 2 ^ shAmt s b : Nat))
  | .vsra x => bits3 s x tyIsInt (fun a b => signed s.sew a / 2 ^ shAmt s b)
  | .vabs x => ew2 s x (tyIsInt s.ty) s.sew s.sew (fun a => ((asInt (intTy s) a).natAbs, 0))
  | .vsadd sub x => ew3 s x tyIsInt (fun _ a b =>
      let va := asInt (intTy s) a
      let vb := asInt (intTy s) b
      let r := clampTo (intTy s) (if sub then va - vb else va + vb)
      (r.1, satIf r.2))
  | .vsel x =>
    some { ok := anyTy s.ty, reads := (x.a, s.grp) :: (if x.sc then [] else [(x.b, s.grp)]), scalars := if x.sc then [x.b] else [],
           writes := [⟨x.d, s.grp, s.sew, eachOf s (fun _ => true) (fun i =>
             some (if chosen s x.q i then el s x.a s.sew i else elB s x s.sew i : Nat))⟩] }
  | .vwmul t2 x => wideRule s x t2 false
  | .vwmac t2 x => wideRule s x t2 true
  | .vmv x =>
    some { ok := fits s x.ty && anyTy s.ty, reads := if x.sc then [] else [(x.a, s.grp)], scalars := if x.sc then [x.b] else [],
           writes := [⟨x.d, s.grp, s.sew, eachOf s (chosen s x.q) (fun i =>
             some (if x.sc then (s.rd x.b).toNat % 2 ^ s.sew else el s x.a s.sew i : Nat))⟩] }
  | .vfadd x => float3 s x fadd
  | .vfsub x => float3 s x fsub
  | .vfmul x => float3 s x fmul
  | .vfma x c =>
    let r (i : Nat) : Nat × Word := ffma (fmtOf s.ty) (fdec (fmtOf s.ty) (el s x.a s.sew i)) (fdec (fmtOf s.ty) (elB s x s.sew i))
      (fdec (fmtOf s.ty) (el s c s.sew i))
    some { ok := fits s x.ty && tyIsFloat s.ty, reads := (x.a, s.grp) :: (c, s.grp) :: (if x.sc then [] else [(x.b, s.grp)]),
           scalars := if x.sc then [x.b] else [],
           writes := [⟨x.d, s.grp, s.sew, eachOf s (chosen s x.q) (fun i => some ((r i).1 : Int))⟩], flags := (picked s x.q).map (fun i => (r i).2) }
  | .vfmin x => float3 s x (fminmax · false)
  | .vfmax x => float3 s x (fminmax · true)
  | .vfdiv x => float3 s x fdiv
  | .vfsqrt x => float2 s x fsqrt
  | .vfrsq x => float2 s x frsqrt
  | .vfexp2 x => float2 s x fexp2
  | .vflog2 x => float2 s x flog2
  | .vfcls x => float2 s x (fun f a => (2 ^ classBit f a, 0))
  | .vcvt td rm ov x =>
    ew2 s x (!(tyIsInt td && tyIsInt s.ty) && s.ty != .zs8 && anyTy s.ty) (tyWidth td) s.sew (fun a =>
      let r := fconvert td s.ty rm ov a
      ((r.1 : Int), r.2))
  | .vunpk tn x =>
    ew2 s x (tyIsInt s.ty && decide (denseWidth tn < s.sew)) s.sew (denseWidth tn) (fun a => (if tySigned tn then signed (denseWidth tn) a else a, 0))
  | .vpack tn x =>
    let wn := denseWidth tn
    let v (i : Nat) : Int × Bool := clampTo tn (asInt (intTy s) (el s x.a s.sew i))
    let n := if tn = .i3 then 3 * ((s.sh.vl + 7) / 8) else (s.sh.vl * wn + 7) / 8
    let bit (b : Nat) : Bool := decide (b / wn < s.sh.vl) && decide ((v (b / wn)).1 / 2 ^ (b % wn) % 2 = 1)
    some { ok := fits s x.ty && tyIsInt s.ty && decide (wn < s.sew), reads := [(x.a, s.grp)],
           writes := [⟨x.d, regsAt s wn, 8, fun j =>
             if j < n then some (((List.range 8).map (fun b => if bit (8 * j + b) then 2 ^ b else 0)).sum : Nat)
             else if s.sh.vt.getLsbD 19 then some 0 else none⟩],
           flags := (List.range s.sh.vl).map (fun i => satIf (v i).2) }
  | .vbq tq sc x =>
    let n := (s.sh.vl + 31) / 32
    let q (i : Nat) : Nat × Word := quantUnder tq.toNat (groupScale s x tq.toNat (i / 32)).1 (fdec (fmtOf s.ty) (el s x.a s.sew i))
    some { ok := fits s x.ty && quantTy s.ty, reads := [(x.a, s.grp)],
           writes := (if tq = 3 then [] else [⟨x.d, regsAt s 8, 8, fun i =>
               if i < s.sh.vl ∧ chosen s x.q i then some ((q i).1 : Int) else none⟩]) ++
             [⟨sc, 1, 8, fun j => if j < n then some ((groupScale s x tq.toNat j).1 : Int) else none⟩],
           flags := (List.range n).map (fun j => (groupScale s x tq.toNat j).2) ++ (if tq = 3 then [] else (picked s x.q).map (fun i => (q i).2)) }
  | .vbdq tq sc x =>
    let r (i : Nat) : Nat × Word :=
      let a := el s x.a 8 i
      let q : FVal := if tq = 0 then .fin (decide (signed 4 a < 0)) (signed 4 a).natAbs 0
        else if tq = 1 then .fin (decide (signed 3 a < 0)) (signed 3 a).natAbs 0 else fdec (fmtOf .e4m3) a
      match zs8 (el s sc 8 (i / 32)), q with
      | .fin _ zm ze, .fin n m e => if zm = 0 then (0, 0) else fround (fmtOf s.ty) .rne .none n (m * zm) 1 (e + ze)
      | _, _ => (fmtNaN (fmtOf s.ty), 0)
    some { ok := fits s x.ty && quantTy s.ty, reads := [(x.a, regsAt s 8), (sc, 1)],
           writes := [⟨x.d, s.grp, s.sew, eachOf s (chosen s x.q) (fun i => some ((r i).1 : Int))⟩], flags := (picked s x.q).map (fun i => (r i).2) }
  | .ve8q ts sc cnt n x =>
    let beyond := ((pointsOf s x.q).filter (fun j => (pointCode s x ts sc j).1.beyond)).length
    some { ok := fits s x.ty && !anyTy s.ty && (!cnt || sxTakesCount (s.cu.sxOf n.toNat)),
           reads := [(x.a, dynRegs s (tyWidth ts)), (sc, if s.ty = .e8w32 ∧ s.grp = 8 then 2 else 1)], lim := 32,
           writes := [⟨x.d, s.grp, s.sew, fun j =>
             if (pointsOf s x.q).contains j then some ((pointCode s x ts sc j).2 : Int) else none⟩],
           flags := (pointsOf s x.q).map (fun j =>
             (if (pointCode s x ts sc j).1.beyond then 64 else 0) ||| (if (pointCode s x ts sc j).1.nv then 16 else 0)),
           sx := if cnt ∧ beyond ≠ 0 then some (n.toNat, sxCount (s.cu.sxOf n.toNat) beyond) else none }
  | .ve8d td sc x =>
    let on (i : Nat) : Bool := chosen s x.q (8 * (i / 8))
    some { ok := fits s x.ty && !anyTy s.ty && (s.ty = .e8w16 || sc == 0), lim := 32,
           reads := (x.a, s.grp) :: (if s.ty = .e8w16 then [(sc, 1)] else []),
           writes := [⟨x.d, dynRegs s (tyWidth td), tyWidth td, fun i =>
             if i < s.sh.vl ∧ on i then some (e8Value s x td sc i).1 else none⟩],
           flags := ((List.range s.sh.vl).filter on).map (fun i => (e8Value s x td sc i).2) }
  | .vscac pf d p a b =>
    let k := if pf then 8 else 4
    some { ok := true, typed := false, reads := [(p, 4), (a, 1), (b, 1)],
           writes := [⟨d, k, 32, fun e => some (scacAt s pf d p a b e).1⟩],
           flags := (List.range (16 * k * s.lanes)).map (fun e => (scacAt s pf d p a b e).2) }
  | .vrsum x => reduceTo s x (if s.ty == .f16 || s.ty == .bf16 then 32 else s.sew) (sumRule s x)
  | .vrmax x => reduceTo s x s.sew (extRule s x true)
  | .vrmin x => reduceTo s x s.sew (extRule s x false)
  | .vsldu i imm b x =>
    let n := if i then imm.toNat else (s.rd b).toNat
    some { move s x (fun j => if n ≤ j then some (el s x.a s.sew (j - n)) else none) with scalars := if i then [] else [b] }
  | .vsldd i imm b x =>
    let n := if i then imm.toNat else (s.rd b).toNat
    some { move s x (fun j => some (if j + n < s.sh.vl then el s x.a s.sew (j + n) else 0)) with scalars := if i then [] else [b] }
  | .vprm b x =>
    some { move s x (fun j => some (if el s b s.sew j < s.sh.vl then el s x.a s.sew (el s b s.sew j) else 0)) with
           reads := [(x.a, s.grp), (b, s.grp)] }
  | .viota x =>
    some { ok := fits s x.ty && tyIsInt s.ty, reads := [],
           writes := [⟨x.d, s.grp, s.sew, eachOf s (chosen s x.q) (fun i =>
             some (((List.range i).filter (maskBit s x.a.toNat)).length : Int))⟩] }
  | .vargmx new d a b q => selectRule s new 1 d a b q
  | .vtopk new k d a b q => selectRule s new k.toNat d a b q
  | .vsort desc idx c x =>
    let at' (f : Nat → Nat) (p : Nat) : Option Int :=
      if p < s.sh.vl then ((picked s x.q).find? (fun i => rankOf s x desc i == p)).map (fun i => (f i : Int))
      else if s.sh.vt.getLsbD 19 then some 0 else none
    some { ok := fits s x.ty && (tyIsInt s.ty || tyIsFloat s.ty), reads := [(x.a, s.grp)],
           writes := ⟨x.d, s.grp, s.sew, at' (el s x.a s.sew)⟩ :: (if idx then [⟨c, regsAt s 32, 32, at' id⟩] else []) }
  | .vsrch le b x =>
    some { ok := fits s x.ty && (tyIsInt s.ty || tyIsFloat s.ty), reads := [(x.a, s.grp), (b, s.grp)],
           writes := [⟨x.d, regsAt s 32, 32, eachOf s (chosen s x.q) (fun i =>
             let k := orderKey s (el s b s.sew i)
             some (((List.range s.sh.vl).filter (fun j =>
               let v := orderKey s (el s x.a s.sew j)
               if le then decide (v ≤ k) else decide (v < k))).length : Int))⟩] }
  | .vcprs x =>
    let n := (picked s x.q).length
    some { move s x (fun _ => none) with
           writes := [⟨x.d, s.grp, s.sew, fun j =>
             if j < n then (((picked s x.q)[j]?).map (fun i => (el s x.a s.sew i : Int)))
             else if s.sh.vt.getLsbD 19 then some 0 else none⟩],
           vl := some n }
  | .vexpd x => some (move s x (fun i => some (el s x.a s.sew (chosenBelow s x.q i))))
  | _ => none
where
  /-- R387: B at TYPE2. -/
  wideRule (s : State) (x : V3) (t2 : Ty) (acc : Bool) : Option VecRule :=
    let u := vtType2 s.sh.vt
    let w := s.sew
    let f := fmtOf s.ty
    let iu : Ty := match u with
      | .i4 => .i8
      | .i3 => .i8
      | .zs8 => .n8
      | t => t
    let r (i : Nat) : Int × Word :=
      let a := el s x.a w i
      let b := elB s x (tyWidth u) i
      if tyIsInt s.ty then ((if acc then asInt (intTy s) (el s x.d w i) else 0) + asInt (intTy s) a * asInt iu b, 0)
      else
        let p := fmulV (fdec f a) (fdec (fmtOf u) b)
        let v := if acc then ffma f (fdec f a) (fdec (fmtOf u) b) (fdec f (el s x.d w i)) else froundV f .rne .none p
        ((v.1 : Int), v.2)
    some { ok := fits s x.ty && (t2 == .i8 || t2 == u) && ((tyIsInt s.ty && tyIsInt u) || (tyIsFloat s.ty && tyIsFloat u)),
           reads := (x.a, s.grp) :: (if x.sc then [] else [(x.b, regsAt s (tyWidth u))]), scalars := if x.sc then [x.b] else [],
           writes := [⟨x.d, s.grp, w, eachOf s (chosen s x.q) (fun i => some (r i).1)⟩], flags := (picked s x.q).map (fun i => (r i).2) }

/-- A group that R378 accepts: at most `lim` registers, aligned to its size, ending by `v63`. -/
def groupFits (r : Reg) (k lim : Nat) : Bool := decide (1 ≤ k ∧ k ≤ lim ∧ r.toNat % k = 0 ∧ r.toNat + k ≤ 64)
/-- An earlier matrix entry names a register of a group (R164). -/
def interlocked (s : State) (l : List (Reg × Nat)) : Prop :=
  ∃ k e p j, s.who = .sheaf k ∧ e ∈ s.cu.mq ∧ e.reeve = s.cu.owner k ∧ e.seq < s.sh.blockSeq ∧ e.sn ≤ k ∧ k ≤ e.sm ∧ p ∈ l ∧ j < p.2 ∧
    e.vd ≤ named s.sh (p.1.toNat + j) ∧ named s.sh (p.1.toNat + j) < e.vd + (if e.acc = 0 then 4 else 8)
/-- The groups of a rule. -/
def groupsOf (R : VecRule) : List (Reg × Nat) := R.reads ++ R.writes.map (fun w => (w.dst, w.count))
/-- No register is in two destination groups. -/
def writesApart (R : VecRule) : Prop :=
  R.writes.Pairwise (fun a b => a.dst.toNat + a.count ≤ b.dst.toNat ∨ b.dst.toNat + b.count ≤ a.dst.toNat)
/-- The conditions under which a vector word runs: its context runs it, its scalars can be read, no vector or mask register is poisoned, and,
where the word depends on `%vt`, ILF is clear, TYPE suits it and its groups fit. -/
def vecReady (s : State) (i : Instr) (R : VecRule) : Prop :=
  mayRun i s.who = true ∧ s.ready R.scalars R.scalars = true ∧ s.sh.vPoison = [] ∧ s.sh.mPoison = [] ∧ (R.typed = true → s.sh.vt.getLsbD 63 = false ∧ lengthFits s) ∧
    R.ok = true ∧ (∀ p ∈ groupsOf R, groupFits p.1 p.2 R.lim = true) ∧
    (∀ w ∈ R.writes, groupFits w.dst w.count (match i with | .ve8d .. => 32 | _ => 8) = true) ∧ writesApart R

/-- From `s` a vector word completed as its rule says, and `t` is the result. -/
def vecDone (s : State) (R : VecRule) (t : State) : Prop :=
  VecFrame (match R.sx with | some (n, x) => s.modCu (fun u => u.setSx n x) | none => s) t (s.pc + 8) ∧
    t.sh.m = s.sh.m ∧ t.sh.vt = s.sh.vt ∧ t.sh.vstrt = s.sh.vstrt ∧ t.sh.vPoison = [] ∧ t.sh.mPoison = [] ∧
    t.sh.vl = R.vl.getD s.sh.vl ∧ t.sh.vfx = R.flags.foldl (· ||| ·) s.sh.vfx ∧
    (∀ w ∈ R.writes, ∀ e, e < w.count * 512 * s.lanes / w.width →
      element s.sh t.sh.v s.lanes w.dst.toNat w.width e =
        match w.val e with
        | some v => (v % 2 ^ w.width).toNat
        | none => el s w.dst w.width e) ∧
    (∀ p, (∀ w ∈ R.writes, ∀ j, j < w.count → p ≠ named s.sh (w.dst.toNat + j)) → KMap.get 0 t.sh.v p = KMap.get 0 s.sh.v p)

end Sys2Proof.Claims

/-- R376-R404, R415: every vector word that writes vector registers gives each element the value its row states, keeps what the mask, `%vl` and
TAIL leave alone, ORs its flags into `%vfx`, and changes nothing else. The premises are R380's checks.
Elements past a group are open values (log entry 9). -/
def Obligations.VectorWordsWriteTheirElements : Prop :=
  ∀ (i : Instr) (R : VecRule) (s : State), i.wf = true → vecRule s i = some R → vecReady s i R → ¬ interlocked s (groupsOf R) →
    s.cu.sxPoison = [] →
    ∃ t, exec i s = .next t ∧ vecDone s R t

namespace Sys2Proof.Claims
/-- The type field of a word of the register class (R326). -/
def typeField (i : Instr) : Nat := (encode i).toNat / 2 ^ 15 % 2 ^ 5
end Sys2Proof.Claims

/-- R340, R377, R378, R380, R164: while ILF is set, or with a type field that is not TYPE, or with a group that does not fit, a vector word
traps FT_VTYPE with nothing changed before; one whose registers an earlier matrix entry names waits. -/
def Obligations.VectorWordsAreChecked : Prop :=
  ∀ (i : Instr) (R : VecRule) (s : State), i.wf = true → vecRule s i = some R → mayRun i s.who = true → s.ready R.scalars R.scalars = true →
    R.typed = true →
    (s.sh.vt.getLsbD 63 = true → exec i s = .next (s.dropReplies.takeTrap (tr 0x04 0 0))) ∧
    (typeField i ≠ 0 → typeField i ≠ tyCode s.ty → exec i s = .next (s.dropReplies.takeTrap (tr 0x04 0 0))) ∧
    (s.sh.vt.getLsbD 63 = false → R.ok = true → (∃ p ∈ groupsOf R, groupFits p.1 p.2 32 = false) → exec i s = .next (s.dropReplies.takeTrap (tr 0x04 0 0))) ∧
    (vecReady s i R → interlocked s (groupsOf R) → exec i s = .next (s.markWait .queue))

/-! ### Masks, vector length and type, vector slots (R330, R339, R382, R383, R388, R391, R416) -/

namespace Sys2Proof.Claims

/-- What a word that writes a mask register does: bit `i` below `%vl` and its flags. -/
structure MaskRule where
  ok : Bool
  typed : Bool
  reads : List (Reg × Nat)
  scalars : List Reg
  dst : Reg
  on : Nat → Bool
  bit : Nat → Bool
  flags : List Word

/-- A condition of VCMP over integers (R388). -/
def vcondSays (c : VCond) (a b : Int) : Bool :=
  match c with
  | .eq => decide (a = b)
  | .ne => decide (a ≠ b)
  | .lt => decide (a < b)
  | .le => decide (a ≤ b)
  | .gt => decide (a > b)
  | .ge => decide (a ≥ b)
/-- The eight functions of MLOG (R391). -/
def mlogSays (op : Nat) (a b : Bool) : Bool :=
  match op with
  | 0 => a && b
  | 1 => a || b
  | 2 => xor a b
  | 3 => a && !b
  | 4 => !(a && b)
  | 5 => !(a || b)
  | 6 => !(xor a b)
  | _ => !a
/-- R388 and R391. -/
def maskRule (s : State) : Instr → Option MaskRule
  | .vcmp c x =>
    some { ok := fits s x.ty && tyIsInt s.ty, typed := true, reads := (x.a, s.grp) :: (if x.sc then [] else [(x.b, s.grp)]),
           scalars := if x.sc then [x.b] else [], dst := x.d, on := chosen s x.q,
           bit := fun i => vcondSays c (asInt (intTy s) (el s x.a s.sew i)) (asInt (intTy s) (elB s x s.sew i)), flags := [] }
  | .vfcmp c x =>
    let r (i : Nat) := fcompare (fmtOf s.ty) c (el s x.a s.sew i) (elB s x s.sew i)
    some { ok := fits s x.ty && tyIsFloat s.ty, typed := true, reads := (x.a, s.grp) :: (if x.sc then [] else [(x.b, s.grp)]),
           scalars := if x.sc then [x.b] else [], dst := x.d, on := chosen s x.q, bit := fun i => (r i).1,
           flags := (picked s x.q).map (fun i => (r i).2) }
  | .mlog op d a b =>
    some { ok := true, typed := false, reads := [], scalars := [], dst := d, on := fun _ => true,
           bit := fun i => mlogSays op.toNat (maskBit s a.toNat i) (maskBit s b.toNat i), flags := [] }
  | _ => none

/-- A `%vt` image as a write stores it (R339): ILF says whether a field breaks the rule. -/
def vtStored (v : Word) : Word :=
  let n := v.toNat
  let width (c : Nat) : Nat := (tyOf c).elim 0 tyWidth
  let sew := 8 * 2 ^ (n % 8)
  let t := n / 2 ^ 6 % 32
  let t2 := n / 2 ^ 11 % 32
  let bad := n / 2 ^ 20 % 2 ^ 43 ≠ 0 ∨ 4 ≤ n % 8 ∨ 4 ≤ n / 8 % 8 ∨ 19 ≤ t ∨ 19 ≤ t2 ∨ width t ≠ sew ∨
    ¬ (width t2 = sew ∨ 2 * width t2 = sew ∨ 4 * width t2 = sew)
  BitVec.ofNat 64 (n % 2 ^ 63 + if bad then 2 ^ 63 else 0)
/-- The selected elements whose bit of a mask register is set. -/
def counted (s : State) (a : Reg) (q : BitVec 4) : List Nat := (picked s q).filter (maskBit s a.toNat)
/-- The context is a vector context that runs `i` and passes its scalar checks. -/
def vecCtx (s : State) (i : Instr) (regs srcs : List Reg) : Prop := mayRun i s.who = true ∧ s.ready regs srcs = true ∧ s.sh.vPoison = [] ∧ s.sh.mPoison = []

/-- The rule of a slot without scalar operands: R330's vector operations, unmasked, and NOP. -/
def vecSlot (s : State) : Slot → Option VecRule
  | .nop => some { ok := true, reads := [], writes := [], typed := false }
  | .vec op d a b =>
    let x : V3 := ⟨d, a, b, 0, .i8, false⟩
    vecRule s (match op with | .vadd => .vadd x | .vsub => .vsub x | .vmul => .vmul x | .vfadd => .vfadd x | .vfmul => .vfmul x)
  | .vmv d a => vecRule s (.vmv ⟨d, a, 0, 0, .i8, false⟩)
  | _ => none
/-- Two rules of one word. -/
def bothOf (a b : VecRule) : VecRule :=
  { ok := a.ok && b.ok, reads := a.reads ++ b.reads, writes := a.writes ++ b.writes, flags := a.flags ++ b.flags, typed := a.typed || b.typed }

end Sys2Proof.Claims

/-- R388, R391, R379: a compare or MLOG writes its mask register: the result of each selected element below `%vl`, 0 everywhere else. -/
def Sys2Proof.Claims.maskWordsWriteTheirBits : Prop :=
  ∀ (i : Instr) (R : MaskRule) (s : State), i.wf = true → maskRule s i = some R → vecCtx s i R.scalars R.scalars →
    (R.typed = true → s.sh.vt.getLsbD 63 = false ∧ lengthFits s) → R.ok = true → (∀ p ∈ R.reads, groupFits p.1 p.2 8 = true) → ¬ interlocked s R.reads →
    ∃ t, exec i s = .next t ∧ VecFrame s t (s.pc + 8) ∧ t.sh.v = s.sh.v ∧ t.sh.vl = s.sh.vl ∧ t.sh.vt = s.sh.vt ∧ t.sh.vstrt = s.sh.vstrt ∧
      t.sh.vPoison = [] ∧ t.sh.mPoison = [] ∧ t.sh.vfx = R.flags.foldl (· ||| ·) s.sh.vfx ∧
      (∀ j, j < 65536 → (KMap.get 0 t.sh.m R.dst.toNat).getLsbD j = (decide (j < s.sh.vl) && R.on j && R.bit j)) ∧
      (∀ m, m ≠ R.dst.toNat → KMap.get 0 t.sh.m m = KMap.get 0 s.sh.m m)

/-- R382, R383, R391, R416: the vector words with scalar results, and the setting of `%vt`. -/
def Sys2Proof.Claims.vectorLengthTypeAndScalarResults : Prop :=
  ∀ (s : State),
    (∀ d a, vecCtx s (.vsetvl d a) [d, a] [a] → s.sh.vt.getLsbD 63 = false →
      let n := min (s.rd a).toNat (vlmaxOf s s.sh.vt)
      ∃ t, exec (.vsetvl d a) s = .next t ∧ t.sh.vl = n ∧ t.rd d = s.written d (BitVec.ofNat 64 n) ∧
        ScalarFrame (s.modSh (fun x => { x with vl := n })) t (some d) 0 (s.pc + 8)) ∧
    (∀ d a, vecCtx s (.vsetvl d a) [d, a] [] → s.sh.vt.getLsbD 63 = true → exec (.vsetvl d a) s = .next (s.dropReplies.takeTrap (tr 0x04 0 0))) ∧
    (∀ r a image, vecCtx s (.vsett r a image) [a] (if r then [a] else []) →
      let vt := vtStored (if r then s.rd a else BitVec.ofNat 64 image.toNat)
      ∃ t, exec (.vsett r a image) s = .next t ∧ VecFrame s t (s.pc + 8) ∧ t.sh.vt = vt ∧ t.sh.vl = min s.sh.vl (vlmaxOf s vt) ∧
        t.sh.v = s.sh.v ∧ t.sh.m = s.sh.m ∧ t.sh.vfx = s.sh.vfx ∧ t.sh.vstrt = s.sh.vstrt ∧ t.sh.vPoison = [] ∧ t.sh.mPoison = []) ∧
    (∀ d a q, vecCtx s (.mpop d a q) [d] [] →
      ∃ t, exec (.mpop d a q) s = .next t ∧ t.rd d = s.written d (BitVec.ofNat 64 (counted s a q).length) ∧ ScalarFrame s t (some d) 0 (s.pc + 8)) ∧
    (∀ d a q, vecCtx s (.mfst d a q) [d] [] →
      ∃ t, exec (.mfst d a q) s = .next t ∧ ScalarFrame s t (some d) 0 (s.pc + 8) ∧
        ((counted s a q = [] ∧ t.rd d = s.written d (-1)) ∨
         ∃ j ∈ counted s a q, (∀ k ∈ counted s a q, j ≤ k) ∧ t.rd d = s.written d (BitVec.ofNat 64 j))) ∧
    (∀ (ix : Bool) d a b ty, vecCtx s (.vmvh ix d a b ty) (d :: if ix then [b] else []) (if ix then [b] else []) → s.sh.vt.getLsbD 63 = false →
      fits s ty = true → anyTy s.ty = true → lengthFits s → groupFits a s.grp 8 = true → ¬ interlocked s [(a, s.grp)] →
      let j := if ix then (s.rd b).toNat else 0
      ∃ t, exec (.vmvh ix d a b ty) s = .next t ∧ ScalarFrame s t (some d) 0 (s.pc + 8) ∧
        t.rd d = s.written d (if j < vlmaxOf s s.sh.vt then extended s.ty (el s a s.sew j) else 0))

/-- R379, R382, R383, R388, R391, R416: compares, MLOG, the words with scalar results and the setting of `%vl` and `%vt`. -/
def Obligations.MaskAndVectorScalarResults : Prop :=
  Claims.maskWordsWriteTheirBits ∧ Claims.vectorLengthTypeAndScalarResults

/-- R330, R332: vector slots perform their rows unmasked, both reading before either writes. -/
def Obligations.VectorSlotsDoTheirRows : Prop :=
  ∀ (s : State) (sa sb : Slot) (A B : VecRule), dualReady s sa sb → vecSlot s sa = some A → vecSlot s sb = some B →
    let R := bothOf A B
    R.ok = true → (R.typed = true → s.sh.vt.getLsbD 63 = false ∧ lengthFits s) → s.sh.vPoison = [] → s.sh.mPoison = [] → (∀ p ∈ groupsOf R, groupFits p.1 p.2 8 = true) →
    writesApart R → ¬ interlocked s (groupsOf R) →
    ∃ t, exec (.dualWord sa sb) s = .next t ∧ ((∀ r, s.who ≠ .reeve r) → vecDone s R t)

/-! ### Loops and blocks (R417-R425) -/

namespace Sys2Proof.Claims
/-- Loop register `k`. -/
def loopOf (x : Sheaf) (k : Nat) : Loop := KMap.get ⟨0, 0, 0⟩ x.lp k
/-- A loop word or VEND runs and passes its scalar checks; where the loop registers would go after it is checked with its own landing (R323). -/
def loopCtx (s : State) (i : Instr) (regs srcs : List Reg) : Prop :=
  mayRun i s.who = true ∧ s.agentOk = true ∧ s.off = false ∧ regs.any s.badReg = false ∧ srcs.any s.poisoned = false
/-- A loop word that `t` completes goes on at `next`, by way of the loop registers it leaves; a landing that is no multiple of 8 traps FT_ALIGN
on the word itself, with the landing (R323). -/
def goesOn (s t : State) (next : Word) (o : Host.Outcome State Fault Refusal) : Prop :=
  let a := (sheafNext t.sh next).pc
  (a.toNat % 8 = 0 → o = .next (t.ran next)) ∧ (a.toNat % 8 ≠ 0 → o = .next (s.dropReplies.takeTrap (tr 0x05 0 a)))
/-- The address of the running block's `vend`: the first word 0x3540_0000_0000_0000 of the block. -/
def vendAt (x : Sheaf) : Nat := x.blockAddr.toNat + 8 * (x.block.takeWhile (fun w => w != 0x3540000000000000)).length
/-- An SLOOP is busy (SLP.V). -/
def piped (x : Sheaf) : Bool := x.slp.getLsbD 63
/-- The subcode of FT_LOOP that starting loop `k` with END `stop` raises, in R420's order; `range` is SLOOP's own part of RANGE. -/
def loopFault (x : Sheaf) (k : Nat) (stop : Word) (range : Bool) : Option Nat :=
  let busy (j : Nat) : Bool := (loopOf x j).count != 0
  if busy k then some 1
  else if range || decide (vendAt x < stop.toNat) then some 2
  else if (k == 0 && busy 1) || (k == 1 && busy 0 && decide ((loopOf x 0).stop.toNat < stop.toNat)) || piped x then some 3
  else none
/-- The address OFF words on. -/
def wordsOn (s : State) (off : BitVec 9) : Word := wrap (s.pc.toInt + 8 * off.toNat)
/-- FT_LOOP with a subcode. -/
def loopTrapOf (n : Nat) : TrapInfo := tr 0x14 n 0
/-- Byte `j` of a stage word. -/
def boundary (v : Word) (j : Nat) : Nat := v.toNat / 2 ^ (8 * j) % 256
/-- The RANGE part of an SLOOP (R420): more than 255 words, a boundary past the body or below the one before, W above 32 or no multiple of STEP. -/
def sloopOut (v : Word) (stages w step off : Nat) : Bool :=
  decide (255 < off - 1) || decide (∃ j, j < stages - 1 ∧ (off - 1 < boundary v j ∨ (0 < j ∧ boundary v j < boundary v (j - 1)))) ||
    decide (32 < w) || decide (w % step ≠ 0)
/-- A sheaf at a SLOOP's start (R421, R422). -/
def pipeStarted (x : Sheaf) (k : Nat) (start stop : Word) (n stages w group : Nat) (v : Word) : Sheaf :=
  { x with
    lp := KMap.set ⟨0, 0, 0⟩ x.lp k ⟨start, stop, BitVec.ofNat 64 (min (n + stages - 1) (2 ^ 64 - 1))⟩
    slp := BitVec.ofNat 64 (2 ^ 63 + k * 2 ^ 62 + (stages - 1) * 2 ^ 56 + v.toNat % 2 ^ (8 * (stages - 1)))
    rrb := BitVec.ofNat 64 (w * 2 ^ 8 + group * 2 ^ 16)
    stg := 1 }
/-- The SLOOP is over (R423). -/
def unpiped (x : Sheaf) : Sheaf := { x with slp := 0, rrb := 0, stg := 0 }
/-- Loop `k` with another count. -/
def counting (x : Sheaf) (k : Nat) (c : Word) : Sheaf := { x with lp := KMap.set ⟨0, 0, 0⟩ x.lp k { loopOf x k with count := c } }
/-- The SLOOP's loop register. -/
def pipeLoop (x : Sheaf) : Nat := if x.slp.getLsbD 62 then 1 else 0
/-- A kernel run ends with `c` left (R423): the stages shift, and RRB falls by STEP modulo W. -/
def stepped (x y : Sheaf) (c : Nat) : Prop :=
  let stages := x.slp.toNat / 2 ^ 56 % 8 + 1
  let w := x.rrb.toNat / 2 ^ 8 % 64
  let step := 2 ^ (x.rrb.toNat / 2 ^ 16 % 4)
  y.stg.toNat = (2 * (x.stg.toNat % 256) + if stages ≤ c then 1 else 0) % 2 ^ stages ∧
    (w = 0 → y.rrb = x.rrb) ∧
    (0 < w → step ≤ w → (y.rrb.toNat % 64 + step) % w = x.rrb.toNat % 64 % w ∧ y.rrb.toNat % 64 < w ∧ y.rrb.toNat / 64 = x.rrb.toNat / 64)
end Sys2Proof.Claims

/-- R417-R421: LOOP, SLOOP and LPBRK. -/
def Sys2Proof.Claims.loopWordsStartAndBreak : Prop :=
  ∀ (s : State) (lp : BitVec 1), let k := lp.toNat
    (∀ i a imm off, let w : Instr := .loop lp i a imm off
      loopCtx s w (if i then [] else [a]) (if i then [] else [a]) →
      let stop := wordsOn s off
      let c := if i then BitVec.ofNat 64 imm.toNat else s.rd a
      (∀ n, loopFault s.sh k stop false = some n → exec w s = .next (s.dropReplies.takeTrap (loopTrapOf n))) ∧
      (loopFault s.sh k stop false = none →
        goesOn s (s.modSh (fun x => { x with lp := KMap.set ⟨0, 0, 0⟩ x.lp k ⟨s.pc + 8, stop, c⟩ })) (if c = 0 then stop else s.pc + 8) (exec w s))) ∧
    (∀ a b sm w off, let i : Instr := .sloop lp a b sm w off
      loopCtx s i [a, b] [] → (s.sh.vt.getLsbD 63 = true ∨ tyIsE8 s.ty = true → exec i s = .next (s.dropReplies.takeTrap (tr 0x04 0 0))) ∧
      (s.sh.vt.getLsbD 63 = false → tyIsE8 s.ty = false → s.poisoned a = false → s.poisoned b = false →
      let stop := wordsOn s off
      let g := s.sh.vt.toNat / 8 % 8
      let n := (s.rd a).toNat
      let out := sloopOut (s.rd b) (sm.toNat + 1) w.toNat (2 ^ g) off.toNat
      (∀ n, loopFault s.sh k stop out = some n → exec i s = .next (s.dropReplies.takeTrap (loopTrapOf n))) ∧
      (loopFault s.sh k stop out = none → n = 0 →
        goesOn s (s.modSh (fun x => { x with lp := KMap.set ⟨0, 0, 0⟩ x.lp k ⟨s.pc + 8, stop, 0⟩ })) stop (exec i s)) ∧
      (loopFault s.sh k stop out = none → n ≠ 0 →
        goesOn s (s.modSh (fun x => pipeStarted x k (s.pc + 8) stop n (sm.toNat + 1) w.toNat g (s.rd b))) (s.pc + 8) (exec i s)))) ∧
    (∀ u a, let i : Instr := .lpbrk lp u a
      loopCtx s i (if u then [] else [a]) (if u then [] else [a]) →
      let taken := u = true ∨ s.rd a ≠ 0
      (¬ taken → goesOn s s (s.pc + 8) (exec i s)) ∧
      (taken → (loopOf s.sh k).count = 0 → exec i s = .next (s.dropReplies.takeTrap (loopTrapOf 4))) ∧
      (taken → (loopOf s.sh k).count ≠ 0 →
        goesOn s (s.modSh (fun x =>
          let y := counting x k 0
          let y := if k = 0 then counting y 1 0 else y
          if piped x = true ∧ (pipeLoop x = k ∨ k = 0) then unpiped y else y)) (loopOf s.sh k).stop (exec i s)))

/-- R418, R423: where a sheaf goes after a word: the inner loop's back-edge first, then the outer's; a finished loop lets the other take its own. -/
def Sys2Proof.Claims.backEdgesAreTakenInOrder : Prop :=
  ∀ (x : Sheaf) (next : Word),
    let l := loopOf x
    let ends (k : Nat) : Prop := (l k).count ≠ 0 ∧ next = (l k).stop
    let more (k : Nat) : Prop := ends k ∧ 1 < (l k).count.toNat
    let pipe (k : Nat) : Prop := piped x = true ∧ pipeLoop x = k
    (¬ ends 1 → ¬ ends 0 → sheafNext x next = { x with pc := next }) ∧
    (∀ k, (k = 1 ∨ (k = 0 ∧ ¬ ends 1)) → more k →
      let y := counting x k ((l k).count - 1)
      (¬ pipe k → sheafNext x next = { y with pc := (l k).start }) ∧
      (pipe k → stepped x (sheafNext x next) ((l k).count.toNat - 1) ∧
        sheafNext x next = { y with stg := (sheafNext x next).stg, rrb := (sheafNext x next).rrb, pc := (l k).start })) ∧
    (∀ k, (k = 1 ∧ ¬ ends 0) ∨ (k = 0 ∧ ¬ ends 1) → ends k → ¬ more k →
      sheafNext x next = { (if piped x = true ∧ pipeLoop x = k then unpiped (counting x k 0) else counting x k 0) with pc := next }) ∧
    (ends 1 → ¬ more 1 → more 0 → ¬ pipe 0 → (sheafNext x next).pc = (l 0).start ∧
      loopOf (sheafNext x next) 1 = { l 1 with count := 0 } ∧ loopOf (sheafNext x next) 0 = { l 0 with count := (l 0).count - 1 })

/-- R417-R423: LOOP, SLOOP and LPBRK, and the back-edges of both loop levels. -/
def Obligations.LoopsStartBreakAndGoBack : Prop :=
  Claims.loopWordsStartAndBreak ∧ Claims.backEdgesAreTakenInOrder

/-- R424, R425: VRPT queues a reply and VEND ends the block; both wake the owning reeve. -/
def Obligations.BlockWordsReplyAndEnd : Prop :=
  ∀ (s : State) (k : Nat), s.who = .sheaf k →
    (∀ a, s.ready [a] [a] = true → s.sh.replies.length < 16 →
      exec (.vrpt a) s = .next (((s.modSh (fun x => { x with replies := x.replies ++ [s.rd a] })).wake s.uid (s.cu.owner k)).ran (s.pc + 8))) ∧
    (∀ a, s.ready [a] [a] = true → 16 ≤ s.sh.replies.length → exec (.vrpt a) s = .next (s.markWait .vrpt)) ∧
    (s.off = false → ∃ t, exec .vend s = .next t ∧ (t.cu.sheafOf k).busy = false ∧ (t.cu.sheafOf k).block = [] ∧
      loopOf (t.cu.sheafOf k) 0 = { loopOf s.sh 0 with count := 0 } ∧ loopOf (t.cu.sheafOf k) 1 = { loopOf s.sh 1 with count := 0 } ∧
      (t.cu.sheafOf k).slp = 0 ∧ (t.cu.sheafOf k).v = s.sh.v ∧ (t.cu.sheafOf k).h = s.sh.h ∧ (t.cu.sheafOf k).replies = s.sh.replies ∧
      (t.cu.reeveOf (s.cu.owner k)).latch = true) ∧
    -- VBARS: the first performance arrives and waits; once its episode is complete the word completes
    (∀ m, s.ready [] [] = true → m.toNat < 2 ^ s.cu.nSheaves → m.getLsbD k = true →
      (s.sh.vbarsAt = none → exec (.vbars m) s = .next ((s.modSh (fun x =>
        { x with arrivals := KMap.set 0 x.arrivals m.toNat (KMap.get 0 x.arrivals m.toNat + 1), vbarsAt := some (m.toNat, KMap.get 0 x.arrivals m.toNat + 1) })).markWait .vbars)) ∧
      (∀ n, s.sh.vbarsAt = some (n, 0) → exec (.vbars m) s = .next ((s.modSh (fun x => { x with vbarsAt := none })).ran (s.pc + 8))))

/-! ### Sheaf memory (R405-R414, R187, R188, R316) -/

namespace Sys2Proof.Claims

/-- A memory form: its operands, the index group it reads, its scalar registers, whether TYPE may use it, and the address of access `k`. -/
structure MemForm where
  x : V2
  index : List (Reg × Nat)
  scalars : List Reg
  ok : Bool
  place : Nat → Word
  m : MemQ

/-- R406: elements in one access of a type, its bytes, and its alignment. -/
def memUnit (t : Ty) : Nat × Nat × Nat :=
  match t with
  | .i4 => (2, 1, 1)
  | .i3 => (8, 3, 1)
  | .e8w16 => (8, 2, 2)
  | .e8w32 => (8, 4, 4)
  | t => (1, tyWidth t / 8, tyWidth t / 8)
/-- A type with one element an access. -/
def oneEach (t : Ty) : Bool := anyTy t && t != .i4 && t != .i3
/-- An index type. -/
def plainInt (t : Ty) : Bool := [.i8, .i16, .i32, .i64, .n8, .n16, .n32, .n64].contains t
/-- TYPE2. -/
def ty2 (s : State) : Ty := vtType2 s.sh.vt
/-- R407: unit stride, strided and indexed places. -/
def unitForm (s : State) (x : V2) (off : BitVec 20) (m : MemQ) : MemForm :=
  ⟨x, [], [x.a], fits s x.ty, fun k => wrap ((addr s x.a off).toInt + k * (memUnit s.ty).2.1), m⟩
def strideForm (s : State) (b : Reg) (x : V2) (off : BitVec 20) (m : MemQ) : MemForm :=
  ⟨x, [], [x.a, b], fits s x.ty && oneEach s.ty, fun k => wrap ((addr s x.a off).toInt + k * (s.rd b).toInt), m⟩
def indexForm (s : State) (b : Reg) (x : V2) (m : MemQ) : MemForm :=
  ⟨x, [(b, regsAt s (tyWidth (ty2 s)))], [x.a], fits s x.ty && oneEach s.ty && plainInt (ty2 s),
    fun k => wrap ((s.rd x.a).toInt + asInt (ty2 s) (el s b (tyWidth (ty2 s)) k)), m⟩
/-- The loads, and the stores. -/
def loadForm (s : State) : Instr → Option MemForm
  | .vld x off m => some (unitForm s x off m)
  | .vlds b x off m => some (strideForm s b x off m)
  | .vldx b x m => some (indexForm s b x m)
  | _ => none
def storeForm (s : State) : Instr → Option MemForm
  | .vst x off m => some (unitForm s x off m)
  | .vsts b x off m => some (strideForm s b x off m)
  | .vstx b x m => some (indexForm s b x m)
  | _ => none
/-- The elements of access `k`: an E8 point goes by its element 0 (R243). -/
def elementsOf (t : Ty) (k : Nat) : List Nat := if anyTy t then (List.range (memUnit t).1).map ((memUnit t).1 * k + ·) else [8 * k]
/-- The accesses of the selected elements from `lo` on, in order, each under its lowest such element. -/
def accessList (s : State) (q : BitVec 4) (lo : Nat) (place : Nat → Word) : List VAcc :=
  let (per, n, al) := memUnit s.ty
  (List.range ((s.sh.vl + per - 1) / per)).filterMap (fun k =>
    ((elementsOf s.ty k).find? (fun i => decide (lo ≤ i ∧ i < s.sh.vl) && chosen s q i)).map (fun i => ⟨i, k, place k, n, al⟩))
/-- An access with its translated pieces: address, bytes and target. -/
abbrev Placed := VAcc × List (Word × Nat × Phys)
/-- The bytes of its pieces, in order. -/
def placedBytes (u : State) (a : Placed) : List Byte :=
  a.2.flatMap (fun p => (List.range p.2.1).map ((localByte u p.2.2 p.2.1).getD (fun _ => 0)))
/-- Every piece is a local target that can be read, and no view tile stands in for it. -/
def localPlaces (u : State) (l : List Placed) : Prop :=
  ∀ a ∈ l, ∀ p ∈ a.2, (localByte u p.2.2 p.2.1).isSome = true ∧ viewOf u.cu p.1.toNat p.2.1 = none ∧
    (∀ pa, p.2.2 = .host pa → noCommand u = true) ∧ (∀ f o, p.2.2 ≠ .mmio f o)
/-- The value of element `i` in the bytes of its access: i4 and i3 sign-extended to 8 bits (R221), a point's code as it is. -/
def loadedValue (t : Ty) (b : List Byte) (i : Nat) : Int :=
  let n := littleEndian (fun j => b.getD j 0) b.length
  match t with
  | .i4 => signed 4 (n / 2 ^ (4 * (i % 2)))
  | .i3 => signed 3 (n / 2 ^ (3 * (i % 8)))
  | _ => n
/-- The access that holds register element `i` among those read. -/
def loadedAt (u : State) (t : Ty) (l : List Placed) (i : Nat) : Option Int :=
  let k := if anyTy t then i / (memUnit t).1 else i
  (l.find? (fun a => a.1.key == k)).map (fun a => loadedValue t (placedBytes u a) i)
/-- Register elements that a mask bit and `%vl` govern: points of E8 types, elements of the others. -/
def regEnd (s : State) : Nat := if anyTy s.ty then s.sh.vl else (s.sh.vl + 7) / 8
def regOn (s : State) (q : BitVec 4) (i : Nat) : Bool := chosen s q (if anyTy s.ty then i else 8 * i)
/-- What a load writes: the selected elements below `n`, the tail by TAIL when nothing failed. -/
def loadRule (s u : State) (f : MemForm) (l : List Placed) (trim : Option Nat) : VecRule :=
  { ok := f.ok, reads := f.index, scalars := f.scalars,
    writes := [⟨f.x.d, s.grp, s.sew, fun i =>
      if i < regEnd s then
        (if regOn s f.x.q i && decide ((if anyTy s.ty then i else 8 * i) < trim.getD s.sh.vl) then loadedAt u s.ty l i else none)
      else if trim.isNone && s.sh.vt.getLsbD 19 then some 0 else none⟩],
    vl := trim }
/-- The vector memory word passes R380's checks: an index group may span its own registers. -/
def memReady (s : State) (i : Instr) (f : MemForm) : Prop :=
  mayRun i s.who = true ∧ s.ready f.scalars f.scalars = true ∧ s.sh.vPoison = [] ∧ s.sh.mPoison = [] ∧ s.sh.vt.getLsbD 63 = false ∧ lengthFits s ∧ f.ok = true ∧
    (∀ p ∈ (f.x.d, s.grp) :: f.index, groupFits p.1 p.2 8 = true) ∧ ¬ interlocked s ((f.x.d, s.grp) :: f.index)
end Sys2Proof.Claims

/-- R406-R408, R187, R188, R410: a vector load of local targets writes its elements; a failing access trims `%vl` to its element, and the first
active one traps with nothing written. -/
def Sys2Proof.Claims.vectorLoadsReadTheirElements : Prop :=
  ∀ (i : Instr) (f : MemForm) (s : State), i.wf = true → loadForm s i = some f → memReady s i f → s.loadGate f.m = none →
    let r := s.vxlate .load (accessList s f.x.q 0 f.place)
    let u := r.2.2.migrateAll (vpieces r.1)
    let v := if acquires f.m then acquired u f.m.scope.toNat else u
    localPlaces u r.1 →
    (r.2.1 = none → ∃ t, exec i s = .next t ∧ vecDone v (loadRule s u f r.1 none) t) ∧
    (∀ a e, r.2.1 = some (a, e) → (accessList s f.x.q 0 f.place).head?.map (·.el) ≠ some a.el →
      ∃ t, exec i s = .next t ∧ vecDone v (loadRule s u f r.1 (some a.el)) t) ∧
    (∀ a e, r.2.1 = some (a, e) → (accessList s f.x.q 0 f.place).head?.map (·.el) = some a.el →
      exec i s = .next (u.dropReplies.takeTrap e))

namespace Sys2Proof.Claims
/-- A byte of HBM (space 0) or of unit q's loft (space q + 1). -/
def spaceByte (s : State) (sp k : Nat) : Byte := if sp = 0 then KMap.get 0 s.hbm k else KMap.get 0 (s.unitOf (sp - 1)).loft k
/-- The place of a piece, where it is plain HBM or a loft. -/
def spaceOf : Phys → Option (Nat × Nat)
  | .hbm pa false => some (0, pa)
  | .loft q o => some (q + 1, o)
  | _ => none
/-- Bytes stored at a place. -/
def stored (mem : Nat → Nat → Byte) (sp a : Nat) (b : List Byte) : Nat → Nat → Byte :=
  fun sp' k => if sp' = sp ∧ a ≤ k ∧ k < a + b.length then b.getD (k - a) 0 else mem sp' k
/-- The bytes of an access in a memory. -/
def read (mem : Nat → Nat → Byte) (a : Placed) : List Byte :=
  a.2.flatMap (fun p => (List.range p.2.1).map (fun j => match spaceOf p.2.2 with | some (sp, k) => mem sp (k + j) | none => 0))
/-- The pieces of an access take its bytes in order. -/
def write (mem : Nat → Nat → Byte) : List (Word × Nat × Phys) → List Byte → Nat → Nat → Byte
  | [], _ => mem
  | p :: t, b => write (match spaceOf p.2.2 with | some (sp, k) => stored mem sp k (b.take p.2.1) | none => mem) t (b.drop p.2.1)
/-- The bytes an access stores (R409): the element's low bytes; of i4 and i3, the selected elements' bits over what memory holds. -/
def storeBytes (s : State) (x : V2) (lo : Nat) (old : List Byte) (a : VAcc) : List Byte :=
  let (per, n, _) := memUnit s.ty
  let w := if s.ty = .i4 then 4 else 3
  let was := littleEndian (fun j => old.getD j 0) n
  let bit (b : Nat) : Bool :=
    let i := per * a.key + b / w
    if lo ≤ i ∧ i < s.sh.vl ∧ chosen s x.q i then (el s x.d s.sew i).testBit (b % w) else was.testBit b
  let v := if s.ty = .i4 ∨ s.ty = .i3 then ((List.range (8 * n)).map (fun b => if bit b then 2 ^ b else 0)).sum else el s x.d s.sew a.key
  (List.range n).map (byteOf v)
/-- A vector store, access by access in increasing element order. -/
def storeAll (s : State) (x : V2) (lo : Nat) (mem : Nat → Nat → Byte) : List Placed → Nat → Nat → Byte
  | [] => mem
  | a :: t => storeAll s x lo (write mem a.2 (storeBytes s x lo (read mem a) a.1)) t
/-- Every piece is plain HBM, or a loft that stands in its core, and readable. -/
def plainPlaces (u : State) (l : List Placed) : Prop :=
  ∀ a ∈ l, ∀ p ∈ a.2, (spaceOf p.2.2).isSome = true ∧ viewOf u.cu p.1.toNat p.2.1 = none ∧ (localByte u p.2.2 p.2.1).isSome = true ∧
    (∀ q o, p.2.2 = .loft q o → (u.unitOf q).loftResident = true ∧ u.routineStream = none)
/-- From `u` to `v` only bytes of HBM and of lofts and their error marks changed, and the bytes are as `mem` says; a sealed pass keeps what its
SEALED pages showed at the last merge point (R215). -/
def bytesAre (u v : State) (mem : Nat → Nat → Byte) : Prop :=
  v = { u with hbm := v.hbm, hbmPoison := v.hbmPoison, units := v.units, parts := v.parts } ∧
    (∀ q, v.unitOf q = { u.unitOf q with loft := (v.unitOf q).loft, loftPoison := (v.unitOf q).loftPoison }) ∧
    (∀ sp k, spaceByte v sp k = mem sp k) ∧
    (u.sealedPass u.cu = false → v.parts = u.parts) ∧ (∀ a, snapByte v a = snapByte u a) ∧
    (∀ p, v.partOf p = { u.partOf p with passes := (v.partOf p).passes }) ∧
    (∀ p n, v.passAt p n = (u.passAt p n).map (fun x =>
      if p = u.cu.part ∧ n = passSeq u.cu.passId then { x with snap := ((v.passAt p n).map (·.snap)).getD [] } else x))
/-- The same, and no error mark changed. -/
def onlyBytes (u v : State) (mem : Nat → Nat → Byte) : Prop :=
  bytesAre u v mem ∧ v.hbmPoison = u.hbmPoison ∧ ∀ q, (v.unitOf q).loftPoison = (u.unitOf q).loftPoison
/-- START (R316). -/
def startOf (s : State) : Nat := s.sh.vstrt.toNat % 2 ^ 17
/-- The store waits at an element above those that it has performed: its order is kept already (R409). -/
def midStore (s : State) : Bool := startOf s != 0 && s.sh.wait.isSome && s.sh.wait != some .fence
/-- `%vstrt` with START. -/
def withStart (s : State) (n : Nat) : State := s.modSh (fun x => { x with vstrt := BitVec.ofNat 64 n })
/-- A store's trap: INFO0 names the element (R314), but for an unreachable peer, whose INFO0 names the peer. -/
def atElement (n : Nat) (e : TrapInfo) : TrapInfo := if e.code = 0x13 ∧ e.sub = 4 then e else { e with info0 := BitVec.ofNat 64 n }
end Sys2Proof.Claims

/-- R406, R407, R409, R410, R316: a vector store goes on from START in element order, keeps the bits it does not name, and leaves START 0; one
whose element fails performs those below it, sets START to it and traps. -/
def Obligations.VectorStoresWriteTheirElements : Prop :=
  ∀ (i : Instr) (f : MemForm) (s : State), i.wf = true → storeForm s i = some f → memReady s i f →
    (midStore s = false → s.orderGate (releases f.m) f.m true = none) →
    let r := s.vxlate .store (accessList s f.x.q (startOf s) f.place)
    let u := r.2.2.migrateAll (vpieces r.1)
    plainPlaces u r.1 → plainStores u → u.shardOut = [] → (f.m.ord = 3 → u.held = false) →
    ∃ v, onlyBytes u v (storeAll s f.x (startOf s) (spaceByte u) r.1) ∧
      (r.2.1 = none → exec i s = .next ((withStart v 0).ran (s.pc + 8))) ∧
      (∀ a e, r.2.1 = some (a, e) → exec i s = .next ((withStart v a.el).dropReplies.takeTrap (atElement a.el e)))

namespace Sys2Proof.Claims
/-- The types of an atomic operation (R355). -/
def amoTypes (op : AmoOp) (t : Ty) : Bool :=
  match op with
  | .fadd | .fmin | .fmax => t == .f32 || t == .f64
  | _ => t == .i32 || t == .i64 || t == .n32 || t == .n64
/-- A vector atomic, element by element: the old values and the memory. -/
def atomicAll (s : State) (op : AmoOp) (x : V2) (mem : Nat → Nat → Byte) : List Placed → List (Nat × Nat) × (Nat → Nat → Byte)
  | [] => ([], mem)
  | a :: t =>
    let old := littleEndian (fun j => (read mem a).getD j 0) a.1.n
    let new := amoRule op s.ty old (el s x.d s.sew a.1.el)
    let r := atomicAll s op x (write mem a.2 ((List.range a.1.n).map (byteOf new))) t
    ((a.1.el, old) :: r.1, r.2)
/-- Bytes of a mask move: one access a byte (R414). -/
def maskAccesses (s : State) (a : Reg) (off : BitVec 20) : List VAcc :=
  (List.range ((s.sh.vl + 7) / 8)).map (fun j => ⟨8 * j, j, wrap ((addr s a off).toInt + j), 1, 1⟩)
end Sys2Proof.Claims

/-- R413, R355, R409: each element's operand is combined with the word at its address and replaced by the old value, in element order. -/
def Sys2Proof.Claims.vectorAtomicsReturnOldValues : Prop :=
  ∀ (op : AmoOp) (b : Reg) (x : V2) (m : MemQ) (s : State), (Instr.vamo op b x m).wf = true →
    let f := indexForm s b x m
    memReady s (.vamo op b x m) f → amoTypes op s.ty = true → s.orderGate (releases m) m false = none →
    let r := s.vxlate .atomic (accessList s x.q (startOf s) f.place)
    let u := r.2.2.migrateAll (vpieces r.1)
    plainPlaces u r.1 → plainStores u → u.cu.replies = [] → (∀ pa, u.lineBusy pa = false) →
    let q := atomicAll s op x (spaceByte u) r.1
    let rule : VecRule := { ok := true, reads := f.index, writes := [⟨x.d, s.grp, s.sew, fun e => ((q.1.find? (fun p => p.1 == e)).map (fun p => (p.2 : Int)))⟩] }
    ∃ v, onlyBytes u v q.2 ∧
      (r.2.1 = none → ∃ t, exec (.vamo op b x m) s = .next t ∧
        ∃ w, w = (if acquires m then acquired v m.scope.toNat else v) ∧
          (∀ e, e < s.grp * 512 * s.lanes / s.sew → element s.sh t.sh.v s.lanes x.d.toNat s.sew e =
            match (rule.writes[0]?).bind (fun z => z.val e) with
            | some y => (y % 2 ^ s.sew).toNat
            | none => el s x.d s.sew e) ∧
          t.sh.vstrt = 0 ∧ t.hbm = w.hbm ∧ VecFrame w t (s.pc + 8) ∧ t.sh.vl = s.sh.vl ∧ t.sh.m = s.sh.m ∧ t.sh.vt = s.sh.vt ∧ t.sh.vfx = s.sh.vfx) ∧
      (∀ a e, r.2.1 = some (a, e) → ∃ y, exec (.vamo op b x m) s = .next (y.dropReplies.takeTrap e) ∧ startOf y = a.el ∧
        (∀ k, k < s.grp * 512 * s.lanes / s.sew → element s.sh y.sh.v s.lanes x.d.toNat s.sew k =
          ((q.1.find? (fun p => p.1 == k)).map (·.2)).getD (el s x.d s.sew k)))

/-- R414: VLDM and VSTM move ⌈%vl/8⌉ bytes of a mask register. -/
def Sys2Proof.Claims.maskMovesReadAndWriteBytes : Prop :=
  ∀ (d a : Reg) (off : BitVec 20) (s : State),
    (vecCtx s (.vldm d a off) [a] [a] → s.loadGate plainMem = none →
      let r := s.vxlate .load (maskAccesses s a off)
      let u := r.2.2.migrateAll (vpieces r.1)
      localPlaces u r.1 →
      (r.2.1 = none → ∃ t, exec (.vldm d a off) s = .next t ∧ VecFrame u t (s.pc + 8) ∧
        (∀ j, j < 65536 → (KMap.get 0 t.sh.m d.toNat).getLsbD j =
          (decide (j < s.sh.vl) && (((r.1.flatMap (placedBytes u)).getD (j / 8) 0).getLsbD (j % 8)))) ∧
        (∀ m, m ≠ d.toNat → KMap.get 0 t.sh.m m = KMap.get 0 s.sh.m m) ∧ t.sh.v = s.sh.v ∧ t.sh.vl = s.sh.vl ∧ t.sh.vt = s.sh.vt ∧
        t.sh.vstrt = s.sh.vstrt ∧ t.sh.vfx = s.sh.vfx) ∧
      (∀ x e, r.2.1 = some (x, e) → exec (.vldm d a off) s = .next (r.2.2.dropReplies.takeTrap e))) ∧
    (vecCtx s (.vstm d a off) [a] [a] → s.orderGate false plainMem true = none →
      let r := s.vxlate .store (maskAccesses s a off)
      let u := r.2.2.migrateAll (vpieces r.1)
      plainPlaces u r.1 → plainStores u → u.shardOut = [] →
      (r.2.1 = none → ∃ v, exec (.vstm d a off) s = .next (v.ran (s.pc + 8)) ∧
        onlyBytes u v (r.1.foldl (fun mem p => write mem p.2
          [BitVec.ofNat 8 (((List.range 8).map (fun b => if 8 * p.1.key + b < s.sh.vl ∧ maskBit s d.toNat (8 * p.1.key + b) then 2 ^ b else 0)).sum)])
          (spaceByte u))) ∧
      (∀ x e, r.2.1 = some (x, e) → exec (.vstm d a off) s = .next (r.2.2.dropReplies.takeTrap e)))

/-- R355, R409, R413, R414: vector atomics, and moves of mask registers to and from memory. -/
def Obligations.VectorAtomicsAndMaskMoves : Prop :=
  Claims.vectorAtomicsReturnOldValues ∧ Claims.maskMovesReadAndWriteBytes

/-- R411, R169: a consuming load takes its bytes from the head of the stream buffer and returns their room; it waits for them, and a page or an
address that is no buffer, or a piece larger than the buffer, traps FT_STREAM. -/
def Sys2Proof.Claims.consumingLoadsTakeFromTheHead : Prop :=
  ∀ (x : V2) (off : BitVec 20) (s u : State) (ph : Phys), (Instr.vldC x off).wf = true → memReady s (.vldC x off) (unitForm s x off plainMem) →
    oneEach s.ty = true ∨ anyTy s.ty = false → s.loadGate plainMem = none → s.xlate s.xc .load true (addr s x.a off) 1 1 = .ok ph u →
    let n := (s.sh.vl + (memUnit s.ty).1 - 1) / (memUnit s.ty).1
    let size := (memUnit s.ty).2.1
    let marked : Prop := ∃ l, u.leafFor u.xc (addr s x.a off) = some (some l) ∧ pteStream l.pte = true
    (∀ o k b, ph = .loft s.uid o → marked → u.cu.streamAt o = some k → u.cu.streams[k]? = some b → n * size ≤ b.size →
      (b.fill < n * size → exec (.vldC x off) s = .next (u.markWait .stream)) ∧
      (n * size ≤ b.fill → (u.unitOf s.uid).loftResident = true → (u.unitOf s.uid).loftPoison = [] → 0 < b.size →
        let byte (j : Nat) : Byte := KMap.get 0 (u.unitOf s.uid).loft (b.off + (b.head + j) % b.size)
        ∃ t, exec (.vldC x off) s = .next t ∧
          (t.cu.streams[k]? = some { b with head := (b.head + n * size) % b.size, fill := b.fill - n * size }) ∧
          (∀ k', k' ≠ k → t.cu.streams[k']? = u.cu.streams[k']?) ∧
          (∀ i, i < s.grp * 512 * s.lanes / s.sew → element s.sh t.sh.v s.lanes x.d.toNat s.sew i =
            if i < n then (if regOn s x.q i then littleEndian (fun j => byte (i * size + j)) size else el s x.d s.sew i)
            else if s.sh.vt.getLsbD 19 then 0 else el s x.d s.sew i) ∧
          t.pc = s.follow ∧ t.hbm = u.hbm ∧ (t.unitOf s.uid).loft = (u.unitOf s.uid).loft)) ∧
      (¬ marked ∨ (∀ o, ph ≠ .loft s.uid o) → exec (.vldC x off) s = .next (u.dropReplies.takeTrap (tr 0x15 0 (addr s x.a off)))) ∧
      (∀ o k b, ph = .loft s.uid o → marked → u.cu.streamAt o = some k → u.cu.streams[k]? = some b → b.size < n * size →
        exec (.vldC x off) s = .next (u.dropReplies.takeTrap (tr 0x15 0 (addr s x.a off))))

/-- R169, R187, R188, R406-R408, R410, R411: vector loads and consuming loads. -/
def Obligations.VectorAndConsumingLoads : Prop :=
  Claims.vectorLoadsReadTheirElements ∧ Claims.consumingLoadsTakeFromTheHead

namespace Sys2Proof.Claims
/-- The index of dimension `k` of linear index `i` (R193): row-major, unused extents 1. -/
def dimIndex (d : Desc) (i k : Nat) : Nat :=
  i / ((List.range 4).filter (fun j => decide (k < j))).foldl (fun p j => p * sdExt d j) 1 % sdExt d k
/-- The coordinate of axis `a` for linear index `i`, or `r` on a replica axis (R193, R196). -/
def axisCoord (d : Desc) (r : Nat) (i a : Nat) : Nat :=
  match (List.range (sdRank d)).find? (fun k => sdAxis d k == a) with
  | some k => dimIndex d i k / sdBlk d k % sdM d a
  | none => r
/-- R193's local index, address and owner. -/
def localIndex (d : Desc) (i k : Nat) : Nat :=
  if sdAxis d k = 3 then dimIndex d i k
  else dimIndex d i k / (sdBlk d k * sdM d (sdAxis d k)) * sdBlk d k + dimIndex d i k % sdBlk d k
def localAddr (d : Desc) (i : Nat) : Word :=
  BitVec.ofNat 64 ((sdBase d).toNat + sdSize d * ((List.range (sdRank d)).foldl (fun a k => a + localIndex d i k * sdStr d k) 0))
end Sys2Proof.Claims

/-- R412, R193-R196: sharded words place each element by the descriptor; answered, a load writes its elements as VLDX would and a store leaves
START 0; a handle or a descriptor that does not serve traps FT_SHARD INVALID before any request. -/
def Obligations.ShardedWordsFollowTheirDescriptor : Prop :=
  (∀ (d : Desc) (i : Nat), sdValid d = true → i < sdCount d →
    sdAddr d i = localAddr d i ∧ ∀ c0 c1 c2, sdOwner d (c0, c1, c2) i =
      sdPeer d + axisCoord d c0 i 0 * sdS d 0 + axisCoord d c1 i 1 * sdS d 1 + axisCoord d c2 i 2 * sdS d 2) ∧
  (∀ (b : Reg) (x : V2) (m : MemQ) (s : State), (Instr.vlsh b x m).wf = true →
    let f : MemForm := ⟨x, [(b, regsAt s 64)], [x.a], fits s x.ty && oneEach s.ty, fun _ => 0, m⟩
    memReady s (.vlsh b x m) f → ∀ d, s.shDesc s.cu.part s.cu.asid (s.rd x.a).toNat = some d →
    (sdValid d = false ∨ 8 * sdSize d ≠ s.sew → exec (.vlsh b x m) s = .next (s.dropReplies.takeTrap (tr 0x0B 3 0))) ∧
    (sdValid d = true → 8 * sdSize d = s.sew → s.loadGate m = none → ∀ r u,
      (s.cacheDir s.cu.part s.cu.asid).shardAccess (s.rd x.a).toNat d false (fun e => sdAddr d (el s b 64 e)) ((picked s x.q).map (fun e => (e, el s b 64 e, []))) = .ok r u →
      (∀ p ∈ r, ∃ y, p.2 = .ok y) →
      ∃ t, exec (.vlsh b x m) s = .next t ∧ vecDone (if acquires m then acquired u m.scope.toNat else u)
        { ok := true, reads := f.index, writes := [⟨x.d, s.grp, s.sew, eachOf s (chosen s x.q) (fun e =>
          (r.find? (fun p => p.1 == e)).bind (fun p => match p.2 with
            | .ok y => some (littleEndian (fun j => y.getD j 0) y.length : Int)
            | .error _ => none))⟩] } t)) ∧
  (∀ (b : Reg) (x : V2) (m : MemQ) (s : State), (Instr.vssh b x m).wf = true →
    let f : MemForm := ⟨x, [(b, regsAt s 64)], [x.a], fits s x.ty && oneEach s.ty, fun _ => 0, m⟩
    memReady s (.vssh b x m) f → ∀ d, s.shDesc s.cu.part s.cu.asid (s.rd x.a).toNat = some d → sdValid d = true → 8 * sdSize d = s.sew →
    s.orderGate (releases m) m true = none →
    let items := ((picked s x.q).filter (fun e => decide (startOf s ≤ e))).map (fun e => (e, el s b 64 e, (List.range (s.sew / 8)).map (byteOf (el s x.d s.sew e))))
    let s1 := s.cacheDir s.cu.part s.cu.asid
    (items = [] → exec (.vssh b x m) s = .next ((withStart s1 0).ran (s.pc + 8))) ∧
    (items ≠ [] → ∀ r u, s1.shardAccess (s.rd x.a).toNat d true (fun e => sdAddr d (el s b 64 e)) items = .ok r u →
      ((∀ p ∈ r, ∃ y, p.2 = .ok y) → exec (.vssh b x m) s = .next ((withStart u 0).ran (s.pc + 8)))))

/-! ### Statex registers (R260-R281, R437-R440) -/

namespace Sys2Proof.Claims
/-- The statex register `n` of the executing unit. -/
def sxReg (s : State) (n : Reg) : SxImage := KMap.get sxReset s.cu.sx n.toNat
/-- The machine with statex register `n` holding `i`, its poison mark clear. -/
def setSxReg (s : State) (n : Reg) (i : SxImage) : State :=
  s.modCu (fun u => { u with sx := KMap.set sxReset u.sx n.toNat i, sxPoison := KMap.set false u.sxPoison n.toNat false })
/-- FT_SXTYPE. -/
def sxFault (sub : Nat) (tval : Word) : TrapInfo := tr 0x0C sub tval
/-- A statex word passes its checks where it runs. -/
def sxCtx (s : State) (i : Instr) (regs srcs : List Reg) : Prop := mayRun i s.who = true ∧ s.ready regs srcs = true
/-- No poison on statex register `n`. -/
def sxClean (s : State) (n : Reg) : Prop := KMap.get false s.cu.sxPoison n.toNat = false
/-- The bytes of translated 64-byte lines. -/
def lineBytes (u : State) (l : List (Word × Phys)) : List Byte :=
  l.flatMap (fun p => (List.range 64).map ((localByte u p.2 64).getD (fun _ => 0)))
/-- Lines that are local memory and that no view stands in for. -/
def localLines (u : State) (l : List (Word × Phys)) : Prop :=
  ∀ p ∈ l, (localByte u p.2 64).isSome = true ∧ viewOf u.cu p.1.toNat 64 = none ∧ (∀ pa, p.2 = .host pa → noCommand u = true)
/-- The die's copies of the lines of an image at `va` are gone, and no fill in flight installs one (R60). -/
def imageDropped (s : State) (va : Word) : State :=
  let mine (die part asid a : Nat) : Bool := die == s.curCore / 64 && part == s.cu.part && asid == s.cu.asid &&
    (List.range 65).any (fun j => a == (va + BitVec.ofNat 64 (64 * j)).toNat / 64 * 64)
  { s with
    fabric := s.fabric.filter (fun x => !mine x.die x.part x.asid x.va)
    fills := s.fills.map (fun f => if mine f.die f.part f.asid f.va then { f with noInstall := true, closed := true } else f) }
/-- After whole lines were stored, no line of HBM and no 8-byte word of a loft among them has an error mark; the other marks are as they were. -/
def marksLeft (u v : State) (l : List (Word × Phys)) : Prop :=
  (∀ k, KMap.get false v.hbmPoison k = (KMap.get false u.hbmPoison k && !l.any (fun p => match p.2 with | .hbm pa false => pa == 64 * k | _ => false))) ∧
  (∀ q k, KMap.get false (v.unitOf q).loftPoison k = (KMap.get false (u.unitOf q).loftPoison k &&
    !l.any (fun p => match p.2 with | .loft r o => r == q && decide (o ≤ 8 * k ∧ 8 * k + 8 ≤ o + 64) | _ => false)))
/-- The number little-endian bytes spell. -/
def numberOf (b : List Byte) : Nat := littleEndian (fun j => b.getD j 0) b.length
/-- The contributions of SXUPD's selected elements: value, cell, index and third operand (R266). -/
def contributions (s : State) (a c : Reg) (q : BitVec 4) (f : BitVec 2) (cell : BitVec 10) (wide : Nat) : List (Nat × Nat × Nat × Nat) :=
  (picked s q).map (fun j => (el s a s.sew j, if f = 2 then el s c wide j else cell.toNat, j, el s c wide j % 2 ^ 32))
end Sys2Proof.Claims

/-- R265-R268, R280: the statex words that use no memory, and the reply of a merge in memory. -/
def Sys2Proof.Claims.statexWordsActOnTheirRegister : Prop :=
  ∀ (s : State) (n : Reg),
    (∀ a, sxCtx s (.sxini n a false 0) [a] [a] →
      (∀ i, sxInit (s.rd a) = some i → exec (.sxini n a false 0) s = .next ((setSxReg s n i).ran (s.pc + 8))) ∧
      (sxInit (s.rd a) = none → exec (.sxini n a false 0) s = .next (s.dropReplies.takeTrap (sxFault 4 (s.rd a))))) ∧
    (sxCtx s (.sxclr n) [] [] → sxClean s n → exec (.sxclr n) s = .next ((setSxReg s n (sxClear (sxReg s n))).ran (s.pc + 8))) ∧
    (∀ d, sxCtx s (.sxtyp d n) [d] [] → sxClean s n →
      exec (.sxtyp d n) s = .next ((s.wr d (BitVec.ofNat 64 ((sxReg s n).toNat % 2 ^ 64))).ran (s.pc + 8))) ∧
    (∀ a, sxCtx s (.sxmrg n a false 0) [] [] → sxClean s n → sxClean s a →
      (∀ r, sxMerge (sxReg s n) (sxReg s a) = some r →
        exec (.sxmrg n a false 0) s = .next (((setSxReg s n r.1).flag (satIf r.2)).ran (s.pc + 8))) ∧
      (sxMerge (sxReg s n) (sxReg s a) = none →
        exec (.sxmrg n a false 0) s = .next (s.dropReplies.takeTrap (sxFault 1 (BitVec.ofNat 64 n.toNat))))) ∧
    (∀ d b rg kind cell, sxCtx s (.sxqry d n b rg kind cell) (d :: if rg then [b] else []) (if rg then [b] else []) → sxClean s n →
      let op := if rg then (s.rd b).toNat else cell.toNat
      (∀ r, sxQuery (sxReg s n) kind.toNat op = .ok r →
        exec (.sxqry d n b rg kind cell) s = .next (((s.wr d (BitVec.ofNat 64 r.1)).flag r.2).ran (s.pc + 8))) ∧
      (∀ k, sxQuery (sxReg s n) kind.toNat op = .error k →
        exec (.sxqry d n b rg kind cell) s = .next (s.dropReplies.takeTrap (sxFault k (BitVec.ofNat 64 n.toNat))))) ∧
    (∀ a q c f ty cell, sxCtx s (.sxupd n a q c f ty cell) [] [] → s.sh.vt.getLsbD 63 = false → fits s ty = true → s.sh.vPoison = [] → s.sh.mPoison = [] → lengthFits s → sxClean s n →
      let i := sxReg s n
      let w := if sxType i = 6 then 32 else s.sew
      let groups := (a, s.grp) :: (if f = 2 then [(c, regsAt s w)] else [])
      (∀ p ∈ groups, groupFits p.1 p.2 8 = true) → ¬ interlocked s groups →
      let l := contributions s a c q f cell w
      let cells := (sxType i = 1 ∨ sxType i = 2 ∨ sxType i = 3 ∨ sxType i = 9) ∧ ∃ x ∈ l, sxP0 i ≤ x.2.1
      (tyIsE8 s.ty = true → exec (.sxupd n a q c f ty cell) s = .next (s.dropReplies.takeTrap (tr 0x04 0 0))) ∧
      (tyIsE8 s.ty = false → sxAccepts (sxType i) s.ty f.toNat = false → exec (.sxupd n a q c f ty cell) s = .next (s.dropReplies.takeTrap (sxFault 2 (BitVec.ofNat 64 n.toNat)))) ∧
      (tyIsE8 s.ty = false → sxAccepts (sxType i) s.ty f.toNat = true → cells →
        exec (.sxupd n a q c f ty cell) s = .next (s.dropReplies.takeTrap (sxFault 3 (BitVec.ofNat 64 n.toNat)))) ∧
      (tyIsE8 s.ty = false → sxAccepts (sxType i) s.ty f.toNat = true → ¬ cells →
        exec (.sxupd n a q c f ty cell) s =
          .next (((setSxReg s n (sxApplyAll i s.ty l).1).flag (satIf (sxApplyAll i s.ty l).2)).ran (s.pc + 8)))) ∧
    (∀ a off p y, sxCtx s (.sxstMrg n a off) [a] [a] → (addr s a off).toNat % 64 = 0 → s.cu.pendOf s.agentNo 0 = some p → p.reply = some (.ok, y) →
      let v := imageDropped s (addr s a off)
      (y.getD 0 0 = 1 → exec (.sxstMrg n a off) s = .next (v.dropReplies.takeTrap (sxFault 1 (addr s a off)))) ∧
      (y.getD 0 0 ≠ 1 → exec (.sxstMrg n a off) s = .next ((v.flag (satIf (y.getD 1 0 = 1))).ran (s.pc + 8))))

/-- R264, R265, R267, R279, R280: headers and images in local memory, whole and aligned to 64 bytes; a merge in memory is sent once. -/
def Sys2Proof.Claims.statexImagesMoveWhole : Prop :=
  ∀ (s : State) (n a : Reg) (off : BitVec 20), let va := addr s a off
    (∀ m ∈ [Instr.sxini n a true off, .sxmrg n a true off, .sxld n a off, .sxst n a off, .sxstMrg n a off],
      sxCtx s m [a] [a] → va.toNat % 64 ≠ 0 → exec m s = .next (s.dropReplies.takeTrap (tr 0x05 0 va))) ∧
    (va.toNat % 64 = 0 → s.loadGate plainMem = none →
      (∀ l u, s.sxLines .load va 64 = .ok l u → localLines (u.migrateAll l) l → sxCtx s (.sxini n a true off) [a] [a] →
        let v := u.migrateAll l
        let h : Desc := BitVec.ofNat 512 (numberOf (lineBytes v l))
        (∀ i, sxInitImage h = some i → exec (.sxini n a true off) s = .next ((setSxReg v n i).ran (s.pc + 8))) ∧
        (sxInitImage h = none → exec (.sxini n a true off) s = .next (v.dropReplies.takeTrap (sxFault 4 va)))) ∧
      (∀ l u, s.sxLines .load va 4160 = .ok l u → localLines (u.migrateAll l) l →
        let v := u.migrateAll l
        let i : SxImage := BitVec.ofNat 33280 (numberOf (lineBytes v l))
        (sxCtx s (.sxmrg n a true off) [a] [a] → sxClean s n →
          (∀ r, sxMerge (sxReg s n) i = some r →
            exec (.sxmrg n a true off) s = .next (((setSxReg v n r.1).flag (satIf r.2)).ran (s.pc + 8))) ∧
          (sxMerge (sxReg s n) i = none → exec (.sxmrg n a true off) s = .next (v.dropReplies.takeTrap (sxFault 1 va)))) ∧
        (sxCtx s (.sxld n a off) [a] [a] →
          (sxImageOk i = true → exec (.sxld n a off) s = .next ((setSxReg v n i).ran (s.pc + 8))) ∧
          (sxImageOk i = false → exec (.sxld n a off) s = .next (v.dropReplies.takeTrap (sxFault 4 va)))))) ∧
    (va.toNat % 64 = 0 → s.orderGate false plainMem true = none → ∀ l u, s.sxLines .store va 4160 = .ok l u →
      sxCtx s (.sxst n a off) [a] [a] → sxClean s n → plainStores u →
      let v := u.migrateAll l
      (∀ p ∈ l, (spaceOf p.2).isSome = true ∧ ∀ q o, p.2 = .loft q o → (v.unitOf q).loftResident = true ∧ v.routineStream = none) →
      ∃ w, exec (.sxst n a off) s = .next (w.ran (s.pc + 8)) ∧
        marksLeft v w l ∧ bytesAre v w (((List.range 65).zip l).foldl (fun mem p => match spaceOf p.2.2 with
          | some (sp, k) => stored mem sp k ((List.range 64).map (fun j => byteOf (sxReg s n).toNat (64 * p.1 + j)))
          | none => mem) (spaceByte v))) ∧
    (va.toNat % 64 = 0 → s.cu.pendOf s.agentNo 0 = none → s.orderGate false plainMem false = none → ∀ l u, s.sxLines .atomic va 4160 = .ok l u →
      sxCtx s (.sxstMrg n a off) [a] [a] → sxClean s n → sxType (sxReg s n) ≠ 6 → sxType (sxReg s n) ≠ 7 →
      ∀ pas : List Nat, l.map (·.2) = pas.map (fun pa => Phys.hbm pa false) → u.outstanding < 256 → u.queueFull (pas.headD 0) = false →
      ∃ t, exec (.sxstMrg n a off) s = .next t ∧ t.pc = s.pc ∧ t.hbm = u.hbm ∧ t.fabric = (imageDropped u va).fabric ∧
        ∃ old tag, KMap.get [] t.thresher (stackOf (pas.headD 0)) = old ++ [.merge s.uid s.agentNo tag pas (sxReg s n) none])

/-- R264-R268, R279, R280: every statex word, on its register and on images in memory. -/
def Obligations.StatexWordsAndImages : Prop :=
  Claims.statexWordsActOnTheirRegister ∧ Claims.statexImagesMoveWhole

/-- R275, R402: admissions commute, so a selection depends only on the pairs admitted and not on their order. -/
def Obligations.SelectionsForgetTheOrder : Prop :=
  ∀ (t : Topk) (k n v w a b : Nat), t.pairs.Pairwise (fun x y => pairBefore x y = true) → (∀ p ∈ t.pairs, p.1 < 2 ^ 32 ∧ isNaN (fdec f32F p.1) = false) →
    t.pairs.length ≤ k → v < 2 ^ 32 → w < 2 ^ 32 →
    (t.insert k n v a).insert k n w b = (t.insert k n w b).insert k n v a ∧
    ((t.insert k n v a).pairs.Pairwise (fun x y => pairBefore x y = true) ∧ (t.insert k n v a).pairs.length ≤ k)

/-- R223, R224: every E8 code decodes to a point of its shell: all components integers or all halves, with an even sum. -/
def Obligations.EightDimensionalCodesAreLatticePoints : Prop :=
  ∀ (w32 : Bool) (c : Nat), let z := if w32 then e8w32Dec c else e8w16Dec c
    z.length = 8 ∧ ((∀ x ∈ z, x % 2 = 0) ∨ (∀ x ∈ z, x % 2 = 1)) ∧ z.sum % 4 = 0 ∧
      (∀ x ∈ z, x.natAbs ≤ if w32 then 7 else 3) ∧
      -- and a decoded point encodes to a code of the same point
      (if w32 then e8w32Dec (e8w32Enc (z.headD 0 % 2 = 1) z) else e8w16Dec (e8w16Enc (z.headD 0 % 2 = 1) z)) = z

/-! ### The matrix unit (R244-R258, R427-R433) -/

namespace Sys2Proof.Claims

/-- Registers of an accumulator group by its mode (R245). -/
def groupWidth (acc : Nat) : Nat := if acc = 0 then 4 else 8
/-- The sheaves N to M are the issuing reeve's (R247 step 1). -/
def mine (s : State) (r : Nat) (sn sm : Nat) : Prop := sn ≤ sm ∧ ∀ k, sn ≤ k → k ≤ sm → s.cu.owns r k = true
/-- A matrix entry without the `%vt` that it takes at its place (R250). -/
def withoutVt (e : MEntry) : MEntry := { e with vt := none }
/-- An entry as an instruction of reeve `r` posts it: nothing performed, and its place in the orders of R164 and R211. -/
def postedBy (s : State) (r : Nat) (k : MKind) (e : MEntry) : Prop :=
  e.kind = k ∧ e.reeve = r ∧ e.iaddr = s.pc ∧ e.rows = 0 ∧ e.kb = 0 ∧ e.started = false ∧ e.startMet = 0 ∧ e.flags = 0 ∧ e.fault = none ∧
  e.seq = s.cu.issue ∧ e.ord = s.nextTag ∧ e.acc.toNat = s.re.mcfg.toNat % 4
/-- The reeve's share of the matrix queue has room (R164) and no LPART waits (R158). -/
def roomFor (s : State) (r : Nat) : Prop := s.lpartHeld = false ∧ (s.cu.mq.filter (fun e => e.reeve == r)).length < 32
/-- Word `i` takes the last entry of the queue, one that `P` describes, and retires; `cfg` is the configuration after it. Without room it waits. -/
def posts (s : State) (r : Nat) (i : Instr) (k : MKind) (cfg : Word) (P : MEntry → Prop) : Prop :=
  (roomFor s r → ∃ t e, exec i s = .next t ∧ postedBy s r k e ∧ P e ∧
    t = { s.dropReplies with units := t.units, nextTag := s.nextTag + 1 } ∧ (∀ u, u ≠ s.uid → t.unitOf u = s.unitOf u) ∧
    t.cu = { s.dropReplies.cu with mq := t.cu.mq, issue := s.cu.issue + 1, reeves := t.cu.reeves } ∧
    t.cu.mq.map withoutVt = s.cu.mq.map withoutVt ++ [withoutVt e] ∧
    (∀ q, q ≠ r → t.cu.reeveOf q = s.cu.reeveOf q) ∧ t.re = { doneAt s.re (s.pc + 8) with mcfg := cfg }) ∧
  (¬roomFor s r → exec i s = .next (s.markWait .queue))
/-- Bytes to which an address and a stride of an operand type are aligned (R248). -/
def operandAlign : Ty → Nat
  | .bf16 | .e8w16 => 2
  | .f32 | .e8w32 => 4
  | .f64 => 8
  | _ => 1
/-- K-block of an operand pair (R244, R429). -/
def kBlockOf (a b : Ty) : Nat :=
  if (a == .e4m3 || a == .e5m2) && (b == .e4m3 || b == .e5m2) then 16
  else if (a == .e4m3 || a == .e5m2) && (b == .i3 || b == .i4 || b == .e8w16 || b == .e8w32) then 32 else 8
/-- The operand types by pair code (R429). -/
def pairTable : List (Ty × Ty) :=
  [(.e4m3, .e4m3), (.e4m3, .e5m2), (.e5m2, .e4m3), (.e5m2, .e5m2), (.e4m3, .i3), (.e4m3, .i4), (.e4m3, .e8w16), (.e4m3, .e8w32), (.e5m2, .i3),
   (.e5m2, .i4), (.e5m2, .e8w16), (.e5m2, .e8w32), (.bf16, .e4m3), (.bf16, .e5m2), (.bf16, .bf16), (.bf16, .i3), (.bf16, .i4), (.bf16, .e8w16),
   (.bf16, .e8w32), (.e4m3, .bf16), (.e5m2, .bf16), (.f32, .f32), (.f64, .f64)]
/-- The alignment of a drain format (R254, R431): f64, f32, bf16, e4m3, i4, e8w16. -/
def drainAlign (f : Nat) : Nat := [8, 4, 2, 1, 1, 2].getD f 1
end Sys2Proof.Claims

/-- R246, R247, R252, R258, R430-R433: MCFG writes the configuration; MMA, MDRN and MZRO make the checks of R247 in order and take an entry with their
operands; MRPG discards the reeve's entries. -/
def Sys2Proof.Claims.matrixWordsAreIssued : Prop :=
  ∀ (s : State) (r : Nat) (a b d : Reg) (x : MmaArgs) (y : MdrnArgs) (sn sm : BitVec 3) (named : Bool) (tl : BitVec 4), s.who = .reeve r →
    let cfg := s.re.mcfg.toNat
    let acc := cfg % 4
    -- MCFG
    (s.ready [a, b] [a, b] = true →
      let w := (s.rd a).toNat
      let bad := w / 2 ^ 16 ≠ 0 ∨ w / 4 % 2 ^ 6 ≠ 0 ∨ w % 4 = 3 ∨ 4 < w / 2 ^ 12 % 8
      (¬bad → exec (.mcfg a b) s = .next ((s.modRe (fun z => { z with mcfg := s.rd a, t0 := s.rd b })).ran (s.pc + 8))) ∧
      (bad → exec (.mcfg a b) s = .next (s.dropReplies.takeTrap (tr 0x01 1 (s.rd a))))) ∧
    -- MMA
    (s.ready [x.a, x.a + 1, x.b, x.c] [x.a, x.a + 1, x.b, x.c] = true →
      let ty := pairTable.getD x.pair.toNat (.f64, .f64)
      let narrow := ty.2 = .i3 ∨ ty.2 = .i4 ∨ ty.2 = .e8w16 ∨ ty.2 = .e8w32
      let okK := narrow → (x.kx.toNat + 1) * kBlockOf ty.1 ty.2 % 32 = 0
      let okType := x.d.toNat % groupWidth acc = 0 ∧ (acc = 2 ↔ ty.1 = .f64)
      let ops := [(s.rd x.a, ty.1), (s.rd (x.a + 1), ty.1), (s.rd x.b, ty.2), (s.rd x.c, ty.2)]
      (¬mine s r x.sn.toNat x.sm.toNat → exec (.mma x) s = .next (s.dropReplies.takeTrap (tr 0x01 3 (encode (.mma x))))) ∧
      (mine s r x.sn.toNat x.sm.toNat → x.pair.toNat < 23 →
        (¬okK → exec (.mma x) s = .next (s.dropReplies.takeTrap (tr 0x01 1 (encode (.mma x))))) ∧
        (okK → ¬okType → exec (.mma x) s = .next (s.dropReplies.takeTrap (tr 0x04 0 0))) ∧
        (okK → okType →
          (∀ v t, ops.find? (fun p => p.1.toNat % operandAlign p.2 != 0) = some (v, t) →
            exec (.mma x) s = .next (s.dropReplies.takeTrap (tr 0x05 0 v))) ∧
          ((∀ p ∈ ops, p.1.toNat % operandAlign p.2 = 0) →
            posts s r (.mma x) .mma (BitVec.ofNat 64 (if cfg.testBit 15 then cfg - 2 ^ 15 else cfg)) (fun e =>
              e.pair = x.pair ∧ e.kBlocks = x.kx.toNat + 1 ∧ e.sn = x.sn.toNat ∧ e.sm = x.sm.toNat ∧ e.vd = x.d.toNat ∧ e.tl = x.tl.toNat ∧
              e.adv = true ∧ e.a = s.rd x.a ∧ e.sa = s.rd (x.a + 1) ∧ e.b = s.rd x.b ∧ e.sb = s.rd x.c ∧
              e.start = if cfg.testBit 15 then some (cfg / 2 ^ 8 % 16, cfg / 2 ^ 12 % 8, s.re.t0) else none))))) ∧
    -- MDRN
    (y.fmt.toNat < 6 → s.ready ([y.a, y.b] ++ if 3 ≤ y.fmt.toNat then [y.c] else []) ([y.a, y.b] ++ if 3 ≤ y.fmt.toNat then [y.c] else []) = true →
      let n := drainAlign y.fmt.toNat
      let okType := y.d.toNat % groupWidth acc = 0 ∧ (acc = 2 ↔ y.fmt.toNat = 0)
      (¬mine s r y.sn.toNat y.sm.toNat → exec (.mdrn y) s = .next (s.dropReplies.takeTrap (tr 0x01 3 (encode (.mdrn y))))) ∧
      (mine s r y.sn.toNat y.sm.toNat → ¬okType → exec (.mdrn y) s = .next (s.dropReplies.takeTrap (tr 0x04 0 0))) ∧
      (mine s r y.sn.toNat y.sm.toNat → okType →
        ((s.rd y.a).toNat % n ≠ 0 → exec (.mdrn y) s = .next (s.dropReplies.takeTrap (tr 0x05 0 (s.rd y.a)))) ∧
        ((s.rd y.a).toNat % n = 0 → (s.rd y.b).toNat % n ≠ 0 → exec (.mdrn y) s = .next (s.dropReplies.takeTrap (tr 0x05 0 (s.rd y.b)))) ∧
        ((s.rd y.a).toNat % n = 0 → (s.rd y.b).toNat % n = 0 → posts s r (.mdrn y) .mdrn s.re.mcfg (fun e =>
          e.fmt = y.fmt ∧ e.sn = y.sn.toNat ∧ e.sm = y.sm.toNat ∧ e.vd = y.d.toNat ∧ e.tl = y.tl.toNat ∧ e.adv = true ∧ e.a = s.rd y.a ∧
          e.sa = s.rd y.b ∧ (3 ≤ y.fmt.toNat → e.c = s.rd y.c) ∧ e.start = none)))) ∧
    -- MZRO and MRPG
    (s.ready [] [] = true →
      (¬mine s r sn.toNat sm.toNat → exec (.mzro d sn sm named tl) s = .next (s.dropReplies.takeTrap (tr 0x01 3 (encode (.mzro d sn sm named tl))))) ∧
      (mine s r sn.toNat sm.toNat → d.toNat % groupWidth acc ≠ 0 → exec (.mzro d sn sm named tl) s = .next (s.dropReplies.takeTrap (tr 0x04 0 0))) ∧
      (mine s r sn.toNat sm.toNat → d.toNat % groupWidth acc = 0 → posts s r (.mzro d sn sm named tl) .mzro s.re.mcfg (fun e =>
        e.sn = sn.toNat ∧ e.sm = sm.toNat ∧ e.vd = d.toNat ∧ e.tl = tl.toNat ∧ e.adv = named ∧ e.start = none)) ∧
      (∃ t, exec .mrpg s = .next t ∧ (∀ e ∈ t.cu.mq, e.reeve ≠ r) ∧
        t.cu.mq = s.cu.mq.filter (fun e => e.reeve != r) ∧ t.re.rowp = 0 ∧ t.pc = s.pc + 8 ∧
        (∀ k, let l := (s.cu.mq.filter (fun e => e.reeve == r && decide (e.sn ≤ k ∧ k ≤ e.sm))).map (·.flags)
          t.cu.sheafOf k = { s.cu.sheafOf k with vfx := l.foldl (· ||| ·) (s.cu.sheafOf k).vfx }) ∧ t.hbm = s.hbm ∧ (∀ q, t.rd q = s.rd q)))

namespace Sys2Proof.Claims

/-- The oldest entry of reeve `r` in unit `uid`, of kind `k`, may be performed: its unit is on its core and it is not faulted (R257). -/
def headOf (s : State) (uid r : Nat) (k : MKind) (e : MEntry) : Prop :=
  (s.unitOf uid).live = true ∧ (s.unitOf uid).place = .running ∧ (s.unitOf uid).mq.find? (fun x => x.reeve == r) = some e ∧ e.kind = k ∧
  e.fault = none
/-- The entries of `u` and those of `v`: the reeve's oldest has become `e`, the others are as they were. -/
def headBecomes (u v : Machine.Unit) (r : Nat) (e : MEntry) : Prop :=
  v.mq.filter (fun x => x.reeve == r) = e :: (u.mq.filter (fun x => x.reeve == r)).drop 1 ∧
  v.mq.filter (fun x => x.reeve != r) = u.mq.filter (fun x => x.reeve != r)
/-- The reeve's oldest entry has left. -/
def headLeaves (u v : Machine.Unit) (r : Nat) : Prop :=
  v.mq.filter (fun x => x.reeve == r) = (u.mq.filter (fun x => x.reeve == r)).drop 1 ∧
  v.mq.filter (fun x => x.reeve != r) = u.mq.filter (fun x => x.reeve != r)
/-- `%rowp` of an entry under way (R256). -/
def progress (e : MEntry) : Word :=
  BitVec.ofNat 64 (2 ^ 63 + (match e.kind with | .mma => 1 | .mdrn => 2 | .mzro => 0) * 2 ^ 24 + e.rows % 32 * 2 ^ 16 + e.kb % 1024)
/-- The field of `w` bits at a bit of a vector register. -/
def regField (x : Sheaf) (reg bit w : Nat) : Nat := (KMap.get 0 x.v reg).toNat / 2 ^ bit % 2 ^ w
/-- C[row][4λ + q] of an f64 group, of a plain or paired group's heads, and of a paired group's tails (R245). -/
def cell64 (x : Sheaf) (vd row lam q : Nat) : Nat := regField x (vd + row / 2) (512 * lam + 64 * (row % 2 * 4 + q)) 64
def cell32 (x : Sheaf) (vd row lam q : Nat) : Nat := regField x (vd + row / 4) (512 * lam + 32 * (row % 4 * 4 + q)) 32
def cellTail (x : Sheaf) (vd row lam q : Nat) : Nat := cell32 x (vd + 4) row lam q
/-- AccAdd of a block sum at one place of the group, from sheaf `x` to `y` (R237, R251). -/
def accumulated (e : MEntry) (x y : Sheaf) (row lam q : Nat) (v : FVal) : Prop :=
  match e.acc.toNat with
  | 2 => cell64 y e.vd row lam q = (accAdd (fmtOf .f64) (cell64 x e.vd row lam q) v).1
  | 0 => cell32 y e.vd row lam q = (accAdd (fmtOf .f32) (cell32 x e.vd row lam q) v).1
  | _ => (cell32 y e.vd row lam q, cellTail y e.vd row lam q) = (pairAdd (cell32 x e.vd row lam q) (cellTail x e.vd row lam q) v).1
/-- A place of the group is as it was. -/
def samePlace (e : MEntry) (x y : Sheaf) (row lam q : Nat) : Prop :=
  if e.acc.toNat = 2 then cell64 y e.vd row lam q = cell64 x e.vd row lam q
  else cell32 y e.vd row lam q = cell32 x e.vd row lam q ∧ cellTail y e.vd row lam q = cellTail x e.vd row lam q
/-- A register outside the groups of the named sheaves is as it was. -/
def otherRegs (e : MEntry) (u v : Machine.Unit) : Prop :=
  ∀ k reg, (k < e.sn ∨ e.sm < k ∨ reg < e.vd ∨ e.vd + groupWidth e.acc.toNat ≤ reg) → KMap.get 0 (v.sheafOf k).v reg = KMap.get 0 (u.sheafOf k).v reg
/-- Nothing issued before an entry still holds its counter back (R211). -/
def firstToAdvance (s : State) (uid : Nat) (e : MEntry) : Prop :=
  rising s.units ∧ (s.unitOf uid).heldAdv = [] ∧ (s.coreOf (s.unitOf uid).core).wq = [] ∧ ∀ x ∈ (s.unitOf uid).mq, x = e ∨ e.ord < x.ord
/-- Counter `n` goes up by one, saturating. -/
def plusOne (w : Word) : Word := if w.toNat + 1 < 2 ^ 64 then BitVec.ofNat 64 (w.toNat + 1) else w
/-- An entry ends: it leaves the queue, `%rowp` is clear, its counter advances. -/
def entryEnds (s : State) (uid r : Nat) (e : MEntry) (v : Machine.Unit) : Prop :=
  headLeaves (s.unitOf uid) v r ∧ (v.reeveOf r).rowp = 0 ∧
  (firstToAdvance s uid e → ∀ n, KMap.get 0 v.tl n = if e.adv = true ∧ n = e.tl then plusOne (KMap.get 0 (s.unitOf uid).tl n) else KMap.get 0 (s.unitOf uid).tl n)
/-- The rows of an f64 or a plain f32 drain: the accumulators' own bits in column order, as little-endian bytes (R254). -/
def rowBytes (u : Machine.Unit) (e : MEntry) (row : Nat) : List Byte :=
  let w := if e.fmt.toNat = 0 then 64 else 32
  let cols := (List.range (e.sm + 1 - e.sn)).flatMap (fun j => (List.range (32 / u.nSheaves)).flatMap (fun lam => (List.range 4).map (fun q =>
    (if w = 64 then cell64 else cell32) (u.sheafOf (e.sn + j)) e.vd row lam q)))
  cols.flatMap (fun v => (List.range (w / 8)).map (fun j => byteOf v j))
end Sys2Proof.Claims

/-- R248-R257: a K-block adds its block sum at every place of its rows, a failing one changes nothing and faults the entry; a row group starts when
its counter reaches the threshold; a drain writes the rows; an entry that has completed leaves and advances its counter; MZRO writes +0. -/
def Sys2Proof.Claims.matrixEntriesArePerformed : Prop :=
  ∀ (s : State) (uid r : Nat) (e : MEntry),
    let u := s.unitOf uid
    let L := 32 / u.nSheaves
    let eng := s.asEngine uid r (10 + r)
    let faulted (t : State) (f : TrapInfo) : Prop :=
      headBecomes u (t.unitOf uid) r { e with started := true, fault := some f, reported := false } ∧ (t.unitOf uid).sheaves = u.sheaves ∧
      ((t.unitOf uid).reeveOf r).latch = true
    e.vd + groupWidth e.acc.toNat ≤ 64 → e.sn ≤ e.sm →
    -- an earlier block still holds the group (R164), or a word of it is poisoned (R317)
    (u.accHeld e = true → (headOf s uid r .mma e → exec (.mmaKblock uid r) s = .next s) ∧ (headOf s uid r .mdrn e → exec (.mdrnRow uid r) s = .next s) ∧
      (headOf s uid r .mzro e → exec (.mzroPerform uid r) s = .next s)) ∧
    (u.accHeld e = false → accPoisoned u e = true → headOf s uid r .mdrn e → e.rows < 16 →
      ∃ t, exec (.mdrnRow uid r) s = .next t ∧ faulted t (tr 0x13 1 0) ∧ t.hbm = s.hbm) ∧
    -- K-blocks
    (u.accHeld e = false → accPoisoned u e = false → headOf s uid r .mma e → e.rows % 4 = 0 → e.rows < 16 →
        (e.start = none ∨ e.rows / 4 < e.startMet) →
      (∀ f, u.startSlices e = some (.error f) → f = tr 0x04 0 0 ∧ ∃ t, exec (.mmaKblock uid r) s = .next t ∧ faulted t f) ∧
      (∀ n, u.startSlices e = some (.ok n) →
        (∀ ops v, eng.kRead e (4 * L * (e.sm + 1 - e.sn)) = .ok ops v → v.unitOf uid = u →
          ∃ t, exec (.mmaKblock uid r) s = .next t ∧ t = { v.dropReplies with units := t.units, uid := s.uid, who := s.who, eng := s.eng } ∧
          otherRegs e u (t.unitOf uid) ∧
          (∀ k row lam q, e.sn ≤ k → k ≤ e.sm → row < 16 → lam < L → q < 4 →
            let S := (blockSum e.pair.toNat n (ops.1.getD (row - e.rows) []) (ops.2.getD (4 * ((k - e.sn) * L + lam) + q) [])).1
            if e.rows ≤ row ∧ row < e.rows + 4 then accumulated e (u.sheafOf k) ((t.unitOf uid).sheafOf k) row lam q S
            else samePlace e (u.sheafOf k) ((t.unitOf uid).sheafOf k) row lam q) ∧
          ∃ fl, let last := e.kb + 1 = e.kBlocks
            let e' := { e with started := true, flags := fl, kb := if last then 0 else e.kb + 1, rows := if last then e.rows + 4 else e.rows }
            headBecomes u (t.unitOf uid) r e' ∧ ((t.unitOf uid).reeveOf r).rowp = progress e') ∧
        (∀ f v, eng.kRead e (4 * L * (e.sm + 1 - e.sn)) = .trap f v → v.unitOf uid = u →
          ∃ t, exec (.mmaKblock uid r) s = .next t ∧ faulted t f))) ∧
    -- start conditions
    (∀ n step t0, headOf s uid r .mma e → e.start = some (n, step, t0) → e.startMet = e.rows / 4 → e.rows < 16 →
      let need := t0.toNat + (4 * (e.rows / 4 + 1) + 2 ^ step - 1) / 2 ^ step - 1
      (need ≤ (KMap.get 0 u.tl n).toNat → ∃ t, exec (.rowGroupStart uid r) s = .next t ∧
        headBecomes u (t.unitOf uid) r { e with started := true, startMet := e.rows / 4 + 1 }) ∧
      ((KMap.get 0 u.tl n).toNat < need → exec (.rowGroupStart uid r) s = .next s)) ∧
    -- drains
    (u.accHeld e = false → accPoisoned u e = false → headOf s uid r .mdrn e → e.rows < 16 →
      let d := drainRow e (rowVals u e e.rows)
      let out := (eng.engWrite (e.a + toW e.rows * e.sa) d.1).bind fun _ s =>
        if e.fmt.toNat < 3 then .ok ⟨⟩ s else s.engWrite (scaleAddr e e.rows (4 * L * (e.sm + 1 - e.sn))) d.2.1
      (e.fmt.toNat = 0 ∧ e.acc.toNat = 2 ∨ e.fmt.toNat = 1 ∧ e.acc.toNat = 0 → d.1 = rowBytes u e e.rows) ∧
      (∀ v, out = .ok ⟨⟩ v → (v.unitOf uid).mq = u.mq → ∃ t, exec (.mdrnRow uid r) s = .next t ∧ t.hbm = v.hbm ∧
        (t.unitOf uid).loft = (v.unitOf uid).loft ∧ (t.unitOf uid).sheaves = (v.unitOf uid).sheaves ∧
        let e' := { e with started := true, rows := e.rows + 1, flags := e.flags ||| d.2.2 }
        headBecomes u (t.unitOf uid) r e' ∧ ((t.unitOf uid).reeveOf r).rowp = progress e') ∧
      (∀ f v, out = .trap f v → v.unitOf uid = u → ∃ t, exec (.mdrnRow uid r) s = .next t ∧ faulted t f)) ∧
    -- completions
    (∀ i, i = Instr.mmaComplete uid r ∧ headOf s uid r .mma e ∨ i = Instr.mdrnComplete uid r ∧ headOf s uid r .mdrn e ∧
        (∀ t ∈ (u.reeveOf r).stores, t.agent ≠ 10 + r) → e.rows = 16 →
      ∃ t, exec i s = .next t ∧ entryEnds s uid r e (t.unitOf uid) ∧ t.hbm = s.hbm ∧
        ∀ k, (t.unitOf uid).sheafOf k = if e.sn ≤ k ∧ k ≤ e.sm then { u.sheafOf k with vfx := (u.sheafOf k).vfx ||| e.flags } else u.sheafOf k) ∧
    (u.accHeld e = false → headOf s uid r .mzro e → ∃ t, exec (.mzroPerform uid r) s = .next t ∧ entryEnds s uid r e (t.unitOf uid) ∧ t.hbm = s.hbm ∧
      otherRegs e u (t.unitOf uid) ∧
      ∀ k reg j, e.sn ≤ k → k ≤ e.sm → e.vd ≤ reg → reg < e.vd + groupWidth e.acc.toNat → j < 512 * L →
        (KMap.get 0 ((t.unitOf uid).sheafOf k).v reg).getLsbD j = false ∧
        (j < 256 → KMap.get false ((t.unitOf uid).sheafOf k).vPoison (256 * reg + j) = false))

/-- R246-R258, R430-R433: matrix words are checked and issued, and their entries are performed. -/
def Obligations.MatrixWordsAndEntries : Prop :=
  Claims.matrixWordsAreIssued ∧ Claims.matrixEntriesArePerformed

/-! ### The wain (R282-R301, R434, R435) -/

namespace Sys2Proof.Claims

/-- A side of a command under swizzle `k` meets R294: the length of its rows, its base, its strides. -/
def swizzleFits (k n : Nat) (base : Nat) (strides : List Int) : Prop :=
  k = 0 ∨ n % (16 * 2 ^ k) = 0 ∧ base % 16 = 0 ∧ ∀ x ∈ strides, x % 16 = 0
/-- The limits that every command but WXFM shares (R434): OPT's reserved bits, FLAGVA, and STRM without DSWZ. -/
def optFits (d : Desc) : Prop :=
  let opt := dfld d 16 4
  opt.testBit 7 = false ∧ opt / 2 ^ 10 = 0 ∧ (opt.testBit 4 = true → dfld d 56 8 % 8 = 0) ∧ (opt.testBit 5 = true → opt / 4 % 4 = 0)
/-- Signed 32-bit strides from byte `o`. -/
def strides (d : Desc) (o : Nat) : List Int := [dint d o 4, dint d (o + 4) 4, dint d (o + 8) 4]
/-- The limits of WCPY and WFIL. -/
def copyFits (fill : Bool) (d : Desc) : Prop :=
  let opt := dfld d 16 4
  let n := dfld d 20 4
  optFits d ∧ 1 ≤ n ∧ n ≤ 2 ^ 24 ∧ dfld d 24 2 = 0 ∧ 1 ≤ dfld d 26 2 ∧ 1 ≤ dfld d 28 2 ∧ 1 ≤ dfld d 30 2 ∧
  swizzleFits (opt / 4 % 4) n (dfld d 8 8) (strides d 44) ∧
  (if fill then opt % 4 = 0 ∧ dfld d 32 4 = 0 ∧ n % 2 ^ (opt / 2 ^ 8 % 4) = 0
   else opt / 2 ^ 8 % 4 = 0 ∧ swizzleFits (opt % 4) n (dfld d 0 8) (strides d 32))
/-- The limits of WGTH and WSCT. -/
def rowsFit (scatter : Bool) (d : Desc) : Prop :=
  let opt := dfld d 16 4
  let table : Int := dfld d 28 4
  let packed : Int := dfld d 24 4
  optFits d ∧ 1 ≤ dfld d 32 4 ∧ dfld d 32 4 ≤ 2 ^ 16 ∧ 1 ≤ dfld d 20 4 ∧ dfld d 20 4 ≤ 2 ^ 16 ∧ dfld d 40 8 % 4 = 0 ∧ dfld d 48 8 % 8 = 0 ∧
  opt / 2 ^ 8 % 4 = 0 ∧ (scatter = true → opt.testBit 5 = false) ∧
  swizzleFits (opt % 4) (dfld d 20 4) (dfld d 0 8) [if scatter then packed else table] ∧
  swizzleFits (opt / 4 % 4) (dfld d 20 4) (dfld d 8 8) [if scatter then table else packed]
/-- The limits of WXFM: OPT keeps bits 5 and 6 only. -/
def routineFits (d : Desc) : Prop :=
  let opt := dfld d 0 4
  dfld d 8 8 % 8 = 0 ∧ opt % 2 ^ 5 = 0 ∧ opt / 2 ^ 7 = 0 ∧ (opt.testBit 5 = true → dfld d 24 8 ≠ 0)
/-- The wain words that take a queue entry, with their opcodes and limits. -/
def wainWord (i : Instr) : Option (Reg × BitVec 4 × Nat × (Desc → Prop)) :=
  match i with
  | .wcpy a tl => some (a, tl, 0xE8, copyFits false)
  | .wgth a tl => some (a, tl, 0xE9, rowsFit false)
  | .wsct a tl => some (a, tl, 0xEA, rowsFit true)
  | .wfil a tl => some (a, tl, 0xEB, copyFits true)
  | .wxfm a tl => some (a, tl, 0xEC, routineFits)
  | _ => none
/-- The limits of WAPR without UNBIND (R435). -/
def viewFits (d : Desc) : Prop :=
  let xf := dfld d 7 1
  let ncol := dfld d 24 4
  let nrow := dfld d 20 4
  dfld d 0 4 = 0 ∧ dfld d 4 1 ≤ 7 ∧ dfld d 8 12 = 0 ∧ dfld d 48 8 % 4096 = 0 ∧ 1 ≤ ncol ∧ ncol ≤ 2 ^ 16 ∧ 1 ≤ nrow ∧ nrow ≤ 2 ^ 16 ∧
  xf / 4 % 2 ^ 5 = 0 ∧ dfld d 32 4 % 64 = 0 ∧
  ∃ st ot, tyOf (dfld d 5 1) = some st ∧ tyOf (dfld d 6 1) = some ot ∧
    (if xf.testBit 1 then (st = .i3 ∨ st = .i4 ∨ st = .e8w16 ∨ st = .e8w32) ∧ ot = .bf16
     else ot = st ∧ st ∉ [Ty.i3, Ty.i4, Ty.e8w16, Ty.e8w32] ∧ bytesOf st ≤ 4) ∧
    (st = .i4 → ncol % 2 = 0) ∧ ((st = .i3 ∨ st = .e8w16 ∨ st = .e8w32) → ncol % 8 = 0) ∧
    ((if xf.testBit 0 then nrow else ncol) + 31) / 32 * 32 * bytesOf ot ≤ dfld d 32 4
/-- A byte belongs to the region of a view: VVA, VPITCH and ⌈R'/32⌉ × 32 rows. -/
def regionHas (d : Desc) (a : Nat) : Prop :=
  dfld d 48 8 ≤ a ∧ a < dfld d 48 8 + ((if (dfld d 7 1).testBit 0 then dfld d 24 4 else dfld d 20 4) + 31) / 32 * 32 * dfld d 32 4
/-- A page's leaf in the executing unit's space is a legal one of target type 0, 1 or 3. -/
def viewPage (s : State) (va : Nat) : Prop :=
  canonical (BitVec.ofNat 64 va) = true ∧ ∃ l, s.leafFor s.xc (BitVec.ofNat 64 va) = some (some l) ∧ leafOk l = true ∧ pteType l.pte ∈ [0, 1, 3]
end Sys2Proof.Claims

/-- R283, R434: a wain word checks its address, reads its descriptor, checks it against the limits, and takes the last entry of the core's queue with a
copy of it; it waits while the core holds 256. -/
def Sys2Proof.Claims.wainWordsPostCommands : Prop :=
  ∀ (i : Instr) (a : Reg) (tl : BitVec 4) (op : Nat) (fitsIn : Desc → Prop) (s : State) (r : Nat), wainWord i = some (a, tl, op, fitsIn) → s.who = .reeve r →
    s.ready [a] [a] = true →
    ((s.rd a).toNat % 64 ≠ 0 → exec i s = .next (s.dropReplies.takeTrap (tr 0x05 0 (s.rd a)))) ∧
    ((s.rd a).toNat % 64 = 0 →
      (∀ f u, s.descRead (s.rd a) = .trap f u → exec i s = .next (u.dropReplies.takeTrap f)) ∧
      (∀ d u, s.descRead (s.rd a) = .ok d u → u.pc = s.pc → u.who = s.who → u.uid = s.uid → u.cu.core = s.cu.core →
        let q := (u.coreOf s.cu.core).wq
        (¬fitsIn d → exec i s = .next (u.dropReplies.takeTrap (tr 0x01 1 (s.rd a)))) ∧
        (fitsIn d → 256 ≤ q.length → exec i s = .next (u.markWait .queue)) ∧
        (fitsIn d → q.length < 256 → ∃ t : State, exec i s = .next (t.ran (s.pc + 8)) ∧ t = { u with nextTag := u.nextTag + 1, cores := t.cores } ∧
          (∀ c, c ≠ s.cu.core → t.coreOf c = u.coreOf c) ∧
          t.coreOf s.cu.core = { u.coreOf s.cu.core with wq := q ++ [
            { seq := u.nextTag, op := BitVec.ofNat 8 op, uid := s.uid, reeve := r, iaddr := s.pc, descVA := s.rd a, desc := d, tl := tl.toNat,
              done := 0, copied := 0, zeroed := 0, advanced := 0, pend := [], committed := 0, wide := false, stated := false, finished := false, fault := none,
              reported := false }] })))

/-- R299, R301, R435: WAPR binds its slot to the view or unbinds it, at once; a region on other pages or over another slot's view raises FT_PERM. -/
def Sys2Proof.Claims.waprBindsViews : Prop :=
  ∀ (a : Reg) (s : State) (r : Nat), s.who = .reeve r → s.ready [a] [a] = true →
    ((s.rd a).toNat % 64 ≠ 0 → exec (.wapr a) s = .next (s.dropReplies.takeTrap (tr 0x05 0 (s.rd a)))) ∧
    (∀ d u, (s.rd a).toNat % 64 = 0 → s.descRead (s.rd a) = .ok d u → u.pc = s.pc → u.who = s.who → u.uid = s.uid →
      (∀ p ∈ u.cu.views, ∀ v, p.2 = some v → viewFits v.desc) →
      let slot := dfld d 4 1
      let va := dfld d 48 8
      let rows := ((if (dfld d 7 1).testBit 0 then dfld d 24 4 else dfld d 20 4) + 31) / 32 * 32
      let pagesOk := ∀ j, j < (rows * dfld d 32 4 + 4095) / 4096 → viewPage u (va + 4096 * j)
      let apart := ∀ p ∈ u.cu.views, ∀ v, p.2 = some v → p.1 ≠ slot → ∀ b, ¬(regionHas d b ∧ regionHas v.desc b)
      let bound (v : Option View) : State := u.modCu (fun c => { c with views := KMap.set none c.views slot v })
      ((dfld d 7 1).testBit 7 = true → slot ≤ 7 → exec (.wapr a) s = .next ((bound none).ran (s.pc + 8))) ∧
      ((dfld d 7 1).testBit 7 = false → ¬viewFits d → exec (.wapr a) s = .next (u.dropReplies.takeTrap (tr 0x01 1 (s.rd a)))) ∧
      ((dfld d 7 1).testBit 7 = false → viewFits d → pagesOk → apart → exec (.wapr a) s = .next ((bound (some ⟨d, []⟩)).ran (s.pc + 8))) ∧
      ((dfld d 7 1).testBit 7 = false → viewFits d → ¬(pagesOk ∧ apart) →
        exec (.wapr a) s = .next (u.dropReplies.takeTrap (tr 0x07 0 (BitVec.ofNat 64 va)))))

/-- R283, R299, R301, R434, R435: wain words post their command, and WAPR binds and unbinds views. -/
def Obligations.WainWordsAndViewBindings : Prop :=
  Claims.wainWordsPostCommands ∧ Claims.waprBindsViews

namespace Sys2Proof.Claims

/-- Command `q` of core `c` may work on: it is `w`, not faulted, its unit lives, no earlier command produces into its stream (R284, R286, R295). -/
def working (s : State) (c q : Nat) (w : WainCmd) : Prop :=
  (s.coreOf c).wq.find? (fun x => x.seq == q) = some w ∧ w.fault = none ∧ (s.unitOf w.uid).live = true ∧ s.streamBusy c w = false
/-- The queue of core `c` with command `q` changed. -/
def wainBecomes (s t : State) (c q : Nat) (f : WainCmd → WainCmd) : Prop :=
  (t.coreOf c).wq = (s.coreOf c).wq.map (fun x => if x.seq = q then f x else x)
/-- A command that stopped before its failing run or row: faulted, its progress kept, its reeve's event latch set (R286). -/
def wainFaulted (s t : State) (c q : Nat) (w : WainCmd) (f : TrapInfo) : Prop :=
  wainBecomes s t c q (fun x => { x with fault := some f, reported := false }) ∧ ((t.unitOf w.uid).reeveOf w.reeve).latch = true
/-- Byte β of a row under R294: swizzle `k`, row number `rho`. -/
def swizzled (base : Word) (k rho b : Nat) : Word := base + BitVec.ofNat 64 (b ^^^ (rho % 2 ^ k * 16))
/-- Run `t` of a copy (R289): its index in dimension 1, and its address from a base and signed strides. -/
def runOne (d : Desc) (t : Nat) : Nat := t % dfld d 26 2
def runAt (d : Desc) (t : Nat) (base : Nat) (str : List Int) : Word :=
  wrap ((base : Int) + runOne d t * str.getD 0 0 + (t / dfld d 26 2 % dfld d 28 2 : Nat) * str.getD 1 0 +
    (t / (dfld d 26 2 * dfld d 28 2) : Nat) * str.getD 2 0)
/-- The bytes of run `t` of a fill (R290). -/
def rampBytes (d : Desc) (t : Nat) : List Byte :=
  let z := 2 ^ (dfld d 16 4 / 2 ^ 8 % 4)
  let n := dfld d 20 4
  (List.range n).map (fun j => byteOf ((dfld d 0 8 + (t * (n / z) + j / z) * dfld d 36 8) % 2 ^ (8 * z)) (j % z))
/-- Row `j` of a gather or scatter goes as R292 says from `v` to `v2`; `hit`: its index names a table row. -/
def rowMoves (w : WainCmd) (v : State) (j : Nat) (hit : Bool) (v2 : State) : Prop :=
  let d := w.desc
  let n := dfld d 20 4
  let opt := dfld d 16 4
  let packed : Word := BitVec.ofNat 64 (j * dfld d 24 4)
  ∃ ib v0, v.engRead (2 ^ 40) (BitVec.ofNat 64 (dfld d 40 8 + 4 * j)) 4 = .ok ib v0 ∧
    let i := leVal ib
    let table : Word := BitVec.ofNat 64 (i * dfld d 28 4)
    hit = decide (i < dfld d 36 4) ∧
    (if w.op = 0xE9 then
      ∃ b v1, (if hit then v0.swRead 0 (BitVec.ofNat 64 (dfld d 0 8) + table) n (opt % 4) i = .ok b v1 else b = List.replicate n 0 ∧ v1 = v0) ∧
        v1.swWrite (BitVec.ofNat 64 (dfld d 8 8) + packed) b (opt / 4 % 4) j = .ok ⟨⟩ v2
     else if hit then
      ∃ b v1, v0.swRead 0 (BitVec.ofNat 64 (dfld d 0 8) + packed) n (opt % 4) j = .ok b v1 ∧
        v1.swWrite (BitVec.ofNat 64 (dfld d 8 8) + table) b (opt / 4 % 4) i = .ok ⟨⟩ v2
     else v2 = v0)
/-- `k` rows of command `q` of core `c` go one after another from `v` to `v2`. -/
def rowsMove (c q : Nat) : Nat → State → State → Prop
  | 0, v, v2 => v2 = v
  | k + 1, v, v2 => ∃ w hit u, (v.coreOf c).wq.find? (fun x => x.seq == q) = some w ∧ wStream w = none ∧ rowMoves w v w.done hit u ∧
      rowsMove c q k (u.dropReplies.modWain c q (fun x => { x with
        done := x.done + 1, copied := x.copied + (if hit then 1 else 0), zeroed := x.zeroed + (if hit then 0 else 1) })) v2
/-- Nothing holds back the advances of a command: its remote stores are visible and nothing issued earlier names its counter (R211, R285). -/
def advances (s : State) (c q : Nat) (w : WainCmd) : Prop :=
  (∀ t ∈ ((s.unitOf w.uid).reeveOf w.reeve).stores, t.agent ≠ 100 + q) ∧ s.heldBack c q (s.wainUnit w) w.tl = false
/-- Counter `n` of unit `uid` goes up by `k`, saturating. -/
def rises (s t : State) (uid n k : Nat) : Prop :=
  (KMap.get 0 (t.unitOf uid).tl n).toNat = min ((KMap.get 0 (s.unitOf uid).tl n).toNat + k) (2 ^ 64 - 1)
/-- The status record of a command whose work is done, and then its flag (R212, R285, R292). -/
def recordWrite (s : State) (w : WainCmd) : Acc PUnit :=
  let stat := dfld w.desc 48 8
  if (w.op = 0xE9 ∨ w.op = 0xEA) ∧ stat ≠ 0 ∧ w.stated = false then s.engWrite (BitVec.ofNat 64 stat) (leBytes 8 (w.zeroed * 2 ^ 32 + w.copied)) else .ok ⟨⟩ s
def flagWrite (s : State) (w : WainCmd) : Acc PUnit :=
  if w.op ≠ 0xEC ∧ (dfld w.desc 16 4).testBit 4 = true then s.engWrite (BitVec.ofNat 64 (dfld w.desc 56 8)) (leBytes 8 1) else .ok ⟨⟩ s
/-- Command `q` of core `c` is `w`, but for what its accesses and its status record note of it. -/
def stillThere (u : State) (c q : Nat) (w : WainCmd) : Prop :=
  ∃ x, (u.coreOf c).wq.find? (fun x => x.seq == q) = some x ∧ x = { w with wide := x.wide, stated := x.stated }
/-- No store of command `q` to a peer waits for its acknowledgement. -/
def allVisible (u : State) (q : Nat) (w : WainCmd) : Prop := ∀ t ∈ ((u.unitOf w.uid).reeveOf w.reeve).stores, t.agent ≠ 100 + q
/-- A finished command advances its counter by what is left, and leaves the queue (R211, R285). -/
def commandLeaves (s : State) (c q : Nat) (w : WainCmd) (o : State) : Prop :=
  let total := if w.op = 0xE9 ∨ w.op = 0xEA then (dfld w.desc 32 4 + 7) / 8 else 1
  stillThere o c q w → rising o.cores → rising o.units → (∀ y ∈ o.units, y.2.heldAdv = []) → advances o c q w → w.advanced ≤ total →
  ∃ t, exec (.wainComplete c q) s = .next t ∧ t.hbm = o.hbm ∧ (t.coreOf c).wq = (o.coreOf c).wq.filter (fun x => x.seq != q) ∧
    rises o t (o.wainUnit w) w.tl (total - w.advanced)
/-- The quantised archive value of R298's loop: 4 bits. -/
def archived (ring : List Byte) (scale : Byte) (c : Nat) : Nat :=
  let v := fdec (fmtOf .bf16) ((ring.getD (2 * c) 0).toNat + 256 * (ring.getD (2 * c + 1) 0).toNat)
  (quantUnder 0 scale.toNat v).1 % 16
end Sys2Proof.Claims

/-- R284-R294: a run reads its bytes and writes them, a batch moves its rows, a failing one faults the command before it; a command that is done writes
its status record and flag, advances its counter and leaves. -/
def Sys2Proof.Claims.wainCommandsArePerformed : Prop :=
  ∀ (s : State) (c q : Nat) (w : WainCmd), working s c q w →
    let d := w.desc
    let opt := dfld d 16 4
    let n := dfld d 20 4
    let v := s.asWain w
    -- WAIN_RUN
    (w.op = 0xE8 ∨ w.op = 0xEB → w.done < dfld d 26 2 * dfld d 28 2 * dfld d 30 2 → ∀ u, v.wainDest w = .ok ⟨⟩ u →
      let i1 := runOne d w.done
      let src := runAt d w.done (dfld d 0 8) (strides d 32)
      let dst := runAt d w.done (dfld d 8 8) (strides d 44)
      (∀ b u1, (if w.op = 0xEB then n % 2 ^ (opt / 2 ^ 8 % 4) = 0 ∧ b = rampBytes d w.done ∧ u1 = u else u.swRead 0 src n (opt % 4) i1 = .ok b u1) →
        (wStream w = none → ∀ u2, u1.swWrite dst b (opt / 4 % 4) i1 = .ok ⟨⟩ u2 → ∃ t, exec (.wainRun c q) s = .next t ∧
          wainBecomes u2 t c q (fun x => { x with done := x.done + 1 }) ∧
          t = { u2.dropReplies with cores := t.cores, uid := s.uid, who := s.who, eng := s.eng }) ∧
        (wStream w = none → ∀ f u2, u1.swWrite dst b (opt / 4 % 4) i1 = .trap f u2 → stillThere u2 c q w →
          ∃ t, exec (.wainRun c q) s = .next t ∧ wainFaulted u2 t c q w f) ∧
        (wStream w ≠ none → w.pend.length < 64 → ∃ t, exec (.wainRun c q) s = .next t ∧
          wainBecomes u1 t c q (fun x => { x with done := x.done + 1, pend := x.pend ++ b }))) ∧
      (w.op = 0xE8 → wStream w = none → ∀ f u1, u.swRead 0 src n (opt % 4) i1 = .trap f u1 → stillThere u1 c q w →
        ∃ t, exec (.wainRun c q) s = .next t ∧ wainFaulted u1 t c q w f)) ∧
    -- GATHER_BATCH
    (w.op = 0xE9 ∨ w.op = 0xEA → w.done < dfld d 32 4 → wStream w = none → ∀ u u2, v.wainDest w = .ok ⟨⟩ u →
      let last := min (w.done / 8 * 8 + 8) (dfld d 32 4)
      rowsMove c q (last - w.done) u u2 → ∃ t, exec (.gatherBatch c q) s = .next t ∧ t.hbm = u2.hbm ∧
        ∀ x, (u2.coreOf c).wq.find? (fun x => x.seq == q) = some x → x.done = last → x.finished = false → rising u2.units → rising u2.cores →
          (∀ y ∈ u2.units, y.2.heldAdv = []) →
          let done := if last = dfld d 32 4 then (last + 7) / 8 - 1 else last / 8
          let out := u2.dropReplies.back s
          advances out c q x → rises out t (out.wainUnit x) x.tl (done - x.advanced)) ∧
    -- WAIN_COMPLETE
    (wTotal w ≤ w.done → w.pend = [] → allVisible s q w →
      (w.finished = true → commandLeaves s c q w s) ∧
      (w.finished = false → ∀ u0, recordWrite v w = .ok ⟨⟩ u0 →
        let s2 := (u0.back s).modCore c (fun x => { x with wq := x.wq.map (fun y => if y.seq == q then { y with stated := true } else y) })
        (¬allVisible s2 q w → exec (.wainComplete c q) s = .next s2) ∧
        (allVisible s2 q w → ∀ u, flagWrite (s2.asWain w) w = .ok ⟨⟩ u → commandLeaves s c q w (u.back s)))) ∧
    -- R294
    (∀ base m k rho b, k ≤ 3 → (k = 0 ∨ m % (16 * 2 ^ k) = 0) → b < m → ∃ p ∈ swPieces base m k rho, p.1 ≤ b ∧ b < p.1 + p.2.2 ∧
      p.2.1 + BitVec.ofNat 64 (b - p.1) = swizzled base k rho b)

/-- R168, R295-R298, R300: granules reach their stream buffer, a routine starts with its registers, KVQ consumes its tokens and ends, and the tiles of
views are built. -/
def Sys2Proof.Claims.streamsRoutinesAndViews : Prop :=
  ∀ (s : State) (c uid k : Nat),
    -- GRANULE_COMMIT
    (∀ b q w, (s.unitOf uid).streams[k]? = some b → s.producers uid k = [(c, q)] → (s.coreOf c).wq.find? (fun x => x.seq == q) = some w →
      (s.unitOf uid).live = true → (s.unitOf uid).loftResident = true → (64 ≤ b.size - (b.fill + b.head % 64)) → (s.unitOf uid).heldAdv = [] → (w.op = 0xE8 ∨ w.op = 0xEB) → w.finished = false →
      ∃ t, exec (.granuleCommit uid k) s = .next t ∧ wainBecomes s t c q (fun x =>
          { x with pend := x.pend.drop 64, committed := x.committed + min 64 w.pend.length }) ∧
        (t.unitOf uid).streams[k]? = some { b with tail := (b.tail + 64) % b.size, fill := b.fill + 64 } ∧
        (∀ o, KMap.get 0 (t.unitOf uid).loft o = if b.off + b.tail ≤ o ∧ o < b.off + b.tail + 64 then w.pend.getD (o - (b.off + b.tail)) 0
          else KMap.get 0 (s.unitOf uid).loft o)) ∧
    -- ROUTINE_START
    (∀ w u, (s.coreOf c).routine = none → (s.coreOf c).wq.find? (fun w => w.op = 0xEC && !w.finished && w.fault.isNone && (s.unitOf w.uid).live) = some w →
      s.streamBusy c w = false → (s.asWain w).wainDest w = .ok ⟨⟩ u →
      ∃ t x, exec (.routineStart c) s = .next t ∧ (t.coreOf c).routine = some x ∧ (t.coreOf c).wq = (u.coreOf c).wq ∧ x.seq = w.seq ∧ x.uid = w.uid ∧
        x.reeve = w.reeve ∧ x.pc = BitVec.ofNat 64 (dfld w.desc 8 8) ∧ x.vec.vl = 0 ∧ x.vec.vt = 0x8000000000000000 ∧ x.vec.v = [] ∧ x.vec.m = [] ∧
        ∀ j, KMap.get 0 x.g j = ([0, dfld w.desc 16 8, dfld w.desc 24 8, dfld w.desc 4 4, dfld w.desc 32 8, dfld w.desc 40 8, dfld w.desc 48 8,
          dfld w.desc 56 8, (s.unitOf w.uid).taskId w.reeve, windowBase].map (BitVec.ofNat 64)).getD j 0) ∧
    -- KVQ
    (∀ x w, (s.coreOf c).routine = some x → (s.coreOf c).wq.find? (fun y => y.seq == x.seq) = some w → w.fault = none →
      x.pc = Config.kvqEntry → (s.unitOf w.uid).loftPoison = [] → s.hbmPoison = [] →
      let d := w.desc
      let C := dfld d 56 8 % 2 ^ 16
      let W := dfld d 56 8 / 2 ^ 16 % 2 ^ 16
      let good := C % 32 = 0 ∧ 1 ≤ C ∧ C ≤ 8192 ∧ 1 ≤ W ∧ W ≤ 1024
      let T := dfld d 4 4 / (2 * C)
      (x.consumed = dfld d 4 4 → x.held = [] → ∃ t, exec (.kvq c) s = .next t ∧ (t.coreOf c).routine = none ∧
        wainBecomes s t c x.seq (fun y => { y with finished := true }) ∧ t = { s with cores := t.cores }) ∧
      (∀ j b, x.held = [] → s.destOf w.uid (BitVec.ofNat 64 (dfld d 16 8)) = some (w.uid, j) → (s.unitOf w.uid).streams[j]? = some b →
        let eaten (m : Nat) (held : List Byte) : State :=
          (s.modUnit w.uid (fun u => u.consume j m)).modRt c (fun y => { y with consumed := y.consumed + m, held := held })
        (good → x.consumed = 2 * C * (x.consumed / (2 * C)) → x.consumed / (2 * C) < T → 2 * C ≤ b.fill →
          let t := dfld d 56 8 / 2 ^ 32 + x.consumed / (2 * C)
          let token := s.streamRead w.uid b (2 * C)
          let v := eaten (2 * C) token
          let ring := BitVec.ofNat 64 (dfld d 32 8 + 2 * C * (t % W))
          ∀ u1, (v.asWain w).engProbe ring (2 * C) = .ok ⟨⟩ u1 →
          (t < W → ∀ u2, u1.engWrite ring token = .ok ⟨⟩ u2 →
            exec (.kvq c) s = .next ((u2.dropReplies.back s).modRt c (fun y => { y with held := [] }))) ∧
          (W ≤ t → ∀ old u2 sc u3 u4 u5, u1.engRead 0 ring (2 * C) = .ok old u2 → u2.engRead (2 ^ 40) (BitVec.ofNat 64 (dfld d 48 8)) C = .ok sc u3 →
            u3.engWrite (BitVec.ofNat 64 (dfld d 40 8 + (t - W) * (C / 2))) ((List.range (C / 2)).map (fun j =>
              BitVec.ofNat 8 (archived old (sc.getD (2 * j) 0) (2 * j) + 16 * archived old (sc.getD (2 * j + 1) 0) (2 * j + 1)))) = .ok ⟨⟩ u4 →
            u4.engWrite ring token = .ok ⟨⟩ u5 →
            exec (.kvq c) s = .next ((u5.dropReplies.back s).modRt c (fun y => { y with held := [] })))) ∧
        ((¬good ∨ T * (2 * C) ≤ x.consumed) → x.consumed < dfld d 4 4 →
          exec (.kvq c) s = .next (eaten (min b.fill (dfld d 4 4 - x.consumed)) [])))) ∧
    -- VIEW_TILE_BUILD
    (∀ slot ti tj v b u, KMap.get none (s.unitOf uid).views slot = some v → (s.unitOf uid).live = true → (s.unitOf uid).place ≠ .over →
      32 * ti < vwRows v.desc → 32 * tj < vwCols v.desc → (∀ x ∈ v.tiles, ¬(x.1 = ti ∧ x.2.1 = tj)) →
      ¬((s.unitOf uid).rv = 2 ∧ ∃ x ∈ (s.unitOf uid).reeves, x.2.log ≠ []) →
      Acc.each (fun p s => s.viewElem (fun s => s.loadThrough 8) (8 * p.1) v p.2.1 p.2.2)
        ((List.range 1024).map (fun e => (e, 32 * ti + e / 32, 32 * tj + e % 32))) (s.asEngine uid 0 (20 + slot)) = .ok b u →
      ∃ t, exec (.viewTileBuild uid slot ti tj) s = .next t ∧ t = { u.dropReplies with units := t.units, uid := s.uid, who := s.who, eng := s.eng } ∧
        KMap.get none (t.unitOf uid).views slot = some { v with tiles := ((ti, tj, b.flatten) :: v.tiles).take 64 })

/-- R168, R284-R298, R300: wain commands are performed, and streams, routines and views with them. Which producer commits is open (log entry 9), and
where KVQ is entered is a free address (log entry 31). -/
def Obligations.StreamsAndWainCommands : Prop :=
  Claims.wainCommandsArePerformed ∧ Claims.streamsRoutinesAndViews

/-! ### Collectives (R74-R94, R197, R441-R446) -/

namespace Sys2Proof.Claims

/-- A flit, in which messages travel (R46). -/
def isFlit : Msg → Bool
  | .flit .. => true
  | _ => false
/-- From `s` to `t` message `m` left the package, and the flits that its port then sent; nothing else changed. -/
def sends (s t : State) (m : Msg) : Prop :=
  t = { s with sent := t.sent, ports := t.ports } ∧ ∃ l : List Msg, t.sent = s.sent ++ m :: l ∧ ∀ x ∈ l, isFlit x = true
/-- A peer's store that touched these lines has been performed: it is told that the store is accepted, and that it is visible once no earlier
reply for its lines is on its way (R65). -/
def acked (s t : State) (lines : List Nat) (peer tag : Nat) : Prop :=
  t = { s with sent := t.sent, ports := t.ports, heldReplies := t.heldReplies } ∧
  ∃ l : List Msg, t.sent = s.sent ++ .storeAck peer tag false :: l ∧
    (s.heldReplies = [] → s.repliesOut lines = [] → t.heldReplies = [] ∧ ∃ f g, l = f ++ .storeAck peer tag true :: g ∧ ∀ x ∈ f ++ g, isFlit x = true) ∧
    (s.repliesOut lines ≠ [] → ∃ h ∈ t.heldReplies, h.msg = .storeAck peer tag true ∧ h.lines = lines ∧ h.peer = peer ∧ h.tag = tag)
/-- FT_PLAN with a subcode (R79). -/
def planFault (sub : Nat) (tval : Word) : TrapInfo := tr 0x0D sub tval
/-- The low 16 bits of a handle register. -/
def handle16 (w : Word) : Nat := w.toNat % 2 ^ 16
/-- The group that a handle names. -/
def groupAt (s : State) (h : Nat) : Option Group := if 0x1000 ≤ h ∧ h ≤ 0x1007 then KMap.get none s.re.groups (h - 0x1000) else none
/-- The plan that a handle names in the executing partition. -/
def planOf (s : State) (h : Nat) : Option Plan := s.plans.find? (fun p => p.part == s.cu.part && p.handle == h)
/-- The collective words that a revoked partition may not run (R93, R441). -/
def collective : Instr → Option (List Reg × List Reg)
  | .plan d a | .agset d a | .agsetSh d a => some ([d, a], [a])
  | .plfree a | .cfire a => some ([a], [a])
  | .crdy a b => some ([a, b], [a, b])
  | .mldr d a b c _ _ _ _ => some ([d, a, b, c], [a, b, c])
  | .mstb a b c _ _ _ _ => some ([a, b, c], [a, b, c])
  | _ => none
/-- A group descriptor of R86: base, LEN, and its members. -/
def groupDescOk (h : List Byte) (m : List (BitVec 32)) : Prop :=
  let n := (h.getD 12 0).toNat
  1 ≤ n ∧ n ≤ 64 ∧ leVal ((h.drop 8).take 4) ≠ 0 ∧ leVal (h.drop 13) = 0 ∧ (∀ e ∈ m, e.toNat / 2 ^ 15 % 2 = 0 ∧ e.toNat / 2 ^ 28 = 0) ∧
  (m.map (fun e => (e.toNat % 2 ^ 12, e.toNat / 2 ^ 12 % 8))).Pairwise (· ≠ ·)
/-- A new group `g` takes the lowest free slot of the executing task, whose handle goes to `d`; with no free slot the word traps NORES. -/
def takesSlot (u : State) (i : Instr) (s : State) (d : Reg) (tval : Word) (g : Group) : Prop :=
  (∀ k, k < 8 → KMap.get none u.re.groups k = none → (∀ j, j < k → KMap.get none u.re.groups j ≠ none) → exec i s = .next
    (((u.modRe (fun x => { x with groups := KMap.set none x.groups k (some g) })).wr d (BitVec.ofNat 64 (0x1000 + k))).ran (s.pc + 8))) ∧
  ((∀ k, k < 8 → KMap.get none u.re.groups k ≠ none) → exec i s = .next (u.dropReplies.takeTrap (planFault 2 tval)))
/-- Tile `t` of a plan with its flag set. -/
def flagged (p : Plan) (t : Nat) : Plan := { p with tiles := KMap.upd Tile.idle p.tiles t (fun x => { x with flag := true }) }
/-- The plans with one of them changed. -/
def plansWith (s : State) (h : Nat) (f : Plan → Plan) : List Plan :=
  s.plans.map (fun p => if p.part = s.cu.part ∧ p.handle = h then f p else p)
/-- Tiles of a plan descriptor (R77). -/
def tilesOf (d : Desc) : Nat := (dfld d 4 4 + dfld d 20 4 - 1) / dfld d 20 4
/-- The status of R89 for the members' answers in rank order: the lowest rank that is absent or refuses. -/
def statusOf : Nat → List ReplyStatus → Nat
  | _, [] => 0
  | k, .unreachable :: _ => k * 2 ^ 16 + 1
  | k, .refused :: _ => k * 2 ^ 16 + 2
  | k, _ :: l => statusOf (k + 1) l
/-- The fold of R75 over integers: every sum is taken mod 2^w; minimum and maximum compare the values. -/
def intFold (op : Nat) (t : Ty) : List Nat → Nat
  | [] => 0
  | x :: l => l.foldl (fun a b => amoRule (match op with | 0 => .add | 1 => .min | _ => .max) t a (b % 2 ^ tyWidth t)) (x % 2 ^ tyWidth t)
end Sys2Proof.Claims

/-- R79, R85, R93, R441-R443: every collective word of a REVOKED partition traps FT_REVOKED; PLAN posts its plan once every member agrees, PLFREE
frees it, CRDY and CFIRE set the ready flags, and each traps or waits as its rule says. -/
def Obligations.PlansAreSetUpFiredAndFreed : Prop :=
  ∀ (s : State) (r : Nat) (d a b : Reg), s.who = .reeve r →
    (∀ i l, collective i = some l → i.wf = true → s.ready l.1 l.2 = true → (s.partOf s.cu.part).st = .revoked →
      exec i s = .next (s.dropReplies.takeTrap (tr 0x0E 0 0))) ∧
    (s.ready [d, a, b] [a, b] = true → (s.partOf s.cu.part).st ≠ .revoked →
      -- PLAN
      (s.re.planWait = none → (s.rd a).toNat % 64 ≠ 0 → exec (.plan d a) s = .next (s.dropReplies.takeTrap (tr 0x05 0 (s.rd a)))) ∧
      (∀ w, s.re.planWait = some w → (∀ e ∈ w.members, s.memberGone e = false) →
        let id : BitVec 32 := BitVec.ofNat 32 (dfld w.desc 0 4)
        let me := dfld w.desc 14 2
        let theirs := s.sigs.filter (fun g => g.part == s.cu.part && g.planId = id && g.rank != me)
        let beyond : State := { s with sigs := s.sigs.filter (fun g => !(g.part == s.cu.part && g.planId = id)) }
        let beyond := beyond.modRe (fun x => { x with planWait := none })
        ((∀ g ∈ theirs, g.sig ≠ 0) → (∃ g ∈ theirs, g.sig ≠ w.sig) →
          exec (.plan d a) s = .next (beyond.dropReplies.takeTrap (planFault 1 (s.rd a)))) ∧
        (w.sig ≠ 0 → (∀ g ∈ theirs, g.sig = w.sig) → (∃ q < w.members.length, q ≠ me ∧ ∀ g ∈ theirs, g.rank ≠ q) →
          exec (.plan d a) s = .next (s.markWait .plan)) ∧
        (∀ rs slot, w.sig ≠ 0 → (∀ g ∈ theirs, g.sig = w.sig) → (∀ q, q < w.members.length → q ≠ me → ∃ g ∈ theirs, g.rank = q) →
          w.reserve = none → s.planReserve w.desc w.members w.table = some rs → s.planSlot w theirs = some slot → s.slotTaken slot id = false →
          ∃ t, exec (.plan d a) s = .next t ∧ t.pc = s.pc ∧ t.re.planWait = some { w with reserve := some (rs, slot) } ∧ t.plans = s.plans ∧
            t.hbm = s.hbm ∧ t.keys = s.keys) ∧
        (∀ rs h slot, w.sig ≠ 0 → (∀ g ∈ theirs, g.sig = w.sig ∧ g.reserved = true) → (∀ q, q < w.members.length → q ≠ me → ∃ g ∈ theirs, g.rank = q) →
          w.reserve = some (rs, slot) → h < 4096 → (∀ p ∈ s.plans, p.part = s.cu.part → p.handle ≠ h) →
          (∀ j, j < h → ∃ p ∈ s.plans, p.part = s.cu.part ∧ p.handle = j) →
          ∃ t, exec (.plan d a) s = .next t ∧ t.rd d = s.written d (BitVec.ofNat 64 h) ∧ t.pc = s.pc + 8 ∧ t.re.planWait = none ∧ t.sigs = beyond.sigs ∧
            t.plans = s.plans ++ [⟨s.cu.part, h, s.cu.passId, s.uid, r, s.cu.asid, id, w.desc, w.members, w.table, [], [], [], slot, none, rs⟩] ∧
            t.hbm = s.hbm ∧ (∀ q, q ≠ d → t.rd q = s.rd q) ∧ (s.enclaveOf s.cu.part = none → t.keys = s.keys))) ∧
      -- PLFREE
      (∀ h, h = handle16 (s.rd a) →
        (∀ g, groupAt s h = some g → exec (.plfree a) s = .next
          ((s.modRe (fun x => { x with groups := KMap.set none x.groups (h - 0x1000) none })).ran (s.pc + 8))) ∧
        ((0x1000 ≤ h ∧ groupAt s h = none ∨ h < 0x1000 ∧ planOf s h = none) →
          exec (.plfree a) s = .next (s.dropReplies.takeTrap (planFault 6 (BitVec.ofNat 64 h)))) ∧
        (∀ p, h < 0x1000 → planOf s h = some p →
          let gone : State := { s with plans := s.plans.filter (fun x => !(x.part == s.cu.part && x.handle == h)) }
          let freed : State := if gone.plans.any (fun x => x.keySlot == p.keySlot) then gone else gone.zeroise p.keySlot
          (p.failed = none → (∀ t ∈ p.tiles, t.2.running = false) → exec (.plfree a) s = .next (freed.ran (s.pc + 8))) ∧
          (p.failed = none → (∃ t ∈ p.tiles, t.2.running = true) → exec (.plfree a) s = .next (s.markWait .plan)) ∧
          (∀ f, p.failed = some f → f.toNat ∈ [5, 6, 7] → exec (.plfree a) s = .next (freed.ran (s.pc + 8))) ∧
          (∀ f, p.failed = some f → f.toNat ∉ [5, 6, 7] →
            exec (.plfree a) s = .next (s.dropReplies.takeTrap (planFault f.toNat (BitVec.ofNat 64 h)))))) ∧
      -- CRDY
      (∀ h, h = handle16 (s.rd a) →
        ((0x1000 ≤ h ∨ planOf s h = none) → exec (.crdy a b) s = .next (s.dropReplies.takeTrap (planFault 6 (BitVec.ofNat 64 h)))) ∧
        (∀ p, h < 0x1000 → planOf s h = some p → p.failed = none → 0 < dfld p.desc 20 4 →
          let t := (s.rd b).toNat
          (tilesOf p.desc ≤ t → exec (.crdy a b) s = .next (s.dropReplies.takeTrap (planFault 3 (BitVec.ofNat 64 h)))) ∧
          (t < tilesOf p.desc → s.ackGate (ackNeed 4 0) = none →
            ((KMap.get Tile.idle p.tiles t).flag = true → exec (.crdy a b) s = .next (s.markWait .plan)) ∧
            ((KMap.get Tile.idle p.tiles t).flag = false →
              let fired : State := { s with plans := plansWith s h (fun x => flagged x t) }
              exec (.crdy a b) s = .next (fired.ran (s.pc + 8)))))) ∧
      -- CFIRE
      (∀ p, let w := (s.rd a).toNat
        let h := w % 2 ^ 12
        let lo := w / 2 ^ 16 % 2 ^ 16
        let hi := w / 2 ^ 32 % 2 ^ 16
        planOf s h = some p → p.failed = none → w / 2 ^ 12 % 16 = 0 → w / 2 ^ 48 = 0 → lo ≤ hi → 0 < dfld p.desc 20 4 → hi < tilesOf p.desc →
        s.ackGate (ackNeed 4 0) = none → ∃ t, exec (.cfire a) s = .next t ∧ t.pc = s.pc + 8 ∧ (∀ q, t.rd q = s.rd q) ∧ t.hbm = s.hbm ∧
          ∃ p', planOf t h = some p' ∧ p' = { p with tiles := p'.tiles } ∧ ∀ j, KMap.get Tile.idle p'.tiles j =
            let x := KMap.get Tile.idle p.tiles j
            { x with flag := x.flag || (decide (lo ≤ j) && decide (j ≤ hi)) }))

/-- R75, R86-R92, R197, R374-R375, R444-R446: AGSET makes a group of its descriptor or of a shard descriptor, MLDR folds what the members answer and
writes it or its status, MSTB stores to every member, SHGEN reports its members' answers. -/
def Sys2Proof.Claims.groupWordsReachTheirMembers : Prop :=
  ∀ (s : State) (r : Nat) (d a b c : Reg), s.who = .reeve r → s.ready [d, a, b, c] [a, b, c] = true →
    -- AGSET
    ((s.partOf s.cu.part).st ≠ .revoked → (s.rd a).toNat % 16 ≠ 0 → exec (.agset d a) s = .next (s.dropReplies.takeTrap (tr 0x05 0 (s.rd a)))) ∧
    (∀ h u l v, (s.partOf s.cu.part).st ≠ .revoked → (s.rd a).toNat % 16 = 0 → s.loadGate plainMem = none → s.plainLoad 0 (s.rd a) 16 = .ok h u →
      let va := s.rd a
      Acc.each (fun k y => State.plainLoad y (k + 1) (wrap (va.toInt + 16 + 4 * k)) 4) (List.range (h.getD 12 0).toNat) u = .ok l v → v.pc = s.pc →
      let m := l.map (fun b => (BitVec.ofNat 32 (leVal b) : BitVec 32))
      (groupDescOk h m → takesSlot v (.agset d a) s d va ⟨BitVec.ofNat 64 (leVal (h.take 8)), leVal ((h.drop 8).take 4), m⟩) ∧
      (¬groupDescOk h m → exec (.agset d a) s = .next (v.dropReplies.takeTrap (planFault 3 va)))) ∧
    (∀ x, (s.partOf s.cu.part).st ≠ .revoked → s.shDesc s.cu.part s.cu.asid (s.rd a).toNat = some x →
      let mesh := sdMesh x
      (sdValid x = false → exec (.agsetSh d a) s = .next (s.dropReplies.takeTrap (tr 0x0B 3 0))) ∧
      (sdValid x = true → 64 < mesh.length → exec (.agsetSh d a) s = .next (s.dropReplies.takeTrap (planFault 3 (s.rd a)))) ∧
      (sdValid x = true → mesh.length ≤ 64 → (∀ k ∈ mesh, sdAt x k < 4096) → s.cu.part < 8 →
        takesSlot s (.agsetSh d a) s d (s.rd a) ⟨BitVec.ofNat 64 (dfld x 56 8), sdExtent x,
          mesh.map (fun k => BitVec.ofNat 32 (sdAt x k + 2 ^ 12 * s.cu.part))⟩)) ∧
    (s.shDesc s.cu.part s.cu.asid (s.rd a).toNat = none → (s.partOf s.cu.part).st ≠ .revoked →
      exec (.agsetSh d a) s = .next (s.dropReplies.takeTrap (tr 0x0B 3 0))) ∧
    -- the group of MLDR, MSTB and SHGEN
    (groupAt s (handle16 (s.rd b)) = none →
      let freed : Host.Outcome State Fault Refusal := .next (s.dropReplies.takeTrap (planFault 6 (s.rd b)))
      (∀ op dt st n t tle tl, (s.partOf s.cu.part).st ≠ .revoked →
        exec (.mldr d a b c op dt st n) s = freed ∧ exec (.mstb a b c t tle tl n) s = freed) ∧
      (s.keeper = true → exec (.shgen d a b) s = freed)) ∧
    (∀ g, groupAt s (handle16 (s.rd b)) = some g →
      let off := s.rd c
      let va : Word := g.base + off
      -- MLDR
      (∀ (op : BitVec 2) (dt st : Ty) (n : BitVec 12) u, (s.partOf s.cu.part).st ≠ .revoked →
        s.inFlight = false → s.loadGate plainMem = none → s.colProbe .store (s.rd a) (n.toNat * bytesOf dt) (bytesOf dt) = .ok ⟨⟩ u →
        let i : Instr := .mldr d a b c op dt st n
        (off.toNat % bytesOf st ≠ 0 → exec i s = .next (u.dropReplies.takeTrap (tr 0x05 0 off))) ∧
        (off.toNat % bytesOf st = 0 → g.len < off.toNat + n.toNat * bytesOf st → exec i s = .next (u.dropReplies.takeTrap (tr 0x07 0 off))) ∧
        (∀ l v, off.toNat % bytesOf st = 0 → off.toNat + n.toNat * bytesOf st ≤ g.len →
          u.members g.members (fun y e => y.memberReadAt (mePart e) ((u.peer).getD 0) u.cu.part va (n.toNat * bytesOf st))
            (fun y k e => y.sendMemberRead k e va (n.toNat * bytesOf st)) = .ok l v → v.pc = s.pc →
          let w := statusOf 0 (l.map (·.1))
          (w ≠ 0 → exec i s = .next ((v.wr d (BitVec.ofNat 64 w)).ran (s.pc + 8))) ∧
          (w = 0 → (∃ x ∈ l, x.1 = .poison) → exec i s = .next (v.dropReplies.takeTrap (tr 0x13 2 va))) ∧
          (w = 0 → (∀ x ∈ l, x.1 ≠ .poison) → ∀ y,
            v.colWrite (s.rd a) (foldBytes op.toNat dt st n.toNat ((List.range l.length).zip (l.map (·.2)))) = .ok ⟨⟩ y → y.pc = s.pc →
            exec i s = .next ((y.wr d 0).ran (s.pc + 8))))) ∧
      -- MSTB
      (∀ (t : Ty) tle (tl : BitVec 4) (n : BitVec 12) data v, (s.partOf s.cu.part).st ≠ .revoked →
        s.orderGate false plainMem true = none → s.colRead (s.rd a) (n.toNat * bytesOf t) (bytesOf t) = .ok data v → v.pc = s.pc →
        let i : Instr := .mstb a b c t tle tl n
        (off.toNat % bytesOf t ≠ 0 → exec i s = .next (v.dropReplies.takeTrap (tr 0x05 0 off))) ∧
        (off.toNat % bytesOf t = 0 → g.len < off.toNat + n.toNat * bytesOf t → exec i s = .next (v.dropReplies.takeTrap (tr 0x07 0 off))) ∧
        (off.toNat % bytesOf t = 0 → off.toNat + n.toNat * bytesOf t ≤ g.len → 
          let z := g.members.foldl (fun y e => y.mstbSend va data (if tle then some tl.toNat else none) e) v
          z.pc = s.pc → exec i s = .next (z.ran (s.pc + 8)))) ∧
      -- SHGEN
      (∀ x l v, s.keeper = true → s.shDesc s.cu.part s.cu.asid (s.rd a).toNat = some x → s.inFlight = false → s.ackGate (ackNeed 4 0) = none →
        s.members g.members (fun y e => let z := y.shInstall (mePart e) (s.rd a).toNat x; ((z.1, []), z.2.shRelease (mePart e)))
          (fun y k e => y.sendInstall k e (s.rd a).toNat x) = .ok l v → v.pc = s.pc →
        exec (.shgen d a b) s = .next ((v.wr d (BitVec.ofNat 64 (statusOf 0 (l.map (·.1))))).ran (s.pc + 8))))

/-- R65, R71, R75, R91, R92: what MSTB does at one member, and the fold of integers. -/
def Sys2Proof.Claims.memberStoresAndFolds : Prop :=
  (∀ (s : State) (va : Word) (b : List Byte) (tl : Option Nat) (e : BitVec 32) (r : Nat), s.who = .reeve r → s.eng = none →
    let peer := e.toNat % 2 ^ 12
    let t := s.mstbSend va b tl e
    (s.peerGone peer = true → t = s.modRe (fun x => { x with fail := match x.fail with
      | some f => if f.tag ≤ s.nextTag then some f else some ⟨s.nextTag, 0x13, va, peer⟩
      | none => some ⟨s.nextTag, 0x13, va, peer⟩ })) ∧
    (s.peerGone peer = false → s.peer ≠ some peer → 
      ∃ u, sends { s with nextTag := s.nextTag + 1 } u (.mstb peer (e.toNat / 2 ^ 12 % 8) s.nextTag va b tl e) ∧
        t = u.modRe (fun x => { x with stores := x.stores ++ [⟨s.nextTag, r, va, peer, false, 0⟩] })) ∧
    (∀ a l u, s.peerGone peer = false → s.peer = some peer → s.symReady (e.toNat / 2 ^ 12 % 8) = some a →
      s.symRange (e.toNat / 2 ^ 12 % 8) a .store va b.length peer s.cu.part expW = (.ok l, u) → tl = none → t = u.writePieces l b)) ∧
  (∀ (op : Nat) (t : Ty) (l : List (Nat × Nat)), op ≤ 2 → t ∈ [Ty.i32, Ty.i64, Ty.n32, Ty.n64] → foldElem op t t l = intFold op t (l.map (·.2)))

/-- R65, R71, R75, R86-R92, R197, R374, R375, R444-R446: group words reach their members, store there and fold what comes back. -/
def Obligations.GroupWordsMembersAndFolds : Prop :=
  Claims.groupWordsReachTheirMembers ∧ Claims.memberStoresAndFolds

namespace Sys2Proof.Claims

/-- The live plan of a partition with a handle, which may perform steps (R84, R93). -/
def livePlan (s : State) (p h : Nat) (x : Plan) : Prop :=
  s.plans.find? (fun y => y.part == p && y.handle == h) = some x ∧ x.failed = none ∧ (s.partOf p).st ≠ .revoked ∧
  (∀ y ∈ s.plans, y.part = p → y.handle = h → y = x)
/-- Plan `h` of partition `p` in `t`: `f` of what it was, every other plan as it was. -/
def planBecomes (s t : State) (p h : Nat) (f : Plan → Plan) : Prop :=
  t.plans = s.plans.map (fun y => if y.part = p ∧ y.handle = h then f y else y)
/-- Tile `t` of a plan. -/
def tileOf (x : Plan) (t : Nat) : Tile := KMap.get Tile.idle x.tiles t
/-- A plan with one tile changed. -/
def withTile (t : Nat) (f : Tile → Tile) (x : Plan) : Plan := { x with tiles := KMap.upd Tile.idle x.tiles t f }
/-- The table entries of a tile, in table order (R80). -/
def entriesOf (x : Plan) (t : Nat) : List (BitVec 128) := x.table.filter (fun e => dfld e 6 2 == t)
/-- The entry that a running tile stands at is `e`, of kind `k`. -/
def standsAt (x : Plan) (t : Nat) (k : Nat) (e : BitVec 128) : Prop :=
  (tileOf x t).running = true ∧ (entriesOf x t)[(tileOf x t).entry]? = some e ∧ dfld e 5 1 = k
/-- Elements in tile `t`, and the addresses of its source and result. -/
def elems (d : Desc) (t : Nat) : Nat := min (dfld d 20 4) (dfld d 4 4 - t * dfld d 20 4)
def sourceAt (d : Desc) (t : Nat) : Word := BitVec.ofNat 64 (dfld d 56 8 + t * (dfld d 20 4 * pdSrcSize d))
def resultAt (d : Desc) (t : Nat) : Word := BitVec.ofNat 64 (dfld d 40 8 + t * dfld d 20 4 * pdDstSize d)
/-- The rest of a round: the next entry, or its end. -/
def nextEntry (x : Plan) (t : Nat) (z : Tile) : Tile :=
  { z with entry := z.entry + 1, issued := false, unacked := [], running := decide (z.entry + 1 < (entriesOf x t).length) }
/-- Rank `q`'s staging slot of an entry, and what the slots of a FOLD still miss: a place in HBM whose contribution has not come (R80). -/
def stagingAt (x : Plan) (e : BitVec 128) (q : Nat) : Word := BitVec.ofNat 64 (dfld e 8 8 + q * (dfld x.desc 20 4 * pdSrcSize x.desc))
def missing (s : State) (x : Plan) (e : BitVec 128) : Prop :=
  ∃ q ∈ teRanks e, q ≠ dfld x.desc 14 2 ∧ ∃ pa, s.planPlace x (stagingAt x e q) = some pa ∧ pa ∉ x.arrived
/-- The code of R89 in an answer to an install: 0, absent or refused. -/
def installCode : ReplyStatus → Nat
  | .ok => 0
  | .unreachable => 1
  | _ => 2
end Sys2Proof.Claims

/-- R78-R85: signatures arrive, rounds start, SEND and PUT send their tile to every rank, FOLD folds what has arrived and makes its tile final, staging
takes contributions, a final tile advances the plan's counter, a failure stops the plan.
The choice of key slots and the bytes of unfinished tiles are the model's (log entries 9 and 39). -/
def Obligations.PlanRoundsRun : Prop :=
  ∀ (s : State) (p h tile : Nat) (x : Plan), livePlan s p h x →
    let d := x.desc
    let z := tileOf x tile
    let n := elems d tile
    -- ROUND_START
    (z.flag = true → z.running = false → ∃ t, exec (.roundStart p h tile) s = .next t ∧ t = { s with plans := t.plans } ∧
      planBecomes s t p h (withTile tile (fun z => { z with
        flag := false, running := decide (entriesOf x tile ≠ []), entry := 0, round := z.round + 1, issued := false, unacked := [], final := false }))) ∧
    ((z.flag = false ∨ z.running = true) → exec (.roundStart p h tile) s = .next s) ∧
    -- SEND and PUT: the ranks of the entry in increasing order
    (∀ e put i b u, (put, i) ∈ [(false, Instr.sendStep p h tile), (true, Instr.putStep p h tile)] → standsAt x tile (if put then 2 else 0) e →
      z.issued = false →
      s.readVA x.xc [] (if put then resultAt d tile else sourceAt d tile) (n * (if put then pdDstSize d else pdSrcSize d)) = .ok b u →
      let va : Word := if put then BitVec.ofNat 64 (dfld e 8 8) else BitVec.ofNat 64 (dfld e 8 8 + dfld d 14 2 * (dfld d 20 4 * pdSrcSize d))
      let r := dfld e 0 4
      let ranks := (List.range (r / 2 ^ 10 % 2 ^ 11)).map (fun j => r % 2 ^ 10 + j * (r / 2 ^ 21 % 2 ^ 10))
      u.sendWaits x e put va b.length = false →
      let v := u.modPlan p h (withTile tile (fun z => { z with issued := true, unacked := [] }))
      let one (y : State) (q : Nat) : State := match y.planAt p h with
        | some w => if w.failed.isSome then y else y.sendTile w put tile va b q
        | none => y
      ∃ t, exec i s = .next t ∧ t = (ranks.foldl one v).sendDone p h tile) ∧
    (∀ put va b q, let e := x.members.getD q 0
      let peer := e.toNat % 2 ^ 12
      let part := e.toNat / 2 ^ 12 % 8
      s.peerGoneFor p peer = false → s.peer ≠ some peer → ∃ u, sends { s with nextTag := s.nextTag + 1 } u
          (if put then .planResult peer part x.planId s.nextTag tile va b else .planData peer part x.planId s.nextTag tile (dfld d 14 2) va b) ∧
        s.sendTile x put tile va b q = (u.modPlan p h (withTile tile (fun z => { z with unacked := z.unacked ++ [s.nextTag] }))).modPass p
          (passSeq x.passId) (fun y => { y with sends := y.sends ++ [(s.nextTag, peer)] })) ∧
    -- FOLD
    (∀ e l u v, standsAt x tile 1 e → pdOp d < 3 → x.heldC = [] → ¬missing s x e →
      let ranks := teRanks e
      let src (q : Nat) : Word := if q = dfld d 14 2 then sourceAt d tile else stagingAt x e q
      s.bufferBusy x (resultAt d tile) (n * pdDstSize d) = false → (∀ q ∈ ranks, s.bufferBusy x (src q) (n * pdSrcSize d) = false) →
      Acc.each (fun q (y : State) => y.readVA x.xc [] (src q) (n * pdSrcSize d)) ranks s = .ok l u →
      u.writeVA x.xc x.uid none (resultAt d tile) (foldBytes (pdOp d) ((tyOf (dfld d 11 1)).getD .i8) ((tyOf (dfld d 10 1)).getD .i8) n (ranks.zip l)) =
        .ok ⟨⟩ v → v.plans = s.plans → ∃ t, exec (.foldStep p h tile) s = .next t ∧ t.hbm = v.hbm ∧
        planBecomes s t p h (fun y => { withTile tile (fun z => { nextEntry x tile z with final := true }) y with
          arrived := y.arrived.filter (fun a => !(ranks.any (fun q => q != dfld d 14 2 && v.planPlace x (stagingAt x e q) == some a))) }) ∧
        rises v t x.uid (dfld d 13 1 % 16) 1) ∧
    (∀ e, standsAt x tile 1 e → missing s x e → exec (.foldStep p h tile) s = .next
      (if (teRanks e).any (fun q => s.peerGoneFor p ((x.members.getD q 0).toNat % 2 ^ 12)) then s.failPlan p h 5 else s)) ∧
    -- arrivals: data is taken, or held for a later round, and its sender is told; a freed plan refuses it, and so does a member that may not take it
    (∀ peer rpart tag addr data, let arrive : Instr := .contributionArrival p ⟨peer, rpart⟩ tag x.planId addr data
      let final : Instr := .tileFinal p ⟨peer, rpart⟩ tag ⟨x.planId, tile⟩ addr data
      s.planById p x.planId = some x → s.blocked x false addr data.length = false → s.blocked x true addr data.length = false →
      (∀ a l u, s.symReady p = some a → s.symRange p a .store addr data.length peer rpart expW = (.ok l, u) → u.plans = s.plans →
        let pa := (l.headD (0, 0)).1
        let w := u.writePieces l data
        (pa ∉ x.arrived → ∃ v t, exec arrive s = .next t ∧ sends v t (.planAnswer peer tag 0) ∧ v = { w with plans := v.plans } ∧
          planBecomes s v p h (fun y => if u.foldReads x pa then { y with arrived := y.arrived ++ [pa] } else y)) ∧
        (pa ∈ x.arrived → ∃ v t, exec arrive s = .next t ∧ sends v t (.planAnswer peer tag 0) ∧ v = { u with plans := v.plans } ∧
          planBecomes s v p h (fun y => { y with heldC := y.heldC ++ [(l, data)] })) ∧
        (∃ v t, exec final s = .next t ∧ sends v t (.planAnswer peer tag 0) ∧ v.hbm = w.hbm ∧
          planBecomes s v p h (withTile tile (fun z => { z with final := true })) ∧ rises w v x.uid (dfld d 13 1 % 16) 1)) ∧
      (∀ a u, s.symReady p = some a → s.symRange p a .store addr data.length peer rpart expW = (.error .refused, u) →
        ∃ t t', exec arrive s = .next t ∧ exec final s = .next t' ∧ sends u t (.planAnswer peer tag 5) ∧ sends u t' (.planAnswer peer tag 5))) ∧
    (∀ peer rpart tag id addr data, s.planById p id = none → ∃ t t', exec (.contributionArrival p ⟨peer, rpart⟩ tag id addr data) s = .next t ∧
      exec (.tileFinal p ⟨peer, rpart⟩ tag ⟨id, tile⟩ addr data) s = .next t' ∧ sends s t (.planAnswer peer tag 6) ∧ sends s t' (.planAnswer peer tag 6)) ∧
    -- failure
    (∀ (sub : BitVec 16) u, x.part = p → x.handle = h →
      u = (List.range (pdTiles d)).foldl (fun (y : State) t => if (tileOf x t).final then y
        else match y.writeVA x.xc x.uid none (resultAt d t) ((List.range (elems d t * pdDstSize d)).map (fun j => Config.tileByte (y.fresh + t) j)) with
          | .ok _ y => y
          | _ => y) s → u.plans = s.plans → u.fresh = s.fresh →
      ∃ t, exec (.planFailure p h sub) s = .next t ∧ t = { u with plans := t.plans, fresh := s.fresh + pdTiles d } ∧
        planBecomes s t p h (fun y => { y with
          failed := some sub, tiles := y.tiles.map (fun q => (q.1, { q.2 with running := false, flag := false })) }))

/-- R78, R87-R92, R194-R198: signatures, the requests of peers at this member and the sharded requests are answered as their rules say. -/
def Obligations.MembersAndOwnersAnswer : Prop :=
  ∀ (s : State) (p peer rpart tag : Nat) (addr : Word),
    -- PLAN_SIGNATURE
    (∀ id rank sig slots reserved, ∃ t, exec (.planSignature p ⟨peer, rpart⟩ id rank sig ⟨slots, reserved⟩) s = .next t ∧
      (s.peer.isSome = true → (s.symReady p).isSome = true → t = { s with sigs := t.sigs } ∧
        t.sigs = s.sigs.filter (fun g => !(g.part == p && g.planId == id && g.rank == rank)) ++ [⟨p, id, rank, sig, slots, reserved⟩]) ∧
      (s.peer = none ∨ s.symReady p = none → sends s t (.planAbort peer rpart id 5))) ∧
    -- MEMBER_READ and MSTB_ARRIVAL
    (s.peer = none ∨ s.symReady p = none → ∀ n data tle tl m,
      (∃ t, exec (.memberRead p peer rpart tag addr n) s = .next t ∧ sends s t (.peerReply peer tag .unreachable [])) ∧
      (∃ t, exec (.mstbArrival p peer rpart tag addr data tle tl m) s = .next t ∧ sends s t (.peerReply peer tag .unreachable []))) ∧
    (∀ a n l u, s.peer.isSome = true → s.symReady p = some a →
      (s.symRange p a .load addr n peer rpart expR = (.ok l, u) → ∃ t, exec (.memberRead p peer rpart tag addr n) s = .next t ∧
        sends u t (.peerReply peer tag .ok (l.flatMap (fun c => (List.range c.2).map (fun j => KMap.get 0 u.hbm (c.1 + j)))))) ∧
      (s.symRange p a .load addr n peer rpart expR = (.error .refused, u) →
        ∃ t, exec (.memberRead p peer rpart tag addr n) s = .next t ∧ sends u t (.peerReply peer tag .refused []))) ∧
    (∀ a data l u m, s.peer.isSome = true → s.symReady p = some a → s.symRange p a .store addr data.length peer rpart expW = (.ok l, u) →
      let w := u.writePieces l data
      (∀ tl, ∃ t, exec (.mstbArrival p peer rpart tag addr data false tl m) s = .next t ∧ acked w t (w.symLines p addr data.length) peer tag) ∧
      (∀ tl k, tl < 16 → w.memberUnit p a m = some (some k) → ∃ v t, exec (.mstbArrival p peer rpart tag addr data true tl m) s = .next t ∧
        acked v t (v.symLines p addr data.length) peer tag ∧ v.hbm = w.hbm ∧ rises w v k tl 1) ∧
      (∀ tl, tl < 16 → w.memberUnit p a m = none → (w.partOf p).held.length < 256 →
        ∃ v t, exec (.mstbArrival p peer rpart tag addr data true tl m) s = .next t ∧ acked v t (v.symLines p addr data.length) peer tag ∧
          (v.partOf p).held = (w.partOf p).held ++ [(a, m, tl, true)])) ∧
    -- SHGEN_INSTALL
    (∀ h desc, s.peer.isSome = true → (∀ a, s.symReady p = some a → ∀ x, s.shDesc p a h = some x → (∀ y ∈ s.shardHeld, y.part ≠ p) →
        let newer := (dfld desc 6 2 + 2 ^ 16 - dfld x 6 2) % 2 ^ 16
        if 1 ≤ newer ∧ newer ≤ 32767 then ∃ w t, exec (.shgenInstall p h desc peer tag) s = .next t ∧ sends w t (.shgenAnswer peer tag 0) ∧
            holds s.hbm w.hbm (s.shAddr p a h) 64 desc.toNat ∧ KMap.get 0 w.shards (shKey p a h) = desc
        else ∃ t, exec (.shgenInstall p h desc peer tag) s = .next t ∧ sends s t (.shgenAnswer peer tag 0)) ∧
      ((∀ y ∈ s.shardHeld, y.part ≠ p) → s.symReady p = none → ∃ t, exec (.shgenInstall p h desc peer tag) s = .next t ∧ sends s t (.shgenAnswer peer tag 1))) ∧
    -- SHARD_REQUEST
    (∀ q : ShardReq, (s.peer = none ∨ s.symReady p = none → ∃ t, exec (.shardRequest p q) s = .next t ∧ sends s t (.shardAnswer q.peer q.tag 2 [] 0)) ∧
      (∀ a, s.peer.isSome = true → s.symReady p = some a → let v := s.cacheDir p a
        (v.shDesc p a q.handle = none → ∃ t, exec (.shardRequest p q) s = .next t ∧ sends v t (.shardAnswer q.peer q.tag 1 [] 0)) ∧
        (∀ d, v.shDesc p a q.handle = some d →
          let ahead := (q.gen.toNat + 2 ^ 16 - dfld d 6 2) % 2 ^ 16
          (1 ≤ ahead → ahead ≤ 32767 → exec (.shardRequest p q) s = .next { v with shardHeld := v.shardHeld ++ [⟨p, q, v.tim⟩] }) ∧
          (32767 < ahead → ∃ t, exec (.shardRequest p q) s = .next t ∧ sends v t (.shardAnswer q.peer q.tag 3 [] d)) ∧
          (∀ l u, ahead = 0 → sdValid d = true → v.shardPas p a d q = (.ok l, u) →
            (q.write = false → ∃ t, exec (.shardRequest p q) s = .next t ∧ sends u t (.shardAnswer q.peer q.tag 0
              (l.map (fun it => (it.1, (List.range (sdSize d)).map (fun j => KMap.get 0 u.hbm (it.2.1 + j))))) 0)) ∧
            (q.write = true → ∃ t, exec (.shardRequest p q) s = .next t ∧
              sends (l.foldl (fun y it => y.hbmStore it.2.1 (it.2.2.take (sdSize d))) u) t (.shardAnswer q.peer q.tag 0 [] 0)))))) ∧
    -- SHARD_STALE_REPLAY and SHARD_HOLD_TIMEOUT
    (∀ desc, ∃ t, exec (.shardStaleReplay tag desc) s = .next t ∧ t = { s with shardOut := t.shardOut } ∧
      t.shardOut = s.shardOut.map (fun o => if o.tag = tag ∧ o.status = none then { o with status := some 3, desc := desc, got := [] } else o)) ∧
    (∀ h : HeldShard, s.shardHeld.find? (fun y => y.part == p && y.req.tag == tag) = some h →
      (s.tim.toNat - h.since.toNat < 100000 → exec (.shardHoldTimeout p tag) s = .next s) ∧
      (100000 ≤ s.tim.toNat - h.since.toNat → s.peer ≠ some h.req.peer → ∃ u t d, exec (.shardHoldTimeout p tag) s = .next t ∧
        u = { s with shardHeld := s.shardHeld.filter (fun y => !(y.part == p && y.req.tag == tag && y.req.peer == h.req.peer)) } ∧
        sends u t (.shardAnswer h.req.peer tag 3 [] d) ∧ (∀ a x, s.symReady p = some a → s.shDesc p a h.req.handle = some x → d = x)))

/-! ### Faults that come later, records, blocks and barriers (R107, R147, R160, R172, R217, R257, R286, R311, R315, R365, R366, R426) -/

namespace Sys2Proof.Claims

/-- A reeve of a unit that may be interrupted at an instruction boundary: it runs a task and waits for no reply. -/
def interruptible (s : State) (uid r : Nat) : Prop :=
  let u := s.unitOf uid
  u.live = true ∧ u.place = .running ∧ r < u.rv ∧ (u.reeveOf r).started = true ∧ (u.reeveOf r).ended = false ∧ s.reqOut uid r = false
/-- A faulted engine command's trap with what its record names: `%rowp` for a matrix entry, progress and descriptor for a wain command (R314). -/
def engineFault (s : State) (uid r : Nat) (f : TrapInfo) (iaddr : Word) : Prop :=
  (∃ e t, (s.unitOf uid).mq.find? (fun e => e.reeve == r) = some e ∧ e.fault = some t ∧ e.reported = false ∧ iaddr = e.iaddr ∧
    f = { t with info0 := ((s.unitOf uid).reeveOf r).rowp, info1 := 0 }) ∨
  ((∀ e, (s.unitOf uid).mq.find? (fun e => e.reeve == r) = some e → e.fault = none) ∧ ∃ w t,
    s.cores.findSome? (fun c => c.2.wq.find? (fun w => w.uid == uid && w.reeve == r && !w.reported && w.fault.isSome)) = some w ∧ w.fault = some t ∧
    iaddr = w.iaddr ∧
    f = { t with info0 := BitVec.ofNat 64 w.done, info1 := w.descVA })
/-- The loop of bytes that a record occupies: its number and then its fields (R314). -/
def recordBytes (m : Memory) (a q : Nat) (f : FaultRec) : Prop :=
  ∀ j, j < 64 → KMap.get 0 m (a + j) = if j < 8 then byteOf q j else byteOf f.body.toNat j
end Sys2Proof.Claims

/-- R257, R286, R310, R311, R315, R147: a faulted engine command traps its reeve at its next boundary, AS_INTR reaches one task, a record is written when
there is room, and an exhausted budget parks the unit. -/
def Obligations.DeferredFaultsRecordsAndBudgets : Prop :=
  ∀ (s : State) (uid r p : Nat),
    let u := s.unitOf uid
    let x := u.reeveOf r
    -- DEFERRED_FAULT
    (∀ f iaddr, interruptible s uid r → x.inHandler = false → u.initial = false → x.mode = .task → engineFault s uid r f iaddr → noRecord f = false →
      trapCode f ≠ 0x0E → trapCode f ≠ 0x12 →
      (enabled f x.mask = true → ∃ t y, exec (.deferredFault uid r) s = .next t ∧
        (t.unitOf uid).reeveOf r = inHandlerAt x (s.partOf u.part).tvec x.pc (causeOf f 0 none) f.tval ∧
        (t.partOf u.part).faults = (s.partOf u.part).faults ++ [y] ∧ recordIs y 64 f (u.idx * u.rv + r) u.passId iaddr 0 ∧ t.hbm = s.hbm ∧
        (t.unitOf uid).sheaves = u.sheaves) ∧
      (enabled f x.mask = false → r < 2 → rising s.units → ∃ t l y, exec (.deferredFault uid r) s = .next t ∧ (t.unitOf uid).place = .faulted ∧
        ((t.unitOf uid).reeveOf r).pc = x.pc ∧ (t.partOf u.part).faults = (s.partOf u.part).faults ++ l ++ [y] ∧
        recordIs y 65 f (u.idx * u.rv + r) u.passId iaddr (BitVec.ofNat 64 u.ctxPA))) ∧
    -- AS_INTR
    (rising s.units → s.intrDue p = some (uid, r) → let q := (s.partOf p).faultSeq
      interruptible s uid r ∧ x.mode = .task ∧ x.mask.getLsbD 0x21 = true ∧ u.part = p ∧ (s.partOf p).signalled < q ∧
      ∃ t, exec (.asIntr p) s = .next t ∧
        (t.unitOf uid).reeveOf r = inHandlerAt x (s.partOf p).tvec x.pc 0x21 (BitVec.ofNat 64 q) ∧ (t.partOf p).signalled = q ∧
        (t.partOf p).faults = (s.partOf p).faults ∧ t.hbm = s.hbm) ∧
    -- FAULT_RECORD
    (∀ f rest, (s.partOf p).faults = f :: rest →
      let q := (s.partOf p).faultSeq + 1
      let a := (s.partOf p).reserveBase + 64 * ((q - 1) % 4096)
      let consumed := littleEndian (fun j => KMap.get 0 s.hbm ((s.partOf p).reserveBase + 2 ^ 18 + j)) 8
      (q ≤ consumed + 4096 → ∃ t, exec (.faultRecord p) s = .next t ∧ recordBytes t.hbm a q f ∧
        (∀ b, (b < a ∨ a + 64 ≤ b) → KMap.get 0 t.hbm b = KMap.get 0 s.hbm b) ∧ (t.partOf p).faults = rest ∧ (t.partOf p).faultSeq = q ∧
        (f.parks = true → f.reeve = 0 → (t.unitOf f.uid).seq0 = q) ∧
        (∀ y, f.passId ≠ 0 → s.passAt p (passSeq f.passId) = some y → ∃ z, t.passAt p (passSeq f.passId) = some z ∧
          z.nflt = min (y.nflt + 1) 255)) ∧
      (consumed + 4096 < q → exec (.faultRecord p) s = .next s)) ∧
    -- BUDGET_OVERRUN
    (interruptible s uid r → r < 2 → rising s.units → u.initial = false → x.mode = .task → x.budget = 0 → ∃ t l y, exec (.budgetOverrun uid r) s = .next t ∧
      (t.unitOf uid).place = .faulted ∧ (if r = 0 then (t.unitOf uid).cause0 else (t.unitOf uid).cause1) = 0x10 ∧
      (t.partOf u.part).faults = (s.partOf u.part).faults ++ l ++ [y] ∧
      recordIs y 1 (tr 0x10 0 0) (u.idx * u.rv + r) u.passId 0 (BitVec.ofNat 64 u.ctxPA))

namespace Sys2Proof.Claims
/-- The tasks of a pass with their units and reeves, as (unit, reeve). -/
def ofPass (s : State) (p : Nat) (id : Word) (uid r : Nat) : Prop :=
  ∃ u, (uid, u) ∈ s.units ∧ u.live = true ∧ u.part = p ∧ u.passId = id ∧ u.initial = false ∧ r < u.rv
/-- The pending episode of a pass is complete: every task has arrived at it or ended, and one has not ended (R365). -/
def episodeFull (s : State) (p : Nat) (x : Pass) : Prop :=
  x.st.over = false ∧ (∃ uid r, ofPass s p (passIdOf p x.seq) uid r ∧ ((s.unitOf uid).reeveOf r).ended = false) ∧
  ∀ uid r, ofPass s p (passIdOf p x.seq) uid r → ((s.unitOf uid).reeveOf r).ended = true ∨ x.episode < ((s.unitOf uid).reeveOf r).arrivals
/-- The episode merges logs: a sealed pass with a `bar.seal` among its arrivals (R217). -/
def merging (s : State) (p : Nat) (x : Pass) : Prop :=
  (dfld x.lrec 8 2).testBit 0 = true ∧ ∃ uid r, ofPass s p (passIdOf p x.seq) uid r ∧ ((s.unitOf uid).reeveOf r).barAt = some (x.episode + 1) ∧
    ((s.unitOf uid).reeveOf r).barSealed = true
/-- The pass with its episode counted; a merge is the new merge point of its SEALED pages (R215). -/
def episodeOver (t : State) (p : Nat) (x : Pass) (merged : Bool) : Prop :=
  ∃ y, t.passAt p x.seq = some y ∧ y = { x with episode := x.episode + 1, snap := if merged then [] else x.snap }
/-- The address of a byte in a task's log, and its value. -/
def logHolds (l : List LogEntry) (a : Nat) (b : Byte) : Prop :=
  ∃ e ∈ l, ∃ j, j < 64 ∧ e.mask.getLsbD j = true ∧ a = e.addr + j ∧ b = BitVec.ofNat 8 (e.data.toNat / 2 ^ (8 * j))
/-- From `s` to `t` the logs of a pass merged (R217): each is empty, a byte that none held is as it was, and where no two logs share a byte each byte
held stands in memory. -/
def logsMerged (s t : State) (p : Nat) (id : Word) : Prop :=
  (∀ w q, ofPass s p id w q → ((t.unitOf w).reeveOf q).log = []) ∧
  (∀ a, (∀ w q b, ofPass s p id w q → ¬logHolds ((s.unitOf w).reeveOf q).log a b) → KMap.get 0 t.hbm a = KMap.get 0 s.hbm a) ∧
  ((s.units.any (fun y => y.2.recorded)) = false →
    (∀ w q w' q', ofPass s p id w q → ofPass s p id w' q' → (s.unitOf w).taskId q = (s.unitOf w').taskId q' → w = w' ∧ q = q') →
    (∀ w q, ofPass s p id w q → let l := ((s.unitOf w).reeveOf q).log
      (l.map (fun e => e.addr)).Pairwise (· ≠ ·) ∧ ∀ e ∈ l, e.addr % 64 = 0) →
    ∀ w q a b, ofPass s p id w q → logHolds ((s.unitOf w).reeveOf q).log a b → KMap.get 0 t.hbm a = b)
end Sys2Proof.Claims

/-- R160, R172, R217, R365, R366, R426: an idle sheaf takes its next block and arguments, an episode of a pass or of sheaves completes when all have
arrived, sealed logs merge without conflict, counters advance from outside and a WFE's limit ends it. -/
def Obligations.BlocksEpisodesAndAdvances : Prop :=
  ∀ (s : State) (uid k r : Nat),
    let u := s.unitOf uid
    -- BLOCK_FETCH
    (∀ e rest, u.live = true → u.place = .running → k < u.nSheaves → (u.sheafOf k).busy = false → (u.sheafOf k).stopped = false →
      (u.sheafOf k).queue = e :: rest →
      let v : State := { s.modUnit uid (fun u => u.captureVt k) with uid := uid, who := .sheaf k, eng := none }
      (∀ l w, v.fetchBlock e.addr 512 e.addr [] = .ok l w → (w.unitOf uid).sheaves = u.sheaves →
        l ≠ [] ∧ l.length ≤ 512 ∧ decode (l.getLastD 0) = some .vend ∧ (∀ j, j + 1 < l.length → decode (l.getD j 0) ≠ some .vend) ∧
        ∃ t, exec (.blockFetch uid k) s = .next t ∧ let y := (t.unitOf uid).sheafOf k
          y.busy = true ∧ y.block = l ∧ y.pc = e.addr ∧ y.blockAddr = e.addr ∧ y.queue = rest ∧ y.blockSeq = e.seq ∧
          (∀ j, KMap.get 0 y.h j = if j < e.args.length then e.args.getD j 0 else KMap.get 0 (u.sheafOf k).h j) ∧
          y.v = (u.sheafOf k).v ∧ y.m = (u.sheafOf k).m ∧ y.vl = (u.sheafOf k).vl ∧ y.vt = (u.sheafOf k).vt ∧
          (∀ j, j ≠ k → (t.unitOf uid).sheafOf j = u.sheafOf j)) ∧
      (∀ f w, v.fetchBlock e.addr 512 e.addr [] = .trap f w → exec (.blockFetch uid k) s = .next ((w.takeTrapAt f e.addr).back s))) ∧
    -- BAR_EPISODE
    (∀ (id : Word) x, rising s.units → s.passAt (passPart id) (passSeq id) = some x → passIdOf (passPart id) x.seq = id → episodeFull s (passPart id) x →
      (¬merging s (passPart id) x → ∃ t, exec (.barEpisode id) s = .next t ∧ episodeOver t (passPart id) x false ∧ t = { s with parts := t.parts }) ∧
      (merging s (passPart id) x → s.sealConflict (s.tasksOf (passPart id) id) = none → ∃ t, exec (.barEpisode id) s = .next t ∧
        episodeOver t (passPart id) x true ∧ logsMerged s t (passPart id) id)) ∧
    -- VBARS_EPISODE
    (∀ (m : BitVec 8) n, u.vbarsDue m.toNat = some n → ∃ t, exec (.vbarsEpisode uid m) s = .next t ∧ n ≠ 0 ∧
      (∀ j, j < 8 → m.getLsbD j = true → n ≤ KMap.get 0 (u.sheafOf j).arrivals m.toNat) ∧
      (∀ j, j < 8 → (t.unitOf uid).sheafOf j = if (u.sheafOf j).vbarsAt = some (m.toNat, n) then { u.sheafOf j with vbarsAt := some (m.toNat, 0) }
        else u.sheafOf j)) ∧
    -- TIMELINE_ADVANCE and WFE_TIMEOUT
    (∀ n (a : Word), u.live = true → n < 16 → ∃ t, exec (.timelineAdvance uid n a) s = .next t ∧ rises s t uid n a.toNat ∧ t.hbm = s.hbm ∧
      (∀ j, j ≠ n → KMap.get 0 (t.unitOf uid).tl j = KMap.get 0 u.tl j) ∧ (a ≠ 0 → ((t.unitOf uid).reeveOf 0).latch = true)) ∧
    ((u.reeveOf r).wait = some .wfe → (u.reeveOf r).wfeLeft = some 0 →
      exec (.wfeTimeout uid r) s = .next (s.modUnit uid (fun u => u.modReeve r (fun x => { x with wait := none }))))

/-! ### Requests of peers, threshers, replies (R55-R58, R61, R65-R73, R280, R318) -/

namespace Sys2Proof.Claims

/-- The permission an operation needs: read 0, write 1, atomic 2 (R57). -/
def needs : PeerOp → Nat
  | .load _ => 0
  | .store _ => 1
  | _ => 2
/-- The atomic at the head of a thresher's queue: its answer's place, address, bytes, and the new value for an old one; none stores nothing. -/
def atomicOf : ThCmd → Option (Nat × Nat × Nat × Nat × Nat × (Nat → Option Nat) × Option (Nat × Nat))
  | .amo uid agent elem pa op t v peer => some (uid, agent, elem, pa, bytesOf t, fun old => some (amoRule op t old (v.toNat % 2 ^ tyWidth t)), peer)
  | .cas uid agent elem pa t e v peer =>
    some (uid, agent, elem, pa, bytesOf t, fun old => if old = e.toNat % 2 ^ tyWidth t then some (v.toNat % 2 ^ tyWidth t) else none, peer)
  | .merge .. => none
/-- The 64-byte lines of `n` bytes at an address. -/
def linesAt (pa n : Nat) : List Nat := (List.range ((pa % 64 + n + 63) / 64)).map (pa / 64 + ·)
/-- From `u` to `t`, an answer was given: in the pending entry of the agent that waits, or to the peer that asked, once no earlier reply for the
lines is on its way (R67). -/
def answered (u t : State) (lines : List Nat) (uid agent key : Nat) (tagged : Bool) (peer : Option (Nat × Nat)) (r : ReplyStatus × List Byte) : Prop :=
  match peer with
  | some (p, tag) =>
    t = { u with sent := t.sent, ports := t.ports, heldReplies := t.heldReplies } ∧
    (u.heldReplies = [] → u.repliesOut lines = [] → sends u t (.peerReply p tag r.1 r.2)) ∧
    (u.repliesOut lines ≠ [] → ∃ h ∈ t.heldReplies, h.msg = .peerReply p tag r.1 r.2 ∧ h.lines = lines ∧ h.peer = p ∧ h.tag = tag)
  | none => t = u.modUnit uid (fun x => { x with replies := x.replies.map (fun p =>
      if p.agent = agent ∧ (if tagged then p.tag else p.elem) = key ∧ p.reply = none then { p with reply := some r } else p) })
end Sys2Proof.Claims

/-- R55-R58, R69, R73, R280: a peer's request is admitted by the export table or refused; a load or store is performed at once, an atomic or merge joins
the queue of its stack; a thresher performs the oldest command of its queue whole and answers it. -/
def Sys2Proof.Claims.homesAndThreshersPerformRequests : Prop :=
  ∀ (s : State) (q : PeerReq) (k : Nat),
    -- HOME_REQUEST
    (s.peer = none → ∃ t, exec (.homeRequest q) s = .next t ∧ sends s t (.peerReply q.peer q.tag .refused [])) ∧
    (s.peer.isSome = true → let pas := match q.op with | .merge _ l => l | _ => [q.addr]
      let a := s.admitAll q.peer q.part (needs q.op) pas
      (a.1 = false → ∃ t, exec (.homeRequest q) s = .next t ∧ sends a.2 t (.peerReply q.peer q.tag .refused [])) ∧
      (a.1 = true → (∀ pa ∈ pas, KMap.get false a.2.hbmRetired (pa / 4096) = false) →
        (∀ n, q.op = .load n → a.2.hbmBad q.addr n = false → ∃ t, exec (.homeRequest q) s = .next t ∧
          sends a.2 t (.peerReply q.peer q.tag .ok ((List.range n).map (fun j => KMap.get 0 a.2.hbm (q.addr + j))))) ∧
        (∀ n, q.op = .load n → a.2.hbmBad q.addr n = true → ∃ t, exec (.homeRequest q) s = .next t ∧ sends a.2 t (.peerReply q.peer q.tag .poison [])) ∧
        (∀ d, q.op = .store d → (a.2.units.any (fun x => x.2.recorded)) = false → ∃ u t, exec (.homeRequest q) s = .next t ∧
          acked u t (linesAt q.addr d.length) q.peer q.tag ∧ u = { a.2 with hbm := u.hbm, hbmPoison := u.hbmPoison } ∧ holds a.2.hbm u.hbm q.addr d.length (leVal d)) ∧
        (∀ c, (∀ op t v, q.op = .amo op t v → c = .amo 0 0 0 q.addr op t v (some (q.peer, q.tag))) →
          (∀ t e v, q.op = .cas t e v → c = .cas 0 0 0 q.addr t e v (some (q.peer, q.tag))) → (∃ op t v, q.op = .amo op t v) ∨ (∃ t e v, q.op = .cas t e v) →
          a.2.queueFull q.addr = false → ∃ t, exec (.homeRequest q) s = .next t ∧ t = { a.2 with thresher := t.thresher } ∧
            ∀ j, KMap.get [] t.thresher j = if j = stackOf q.addr then KMap.get [] a.2.thresher j ++ [c] else KMap.get [] a.2.thresher j) ∧
        ((∀ n, q.op ≠ .load n) → (∀ d, q.op ≠ .store d) → a.2.queueFull q.addr = true → exec (.homeRequest q) s = .next s) ∧
        (∀ i l, q.op = .merge i l → a.2.queueFull q.addr = false → ∃ t, exec (.homeRequest q) s = .next t ∧ t = { a.2 with thresher := t.thresher } ∧
          let k := stackOf (l.headD 0)
          KMap.get [] t.thresher k = KMap.get [] a.2.thresher k ++ [.merge 0 0 0 l (BitVec.ofNat 33280 (leVal i)) (some (q.peer, q.tag))]))) ∧
    -- THRESHER_ATOMIC
    (∀ c rest uid agent elem pa n f peer, KMap.get [] s.thresher k = c :: rest → atomicOf c = some (uid, agent, elem, pa, n, f, peer) →
      (s.units.any (fun x => x.2.recorded)) = false →
      let popped : State := { s with thresher := KMap.set [] s.thresher k rest }
      let old := littleEndian (fun j => KMap.get 0 s.hbm (pa + j)) n
      (s.hbmBad pa n = true → ∃ t, exec (.thresherAtomic k) s = .next t ∧ answered popped t [pa / 64] uid agent elem false peer (.poison, [])) ∧
      (s.hbmBad pa n = false → ∃ u t, exec (.thresherAtomic k) s = .next t ∧ answered u t [pa / 64] uid agent elem false peer (.ok, (List.range n).map (byteOf old)) ∧
        u = { popped with hbm := u.hbm } ∧
        (match f old with | some v => holds s.hbm u.hbm pa n v | none => u.hbm = s.hbm))) ∧
    -- THRESHER_MERGE
    (∀ uid agent tag lines image peer rest, KMap.get [] s.thresher k = .merge uid agent tag lines image peer :: rest →
      (s.units.any (fun x => x.2.recorded)) = false → (∀ pa ∈ lines, s.hbmBad pa 64 = false) → lines.length = 65 →
      lines.Pairwise (fun a b => a + 64 ≤ b ∨ b + 64 ≤ a) →
      let popped : State := { s with thresher := KMap.set [] s.thresher k rest }
      let m : SxImage := BitVec.ofNat 33280 (leVal (lines.flatMap (fun pa => (List.range 64).map (fun j => KMap.get 0 s.hbm (pa + j)))))
      ((sxHeaderOk m = false ∨ sxMerge m image = none) →
        ∃ t, exec (.thresherMerge k) s = .next t ∧ answered popped t (lines.map (· / 64)) uid agent tag true peer (.ok, [1, 0])) ∧
      (∀ x sat, sxHeaderOk m = true → sxMerge m image = some (x, sat) → ∃ u t, exec (.thresherMerge k) s = .next t ∧
        answered u t (lines.map (· / 64)) uid agent tag true peer (.ok, [0, if sat then 1 else 0]) ∧
        u = { popped with hbm := u.hbm, hbmPoison := u.hbmPoison } ∧ (∀ k, KMap.get false u.hbmPoison k = KMap.get false s.hbmPoison k) ∧
        (∀ i j, i < 65 → j < 64 → KMap.get 0 u.hbm (lines.getD i 0 + j) = byteOf x.toNat (64 * i + j)) ∧
        (∀ a, (∀ pa ∈ lines, a < pa ∨ pa + 64 ≤ a) → KMap.get 0 u.hbm a = KMap.get 0 s.hbm a)))

namespace Sys2Proof.Claims
/-- No unit whose context record is written lists a reply with a tag. -/
def unrecorded (s : State) (tag : Nat) : Prop := ∀ u ∈ s.units, u.2.ctxCheck ≠ [] → ∀ p ∈ u.2.replies, p.tag ≠ tag
/-- A plan's store with a tag is no longer awaited by its pass once it is visible or has failed (R108). -/
def sendsLeft (s t : State) (tag : Nat) (over' : Bool) : Prop :=
  ∀ p n, t.passAt p n = (s.passAt p n).map (fun x => if over' then { x with sends := x.sends.filter (fun y => y.1 != tag) } else x)
end Sys2Proof.Claims

/-- R61, R65-R71, R209, R318: replies land in their pending entries, acknowledgements and failures settle remote stores, and a fill serves its loads and
is installed unless an acquire came after its request. -/
def Sys2Proof.Claims.repliesSettleRequests : Prop :=
  ∀ (s : State) (tag : Nat) (st : ReplyStatus) (data : List Byte), rising s.units →
    -- REMOTE_REPLY; a reply to an atomic invalidates the die's copy of its line again (R60), and a record that lists it follows it (R319)
    ((∀ f ∈ s.fills, f.tag ≠ tag) → ∃ t, exec (.remoteReply tag st data) s = .next t ∧
      (∀ u, (s.unitOf u).live = true → (t.unitOf u).replies = (s.unitOf u).replies.map (fun p =>
        if p.tag = tag ∧ p.reply = none then { p with reply := some (st, data) } else p)) ∧
      (∀ o ∈ s.shardOut, o.tag = tag → o.status = none → ∃ x ∈ t.shardOut, x.tag = tag ∧ x.items = o.items ∧
        x.status = some (match st with | .ok => 0 | .refused => 1 | .unreachable => 2 | .poison => 4)) ∧
      (unrecorded s tag → t = { s with units := t.units, shardOut := t.shardOut, fabric := t.fabric, fills := t.fills } ∧
        (∀ u, (s.unitOf u).live = true → t.unitOf u = { s.unitOf u with replies := (t.unitOf u).replies }) ∧
        ((∀ u ∈ s.units, ∀ p ∈ u.2.replies, p.tag = tag → p.drops = none) → t.fabric = s.fabric ∧ t.fills = s.fills))) ∧
    -- REMOTE_ACK
    (s.tileOfTag tag = none → ∀ vis, ∃ t, exec (.remoteAck tag vis) s = .next t ∧ t = { s with units := t.units, parts := t.parts } ∧ sendsLeft s t tag vis ∧
      ∀ u r, (s.unitOf u).live = true → ((t.unitOf u).reeveOf r).stores =
        if vis then ((s.unitOf u).reeveOf r).stores.filter (fun x => x.tag != tag)
        else ((s.unitOf u).reeveOf r).stores.map (fun x => if x.tag = tag then { x with accepted := true } else x)) ∧
    (∀ p n vis, s.tileOfTag tag = some (p, n) → livePlan s p.part p.handle p → ∃ t y, exec (.remoteAck tag vis) s = .next t ∧
      t = { s with plans := t.plans, parts := t.parts } ∧ sendsLeft s t tag vis ∧
      t.plans.find? (fun x => x.part == p.part && x.handle == p.handle) = some y ∧ tag ∉ (tileOf y n).unacked ∧
      ((tileOf p n).issued = true → (tileOf p n).running = true → (∀ a ∈ (tileOf p n).unacked, a = tag) → (tileOf y n).entry = (tileOf p n).entry + 1)) ∧
    -- REMOTE_STORE_FAILURE: a task keeps its oldest failed store (R71)
    (∀ uid r x, s.tileOfTag tag = none → s.storeOfTag tag = some (uid, r, x) → (s.unitOf uid).live = true → rising (s.unitOf uid).reeves →
      ∃ t, exec (.remoteStoreFailure tag st) s = .next t ∧ t = { s with units := t.units, parts := t.parts } ∧ sendsLeft s t tag true ∧
      ((t.unitOf uid).reeveOf r).fail = (let now := some ⟨tag, if st = .unreachable ∨ st = .poison then 0x13 else 0x07, x.addr, x.peer⟩
        match ((s.unitOf uid).reeveOf r).fail with
        | some f => if f.tag ≤ tag then some f else now
        | none => now) ∧
      ∀ y ∈ ((t.unitOf uid).reeveOf r).stores, y.tag ≠ tag) ∧
    (∀ p n, s.tileOfTag tag = some (p, n) → ∃ v, v = { s with parts := v.parts } ∧ sendsLeft s v tag true ∧
      exec (.remoteStoreFailure tag st) s = .next (v.failPlan p.part p.handle 5)) ∧
    -- FABRIC_FILL
    (∀ f, s.fills.find? (fun f => f.tag == tag) = some f → ∃ t, exec (.fabricFill tag st data) s = .next t ∧
      (unrecorded s tag → t = { s with units := t.units, fills := t.fills, fabric := t.fabric }) ∧ t.fills = s.fills.filter (fun g => g.tag != tag) ∧
      (∀ u p, (s.unitOf u).live = true → p ∈ (s.unitOf u).replies → p.tag = tag → p.reply = none → ∀ o n,
        f.waiters.find? (fun w => w.1 == u && w.2.1 == p.agent && w.2.2.1 == p.elem) = some (u, p.agent, p.elem, o, n) →
        { p with reply := some (st, if st = .ok then (data.drop o).take n else []) } ∈ (t.unitOf u).replies) ∧
      let others := s.fabric.filter (fun x => !(x.die == f.die && x.part == f.part && x.asid == f.asid && x.va == f.va))
      let line : FcLine := ⟨f.die, f.part, f.asid, f.va, BitVec.ofNat 512 (leVal (data.take 64))⟩
      (¬(st = .ok ∧ f.noInstall = false) → t.fabric = s.fabric) ∧
      (st = .ok → f.noInstall = false →
        ((others.filter (fun x => x.die == f.die)).length < 131072 → t.fabric = line :: others) ∧
        -- at 8 MiB a line of the die gives way: the oldest, by the model's choice (log entry 28)
        (131072 ≤ (others.filter (fun x => x.die == f.die)).length → ∃ x ∈ others, x.die = f.die ∧ t.fabric = line :: others.erase x)))

/-- R55-R58, R61, R65-R73, R209, R280, R318: homes and threshers perform peers' requests, and replies settle this package's own. Local accesses are
performed at once (log entry 8). -/
def Obligations.RequestsArePerformedAndSettled : Prop :=
  Claims.homesAndThreshersPerformRequests ∧ Claims.repliesSettleRequests

/-! ### Launches and passes (R17, R92, R100-R109, R132-R141, R143, R144) -/

namespace Sys2Proof.Claims

/-- A launch record that breaks a rule of R102, or names another enclave than its partition's (R103). -/
def recordBroken (d : Desc) (enclave : Nat) : Prop :=
  dfld d 0 4 ≠ 0 ∨ 2048 ≤ dfld d 6 2 ∨ 8 ≤ dfld d 8 2 ∨ 8 ≤ dfld d 10 1 ∨ dfld d 11 1 ∉ [0, 1, 2, 4, 8] ∨ 2 < dfld d 12 1 ∨ 8 < dfld d 13 1 ∨
  64 < dfld d 14 1 ∨ 8 < dfld d 15 1 ∨ dfld d 56 8 % 64 ≠ 0 ∨ dfld d 40 8 % 32 ≠ 0 ∨ (dfld d 8 2 % 2 = 0 ∧ dfld d 16 4 ≠ 0) ∨ dfld d 28 2 ≠ enclave
/-- A byte of the launch record, or the image header's where it is 0 (R133). -/
def either (d h : Desc) (a b : Nat) : Nat := if dfld d a 1 = 0 then dfld h b 1 else dfld d a 1
/-- WLOG of a launch: 0 unless sealed, and the image's where the record's is 0 (R133). -/
def wlogOf (d h : Desc) : Nat := if dfld d 8 2 % 2 = 0 then 0 else if dfld d 16 4 = 0 then dfld h 28 4 else dfld d 16 4
/-- An image header that keeps R132, with a grid that keeps R17 and R133. -/
def imageGood (d h : Desc) : Prop :=
  dfld h 0 2 = 0x5A4C ∧ dfld h 2 1 = dfld d 8 2 % 2 ∧ dfld h 3 5 = 0 ∧ dfld h 23 1 = 0 ∧ dfld h 40 24 = 0 ∧
  dfld h 8 4 % 8 = 0 ∧ dfld h 12 4 % 8 = 0 ∧ dfld h 21 1 ≤ 32 ∧ dfld h 22 1 ≤ 64 ∧ dfld h 24 4 % 4096 = 0 ∧ dfld h 24 4 ≤ 2 ^ 22 ∧
  dfld h 32 4 % 8 = 0 ∧ dfld h 36 4 % 8 = 0 ∧ 1 ≤ either d h 15 16 ∧ either d h 15 16 ≤ 8 ∧ 1 ≤ either d h 14 17 ∧ either d h 14 17 ≤ 64 ∧
  either d h 15 16 * either d h 14 17 ≤ 512 ∧ 1 ≤ either d h 13 18 ∧ either d h 13 18 ≤ 8 ∧ either d h 12 19 ∈ [1, 2] ∧
  either d h 11 20 ∈ [1, 2, 4, 8] ∧ (dfld d 8 2 % 2 = 1 → wlogOf d h ≠ 0)
/-- Entry `k` of a stream table: an offset and a size of four bytes each (R132). -/
def streamAt (l : List Byte) (k : Nat) : Nat × Nat := (leVal ((l.drop (8 * k)).take 4), leVal ((l.drop (8 * k + 4)).take 4))
/-- Stream buffers that keep R132: whole lines, within the loft, apart from each other. -/
def streamsGood (loft n : Nat) (l : List Byte) : Prop :=
  ∀ k, k < n → (streamAt l k).1 % 64 = 0 ∧ (streamAt l k).2 ≠ 0 ∧ (streamAt l k).2 % 64 = 0 ∧ (streamAt l k).1 + (streamAt l k).2 ≤ loft ∧
    ∀ j, j < n → j ≠ k → (streamAt l k).1 + (streamAt l k).2 ≤ (streamAt l j).1 ∨ (streamAt l j).1 + (streamAt l j).2 ≤ (streamAt l k).1
/-- Statex declarations that keep R132 and R265: registers 0 to 31, each at most once, of legal parameters. -/
def declsGood (n : Nat) (l : List Byte) : Prop :=
  ∀ k, k < n → (l.getD (8 * k) 0).toNat < 32 ∧ (sxInit (BitVec.ofNat 64 (leVal ((l.drop (8 * k)).take 8)))).isSome = true ∧
    ∀ j, j < k → l.getD (8 * j) 0 ≠ l.getD (8 * k) 0
/-- Bytes of the reserve that a pass needs (R140). -/
def reserveOf (d h : Desc) : Nat :=
  let u := either d h 15 16 * either d h 14 17 * either d h 13 18
  u * (2 ^ 19 + dfld h 24 4) + u * either d h 12 19 * wlogOf d h * 4096
/-- The partitions are as they were, but for the directory entries that a translation cached (R176). -/
def partsKept (s t : State) : Prop := ∀ k, ∃ d, t.partOf k = { s.partOf k with dir := d }
/-- A pass that has ended (R141). -/
def passOver (x : Pass) : Prop := x.st = .done ∨ x.st = .faulted ∨ x.st = .cancelled
/-- A predecessor of the pass with sequence number `q` (R104). -/
def predecessor (s : State) (p q : Nat) (d : Desc) (y : Pass) : Prop :=
  ∃ k, k < 4 ∧ let n := dfld d (20 + 2 * k) 2
    n ≠ 0 ∧ n < q ∧ s.passAt p (q - n) = some y
/-- The bytes of a completion record (R107). -/
def completionBytes (p : Nat) (x : Pass) (cycles most : Nat) : List Byte :=
  let code := match x.st with | .done => 1 | .faulted => 2 | _ => 3
  [1, 0, code, BitVec.ofNat 8 x.reason, BitVec.ofNat 8 x.nflt, x.cause] ++ (List.range 2).map (byteOf (dfld x.lrec 4 2)) ++
  (List.range 4).map (byteOf (x.ftask.getD 0xFFFFFFFF)) ++ (List.range 4).map (byteOf (min most (2 ^ 32 - 1))) ++
  (List.range 8).map (byteOf cycles) ++ (List.range 8).map (byteOf (passIdOf p x.seq).toNat)
/-- Every task of a placed pass has ended. -/
def tasksOver (s : State) (p : Nat) (x : Pass) : Prop :=
  (x.st = .placed ∨ x.st = .running) ∧ s.unitsOf p (passIdOf p x.seq) ≠ [] ∧
  ∀ uid ∈ s.unitsOf p (passIdOf p x.seq), ∀ r, r < (s.unitOf uid).rv → ((s.unitOf uid).reeveOf r).ended = true
/-- The tasks of a pass left work behind that is not done (R371): wain commands, or rounds of its plans. -/
def workLeft (s : State) (p : Nat) (x : Pass) : Prop :=
  (∃ e ∈ s.cores, ∃ w ∈ e.2.wq, w.uid ∈ s.unitsOf p (passIdOf p x.seq)) ∨
  ∃ y ∈ s.plans, y.part = p ∧ y.passId = passIdOf p x.seq ∧ s.planRuns y = true ∧
    ∃ e ∈ y.tiles, e.2.running = true ∨ e.2.flag = true ∨ e.2.unacked ≠ []
/-- Nothing stands between an ended pass and its record: its stores are visible, its fault records are written and its wain commands are over
(R107, R108, R142). -/
def recordDue (s : State) (p : Nat) (x : Pass) : Prop :=
  x.sends = [] ∧ (∀ f ∈ (s.partOf p).faults, f.passId ≠ passIdOf p x.seq) ∧
  ∀ uid ∈ s.unitsOf p (passIdOf p x.seq), (∀ e ∈ (s.unitOf uid).reeves, e.2.stores = []) ∧
    (∀ e ∈ s.cores, ∀ w ∈ e.2.wq, w.uid = uid → w.fault ≠ none) ∧
    ∀ o ∈ s.shardOut, o.uid = uid → o.write = true → o.gone = true → o.status ≠ none
/-- Two ranges of memory of `n` and `m` bytes share no byte. -/
def apart (a n b m : Nat) : Prop := n = 0 ∨ m = 0 ∨ a + n ≤ b ∨ b + m ≤ a
/-- Places of contexts and lofts in a reserve between `lo` and `hi`: all of them apart (R140). -/
def placesGood (lo hi loft : Nat) (l : List (Nat × Nat)) : Prop :=
  ∀ i, i < l.length → let u := l.getD i (0, 0)
    lo ≤ u.1 ∧ u.1 + 2 ^ 19 ≤ hi ∧ lo ≤ u.2 ∧ (loft = 0 ∨ u.2 + loft ≤ hi) ∧ apart u.1 (2 ^ 19) u.2 loft ∧
    ∀ j, j < l.length → j ≠ i → let v := l.getD j (0, 0)
      apart u.1 (2 ^ 19) v.1 (2 ^ 19) ∧ apart u.1 (2 ^ 19) v.2 loft ∧ apart u.2 loft v.2 loft
/-- A unit's context is as its record was written, and can be read (R321, R34). -/
def contextWhole (s : State) (uid : Nat) : Prop :=
  let u := s.unitOf uid
  u.ctxBad = 0 ∧ (∀ e ∈ u.ctxCheck, KMap.get 0 s.hbm (u.ctxPA + e.1) = e.2) ∧
  (u.ctxCheck = [] ∨ ∀ a, u.ctxPA ≤ a → a < u.ctxPA + u.ctxSize → KMap.get false s.hbmPoison (a / 64) = false)
/-- The state in which task `i * Rv + r` starts (R136). -/
def startsAs (z : Reeve) (x : Pass) (i r : Nat) (mask : Word) : Prop :=
  z = { Reeve.reset with
    g := z.g
    pc := BitVec.ofNat 64 (dfld x.lrec 56 8 + dfld x.header 8 4)
    mask := mask
    taskId := i * x.rv + r
    budget := if dfld x.lrec 32 8 = 0 then 0xFFFFFFFFFFFFFFFF else BitVec.ofNat 64 (dfld x.lrec 32 8)
    started := z.started
    latch := z.latch
    charged := z.charged
    stores := z.stores
    arrivals := z.arrivals } ∧
  ∀ n, KMap.get 0 z.g n = match n with
    | 1 => BitVec.ofNat 64 (i * x.rv + r)
    | 2 => BitVec.ofNat 64 (i / x.y % x.x + 2 ^ 8 * (i % x.y) + 2 ^ 16 * (i / (x.x * x.y)) + 2 ^ 24 * r)
    | 3 => BitVec.ofNat 64 (dfld x.lrec 48 8)
    | 4 => BitVec.ofNat 64 (x.x + 2 ^ 8 * x.y + 2 ^ 16 * x.s + 2 ^ 24 * x.rv)
    | 5 => 0x00FFFFFFFFC00000
    | 62 => BitVec.ofNat 64 (0x00FFFFFFFFC00000 + if r = 0 then dfld x.header 24 4 else dfld x.header 24 4 / 2)
    | _ => 0
/-- The unit's program counters and registers are as they were. -/
def tasksKept (s t : State) (uid : Nat) : Prop :=
  ∀ r, ((t.unitOf uid).reeveOf r).pc = ((s.unitOf uid).reeveOf r).pc ∧ ((t.unitOf uid).reeveOf r).g = ((s.unitOf uid).reeveOf r).g
end Sys2Proof.Claims

/-- R100-R104, R132, R133, R140, R107-R109, R217: a launch window takes a record or asks for a retry, the dispatcher's check ends a bad pass BADREC and
else puts it where its predecessors let it, and a pass whose tasks have ended is settled and its record is written.
The places in the reserve are the model's (log entry 40). -/
def Obligations.LaunchesAreCheckedAndCompleted : Prop :=
  ∀ (s : State) (p q : Nat) (rec : Desc), p < 8 →
    -- LAUNCH_DMWR
    (let part := s.partOf p
     let awake : State := { s with idle := .active }
     (s.mgst = .safe → ∃ t, exec (.launchDmwr p rec) s = .next t ∧ sends awake t (.unsupported p)) ∧
     (s.mgst ≠ .safe → s.paused 0 = true → exec (.launchDmwr p rec) s = .next { awake with dmwrs := s.dmwrs ++ [(p, rec)] }) ∧
     (s.mgst ≠ .safe → s.paused 0 = false → (part.st ≠ .active ∨ 256 ≤ part.openPasses) → ∃ t, exec (.launchDmwr p rec) s = .next t ∧ sends awake t (.launchAnswer p false)) ∧
     (s.mgst ≠ .safe → s.paused 0 = false → part.st = .active → part.openPasses < 256 → ∃ t y, exec (.launchDmwr p rec) s = .next t ∧
       sends { awake with parts := t.parts } t (.launchAnswer p true) ∧ (∀ k, k ≠ p → t.partOf k = s.partOf k) ∧
       t.partOf p = { part with pcseq := part.pcseq + 1, passes := part.passes ++ [y] } ∧ y.seq = part.pcseq + 1 ∧ y.lrec = rec ∧ y.st = .queued ∧
       y.sends = [] ∧ y.recorded = false ∧ y.reason = 0 ∧ y.cause = 0 ∧ y.ftask = none ∧ y.nflt = 0)) ∧
    -- LAUNCH_CHECK
    (∀ x, s.passAt p q = some x → x.st = .queued →
      let d := x.lrec
      let c : XCtx := ⟨p, dfld d 30 2, false, none⟩
      (recordBroken d (s.partOf p).enclave → ∃ t, exec (.launchCheck p q) s = .next t ∧
        t.passAt p q = some { x with st := .faulted, reason := 1, cause := 0 }) ∧
      (∀ f u, ¬recordBroken d (s.partOf p).enclave → s.readVA c [] (BitVec.ofNat 64 (dfld d 56 8)) 64 = .trap f u → partsKept s u →
        ∃ t, exec (.launchCheck p q) s = .next t ∧ t.passAt p q = some { x with st := .faulted, reason := 1, cause := 0 }) ∧
      (∀ l u, ¬recordBroken d (s.partOf p).enclave → s.readVA c [] (BitVec.ofNat 64 (dfld d 56 8)) 64 = .ok l u → partsKept s u →
        let h : Desc := BitVec.ofNat 512 (leVal l)
        (¬imageGood d h → ∃ t, exec (.launchCheck p q) s = .next t ∧ t.passAt p q = some { x with st := .faulted, reason := 1, cause := 0 }) ∧
        (∀ st v sx w, imageGood d h → u.readVA c [] (BitVec.ofNat 64 (dfld d 56 8 + dfld h 36 4)) (8 * dfld h 22 1) = .ok st v →
          v.readVA c [] (BitVec.ofNat 64 (dfld d 56 8 + dfld h 32 4)) (8 * dfld h 21 1) = .ok sx w → partsKept s w →
          let fits := streamsGood (dfld h 24 4) (dfld h 22 1) st ∧ declsGood (dfld h 21 1) sx ∧
            reserveOf d h ≤ (s.partOf p).shareBase + (s.partOf p).shareSize - ((s.partOf p).reserveBase + 2 ^ 20)
          (¬fits → ∃ t, exec (.launchCheck p q) s = .next t ∧ t.passAt p q = some { x with st := .faulted, reason := 1, cause := 0 }) ∧
          (fits → ∃ t y, exec (.launchCheck p q) s = .next t ∧ t.passAt p q = some y ∧ y.seq = x.seq ∧ y.lrec = d ∧ y.header = h ∧
            y.x = either d h 15 16 ∧ y.y = either d h 14 17 ∧ y.s = either d h 13 18 ∧ y.rv = either d h 12 19 ∧ y.lanes = either d h 11 20 ∧
            y.wlog = wlogOf d h ∧ y.streams = (List.range (dfld h 22 1)).map (streamAt st) ∧
            ((∃ z, predecessor s p q d z ∧ ¬passOver z) → y.st = .held) ∧
            ((∀ z, predecessor s p q d z → passOver z) → (dfld d 8 2 / 4 % 2 = 1 ∨ ∀ z, predecessor s p q d z → z.st = .done) → y.st = .ready) ∧
            ((∀ z, predecessor s p q d z → passOver z) → dfld d 8 2 / 4 % 2 = 0 → (∃ z, predecessor s p q d z ∧ z.st ≠ .done) →
              y.st = .cancelled ∧ y.reason = 2))))) ∧
    -- COMPLETION_RECORD
    (∀ x, s.passAt p q = some x → rising s.units →
      let id := passIdOf p q
      (tasksOver s p x → workLeft s p x → exec (.completionRecord p q) s = .next s) ∧
      (tasksOver s p x → ¬workLeft s p x →
        (dfld x.lrec 8 2 % 2 = 0 → ∃ t, exec (.completionRecord p q) s = .next t ∧ t.passAt p q = some { x with st := .done, snap := [] }) ∧
        (∀ c, dfld x.lrec 8 2 % 2 = 1 → s.sealConflict (s.tasksOf p id) = some c → ∃ t, exec (.completionRecord p q) s = .next t ∧
          t.passAt p q = some { x with st := .faulted, reason := 0, cause := 0x09, ftask := some c.t2.1 }) ∧
        (dfld x.lrec 8 2 % 2 = 1 → s.sealConflict (s.tasksOf p id) = none → ∃ t, exec (.completionRecord p q) s = .next t ∧
          t.passAt p q = some { x with st := .done, snap := [] } ∧ logsMerged s t p id)) ∧
      (passOver x → x.recorded = false → ((s.partOf p).passes.map (fun y => y.seq)).Nodup →
        recordDue s p x → (∀ y ∈ (s.partOf p).passes, y.st = .held → s.unitsOf p (passIdOf p y.seq) = []) →
        let c : XCtx := ⟨p, dfld x.lrec 30 2, false, none⟩
        let a := BitVec.ofNat 64 (dfld x.lrec 40 8)
        let cycles := (s.charges p id).sum
        let most := (s.charges p id).foldl max 0
        let b := completionBytes p x cycles most
        let settled (v t : State) (lost : Nat) : Prop :=
          t.passAt p q = some { x with recorded := true, cycles := cycles, taskMax := most } ∧ t.hbm = v.hbm ∧
          (t.partOf p).openPasses + 1 = (s.partOf p).openPasses ∧ (t.partOf p).lostcmp = lost ∧
          ((s.partOf p).st = .quiescing → (s.partOf p).openPasses = 1 → (t.partOf p).st = .quiesced) ∧
          (∀ uid ∈ s.unitsOf p id, (t.unitOf uid).live = false) ∧
          (if dfld x.lrec 8 2 / 2 % 2 = 1 then ∃ l, t.sent = v.sent ++ .msix (dfld x.lrec 6 2) :: l ∧ ∀ m ∈ l, isFlit m = true else t.sent = v.sent)
        (∀ f v, s.writeVA c 0 none (a + 2) (b.drop 2) = .trap f v → partsKept s v → v.units = s.units →
          ∃ t, exec (.completionRecord p q) s = .next t ∧ settled v t (if (s.partOf p).lostcmp < 65535 then (s.partOf p).lostcmp + 1 else (s.partOf p).lostcmp)) ∧
        (∀ u v, s.writeVA c 0 none (a + 2) (b.drop 2) = .ok ⟨⟩ u → u.writeVA c 0 none a (b.take 2) = .ok ⟨⟩ v → partsKept s v → v.units = s.units →
          ∃ t, exec (.completionRecord p q) s = .next t ∧ settled v t (s.partOf p).lostcmp)) ∧
      (passOver x → (x.recorded = true ∨ ¬recordDue s p x) → exec (.completionRecord p q) s = .next s))

/-- R92, R134-R138, R140, R143, R144, R214: the next READY pass takes its slots and its units start as R136 says, a PARKED pass resumes on fresh slots with
its registers kept, and a pass of lower priority is pre-empted whole.
The places in the reserve are the model's (log entry 40). -/
def Obligations.PassesArePlacedResumedAndPreempted : Prop :=
  ∀ (s : State) (p : Nat) (x : Pass), rising s.units → s.passAt p x.seq = some x →
    let id := passIdOf p x.seq
    let prio (y : Pass) : Nat := dfld y.lrec 10 1
    let waiting (y : Pass) : Prop := y ∈ (s.partOf p).passes ∧ (y.st = .ready ∨ y.st = .parked)
    -- the order of R143, and the slots of R138
    (s.nextPass p = some x → waiting x ∧ ∀ y, waiting y → prio y ≤ prio x) ∧
    (∀ slots, s.slotsFor p x = some slots → slots.length = min (x.x * x.y * x.s) (s.partOf p).remap.length ∧ slots.Pairwise (· < ·) ∧
      ∀ k ∈ slots, k < (s.partOf p).remap.length) ∧
    -- PASS_PLACE
    (∀ places, s.regionsFor p x = some places → places.length = x.x * x.y * x.s ∧
      placesGood ((s.partOf p).reserveBase + 2 ^ 20) ((s.partOf p).shareBase + (s.partOf p).shareSize) (dfld x.header 24 4) places) ∧
    (∀ slots places mask v, s.nextPass p = some x → x.st = .ready → s.slotsFor p x = some slots → s.regionsFor p x = some places →
      s.startMask p (dfld x.lrec 30 2) = (mask, v) → v.units = s.units → partsKept s v → v.nextUid = s.nextUid → (∀ e ∈ s.units, e.1 < s.nextUid) →
      ∃ t y, exec (.passPlace p) s = .next t ∧ t.passAt p x.seq = some y ∧ y = { x with st := .placed, placedAt := y.placedAt } ∧
        ∀ i, i < x.x * x.y * x.s → let u := t.unitOf (s.nextUid + i)
          u.live = true ∧ u.part = p ∧ u.passId = id ∧ u.idx = i ∧ u.asid = dfld x.lrec 30 2 ∧ u.rv = x.rv ∧ u.loftSize = dfld x.header 24 4 ∧
          u.slot = slots.getD (i % slots.length) 0 ∧ u.core = (s.partOf p).remap.getD u.slot 0 ∧ u.loft = [] ∧ u.sheaves = [] ∧ u.replies = [] ∧
          places.getD i (0, 0) = (u.ctxPA, u.loftPA) ∧ (u.place = .unstarted ∨ u.place = .running) ∧
          u.streams = x.streams.map (fun e => ⟨e.1, e.2, 0, 0, 0⟩) ∧ ∀ r, r < x.rv →
            startsAs (u.reeveOf r) x i r mask ∧ (u.reeveOf r).charged = 0 ∧ (u.reeveOf r).arrivals = 0 ∧ (u.reeveOf r).stores = []) ∧
    -- PASS_RESUME
    (∀ slots, s.nextPass p = some x → x.st = .parked → s.slotsFor p x = some slots →
      let coreOf (uid : Nat) : Nat := (s.partOf p).remap.getD (slots.getD ((s.unitOf uid).idx % slots.length) 0) 0
      let stays := ∀ uid ∈ s.unitsOf p id, coreOf uid = (s.unitOf uid).core
      (∀ uid ∈ s.unitsOf p id, coreOf uid ≠ (s.unitOf uid).core → ∀ e ∈ (s.unitOf uid).reeves, e.2.stores = []) ∧
      ∃ t, exec (.passResume p) s = .next t ∧ t.passAt p x.seq = some { x with st := .running } ∧
        ∀ uid ∈ s.unitsOf p id, let u := t.unitOf uid
          u.slot = slots.getD (u.idx % slots.length) 0 ∧ u.core = coreOf uid ∧ u.idx = (s.unitOf uid).idx ∧ tasksKept s t uid ∧
          ((s.unitOf uid).place = .preempted → (stays ∧ ∀ w ∈ s.unitsOf p id, contextWhole s w) →
            u.place = .ready ∨ u.place = .unstarted ∨ u.place = .running) ∧
          ((s.unitOf uid).place = .preempted → s.unitsOf p id = [uid] → coreOf uid ≠ (s.unitOf uid).core → (s.unitOf uid).ctxCheck = [] →
            (s.unitOf uid).ctxBad = 0 → s.hbmPoison = [] → (s.unitOf uid).loftPoison = [] →
            apart (s.unitOf uid).ctxPA (s.unitOf uid).ctxSize (s.unitOf uid).loftPA (s.unitOf uid).loftSize →
            u.place = .ready ∨ u.place = .unstarted ∨ u.place = .running)) ∧
    -- PREEMPT
    (∀ v, s.lacksSlots p = some x → s.victim p (prio x) = some v →
      v ∈ (s.partOf p).passes ∧ v.st = .running ∧ prio v < prio x ∧
      (∀ w ∈ (s.partOf p).passes, w.st = .running → prio v ≤ prio w ∨ prio x ≤ prio w) ∧
      (((s.partOf p).passes.map (fun y => y.seq)).Pairwise (· < ·) → ∀ w ∈ (s.partOf p).passes, w.st = .running → prio w = prio v → w.seq ≤ v.seq) ∧
      (s.passAt p v.seq = some v → (∀ uid ∈ s.unitsOf p (passIdOf p v.seq), ∀ r, ((s.unitOf uid).reeveOf r).fail = none) →
        ∃ t, exec (.preempt p) s = .next t ∧ t.passAt p v.seq = some { v with st := .parked } ∧
        ∀ uid ∈ s.unitsOf p (passIdOf p v.seq), let u := t.unitOf uid
          let cause (r : Nat) : BitVec 8 := if r < u.rv ∧ (u.reeveOf r).ended = false then 0x20 else 0
          let halted := u.place = .preempted ∧ u.cause0 = cause 0 ∧ u.cause1 = cause 1
          tasksKept s t uid ∧ (((s.unitOf uid).place = .over ∨ (s.unitOf uid).place = .faulted) → u.place = (s.unitOf uid).place) ∧
          ((s.unitOf uid).place = .running → halted ∨ u.place = .over ∧ ∀ r, r < u.rv → (u.reeveOf r).ended = true) ∧
          ((s.unitOf uid).place ∉ [Place.over, .faulted, .running] → halted)))


/-! ### Turns, preload, spills, dispositions (R139, R148-R151, R320, R321) and what the host does to passes (R81, R99, R105, R106, R111, R114) -/

namespace Sys2Proof.Claims

/-- A unit that may start or resume on core `c`. -/
def readyHere (s : State) (c uid : Nat) (u : Machine.Unit) : Prop :=
  (uid, u) ∈ s.units ∧ u.core = c ∧ u.live = true ∧ (u.place = .ready ∨ u.place = .unstarted)
/-- The order of turns: by index, and among units of two passes of equal index by handle. -/
def turnBefore (a b : Nat × Nat) : Prop := a.1 < b.1 ∨ a.1 = b.1 ∧ a.2 < b.2
/-- From `s` to `t` unit `uid` gave up core `c` (R139): it is ready with its tasks as they were and its context in the core's shadow storage, and the
next unit in increasing index, or round again, or the preloaded one, runs with its loft in the core. -/
def turnEnds (s t : State) (c uid : Nat) : Prop :=
  let u := s.unitOf uid
  (t.unitOf uid).place = .ready ∧ tasksKept s t uid ∧ t.parts = s.parts ∧ (t.coreOf c).shadow = [uid] ∧
  ((∀ e ∈ s.units, e.2.core = c → e.2.loftSize = 0 ∧ e.2.loftResident = true) → t.hbm = s.hbm) ∧
  (t.unitOf uid).cause0 = (if 0 < u.rv ∧ (u.reeveOf 0).ended = false then 0x20 else 0) ∧
  (t.unitOf uid).cause1 = (if 1 < u.rv ∧ (u.reeveOf 1).ended = false then 0x20 else 0) ∧
  ∃ n w, (t.coreOf c).running = some n ∧ (t.unitOf n).place = .running ∧ (t.unitOf n).loftResident = true ∧ readyHere s c n w ∧
    ((s.coreOf c).preloaded = none → ∀ m y, readyHere s c m y →
      (turnBefore (u.idx, uid) (y.idx, m) → turnBefore (u.idx, uid) (w.idx, n) ∧ ¬turnBefore (y.idx, m) (w.idx, n)) ∧
      (turnBefore (w.idx, n) (u.idx, uid) → turnBefore (y.idx, m) (u.idx, uid) ∧ ¬turnBefore (y.idx, m) (w.idx, n))) ∧
    (∀ q, (s.coreOf c).preloaded = some q → n = q)
/-- Another unit is ready on the core of the running unit `uid`, each with its context whole; a preloaded unit is among them. No END of the running
unit's tasks is left to retire, and no context of another unit is in the core's shadow storage. -/
def contends (s : State) (c uid : Nat) : Prop :=
  (s.coreOf c).running = some uid ∧ (s.unitOf uid).core = c ∧ (s.unitOf uid).place = .running ∧ (s.coreOf c).rerun = [] ∧ (s.coreOf c).unpowered = false ∧
  (∃ m y, readyHere s c m y) ∧ (∀ m y, readyHere s c m y → contextWhole s m) ∧ (∀ r, s.haltedWord uid r ≠ some .endTask) ∧
  (∀ v ∈ (s.coreOf c).shadow, v = uid) ∧ ∀ q, (s.coreOf c).preloaded = some q → ∃ y, readyHere s c q y
/-- A parked unit whose loft lies in core `c` and may leave it (R150). -/
def mayLeave (s : State) (c uid : Nat) (u : Machine.Unit) : Prop :=
  (uid, u) ∈ s.units ∧ u.live = true ∧ u.core = c ∧ u.loftResident = true ∧ u.loftSize ≠ 0 ∧ u.initial = false ∧
  (u.place = .ready ∨ u.place = .preempted ∨ u.place = .faulted) ∧ (s.coreOf c).preloaded ≠ some uid
/-- A field of `n` bytes at offset `o` of the memory at `a`. -/
def fieldAt (m : Memory) (a o n : Nat) : Nat := littleEndian (fun j => KMap.get 0 m (a + o + j)) n
/-- A parked unit whose keeper stored `d` to DISP while a task of it holds a cause of its own (R149). -/
def disposed (s : State) (uid : Nat) (d : Byte) : Prop :=
  let u := s.unitOf uid
  u.live = true ∧ u.place = .faulted ∧ (u.cause0 ∉ [(0 : BitVec 8), 0x20] ∨ u.cause1 ∉ [(0 : BitVec 8), 0x20]) ∧ KMap.get 0 s.hbm (u.ctxPA + 1) = d
/-- A unit's pass holds slots. -/
def slotted (s : State) (u : Machine.Unit) : Prop := ∀ x, s.passOf u = some x → x.st = .placed ∨ x.st = .running
end Sys2Proof.Claims

/-- R139, R148-R151, R320, R321: a turn ends when the unit is blocked or its quantum is over, the next unit is preloaded, contexts and lofts move to the
reserve, and DISP 1, 2 and 3 resume, restart and end a parked unit.
When spills happen is the schedule's (log entry 3). -/
def Obligations.TurnsSpillsAndDispositions : Prop :=
  ∀ (s : State) (c uid : Nat), rising s.units →
    let u := s.unitOf uid
    -- BLOCKED_TIMEOUT and QUANTUM_EXPIRY
    (contends s c uid →
      ((∀ r, r < u.rv → (u.reeveOf r).ended = true ∨ 4096 ≤ (u.reeveOf r).waited) → ∃ t, exec (.blockedTimeout c) s = .next t ∧ turnEnds s t c uid) ∧
      (2 ^ 20 ≤ (s.coreOf c).turn → ∃ t, exec (.quantumExpiry c) s = .next t ∧ turnEnds s t c uid) ∧
      ((∃ r, r < u.rv ∧ (u.reeveOf r).ended = false ∧ (u.reeveOf r).waited < 4096) → exec (.blockedTimeout c) s = .next s) ∧
      ((s.coreOf c).turn < 2 ^ 20 → exec (.quantumExpiry c) s = .next s)) ∧
    -- PRELOAD
    (∀ n, (s.coreOf c).running = some uid → s.nextOn c (u.idx, uid) = some n → (s.coreOf c).preloaded = none →
      let v := s.unitOf n
      (u.loftSize ≤ 2 ^ 21 → v.loftSize ≤ 2 ^ 21 → ∃ t, exec (.preload c) s = .next t ∧ (t.coreOf c).preloaded = some n ∧
        (t.coreOf c).running = some uid ∧ (t.unitOf n).loftResident = true ∧ (v.loftResident = true → t.unitOf n = v) ∧
        (∀ m y, (m, y) ∈ s.units → y.live = true → y.core = c → m ≠ uid → m ≠ n → y.loftSize ≠ 0 → y.place ≠ .unstarted → y.place ≠ .over →
          (t.unitOf m).loftResident = false) ∧
        ((∀ m y, (m, y) ∈ s.units → y.core = c → m = uid ∨ m = n ∨ y.loftResident = false ∨ y.loftSize = 0) →
          (v.loftResident = false → ∀ j, j < v.loftSize → KMap.get 0 (t.unitOf n).loft j = KMap.get 0 s.hbm (v.loftPA + j)) ∧
          ∀ a, KMap.get 0 t.hbm a = if v.loftResident = false ∧ v.ctxCheck ≠ [] ∧ v.ctxPA + 8 ≤ a ∧ a < v.ctxPA + 16 then 0 else KMap.get 0 s.hbm a)) ∧
      ((2 ^ 21 < u.loftSize ∨ 2 ^ 21 < v.loftSize) → exec (.preload c) s = .next s)) ∧
    (∀ p y, p < 8 → (s.coreOf c).running = some uid → (∀ m w, ¬readyHere s c m w) → (s.coreOf c).preloaded = none → (s.coreOf c).preloadPass = none →
      u.initial = false → u.loftSize ≤ 2 ^ 21 → (∀ k, k < 8 → (c ∈ (s.partOf k).cores ↔ k = p)) → (s.candidates p).head? = some y →
      (dfld y.header 24 4 ≤ 2 ^ 21 → ∃ t, exec (.preload c) s = .next t ∧ (t.coreOf c).preloadPass = some (p, y.seq) ∧ (t.coreOf c).running = some uid) ∧
      (2 ^ 21 < dfld y.header 24 4 → exec (.preload c) s = .next s)) ∧
    -- CONTEXT_SPILL
    (∀ l, (s.coreOf c).shadow = uid :: l → u.core = c →
      let goes := u.live = true ∧ (u.place = .ready ∨ u.place = .preempted) ∧ u.ctxCheck = []
      (goes → u.replies.length ≤ 256 →
        ∃ t, exec (.contextSpill c) s = .next t ∧ (t.coreOf c).shadow = l.filter (· != uid) ∧ tasksKept s t uid ∧
          (∀ a, (a < u.ctxPA ∨ u.ctxPA + u.ctxSize ≤ a) → KMap.get 0 t.hbm a = KMap.get 0 s.hbm a) ∧
          fieldAt t.hbm u.ctxPA 0 1 = 1 ∧ fieldAt t.hbm u.ctxPA 1 1 = 0 ∧ fieldAt t.hbm u.ctxPA 6 1 = u.cause0.toNat ∧
          fieldAt t.hbm u.ctxPA 7 1 = u.cause1.toNat ∧ fieldAt t.hbm u.ctxPA 8 8 = (if u.loftResident = true then 0 else u.loftPA % 2 ^ 64) ∧
          fieldAt t.hbm u.ctxPA 36 4 = u.idx % 2 ^ 32 ∧ fieldAt t.hbm u.ctxPA 40 8 = (u.reeveOf 0).budget.toNat ∧
          fieldAt t.hbm u.ctxPA 48 8 = (u.reeveOf 1).budget.toNat ∧ fieldAt t.hbm u.ctxPA 56 8 = u.passId.toNat) ∧
      (¬goes → ∃ t, exec (.contextSpill c) s = .next t ∧ (t.coreOf c).shadow = l.filter (· != uid) ∧ t = { s with cores := t.cores })) ∧
    -- LOFT_SPILL
    ((∀ m y, ¬mayLeave s c m y) → exec (.loftSpill c) s = .next s) ∧
    (mayLeave s c uid u → (∀ m y, mayLeave s c m y → uid ≤ m) →
      ∃ t, exec (.loftSpill c) s = .next t ∧ (t.unitOf uid).loftResident = false ∧ (t.unitOf uid).loft = [] ∧ tasksKept s t uid ∧
        ∀ a, KMap.get 0 t.hbm a = if u.ctxCheck ≠ [] ∧ u.ctxPA + 8 ≤ a ∧ a < u.ctxPA + 16 then byteOf u.loftPA (a - (u.ctxPA + 8))
          else if u.loftPA ≤ a ∧ a < u.loftPA + u.loftSize then KMap.get 0 u.loft (a - u.loftPA) else KMap.get 0 s.hbm a) ∧
    -- DISP_RESUME
    (disposed s uid 1 →
      (contextWhole s uid → ∃ t, exec (.dispResume uid) s = .next t ∧ ((s.coreOf u.core).running ≠ none → t.hbm = s.hbm) ∧ tasksKept s t uid ∧
        (t.unitOf uid).cause0 = 0 ∧ (t.unitOf uid).cause1 = 0 ∧
        (slotted s u → (t.unitOf uid).place = .ready ∨ (t.unitOf uid).place = .running) ∧ (¬slotted s u → (t.unitOf uid).place = .preempted) ∧
        (u.ctxCheck ≠ [] → ∀ r, r < u.rv → r < 2 → ((t.unitOf uid).reeveOf r).budget = BitVec.ofNat 64 (fieldAt s.hbm u.ctxPA (40 + 8 * r) 8)) ∧
        ∀ e ∈ (t.unitOf uid).mq, e.reeve < 2 → e.reported = false) ∧
      (¬contextWhole s uid → ∃ t y, exec (.dispResume uid) s = .next t ∧ (t.unitOf uid).place = .faulted ∧
        (t.partOf u.part).faults = (s.partOf u.part).faults ++ [y] ∧
        recordIs y (if (u.reeveOf (if (u.reeveOf 0).ended = true then 1 else 0)).mode = .keeper then 3 else 1)
          (tr 0x13 (if u.ctxBad = 0 then 7 else u.ctxBad) 0) (u.idx * u.rv + if (u.reeveOf 0).ended = true then 1 else 0) u.passId 0 (BitVec.ofNat 64 u.ctxPA))) ∧
    -- DISP_RESTART
    (∀ x mask v, disposed s uid 2 → s.passOf u = some x → s.startMask u.part u.asid = (mask, v) → v.units = s.units → partsKept s v →
      ∃ t, exec (.dispRestart uid) s = .next t ∧ let w := t.unitOf uid
        w.idx = u.idx ∧ w.slot = u.slot ∧ w.core = u.core ∧ w.ctxPA = u.ctxPA ∧ w.loftPA = u.loftPA ∧ w.loft = [] ∧ w.sheaves = [] ∧ w.mq = [] ∧ w.replies = [] ∧
        w.streams = x.streams.map (fun e => ⟨e.1, e.2, 0, 0, 0⟩) ∧ (slotted s u → w.place = .unstarted ∨ w.place = .running) ∧
        (¬slotted s u → w.place = .preempted) ∧
        (∀ e ∈ t.cores, (∀ k ∈ e.2.wq, k.uid ≠ uid) ∧ (∀ k, e.2.routine = some k → k.uid ≠ uid) ∧ uid ∉ e.2.shadow) ∧
        ∀ r, r < x.rv → startsAs (w.reeveOf r) x u.idx r mask ∧ (w.reeveOf r).charged = (u.reeveOf r).charged ∧
          (w.reeveOf r).stores = (u.reeveOf r).stores ∧ (w.reeveOf r).arrivals = x.episode) ∧
    -- DISP_END
    (∀ x, disposed s uid 3 → s.passAt u.part (passSeq u.passId) = some x → ¬passOver x →
      ∃ t, exec (.dispEnd uid) s = .next t ∧ t.passAt u.part (passSeq u.passId) = some { x with
        st := .faulted
        reason := 0
        cause := if u.cause0 ∈ [(0 : BitVec 8), 0x20] then u.cause1 else if u.cause1 ∈ [(0 : BitVec 8), 0x20] then u.cause0
          else if u.seq1 < u.seq0 then u.cause1 else u.cause0 }) ∧
    (∀ d, disposed s uid d → d ≠ 1 → d ≠ 2 → d ≠ 3 →
      exec (.dispResume uid) s = .next s ∧ exec (.dispRestart uid) s = .next s ∧ exec (.dispEnd uid) s = .next s)

/-- R81, R99, R105, R106, R111, R114: QUIESCE and DROPQ move a partition and cancel what waits, PCCANCEL cancels a pass that has not ended, a trigger
word fires the tiles it names, and a device in SAFE drops all of these. -/
def Obligations.HostControlsPassesAndPlans : Prop :=
  ∀ (s : State) (p : Nat) (w : Word), p < 8 → ((s.partOf p).passes.map (fun y => y.seq)).Nodup → rising s.units →
    let part := s.partOf p
    let awake : State := { s with idle := .active }
    let unplaced (x : Pass) : Prop := x.st = .queued ∨ x.st = .held ∨ x.st = .ready
    -- pass `x` of the partition is cancelled for reason `n`
    let cancelled (t : State) (x : Pass) (n : Nat) : Prop := t.passAt p x.seq = some { x with st := .cancelled, reason := n, cause := 0 }
    let dropped (t : State) : Prop := ∀ x ∈ part.passes, (unplaced x → cancelled t x 4) ∧ (¬unplaced x → t.passAt p x.seq = some x)
    -- no pass that DROPQ cancels has units, as in every state that is reached
    let bare : Prop := ∀ x ∈ part.passes, unplaced x → s.unitsOf p (passIdOf p x.seq) = []
    let untouched (t : State) : Prop := (t.partOf p).passes = part.passes
    (s.mgst = .safe → exec (.quiesceSet p w) s = .next awake ∧ exec (.quiesceClear p w) s = .next awake ∧ exec (.dropq p) s = .next awake ∧
      exec (.pccancel p w) s = .next awake ∧ exec (.triggerDoorbell p w) s = .next awake) ∧
    (s.mgst ≠ .safe →
      -- QUIESCE_SET
      (∃ t, exec (.quiesceSet p w) s = .next t ∧ t.idle = .active ∧ (bare → t.hbm = s.hbm) ∧ (w.getLsbD 1 = false → t = { awake with parts := t.parts }) ∧ (t.partOf p).pcctl = w &&& 2 ||| 1 ∧
        (part.st = .active ∨ part.st = .quiescing → (t.partOf p).st = if part.openPasses = 0 then .quiesced else .quiescing) ∧
        (part.st ≠ .active → part.st ≠ .quiescing → (t.partOf p).st = part.st) ∧
        (w.getLsbD 1 = true → dropped t) ∧ (w.getLsbD 1 = false → untouched t)) ∧
      -- QUIESCE_CLEAR
      (∃ t, exec (.quiesceClear p w) s = .next t ∧ t = { awake with parts := t.parts } ∧ (t.partOf p).pcctl = w &&& 2 ∧ untouched t ∧
        (t.partOf p).st = if part.st = .quiescing ∨ part.st = .quiesced then .active else part.st) ∧
      -- DROPQ
      (∃ t, exec (.dropq p) s = .next t ∧ t.idle = .active ∧ (bare → t.hbm = s.hbm) ∧ (t.partOf p).pcctl.getLsbD 1 = true ∧
        (part.pcctl.getLsbD 0 = true → dropped t) ∧ (part.pcctl.getLsbD 0 = false → untouched t)) ∧
      -- PCCANCEL
      (∀ x, passPart w = p → s.passAt p (passSeq w) = some x → ¬passOver x → ¬tasksOver s p x →
        ∃ t, exec (.pccancel p w) s = .next t ∧ cancelled t x 3 ∧ t.idle = .active ∧
          ((∀ e ∈ s.units, e.2.runnable = false) → t.hbm = s.hbm) ∧
          ∀ uid r, ofPass s p (passIdOf p x.seq) uid r → (t.unitOf uid).place = .over ∧ (t.unitOf uid).mq = [] ∧ ((t.unitOf uid).reeveOf r).log = []) ∧
      ((passPart w ≠ p ∨ ∀ x, s.passAt p (passSeq w) = some x → passOver x ∨ tasksOver s p x) → exec (.pccancel p w) s = .next awake) ∧
      -- TRIGGER_DOORBELL
      (let h := w.toNat % 2 ^ 12
       let lo := w.toNat / 2 ^ 16 % 2 ^ 16
       let hi := w.toNat / 2 ^ 32 % 2 ^ 16
       let plan (t : State) : Option Plan := t.plans.find? (fun x => x.part == p && x.handle == h)
       let fires (x : Plan) : Prop := w.toNat / 2 ^ 12 % 16 = 0 ∧ w.toNat / 2 ^ 48 = 0 ∧ lo ≤ hi ∧ hi < tilesOf x.desc ∧ x.failed = none ∧
         (s.partOf x.part).st ≠ .revoked
       (∀ x, plan s = some x → 0 < dfld x.desc 20 4 → fires x → ∃ t, exec (.triggerDoorbell p w) s = .next t ∧
         t = { awake with plans := t.plans, telemetry := t.telemetry } ∧ ∃ y, plan t = some y ∧ y = { x with tiles := y.tiles } ∧
         (∀ j, KMap.get Tile.idle y.tiles j = let z := KMap.get Tile.idle x.tiles j
           { z with flag := z.flag || (decide (lo ≤ j) && decide (j ≤ hi)) }) ∧
         KMap.get 0 t.telemetry tmTrigger = KMap.get 0 s.telemetry tmTrigger +
           ((List.range (hi + 1 - lo)).filter (fun j => (KMap.get Tile.idle x.tiles (lo + j)).flag)).length) ∧
       ((∀ x, plan s = some x → 0 < dfld x.desc 20 4 ∧ ¬fires x) → ∃ t, exec (.triggerDoorbell p w) s = .next t ∧
         t = { awake with telemetry := t.telemetry } ∧ KMap.get 0 t.telemetry tmTrigger = KMap.get 0 s.telemetry tmTrigger + 1)))

/-! ### Ports (R37-R48) -/

namespace Sys2Proof.Claims

/-- Lane `k` of a lane map: whether it is used, whether it is retired, and the partner lane that it joins (R43, R48). -/
def nibble (m : BitVec 16) (k : Nat) : Nat := m.toNat / 2 ^ (4 * k) % 16
def usedLane (m : BitVec 16) (k : Nat) : Prop := 8 ≤ nibble m k
def retiredLane (m : BitVec 16) (k : Nat) : Prop := 4 ≤ nibble m k % 8
/-- From `s` to `t` port `i` became `q`, and no other port changed. -/
def portIs (s t : State) (i : Nat) (q : Port) : Prop := t = { s with ports := t.ports } ∧ t.portOf i = q ∧ ∀ j, j ≠ i → t.portOf j = s.portOf j
/-- Port `i` became `q`; from UP, and from a narrowing that ends in DISABLED, it left the route sets, and its flits went elsewhere (R47). -/
def portLeaves (s t : State) (i : Nat) (q : Port) : Prop :=
  t.portOf i = if (s.portOf i).st = .up ∨ ((s.portOf i).routed = true ∧ q.st = .disabled)
    then { q with routed := false, unacked := [], waiting := [], resend := false } else q
/-- Each end's map of used lanes is the inverse of the other's (R43). -/
def inverseMaps (a b : BitVec 16) : Prop :=
  (∀ k, k < 4 → usedLane a k → usedLane b (nibble a k % 4) ∧ nibble b (nibble a k % 4) % 4 = k) ∧
  ∀ k, k < 4 → usedLane b k → usedLane a (nibble b k % 4) ∧ nibble a (nibble b k % 4) % 4 = k
/-- The lowest lane that both maps list as healthy, or lane 0 (R44). -/
def commonIs (a b : BitVec 16) (k : Nat) : Prop :=
  let healthy (j : Nat) : Prop := j < 4 ∧ ¬retiredLane a j ∧ ¬retiredLane b j
  (∀ j, healthy j → healthy k ∧ k ≤ j) ∧ ((∀ j, ¬healthy j) → k = 0)
/-- Lanes of a width code (R37, R48). -/
def lanesOf (w : BitVec 2) : Nat := match w.toNat with | 0 => 4 | 1 => 2 | 2 => 1 | _ => 0
/-- `v` is the widest width of at most `n` lanes that is no wider than `w` (R45). -/
def widestOf (n : Nat) (w v : BitVec 2) : Prop :=
  lanesOf v ≤ n ∧ lanesOf v ≤ lanesOf w ∧ ∀ x, lanesOf x ≤ n → lanesOf x ≤ lanesOf w → lanesOf x ≤ lanesOf v
/-- How many lanes below `j` a test holds for. -/
def below (ok : Nat → Bool) (j : Nat) : Nat := ((List.range j).filter ok).length
/-- A lane that is not retired. -/
def healthyLane (m : BitVec 16) (k : Nat) : Bool := decide (nibble m k % 8 < 4)
/-- Map `m` became `m'`: the lanes of `use` are used, each joined to the partner's lane that `join` gives, and a retired lane stays retired. -/
def usesLanes (m m' : BitVec 16) (use : Nat → Prop) (join : Nat → Nat) : Prop :=
  ∀ j, j < 4 → (usedLane m' j ↔ use j) ∧ (retiredLane m' j ↔ retiredLane m j) ∧ nibble m' j % 4 = (open Classical in if use j then join j % 4 else 0)
/-- The record that a port sends (R43): its own serial, number, peer, width, speed and lane map, and for each key slot the counter of the oldest
flit it will send under it. -/
def recordOf (s : State) (i : Nat) (p : Port) : ConfirmRec :=
  ⟨Config.serial, i, s.peer.getD 0, p.width, p.speed, p.lanes,
    s.keys.map (fun k => (k.1, (KMap.get PortSlot.empty p.slots k.1).tx - (p.unacked.filter (fun f => f.key == k.1)).length))⟩
/-- A field of a flit header (R38). -/
def hdrField (h : Word) (lo n : Nat) : Nat := h.toNat / 2 ^ lo % 2 ^ n
/-- From `s` to `t` port `i` became `q`, which is in CONFIRM, and its record went to the partner in a link-control flit of 128 bytes (R43). -/
def confirms (s t : State) (i : Nat) (q : Port) : Prop :=
  t = { s with ports := t.ports, sent := t.sent } ∧ t.portOf i = q ∧ q.st = .confirm ∧ (∀ j, j ≠ i → t.portOf j = s.portOf j) ∧
  ∃ h b, t.sent = s.sent ++ [.confirm i (recordOf s i q), .flit i h b (flitCrc h b)] ∧ hdrField h 60 4 = 3 ∧ hdrField h 25 8 = 0 ∧
    hdrField h 0 10 = 0 ∧ b.length = 112
/-- Port `i` enters CONFIRM on the widest width that its lanes `ok` support, no wider than now, on the lowest-numbered of them (R37, R45). -/
def narrows (s t : State) (i : Nat) (ok : Nat → Bool) : Prop :=
  let p := s.portOf i
  ∃ w m, confirms s t i { p with st := .confirm, width := w, lanes := m } ∧ widestOf (below ok 4) p.width w ∧
    usesLanes p.lanes m (fun j => ok j = true ∧ below ok j < lanesOf w) (fun j => if 8 ≤ nibble p.lanes j then nibble p.lanes j else j)
/-- From `s` to `t` port `i`, in CONFIRM, compared the partner's record `r` with its own (R43, R44). -/
def compares (s t : State) (i : Nat) (r : ConfirmRec) : Prop :=
  let p := s.portOf i
  let agree := p.width = r.width ∧ p.speed = r.speed ∧ inverseMaps p.lanes r.lanes
  let q := t.portOf i
  (agree → ∃ l, q.st = .up ∧ q.routed = true ∧ q.partnerSerial = r.serial ∧ q.partnerPort = r.port ∧ q.partnerPeer = r.peer ∧ q.since = s.tim ∧
    q.goal = .any ∧ q.disp = p.disp ∧ q.rxSeq = p.rxSeq ∧ q.lanes = p.lanes ∧ t.sent = s.sent ++ l ∧
    (p.unacked.map (fun f => Msg.flit i f.hdr f.wire f.integrity)).Sublist l ∧
    (rising r.counters → ∀ c ∈ r.counters, KMap.get 0 s.keys c.1 ≠ 0 →
      (KMap.get PortSlot.empty q.slots c.1).rx = c.2 ∧ (KMap.get PortSlot.empty q.slots c.1).loaded = true)) ∧
  (¬agree → ∃ m, portLeaves s t i { p with
      st := if 2 ≤ p.disp then .disabled else .disputed
      disp := min (p.disp + 1) 3
      goal := .lowest
      lanes := m } ∧
    (∀ k, commonIs p.lanes r.lanes k → ∀ j, j < 4 → (retiredLane m j ↔ retiredLane p.lanes j) ∧ (usedLane m j ↔ j = k)) ∧
    (2 ≤ p.disp → KMap.get 0 t.telemetry tmDispute = KMap.get 0 s.telemetry tmDispute + 1))
/-- A port answers with an acknowledgement of what it received in order (R38). -/
def answers (s t : State) (i rx : Nat) (nak : Bool) : Prop :=
  ∃ l h z, t.sent = s.sent ++ l ++ [.flit i h z (flitCrc h z)] ∧ hdrField h 60 4 = 2 ∧ hdrField h 34 12 = rx % 4096 ∧
    hdrField h 33 1 = (if nak = true then 1 else 0) ∧ hdrField h 25 8 = 0 ∧ hdrField h 10 3 = 0 ∧ hdrField h 0 10 = 0 ∧ z = List.replicate 112 0
/-- The flit was discarded and a replay asked for (R39); counter `n`, if any, counts it. -/
def discards (s t : State) (i : Nat) (n : Option Nat) : Prop :=
  t = { s with ports := t.ports, telemetry := t.telemetry, sent := t.sent } ∧ t.portOf i = { s.portOf i with nak := true } ∧
  (∀ j, j ≠ i → t.portOf j = s.portOf j) ∧ answers s t i (s.portOf i).rxSeq true ∧
  ∀ k, KMap.get 0 t.telemetry k = KMap.get 0 s.telemetry k + if some k = n then 1 else 0
/-- The 96-bit IV of a flit that the partner sent (R40). -/
def ivOf (p : Port) (k : Nat) : BitVec 96 :=
  BitVec.ofNat 96 (p.partnerPeer % 2 ^ 12 * 2 ^ 84 + p.partnerPort % 2 ^ 6 * 2 ^ 78 + (KMap.get PortSlot.empty p.slots k).rx % 2 ^ 64)
end Sys2Proof.Claims

/-- R37, R42-R45, R47: a port trains through DETECT and EQUALISE, sends its record, goes UP when the records agree and is DISPUTED or DISABLED when
they do not, narrows through CONFIRM as lanes retire, and leaves the route sets with its flits when it leaves UP. -/
def Sys2Proof.Claims.portsTrainAndRetire : Prop :=
  ∀ (s : State) (i : Nat), i < 36 →
    let p := s.portOf i
    let healthy := healthyLane p.lanes
    -- SIGNAL_DETECT, LOSS_OF_SIGNAL, PORT_LOSS
    (∀ q, (p.st, q) ∈ [(PortState.down, PortState.detect), (.detect, .equalise), (.disputed, .equalise)] →
      ∃ t, exec (.signalDetect i) s = .next t ∧ portIs s t i { p with st := q }) ∧
    (p.st ∉ [.down, .detect, .disputed] → exec (.signalDetect i) s = .next s) ∧
    (p.st ∈ [.detect, .up] → ∃ t, exec (.lossOfSignal i) s = .next t ∧ portLeaves s t i { p with st := .down, width := 3 }) ∧
    (p.st ∉ [.detect, .up] → exec (.lossOfSignal i) s = .next s) ∧
    (p.st = .up → ∃ t, exec (.portLoss i) s = .next t ∧ portLeaves s t i { p with st := .down, width := 3 }) ∧
    -- EQUALISE_DONE: the lowest-numbered healthy lanes carry the width, and the lowest common configuration its one lane at 56 Gb/s
    (∀ (w v : BitVec 2) m, p.st = .equalise →
      let chosen (w' v' : BitVec 2) (use : Nat → Prop) : Prop := ∃ t m', exec (.equaliseDone i w v m) s = .next t ∧
        confirms s t i { p with st := .confirm, width := w', speed := v', lanes := m' } ∧ usesLanes p.lanes m' use (nibble m)
      (p.goal = .lowest → chosen 2 2 (usedLane p.lanes)) ∧
      ∀ w', p.goal ≠ .lowest → widestOf (below healthy 4) (if p.goal = .full then 0 else w) w' →
        let v' := if p.goal = .full then 0 else v
        ((w' = 3 ∨ v' = 3) → exec (.equaliseDone i w v m) s = .next s) ∧
        (w' ≠ 3 → v' ≠ 3 → chosen w' v' (fun j => healthy j = true ∧ below healthy j < lanesOf w'))) ∧
    (∀ (w v : BitVec 2) m, p.st ≠ .equalise → exec (.equaliseDone i w v m) s = .next s) ∧
    -- CONFIRM_RECORD: a port that narrows, or whose partner narrows, goes through CONFIRM
    (∀ r, (p.st = .confirm → ∃ t, exec (.confirmRecord i r) s = .next t ∧ compares s t i r) ∧
      (p.st = .retire → ∃ u t, exec (.confirmRecord i r) s = .next t ∧ narrows s u i healthy ∧ compares u t i r) ∧
      (p.st = .up → ∃ u t, exec (.confirmRecord i r) s = .next t ∧ compares u t i r ∧
        narrows s u i (fun k => healthy k && !(decide (8 ≤ nibble p.lanes k) && !healthyLane r.lanes (nibble p.lanes k % 4)))) ∧
      (p.st ∉ [.confirm, .retire, .up] → exec (.confirmRecord i r) s = .next s)) ∧
    -- DISPUTE_RESET, ROOT_RETRAIN, PORT_ENABLE
    (p.st = .up → 60000000000 ≤ s.tim.toNat - p.since.toNat → ∃ t, exec (.disputeReset i) s = .next t ∧ portIs s t i { p with disp := 0 }) ∧
    ((p.st ≠ .up ∨ s.tim.toNat - p.since.toNat < 60000000000) → exec (.disputeReset i) s = .next s) ∧
    (p.st = .up → ∃ t, exec (.rootRetrain i) s = .next t ∧ portLeaves s t i { p with st := .equalise, goal := .full }) ∧
    (p.st ≠ .up → exec (.rootRetrain i) s = .next s) ∧
    (p.st = .disabled → ∃ t, exec (.portEnable i) s = .next t ∧ portIs s t i { p with st := .detect, disp := 0, goal := .any }) ∧
    (p.st ≠ .disabled → exec (.portEnable i) s = .next s) ∧
    -- LANE_RETIRE
    (∀ k, (p.st = .up → k < 4 → ¬retiredLane p.lanes k → ∃ m, nibble m k = 4 ∧ (∀ j, j < 4 → j ≠ k → nibble m j = nibble p.lanes j) ∧
        ((∀ j, j < 4 → j ≠ k → retiredLane p.lanes j) → ∃ t, exec (.laneRetire i k) s = .next t ∧
          portLeaves s t i { p with st := .down, width := 3, lanes := m }) ∧
        ((∃ j, j < 4 ∧ j ≠ k ∧ ¬retiredLane p.lanes j) → ∃ t, exec (.laneRetire i k) s = .next t ∧ portIs s t i { p with st := .retire, lanes := m })) ∧
      (p.st = .retire → ∃ t, exec (.laneRetire i k) s = .next t ∧ narrows s t i healthy) ∧
      (p.st ≠ .retire → (p.st ≠ .up ∨ 4 ≤ k ∨ retiredLane p.lanes k) → exec (.laneRetire i k) s = .next s))

/-- R38-R42: a port in UP discards what it cannot decode, check or place in sequence and asks for a replay, delivers what it accepts once and in order,
resends on a nak, drops a slot after eight failed tags and stops a slot whose counter would wrap. -/
def Sys2Proof.Claims.portsCarryFlits : Prop :=
  ∀ (s : State) (i : Nat),
    let p := s.portOf i
    let slot (q : Port) (k : Nat) : PortSlot := KMap.get PortSlot.empty q.slots k
    -- FLIT_RECEIVE
    (∀ fec (h : Word) (d : List Byte) (g : Word),
      let kind := hdrField h 60 4
      let k := hdrField h 25 8
      let seq := hdrField h 46 12
      let key := KMap.get 0 s.keys k
      let opens := key ≠ 0 ∧ gcmTag key (ivOf p k) (leBytes 8 h.toNat) d = g
      let sequenced := kind = 1 ∨ kind = 3
      let fresh := sequenced → seq = (p.rxSeq + 1) % 4096
      let decoded := fec = true ∧ kind < 4 ∧ hdrField h 0 10 = 0 ∧ d.length = 112 ∧ (k = 0 → flitCrc h d = g)
      let clear := (if k = 0 then d else gcmCipher key (ivOf p k) d).take (16 * hdrField h 10 3)
      (p.st ≠ .up → exec (.flitReceive i fec h d g) s = .next s) ∧
      (p.st = .up → ¬decoded → ∃ t, exec (.flitReceive i fec h d g) s = .next t ∧ discards s t i (some tmFlit)) ∧
      (p.st = .up → decoded →
        (¬fresh → ∃ t, exec (.flitReceive i fec h d g) s = .next t ∧ discards s t i none) ∧
        -- what is accepted: an acknowledgement lets flits go, data is delivered, deciphered where a key covers it
        (fresh → (k ≠ 0 → opens ∧ (slot p k).dropping = false) → ∃ t, exec (.flitReceive i fec h d g) s = .next t ∧
          let q := t.portOf i
          q.st = .up ∧ t.hbm = s.hbm ∧ t.units = s.units ∧
          q.delivered = (if kind = 1 then p.delivered ++ [(hdrField h 58 2, clear)] else p.delivered) ∧
          (sequenced → q.rxSeq = seq ∧ q.nak = false) ∧ (¬sequenced → q.rxSeq = p.rxSeq ∧ q.nak = p.nak) ∧ (kind = 1 → answers s t i seq false) ∧
          (kind = 3 → (clear.getD 0 0).toNat ≠ 0 → (slot q (clear.getD 0 0).toNat).loaded = true) ∧
          (k ≠ 0 → (slot q k).rx = (slot p k).rx + 1 ∧ (slot q k).failsInRow = 0) ∧
          q.resend = (p.resend || h.getLsbD 33) ∧
          (∀ a f b, p.unacked = a ++ f :: b → f.seq = hdrField h 34 12 → (∀ x ∈ a, x.seq ≠ hdrField h 34 12) → ∃ l, q.unacked = b ++ l) ∧
          ((∀ x ∈ p.unacked, x.seq ≠ hdrField h 34 12) → ∃ l, q.unacked = p.unacked ++ l)) ∧
        -- a failed tag
        (fresh → k ≠ 0 → (slot p k).dropping = false → ¬opens → ∃ t, exec (.flitReceive i fec h d g) s = .next t ∧
          (slot (t.portOf i) k).failsInRow = (slot p k).failsInRow + 1 ∧ (t.portOf i).delivered = p.delivered ∧
          KMap.get 0 t.telemetry tmAuth = KMap.get 0 s.telemetry tmAuth + 1 ∧
          ((slot p k).failsInRow < 7 → (slot (t.portOf i) k).dropping = false ∧ (t.portOf i).nak = true ∧ (t.portOf i).rxSeq = p.rxSeq) ∧
          (7 ≤ (slot p k).failsInRow → (slot (t.portOf i) k).dropping = true ∧ (sequenced → (t.portOf i).rxSeq = seq ∧ (t.portOf i).nak = false))) ∧
        (fresh → k ≠ 0 → (slot p k).dropping = true → ∃ t, exec (.flitReceive i fec h d g) s = .next t ∧
          t = { s with ports := t.ports, sent := t.sent } ∧ (t.portOf i).delivered = p.delivered ∧
          (sequenced → (t.portOf i).rxSeq = seq ∧ answers s t i seq false) ∧ (¬sequenced → t = s)))) ∧
    -- FLIT_RESEND
    (p.st = .up → p.resend = true → ∃ t, exec (.flitResend i) s = .next t ∧ portIs { s with sent := t.sent } t i { p with resend := false } ∧
      t.sent = s.sent ++ p.unacked.map (fun f => Msg.flit i f.hdr f.wire f.integrity)) ∧
    ((p.st ≠ .up ∨ p.resend = false) → exec (.flitResend i) s = .next s) ∧
    -- COUNTER_WRAP
    (∀ k, k ≠ 0 → (slot p k).stopped = false →
      (2 ^ 64 ≤ (slot p k).tx + 1 → ∃ t, exec (.counterWrap i k) s = .next t ∧ t = { s with ports := t.ports, telemetry := t.telemetry } ∧
        slot (t.portOf i) k = { slot p k with stopped := true } ∧ KMap.get 0 t.telemetry tmSlot = KMap.get 0 s.telemetry tmSlot + 1) ∧
      ((slot p k).tx + 1 < 2 ^ 64 → exec (.counterWrap i k) s = .next s))

/-- R38-R48: ports train, narrow and leave, and carry flits in order. The carriage of messages (log entry 18) and the points of R39 and R44 of log
entry 25 are the model's choices. -/
def Obligations.PortsTrainAndCarryFlits : Prop :=
  Claims.portsTrainAndRetire ∧ Claims.portsCarryFlits

/-! ### Ethernet and CXL ports (R49-R53, R97) -/

namespace Sys2Proof.Claims

/-- The receive or send ring of a queue pair. -/
def ringAt (s : State) (p q : Nat) (recv : Bool) : Ring :=
  let b := KMap.get QPair.reset s.pairs (64 * p + q)
  if recv = true then b.recv else b.send
/-- From `s` to `t` a ring became `r`, and nothing else changed but `telemetry`. -/
def ringBecomes (s t : State) (p q : Nat) (recv : Bool) (r : Ring) : Prop :=
  t = { s with pairs := t.pairs, telemetry := t.telemetry } ∧ ringAt t p q recv = r ∧ ringAt t p q (!recv) = ringAt s p q (!recv) ∧
  (∀ j, j ≠ 64 * p + q → KMap.get QPair.reset t.pairs j = KMap.get QPair.reset s.pairs j) ∧
  (KMap.get QPair.reset t.pairs (64 * p + q)).part = (KMap.get QPair.reset s.pairs (64 * p + q)).part
/-- Counter `n` of telemetry and no other went up by `k`. -/
def counts (s t : State) (n k : Nat) : Prop := ∀ j, KMap.get 0 t.telemetry j = KMap.get 0 s.telemetry j + if j = n then k else 0
/-- Where a ring's next descriptor lies (R51). -/
def descriptorAt (r : Ring) : Word := BitVec.ofNat 64 (r.base.toNat + 32 * (r.cons.toNat % 2 ^ r.logn))
/-- What the port writes at offset 18 of a descriptor: FLEN, STATUS and TIME (R50). -/
def writtenBack (flen status : Nat) (time : Word) : List Byte :=
  (List.range 2).map (byteOf flen) ++ (List.range 4).map (byteOf status) ++ (List.range 8).map (byteOf time.toNat)
/-- From `u`, in which the written-back descriptor `d` of ring `r` stands, to `t`: the next descriptor is in turn, and the counter that `d` names has
advanced if it asks so (R52). -/
def ringMovedOn (u t : State) (p q : Nat) (recv : Bool) (r : Ring) (d : BitVec 256) (asid part : Nat) : Prop :=
  ringAt t p q recv = { r with cons := r.cons + 1, taken := 0 } ∧ t.hbm = u.hbm ∧ t.sent = u.sent ∧
  (dfld d 12 2 % 2 = 0 → t.units = u.units ∧ t.parts = u.parts) ∧
  (∀ k, dfld d 12 2 % 2 = 1 → u.memberUnit part asid (BitVec.ofNat 32 (2 ^ 31 + dfld d 16 2)) = some (some k) → rises u t k (dfld d 14 1 % 16) 1)
end Sys2Proof.Claims

/-- R49-R53: doorbells and ring registers act as R51 says, a frame is sent from its buffer and a received one fills its buffer or its stream buffer, and
each completes its descriptor; R97: a CXL port goes down or comes back.
The context of the accesses (log entry 19) and the points of R49 and R51 of log entry 25 are the model's choices. -/
def Obligations.EthernetRingsAndCxlPorts : Prop :=
  ∀ (s : State) (p q : Nat), p < 16 → q < 64 →
    -- the doorbells, RING_ENABLE and RING_DISABLE
    (∀ (recv : Bool) (w : Word),
      let r := ringAt s p q recv
      let v : BitVec 32 := BitVec.ofNat 32 w.toNat
      let bell : Instr := if recv = true then .receiveDoorbell p q w else .sendDoorbell p q w
      (r.en = true → (v.toNat + 2 ^ 32 - r.cons.toNat) % 2 ^ 32 ≤ 2 ^ r.logn → ∃ t, exec bell s = .next t ∧
        ringBecomes s t p q recv { r with prod := v } ∧ t.telemetry = s.telemetry) ∧
      (r.en = true → 2 ^ r.logn < (v.toNat + 2 ^ 32 - r.cons.toNat) % 2 ^ 32 → ∃ t, exec bell s = .next t ∧ ringBecomes s t p q recv r ∧
        counts s t tmDoorbell 1) ∧
      (r.en = false → exec bell s = .next s) ∧
      (let n := w.toNat % 16
       let a := w.toNat / 2 ^ 16 % 2 ^ 16
       (r.en = false → 4 ≤ n → n ≤ 12 → ∃ t, exec (.ringEnable p q recv w) s = .next t ∧ t.telemetry = s.telemetry ∧
         ringBecomes s t p q recv { r with logn := n, asid := a, en := true, cons := 0, prod := 0, taken := 0 }) ∧
       (r.en = false → (n < 4 ∨ 12 < n) → ∃ t, exec (.ringEnable p q recv w) s = .next t ∧ (ringAt t p q recv).en = false ∧
         (ringAt t p q recv).cons = r.cons) ∧
       (r.en = true → exec (.ringEnable p q recv w) s = .next s ∧ ∃ t, exec (.ringDisable p q recv w) s = .next t ∧ t.telemetry = s.telemetry ∧
         ringBecomes s t p q recv { r with en := false }))) ∧
    -- FRAME_SEND
    (let r := ringAt s p q false
     let part := (s.pairOf p q).part
     let c (u : Option Nat) : XCtx := ⟨part, r.asid, false, u⟩
     let acts : State := { s with eng := some 0 }
     ((r.en = false ∨ r.cons = r.prod) → exec (.frameSend p q) s = .next s) ∧
     (r.en = true → r.cons ≠ r.prod →
       (∀ f u, acts.readVA (c none) [] (descriptorAt r) 32 = .trap f u → ∃ t, exec (.frameSend p q) s = .next t ∧
         ringBecomes s t p q false { r with en := false } ∧ counts s t tmRing 1) ∧
       (∀ l u, acts.readVA (c none) [] (descriptorAt r) 32 = .ok l u → u.pairs = s.pairs →
         let d : BitVec 256 := BitVec.ofNat 256 (leVal l)
         let n := min (dfld d 8 4) 9216
         let a : Word := BitVec.ofNat 64 (dfld d 0 8)
         let x := c (u.ringUnit (s.pairOf p q) r d)
         (∀ b v w, u.bufOk x .load a n = true → u.readVA x [] a n = .ok b v →
           (v.send (.frame p q b)).writeVA (c none) 0 none (descriptorAt r + 18) (writtenBack n (if dfld d 8 4 ≤ 9216 then 0 else 1) v.tim) = .ok ⟨⟩ w →
           w.pairs = s.pairs → sends v (v.send (.frame p q b)) (.frame p q b) ∧
           ∃ t, exec (.frameSend p q) s = .next t ∧ ringMovedOn w t p q false r d r.asid part) ∧
         (∀ w, u.bufOk x .load a n = false → u.writeVA (c none) 0 none (descriptorAt r + 18) (writtenBack 0 2 u.tim) = .ok ⟨⟩ w → w.pairs = s.pairs →
           ∃ t, exec (.frameSend p q) s = .next t ∧ ringMovedOn w t p q false r d r.asid part ∧
             KMap.get 0 t.telemetry tmRing = KMap.get 0 w.telemetry tmRing + 1)))) ∧
    -- FRAME_RECEIVE
    (∀ header payload : List Byte,
      let data := header ++ payload
      let r := ringAt s p q true
      let part := (s.pairOf p q).part
      let c (u : Option Nat) : XCtx := ⟨part, r.asid, false, u⟩
      let awake : State := { s with idle := .active }
      let acts : State := { awake with eng := some 0 }
      (∀ fcs, (fcs = false ∨ 9216 < data.length) → ∃ t, exec (.frameReceive p q header payload fcs) s = .next t ∧ t = { awake with telemetry := t.telemetry } ∧ counts s t tmFrame 1) ∧
      (data.length ≤ 9216 → (r.en = false ∨ r.cons = r.prod) → r.taken = 0 →
        let k := if data.getD 12 0 = 0x81 ∧ data.getD 13 0 = 0 then (data.getD 14 0).toNat / 32 else 0
        let pfc := KMap.get false s.pfc (8 * p + k)
        (pfc = false → ∃ t, exec (.frameReceive p q header payload true) s = .next t ∧ t = { awake with telemetry := t.telemetry } ∧ counts s t tmFrame 1) ∧
        (pfc = true → ∃ t, exec (.frameReceive p q header payload true) s = .next t ∧ sends awake t (.pause p k))) ∧
      (data.length ≤ 9216 → r.en = true → r.cons ≠ r.prod →
        (∀ f u, acts.readVA (c none) [] (descriptorAt r) 32 = .trap f u → ∃ t, exec (.frameReceive p q header payload true) s = .next t ∧
          ringBecomes awake t p q true { r with en := false } ∧ counts s t tmRing 1) ∧
        (∀ l u, acts.readVA (c none) [] (descriptorAt r) 32 = .ok l u → u.pairs = s.pairs →
          let d : BitVec 256 := BitVec.ofNat 256 (leVal l)
          let n := min data.length (dfld d 8 4)
          let a : Word := BitVec.ofNat 64 (dfld d 0 8)
          let x := c (u.ringUnit (s.pairOf p q) r d)
          (∀ v w, u.bufOk x .store a n = true → u.bufStream x a = none → u.writeVA x 0 none a (data.take n) = .ok ⟨⟩ v →
            v.writeVA (c none) 0 none (descriptorAt r + 18) (writtenBack n (if dfld d 8 4 < data.length then 1 else 0) v.tim) = .ok ⟨⟩ w →
            w.pairs = s.pairs → ∃ t, exec (.frameReceive p q header payload true) s = .next t ∧ ringMovedOn w t p q true r d r.asid part) ∧
          (∀ k j b, u.bufOk x .store a n = true → u.bufStream x a = some (k, j) → (u.unitOf k).streams[j]? = some b → b.tail < b.size →
            -- granule by granule, while 64 bytes are free
            let m := (n - r.taken + 63) / 64
            let free := (b.size - (b.fill + b.head % 64)) / 64
            ∃ t, exec (.frameReceive p q header payload true) s = .next t ∧ (t.unitOf k).streams[j]? = some { b with
                tail := (b.tail + 64 * min m free) % b.size
                fill := b.fill + 64 * min m free } ∧
              (free < m → t = State.back { u with units := t.units, pairs := t.pairs } s ∧
                ringAt t p q true = { r with taken := r.taken + 64 * free }) ∧
              (m ≤ free → (ringAt t p q true).taken = 0 ∨ (ringAt t p q true).en = false)) ∧
          (∀ w, u.bufOk x .store a n = false → u.writeVA (c none) 0 none (descriptorAt r + 18) (writtenBack 0 2 u.tim) = .ok ⟨⟩ w → w.pairs = s.pairs →
            ∃ t, exec (.frameReceive p q header payload true) s = .next t ∧ ringMovedOn w t p q true r d r.asid part ∧
              KMap.get 0 t.telemetry tmRing = KMap.get 0 w.telemetry tmRing + 1)))) ∧
    -- CXL_PORT_DOWN
    (∀ i up, ∃ t, exec (.cxlPortDown i up) s = .next t ∧ t = { s with cxlDown := t.cxlDown } ∧
      ∀ j, KMap.get false t.cxlDown j = if j = i then !up else KMap.get false s.cxlDown j)

/-! ### Management, partitions and registers (R50, R98-R100, R110-R119, R121, R128) -/

namespace Sys2Proof.Claims

/-- A partition that a start or a new identity need not wait for (R112). -/
def settledPart (x : Partition) : Prop := x.st = .quiesced ∨ x.st = .off ∨ x.st = .revoked
/-- Bytes of host memory from `a`. -/
def hostBytes (s : State) (a n : Nat) : List Byte := (List.range n).map (fun i => KMap.get 0 s.host (a + i))
/-- A field of a record. -/
def fieldOf (b : List Byte) (o n : Nat) : Nat := littleEndian (fun j => b.getD (o + j) 0) n
/-- A start is under way (R112, R113, R123): partitions and their work are gone, keys are zeroised, the identity is gone, the limit is back at 3,400 W,
`%tim` is 0, and registers 0 to 10 hold the measurements of the bundle and of the fuses. -/
def startUnderWay (s t : State) (cold : Bool) (image : List Byte) : Prop :=
  t.mgst = .starting ∧ t.starting = some cold ∧ t.units = [] ∧ t.parts = [] ∧ t.plans = [] ∧ t.keys = [] ∧ t.enclaves = [] ∧ t.sessions = [] ∧
  t.tlb = [] ∧ t.fabric = [] ∧ t.peer = none ∧ t.domId = 0 ∧ t.routes = [] ∧ t.powerLimit = 3400 ∧ t.pairs = [] ∧
  (∀ i, i < 10 → t.attestReg i = sha384 (digestBytes 0 ++ digestBytes (sha384 (Config.bundlePart image i)))) ∧
  (∀ p, p < 8 → t.attestReg (16 + p) = 0) ∧ (rising s.cores → rising s.ports → t.attestReg 10 = sha384 (digestBytes 0 ++ digestBytes (sha384 (Config.fuseImage
    ((s.cores.filter (fun c => c.2.retired)).map (·.1)) ((s.stackHealth.filter (fun x => x.2.spares != 0)).map (fun x => (x.1, x.2.spares)))
    ((s.ports.filter (fun p => p.2.st == .disabled)).map (·.1)))))) ∧ t.tim = 0 ∧ t.shards = [] ∧ t.dmwrs = [] ∧
  (rising s.cores → ∀ c, t.coreOf c = { Core.reset with
    unpowered := (s.coreOf c).unpowered
    retired := (s.coreOf c).retired
    marked := (s.coreOf c).marked })
/-- A keeper image that keeps R116 for a share of `size` bytes. -/
def keeperImageGood (b : List Byte) (size : Nat) : Prop :=
  let tvec := fieldOf b 0 8
  let len := fieldOf b 16 8
  let kva := fieldOf b 24 8
  let sh := fieldOf b 32 8
  let ini := fieldOf b 40 8
  let canonical (a n : Nat) : Prop := a + n ≤ 2 ^ 56 ∨ (2 ^ 64 - 2 ^ 56 ≤ a ∧ a + n ≤ 2 ^ 64)
  fieldOf b 48 16 = 0 ∧ tvec % 8 = 0 ∧ 64 ≤ len ∧ len ≤ 2 ^ 26 ∧ kva % 4096 = 0 ∧ sh % 2 ^ 30 = 0 ∧ ini % 8 = 0 ∧ ini < len ∧ canonical kva len ∧
  canonical sh size ∧ (kva + len ≤ sh ∨ sh + size ≤ kva) ∧ 2 ^ 21 + len ≤ size - size / 8
/-- A range of `n` bytes at `a` below `top` that meets none of the used ones. -/
def freeRange (used : List (Nat × Nat)) (top a n : Nat) : Prop :=
  n ≠ 0 → a + n ≤ top ∧ ∀ r ∈ used, r.2 = 0 ∨ a + n ≤ r.1 ∨ r.1 + r.2 ≤ a
/-- A domain record that keeps R118. -/
def domainGood (b : List Byte) : Prop :=
  let port (k j : Nat) : Nat := fieldOf b (64 + 4 * k + j) 1
  fieldOf b 18 46 = 0 ∧ fieldOf b 8 8 = 0 ∧ fieldOf b 0 8 ≠ 0 ∧ fieldOf b 16 2 ≤ 1023 ∧
  (∀ k, k < 1024 → ∀ j, j < 4 → (port k j < 36 ∨ port k j = 255) ∧ ∀ i, i < j → port k i = port k j → port k i = 255) ∧
  ∀ j, j < 4 → port (fieldOf b 16 2) j = 255
end Sys2Proof.Claims

/-- R112-R119, R128: a command written while the device starts or updates ends BUSY, and else each ends as its rule says: starts clear the package,
partitions are created and removed, a controller is updated in place, and the power limit and the domain are set.
The places of a new partition's tables are the model's (log entry 20). -/
def Obligations.ManagementCommandsEndAsRuled : Prop :=
  ∀ (s : State),
    let awake : State := { s with idle := .active }
    let image := hostBytes s s.mgimga.toNat s.mgimgl.toNat
    let ends (r : Nat) : Host.Outcome State Fault Refusal := .next { awake with mgres := r }
    let free := s.mgst ≠ .starting ∧ s.mgst ≠ .updating
    let settled := ∀ e ∈ s.parts, settledPart e.2
    (¬free → ∀ f c p, exec (.coldStart f) s = ends 1 ∧ exec (.warmStart f) s = ends 1 ∧ exec (.liveUpdate c) s = ends 1 ∧
      exec (.createPartition p) s = ends 1 ∧ exec (.removePartition p) s = ends 1 ∧ exec .setPowerLimit s = ends 1 ∧ exec (.setDomain f) s = ends 1) ∧
    (free →
      -- COLD_START and WARM_START
      (∀ f, s.mgst = .safe → exec (.warmStart f) s = ends 5) ∧
      (¬settled → exec (.coldStart false) s = ends 4 ∧ (s.mgst ≠ .safe → exec (.warmStart false) s = ends 4)) ∧
      (∀ f, (f = true ∨ settled) → (∀ p, p < 8 → ∀ x ∈ (s.partOf p).passes, x.recorded = true) →
        (∃ t, exec (.coldStart f) s = .next t ∧ startUnderWay s t true image) ∧
        (s.mgst ≠ .safe → ∃ t, exec (.warmStart f) s = .next t ∧ startUnderWay s t (!s.calibrated) image)) ∧
      (∀ f, f = true ∨ settled → ∃ t, exec (.coldStart f) s = .next t ∧ t.mgst = .starting ∧ t.parts = [] ∧ t.units = []) ∧
      -- LIVE_UPDATE
      (∀ c, (s.mgst = .ready → c ≤ 6 → exec (.liveUpdate c) s = .next { awake with mgst := .updating, updating := some (c, image) }) ∧
        (s.mgst ≠ .ready ∨ 6 < c → exec (.liveUpdate c) s = ends 5)) ∧
      -- CREATE_PARTITION
      (∀ p, (7 < p ∨ (s.partOf p).st ≠ .off → exec (.createPartition p) s = ends 6) ∧
        (p ≤ 7 → (s.partOf p).st = .off →
          let r := hostBytes s s.mgimga.toNat 64
          let size := fieldOf r 12 4 * 2 ^ 30
          let cx := fieldOf r 8 4 * 2 ^ 30
          let named := (List.range 384).filter (fun c => (fieldOf r 16 48).testBit c)
          let taken (c : Nat) : Prop := (s.coreOf c).retired = true ∨ (s.coreOf c).unpowered = true ∨ ∃ q, q < 8 ∧ c ∈ (s.partOf q).cores
          let b := hostBytes s (s.mgimga.toNat + 64) (s.mgimgl.toNat - 64)
          let shares := s.parts.map (fun q => (q.2.shareBase, q.2.shareSize))
          let wide := s.parts.map (fun q => (q.2.cxlBase, q.2.cxlSize))
          ((s.mgst ≠ .ready ∨ named = [] ∨ (∃ c ∈ named, taken c) ∨ size = 0) → exec (.createPartition p) s = ends 5) ∧
          (s.mgst = .ready → named ≠ [] → (∀ c ∈ named, ¬taken c) → size ≠ 0 → s.mgimgl.toNat ≤ 2 ^ 26 + 64 →
            (gapFor 0 hbmBytes shares size = none ∨ gapFor 0 (min Config.cxlGiB 3072 * 2 ^ 30) wide cx = none → exec (.createPartition p) s = ends 5) ∧
            (∀ sh cb, gapFor 0 hbmBytes shares size = some sh → gapFor 0 (min Config.cxlGiB 3072 * 2 ^ 30) wide cx = some cb →
              freeRange shares hbmBytes sh size ∧ freeRange wide (min Config.cxlGiB 3072 * 2 ^ 30) cb cx ∧
              (¬(keeperImageGood b size ∧ s.mgimgl.toNat = 64 + fieldOf b 16 8) → exec (.createPartition p) s = ends 2) ∧
              (keeperImageGood b size → s.mgimgl.toNat = 64 + fieldOf b 16 8 → ∃ t x u, exec (.createPartition p) s = .next t ∧
                t.mgst = .updating ∧ t.partOf p = x ∧ x.cores = named ∧ x.remap = named ∧ x.shareBase = sh ∧ x.shareSize = size ∧ x.cxlBase = cb ∧
                x.cxlSize = cx ∧ x.tvec = BitVec.ofNat 64 (fieldOf b 0 8) ∧ x.gatebase = BitVec.ofNat 64 (fieldOf b 8 8) ∧ x.enclave = 0 ∧
                x.passes = [] ∧ (∀ q, q ≠ p → t.partOf q = s.partOf q) ∧ x.initUid = s.nextUid ∧
                t.attestReg (16 + p) = sha384 (digestBytes (s.attestReg (16 + p)) ++ digestBytes (sha384 b)) ∧
                t.unitOf s.nextUid = u ∧ u.live = true ∧ u.initial = true ∧ u.part = p ∧ u.asid = 0 ∧ u.rv = 1 ∧ u.loftSize = 0 ∧ u.place = .running ∧
                u.core = named.headD 0 ∧ (t.coreOf u.core).running = some s.nextUid ∧
                (u.reeveOf 0).pc = BitVec.ofNat 64 (fieldOf b 24 8 + fieldOf b 40 8) ∧ (u.reeveOf 0).mode = .keeper ∧ (u.reeveOf 0).started = true ∧ (u.reeveOf 0).budget = 0 ∧
                (u.reeveOf 0).mask = 0 ∧ (u.sheafOf 0).vt = 0 ∧
                ∀ n, KMap.get 0 (u.reeveOf 0).g n = match n with
                  | 1 => BitVec.ofNat 64 p
                  | 3 => BitVec.ofNat 64 sh
                  | 4 => BitVec.ofNat 64 size
                  | _ => 0))))) ∧
      -- REMOVE_PARTITION
      (∀ p, (7 < p ∨ (s.partOf p).st = .off → exec (.removePartition p) s = ends 6) ∧
        (p ≤ 7 → (s.partOf p).st ∈ [.active, .quiescing] → exec (.removePartition p) s = ends 4) ∧
        (p ≤ 7 → (s.partOf p).st ∈ [.quiesced, .revoked] → ∃ t, exec (.removePartition p) s = .next t ∧ t.mgres = 0 ∧
          t.partOf p = { Partition.off with pcseq := (s.partOf p).pcseq } ∧ (∀ q, q ≠ p → t.partOf q = s.partOf q) ∧ (∀ x ∈ t.plans, x.part ≠ p) ∧
          (rising s.units → ∀ e ∈ t.units, e.2.live = true → e.2.part ≠ p) ∧
          ((s.partOf p).enclave ≠ 0 → (∀ e ∈ t.enclaves, e.key = 0) ∧ ∀ e ∈ s.enclaves, e.key ≠ 0 → e.slot ≠ 0 → KMap.get 0 t.keys e.slot = 0))) ∧
      -- SET_POWER_LIMIT
      (let w := s.mgimgl.toNat
       (1800 ≤ w ∧ w ≤ 3400 ∧ w % 50 = 0 → exec .setPowerLimit s = .next { awake with powerLimit := w, mgres := 0 }) ∧
       (¬(1800 ≤ w ∧ w ≤ 3400 ∧ w % 50 = 0) → exec .setPowerLimit s = ends 5)) ∧
      -- SET_DOMAIN
      (∀ f, (s.mgimgl.toNat ≠ 4160 ∨ ¬domainGood image → exec (.setDomain f) s = ends 2) ∧
        (s.mgimgl.toNat = 4160 → domainGood image →
          let dom : Word := BitVec.ofNat 64 (fieldOf image 0 8)
          let same := s.domId = dom ∧ s.peer = some (fieldOf image 16 2)
          let routed (t : State) : Prop := ∀ k, k < 1024 → KMap.get 0xFFFFFFFF t.routes k = BitVec.ofNat 32 (fieldOf image (64 + 4 * k) 4)
          (same → ∃ t, exec (.setDomain f) s = .next t ∧ t.mgres = 0 ∧ routed t ∧ t.domId = s.domId ∧ t.peer = s.peer ∧
            ∀ i, (t.portOf i).st = (s.portOf i).st) ∧
          (¬same → f = false → ¬settled → exec (.setDomain f) s = ends 4) ∧
          (¬same → (f = true ∨ settled) → ∃ t, exec (.setDomain f) s = .next t ∧ t.mgres = 0 ∧ routed t ∧ t.domId = dom ∧
            t.peer = some (fieldOf image 16 2) ∧
            (rising s.ports → ∀ i, (t.portOf i).st = if (s.portOf i).st = .up then .confirm else (s.portOf i).st) ∧
            (f = true → ∀ p, p < 8 → ((s.partOf p).passes.map (fun y => y.seq)).Nodup → ∀ x ∈ (s.partOf p).passes, ¬passOver x →
              ∃ y, t.passAt p x.seq = some y ∧ y = { x with st := .cancelled, reason := 5, cause := 0, sends := y.sends }))))) ∧
    -- START_COMPLETION
    (∀ ok, s.starting = none → exec (.startCompletion ok) s = .next s) ∧
    (∀ cold, s.starting = some cold →
      (∃ t, exec (.startCompletion true) s = .next t ∧ t = { s with
          mgst := .ready, mgres := 0, starting := none, wfail := 0, cfail := 0, calibrated := true, dies := [], cores := t.cores } ∧
        (rising s.cores → ∀ c, t.coreOf c = { s.coreOf c with unpowered := false })) ∧
      (cold = true → exec (.startCompletion false) s = .next { s with
        mgres := 5, starting := none, cfail := min (s.cfail + 1) 3, mgst := if 2 ≤ s.cfail then .safe else .off }) ∧
      (cold = false → s.wfail = 0 → exec (.startCompletion false) s = .next { s with mgres := 5, starting := none, wfail := 1, mgst := .off }) ∧
      (cold = false → s.wfail ≠ 0 → ∃ t, exec (.startCompletion false) s = .next t ∧ startUnderWay s t true image ∧ t.wfail = min (s.wfail + 1) 3)) ∧
    -- UPDATE_COMPLETION
    (s.updating = none → exec .updateCompletion s = .next s) ∧
    (∀ c b, s.updating = some (c, b) → c ≤ 6 →
      -- the controller goes on: the launches that waited for it are taken
      let done (r : Nat) (a : KMap (BitVec 384)) : Prop :=
        let u : State := { s with mgst := .ready, mgres := r, updating := none, dmwrs := [], attest := a }
        ∃ t, exec .updateCompletion s = .next t ∧ t = { u with parts := t.parts, sent := t.sent } ∧ (s.dmwrs = [] → t = u) ∧
          ∀ p rec, p < 8 → s.idle = .active → s.dmwrs = [(p, rec)] → exec (.launchDmwr p rec) u = .next t
      let new := sha384 (digestBytes (s.attestReg (3 + c)) ++ digestBytes (sha384 b))
      let all := sha384 ((List.range 7).flatMap (fun k => digestBytes (if k = c then new else s.attestReg (3 + k))))
      let allowed := ∀ e ∈ s.enclaves, KMap.get 0 s.keys e.slot ≠ 0 → s.attestReg 2 = e.policy.getD 1 0 ∧ all = e.policy.getD 2 0
      (Config.imageSigned b = false → done 2 s.attest) ∧
      (Config.imageSigned b = true → Config.imageVersion b < s.svn → done 3 s.attest) ∧
      (Config.imageSigned b = true → s.svn ≤ Config.imageVersion b → ¬allowed → done 2 s.attest) ∧
      (Config.imageSigned b = true → s.svn ≤ Config.imageVersion b → allowed →
        ∃ a, done 0 a ∧ ∀ k, KMap.get 0 a k = if k = 3 + c then new else s.attestReg k)) ∧
    -- PACKAGE_POWER_LOSS
    (∃ t, exec .packagePowerLoss s = .next t ∧ t.mgst = .off ∧ t.calibrated = false ∧ t.units = [] ∧ t.parts = [] ∧ t.hbm = [] ∧ t.cxl = [] ∧ t.keys = [] ∧
      t.ports = [] ∧ t.host = s.host ∧ t.svn = s.svn ∧ t.powerLimit = 3400 ∧ (rising s.cores → ∀ c, (t.coreOf c).retired = (s.coreOf c).retired))

/-- R98-R100, R105, R106, R110-R112, R114, R35, R49, R50, R121: a register write commands, sets what its register holds, or is dropped, by who writes it
and whether the device is in SAFE.
The numbers of root settings are the model's (log entry 21). -/
def Obligations.RegisterWritesActByWriter : Prop :=
  ∀ (s : State) (off : Nat) (w : Word),
    let awake : State := { s with idle := .active }
    let p := off / 2 ^ 20
    let reg := off % 2 ^ 20
    let write (who : Writer) (bar : Nat) : Host.Outcome State Fault Refusal := exec (.registerWrite who bar off w) s
    -- BAR 0: launch windows and partition control registers
    (∀ who, who ≠ .root →
      (reg < 64 → ∃ t, write who 0 = .next t ∧ sends awake t (.unsupported p)) ∧
      (64 ≤ reg → (s.mgst = .safe ∨ 8 ≤ p) → write who 0 = .next awake) ∧
      (s.mgst ≠ .safe → p < 8 →
        (reg = 0x1008 → write who 0 = if w.getLsbD 0 = true then exec (.quiesceSet p w) s else exec (.quiesceClear p w) s) ∧
        (reg = 0x1010 → write who 0 = exec (.pccancel p w) s) ∧ (reg = 0x1018 → write who 0 = exec (.triggerDoorbell p w) s) ∧
        (64 ≤ reg → reg ∉ [0x1008, 0x1010, 0x1018, 0x1020, 0x1028, 0x1030] → write who 0 = .next awake) ∧
        (reg ∈ [0x1020, 0x1028, 0x1030] → who = .host → write who 0 = .next awake) ∧
        (who = .keeper → reg ∈ [0x1020, 0x1028, 0x1030] → ∃ t, write who 0 = .next t ∧ t = { awake with parts := t.parts } ∧
          (∀ q, q ≠ p → t.partOf q = s.partOf q) ∧ t.partOf p = { s.partOf p with
            pcexpb := if reg = 0x1020 then w else (s.partOf p).pcexpb
            pcexpc := if reg = 0x1028 then w &&& 0x1FFFFFF else (s.partOf p).pcexpc
            pcsym := if reg = 0x1030 then w &&& 0x800000000000FFFF else (s.partOf p).pcsym }))) ∧
    -- BAR 4: management registers and diagnostics, for the host alone; BAR 2 is read-only
    (off = 0 → let id := w.toNat / 2 ^ 8 % 2 ^ 8
      let force := w.getLsbD 16
      ∀ c i, (c, i) ∈ [(1, Instr.coldStart force), (2, .warmStart force), (3, .liveUpdate id), (4, .createPartition id), (5, .removePartition id),
        (6, .setPowerLimit), (7, .setDomain force)] → w.toNat % 2 ^ 8 = c → write .host 4 = exec i s) ∧
    (off = 0x10 → write .host 4 = .next { awake with mgimga := w }) ∧ (off = 0x18 → write .host 4 = .next { awake with mgimgl := w }) ∧
    (0x8000 ≤ off → off + 8 ≤ 0x10000 → ∃ t, write .host 4 = .next t ∧ t = { awake with bar4 := t.bar4 } ∧ holds s.bar4 t.bar4 off 8 w.toNat) ∧
    write .keeper 4 = .next s ∧ write .keeper 2 = .next s ∧ write .host 2 = .next s ∧
    -- the LTR capability (log 21), which ends an idle state that no longer fits
    (let least := min (w.toNat % 2 ^ 32) (w.toNat / 2 ^ 32 % 2 ^ 31)
     let latency : Nat := match s.idle with | .active => 0 | .i1 => 2000 | .i2 => 20000 | .i3 => 2000000
     ∃ t, write .host 8 = .next t ∧ t = { s with ltr := t.ltr, idle := t.idle } ∧
       t.ltr = (if w.getLsbD 63 = true then none else some (w.toNat % 2 ^ 32, w.toNat / 2 ^ 32 % 2 ^ 31)) ∧
       t.idle = if w.getLsbD 63 = true ∨ least < latency then .active else s.idle) ∧
    -- the settings of root firmware (log 21)
    (off < 1024 → ∃ t, write .root 0 = .next t ∧ t = { s with pairs := t.pairs } ∧
      KMap.get QPair.reset t.pairs off = { KMap.get QPair.reset s.pairs off with part := if w.toNat < 8 then w.toNat else 8 }) ∧
    (off < 16 → ∃ t, write .root 1 = .next t ∧ t = { s with ethSlow := t.ethSlow } ∧ KMap.get false t.ethSlow off = w.getLsbD 0) ∧
    (∃ t, write .root 2 = .next t ∧ t = { s with hbmRetired := t.hbmRetired } ∧ KMap.get false t.hbmRetired off = w.getLsbD 0) ∧
    (off < 384 → ∃ t, write .root 3 = .next t ∧ t = { s with cores := t.cores } ∧ t.coreOf off = { s.coreOf off with marked := w.getLsbD 0 }) ∧
    (off < 128 → ∃ t, write .root 4 = .next t ∧ t = { s with pfc := t.pfc } ∧ ∀ k, KMap.get false t.pfc k = if k = off then w.getLsbD 0 else KMap.get false s.pfc k) ∧
    (off < 9 → ∃ t, write .root 5 = .next t ∧ t = { s with ide := t.ide } ∧ KMap.get false t.ide off = w.getLsbD 0) ∧
    (off < 8 → ∃ t, write .root 6 = .next t ∧ t = { s with tdi := t.tdi } ∧ KMap.get false t.tdi off = w.getLsbD 0)

/-! ### Power, reliability and idle states (R30-R36, R110, R111, R120-R122) -/

/-- R30-R35, R110, R111, R120-R122: a die's clock follows the lower of its two requests, a critical trip ends the passes placed there, HBM stacks refresh,
scrub, spare and recalibrate, a core retires to others of its partition, and the device goes idle and wakes.
The points of R30 and R33 of log entry 25 and the occurrences (log entry 23) are the model's choices. -/
def Obligations.PowerAndReliabilityEvents : Prop :=
  ∀ (s : State) (d : Nat),
    let x := KMap.get Die.reset s.dies d
    let up := min (x.mhz + 50) 1700
    let down := if x.mhz < 650 then 600 else x.mhz - 50
    -- a die trips
    let trips (t : State) : Prop :=
      (KMap.get Die.reset t.dies d).tripped = true ∧ (∀ e, e ≠ d → KMap.get Die.reset t.dies e = KMap.get Die.reset s.dies e) ∧
      (∀ c, 64 * d ≤ c → c < 64 * d + 64 → (t.coreOf c).unpowered = true) ∧
      (∀ e ∈ s.enclaves, (∀ u ∈ s.units, u.2.initial = false) → e.key ≠ 0 → e.slot ≠ 0 → KMap.get 0 t.keys e.slot = 0) ∧
      (rising s.units → (∀ u ∈ s.units, u.2.initial = false) → ∀ u ∈ s.units, u.2.live = true → u.2.core / 64 = d → u.2.place ≠ .over →
        ∀ y, s.passAt u.2.part (passSeq u.2.passId) = some y → (y.st = .placed ∨ y.st = .running) →
          t.passAt u.2.part (passSeq u.2.passId) = some { y with st := .faulted, reason := 0, cause := 0x13 }) ∧
      -- what a parked unit had in the die's shadow storage or lofts is lost
      (rising s.units → (∀ u ∈ s.units, u.2.initial = false) → ∀ u ∈ s.units, u.2.live = true → u.2.core / 64 = d →
        ((u.2.place = .ready ∨ u.2.place = .preempted) ∧ u.2.ctxCheck = [] ∨
          (u.2.place = .ready ∨ u.2.place = .preempted ∨ u.2.place = .faulted) ∧ u.2.loftResident = true ∧ u.2.loftSize ≠ 0) →
        (t.unitOf u.1).ctxBad = 6)
    -- POWER_INTERVAL and CRITICAL_TRIP
    (∀ temp, d < 6 → x.tripped = false →
      (115 ≤ temp → ∃ t, exec (.powerInterval d temp) s = .next t ∧ trips t) ∧
      (temp < 115 →
        let hot := if temp < 90 then up else if temp < 95 then x.mhz else if temp < 105 then down else 600
        let power := if x.share < x.avg then down else if x.avg * 100 < x.share * 95 ∧ x.pkgAvg * 100 < s.powerLimit * 95 then up else x.mhz
        ∃ t, exec (.powerInterval d temp) s = .next t ∧ t = { s with dies := t.dies } ∧ KMap.get Die.reset t.dies d = { x with mhz := min hot power } ∧
          ∀ e, e ≠ d → KMap.get Die.reset t.dies e = KMap.get Die.reset s.dies e) ∧
      ∃ t, exec (.criticalTrip d) s = .next t ∧ trips t) ∧
    (∀ temp, (6 ≤ d ∨ x.tripped = true) → exec (.powerInterval d temp) s = .next s ∧ exec (.criticalTrip d) s = .next s) ∧
    -- POWER_SHARE
    (∀ aside demand pkg, ∃ t, exec (.powerShare aside demand pkg) s = .next t ∧ t = { s with dies := t.dies } ∧
      (let got (e : Nat) : Nat := (KMap.get Die.reset t.dies e).share
       aside ≤ s.powerLimit → aside + (got 0 + got 1 + got 2 + got 3 + got 4 + got 5) ≤ s.powerLimit) ∧
      (d < 6 → KMap.get Die.reset t.dies d = { x with
        avg := demand.getD d 0
        pkgAvg := pkg
        share :=
          let total := demand.getD 0 0 + demand.getD 1 0 + demand.getD 2 0 + demand.getD 3 0 + demand.getD 4 0 + demand.getD 5 0
          if total = 0 then (s.powerLimit - aside) / 6 else (s.powerLimit - aside) * demand.getD d 0 / total })) ∧
    -- HBM_THERMAL, PATROL_SCRUB, ROW_SPARE, HBM_RECALIBRATE on stack `d`
    (∀ k, d < 12 →
      let h := KMap.get Stack.reset s.stackHealth d
      let stackIs (t : State) (y : Stack) : Prop := t = { s with stackHealth := t.stackHealth, telemetry := t.telemetry } ∧
        KMap.get Stack.reset t.stackHealth d = y ∧ ∀ e, e ≠ d → KMap.get Stack.reset t.stackHealth e = KMap.get Stack.reset s.stackHealth e
      (∃ t, exec (.hbmThermal d k) s = .next t ∧ t.telemetry = s.telemetry ∧ stackIs t { h with
        doubleRefresh := decide (95 ≤ k), halfBandwidth := if k < 100 then false else if 105 ≤ k then true else h.halfBandwidth }) ∧
      (∃ t, exec (.patrolScrub d k) s = .next t ∧ stackIs t { h with scrubbed := k } ∧ counts s t tmPatrol 1) ∧
      (∃ t, exec (.hbmRecalibrate d k) s = .next t ∧ t.telemetry = s.telemetry ∧ stackIs t { h with recal := k }) ∧
      (h.spares < Config.spareRows d → ∃ t, exec (.rowSpare d k) s = .next t ∧ t.telemetry = s.telemetry ∧ stackIs t { h with spares := h.spares + 1 }) ∧
      (Config.spareRows d ≤ h.spares → ∃ t, exec (.rowSpare d k) s = .next t ∧
        sends { s with telemetry := t.telemetry, rowReports := t.rowReports } t (.msix 0) ∧ counts s t tmRow 1 ∧
        ∀ f, f ∈ t.rowReports ↔ f ∈ s.rowReports ∨ f ∈ Config.rowFrames d k)) ∧
    -- CORE_RETIRE of core `d`
    (let c := s.coreOf d
     ((c.running ≠ none ∨ c.routine ≠ none ∨ c.wq ≠ [] ∨ c.retired = true ∨ 384 ≤ d) → exec (.coreRetire d) s = .next s) ∧
     (d < 384 → c.running = none → c.routine = none → c.wq = [] → c.retired = false →
       ((∀ p, p < 8 → d ∉ (s.partOf p).cores) → ∃ t, exec (.coreRetire d) s = .next t ∧ t = { s with cores := t.cores } ∧
         t.coreOf d = { c with retired := true, marked := false, preloaded := none, preloadPass := none }) ∧
       (∀ p, p < 8 → d ∈ (s.partOf p).cores → (∀ q, q < p → d ∉ (s.partOf q).cores) →
         let l := (s.partOf p).cores.filter (fun e => e != d && !(s.coreOf e).retired && !(s.coreOf e).unpowered)
         (l = [] → exec (.coreRetire d) s = .next s) ∧
         (l ≠ [] → ∃ t, exec (.coreRetire d) s = .next t ∧ (t.coreOf d).retired = true ∧ (t.coreOf d).marked = false ∧
           (t.partOf p).cores = (s.partOf p).cores.filter (· != d) ∧ (t.partOf p).remap.length = (s.partOf p).remap.length ∧
           (∀ k, k < (s.partOf p).remap.length → (t.partOf p).remap.getD k 0 =
             if (s.partOf p).remap.getD k 0 = d then l.getD (k % l.length) 0 else (s.partOf p).remap.getD k 0) ∧
           (rising s.units → ∀ u ∈ s.units, tasksKept s t u.1 ∧ (t.unitOf u.1).core =
             if u.2.live = true ∧ u.2.core = d ∧ u.2.part = p then l.getD (u.2.slot % l.length) 0 else u.2.core))))) ∧
    -- IDLE_ENTRY and IDLE_WAKE
    (exec .idleWake s = .next { s with idle := .active }) ∧
    (s.ltr = none ∨ s.quiet = false → exec (.idleEntry d) s = .next s) ∧
    (∀ l, s.ltr = some l → s.quiet = true → ∃ t, exec (.idleEntry d) s = .next t ∧ t = { s with idle := t.idle } ∧
      let fits (n : Nat) : Prop := n ≤ min l.1 l.2 ∧ n ≤ d
      let noneUp := ∀ e ∈ s.ports, e.2.st ≠ .up
      (fits 2000000 → noneUp → t.idle = .i3) ∧ (fits 20000 → ¬(fits 2000000 ∧ noneUp) → t.idle = .i2) ∧
      (fits 2000 → ¬fits 20000 → t.idle = .i1) ∧ (¬fits 2000 → t.idle = .active)) ∧
    (s.quiet = true → (∀ e ∈ s.parts, ∀ y ∈ e.2.passes, y.recorded = true) ∧ (∀ e ∈ s.cores, e.2.wq = [] ∧ e.2.routine = none)) ∧
    -- occurrences (log 23): a lost line, a failed replay, and the host's reads
    (∀ n, 64 * n < 12 * 2 ^ 36 → let t := State.occur s (.line false n)
      t = { s with hbmPoison := t.hbmPoison, telemetry := t.telemetry } ∧ ∀ k, KMap.get false t.hbmPoison k = if k = n then true else KMap.get false s.hbmPoison k) ∧
    (∀ uid r, let u := s.unitOf uid
      u.live = true → u.place = .running → r < u.rv → (u.reeveOf r).started = true → (u.reeveOf r).ended = false → (u.reeveOf r).wait = none →
      ∃ v : State, v = { s with telemetry := v.telemetry, cores := v.cores, uid := uid, who := .reeve r, eng := none } ∧ (v.coreOf u.core).marked = true ∧
        (∀ c, c ≠ u.core → v.coreOf c = s.coreOf c) ∧ State.occur s (.replay uid (.reeve r) false) = (v.takeTrap (tr 0x13 3 0)).back s) ∧
    (∀ off, let reads (bar : Nat) (w : Word) : Prop := State.occur s (.hostRead bar off) = { s with idle := .active, sent := s.sent ++ [.hostData bar off w] }
      (off < 2 ^ 23 → off % 2 ^ 20 < 64 → State.occur s (.hostRead 0 off) = { s with idle := .active, sent := s.sent ++ [.unsupported (off / 2 ^ 20)] }) ∧
      (2 ^ 23 ≤ off → reads 0 0) ∧ (off = 0 → reads 4 0) ∧ (off = 0x10 → reads 4 s.mgimga) ∧ (off = 0x18 → reads 4 s.mgimgl) ∧
      (off = 8 → reads 4 (BitVec.ofNat 64 ((match s.mgst with | .off => 0 | .starting => 1 | .ready => 2 | .updating => 3 | .safe => 4) +
        16 * (s.mgres % 16) + 2 ^ 8 * (s.wfail % 4) + 2 ^ 10 * (s.cfail % 4)))) ∧
      (off ∉ [0, 8, 0x10, 0x18] → (off < 0x8000 ∨ 0x10000 < off + 8) → reads 4 0))

/-! ### The security controller (R106, R123-R131) -/

namespace Sys2Proof.Claims
/-- The member entries of a record that name this package. -/
def membersHere (s : State) (l : List (BitVec 32)) : List (BitVec 32) := l.filter (fun m => s.peer == some (m.toNat % 2 ^ 12))
/-- The partition of a member entry. -/
def memberPart (m : BitVec 32) : Nat := m.toNat / 2 ^ 12 % 8
/-- The participant of a member entry. -/
def participant (m : BitVec 32) : Nat := m.toNat / 2 ^ 16 % 16
/-- What a partner is told in its session: `plain` under AES-256-GCM, with the number of the message as IV (R124, log 10). -/
def securedTo (s : State) (partner : Nat) (plain : List Byte) : Msg :=
  let key := KMap.get 0 s.sessions partner
  let iv := BitVec.ofNat 96 (KMap.get 0 s.sessionSeq partner)
  .secured partner (gcmCipher key iv plain) (gcmTag key iv [] (gcmCipher key iv plain))
/-- From `s` to `t` a partner was answered: in its session where it has one, else in the open. -/
def tells (s t : State) (partner : Nat) (m : Msg) (plain : List Byte) : Prop :=
  (KMap.get 0 s.sessions partner = 0 → sends s t m) ∧
  (KMap.get 0 s.sessions partner ≠ 0 → sends { s with sessionSeq := t.sessionSeq } t (securedTo s partner plain) ∧
    ∀ k, KMap.get 0 t.sessionSeq k = KMap.get 0 s.sessionSeq k + if k = partner then 1 else 0)
/-- A policy's digests and the registers of a package meet for a member partition (R125). -/
def policyMet (b : List Byte) (reg : Nat → BitVec 384) (p : Nat) : Prop :=
  reg 1 = BitVec.ofNat 384 (fieldOf b 64 48) ∧ reg 2 = BitVec.ofNat 384 (fieldOf b 112 48) ∧
  sha384 ((List.range 7).flatMap (fun k => digestBytes (reg (3 + k)))) = BitVec.ofNat 384 (fieldOf b 160 48) ∧
  reg (16 + p) = BitVec.ofNat 384 (fieldOf b 208 48)
/-- Signatures of participants `j` of `e`, in increasing index, over `h`: `j` lists who signed. -/
def signedBy (e : Enclave) (h : BitVec 384) (g : List (BitVec 768)) (j : List Nat) : Prop :=
  j.length = g.length ∧ j.Pairwise (· < ·) ∧ ∀ k, k < g.length → j.getD k 0 < e.points.length ∧
    ecdsaVerify (e.points.getD (j.getD k 0) 0) h (g.getD k 0) = true
end Sys2Proof.Claims

/-- R123-R131, R106: measurements are returned, a session draws its key, an enclave forms where every check passes and else no key is kept, and a
revocation signed by a quorum revokes the victim's partitions or cuts its peers off.
Keys, image formats and the framing of session messages are the model's (log entry 10). -/
def Obligations.SecurityControllerRecords : Prop :=
  ∀ (s : State),
    -- GET_MEASUREMENTS and SECURE_SESSION
    (∀ k i, i ≤ 10 ∨ (16 ≤ i ∧ i ≤ 23) →
      let v := KMap.get 0 s.attest i
      let block := (BitVec.ofNat 8 i : Byte) :: digestBytes v
      let g := Config.identitySign block
      ∃ t, exec (.getMeasurements ⟨k, i⟩) s = .next t ∧ tells s t k (.measurement k i v g) (block ++ (List.range 96).map (byteOf g.toNat))) ∧
    (∀ k i, (10 < i ∧ i < 16) ∨ 23 < i → exec (.getMeasurements ⟨k, i⟩) s = .next s) ∧
    (∀ k (q : BitVec 768), let own := Config.ecdhePoint s.fresh
      ∃ t, exec (.secureSession k q) s = .next t ∧
        sends { s with sessions := t.sessions, sessionSeq := t.sessionSeq, fresh := t.fresh } t (.session k own
          (Config.identitySign ((List.range 96).map (byteOf q.toNat) ++ (List.range 96).map (byteOf own.toNat))) Config.certChain) ∧
        KMap.get 0 t.sessions k = Config.ecdheKey s.fresh q ∧ KMap.get 0 t.sessionSeq k = 0 ∧
        ∀ j, j ≠ k → KMap.get 0 t.sessions j = KMap.get 0 s.sessions j) ∧
    -- ENCLAVE_RECORD
    (∀ p b (blocks : List (Nat × List (BitVec 384))) (key : BitVec 256),
      let np := fieldOf b 6 1
      let point (j : Nat) : BitVec 768 := BitVec.ofNat 768 (fieldOf b (256 + 96 * j) 96)
      let len := 256 + 96 * np + 4 * fieldOf b 7 1
      let members := (List.range (fieldOf b 7 1)).map (fun k => BitVec.ofNat 32 (fieldOf b (256 + 96 * np + 4 * k) 4))
      let here := membersHere s members
      -- member entry 0's controller attests the others; those take the key from it in a session
      let first := s.peer = some ((members.headD 0).toNat % 2 ^ 12)
      let others (k : Nat) : Prop := s.peer ≠ some k ∧ ∃ m ∈ members, m.toNat % 2 ^ 12 = k
      let agreed := (first → s.attests b blocks = true) ∧ (¬first → key ≠ 0 ∧ KMap.get 0 s.sessions ((members.headD 0).toNat % 2 ^ 12) ≠ 0)
      (KMap.get 0 s.sessions (4096 + p) = 0 ∨ s.enclaveOk b = false ∨ ¬agreed →
        ∃ t, exec (.enclaveRecord p b ⟨blocks, key⟩) s = .next t ∧ tells s t (4096 + p) (.enclaveAnswer false) [0]) ∧
      (s.attests b blocks = true → ∀ k, others k → KMap.get 0 s.sessions k ≠ 0 ∧ ∃ x ∈ blocks, x.1 = k ∧
        ∀ m ∈ members, m.toNat % 2 ^ 12 = k → policyMet b (fun i => x.2.getD i 0) (memberPart m)) ∧
      -- what the checks of R127 ask
      (s.enclaveOk b = true → b.length = len + 96 * np ∧ 1 ≤ np ∧ np ≤ 16 ∧ fieldOf b 0 2 ≠ 0 ∧ fieldOf b 8 8 = 0 ∧ here ≠ [] ∧
        KMap.get 0 s.keys (fieldOf b 4 1) = 0 ∧ 1 ≤ fieldOf b 4 1 ∧ fieldOf b 4 1 ≤ 15 ∧
        (∀ j, j < np → ecdsaVerify (point j) (sha384 (b.take len)) (BitVec.ofNat 768 (fieldOf b (len + 96 * j) 96)) = true) ∧
        ∀ m ∈ here, (s.partOf (memberPart m)).st = .active ∧ (s.partOf (memberPart m)).openPasses = 0 ∧ (∀ e ∈ s.enclaves, e.key ≠ 0 → e.id ≠ (s.partOf (memberPart m)).enclave) ∧
          policyMet b (fun i => KMap.get 0 s.attest i) (memberPart m) ∧ ∀ n ∈ here, participant n = participant m) ∧
      (KMap.get 0 s.sessions (4096 + p) ≠ 0 → s.enclaveOk b = true → agreed → ∃ t e l, exec (.enclaveRecord p b ⟨blocks, key⟩) s = .next t ∧
        t.enclaves = l ++ [e] ∧ (∀ x ∈ l, x ∈ s.enclaves ∧ x.id ≠ e.id) ∧ e.id = fieldOf b 0 2 ∧ e.slot = fieldOf b 4 1 ∧ e.epoch = 0 ∧
        e.quorum = fieldOf b 5 1 ∧ e.members = members ∧ e.points = (List.range np).map point ∧ e.revoked = [] ∧
        (first → e.key = Config.freshKey s.fresh ∧ ∀ k, others k → securedTo s k ((List.range 32).map (byteOf e.key.toNat)) ∈ t.sent) ∧
        (¬first → e.key = key) ∧ KMap.get 0 t.keys e.slot = e.key ∧ (∀ j, j ≠ e.slot → KMap.get 0 t.keys j = KMap.get 0 s.keys j) ∧
        (∀ q, t.partOf q = if ∃ m ∈ here, memberPart m = q then { s.partOf q with enclave := e.id } else s.partOf q) ∧
        ∃ l, t.sent = s.sent ++ l ++ [securedTo s (4096 + p) [1]])) ∧
    -- REVOCATION_RECORD
    (∀ p b k, (∀ e ∈ s.enclaves, e.id ≠ fieldOf b 0 2) →
      (∃ t, exec (.revocationRecord ⟨p, none, b⟩) s = .next t ∧ tells s t (4096 + p) (.enclaveAnswer false) [0]) ∧
      exec (.revocationRecord ⟨p, some k, b⟩) s = .next s) ∧
    (∀ p by' b e, s.enclaves.find? (fun x => x.id == fieldOf b 0 2) = some e →
      -- from the host in its session, or forwarded by a member's controller
      let came := match by' with
        | none => KMap.get 0 s.sessions (4096 + p) ≠ 0
        | some k => ∃ m ∈ e.members, m.toNat % 2 ^ 12 = k
      let v := fieldOf b 2 1
      let n := fieldOf b 3 1
      let g := (List.range n).map (fun k => BitVec.ofNat 768 (fieldOf b (16 + 96 * k) 96))
      let here := membersHere s e.members
      (revocationOk e b = false ∨ ¬came → (by' ≠ none → exec (.revocationRecord ⟨p, by', b⟩) s = .next s) ∧
        (by' = none → ∃ t, exec (.revocationRecord ⟨p, by', b⟩) s = .next t ∧ tells s t (4096 + p) (.enclaveAnswer false) [0])) ∧
      -- what R130 asks
      (revocationOk e b = true → fieldOf b 8 8 = e.epoch + 1 ∧ fieldOf b 4 4 = 0 ∧ n = e.quorum ∧ b.length = 16 + 96 * n ∧ v < e.points.length ∧ v ∉ e.revoked ∧
        ∃ j, signedBy e (sha384 (b.take 16)) g j ∧ ∀ i ∈ j, i ≠ v ∧ i ∉ e.revoked) ∧
      (revocationOk e b = true → came → ∃ t, exec (.revocationRecord ⟨p, by', b⟩) s = .next t ∧
        (let mine := ∃ m ∈ here, participant m = v
         t.enclaves.length = s.enclaves.length ∧ ∀ (i : Nat) (x : Enclave), s.enclaves[i]? = some x → ∃ y : Enclave, t.enclaves[i]? = some y ∧ (x.id ≠ e.id → y = x) ∧
           (x.id = e.id → (mine → y = { x with epoch := fieldOf b 8 8, revoked := v :: x.revoked, key := 0 }) ∧
             (¬mine → y = { x with epoch := fieldOf b 8 8, revoked := v :: x.revoked }))) ∧
        (by' = none → (∀ k, (∃ m ∈ e.members, m.toNat % 2 ^ 12 = k) → s.peer ≠ some k → Msg.revocation k b ∈ t.sent) ∧
          securedTo s (4096 + p) [1] ∈ t.sent) ∧
        (∀ k, by' = some k → Msg.revocationAck k ∈ t.sent) ∧
        -- the package's partitions belong to the victim
        ((∃ m ∈ here, participant m = v) → (e.slot ≠ 0 → KMap.get 0 t.keys e.slot = 0) ∧
          (∀ m ∈ here, (s.partOf (memberPart m)).enclave = e.id → (t.partOf (memberPart m)).st = .revoked ∧ (t.partOf (memberPart m)).held = [] ∧
            (((s.partOf (memberPart m)).passes.map (fun y => y.seq)).Nodup → ∀ x ∈ (s.partOf (memberPart m)).passes, ¬passOver x →
              t.passAt (memberPart m) x.seq = some { x with st := .faulted, reason := 0, cause := 0x0E })) ∧
          ∀ q, (∀ m ∈ here, memberPart m ≠ q ∨ (s.partOf q).enclave ≠ e.id) →
            t.partOf q = { s.partOf q with faults := (t.partOf q).faults }) ∧
        -- they do not: what waits for the victim's peers completes as unreachable
        ((∀ m ∈ here, participant m ≠ v) → t.keys = s.keys ∧
          (∀ q, (t.partOf q).st = (s.partOf q).st ∧ (t.partOf q).passes.map (fun y => (y.seq, y.st)) = (s.partOf q).passes.map (fun y => (y.seq, y.st))) ∧
          ∀ u r x, (u, x) ∈ t.units → (∃ m ∈ here, memberPart m = x.part) → (s.partOf x.part).enclave = e.id →
            ∀ w ∈ (x.reeveOf r).stores, ¬∃ m ∈ e.members, m.toNat % 2 ^ 12 = w.peer ∧ participant m = v)))
end
end

