-- ==== Sys2Proof/Laws/KMap.lean ====
section
/-!
SUPPORT. Laws of keyed maps: read after write on any list, and the canonical form, which every write keeps.
-/
namespace Sys2Proof

variable {α : Type}

@[simp] theorem KMap.get_nil (d : α) (k : Nat) : KMap.get d [] k = d := rfl

theorem KMap.get_head (d : α) (j : Nat) (v : α) (t : KMap α) : KMap.get d ((j, v) :: t) j = v := by
  simp [KMap.get]

theorem KMap.get_below (d : α) {j k : Nat} (v : α) (t : KMap α) (h : k < j) : KMap.get d ((j, v) :: t) k = d := by
  simp [KMap.get, Nat.ne_of_lt h, h]

theorem KMap.get_above (d : α) {j k : Nat} (v : α) (t : KMap α) (h : j < k) :
    KMap.get d ((j, v) :: t) k = KMap.get d t k := by
  simp [KMap.get, Nat.ne_of_gt h, Nat.not_lt_of_gt h]

/-- Leading entries at or below `k` do not matter to a key above `k`. -/
theorem KMap.get_dropWhile (d : α) (t : KMap α) {k k' : Nat} (h : k < k') :
    KMap.get d (t.dropWhile (fun p => decide (p.1 ≤ k))) k' = KMap.get d t k' := by
  induction t with
  | nil => rfl
  | cons p t ih =>
    obtain ⟨j, v⟩ := p
    by_cases hj : j ≤ k
    · simp only [List.dropWhile_cons, hj, decide_true, if_true]
      rw [ih, KMap.get_above d v t (by omega)]
    · simp [hj]

/-- After leading entries at or below `k` are dropped, nothing is listed at or below `k`. -/
theorem KMap.get_dropWhile_le (d : α) (t : KMap α) {k k' : Nat} (h : k' ≤ k) :
    KMap.get d (t.dropWhile (fun p => decide (p.1 ≤ k))) k' = d := by
  induction t with
  | nil => rfl
  | cons p t ih =>
    obtain ⟨j, v⟩ := p
    by_cases hj : j ≤ k
    · simpa [hj] using ih
    · simp [hj, KMap.get, show k' ≠ j by omega, show k' < j by omega]

variable [DecidableEq α]

/-- A key reads what was last written there. -/
@[simp] theorem KMap.get_set_self (d : α) (m : KMap α) (k : Nat) (v : α) : KMap.get d (KMap.set d m k v) k = v := by
  induction m with
  | nil => by_cases h : v = d <;> simp [KMap.set, KMap.get, h]
  | cons p t ih =>
    obtain ⟨j, w⟩ := p
    by_cases h1 : k < j
    · by_cases h : v = d <;> simp [KMap.set, KMap.get, h1, h, Nat.ne_of_lt h1]
    · by_cases h2 : k = j
      · subst h2
        by_cases h : v = d
        · subst h; simpa [KMap.set] using KMap.get_dropWhile_le v t (Nat.le_refl k)
        · simp [KMap.set, KMap.get, h]
      · simp [KMap.set, KMap.get, h1, h2, ih]

/-- A write leaves every other key alone. -/
theorem KMap.get_set_ne (d : α) (m : KMap α) {k k' : Nat} (v : α) (h : k' ≠ k) :
    KMap.get d (KMap.set d m k v) k' = KMap.get d m k' := by
  induction m with
  | nil => by_cases hv : v = d <;> simp [KMap.set, KMap.get, hv, h]
  | cons p t ih =>
    obtain ⟨j, w⟩ := p
    by_cases h1 : k < j
    · by_cases hv : v = d
      · simp [KMap.set, h1, hv]
      · by_cases h3 : k' < k
        · simp [KMap.set, KMap.get, h1, hv, h, h3, show k' ≠ j by omega, show k' < j by omega]
        · simp [KMap.set, KMap.get, h1, hv, h, h3]
    · by_cases h2 : k = j
      · subst h2
        by_cases h3 : k' < k
        · by_cases hv : v = d
          · simp [KMap.set, hv, KMap.get, h, h3, KMap.get_dropWhile_le d t (Nat.le_of_lt h3)]
          · simp [KMap.set, hv, KMap.get, h, h3]
        · have h4 : k < k' := by omega
          by_cases hv : v = d <;> simp [KMap.set, hv, KMap.get, h, h3, KMap.get_dropWhile d t h4]
      · by_cases h5 : k' = j
        · simp [KMap.set, KMap.get, h1, h2, h5]
        · by_cases h6 : k' < j <;> simp [KMap.set, KMap.get, h1, h2, h5, h6, ih]

/-- Read after write, by cases on the key. -/
theorem KMap.get_set (d : α) (m : KMap α) (k k' : Nat) (v : α) :
    KMap.get d (KMap.set d m k v) k' = if k' = k then v else KMap.get d m k' := by
  by_cases h : k' = k
  · subst h; simp
  · simp [KMap.get_set_ne d m v h, h]

@[simp] theorem KMap.get_upd_self (d : α) (m : KMap α) (k : Nat) (f : α → α) :
    KMap.get d (KMap.upd d m k f) k = f (KMap.get d m k) := by simp [KMap.upd]

theorem KMap.get_upd_ne (d : α) (m : KMap α) {k k' : Nat} (f : α → α) (h : k' ≠ k) :
    KMap.get d (KMap.upd d m k f) k' = KMap.get d m k' := KMap.get_set_ne d m _ h

/-! ### The canonical form -/

theorem KMap.wf_cons (d : α) (j : Nat) (v : α) (t : KMap α) :
    KMap.wf d ((j, v) :: t) = true ↔ v ≠ d ∧ (∀ p ∈ t, j < p.1) ∧ KMap.wf d t = true := by
  simp [KMap.wf, and_assoc]

/-- Every key of a written map is an old key or the written one. -/
theorem KMap.mem_set (d : α) (m : KMap α) (k : Nat) (v : α) {p : Nat × α} (h : p ∈ KMap.set d m k v) :
    p.1 = k ∨ p ∈ m := by
  induction m with
  | nil =>
    by_cases hv : v = d
    · simp [KMap.set, hv] at h
    · simp [KMap.set, hv] at h; simp [h]
  | cons q t ih =>
    obtain ⟨j, w⟩ := q
    by_cases h1 : k < j
    · by_cases hv : v = d
      · right; simpa [KMap.set, h1, hv] using h
      · simp [KMap.set, h1, hv] at h
        rcases h with h | h | h
        · simp [h]
        · simp [h]
        · simp [h]
    · by_cases h2 : k = j
      · by_cases hv : v = d
        · simp [KMap.set, h2, hv] at h
          exact Or.inr (List.mem_cons_of_mem _ ((List.dropWhile_sublist _).subset h))
        · simp [KMap.set, h2, hv] at h
          rcases h with h | h
          · simp [h, h2]
          · exact Or.inr (List.mem_cons_of_mem _ ((List.dropWhile_sublist _).subset h))
      · simp [KMap.set, h1, h2] at h
        rcases h with h | h
        · simp [h]
        · rcases ih h with h | h
          · exact Or.inl h
          · simp [h]

theorem KMap.wf_dropWhile (d : α) (t : KMap α) (k : Nat) (h : KMap.wf d t = true) :
    KMap.wf d (t.dropWhile (fun p => decide (p.1 ≤ k))) = true := by
  induction t with
  | nil => rfl
  | cons p t ih =>
    obtain ⟨j, v⟩ := p
    by_cases hj : j ≤ k
    · simpa [hj] using ih ((KMap.wf_cons d j v t).1 h).2.2
    · simpa [hj] using h

/-- A write keeps the canonical form. -/
theorem KMap.wf_set (d : α) (m : KMap α) (k : Nat) (v : α) (h : KMap.wf d m = true) : KMap.wf d (KMap.set d m k v) = true := by
  induction m with
  | nil =>
    by_cases hv : v = d
    · simp [KMap.set, hv, KMap.wf]
    · simp [KMap.set, hv, KMap.wf]
  | cons p t ih =>
    obtain ⟨j, w⟩ := p
    obtain ⟨hw, hj, ht⟩ := (KMap.wf_cons d j w t).1 h
    by_cases h1 : k < j
    · by_cases hv : v = d
      · simpa [KMap.set, h1, hv] using h
      · simp only [KMap.set, h1, if_true, hv, if_false]
        refine (KMap.wf_cons d k v _).2 ⟨hv, ?_, h⟩
        intro p hp
        rcases List.mem_cons.1 hp with rfl | hp
        · exact h1
        · exact Nat.lt_trans h1 (hj p hp)
    · by_cases h2 : k = j
      · subst h2
        have hd := KMap.wf_dropWhile d t k ht
        by_cases hv : v = d
        · simpa [KMap.set, hv] using hd
        · simp only [KMap.set, Nat.lt_irrefl, if_false, if_true, hv]
          exact (KMap.wf_cons d k v _).2 ⟨hv, fun p hp => hj p ((List.dropWhile_sublist _).subset hp), hd⟩
      · simp only [KMap.set, h1, h2, if_false]
        refine (KMap.wf_cons d j w _).2 ⟨hw, ?_, ih ht⟩
        intro p hp
        rcases KMap.mem_set d t k v hp with hp | hp
        · omega
        · exact hj p hp

/-- Dropping entries keeps the canonical form. -/
theorem KMap.wf_filter (d : α) (m : KMap α) (f : Nat × α → Bool) (h : KMap.wf d m = true) : KMap.wf d (m.filter f) = true := by
  induction m with
  | nil => rfl
  | cons p t ih =>
    obtain ⟨j, v⟩ := p
    obtain ⟨hv, hj, ht⟩ := (KMap.wf_cons d j v t).1 h
    by_cases hf : f (j, v) = true
    · simp only [List.filter_cons, hf, if_true]
      exact (KMap.wf_cons d j v _).2 ⟨hv, fun p hp => hj p (List.mem_filter.1 hp).1, ih ht⟩
    · simpa [hf] using ih ht

/-- Clearing a range keeps the canonical form. -/
theorem KMap.wf_clear (d : α) (m : KMap α) (lo n : Nat) (h : KMap.wf d m = true) : KMap.wf d (KMap.clear m lo n) = true :=
  KMap.wf_filter d m _ h

end Sys2Proof
end

