-- ==== Sys2Proof/Laws/State.lean ====
section
/-!
SUPPORT. Reading a field after an update of the state, a unit, a reeve or a sheaf, and reading a unit, core, partition, reeve or sheaf
after one was replaced.
-/
namespace Sys2Proof.Machine


/-! ### Fields after `setUnit` -/

@[simp] theorem State.setUnit_uid (s : State) (u : Nat) (x : Unit) : (s.setUnit u x).uid = s.uid := rfl
@[simp] theorem State.setUnit_who (s : State) (u : Nat) (x : Unit) : (s.setUnit u x).who = s.who := rfl
@[simp] theorem State.setUnit_eng (s : State) (u : Nat) (x : Unit) : (s.setUnit u x).eng = s.eng := rfl
@[simp] theorem State.setUnit_nextUid (s : State) (u : Nat) (x : Unit) : (s.setUnit u x).nextUid = s.nextUid := rfl
@[simp] theorem State.setUnit_cores (s : State) (u : Nat) (x : Unit) : (s.setUnit u x).cores = s.cores := rfl
@[simp] theorem State.setUnit_parts (s : State) (u : Nat) (x : Unit) : (s.setUnit u x).parts = s.parts := rfl
@[simp] theorem State.setUnit_hbm (s : State) (u : Nat) (x : Unit) : (s.setUnit u x).hbm = s.hbm := rfl
@[simp] theorem State.setUnit_hbmPoison (s : State) (u : Nat) (x : Unit) : (s.setUnit u x).hbmPoison = s.hbmPoison := rfl
@[simp] theorem State.setUnit_hbmRetired (s : State) (u : Nat) (x : Unit) : (s.setUnit u x).hbmRetired = s.hbmRetired := rfl
@[simp] theorem State.setUnit_cxl (s : State) (u : Nat) (x : Unit) : (s.setUnit u x).cxl = s.cxl := rfl
@[simp] theorem State.setUnit_cxlPoison (s : State) (u : Nat) (x : Unit) : (s.setUnit u x).cxlPoison = s.cxlPoison := rfl
@[simp] theorem State.setUnit_cxlDown (s : State) (u : Nat) (x : Unit) : (s.setUnit u x).cxlDown = s.cxlDown := rfl
@[simp] theorem State.setUnit_host (s : State) (u : Nat) (x : Unit) : (s.setUnit u x).host = s.host := rfl
@[simp] theorem State.setUnit_tlb (s : State) (u : Nat) (x : Unit) : (s.setUnit u x).tlb = s.tlb := rfl
@[simp] theorem State.setUnit_fabric (s : State) (u : Nat) (x : Unit) : (s.setUnit u x).fabric = s.fabric := rfl
@[simp] theorem State.setUnit_fills (s : State) (u : Nat) (x : Unit) : (s.setUnit u x).fills = s.fills := rfl
@[simp] theorem State.setUnit_migration (s : State) (u : Nat) (x : Unit) : (s.setUnit u x).migration = s.migration := rfl
@[simp] theorem State.setUnit_shards (s : State) (u : Nat) (x : Unit) : (s.setUnit u x).shards = s.shards := rfl
@[simp] theorem State.setUnit_domId (s : State) (u : Nat) (x : Unit) : (s.setUnit u x).domId = s.domId := rfl
@[simp] theorem State.setUnit_peer (s : State) (u : Nat) (x : Unit) : (s.setUnit u x).peer = s.peer := rfl
@[simp] theorem State.setUnit_routes (s : State) (u : Nat) (x : Unit) : (s.setUnit u x).routes = s.routes := rfl
@[simp] theorem State.setUnit_unreachable (s : State) (u : Nat) (x : Unit) : (s.setUnit u x).unreachable = s.unreachable := rfl
@[simp] theorem State.setUnit_nextTag (s : State) (u : Nat) (x : Unit) : (s.setUnit u x).nextTag = s.nextTag := rfl
@[simp] theorem State.setUnit_sent (s : State) (u : Nat) (x : Unit) : (s.setUnit u x).sent = s.sent := rfl
@[simp] theorem State.setUnit_thresher (s : State) (u : Nat) (x : Unit) : (s.setUnit u x).thresher = s.thresher := rfl
@[simp] theorem State.setUnit_plans (s : State) (u : Nat) (x : Unit) : (s.setUnit u x).plans = s.plans := rfl
@[simp] theorem State.setUnit_sigs (s : State) (u : Nat) (x : Unit) : (s.setUnit u x).sigs = s.sigs := rfl
@[simp] theorem State.setUnit_shardOut (s : State) (u : Nat) (x : Unit) : (s.setUnit u x).shardOut = s.shardOut := rfl
@[simp] theorem State.setUnit_shardHeld (s : State) (u : Nat) (x : Unit) : (s.setUnit u x).shardHeld = s.shardHeld := rfl
@[simp] theorem State.setUnit_ports (s : State) (u : Nat) (x : Unit) : (s.setUnit u x).ports = s.ports := rfl
@[simp] theorem State.setUnit_keys (s : State) (u : Nat) (x : Unit) : (s.setUnit u x).keys = s.keys := rfl
@[simp] theorem State.setUnit_pairs (s : State) (u : Nat) (x : Unit) : (s.setUnit u x).pairs = s.pairs := rfl
@[simp] theorem State.setUnit_ethSlow (s : State) (u : Nat) (x : Unit) : (s.setUnit u x).ethSlow = s.ethSlow := rfl
@[simp] theorem State.setUnit_device (s : State) (u : Nat) (x : Unit) : (s.setUnit u x).device = s.device := rfl
@[simp] theorem State.setUnit_dies (s : State) (u : Nat) (x : Unit) : (s.setUnit u x).dies = s.dies := rfl
@[simp] theorem State.setUnit_stackHealth (s : State) (u : Nat) (x : Unit) : (s.setUnit u x).stackHealth = s.stackHealth := rfl
@[simp] theorem State.setUnit_powerLimit (s : State) (u : Nat) (x : Unit) : (s.setUnit u x).powerLimit = s.powerLimit := rfl
@[simp] theorem State.setUnit_idle (s : State) (u : Nat) (x : Unit) : (s.setUnit u x).idle = s.idle := rfl
@[simp] theorem State.setUnit_ltr (s : State) (u : Nat) (x : Unit) : (s.setUnit u x).ltr = s.ltr := rfl
@[simp] theorem State.setUnit_mgst (s : State) (u : Nat) (x : Unit) : (s.setUnit u x).mgst = s.mgst := rfl
@[simp] theorem State.setUnit_mgres (s : State) (u : Nat) (x : Unit) : (s.setUnit u x).mgres = s.mgres := rfl
@[simp] theorem State.setUnit_wfail (s : State) (u : Nat) (x : Unit) : (s.setUnit u x).wfail = s.wfail := rfl
@[simp] theorem State.setUnit_cfail (s : State) (u : Nat) (x : Unit) : (s.setUnit u x).cfail = s.cfail := rfl
@[simp] theorem State.setUnit_mgimga (s : State) (u : Nat) (x : Unit) : (s.setUnit u x).mgimga = s.mgimga := rfl
@[simp] theorem State.setUnit_mgimgl (s : State) (u : Nat) (x : Unit) : (s.setUnit u x).mgimgl = s.mgimgl := rfl
@[simp] theorem State.setUnit_bar4 (s : State) (u : Nat) (x : Unit) : (s.setUnit u x).bar4 = s.bar4 := rfl
@[simp] theorem State.setUnit_calibrated (s : State) (u : Nat) (x : Unit) : (s.setUnit u x).calibrated = s.calibrated := rfl
@[simp] theorem State.setUnit_starting (s : State) (u : Nat) (x : Unit) : (s.setUnit u x).starting = s.starting := rfl
@[simp] theorem State.setUnit_updating (s : State) (u : Nat) (x : Unit) : (s.setUnit u x).updating = s.updating := rfl
@[simp] theorem State.setUnit_attest (s : State) (u : Nat) (x : Unit) : (s.setUnit u x).attest = s.attest := rfl
@[simp] theorem State.setUnit_svn (s : State) (u : Nat) (x : Unit) : (s.setUnit u x).svn = s.svn := rfl
@[simp] theorem State.setUnit_sessions (s : State) (u : Nat) (x : Unit) : (s.setUnit u x).sessions = s.sessions := rfl
@[simp] theorem State.setUnit_enclaves (s : State) (u : Nat) (x : Unit) : (s.setUnit u x).enclaves = s.enclaves := rfl
@[simp] theorem State.setUnit_tim (s : State) (u : Nat) (x : Unit) : (s.setUnit u x).tim = s.tim := rfl
@[simp] theorem State.setUnit_timFrac (s : State) (u : Nat) (x : Unit) : (s.setUnit u x).timFrac = s.timFrac := rfl
@[simp] theorem State.setUnit_telemetry (s : State) (u : Nat) (x : Unit) : (s.setUnit u x).telemetry = s.telemetry := rfl
@[simp] theorem State.setUnit_turns (s : State) (u : Nat) (x : Unit) : (s.setUnit u x).turns = s.turns := rfl
@[simp] theorem State.setUnit_fetchAhead (s : State) (u : Nat) (x : Unit) : (s.setUnit u x).fetchAhead = s.fetchAhead := rfl
@[simp] theorem State.setUnit_staleTlb (s : State) (u : Nat) (x : Unit) : (s.setUnit u x).staleTlb = s.staleTlb := rfl
@[simp] theorem State.setUnit_pace (s : State) (u : Nat) (x : Unit) : (s.setUnit u x).pace = s.pace := rfl
@[simp] theorem State.setUnit_fresh (s : State) (u : Nat) (x : Unit) : (s.setUnit u x).fresh = s.fresh := rfl
@[simp] theorem State.setUnit_ptrs (s : State) (u : Nat) (x : Unit) : (s.setUnit u x).ptrs = s.ptrs := rfl
@[simp] theorem State.setUnit_heldReplies (s : State) (u : Nat) (x : Unit) : (s.setUnit u x).heldReplies = s.heldReplies := rfl
@[simp] theorem State.setUnit_pfc (s : State) (u : Nat) (x : Unit) : (s.setUnit u x).pfc = s.pfc := rfl
@[simp] theorem State.setUnit_ide (s : State) (u : Nat) (x : Unit) : (s.setUnit u x).ide = s.ide := rfl
@[simp] theorem State.setUnit_tdi (s : State) (u : Nat) (x : Unit) : (s.setUnit u x).tdi = s.tdi := rfl
@[simp] theorem State.setUnit_rowReports (s : State) (u : Nat) (x : Unit) : (s.setUnit u x).rowReports = s.rowReports := rfl
@[simp] theorem State.setUnit_dmwrs (s : State) (u : Nat) (x : Unit) : (s.setUnit u x).dmwrs = s.dmwrs := rfl
@[simp] theorem State.setUnit_sessionSeq (s : State) (u : Nat) (x : Unit) : (s.setUnit u x).sessionSeq = s.sessionSeq := rfl

/-! ### Fields after `modUnit` -/

@[simp] theorem State.modUnit_uid (s : State) (u : Nat) (f : Unit → Unit) : (s.modUnit u f).uid = s.uid := rfl
@[simp] theorem State.modUnit_who (s : State) (u : Nat) (f : Unit → Unit) : (s.modUnit u f).who = s.who := rfl
@[simp] theorem State.modUnit_eng (s : State) (u : Nat) (f : Unit → Unit) : (s.modUnit u f).eng = s.eng := rfl
@[simp] theorem State.modUnit_nextUid (s : State) (u : Nat) (f : Unit → Unit) : (s.modUnit u f).nextUid = s.nextUid := rfl
@[simp] theorem State.modUnit_cores (s : State) (u : Nat) (f : Unit → Unit) : (s.modUnit u f).cores = s.cores := rfl
@[simp] theorem State.modUnit_parts (s : State) (u : Nat) (f : Unit → Unit) : (s.modUnit u f).parts = s.parts := rfl
@[simp] theorem State.modUnit_hbm (s : State) (u : Nat) (f : Unit → Unit) : (s.modUnit u f).hbm = s.hbm := rfl
@[simp] theorem State.modUnit_hbmPoison (s : State) (u : Nat) (f : Unit → Unit) : (s.modUnit u f).hbmPoison = s.hbmPoison := rfl
@[simp] theorem State.modUnit_hbmRetired (s : State) (u : Nat) (f : Unit → Unit) : (s.modUnit u f).hbmRetired = s.hbmRetired := rfl
@[simp] theorem State.modUnit_cxl (s : State) (u : Nat) (f : Unit → Unit) : (s.modUnit u f).cxl = s.cxl := rfl
@[simp] theorem State.modUnit_cxlPoison (s : State) (u : Nat) (f : Unit → Unit) : (s.modUnit u f).cxlPoison = s.cxlPoison := rfl
@[simp] theorem State.modUnit_cxlDown (s : State) (u : Nat) (f : Unit → Unit) : (s.modUnit u f).cxlDown = s.cxlDown := rfl
@[simp] theorem State.modUnit_host (s : State) (u : Nat) (f : Unit → Unit) : (s.modUnit u f).host = s.host := rfl
@[simp] theorem State.modUnit_tlb (s : State) (u : Nat) (f : Unit → Unit) : (s.modUnit u f).tlb = s.tlb := rfl
@[simp] theorem State.modUnit_fabric (s : State) (u : Nat) (f : Unit → Unit) : (s.modUnit u f).fabric = s.fabric := rfl
@[simp] theorem State.modUnit_fills (s : State) (u : Nat) (f : Unit → Unit) : (s.modUnit u f).fills = s.fills := rfl
@[simp] theorem State.modUnit_migration (s : State) (u : Nat) (f : Unit → Unit) : (s.modUnit u f).migration = s.migration := rfl
@[simp] theorem State.modUnit_shards (s : State) (u : Nat) (f : Unit → Unit) : (s.modUnit u f).shards = s.shards := rfl
@[simp] theorem State.modUnit_domId (s : State) (u : Nat) (f : Unit → Unit) : (s.modUnit u f).domId = s.domId := rfl
@[simp] theorem State.modUnit_peer (s : State) (u : Nat) (f : Unit → Unit) : (s.modUnit u f).peer = s.peer := rfl
@[simp] theorem State.modUnit_routes (s : State) (u : Nat) (f : Unit → Unit) : (s.modUnit u f).routes = s.routes := rfl
@[simp] theorem State.modUnit_unreachable (s : State) (u : Nat) (f : Unit → Unit) : (s.modUnit u f).unreachable = s.unreachable := rfl
@[simp] theorem State.modUnit_nextTag (s : State) (u : Nat) (f : Unit → Unit) : (s.modUnit u f).nextTag = s.nextTag := rfl
@[simp] theorem State.modUnit_sent (s : State) (u : Nat) (f : Unit → Unit) : (s.modUnit u f).sent = s.sent := rfl
@[simp] theorem State.modUnit_thresher (s : State) (u : Nat) (f : Unit → Unit) : (s.modUnit u f).thresher = s.thresher := rfl
@[simp] theorem State.modUnit_plans (s : State) (u : Nat) (f : Unit → Unit) : (s.modUnit u f).plans = s.plans := rfl
@[simp] theorem State.modUnit_sigs (s : State) (u : Nat) (f : Unit → Unit) : (s.modUnit u f).sigs = s.sigs := rfl
@[simp] theorem State.modUnit_shardOut (s : State) (u : Nat) (f : Unit → Unit) : (s.modUnit u f).shardOut = s.shardOut := rfl
@[simp] theorem State.modUnit_shardHeld (s : State) (u : Nat) (f : Unit → Unit) : (s.modUnit u f).shardHeld = s.shardHeld := rfl
@[simp] theorem State.modUnit_ports (s : State) (u : Nat) (f : Unit → Unit) : (s.modUnit u f).ports = s.ports := rfl
@[simp] theorem State.modUnit_keys (s : State) (u : Nat) (f : Unit → Unit) : (s.modUnit u f).keys = s.keys := rfl
@[simp] theorem State.modUnit_pairs (s : State) (u : Nat) (f : Unit → Unit) : (s.modUnit u f).pairs = s.pairs := rfl
@[simp] theorem State.modUnit_ethSlow (s : State) (u : Nat) (f : Unit → Unit) : (s.modUnit u f).ethSlow = s.ethSlow := rfl
@[simp] theorem State.modUnit_device (s : State) (u : Nat) (f : Unit → Unit) : (s.modUnit u f).device = s.device := rfl
@[simp] theorem State.modUnit_dies (s : State) (u : Nat) (f : Unit → Unit) : (s.modUnit u f).dies = s.dies := rfl
@[simp] theorem State.modUnit_stackHealth (s : State) (u : Nat) (f : Unit → Unit) : (s.modUnit u f).stackHealth = s.stackHealth := rfl
@[simp] theorem State.modUnit_powerLimit (s : State) (u : Nat) (f : Unit → Unit) : (s.modUnit u f).powerLimit = s.powerLimit := rfl
@[simp] theorem State.modUnit_idle (s : State) (u : Nat) (f : Unit → Unit) : (s.modUnit u f).idle = s.idle := rfl
@[simp] theorem State.modUnit_ltr (s : State) (u : Nat) (f : Unit → Unit) : (s.modUnit u f).ltr = s.ltr := rfl
@[simp] theorem State.modUnit_mgst (s : State) (u : Nat) (f : Unit → Unit) : (s.modUnit u f).mgst = s.mgst := rfl
@[simp] theorem State.modUnit_mgres (s : State) (u : Nat) (f : Unit → Unit) : (s.modUnit u f).mgres = s.mgres := rfl
@[simp] theorem State.modUnit_wfail (s : State) (u : Nat) (f : Unit → Unit) : (s.modUnit u f).wfail = s.wfail := rfl
@[simp] theorem State.modUnit_cfail (s : State) (u : Nat) (f : Unit → Unit) : (s.modUnit u f).cfail = s.cfail := rfl
@[simp] theorem State.modUnit_mgimga (s : State) (u : Nat) (f : Unit → Unit) : (s.modUnit u f).mgimga = s.mgimga := rfl
@[simp] theorem State.modUnit_mgimgl (s : State) (u : Nat) (f : Unit → Unit) : (s.modUnit u f).mgimgl = s.mgimgl := rfl
@[simp] theorem State.modUnit_bar4 (s : State) (u : Nat) (f : Unit → Unit) : (s.modUnit u f).bar4 = s.bar4 := rfl
@[simp] theorem State.modUnit_calibrated (s : State) (u : Nat) (f : Unit → Unit) : (s.modUnit u f).calibrated = s.calibrated := rfl
@[simp] theorem State.modUnit_starting (s : State) (u : Nat) (f : Unit → Unit) : (s.modUnit u f).starting = s.starting := rfl
@[simp] theorem State.modUnit_updating (s : State) (u : Nat) (f : Unit → Unit) : (s.modUnit u f).updating = s.updating := rfl
@[simp] theorem State.modUnit_attest (s : State) (u : Nat) (f : Unit → Unit) : (s.modUnit u f).attest = s.attest := rfl
@[simp] theorem State.modUnit_svn (s : State) (u : Nat) (f : Unit → Unit) : (s.modUnit u f).svn = s.svn := rfl
@[simp] theorem State.modUnit_sessions (s : State) (u : Nat) (f : Unit → Unit) : (s.modUnit u f).sessions = s.sessions := rfl
@[simp] theorem State.modUnit_enclaves (s : State) (u : Nat) (f : Unit → Unit) : (s.modUnit u f).enclaves = s.enclaves := rfl
@[simp] theorem State.modUnit_tim (s : State) (u : Nat) (f : Unit → Unit) : (s.modUnit u f).tim = s.tim := rfl
@[simp] theorem State.modUnit_timFrac (s : State) (u : Nat) (f : Unit → Unit) : (s.modUnit u f).timFrac = s.timFrac := rfl
@[simp] theorem State.modUnit_telemetry (s : State) (u : Nat) (f : Unit → Unit) : (s.modUnit u f).telemetry = s.telemetry := rfl
@[simp] theorem State.modUnit_turns (s : State) (u : Nat) (f : Unit → Unit) : (s.modUnit u f).turns = s.turns := rfl
@[simp] theorem State.modUnit_fetchAhead (s : State) (u : Nat) (f : Unit → Unit) : (s.modUnit u f).fetchAhead = s.fetchAhead := rfl
@[simp] theorem State.modUnit_staleTlb (s : State) (u : Nat) (f : Unit → Unit) : (s.modUnit u f).staleTlb = s.staleTlb := rfl
@[simp] theorem State.modUnit_pace (s : State) (u : Nat) (f : Unit → Unit) : (s.modUnit u f).pace = s.pace := rfl
@[simp] theorem State.modUnit_fresh (s : State) (u : Nat) (f : Unit → Unit) : (s.modUnit u f).fresh = s.fresh := rfl
@[simp] theorem State.modUnit_ptrs (s : State) (u : Nat) (f : Unit → Unit) : (s.modUnit u f).ptrs = s.ptrs := rfl
@[simp] theorem State.modUnit_heldReplies (s : State) (u : Nat) (f : Unit → Unit) : (s.modUnit u f).heldReplies = s.heldReplies := rfl
@[simp] theorem State.modUnit_pfc (s : State) (u : Nat) (f : Unit → Unit) : (s.modUnit u f).pfc = s.pfc := rfl
@[simp] theorem State.modUnit_ide (s : State) (u : Nat) (f : Unit → Unit) : (s.modUnit u f).ide = s.ide := rfl
@[simp] theorem State.modUnit_tdi (s : State) (u : Nat) (f : Unit → Unit) : (s.modUnit u f).tdi = s.tdi := rfl
@[simp] theorem State.modUnit_rowReports (s : State) (u : Nat) (f : Unit → Unit) : (s.modUnit u f).rowReports = s.rowReports := rfl
@[simp] theorem State.modUnit_dmwrs (s : State) (u : Nat) (f : Unit → Unit) : (s.modUnit u f).dmwrs = s.dmwrs := rfl
@[simp] theorem State.modUnit_sessionSeq (s : State) (u : Nat) (f : Unit → Unit) : (s.modUnit u f).sessionSeq = s.sessionSeq := rfl

/-! ### Fields after `modCu` -/

@[simp] theorem State.modCu_uid (s : State) (f : Unit → Unit) : (s.modCu f).uid = s.uid := rfl
@[simp] theorem State.modCu_who (s : State) (f : Unit → Unit) : (s.modCu f).who = s.who := rfl
@[simp] theorem State.modCu_eng (s : State) (f : Unit → Unit) : (s.modCu f).eng = s.eng := rfl
@[simp] theorem State.modCu_nextUid (s : State) (f : Unit → Unit) : (s.modCu f).nextUid = s.nextUid := rfl
@[simp] theorem State.modCu_cores (s : State) (f : Unit → Unit) : (s.modCu f).cores = s.cores := rfl
@[simp] theorem State.modCu_parts (s : State) (f : Unit → Unit) : (s.modCu f).parts = s.parts := rfl
@[simp] theorem State.modCu_hbm (s : State) (f : Unit → Unit) : (s.modCu f).hbm = s.hbm := rfl
@[simp] theorem State.modCu_hbmPoison (s : State) (f : Unit → Unit) : (s.modCu f).hbmPoison = s.hbmPoison := rfl
@[simp] theorem State.modCu_hbmRetired (s : State) (f : Unit → Unit) : (s.modCu f).hbmRetired = s.hbmRetired := rfl
@[simp] theorem State.modCu_cxl (s : State) (f : Unit → Unit) : (s.modCu f).cxl = s.cxl := rfl
@[simp] theorem State.modCu_cxlPoison (s : State) (f : Unit → Unit) : (s.modCu f).cxlPoison = s.cxlPoison := rfl
@[simp] theorem State.modCu_cxlDown (s : State) (f : Unit → Unit) : (s.modCu f).cxlDown = s.cxlDown := rfl
@[simp] theorem State.modCu_host (s : State) (f : Unit → Unit) : (s.modCu f).host = s.host := rfl
@[simp] theorem State.modCu_tlb (s : State) (f : Unit → Unit) : (s.modCu f).tlb = s.tlb := rfl
@[simp] theorem State.modCu_fabric (s : State) (f : Unit → Unit) : (s.modCu f).fabric = s.fabric := rfl
@[simp] theorem State.modCu_fills (s : State) (f : Unit → Unit) : (s.modCu f).fills = s.fills := rfl
@[simp] theorem State.modCu_migration (s : State) (f : Unit → Unit) : (s.modCu f).migration = s.migration := rfl
@[simp] theorem State.modCu_shards (s : State) (f : Unit → Unit) : (s.modCu f).shards = s.shards := rfl
@[simp] theorem State.modCu_domId (s : State) (f : Unit → Unit) : (s.modCu f).domId = s.domId := rfl
@[simp] theorem State.modCu_peer (s : State) (f : Unit → Unit) : (s.modCu f).peer = s.peer := rfl
@[simp] theorem State.modCu_routes (s : State) (f : Unit → Unit) : (s.modCu f).routes = s.routes := rfl
@[simp] theorem State.modCu_unreachable (s : State) (f : Unit → Unit) : (s.modCu f).unreachable = s.unreachable := rfl
@[simp] theorem State.modCu_nextTag (s : State) (f : Unit → Unit) : (s.modCu f).nextTag = s.nextTag := rfl
@[simp] theorem State.modCu_sent (s : State) (f : Unit → Unit) : (s.modCu f).sent = s.sent := rfl
@[simp] theorem State.modCu_thresher (s : State) (f : Unit → Unit) : (s.modCu f).thresher = s.thresher := rfl
@[simp] theorem State.modCu_plans (s : State) (f : Unit → Unit) : (s.modCu f).plans = s.plans := rfl
@[simp] theorem State.modCu_sigs (s : State) (f : Unit → Unit) : (s.modCu f).sigs = s.sigs := rfl
@[simp] theorem State.modCu_shardOut (s : State) (f : Unit → Unit) : (s.modCu f).shardOut = s.shardOut := rfl
@[simp] theorem State.modCu_shardHeld (s : State) (f : Unit → Unit) : (s.modCu f).shardHeld = s.shardHeld := rfl
@[simp] theorem State.modCu_ports (s : State) (f : Unit → Unit) : (s.modCu f).ports = s.ports := rfl
@[simp] theorem State.modCu_keys (s : State) (f : Unit → Unit) : (s.modCu f).keys = s.keys := rfl
@[simp] theorem State.modCu_pairs (s : State) (f : Unit → Unit) : (s.modCu f).pairs = s.pairs := rfl
@[simp] theorem State.modCu_ethSlow (s : State) (f : Unit → Unit) : (s.modCu f).ethSlow = s.ethSlow := rfl
@[simp] theorem State.modCu_device (s : State) (f : Unit → Unit) : (s.modCu f).device = s.device := rfl
@[simp] theorem State.modCu_dies (s : State) (f : Unit → Unit) : (s.modCu f).dies = s.dies := rfl
@[simp] theorem State.modCu_stackHealth (s : State) (f : Unit → Unit) : (s.modCu f).stackHealth = s.stackHealth := rfl
@[simp] theorem State.modCu_powerLimit (s : State) (f : Unit → Unit) : (s.modCu f).powerLimit = s.powerLimit := rfl
@[simp] theorem State.modCu_idle (s : State) (f : Unit → Unit) : (s.modCu f).idle = s.idle := rfl
@[simp] theorem State.modCu_ltr (s : State) (f : Unit → Unit) : (s.modCu f).ltr = s.ltr := rfl
@[simp] theorem State.modCu_mgst (s : State) (f : Unit → Unit) : (s.modCu f).mgst = s.mgst := rfl
@[simp] theorem State.modCu_mgres (s : State) (f : Unit → Unit) : (s.modCu f).mgres = s.mgres := rfl
@[simp] theorem State.modCu_wfail (s : State) (f : Unit → Unit) : (s.modCu f).wfail = s.wfail := rfl
@[simp] theorem State.modCu_cfail (s : State) (f : Unit → Unit) : (s.modCu f).cfail = s.cfail := rfl
@[simp] theorem State.modCu_mgimga (s : State) (f : Unit → Unit) : (s.modCu f).mgimga = s.mgimga := rfl
@[simp] theorem State.modCu_mgimgl (s : State) (f : Unit → Unit) : (s.modCu f).mgimgl = s.mgimgl := rfl
@[simp] theorem State.modCu_bar4 (s : State) (f : Unit → Unit) : (s.modCu f).bar4 = s.bar4 := rfl
@[simp] theorem State.modCu_calibrated (s : State) (f : Unit → Unit) : (s.modCu f).calibrated = s.calibrated := rfl
@[simp] theorem State.modCu_starting (s : State) (f : Unit → Unit) : (s.modCu f).starting = s.starting := rfl
@[simp] theorem State.modCu_updating (s : State) (f : Unit → Unit) : (s.modCu f).updating = s.updating := rfl
@[simp] theorem State.modCu_attest (s : State) (f : Unit → Unit) : (s.modCu f).attest = s.attest := rfl
@[simp] theorem State.modCu_svn (s : State) (f : Unit → Unit) : (s.modCu f).svn = s.svn := rfl
@[simp] theorem State.modCu_sessions (s : State) (f : Unit → Unit) : (s.modCu f).sessions = s.sessions := rfl
@[simp] theorem State.modCu_enclaves (s : State) (f : Unit → Unit) : (s.modCu f).enclaves = s.enclaves := rfl
@[simp] theorem State.modCu_tim (s : State) (f : Unit → Unit) : (s.modCu f).tim = s.tim := rfl
@[simp] theorem State.modCu_timFrac (s : State) (f : Unit → Unit) : (s.modCu f).timFrac = s.timFrac := rfl
@[simp] theorem State.modCu_telemetry (s : State) (f : Unit → Unit) : (s.modCu f).telemetry = s.telemetry := rfl
@[simp] theorem State.modCu_turns (s : State) (f : Unit → Unit) : (s.modCu f).turns = s.turns := rfl
@[simp] theorem State.modCu_fetchAhead (s : State) (f : Unit → Unit) : (s.modCu f).fetchAhead = s.fetchAhead := rfl
@[simp] theorem State.modCu_staleTlb (s : State) (f : Unit → Unit) : (s.modCu f).staleTlb = s.staleTlb := rfl
@[simp] theorem State.modCu_pace (s : State) (f : Unit → Unit) : (s.modCu f).pace = s.pace := rfl
@[simp] theorem State.modCu_fresh (s : State) (f : Unit → Unit) : (s.modCu f).fresh = s.fresh := rfl
@[simp] theorem State.modCu_ptrs (s : State) (f : Unit → Unit) : (s.modCu f).ptrs = s.ptrs := rfl
@[simp] theorem State.modCu_heldReplies (s : State) (f : Unit → Unit) : (s.modCu f).heldReplies = s.heldReplies := rfl
@[simp] theorem State.modCu_pfc (s : State) (f : Unit → Unit) : (s.modCu f).pfc = s.pfc := rfl
@[simp] theorem State.modCu_ide (s : State) (f : Unit → Unit) : (s.modCu f).ide = s.ide := rfl
@[simp] theorem State.modCu_tdi (s : State) (f : Unit → Unit) : (s.modCu f).tdi = s.tdi := rfl
@[simp] theorem State.modCu_rowReports (s : State) (f : Unit → Unit) : (s.modCu f).rowReports = s.rowReports := rfl
@[simp] theorem State.modCu_dmwrs (s : State) (f : Unit → Unit) : (s.modCu f).dmwrs = s.dmwrs := rfl
@[simp] theorem State.modCu_sessionSeq (s : State) (f : Unit → Unit) : (s.modCu f).sessionSeq = s.sessionSeq := rfl

/-! ### Fields after `modCore` -/

@[simp] theorem State.modCore_uid (s : State) (c : Nat) (f : Core → Core) : (s.modCore c f).uid = s.uid := rfl
@[simp] theorem State.modCore_who (s : State) (c : Nat) (f : Core → Core) : (s.modCore c f).who = s.who := rfl
@[simp] theorem State.modCore_eng (s : State) (c : Nat) (f : Core → Core) : (s.modCore c f).eng = s.eng := rfl
@[simp] theorem State.modCore_units (s : State) (c : Nat) (f : Core → Core) : (s.modCore c f).units = s.units := rfl
@[simp] theorem State.modCore_nextUid (s : State) (c : Nat) (f : Core → Core) : (s.modCore c f).nextUid = s.nextUid := rfl
@[simp] theorem State.modCore_parts (s : State) (c : Nat) (f : Core → Core) : (s.modCore c f).parts = s.parts := rfl
@[simp] theorem State.modCore_hbm (s : State) (c : Nat) (f : Core → Core) : (s.modCore c f).hbm = s.hbm := rfl
@[simp] theorem State.modCore_hbmPoison (s : State) (c : Nat) (f : Core → Core) : (s.modCore c f).hbmPoison = s.hbmPoison := rfl
@[simp] theorem State.modCore_hbmRetired (s : State) (c : Nat) (f : Core → Core) : (s.modCore c f).hbmRetired = s.hbmRetired := rfl
@[simp] theorem State.modCore_cxl (s : State) (c : Nat) (f : Core → Core) : (s.modCore c f).cxl = s.cxl := rfl
@[simp] theorem State.modCore_cxlPoison (s : State) (c : Nat) (f : Core → Core) : (s.modCore c f).cxlPoison = s.cxlPoison := rfl
@[simp] theorem State.modCore_cxlDown (s : State) (c : Nat) (f : Core → Core) : (s.modCore c f).cxlDown = s.cxlDown := rfl
@[simp] theorem State.modCore_host (s : State) (c : Nat) (f : Core → Core) : (s.modCore c f).host = s.host := rfl
@[simp] theorem State.modCore_tlb (s : State) (c : Nat) (f : Core → Core) : (s.modCore c f).tlb = s.tlb := rfl
@[simp] theorem State.modCore_fabric (s : State) (c : Nat) (f : Core → Core) : (s.modCore c f).fabric = s.fabric := rfl
@[simp] theorem State.modCore_fills (s : State) (c : Nat) (f : Core → Core) : (s.modCore c f).fills = s.fills := rfl
@[simp] theorem State.modCore_migration (s : State) (c : Nat) (f : Core → Core) : (s.modCore c f).migration = s.migration := rfl
@[simp] theorem State.modCore_shards (s : State) (c : Nat) (f : Core → Core) : (s.modCore c f).shards = s.shards := rfl
@[simp] theorem State.modCore_domId (s : State) (c : Nat) (f : Core → Core) : (s.modCore c f).domId = s.domId := rfl
@[simp] theorem State.modCore_peer (s : State) (c : Nat) (f : Core → Core) : (s.modCore c f).peer = s.peer := rfl
@[simp] theorem State.modCore_routes (s : State) (c : Nat) (f : Core → Core) : (s.modCore c f).routes = s.routes := rfl
@[simp] theorem State.modCore_unreachable (s : State) (c : Nat) (f : Core → Core) : (s.modCore c f).unreachable = s.unreachable := rfl
@[simp] theorem State.modCore_nextTag (s : State) (c : Nat) (f : Core → Core) : (s.modCore c f).nextTag = s.nextTag := rfl
@[simp] theorem State.modCore_sent (s : State) (c : Nat) (f : Core → Core) : (s.modCore c f).sent = s.sent := rfl
@[simp] theorem State.modCore_thresher (s : State) (c : Nat) (f : Core → Core) : (s.modCore c f).thresher = s.thresher := rfl
@[simp] theorem State.modCore_plans (s : State) (c : Nat) (f : Core → Core) : (s.modCore c f).plans = s.plans := rfl
@[simp] theorem State.modCore_sigs (s : State) (c : Nat) (f : Core → Core) : (s.modCore c f).sigs = s.sigs := rfl
@[simp] theorem State.modCore_shardOut (s : State) (c : Nat) (f : Core → Core) : (s.modCore c f).shardOut = s.shardOut := rfl
@[simp] theorem State.modCore_shardHeld (s : State) (c : Nat) (f : Core → Core) : (s.modCore c f).shardHeld = s.shardHeld := rfl
@[simp] theorem State.modCore_ports (s : State) (c : Nat) (f : Core → Core) : (s.modCore c f).ports = s.ports := rfl
@[simp] theorem State.modCore_keys (s : State) (c : Nat) (f : Core → Core) : (s.modCore c f).keys = s.keys := rfl
@[simp] theorem State.modCore_pairs (s : State) (c : Nat) (f : Core → Core) : (s.modCore c f).pairs = s.pairs := rfl
@[simp] theorem State.modCore_ethSlow (s : State) (c : Nat) (f : Core → Core) : (s.modCore c f).ethSlow = s.ethSlow := rfl
@[simp] theorem State.modCore_device (s : State) (c : Nat) (f : Core → Core) : (s.modCore c f).device = s.device := rfl
@[simp] theorem State.modCore_dies (s : State) (c : Nat) (f : Core → Core) : (s.modCore c f).dies = s.dies := rfl
@[simp] theorem State.modCore_stackHealth (s : State) (c : Nat) (f : Core → Core) : (s.modCore c f).stackHealth = s.stackHealth := rfl
@[simp] theorem State.modCore_powerLimit (s : State) (c : Nat) (f : Core → Core) : (s.modCore c f).powerLimit = s.powerLimit := rfl
@[simp] theorem State.modCore_idle (s : State) (c : Nat) (f : Core → Core) : (s.modCore c f).idle = s.idle := rfl
@[simp] theorem State.modCore_ltr (s : State) (c : Nat) (f : Core → Core) : (s.modCore c f).ltr = s.ltr := rfl
@[simp] theorem State.modCore_mgst (s : State) (c : Nat) (f : Core → Core) : (s.modCore c f).mgst = s.mgst := rfl
@[simp] theorem State.modCore_mgres (s : State) (c : Nat) (f : Core → Core) : (s.modCore c f).mgres = s.mgres := rfl
@[simp] theorem State.modCore_wfail (s : State) (c : Nat) (f : Core → Core) : (s.modCore c f).wfail = s.wfail := rfl
@[simp] theorem State.modCore_cfail (s : State) (c : Nat) (f : Core → Core) : (s.modCore c f).cfail = s.cfail := rfl
@[simp] theorem State.modCore_mgimga (s : State) (c : Nat) (f : Core → Core) : (s.modCore c f).mgimga = s.mgimga := rfl
@[simp] theorem State.modCore_mgimgl (s : State) (c : Nat) (f : Core → Core) : (s.modCore c f).mgimgl = s.mgimgl := rfl
@[simp] theorem State.modCore_bar4 (s : State) (c : Nat) (f : Core → Core) : (s.modCore c f).bar4 = s.bar4 := rfl
@[simp] theorem State.modCore_calibrated (s : State) (c : Nat) (f : Core → Core) : (s.modCore c f).calibrated = s.calibrated := rfl
@[simp] theorem State.modCore_starting (s : State) (c : Nat) (f : Core → Core) : (s.modCore c f).starting = s.starting := rfl
@[simp] theorem State.modCore_updating (s : State) (c : Nat) (f : Core → Core) : (s.modCore c f).updating = s.updating := rfl
@[simp] theorem State.modCore_attest (s : State) (c : Nat) (f : Core → Core) : (s.modCore c f).attest = s.attest := rfl
@[simp] theorem State.modCore_svn (s : State) (c : Nat) (f : Core → Core) : (s.modCore c f).svn = s.svn := rfl
@[simp] theorem State.modCore_sessions (s : State) (c : Nat) (f : Core → Core) : (s.modCore c f).sessions = s.sessions := rfl
@[simp] theorem State.modCore_enclaves (s : State) (c : Nat) (f : Core → Core) : (s.modCore c f).enclaves = s.enclaves := rfl
@[simp] theorem State.modCore_tim (s : State) (c : Nat) (f : Core → Core) : (s.modCore c f).tim = s.tim := rfl
@[simp] theorem State.modCore_timFrac (s : State) (c : Nat) (f : Core → Core) : (s.modCore c f).timFrac = s.timFrac := rfl
@[simp] theorem State.modCore_telemetry (s : State) (c : Nat) (f : Core → Core) : (s.modCore c f).telemetry = s.telemetry := rfl
@[simp] theorem State.modCore_turns (s : State) (c : Nat) (f : Core → Core) : (s.modCore c f).turns = s.turns := rfl
@[simp] theorem State.modCore_fetchAhead (s : State) (c : Nat) (f : Core → Core) : (s.modCore c f).fetchAhead = s.fetchAhead := rfl
@[simp] theorem State.modCore_staleTlb (s : State) (c : Nat) (f : Core → Core) : (s.modCore c f).staleTlb = s.staleTlb := rfl
@[simp] theorem State.modCore_pace (s : State) (c : Nat) (f : Core → Core) : (s.modCore c f).pace = s.pace := rfl
@[simp] theorem State.modCore_fresh (s : State) (c : Nat) (f : Core → Core) : (s.modCore c f).fresh = s.fresh := rfl
@[simp] theorem State.modCore_ptrs (s : State) (c : Nat) (f : Core → Core) : (s.modCore c f).ptrs = s.ptrs := rfl
@[simp] theorem State.modCore_heldReplies (s : State) (c : Nat) (f : Core → Core) : (s.modCore c f).heldReplies = s.heldReplies := rfl
@[simp] theorem State.modCore_pfc (s : State) (c : Nat) (f : Core → Core) : (s.modCore c f).pfc = s.pfc := rfl
@[simp] theorem State.modCore_ide (s : State) (c : Nat) (f : Core → Core) : (s.modCore c f).ide = s.ide := rfl
@[simp] theorem State.modCore_tdi (s : State) (c : Nat) (f : Core → Core) : (s.modCore c f).tdi = s.tdi := rfl
@[simp] theorem State.modCore_rowReports (s : State) (c : Nat) (f : Core → Core) : (s.modCore c f).rowReports = s.rowReports := rfl
@[simp] theorem State.modCore_dmwrs (s : State) (c : Nat) (f : Core → Core) : (s.modCore c f).dmwrs = s.dmwrs := rfl
@[simp] theorem State.modCore_sessionSeq (s : State) (c : Nat) (f : Core → Core) : (s.modCore c f).sessionSeq = s.sessionSeq := rfl

/-! ### Fields after `modPart` -/

@[simp] theorem State.modPart_uid (s : State) (p : Nat) (f : Partition → Partition) : (s.modPart p f).uid = s.uid := rfl
@[simp] theorem State.modPart_who (s : State) (p : Nat) (f : Partition → Partition) : (s.modPart p f).who = s.who := rfl
@[simp] theorem State.modPart_eng (s : State) (p : Nat) (f : Partition → Partition) : (s.modPart p f).eng = s.eng := rfl
@[simp] theorem State.modPart_units (s : State) (p : Nat) (f : Partition → Partition) : (s.modPart p f).units = s.units := rfl
@[simp] theorem State.modPart_nextUid (s : State) (p : Nat) (f : Partition → Partition) : (s.modPart p f).nextUid = s.nextUid := rfl
@[simp] theorem State.modPart_cores (s : State) (p : Nat) (f : Partition → Partition) : (s.modPart p f).cores = s.cores := rfl
@[simp] theorem State.modPart_hbm (s : State) (p : Nat) (f : Partition → Partition) : (s.modPart p f).hbm = s.hbm := rfl
@[simp] theorem State.modPart_hbmPoison (s : State) (p : Nat) (f : Partition → Partition) : (s.modPart p f).hbmPoison = s.hbmPoison := rfl
@[simp] theorem State.modPart_hbmRetired (s : State) (p : Nat) (f : Partition → Partition) : (s.modPart p f).hbmRetired = s.hbmRetired := rfl
@[simp] theorem State.modPart_cxl (s : State) (p : Nat) (f : Partition → Partition) : (s.modPart p f).cxl = s.cxl := rfl
@[simp] theorem State.modPart_cxlPoison (s : State) (p : Nat) (f : Partition → Partition) : (s.modPart p f).cxlPoison = s.cxlPoison := rfl
@[simp] theorem State.modPart_cxlDown (s : State) (p : Nat) (f : Partition → Partition) : (s.modPart p f).cxlDown = s.cxlDown := rfl
@[simp] theorem State.modPart_host (s : State) (p : Nat) (f : Partition → Partition) : (s.modPart p f).host = s.host := rfl
@[simp] theorem State.modPart_tlb (s : State) (p : Nat) (f : Partition → Partition) : (s.modPart p f).tlb = s.tlb := rfl
@[simp] theorem State.modPart_fabric (s : State) (p : Nat) (f : Partition → Partition) : (s.modPart p f).fabric = s.fabric := rfl
@[simp] theorem State.modPart_fills (s : State) (p : Nat) (f : Partition → Partition) : (s.modPart p f).fills = s.fills := rfl
@[simp] theorem State.modPart_migration (s : State) (p : Nat) (f : Partition → Partition) : (s.modPart p f).migration = s.migration := rfl
@[simp] theorem State.modPart_shards (s : State) (p : Nat) (f : Partition → Partition) : (s.modPart p f).shards = s.shards := rfl
@[simp] theorem State.modPart_domId (s : State) (p : Nat) (f : Partition → Partition) : (s.modPart p f).domId = s.domId := rfl
@[simp] theorem State.modPart_peer (s : State) (p : Nat) (f : Partition → Partition) : (s.modPart p f).peer = s.peer := rfl
@[simp] theorem State.modPart_routes (s : State) (p : Nat) (f : Partition → Partition) : (s.modPart p f).routes = s.routes := rfl
@[simp] theorem State.modPart_unreachable (s : State) (p : Nat) (f : Partition → Partition) : (s.modPart p f).unreachable = s.unreachable := rfl
@[simp] theorem State.modPart_nextTag (s : State) (p : Nat) (f : Partition → Partition) : (s.modPart p f).nextTag = s.nextTag := rfl
@[simp] theorem State.modPart_sent (s : State) (p : Nat) (f : Partition → Partition) : (s.modPart p f).sent = s.sent := rfl
@[simp] theorem State.modPart_thresher (s : State) (p : Nat) (f : Partition → Partition) : (s.modPart p f).thresher = s.thresher := rfl
@[simp] theorem State.modPart_plans (s : State) (p : Nat) (f : Partition → Partition) : (s.modPart p f).plans = s.plans := rfl
@[simp] theorem State.modPart_sigs (s : State) (p : Nat) (f : Partition → Partition) : (s.modPart p f).sigs = s.sigs := rfl
@[simp] theorem State.modPart_shardOut (s : State) (p : Nat) (f : Partition → Partition) : (s.modPart p f).shardOut = s.shardOut := rfl
@[simp] theorem State.modPart_shardHeld (s : State) (p : Nat) (f : Partition → Partition) : (s.modPart p f).shardHeld = s.shardHeld := rfl
@[simp] theorem State.modPart_ports (s : State) (p : Nat) (f : Partition → Partition) : (s.modPart p f).ports = s.ports := rfl
@[simp] theorem State.modPart_keys (s : State) (p : Nat) (f : Partition → Partition) : (s.modPart p f).keys = s.keys := rfl
@[simp] theorem State.modPart_pairs (s : State) (p : Nat) (f : Partition → Partition) : (s.modPart p f).pairs = s.pairs := rfl
@[simp] theorem State.modPart_ethSlow (s : State) (p : Nat) (f : Partition → Partition) : (s.modPart p f).ethSlow = s.ethSlow := rfl
@[simp] theorem State.modPart_device (s : State) (p : Nat) (f : Partition → Partition) : (s.modPart p f).device = s.device := rfl
@[simp] theorem State.modPart_dies (s : State) (p : Nat) (f : Partition → Partition) : (s.modPart p f).dies = s.dies := rfl
@[simp] theorem State.modPart_stackHealth (s : State) (p : Nat) (f : Partition → Partition) : (s.modPart p f).stackHealth = s.stackHealth := rfl
@[simp] theorem State.modPart_powerLimit (s : State) (p : Nat) (f : Partition → Partition) : (s.modPart p f).powerLimit = s.powerLimit := rfl
@[simp] theorem State.modPart_idle (s : State) (p : Nat) (f : Partition → Partition) : (s.modPart p f).idle = s.idle := rfl
@[simp] theorem State.modPart_ltr (s : State) (p : Nat) (f : Partition → Partition) : (s.modPart p f).ltr = s.ltr := rfl
@[simp] theorem State.modPart_mgst (s : State) (p : Nat) (f : Partition → Partition) : (s.modPart p f).mgst = s.mgst := rfl
@[simp] theorem State.modPart_mgres (s : State) (p : Nat) (f : Partition → Partition) : (s.modPart p f).mgres = s.mgres := rfl
@[simp] theorem State.modPart_wfail (s : State) (p : Nat) (f : Partition → Partition) : (s.modPart p f).wfail = s.wfail := rfl
@[simp] theorem State.modPart_cfail (s : State) (p : Nat) (f : Partition → Partition) : (s.modPart p f).cfail = s.cfail := rfl
@[simp] theorem State.modPart_mgimga (s : State) (p : Nat) (f : Partition → Partition) : (s.modPart p f).mgimga = s.mgimga := rfl
@[simp] theorem State.modPart_mgimgl (s : State) (p : Nat) (f : Partition → Partition) : (s.modPart p f).mgimgl = s.mgimgl := rfl
@[simp] theorem State.modPart_bar4 (s : State) (p : Nat) (f : Partition → Partition) : (s.modPart p f).bar4 = s.bar4 := rfl
@[simp] theorem State.modPart_calibrated (s : State) (p : Nat) (f : Partition → Partition) : (s.modPart p f).calibrated = s.calibrated := rfl
@[simp] theorem State.modPart_starting (s : State) (p : Nat) (f : Partition → Partition) : (s.modPart p f).starting = s.starting := rfl
@[simp] theorem State.modPart_updating (s : State) (p : Nat) (f : Partition → Partition) : (s.modPart p f).updating = s.updating := rfl
@[simp] theorem State.modPart_attest (s : State) (p : Nat) (f : Partition → Partition) : (s.modPart p f).attest = s.attest := rfl
@[simp] theorem State.modPart_svn (s : State) (p : Nat) (f : Partition → Partition) : (s.modPart p f).svn = s.svn := rfl
@[simp] theorem State.modPart_sessions (s : State) (p : Nat) (f : Partition → Partition) : (s.modPart p f).sessions = s.sessions := rfl
@[simp] theorem State.modPart_enclaves (s : State) (p : Nat) (f : Partition → Partition) : (s.modPart p f).enclaves = s.enclaves := rfl
@[simp] theorem State.modPart_tim (s : State) (p : Nat) (f : Partition → Partition) : (s.modPart p f).tim = s.tim := rfl
@[simp] theorem State.modPart_timFrac (s : State) (p : Nat) (f : Partition → Partition) : (s.modPart p f).timFrac = s.timFrac := rfl
@[simp] theorem State.modPart_telemetry (s : State) (p : Nat) (f : Partition → Partition) : (s.modPart p f).telemetry = s.telemetry := rfl
@[simp] theorem State.modPart_turns (s : State) (p : Nat) (f : Partition → Partition) : (s.modPart p f).turns = s.turns := rfl
@[simp] theorem State.modPart_fetchAhead (s : State) (p : Nat) (f : Partition → Partition) : (s.modPart p f).fetchAhead = s.fetchAhead := rfl
@[simp] theorem State.modPart_staleTlb (s : State) (p : Nat) (f : Partition → Partition) : (s.modPart p f).staleTlb = s.staleTlb := rfl
@[simp] theorem State.modPart_pace (s : State) (p : Nat) (f : Partition → Partition) : (s.modPart p f).pace = s.pace := rfl
@[simp] theorem State.modPart_fresh (s : State) (p : Nat) (f : Partition → Partition) : (s.modPart p f).fresh = s.fresh := rfl
@[simp] theorem State.modPart_ptrs (s : State) (p : Nat) (f : Partition → Partition) : (s.modPart p f).ptrs = s.ptrs := rfl
@[simp] theorem State.modPart_heldReplies (s : State) (p : Nat) (f : Partition → Partition) : (s.modPart p f).heldReplies = s.heldReplies := rfl
@[simp] theorem State.modPart_pfc (s : State) (p : Nat) (f : Partition → Partition) : (s.modPart p f).pfc = s.pfc := rfl
@[simp] theorem State.modPart_ide (s : State) (p : Nat) (f : Partition → Partition) : (s.modPart p f).ide = s.ide := rfl
@[simp] theorem State.modPart_tdi (s : State) (p : Nat) (f : Partition → Partition) : (s.modPart p f).tdi = s.tdi := rfl
@[simp] theorem State.modPart_rowReports (s : State) (p : Nat) (f : Partition → Partition) : (s.modPart p f).rowReports = s.rowReports := rfl
@[simp] theorem State.modPart_dmwrs (s : State) (p : Nat) (f : Partition → Partition) : (s.modPart p f).dmwrs = s.dmwrs := rfl
@[simp] theorem State.modPart_sessionSeq (s : State) (p : Nat) (f : Partition → Partition) : (s.modPart p f).sessionSeq = s.sessionSeq := rfl

/-! ### Fields after `modPass` -/

@[simp] theorem State.modPass_uid (s : State) (p q : Nat) (f : Pass → Pass) : (s.modPass p q f).uid = s.uid := rfl
@[simp] theorem State.modPass_who (s : State) (p q : Nat) (f : Pass → Pass) : (s.modPass p q f).who = s.who := rfl
@[simp] theorem State.modPass_eng (s : State) (p q : Nat) (f : Pass → Pass) : (s.modPass p q f).eng = s.eng := rfl
@[simp] theorem State.modPass_units (s : State) (p q : Nat) (f : Pass → Pass) : (s.modPass p q f).units = s.units := rfl
@[simp] theorem State.modPass_nextUid (s : State) (p q : Nat) (f : Pass → Pass) : (s.modPass p q f).nextUid = s.nextUid := rfl
@[simp] theorem State.modPass_cores (s : State) (p q : Nat) (f : Pass → Pass) : (s.modPass p q f).cores = s.cores := rfl
@[simp] theorem State.modPass_hbm (s : State) (p q : Nat) (f : Pass → Pass) : (s.modPass p q f).hbm = s.hbm := rfl
@[simp] theorem State.modPass_hbmPoison (s : State) (p q : Nat) (f : Pass → Pass) : (s.modPass p q f).hbmPoison = s.hbmPoison := rfl
@[simp] theorem State.modPass_hbmRetired (s : State) (p q : Nat) (f : Pass → Pass) : (s.modPass p q f).hbmRetired = s.hbmRetired := rfl
@[simp] theorem State.modPass_cxl (s : State) (p q : Nat) (f : Pass → Pass) : (s.modPass p q f).cxl = s.cxl := rfl
@[simp] theorem State.modPass_cxlPoison (s : State) (p q : Nat) (f : Pass → Pass) : (s.modPass p q f).cxlPoison = s.cxlPoison := rfl
@[simp] theorem State.modPass_cxlDown (s : State) (p q : Nat) (f : Pass → Pass) : (s.modPass p q f).cxlDown = s.cxlDown := rfl
@[simp] theorem State.modPass_host (s : State) (p q : Nat) (f : Pass → Pass) : (s.modPass p q f).host = s.host := rfl
@[simp] theorem State.modPass_tlb (s : State) (p q : Nat) (f : Pass → Pass) : (s.modPass p q f).tlb = s.tlb := rfl
@[simp] theorem State.modPass_fabric (s : State) (p q : Nat) (f : Pass → Pass) : (s.modPass p q f).fabric = s.fabric := rfl
@[simp] theorem State.modPass_fills (s : State) (p q : Nat) (f : Pass → Pass) : (s.modPass p q f).fills = s.fills := rfl
@[simp] theorem State.modPass_migration (s : State) (p q : Nat) (f : Pass → Pass) : (s.modPass p q f).migration = s.migration := rfl
@[simp] theorem State.modPass_shards (s : State) (p q : Nat) (f : Pass → Pass) : (s.modPass p q f).shards = s.shards := rfl
@[simp] theorem State.modPass_domId (s : State) (p q : Nat) (f : Pass → Pass) : (s.modPass p q f).domId = s.domId := rfl
@[simp] theorem State.modPass_peer (s : State) (p q : Nat) (f : Pass → Pass) : (s.modPass p q f).peer = s.peer := rfl
@[simp] theorem State.modPass_routes (s : State) (p q : Nat) (f : Pass → Pass) : (s.modPass p q f).routes = s.routes := rfl
@[simp] theorem State.modPass_unreachable (s : State) (p q : Nat) (f : Pass → Pass) : (s.modPass p q f).unreachable = s.unreachable := rfl
@[simp] theorem State.modPass_nextTag (s : State) (p q : Nat) (f : Pass → Pass) : (s.modPass p q f).nextTag = s.nextTag := rfl
@[simp] theorem State.modPass_sent (s : State) (p q : Nat) (f : Pass → Pass) : (s.modPass p q f).sent = s.sent := rfl
@[simp] theorem State.modPass_thresher (s : State) (p q : Nat) (f : Pass → Pass) : (s.modPass p q f).thresher = s.thresher := rfl
@[simp] theorem State.modPass_plans (s : State) (p q : Nat) (f : Pass → Pass) : (s.modPass p q f).plans = s.plans := rfl
@[simp] theorem State.modPass_sigs (s : State) (p q : Nat) (f : Pass → Pass) : (s.modPass p q f).sigs = s.sigs := rfl
@[simp] theorem State.modPass_shardOut (s : State) (p q : Nat) (f : Pass → Pass) : (s.modPass p q f).shardOut = s.shardOut := rfl
@[simp] theorem State.modPass_shardHeld (s : State) (p q : Nat) (f : Pass → Pass) : (s.modPass p q f).shardHeld = s.shardHeld := rfl
@[simp] theorem State.modPass_ports (s : State) (p q : Nat) (f : Pass → Pass) : (s.modPass p q f).ports = s.ports := rfl
@[simp] theorem State.modPass_keys (s : State) (p q : Nat) (f : Pass → Pass) : (s.modPass p q f).keys = s.keys := rfl
@[simp] theorem State.modPass_pairs (s : State) (p q : Nat) (f : Pass → Pass) : (s.modPass p q f).pairs = s.pairs := rfl
@[simp] theorem State.modPass_ethSlow (s : State) (p q : Nat) (f : Pass → Pass) : (s.modPass p q f).ethSlow = s.ethSlow := rfl
@[simp] theorem State.modPass_device (s : State) (p q : Nat) (f : Pass → Pass) : (s.modPass p q f).device = s.device := rfl
@[simp] theorem State.modPass_dies (s : State) (p q : Nat) (f : Pass → Pass) : (s.modPass p q f).dies = s.dies := rfl
@[simp] theorem State.modPass_stackHealth (s : State) (p q : Nat) (f : Pass → Pass) : (s.modPass p q f).stackHealth = s.stackHealth := rfl
@[simp] theorem State.modPass_powerLimit (s : State) (p q : Nat) (f : Pass → Pass) : (s.modPass p q f).powerLimit = s.powerLimit := rfl
@[simp] theorem State.modPass_idle (s : State) (p q : Nat) (f : Pass → Pass) : (s.modPass p q f).idle = s.idle := rfl
@[simp] theorem State.modPass_ltr (s : State) (p q : Nat) (f : Pass → Pass) : (s.modPass p q f).ltr = s.ltr := rfl
@[simp] theorem State.modPass_mgst (s : State) (p q : Nat) (f : Pass → Pass) : (s.modPass p q f).mgst = s.mgst := rfl
@[simp] theorem State.modPass_mgres (s : State) (p q : Nat) (f : Pass → Pass) : (s.modPass p q f).mgres = s.mgres := rfl
@[simp] theorem State.modPass_wfail (s : State) (p q : Nat) (f : Pass → Pass) : (s.modPass p q f).wfail = s.wfail := rfl
@[simp] theorem State.modPass_cfail (s : State) (p q : Nat) (f : Pass → Pass) : (s.modPass p q f).cfail = s.cfail := rfl
@[simp] theorem State.modPass_mgimga (s : State) (p q : Nat) (f : Pass → Pass) : (s.modPass p q f).mgimga = s.mgimga := rfl
@[simp] theorem State.modPass_mgimgl (s : State) (p q : Nat) (f : Pass → Pass) : (s.modPass p q f).mgimgl = s.mgimgl := rfl
@[simp] theorem State.modPass_bar4 (s : State) (p q : Nat) (f : Pass → Pass) : (s.modPass p q f).bar4 = s.bar4 := rfl
@[simp] theorem State.modPass_calibrated (s : State) (p q : Nat) (f : Pass → Pass) : (s.modPass p q f).calibrated = s.calibrated := rfl
@[simp] theorem State.modPass_starting (s : State) (p q : Nat) (f : Pass → Pass) : (s.modPass p q f).starting = s.starting := rfl
@[simp] theorem State.modPass_updating (s : State) (p q : Nat) (f : Pass → Pass) : (s.modPass p q f).updating = s.updating := rfl
@[simp] theorem State.modPass_attest (s : State) (p q : Nat) (f : Pass → Pass) : (s.modPass p q f).attest = s.attest := rfl
@[simp] theorem State.modPass_svn (s : State) (p q : Nat) (f : Pass → Pass) : (s.modPass p q f).svn = s.svn := rfl
@[simp] theorem State.modPass_sessions (s : State) (p q : Nat) (f : Pass → Pass) : (s.modPass p q f).sessions = s.sessions := rfl
@[simp] theorem State.modPass_enclaves (s : State) (p q : Nat) (f : Pass → Pass) : (s.modPass p q f).enclaves = s.enclaves := rfl
@[simp] theorem State.modPass_tim (s : State) (p q : Nat) (f : Pass → Pass) : (s.modPass p q f).tim = s.tim := rfl
@[simp] theorem State.modPass_timFrac (s : State) (p q : Nat) (f : Pass → Pass) : (s.modPass p q f).timFrac = s.timFrac := rfl
@[simp] theorem State.modPass_telemetry (s : State) (p q : Nat) (f : Pass → Pass) : (s.modPass p q f).telemetry = s.telemetry := rfl
@[simp] theorem State.modPass_turns (s : State) (p q : Nat) (f : Pass → Pass) : (s.modPass p q f).turns = s.turns := rfl
@[simp] theorem State.modPass_fetchAhead (s : State) (p q : Nat) (f : Pass → Pass) : (s.modPass p q f).fetchAhead = s.fetchAhead := rfl
@[simp] theorem State.modPass_staleTlb (s : State) (p q : Nat) (f : Pass → Pass) : (s.modPass p q f).staleTlb = s.staleTlb := rfl
@[simp] theorem State.modPass_pace (s : State) (p q : Nat) (f : Pass → Pass) : (s.modPass p q f).pace = s.pace := rfl
@[simp] theorem State.modPass_fresh (s : State) (p q : Nat) (f : Pass → Pass) : (s.modPass p q f).fresh = s.fresh := rfl
@[simp] theorem State.modPass_ptrs (s : State) (p q : Nat) (f : Pass → Pass) : (s.modPass p q f).ptrs = s.ptrs := rfl
@[simp] theorem State.modPass_heldReplies (s : State) (p q : Nat) (f : Pass → Pass) : (s.modPass p q f).heldReplies = s.heldReplies := rfl
@[simp] theorem State.modPass_pfc (s : State) (p q : Nat) (f : Pass → Pass) : (s.modPass p q f).pfc = s.pfc := rfl
@[simp] theorem State.modPass_ide (s : State) (p q : Nat) (f : Pass → Pass) : (s.modPass p q f).ide = s.ide := rfl
@[simp] theorem State.modPass_tdi (s : State) (p q : Nat) (f : Pass → Pass) : (s.modPass p q f).tdi = s.tdi := rfl
@[simp] theorem State.modPass_rowReports (s : State) (p q : Nat) (f : Pass → Pass) : (s.modPass p q f).rowReports = s.rowReports := rfl
@[simp] theorem State.modPass_dmwrs (s : State) (p q : Nat) (f : Pass → Pass) : (s.modPass p q f).dmwrs = s.dmwrs := rfl
@[simp] theorem State.modPass_sessionSeq (s : State) (p q : Nat) (f : Pass → Pass) : (s.modPass p q f).sessionSeq = s.sessionSeq := rfl

/-! ### Fields after `hbmWrite` -/

@[simp] theorem State.hbmWrite_uid (s : State) (a : Nat) (l : List Byte) : (s.hbmWrite a l).uid = s.uid := rfl
@[simp] theorem State.hbmWrite_who (s : State) (a : Nat) (l : List Byte) : (s.hbmWrite a l).who = s.who := rfl
@[simp] theorem State.hbmWrite_eng (s : State) (a : Nat) (l : List Byte) : (s.hbmWrite a l).eng = s.eng := rfl
@[simp] theorem State.hbmWrite_units (s : State) (a : Nat) (l : List Byte) : (s.hbmWrite a l).units = s.units := rfl
@[simp] theorem State.hbmWrite_nextUid (s : State) (a : Nat) (l : List Byte) : (s.hbmWrite a l).nextUid = s.nextUid := rfl
@[simp] theorem State.hbmWrite_cores (s : State) (a : Nat) (l : List Byte) : (s.hbmWrite a l).cores = s.cores := rfl
@[simp] theorem State.hbmWrite_parts (s : State) (a : Nat) (l : List Byte) : (s.hbmWrite a l).parts = s.parts := rfl
@[simp] theorem State.hbmWrite_hbmRetired (s : State) (a : Nat) (l : List Byte) : (s.hbmWrite a l).hbmRetired = s.hbmRetired := rfl
@[simp] theorem State.hbmWrite_cxl (s : State) (a : Nat) (l : List Byte) : (s.hbmWrite a l).cxl = s.cxl := rfl
@[simp] theorem State.hbmWrite_cxlPoison (s : State) (a : Nat) (l : List Byte) : (s.hbmWrite a l).cxlPoison = s.cxlPoison := rfl
@[simp] theorem State.hbmWrite_cxlDown (s : State) (a : Nat) (l : List Byte) : (s.hbmWrite a l).cxlDown = s.cxlDown := rfl
@[simp] theorem State.hbmWrite_host (s : State) (a : Nat) (l : List Byte) : (s.hbmWrite a l).host = s.host := rfl
@[simp] theorem State.hbmWrite_tlb (s : State) (a : Nat) (l : List Byte) : (s.hbmWrite a l).tlb = s.tlb := rfl
@[simp] theorem State.hbmWrite_fabric (s : State) (a : Nat) (l : List Byte) : (s.hbmWrite a l).fabric = s.fabric := rfl
@[simp] theorem State.hbmWrite_fills (s : State) (a : Nat) (l : List Byte) : (s.hbmWrite a l).fills = s.fills := rfl
@[simp] theorem State.hbmWrite_migration (s : State) (a : Nat) (l : List Byte) : (s.hbmWrite a l).migration = s.migration := rfl
@[simp] theorem State.hbmWrite_shards (s : State) (a : Nat) (l : List Byte) : (s.hbmWrite a l).shards = s.shards := rfl
@[simp] theorem State.hbmWrite_domId (s : State) (a : Nat) (l : List Byte) : (s.hbmWrite a l).domId = s.domId := rfl
@[simp] theorem State.hbmWrite_peer (s : State) (a : Nat) (l : List Byte) : (s.hbmWrite a l).peer = s.peer := rfl
@[simp] theorem State.hbmWrite_routes (s : State) (a : Nat) (l : List Byte) : (s.hbmWrite a l).routes = s.routes := rfl
@[simp] theorem State.hbmWrite_unreachable (s : State) (a : Nat) (l : List Byte) : (s.hbmWrite a l).unreachable = s.unreachable := rfl
@[simp] theorem State.hbmWrite_nextTag (s : State) (a : Nat) (l : List Byte) : (s.hbmWrite a l).nextTag = s.nextTag := rfl
@[simp] theorem State.hbmWrite_sent (s : State) (a : Nat) (l : List Byte) : (s.hbmWrite a l).sent = s.sent := rfl
@[simp] theorem State.hbmWrite_thresher (s : State) (a : Nat) (l : List Byte) : (s.hbmWrite a l).thresher = s.thresher := rfl
@[simp] theorem State.hbmWrite_plans (s : State) (a : Nat) (l : List Byte) : (s.hbmWrite a l).plans = s.plans := rfl
@[simp] theorem State.hbmWrite_sigs (s : State) (a : Nat) (l : List Byte) : (s.hbmWrite a l).sigs = s.sigs := rfl
@[simp] theorem State.hbmWrite_shardOut (s : State) (a : Nat) (l : List Byte) : (s.hbmWrite a l).shardOut = s.shardOut := rfl
@[simp] theorem State.hbmWrite_shardHeld (s : State) (a : Nat) (l : List Byte) : (s.hbmWrite a l).shardHeld = s.shardHeld := rfl
@[simp] theorem State.hbmWrite_ports (s : State) (a : Nat) (l : List Byte) : (s.hbmWrite a l).ports = s.ports := rfl
@[simp] theorem State.hbmWrite_keys (s : State) (a : Nat) (l : List Byte) : (s.hbmWrite a l).keys = s.keys := rfl
@[simp] theorem State.hbmWrite_pairs (s : State) (a : Nat) (l : List Byte) : (s.hbmWrite a l).pairs = s.pairs := rfl
@[simp] theorem State.hbmWrite_ethSlow (s : State) (a : Nat) (l : List Byte) : (s.hbmWrite a l).ethSlow = s.ethSlow := rfl
@[simp] theorem State.hbmWrite_device (s : State) (a : Nat) (l : List Byte) : (s.hbmWrite a l).device = s.device := rfl
@[simp] theorem State.hbmWrite_dies (s : State) (a : Nat) (l : List Byte) : (s.hbmWrite a l).dies = s.dies := rfl
@[simp] theorem State.hbmWrite_stackHealth (s : State) (a : Nat) (l : List Byte) : (s.hbmWrite a l).stackHealth = s.stackHealth := rfl
@[simp] theorem State.hbmWrite_powerLimit (s : State) (a : Nat) (l : List Byte) : (s.hbmWrite a l).powerLimit = s.powerLimit := rfl
@[simp] theorem State.hbmWrite_idle (s : State) (a : Nat) (l : List Byte) : (s.hbmWrite a l).idle = s.idle := rfl
@[simp] theorem State.hbmWrite_ltr (s : State) (a : Nat) (l : List Byte) : (s.hbmWrite a l).ltr = s.ltr := rfl
@[simp] theorem State.hbmWrite_mgst (s : State) (a : Nat) (l : List Byte) : (s.hbmWrite a l).mgst = s.mgst := rfl
@[simp] theorem State.hbmWrite_mgres (s : State) (a : Nat) (l : List Byte) : (s.hbmWrite a l).mgres = s.mgres := rfl
@[simp] theorem State.hbmWrite_wfail (s : State) (a : Nat) (l : List Byte) : (s.hbmWrite a l).wfail = s.wfail := rfl
@[simp] theorem State.hbmWrite_cfail (s : State) (a : Nat) (l : List Byte) : (s.hbmWrite a l).cfail = s.cfail := rfl
@[simp] theorem State.hbmWrite_mgimga (s : State) (a : Nat) (l : List Byte) : (s.hbmWrite a l).mgimga = s.mgimga := rfl
@[simp] theorem State.hbmWrite_mgimgl (s : State) (a : Nat) (l : List Byte) : (s.hbmWrite a l).mgimgl = s.mgimgl := rfl
@[simp] theorem State.hbmWrite_bar4 (s : State) (a : Nat) (l : List Byte) : (s.hbmWrite a l).bar4 = s.bar4 := rfl
@[simp] theorem State.hbmWrite_calibrated (s : State) (a : Nat) (l : List Byte) : (s.hbmWrite a l).calibrated = s.calibrated := rfl
@[simp] theorem State.hbmWrite_starting (s : State) (a : Nat) (l : List Byte) : (s.hbmWrite a l).starting = s.starting := rfl
@[simp] theorem State.hbmWrite_updating (s : State) (a : Nat) (l : List Byte) : (s.hbmWrite a l).updating = s.updating := rfl
@[simp] theorem State.hbmWrite_attest (s : State) (a : Nat) (l : List Byte) : (s.hbmWrite a l).attest = s.attest := rfl
@[simp] theorem State.hbmWrite_svn (s : State) (a : Nat) (l : List Byte) : (s.hbmWrite a l).svn = s.svn := rfl
@[simp] theorem State.hbmWrite_sessions (s : State) (a : Nat) (l : List Byte) : (s.hbmWrite a l).sessions = s.sessions := rfl
@[simp] theorem State.hbmWrite_enclaves (s : State) (a : Nat) (l : List Byte) : (s.hbmWrite a l).enclaves = s.enclaves := rfl
@[simp] theorem State.hbmWrite_tim (s : State) (a : Nat) (l : List Byte) : (s.hbmWrite a l).tim = s.tim := rfl
@[simp] theorem State.hbmWrite_timFrac (s : State) (a : Nat) (l : List Byte) : (s.hbmWrite a l).timFrac = s.timFrac := rfl
@[simp] theorem State.hbmWrite_telemetry (s : State) (a : Nat) (l : List Byte) : (s.hbmWrite a l).telemetry = s.telemetry := rfl
@[simp] theorem State.hbmWrite_turns (s : State) (a : Nat) (l : List Byte) : (s.hbmWrite a l).turns = s.turns := rfl
@[simp] theorem State.hbmWrite_fetchAhead (s : State) (a : Nat) (l : List Byte) : (s.hbmWrite a l).fetchAhead = s.fetchAhead := rfl
@[simp] theorem State.hbmWrite_staleTlb (s : State) (a : Nat) (l : List Byte) : (s.hbmWrite a l).staleTlb = s.staleTlb := rfl
@[simp] theorem State.hbmWrite_pace (s : State) (a : Nat) (l : List Byte) : (s.hbmWrite a l).pace = s.pace := rfl
@[simp] theorem State.hbmWrite_fresh (s : State) (a : Nat) (l : List Byte) : (s.hbmWrite a l).fresh = s.fresh := rfl
@[simp] theorem State.hbmWrite_ptrs (s : State) (a : Nat) (l : List Byte) : (s.hbmWrite a l).ptrs = s.ptrs := rfl
@[simp] theorem State.hbmWrite_heldReplies (s : State) (a : Nat) (l : List Byte) : (s.hbmWrite a l).heldReplies = s.heldReplies := rfl
@[simp] theorem State.hbmWrite_pfc (s : State) (a : Nat) (l : List Byte) : (s.hbmWrite a l).pfc = s.pfc := rfl
@[simp] theorem State.hbmWrite_ide (s : State) (a : Nat) (l : List Byte) : (s.hbmWrite a l).ide = s.ide := rfl
@[simp] theorem State.hbmWrite_tdi (s : State) (a : Nat) (l : List Byte) : (s.hbmWrite a l).tdi = s.tdi := rfl
@[simp] theorem State.hbmWrite_rowReports (s : State) (a : Nat) (l : List Byte) : (s.hbmWrite a l).rowReports = s.rowReports := rfl
@[simp] theorem State.hbmWrite_dmwrs (s : State) (a : Nat) (l : List Byte) : (s.hbmWrite a l).dmwrs = s.dmwrs := rfl
@[simp] theorem State.hbmWrite_sessionSeq (s : State) (a : Nat) (l : List Byte) : (s.hbmWrite a l).sessionSeq = s.sessionSeq := rfl

/-! ### Fields after `setReeve` -/

@[simp] theorem Unit.setReeve_live (u : Unit) (r : Nat) (x : Reeve) : (u.setReeve r x).live = u.live := rfl
@[simp] theorem Unit.setReeve_passId (u : Unit) (r : Nat) (x : Reeve) : (u.setReeve r x).passId = u.passId := rfl
@[simp] theorem Unit.setReeve_part (u : Unit) (r : Nat) (x : Reeve) : (u.setReeve r x).part = u.part := rfl
@[simp] theorem Unit.setReeve_idx (u : Unit) (r : Nat) (x : Reeve) : (u.setReeve r x).idx = u.idx := rfl
@[simp] theorem Unit.setReeve_asid (u : Unit) (r : Nat) (x : Reeve) : (u.setReeve r x).asid = u.asid := rfl
@[simp] theorem Unit.setReeve_rv (u : Unit) (r : Nat) (x : Reeve) : (u.setReeve r x).rv = u.rv := rfl
@[simp] theorem Unit.setReeve_loftSize (u : Unit) (r : Nat) (x : Reeve) : (u.setReeve r x).loftSize = u.loftSize := rfl
@[simp] theorem Unit.setReeve_initial (u : Unit) (r : Nat) (x : Reeve) : (u.setReeve r x).initial = u.initial := rfl
@[simp] theorem Unit.setReeve_sheaves (u : Unit) (r : Nat) (x : Reeve) : (u.setReeve r x).sheaves = u.sheaves := rfl
@[simp] theorem Unit.setReeve_lpart (u : Unit) (r : Nat) (x : Reeve) : (u.setReeve r x).lpart = u.lpart := rfl
@[simp] theorem Unit.setReeve_issue (u : Unit) (r : Nat) (x : Reeve) : (u.setReeve r x).issue = u.issue := rfl
@[simp] theorem Unit.setReeve_sx (u : Unit) (r : Nat) (x : Reeve) : (u.setReeve r x).sx = u.sx := rfl
@[simp] theorem Unit.setReeve_sxPoison (u : Unit) (r : Nat) (x : Reeve) : (u.setReeve r x).sxPoison = u.sxPoison := rfl
@[simp] theorem Unit.setReeve_tl (u : Unit) (r : Nat) (x : Reeve) : (u.setReeve r x).tl = u.tl := rfl
@[simp] theorem Unit.setReeve_tlWide (u : Unit) (r : Nat) (x : Reeve) : (u.setReeve r x).tlWide = u.tlWide := rfl
@[simp] theorem Unit.setReeve_loft (u : Unit) (r : Nat) (x : Reeve) : (u.setReeve r x).loft = u.loft := rfl
@[simp] theorem Unit.setReeve_streams (u : Unit) (r : Nat) (x : Reeve) : (u.setReeve r x).streams = u.streams := rfl
@[simp] theorem Unit.setReeve_mq (u : Unit) (r : Nat) (x : Reeve) : (u.setReeve r x).mq = u.mq := rfl
@[simp] theorem Unit.setReeve_views (u : Unit) (r : Nat) (x : Reeve) : (u.setReeve r x).views = u.views := rfl
@[simp] theorem Unit.setReeve_replies (u : Unit) (r : Nat) (x : Reeve) : (u.setReeve r x).replies = u.replies := rfl
@[simp] theorem Unit.setReeve_place (u : Unit) (r : Nat) (x : Reeve) : (u.setReeve r x).place = u.place := rfl
@[simp] theorem Unit.setReeve_slot (u : Unit) (r : Nat) (x : Reeve) : (u.setReeve r x).slot = u.slot := rfl
@[simp] theorem Unit.setReeve_core (u : Unit) (r : Nat) (x : Reeve) : (u.setReeve r x).core = u.core := rfl
@[simp] theorem Unit.setReeve_loftResident (u : Unit) (r : Nat) (x : Reeve) : (u.setReeve r x).loftResident = u.loftResident := rfl
@[simp] theorem Unit.setReeve_loftPA (u : Unit) (r : Nat) (x : Reeve) : (u.setReeve r x).loftPA = u.loftPA := rfl
@[simp] theorem Unit.setReeve_cause0 (u : Unit) (r : Nat) (x : Reeve) : (u.setReeve r x).cause0 = u.cause0 := rfl
@[simp] theorem Unit.setReeve_cause1 (u : Unit) (r : Nat) (x : Reeve) : (u.setReeve r x).cause1 = u.cause1 := rfl
@[simp] theorem Unit.setReeve_ctxPA (u : Unit) (r : Nat) (x : Reeve) : (u.setReeve r x).ctxPA = u.ctxPA := rfl
@[simp] theorem Unit.setReeve_ctxCheck (u : Unit) (r : Nat) (x : Reeve) : (u.setReeve r x).ctxCheck = u.ctxCheck := rfl
@[simp] theorem Unit.setReeve_seq0 (u : Unit) (r : Nat) (x : Reeve) : (u.setReeve r x).seq0 = u.seq0 := rfl
@[simp] theorem Unit.setReeve_seq1 (u : Unit) (r : Nat) (x : Reeve) : (u.setReeve r x).seq1 = u.seq1 := rfl
@[simp] theorem Unit.setReeve_heldAdv (u : Unit) (r : Nat) (x : Reeve) : (u.setReeve r x).heldAdv = u.heldAdv := rfl
@[simp] theorem Unit.setReeve_loftPoison (u : Unit) (r : Nat) (x : Reeve) : (u.setReeve r x).loftPoison = u.loftPoison := rfl
@[simp] theorem Unit.setReeve_ctxBad (u : Unit) (r : Nat) (x : Reeve) : (u.setReeve r x).ctxBad = u.ctxBad := rfl

/-! ### Fields after `modReeve` -/

@[simp] theorem Unit.modReeve_live (u : Unit) (r : Nat) (f : Reeve → Reeve) : (u.modReeve r f).live = u.live := rfl
@[simp] theorem Unit.modReeve_passId (u : Unit) (r : Nat) (f : Reeve → Reeve) : (u.modReeve r f).passId = u.passId := rfl
@[simp] theorem Unit.modReeve_part (u : Unit) (r : Nat) (f : Reeve → Reeve) : (u.modReeve r f).part = u.part := rfl
@[simp] theorem Unit.modReeve_idx (u : Unit) (r : Nat) (f : Reeve → Reeve) : (u.modReeve r f).idx = u.idx := rfl
@[simp] theorem Unit.modReeve_asid (u : Unit) (r : Nat) (f : Reeve → Reeve) : (u.modReeve r f).asid = u.asid := rfl
@[simp] theorem Unit.modReeve_rv (u : Unit) (r : Nat) (f : Reeve → Reeve) : (u.modReeve r f).rv = u.rv := rfl
@[simp] theorem Unit.modReeve_loftSize (u : Unit) (r : Nat) (f : Reeve → Reeve) : (u.modReeve r f).loftSize = u.loftSize := rfl
@[simp] theorem Unit.modReeve_initial (u : Unit) (r : Nat) (f : Reeve → Reeve) : (u.modReeve r f).initial = u.initial := rfl
@[simp] theorem Unit.modReeve_sheaves (u : Unit) (r : Nat) (f : Reeve → Reeve) : (u.modReeve r f).sheaves = u.sheaves := rfl
@[simp] theorem Unit.modReeve_lpart (u : Unit) (r : Nat) (f : Reeve → Reeve) : (u.modReeve r f).lpart = u.lpart := rfl
@[simp] theorem Unit.modReeve_issue (u : Unit) (r : Nat) (f : Reeve → Reeve) : (u.modReeve r f).issue = u.issue := rfl
@[simp] theorem Unit.modReeve_sx (u : Unit) (r : Nat) (f : Reeve → Reeve) : (u.modReeve r f).sx = u.sx := rfl
@[simp] theorem Unit.modReeve_sxPoison (u : Unit) (r : Nat) (f : Reeve → Reeve) : (u.modReeve r f).sxPoison = u.sxPoison := rfl
@[simp] theorem Unit.modReeve_tl (u : Unit) (r : Nat) (f : Reeve → Reeve) : (u.modReeve r f).tl = u.tl := rfl
@[simp] theorem Unit.modReeve_tlWide (u : Unit) (r : Nat) (f : Reeve → Reeve) : (u.modReeve r f).tlWide = u.tlWide := rfl
@[simp] theorem Unit.modReeve_loft (u : Unit) (r : Nat) (f : Reeve → Reeve) : (u.modReeve r f).loft = u.loft := rfl
@[simp] theorem Unit.modReeve_streams (u : Unit) (r : Nat) (f : Reeve → Reeve) : (u.modReeve r f).streams = u.streams := rfl
@[simp] theorem Unit.modReeve_mq (u : Unit) (r : Nat) (f : Reeve → Reeve) : (u.modReeve r f).mq = u.mq := rfl
@[simp] theorem Unit.modReeve_views (u : Unit) (r : Nat) (f : Reeve → Reeve) : (u.modReeve r f).views = u.views := rfl
@[simp] theorem Unit.modReeve_replies (u : Unit) (r : Nat) (f : Reeve → Reeve) : (u.modReeve r f).replies = u.replies := rfl
@[simp] theorem Unit.modReeve_place (u : Unit) (r : Nat) (f : Reeve → Reeve) : (u.modReeve r f).place = u.place := rfl
@[simp] theorem Unit.modReeve_slot (u : Unit) (r : Nat) (f : Reeve → Reeve) : (u.modReeve r f).slot = u.slot := rfl
@[simp] theorem Unit.modReeve_core (u : Unit) (r : Nat) (f : Reeve → Reeve) : (u.modReeve r f).core = u.core := rfl
@[simp] theorem Unit.modReeve_loftResident (u : Unit) (r : Nat) (f : Reeve → Reeve) : (u.modReeve r f).loftResident = u.loftResident := rfl
@[simp] theorem Unit.modReeve_loftPA (u : Unit) (r : Nat) (f : Reeve → Reeve) : (u.modReeve r f).loftPA = u.loftPA := rfl
@[simp] theorem Unit.modReeve_cause0 (u : Unit) (r : Nat) (f : Reeve → Reeve) : (u.modReeve r f).cause0 = u.cause0 := rfl
@[simp] theorem Unit.modReeve_cause1 (u : Unit) (r : Nat) (f : Reeve → Reeve) : (u.modReeve r f).cause1 = u.cause1 := rfl
@[simp] theorem Unit.modReeve_ctxPA (u : Unit) (r : Nat) (f : Reeve → Reeve) : (u.modReeve r f).ctxPA = u.ctxPA := rfl
@[simp] theorem Unit.modReeve_ctxCheck (u : Unit) (r : Nat) (f : Reeve → Reeve) : (u.modReeve r f).ctxCheck = u.ctxCheck := rfl
@[simp] theorem Unit.modReeve_seq0 (u : Unit) (r : Nat) (f : Reeve → Reeve) : (u.modReeve r f).seq0 = u.seq0 := rfl
@[simp] theorem Unit.modReeve_seq1 (u : Unit) (r : Nat) (f : Reeve → Reeve) : (u.modReeve r f).seq1 = u.seq1 := rfl
@[simp] theorem Unit.modReeve_heldAdv (u : Unit) (r : Nat) (f : Reeve → Reeve) : (u.modReeve r f).heldAdv = u.heldAdv := rfl
@[simp] theorem Unit.modReeve_loftPoison (u : Unit) (r : Nat) (f : Reeve → Reeve) : (u.modReeve r f).loftPoison = u.loftPoison := rfl
@[simp] theorem Unit.modReeve_ctxBad (u : Unit) (r : Nat) (f : Reeve → Reeve) : (u.modReeve r f).ctxBad = u.ctxBad := rfl

/-! ### Fields after `setSheaf` -/

@[simp] theorem Unit.setSheaf_live (u : Unit) (k : Nat) (x : Sheaf) : (u.setSheaf k x).live = u.live := rfl
@[simp] theorem Unit.setSheaf_passId (u : Unit) (k : Nat) (x : Sheaf) : (u.setSheaf k x).passId = u.passId := rfl
@[simp] theorem Unit.setSheaf_part (u : Unit) (k : Nat) (x : Sheaf) : (u.setSheaf k x).part = u.part := rfl
@[simp] theorem Unit.setSheaf_idx (u : Unit) (k : Nat) (x : Sheaf) : (u.setSheaf k x).idx = u.idx := rfl
@[simp] theorem Unit.setSheaf_asid (u : Unit) (k : Nat) (x : Sheaf) : (u.setSheaf k x).asid = u.asid := rfl
@[simp] theorem Unit.setSheaf_rv (u : Unit) (k : Nat) (x : Sheaf) : (u.setSheaf k x).rv = u.rv := rfl
@[simp] theorem Unit.setSheaf_loftSize (u : Unit) (k : Nat) (x : Sheaf) : (u.setSheaf k x).loftSize = u.loftSize := rfl
@[simp] theorem Unit.setSheaf_initial (u : Unit) (k : Nat) (x : Sheaf) : (u.setSheaf k x).initial = u.initial := rfl
@[simp] theorem Unit.setSheaf_reeves (u : Unit) (k : Nat) (x : Sheaf) : (u.setSheaf k x).reeves = u.reeves := rfl
@[simp] theorem Unit.setSheaf_lpart (u : Unit) (k : Nat) (x : Sheaf) : (u.setSheaf k x).lpart = u.lpart := rfl
@[simp] theorem Unit.setSheaf_issue (u : Unit) (k : Nat) (x : Sheaf) : (u.setSheaf k x).issue = u.issue := rfl
@[simp] theorem Unit.setSheaf_sx (u : Unit) (k : Nat) (x : Sheaf) : (u.setSheaf k x).sx = u.sx := rfl
@[simp] theorem Unit.setSheaf_sxPoison (u : Unit) (k : Nat) (x : Sheaf) : (u.setSheaf k x).sxPoison = u.sxPoison := rfl
@[simp] theorem Unit.setSheaf_tl (u : Unit) (k : Nat) (x : Sheaf) : (u.setSheaf k x).tl = u.tl := rfl
@[simp] theorem Unit.setSheaf_tlWide (u : Unit) (k : Nat) (x : Sheaf) : (u.setSheaf k x).tlWide = u.tlWide := rfl
@[simp] theorem Unit.setSheaf_loft (u : Unit) (k : Nat) (x : Sheaf) : (u.setSheaf k x).loft = u.loft := rfl
@[simp] theorem Unit.setSheaf_streams (u : Unit) (k : Nat) (x : Sheaf) : (u.setSheaf k x).streams = u.streams := rfl
@[simp] theorem Unit.setSheaf_mq (u : Unit) (k : Nat) (x : Sheaf) : (u.setSheaf k x).mq = u.mq := rfl
@[simp] theorem Unit.setSheaf_views (u : Unit) (k : Nat) (x : Sheaf) : (u.setSheaf k x).views = u.views := rfl
@[simp] theorem Unit.setSheaf_replies (u : Unit) (k : Nat) (x : Sheaf) : (u.setSheaf k x).replies = u.replies := rfl
@[simp] theorem Unit.setSheaf_place (u : Unit) (k : Nat) (x : Sheaf) : (u.setSheaf k x).place = u.place := rfl
@[simp] theorem Unit.setSheaf_slot (u : Unit) (k : Nat) (x : Sheaf) : (u.setSheaf k x).slot = u.slot := rfl
@[simp] theorem Unit.setSheaf_core (u : Unit) (k : Nat) (x : Sheaf) : (u.setSheaf k x).core = u.core := rfl
@[simp] theorem Unit.setSheaf_loftResident (u : Unit) (k : Nat) (x : Sheaf) : (u.setSheaf k x).loftResident = u.loftResident := rfl
@[simp] theorem Unit.setSheaf_loftPA (u : Unit) (k : Nat) (x : Sheaf) : (u.setSheaf k x).loftPA = u.loftPA := rfl
@[simp] theorem Unit.setSheaf_cause0 (u : Unit) (k : Nat) (x : Sheaf) : (u.setSheaf k x).cause0 = u.cause0 := rfl
@[simp] theorem Unit.setSheaf_cause1 (u : Unit) (k : Nat) (x : Sheaf) : (u.setSheaf k x).cause1 = u.cause1 := rfl
@[simp] theorem Unit.setSheaf_ctxPA (u : Unit) (k : Nat) (x : Sheaf) : (u.setSheaf k x).ctxPA = u.ctxPA := rfl
@[simp] theorem Unit.setSheaf_ctxCheck (u : Unit) (k : Nat) (x : Sheaf) : (u.setSheaf k x).ctxCheck = u.ctxCheck := rfl
@[simp] theorem Unit.setSheaf_seq0 (u : Unit) (k : Nat) (x : Sheaf) : (u.setSheaf k x).seq0 = u.seq0 := rfl
@[simp] theorem Unit.setSheaf_seq1 (u : Unit) (k : Nat) (x : Sheaf) : (u.setSheaf k x).seq1 = u.seq1 := rfl
@[simp] theorem Unit.setSheaf_heldAdv (u : Unit) (k : Nat) (x : Sheaf) : (u.setSheaf k x).heldAdv = u.heldAdv := rfl
@[simp] theorem Unit.setSheaf_loftPoison (u : Unit) (k : Nat) (x : Sheaf) : (u.setSheaf k x).loftPoison = u.loftPoison := rfl
@[simp] theorem Unit.setSheaf_ctxBad (u : Unit) (k : Nat) (x : Sheaf) : (u.setSheaf k x).ctxBad = u.ctxBad := rfl

/-! ### Fields after `modSheaf` -/

@[simp] theorem Unit.modSheaf_live (u : Unit) (k : Nat) (f : Sheaf → Sheaf) : (u.modSheaf k f).live = u.live := rfl
@[simp] theorem Unit.modSheaf_passId (u : Unit) (k : Nat) (f : Sheaf → Sheaf) : (u.modSheaf k f).passId = u.passId := rfl
@[simp] theorem Unit.modSheaf_part (u : Unit) (k : Nat) (f : Sheaf → Sheaf) : (u.modSheaf k f).part = u.part := rfl
@[simp] theorem Unit.modSheaf_idx (u : Unit) (k : Nat) (f : Sheaf → Sheaf) : (u.modSheaf k f).idx = u.idx := rfl
@[simp] theorem Unit.modSheaf_asid (u : Unit) (k : Nat) (f : Sheaf → Sheaf) : (u.modSheaf k f).asid = u.asid := rfl
@[simp] theorem Unit.modSheaf_rv (u : Unit) (k : Nat) (f : Sheaf → Sheaf) : (u.modSheaf k f).rv = u.rv := rfl
@[simp] theorem Unit.modSheaf_loftSize (u : Unit) (k : Nat) (f : Sheaf → Sheaf) : (u.modSheaf k f).loftSize = u.loftSize := rfl
@[simp] theorem Unit.modSheaf_initial (u : Unit) (k : Nat) (f : Sheaf → Sheaf) : (u.modSheaf k f).initial = u.initial := rfl
@[simp] theorem Unit.modSheaf_reeves (u : Unit) (k : Nat) (f : Sheaf → Sheaf) : (u.modSheaf k f).reeves = u.reeves := rfl
@[simp] theorem Unit.modSheaf_lpart (u : Unit) (k : Nat) (f : Sheaf → Sheaf) : (u.modSheaf k f).lpart = u.lpart := rfl
@[simp] theorem Unit.modSheaf_issue (u : Unit) (k : Nat) (f : Sheaf → Sheaf) : (u.modSheaf k f).issue = u.issue := rfl
@[simp] theorem Unit.modSheaf_sx (u : Unit) (k : Nat) (f : Sheaf → Sheaf) : (u.modSheaf k f).sx = u.sx := rfl
@[simp] theorem Unit.modSheaf_sxPoison (u : Unit) (k : Nat) (f : Sheaf → Sheaf) : (u.modSheaf k f).sxPoison = u.sxPoison := rfl
@[simp] theorem Unit.modSheaf_tl (u : Unit) (k : Nat) (f : Sheaf → Sheaf) : (u.modSheaf k f).tl = u.tl := rfl
@[simp] theorem Unit.modSheaf_tlWide (u : Unit) (k : Nat) (f : Sheaf → Sheaf) : (u.modSheaf k f).tlWide = u.tlWide := rfl
@[simp] theorem Unit.modSheaf_loft (u : Unit) (k : Nat) (f : Sheaf → Sheaf) : (u.modSheaf k f).loft = u.loft := rfl
@[simp] theorem Unit.modSheaf_streams (u : Unit) (k : Nat) (f : Sheaf → Sheaf) : (u.modSheaf k f).streams = u.streams := rfl
@[simp] theorem Unit.modSheaf_mq (u : Unit) (k : Nat) (f : Sheaf → Sheaf) : (u.modSheaf k f).mq = u.mq := rfl
@[simp] theorem Unit.modSheaf_views (u : Unit) (k : Nat) (f : Sheaf → Sheaf) : (u.modSheaf k f).views = u.views := rfl
@[simp] theorem Unit.modSheaf_replies (u : Unit) (k : Nat) (f : Sheaf → Sheaf) : (u.modSheaf k f).replies = u.replies := rfl
@[simp] theorem Unit.modSheaf_place (u : Unit) (k : Nat) (f : Sheaf → Sheaf) : (u.modSheaf k f).place = u.place := rfl
@[simp] theorem Unit.modSheaf_slot (u : Unit) (k : Nat) (f : Sheaf → Sheaf) : (u.modSheaf k f).slot = u.slot := rfl
@[simp] theorem Unit.modSheaf_core (u : Unit) (k : Nat) (f : Sheaf → Sheaf) : (u.modSheaf k f).core = u.core := rfl
@[simp] theorem Unit.modSheaf_loftResident (u : Unit) (k : Nat) (f : Sheaf → Sheaf) : (u.modSheaf k f).loftResident = u.loftResident := rfl
@[simp] theorem Unit.modSheaf_loftPA (u : Unit) (k : Nat) (f : Sheaf → Sheaf) : (u.modSheaf k f).loftPA = u.loftPA := rfl
@[simp] theorem Unit.modSheaf_cause0 (u : Unit) (k : Nat) (f : Sheaf → Sheaf) : (u.modSheaf k f).cause0 = u.cause0 := rfl
@[simp] theorem Unit.modSheaf_cause1 (u : Unit) (k : Nat) (f : Sheaf → Sheaf) : (u.modSheaf k f).cause1 = u.cause1 := rfl
@[simp] theorem Unit.modSheaf_ctxPA (u : Unit) (k : Nat) (f : Sheaf → Sheaf) : (u.modSheaf k f).ctxPA = u.ctxPA := rfl
@[simp] theorem Unit.modSheaf_ctxCheck (u : Unit) (k : Nat) (f : Sheaf → Sheaf) : (u.modSheaf k f).ctxCheck = u.ctxCheck := rfl
@[simp] theorem Unit.modSheaf_seq0 (u : Unit) (k : Nat) (f : Sheaf → Sheaf) : (u.modSheaf k f).seq0 = u.seq0 := rfl
@[simp] theorem Unit.modSheaf_seq1 (u : Unit) (k : Nat) (f : Sheaf → Sheaf) : (u.modSheaf k f).seq1 = u.seq1 := rfl
@[simp] theorem Unit.modSheaf_heldAdv (u : Unit) (k : Nat) (f : Sheaf → Sheaf) : (u.modSheaf k f).heldAdv = u.heldAdv := rfl
@[simp] theorem Unit.modSheaf_loftPoison (u : Unit) (k : Nat) (f : Sheaf → Sheaf) : (u.modSheaf k f).loftPoison = u.loftPoison := rfl
@[simp] theorem Unit.modSheaf_ctxBad (u : Unit) (k : Nat) (f : Sheaf → Sheaf) : (u.modSheaf k f).ctxBad = u.ctxBad := rfl

/-! ### Units, cores, partitions -/

@[simp] theorem State.unitOf_setUnit_self (s : State) (u : Nat) (x : Unit) : (s.setUnit u x).unitOf u = x := KMap.get_set_self _ _ _ _
theorem State.unitOf_setUnit_ne (s : State) {u v : Nat} (x : Unit) (h : v ≠ u) : (s.setUnit u x).unitOf v = s.unitOf v :=
  KMap.get_set_ne _ _ _ h
@[simp] theorem State.unitOf_modUnit_self (s : State) (u : Nat) (f : Unit → Unit) : (s.modUnit u f).unitOf u = f (s.unitOf u) :=
  KMap.get_set_self _ _ _ _
theorem State.unitOf_modUnit_ne (s : State) {u v : Nat} (f : Unit → Unit) (h : v ≠ u) : (s.modUnit u f).unitOf v = s.unitOf v :=
  KMap.get_set_ne _ _ _ h
@[simp] theorem State.cu_modCu (s : State) (f : Unit → Unit) : (s.modCu f).cu = f s.cu := KMap.get_set_self _ _ _ _
@[simp] theorem State.unitOf_modCu_self (s : State) (f : Unit → Unit) : (s.modCu f).unitOf s.uid = f s.cu := KMap.get_set_self _ _ _ _
theorem State.unitOf_modCu_ne (s : State) {v : Nat} (f : Unit → Unit) (h : v ≠ s.uid) : (s.modCu f).unitOf v = s.unitOf v :=
  KMap.get_set_ne _ _ _ h
@[simp] theorem State.coreOf_modCore_self (s : State) (c : Nat) (f : Core → Core) : (s.modCore c f).coreOf c = f (s.coreOf c) :=
  KMap.get_upd_self _ _ _ _
theorem State.coreOf_modCore_ne (s : State) {c d : Nat} (f : Core → Core) (h : d ≠ c) : (s.modCore c f).coreOf d = s.coreOf d :=
  KMap.get_upd_ne _ _ _ h
@[simp] theorem State.partOf_modPart_self (s : State) (p : Nat) (f : Partition → Partition) : (s.modPart p f).partOf p = f (s.partOf p) :=
  KMap.get_upd_self _ _ _ _
theorem State.partOf_modPart_ne (s : State) {p q : Nat} (f : Partition → Partition) (h : q ≠ p) : (s.modPart p f).partOf q = s.partOf q :=
  KMap.get_upd_ne _ _ _ h
@[simp] theorem State.coreOf_modCu (s : State) (f : Unit → Unit) (c : Nat) : (s.modCu f).coreOf c = s.coreOf c := rfl
@[simp] theorem State.coreOf_modUnit (s : State) (u : Nat) (f : Unit → Unit) (c : Nat) : (s.modUnit u f).coreOf c = s.coreOf c := rfl
@[simp] theorem State.partOf_modCu (s : State) (f : Unit → Unit) (p : Nat) : (s.modCu f).partOf p = s.partOf p := rfl
@[simp] theorem State.partOf_modUnit (s : State) (u : Nat) (f : Unit → Unit) (p : Nat) : (s.modUnit u f).partOf p = s.partOf p := rfl
@[simp] theorem State.partOf_modCore (s : State) (c : Nat) (f : Core → Core) (p : Nat) : (s.modCore c f).partOf p = s.partOf p := rfl
@[simp] theorem State.unitOf_modCore (s : State) (c : Nat) (f : Core → Core) (u : Nat) : (s.modCore c f).unitOf u = s.unitOf u := rfl
@[simp] theorem State.cu_modCore (s : State) (c : Nat) (f : Core → Core) : (s.modCore c f).cu = s.cu := rfl
@[simp] theorem State.unitOf_modPart (s : State) (p : Nat) (f : Partition → Partition) (u : Nat) : (s.modPart p f).unitOf u = s.unitOf u := rfl
@[simp] theorem State.cu_modPart (s : State) (p : Nat) (f : Partition → Partition) : (s.modPart p f).cu = s.cu := rfl
@[simp] theorem State.coreOf_modPart (s : State) (p : Nat) (f : Partition → Partition) (c : Nat) : (s.modPart p f).coreOf c = s.coreOf c := rfl
@[simp] theorem State.cu_hbmWrite (s : State) (a : Nat) (l : List Byte) : (s.hbmWrite a l).cu = s.cu := rfl
@[simp] theorem State.unitOf_hbmWrite (s : State) (a : Nat) (l : List Byte) (u : Nat) : (s.hbmWrite a l).unitOf u = s.unitOf u := rfl
@[simp] theorem State.partOf_hbmWrite (s : State) (a : Nat) (l : List Byte) (p : Nat) : (s.hbmWrite a l).partOf p = s.partOf p := rfl
@[simp] theorem State.coreOf_hbmWrite (s : State) (a : Nat) (l : List Byte) (c : Nat) : (s.hbmWrite a l).coreOf c = s.coreOf c := rfl

/-! ### Reeves and sheaves -/

@[simp] theorem Unit.reeveOf_modReeve_self (u : Unit) (r : Nat) (f : Reeve → Reeve) : (u.modReeve r f).reeveOf r = f (u.reeveOf r) :=
  KMap.get_set_self _ _ _ _
theorem Unit.reeveOf_modReeve_ne (u : Unit) {r q : Nat} (f : Reeve → Reeve) (h : q ≠ r) : (u.modReeve r f).reeveOf q = u.reeveOf q :=
  KMap.get_set_ne _ _ _ h
@[simp] theorem Unit.sheafOf_modSheaf_self (u : Unit) (k : Nat) (f : Sheaf → Sheaf) : (u.modSheaf k f).sheafOf k = f (u.sheafOf k) :=
  KMap.get_set_self _ _ _ _
theorem Unit.sheafOf_modSheaf_ne (u : Unit) {k j : Nat} (f : Sheaf → Sheaf) (h : j ≠ k) : (u.modSheaf k f).sheafOf j = u.sheafOf j :=
  KMap.get_set_ne _ _ _ h
@[simp] theorem Unit.sheafOf_modReeve (u : Unit) (r : Nat) (f : Reeve → Reeve) (k : Nat) : (u.modReeve r f).sheafOf k = u.sheafOf k := rfl
@[simp] theorem Unit.reeveOf_modSheaf (u : Unit) (k : Nat) (f : Sheaf → Sheaf) (r : Nat) : (u.modSheaf k f).reeveOf r = u.reeveOf r := rfl
@[simp] theorem Unit.owner_modReeve (u : Unit) (r : Nat) (f : Reeve → Reeve) (k : Nat) : (u.modReeve r f).owner k = u.owner k := rfl
@[simp] theorem Unit.owner_modSheaf (u : Unit) (j : Nat) (f : Sheaf → Sheaf) (k : Nat) : (u.modSheaf j f).owner k = u.owner k := rfl
@[simp] theorem Unit.nSheaves_modReeve (u : Unit) (r : Nat) (f : Reeve → Reeve) : (u.modReeve r f).nSheaves = u.nSheaves := rfl
@[simp] theorem Unit.nSheaves_modSheaf (u : Unit) (j : Nat) (f : Sheaf → Sheaf) : (u.modSheaf j f).nSheaves = u.nSheaves := rfl
@[simp] theorem Unit.owns_modReeve (u : Unit) (r : Nat) (f : Reeve → Reeve) (q k : Nat) : (u.modReeve r f).owns q k = u.owns q k := rfl
@[simp] theorem Unit.owns_modSheaf (u : Unit) (j : Nat) (f : Sheaf → Sheaf) (q k : Nat) : (u.modSheaf j f).owns q k = u.owns q k := rfl

end Sys2Proof.Machine
end

