-- ==== Sys2Proof/Laws/Agent.lean ====
section
/-!
SUPPORT. The executing agent's registers after a write, what each named operation touches, and how an instruction ends: `perform`,
`finish`, `retireTo` and `dropReplies`.
-/
namespace Sys2Proof.Machine

/-! ### Who executes -/

@[simp] theorem State.modRe_who (s : State) (f : Reeve → Reeve) : (s.modRe f).who = s.who := rfl
@[simp] theorem State.modRe_uid (s : State) (f : Reeve → Reeve) : (s.modRe f).uid = s.uid := rfl
@[simp] theorem State.modRe_eng (s : State) (f : Reeve → Reeve) : (s.modRe f).eng = s.eng := rfl
@[simp] theorem State.modRt_who (s : State) (c : Nat) (f : Routine → Routine) : (s.modRt c f).who = s.who := rfl
@[simp] theorem State.modRt_uid (s : State) (c : Nat) (f : Routine → Routine) : (s.modRt c f).uid = s.uid := rfl
@[simp] theorem State.modRt_cu (s : State) (c : Nat) (f : Routine → Routine) : (s.modRt c f).cu = s.cu := rfl
@[simp] theorem State.modSh_who (s : State) (f : Sheaf → Sheaf) : (s.modSh f).who = s.who := by
  unfold State.modSh; split <;> rfl
@[simp] theorem State.modSh_uid (s : State) (f : Sheaf → Sheaf) : (s.modSh f).uid = s.uid := by
  unfold State.modSh; split <;> rfl
@[simp] theorem State.wr_who (s : State) (r : Reg) (v : Word) : (s.wr r v).who = s.who := by
  unfold State.wr; split <;> (try split) <;> simp
@[simp] theorem State.wr_uid (s : State) (r : Reg) (v : Word) : (s.wr r v).uid = s.uid := by
  unfold State.wr; split <;> (try split) <;> simp
@[simp] theorem State.flag_who (s : State) (f : Word) : (s.flag f).who = s.who := by unfold State.flag; split <;> simp
@[simp] theorem State.flag_uid (s : State) (f : Word) : (s.flag f).uid = s.uid := by unfold State.flag; split <;> simp
@[simp] theorem State.setMask_who (s : State) (m n : Nat) : (s.setMask m n).who = s.who := by simp [State.setMask]
@[simp] theorem State.setMask_uid (s : State) (m n : Nat) : (s.setMask m n).uid = s.uid := by simp [State.setMask]
@[simp] theorem State.vput_who (s : State) (r k w : Nat) (f : Nat → Option Nat) : (s.vput r k w f).who = s.who := by simp [State.vput]
@[simp] theorem State.vput_uid (s : State) (r k w : Nat) (f : Nat → Option Nat) : (s.vput r k w f).uid = s.uid := by simp [State.vput]

theorem State.cu_reeve_only (s : State) (r : Nat) (f : Reeve → Reeve) (k : Nat) :
    (s.modCu (fun u => u.modReeve r f)).cu.owner k = s.cu.owner k := by simp
@[simp] theorem State.rIdx_modRe (s : State) (f : Reeve → Reeve) : (s.modRe f).rIdx = s.rIdx := by
  unfold State.modRe State.rIdx
  simp only [State.modCu_who]
  split <;> simp [State.rt]
@[simp] theorem State.re_modRe (s : State) (f : Reeve → Reeve) : (s.modRe f).re = f s.re := by
  simp only [State.re, State.rIdx_modRe]
  simp [State.modRe]
@[simp] theorem State.sh_modRe (s : State) (f : Reeve → Reeve) : (s.modRe f).sh = s.sh := by
  unfold State.modRe State.sh
  simp only [State.modCu_who]
  split <;> simp [State.rt]
@[simp] theorem State.rt_modRe (s : State) (f : Reeve → Reeve) (c : Nat) : (s.modRe f).rt c = s.rt c := rfl
@[simp] theorem State.coreOf_modRe (s : State) (f : Reeve → Reeve) (c : Nat) : (s.modRe f).coreOf c = s.coreOf c := rfl

/-! ### What touches only the executing agent -/

theorem TouchesOwn.refl (s : State) : TouchesOwn s s where
  outside := rfl
  units _ _ := rfl
  unit := rfl
  reeves _ _ := rfl
  sheaves _ _ := rfl
  cores _ _ := rfl
  core c _ := by
    unfold State.rt
    cases h : (s.coreOf c).routine <;> simp
    · rw [← h]
    · rw [← h]

theorem TouchesOwn.who {s t : State} (h : TouchesOwn s t) : t.who = s.who := by rw [h.outside]
theorem TouchesOwn.uid {s t : State} (h : TouchesOwn s t) : t.uid = s.uid := by rw [h.outside]

theorem TouchesOwn.trans {s t u : State} (h : TouchesOwn s t) (g : TouchesOwn t u) : TouchesOwn s u where
  outside := g.outside.trans <| by
    have e := h.outside
    generalize t.units = a, t.cores = b at e
    subst e; rfl
  units v hv := (g.units v (h.uid ▸ hv)).trans (h.units v hv)
  unit := by rw [g.unit, h.unit]
  reeves r hr := (g.reeves r (h.who ▸ hr)).trans (h.reeves r hr)
  sheaves k hk := (g.sheaves k (h.who ▸ hk)).trans (h.sheaves k hk)
  cores c hc := (g.cores c (h.who ▸ hc)).trans (h.cores c hc)
  core c hc := by
    have a := h.core c hc
    have b := g.core c (h.who ▸ hc)
    rw [b, a]
    simp [Function.comp_def]

theorem TouchesOwn.modRe {s : State} {r : Nat} (h : s.who = .reeve r) (f : Reeve → Reeve) : TouchesOwn s (s.modRe f) where
  outside := rfl
  units u hu := s.unitOf_modCu_ne _ hu
  unit := by simp [State.modRe]; rfl
  reeves q hq := by
    have : q ≠ s.rIdx := by intro e; apply hq; simp [State.rIdx, h] at e; rw [h, e]
    simp only [State.modRe, State.cu_modCu]
    exact Unit.reeveOf_modReeve_ne _ _ this
  sheaves k hk := by simp [State.modRe]
  cores c hc := rfl
  core c hc := by rw [h] at hc; cases hc

theorem TouchesOwn.modRt {s : State} {c : Nat} (h : s.who = .wain c) (f : Routine → Routine)
    (hf : ∀ x, f x = { x with g := (f x).g, gPoison := (f x).gPoison, vec := (f x).vec, pc := (f x).pc }) : TouchesOwn s (s.modRt c f) where
  outside := rfl
  units u hu := rfl
  unit := rfl
  reeves q hq := rfl
  sheaves k hk := rfl
  cores d hd := by
    have : d ≠ c := by intro e; apply hd; rw [h, e]
    simp only [State.modRt]; exact State.coreOf_modCore_ne _ _ this
  core d hd := by
    rw [h] at hd; cases hd
    simp only [State.modRt, State.rt, State.coreOf_modCore_self]
    cases hr : (s.coreOf c).routine with
    | none => simp
    | some x => simp; exact hf x

theorem TouchesOwn.modSh (s : State) (f : Sheaf → Sheaf) : TouchesOwn s (s.modSh f) := by
  unfold State.modSh
  split
  · rename_i c hc
    exact TouchesOwn.modRt hc _ (fun _ => rfl)
  · rename_i k hk
    exact
      { outside := rfl
        units := fun u hu => s.unitOf_modCu_ne _ hu
        unit := by simp; rfl
        reeves := fun r _ => by simp
        sheaves := fun j hj => by
          have : j ≠ k := by intro e; apply hj; rw [hk, e]
          simp only [State.cu_modCu]; exact Unit.sheafOf_modSheaf_ne _ _ this
        cores := fun _ _ => rfl
        core := fun c hc => by rw [hk] at hc; cases hc }
  · exact TouchesOwn.refl s

theorem TouchesOwn.wr (s : State) (r : Reg) (v : Word) : TouchesOwn s (s.wr r v) := by
  unfold State.wr
  split
  · rename_i h; split
    · exact TouchesOwn.refl s
    · exact TouchesOwn.modRe h _
  · exact TouchesOwn.modSh s _
  · rename_i h; split
    · exact TouchesOwn.refl s
    · exact TouchesOwn.modRt h _ (fun _ => rfl)

theorem TouchesOwn.flag (s : State) (f : Word) : TouchesOwn s (s.flag f) := by
  unfold State.flag
  split
  · rename_i h; exact TouchesOwn.modRe h _
  · exact TouchesOwn.modSh s _

theorem TouchesOwn.setMask (s : State) (m n : Nat) : TouchesOwn s (s.setMask m n) := TouchesOwn.modSh s _
theorem TouchesOwn.vput (s : State) (r k w : Nat) (f : Nat → Option Nat) : TouchesOwn s (s.vput r k w f) := by
  unfold State.vput; exact TouchesOwn.modSh s _

theorem TouchesOwn.retireTo (s : State) (a : Word) : TouchesOwn s (s.retireTo a) := by
  unfold State.retireTo
  split
  · rename_i h; exact TouchesOwn.modRe h _
  · exact TouchesOwn.modSh s _
  · rename_i h; exact TouchesOwn.modRt h _ (fun _ => rfl)

theorem TouchesOwn.markWait (s : State) (w : Wait) : TouchesOwn s (s.markWait w) := by
  unfold State.markWait
  split
  · rename_i h; exact TouchesOwn.modRe h _
  · exact TouchesOwn.modSh s _
  · exact TouchesOwn.refl s

/-! ### Scalar registers -/

theorem State.rt_modRt {s : State} {c : Nat} (h : (s.routineOf c).isSome = true) (f : Routine → Routine) : (s.modRt c f).rt c = f (s.rt c) := by
  obtain ⟨x, hx⟩ := Option.isSome_iff_exists.mp h
  simp only [State.routineOf] at hx
  simp [State.modRt, State.rt, hx]
theorem State.sh_modSh_sheaf {s : State} {k : Nat} (h : s.who = .sheaf k) (f : Sheaf → Sheaf) : (s.modSh f).sh = f s.sh := by
  simp [State.modSh, State.sh, h]
theorem State.sh_modSh_wain {s : State} {c : Nat} (h : s.who = .wain c) (g : (s.routineOf c).isSome = true) (f : Sheaf → Sheaf) :
    (s.modSh f).sh = f s.sh := by
  have : (s.modSh f) = s.modRt c (fun x => { x with vec := f x.vec }) := by simp [State.modSh, h]
  rw [this]
  simp only [State.sh, State.modRt_who, h]
  rw [State.rt_modRt g]

theorem Reg.key_ne {r d : Reg} (h : r ≠ d) : r.toNat ≠ d.toNat := fun e => h (BitVec.eq_of_toNat_eq e)

/-- Reading a scalar register after a write to one. -/
theorem State.rd_wr (s : State) (hs : s.agentOk = true) (d r : Reg) (v : Word) :
    (s.wr d v).rd r = if r = d then s.written d v else s.rd r := by
  cases h : s.who with
  | reeve q =>
    by_cases hd : d = 0
    · have : s.wr d v = s := by simp [State.wr, h, hd]
      rw [this]
      by_cases hr : r = d <;> simp +contextual [hr, hd, State.written, State.rd, h]
    · have : s.wr d v = s.modRe (fun x => { x with g := KMap.set 0 x.g d.toNat v, gPoison := KMap.set false x.gPoison d.toNat false }) := by
        simp only [State.wr, h, hd, if_false]
      rw [this]
      by_cases hr : r = d
      · simp only [State.rd, State.modRe_who, h, State.re_modRe, hr, hd, if_false, if_true, State.written, KMap.get_set_self]
      · simp only [State.rd, State.modRe_who, h, State.re_modRe, hr, if_false, KMap.get_set_ne _ _ _ (Reg.key_ne hr)]
  | sheaf k =>
    simp only [State.wr, State.written, h]
    simp only [State.rd, State.modSh_who, h, State.sh_modSh_sheaf h]
    by_cases hr : r = d
    · simp [hr]
    · simp [hr, KMap.get_set_ne _ _ _ (Reg.key_ne hr)]
  | wain c =>
    have g : (s.routineOf c).isSome = true := by simpa [State.agentOk, h] using hs
    by_cases hd : d = 0
    · have : s.wr d v = s := by simp [State.wr, h, hd]
      rw [this]
      by_cases hr : r = d <;> simp +contextual [hr, hd, State.written, State.rd, h]
    · have : s.wr d v =
          s.modRt c (fun x => { x with g := KMap.set 0 x.g d.toNat v, gPoison := KMap.set false x.gPoison d.toNat false }) := by
        simp only [State.wr, h, hd, if_false]
      rw [this]
      by_cases hr : r = d
      · simp only [State.rd, State.modRt_who, h, State.rt_modRt g, hr, hd, if_false, if_true, State.written, KMap.get_set_self]
      · simp only [State.rd, State.modRt_who, h, State.rt_modRt g, hr, if_false, KMap.get_set_ne _ _ _ (Reg.key_ne hr)]

/-- A write leaves the poison marks of other registers, and clears its own. -/
theorem State.poisoned_wr (s : State) (hs : s.agentOk = true) (d r : Reg) (v : Word) (h : r ≠ d) : (s.wr d v).poisoned r = s.poisoned r := by
  cases e : s.who with
  | reeve q =>
    by_cases hd : d = 0
    · simp [State.wr, e, hd]
    · have : s.wr d v = s.modRe (fun x => { x with g := KMap.set 0 x.g d.toNat v, gPoison := KMap.set false x.gPoison d.toNat false }) := by
        simp only [State.wr, e, hd, if_false]
      rw [this]
      simp only [State.poisoned, State.modRe_who, e, State.re_modRe, KMap.get_set_ne _ _ _ (Reg.key_ne h)]
  | sheaf k =>
    simp only [State.wr, e, State.poisoned, State.modSh_who, State.sh_modSh_sheaf e, KMap.get_set_ne _ _ _ (Reg.key_ne h)]
  | wain c =>
    have g : (s.routineOf c).isSome = true := by simpa [State.agentOk, e] using hs
    by_cases hd : d = 0
    · simp [State.wr, e, hd]
    · have : s.wr d v =
          s.modRt c (fun x => { x with g := KMap.set 0 x.g d.toNat v, gPoison := KMap.set false x.gPoison d.toNat false }) := by
        simp only [State.wr, e, hd, if_false]
      rw [this]
      simp only [State.poisoned, State.modRt_who, e, State.rt_modRt g, KMap.get_set_ne _ _ _ (Reg.key_ne h)]

/-! ### How an instruction ends -/

theorem State.dropOwn_frame (s : State) : ∃ x, s.dropOwn = { s with units := x } := by
  unfold State.dropOwn; split <;> exact ⟨_, rfl⟩
theorem State.dropShards_frame (s : State) : ∃ x, s.dropShards = { s with shardOut := x } := by
  unfold State.dropShards; split <;> exact ⟨_, rfl⟩
/-- Dropping the replies of the executing instruction changes its unit's pending replies and the sharded accesses in flight, no more. -/
theorem State.dropReplies_frame (s : State) : ∃ x y, s.dropReplies = { s with units := x, shardOut := y } := by
  obtain ⟨x, hx⟩ := s.dropOwn_frame
  obtain ⟨y, hy⟩ := s.dropOwn.dropShards_frame
  exact ⟨x, y, by rw [State.dropReplies, hy, hx]⟩
theorem State.dropReplies_who (s : State) : s.dropReplies.who = s.who := by obtain ⟨x, y, h⟩ := s.dropReplies_frame; rw [h]
theorem State.dropReplies_uid (s : State) : s.dropReplies.uid = s.uid := by obtain ⟨x, y, h⟩ := s.dropReplies_frame; rw [h]
theorem State.dropReplies_coreOf (s : State) (c : Nat) : s.dropReplies.coreOf c = s.coreOf c := by
  obtain ⟨x, y, h⟩ := s.dropReplies_frame; rw [h]; rfl
theorem State.dropReplies_partOf (s : State) (c : Nat) : s.dropReplies.partOf c = s.partOf c := by
  obtain ⟨x, y, h⟩ := s.dropReplies_frame; rw [h]; rfl
theorem State.dropShards_unitOf (s : State) (u : Nat) : s.dropShards.unitOf u = s.unitOf u := by
  obtain ⟨x, h⟩ := s.dropShards_frame; rw [h]; rfl
theorem State.dropReplies_unitOf_ne (s : State) {u : Nat} (h : u ≠ s.uid) : s.dropReplies.unitOf u = s.unitOf u := by
  rw [State.dropReplies, State.dropShards_unitOf]
  unfold State.dropOwn
  split
  · rfl
  · exact s.unitOf_modCu_ne _ h
theorem State.dropReplies_cu (s : State) :
    s.dropReplies.cu = { s.cu with replies := s.cu.replies.filter (fun p => p.agent != s.agentNo) } := by
  unfold State.cu
  rw [State.dropReplies_uid, State.dropReplies, State.dropShards_unitOf]
  unfold State.dropOwn
  split
  · rename_i h
    have e : (s.unitOf s.uid).replies = [] := by simpa [State.cu] using h
    rw [e, List.filter_nil, ← e]
  · exact s.unitOf_modCu_self _
/-- An instruction that left no reply behind drops none. -/
theorem State.dropReplies_none (s : State) (h : s.cu.replies = []) (g : s.shardOut = []) : s.dropReplies = s := by
  simp [State.dropReplies, State.dropOwn, State.dropShards, h, g]
theorem State.dropReplies_rIdx (s : State) : s.dropReplies.rIdx = s.rIdx := by
  simp only [State.rIdx, State.dropReplies_who, State.rt, State.dropReplies_coreOf]
  split <;> simp [State.dropReplies_cu]
  rfl
theorem State.dropReplies_re (s : State) : s.dropReplies.re = s.re := by
  simp only [State.re, State.dropReplies_rIdx, State.dropReplies_cu]; rfl
theorem State.dropReplies_sh (s : State) : s.dropReplies.sh = s.sh := by
  simp only [State.sh, State.dropReplies_who, State.rt, State.dropReplies_coreOf, State.dropReplies_cu]; rfl
theorem State.dropReplies_pc (s : State) : s.dropReplies.pc = s.pc := by
  simp only [State.pc, State.dropReplies_who, State.rt, State.dropReplies_coreOf, State.dropReplies_re, State.dropReplies_sh]
theorem State.dropReplies_rd (s : State) (r : Reg) : s.dropReplies.rd r = s.rd r := by
  simp only [State.rd, State.dropReplies_who, State.rt, State.dropReplies_coreOf, State.dropReplies_re, State.dropReplies_sh]
theorem State.dropReplies_poisoned (s : State) (r : Reg) : s.dropReplies.poisoned r = s.poisoned r := by
  simp only [State.poisoned, State.dropReplies_who, State.rt, State.dropReplies_coreOf, State.dropReplies_re, State.dropReplies_sh]


theorem State.dropOwn_agentNo (s : State) : s.dropOwn.agentNo = s.agentNo := by
  obtain ⟨x, h⟩ := s.dropOwn_frame; rw [h]; rfl
theorem State.dropReplies_shardOut (s : State) :
    s.dropReplies.shardOut = s.shardOut.filter (fun o => !(o.uid == s.uid && o.agent == s.agentNo)) := by
  obtain ⟨x, h⟩ := s.dropOwn_frame
  rw [State.dropReplies]
  unfold State.dropShards
  split
  · rename_i e
    have e' : s.shardOut = [] := by rw [h] at e; simpa using e
    rw [h]; simp [e']
  · simp only [State.dropOwn_agentNo]; rw [h]
theorem State.dropReplies_eq (s : State) : s.dropReplies = { s with
    units := s.dropReplies.units, shardOut := s.shardOut.filter (fun o => !(o.uid == s.uid && o.agent == s.agentNo)) } := by
  obtain ⟨x, y, h⟩ := s.dropReplies_frame
  have g := s.dropReplies_shardOut
  rw [h] at g ⊢
  simp only at g
  rw [g]

theorem TouchesOwn.rt_seq {s t : State} (h : TouchesOwn s t) {c : Nat} (e : s.who = .wain c) : (t.rt c).seq = (s.rt c).seq := by
  have := congrArg Core.routine (h.core c e)
  simp only at this
  unfold State.rt
  rw [this]
  cases (s.coreOf c).routine <;> rfl
theorem TouchesOwn.agentNo {s t : State} (h : TouchesOwn s t) : t.agentNo = s.agentNo := by
  have he : t.eng = s.eng := by rw [h.outside]
  unfold State.agentNo
  rw [he, h.who]
  cases s.eng with
  | some n => rfl
  | none =>
    cases e : s.who with
    | wain c => simp only [h.rt_seq e]
    | _ => rfl
theorem TouchesOwn.shardOut {s t : State} (h : TouchesOwn s t) : t.shardOut = s.shardOut := by rw [h.outside]
/-- Dropping replies commutes with what touches only the agent. -/
theorem TouchesOwn.dropReplies {s t : State} (h : TouchesOwn s t) : TouchesOwn s.dropReplies t.dropReplies where
  outside := by
    rw [t.dropReplies_eq, s.dropReplies_eq, h.shardOut, h.agentNo, h.uid]
    have e := h.outside
    generalize t.dropReplies.units = a
    generalize t.units = b, t.cores = c at e
    subst e; rfl
  units u hu := by
    rw [s.dropReplies_uid] at hu
    rw [t.dropReplies_unitOf_ne (h.uid ▸ hu), s.dropReplies_unitOf_ne hu, h.units u hu]
  unit := by rw [t.dropReplies_cu, s.dropReplies_cu, h.agentNo, h.unit]
  reeves r hr := by
    rw [s.dropReplies_who] at hr
    have := h.reeves r hr
    rw [t.dropReplies_cu, s.dropReplies_cu]; exact this
  sheaves k hk := by
    rw [s.dropReplies_who] at hk
    have := h.sheaves k hk
    rw [t.dropReplies_cu, s.dropReplies_cu]; exact this
  cores c hc := by
    rw [s.dropReplies_who] at hc
    rw [t.dropReplies_coreOf, s.dropReplies_coreOf, h.cores c hc]
  core c hc := by
    rw [s.dropReplies_who] at hc
    have := h.core c hc
    simp only [State.rt, t.dropReplies_coreOf, s.dropReplies_coreOf]
    exact this

theorem TouchesOwn.agentOk {s t : State} (h : TouchesOwn s t) : t.agentOk = s.agentOk := by
  unfold State.agentOk State.routineOf
  rw [h.who]
  split
  · rename_i c e
    rw [h.core c e]; cases (s.coreOf c).routine <;> rfl
  · rfl
theorem TouchesOwn.written {s t : State} (h : TouchesOwn s t) (d : Reg) (v : Word) : t.written d v = s.written d v := by
  unfold State.written; rw [h.who]
theorem State.dropReplies_agentOk (s : State) : s.dropReplies.agentOk = s.agentOk := by
  unfold State.agentOk State.routineOf
  rw [s.dropReplies_who]; simp only [s.dropReplies_coreOf]

/-- The checks of R333 pass: no trap, and the word is not switched off. -/
theorem State.clear_off {s : State} {r : Runs} {k : Bool} {a b : List Reg} (h : s.clear r k a b = true) : s.off = false := by
  simp only [State.clear, Bool.and_eq_true, Bool.not_eq_true'] at h
  exact h.1.1.1.1.1
theorem State.clear_before {s : State} {r : Runs} {k : Bool} {a b : List Reg} (h : s.clear r k a b = true) (w : Word) :
    s.before w r k a b = none := by
  simp only [State.clear, Bool.and_eq_true, Bool.not_eq_true', Bool.or_eq_true] at h
  obtain ⟨⟨⟨⟨⟨_, h1⟩, h2⟩, h3⟩, h4⟩, h5⟩ := h
  have h6 : s.badNext = none := by simpa using h5
  unfold State.before
  rw [h1, h3, h4, h6]
  rcases h2 with h2 | h2 <;> rw [h2]
  · simp
  · cases k <;> simp
/-- An instruction whose checks pass has its own effect. -/
theorem State.perform_clear {s : State} {r : Runs} {k : Bool} {a b : List Reg} (h : s.clear r k a b = true) (w : Word) (body : State → Eff) :
    s.perform w r k a b body = finish (body s) := by
  unfold State.perform; rw [State.clear_off h, State.clear_before h]; rfl
/-- A switched-off word completes at once, without effect, or traps where the next word is misaligned. -/
theorem State.perform_off {s : State} (h : s.off = true) (w : Word) (r : Runs) (k : Bool) (a b : List Reg) (body : State → Eff) :
    s.perform w r k a b body = .next s.retireOff := by unfold State.perform; rw [h]; rfl
/-- A failed check traps. -/
theorem State.perform_trap {s : State} {w : Word} {r : Runs} {k : Bool} {a b : List Reg} {t : TrapInfo} (h : s.off = false)
    (g : s.before w r k a b = some t) (body : State → Eff) : s.perform w r k a b body = .next (s.takeTrap t) := by
  unfold State.perform; rw [h, g]; rfl
/-- Every instruction word ends in a next state. -/
theorem finish_next (e : Eff) : ∃ t, finish e = .next t := by cases e <;> exact ⟨_, rfl⟩
theorem State.perform_next (s : State) (w : Word) (r : Runs) (k : Bool) (a b : List Reg) (body : State → Eff) :
    ∃ t, s.perform w r k a b body = .next t := by
  unfold State.perform
  split
  · exact ⟨_, rfl⟩
  · split
    · exact ⟨_, rfl⟩
    · exact finish_next _

/-! ### The frame of a scalar word -/

theorem loopTurn_regs (x : Sheaf) (h : KMap Word) (p : KMap Bool) (n : Word) (k : Nat) :
    loopTurn { x with h := h, hPoison := p } n k =
      ({ (loopTurn x n k).1 with h := h, hPoison := p }, (loopTurn x n k).2.1, (loopTurn x n k).2.2) := by
  unfold loopTurn Sheaf.loopReg Sheaf.setLoop slpV slpLp sloopStep slpS sloopExit
  simp only
  split
  · split
    · split <;> rfl
    · split <;> rfl
  · rfl
/-- The choice of the next word does not depend on the scalar registers (R418). -/
theorem sheafNext_regs (x : Sheaf) (h : KMap Word) (p : KMap Bool) (n : Word) :
    sheafNext { x with h := h, hPoison := p } n = { sheafNext x n with h := h, hPoison := p } := by
  unfold sheafNext
  simp only [loopTurn_regs]
  split <;> rfl
theorem loopTurn_wait (x : Sheaf) (n : Word) (k : Nat) : (loopTurn x n k).1.h = x.h ∧ (loopTurn x n k).1.hPoison = x.hPoison := by
  unfold loopTurn Sheaf.setLoop sloopStep sloopExit
  simp only
  split
  · split
    · split <;> exact ⟨rfl, rfl⟩
    · split <;> exact ⟨rfl, rfl⟩
  · exact ⟨rfl, rfl⟩
theorem sheafNext_h (x : Sheaf) (n : Word) : (sheafNext x n).h = x.h ∧ (sheafNext x n).hPoison = x.hPoison := by
  unfold sheafNext
  dsimp only
  split
  · exact loopTurn_wait x n 1
  · have a := loopTurn_wait x n 1
    have b := loopTurn_wait (loopTurn x n 1).1 (loopTurn x n 1).2.1 0
    exact ⟨b.1.trans a.1, b.2.trans a.2⟩

/-- From `s` to `u` only register `d` of the executing agent, its mark and a reeve's sticky flags changed. -/
structure Wrote (s u : State) (d : Option Reg) (f : Word) : Prop where
  own : TouchesOwn s u
  regs : ∀ r, some r ≠ d → u.rd r = s.rd r ∧ u.poisoned r = s.poisoned r
  reeve : ∀ r, s.who = .reeve r → u.re = { s.re with g := u.re.g, gPoison := u.re.gPoison, fx := s.re.fx ||| f }
  sheaf : ∀ k, s.who = .sheaf k → u.sh = { s.sh with h := u.sh.h, hPoison := u.sh.hPoison }
  wain : ∀ c, s.who = .wain c → (s.routineOf c).isSome = true → u.rt c = { s.rt c with g := (u.rt c).g, gPoison := (u.rt c).gPoison }

theorem Wrote.refl (s : State) : Wrote s s none 0 where
  own := TouchesOwn.refl s
  regs _ _ := ⟨rfl, rfl⟩
  reeve _ _ := by simp
  sheaf _ _ := rfl
  wain _ _ _ := rfl
theorem Wrote.wr (s : State) (d : Reg) (v : Word) (hs : s.agentOk = true) : Wrote s (s.wr d v) (some d) 0 where
  own := TouchesOwn.wr s d v
  regs r hr := by
    have hr' : r ≠ d := fun e => hr (by rw [e])
    exact ⟨by rw [s.rd_wr hs]; simp [hr'], s.poisoned_wr hs d r v hr'⟩
  reeve r h := by
    by_cases hd : d = 0
    · simp [State.wr, h, hd]
    · have : s.wr d v = s.modRe (fun x => { x with g := KMap.set 0 x.g d.toNat v, gPoison := KMap.set false x.gPoison d.toNat false }) := by
        simp only [State.wr, h, hd, if_false]
      rw [this, State.re_modRe]; simp
  sheaf k h := by simp only [State.wr, h]; rw [State.sh_modSh_sheaf h]
  wain c h g := by
    by_cases hd : d = 0
    · simp [State.wr, h, hd]
    · have : s.wr d v =
          s.modRt c (fun x => { x with g := KMap.set 0 x.g d.toNat v, gPoison := KMap.set false x.gPoison d.toNat false }) := by
        simp only [State.wr, h, hd, if_false]
      rw [this, State.rt_modRt g]
/-- A reeve's flags, then a register. -/
theorem Wrote.flag_wr (s : State) (d : Reg) (v f : Word) {r : Nat} (h : s.who = .reeve r) : Wrote s ((s.flag f).wr d v) (some d) f where
  own := (TouchesOwn.flag s f).trans (TouchesOwn.wr _ d v)
  regs q hq := by
    have hq' : q ≠ d := fun e => hq (by rw [e])
    have e : s.flag f = s.modRe (fun x => { x with fx := x.fx ||| f }) := by simp only [State.flag, h]
    have hs : (s.flag f).agentOk = true := by rw [(TouchesOwn.flag s f).agentOk]; simp [State.agentOk, h]
    rw [State.rd_wr _ hs, State.poisoned_wr _ hs _ _ _ hq', e]
    simp [hq', State.rd, State.poisoned, h]
  reeve q hq := by
    have e : s.flag f = s.modRe (fun x => { x with fx := x.fx ||| f }) := by simp only [State.flag, h]
    by_cases hd : d = 0
    · have : (s.flag f).wr d v = s.flag f := by simp [State.wr, State.flag_who, h, hd]
      rw [this, e, State.re_modRe]
    · have : (s.flag f).wr d v =
          (s.flag f).modRe (fun x => { x with g := KMap.set 0 x.g d.toNat v, gPoison := KMap.set false x.gPoison d.toNat false }) := by
        simp only [State.wr, State.flag_who, h, hd, if_false]
      rw [this, e, State.re_modRe, State.re_modRe]
  sheaf k hk := by rw [h] at hk; cases hk
  wain c hc := by rw [h] at hc; cases hc

theorem State.rd_retireTo (s : State) (a : Word) (hs : s.agentOk = true) (r : Reg) :
    (s.retireTo a).rd r = s.rd r ∧ (s.retireTo a).poisoned r = s.poisoned r := by
  cases h : s.who with
  | reeve q => simp [State.retireTo, h, State.rd, State.poisoned]
  | sheaf k =>
    simp only [State.retireTo, h, State.rd, State.poisoned, State.modSh_who, State.sh_modSh_sheaf h, sheafNext_h, and_self]
  | wain c =>
    have g : (s.routineOf c).isSome = true := by simpa [State.agentOk, h] using hs
    simp only [State.retireTo, h, State.rd, State.poisoned, State.modRt_who, State.rt_modRt g, and_self]

/-- The frame of a word that writes at most one register: its effect, the drop of its replies, and the next word. -/
theorem Wrote.retire {s u : State} {d : Option Reg} {f : Word} (h : Wrote s u d f) (hs : s.agentOk = true) (next : Word) :
    ScalarFrame s (u.dropReplies.retireTo next) d f next where
  own := h.own.dropReplies.trans (TouchesOwn.retireTo _ _)
  regs r hr := by
    have hu : u.dropReplies.agentOk = true := by rw [u.dropReplies_agentOk, h.own.agentOk, hs]
    have e := u.dropReplies.rd_retireTo next hu r
    rw [e.1, e.2, u.dropReplies_rd, u.dropReplies_poisoned]
    exact h.regs r hr
  reeve r hr := by
    have hw : u.dropReplies.who = .reeve r := by rw [u.dropReplies_who, h.own.who, hr]
    simp only [State.retireTo, hw, State.re_modRe, u.dropReplies_re]
    have := h.reeve r hr
    rw [this]
  sheaf k hk := by
    have hw : u.dropReplies.who = .sheaf k := by rw [u.dropReplies_who, h.own.who, hk]
    simp only [State.retireTo, hw, State.sh_modSh_sheaf hw, u.dropReplies_sh]
    have e := h.sheaf k hk
    have : sheafNext u.sh next = { sheafNext s.sh next with h := u.sh.h, hPoison := u.sh.hPoison } := by
      rw [e]; exact sheafNext_regs _ _ _ _
    rw [this]
  wain c hc g := by
    have hw : u.dropReplies.who = .wain c := by rw [u.dropReplies_who, h.own.who, hc]
    have hg : (u.dropReplies.routineOf c).isSome = true := by
      have := h.own.core c hc
      simp only [State.routineOf, u.dropReplies_coreOf, this]
      simpa [State.routineOf] using g
    simp only [State.retireTo, hw, State.rt_modRt hg]
    have e : u.dropReplies.rt c = u.rt c := by simp only [State.rt, u.dropReplies_coreOf]
    rw [e, h.wain c hc g]

/-- The word that follows after the frame of a word. -/
theorem ScalarFrame.pc {s t : State} {d : Option Reg} {f next : Word} (h : ScalarFrame s t d f next) (hs : s.agentOk = true) :
    t.pc = match s.who with | .sheaf _ => (sheafNext s.sh next).pc | _ => next := by
  have hw : t.who = s.who := by rw [h.own.who, s.dropReplies_who]
  unfold State.pc
  rw [hw]
  cases e : s.who with
  | reeve r => simp only; rw [h.reeve r e]
  | sheaf k => simp only; rw [h.sheaf k e]
  | wain c =>
    have g : (s.routineOf c).isSome = true := by simpa [State.agentOk, e] using hs
    simp only; rw [h.wain c e g]
theorem ScalarFrame.follow {s t : State} {d : Option Reg} {f : Word} (h : ScalarFrame s t d f (s.pc + 8)) (hs : s.agentOk = true) :
    t.pc = s.follow := by
  rw [h.pc hs]; unfold State.follow; cases s.who <;> rfl

theorem State.ready_agent {s : State} {a b : List Reg} (h : s.ready a b = true) : s.agentOk = true := by
  simp only [State.ready, Bool.and_eq_true] at h; exact h.1.1.1.1
/-- A ready word whose context and mode are right passes every check of R333. -/
theorem State.ready_clear {s : State} {a b : List Reg} (h : s.ready a b = true) {r : Runs} (hr : runsIn r s.who = true) {k : Bool}
    (hk : k = false ∨ s.keeper = true) : s.clear r k a b = true := by
  simp only [State.ready, Bool.and_eq_true] at h
  obtain ⟨⟨⟨⟨_, h1⟩, h2⟩, h3⟩, h4⟩ := h
  unfold State.clear
  rw [h1, h2, h3, h4, hr]
  rcases hk with rfl | hk
  · rfl
  · rw [hk]; cases k <;> rfl

/-- A word whose effect is one register write: it completes, writes the register, and leaves everything else. -/
theorem State.perform_write {s : State} {a b : List Reg} (h : s.ready a b = true) {r : Runs} (hr : runsIn r s.who = true) {k : Bool}
    (hk : k = false ∨ s.keeper = true) (w : Word) (d : Reg) (v : Word) (body : State → Eff) (hb : body s = .go (s.wr d v)) :
    ∃ t, s.perform w r k a b body = .next t ∧ t.rd d = s.written d v ∧ t.pc = s.follow ∧ ScalarFrame s t (some d) 0 (s.pc + 8) := by
  have hs := State.ready_agent h
  have hw := Wrote.wr s d v hs
  have hpc : (s.wr d v).dropReplies.pc = s.pc := by
    have f := hw.retire hs (s.pc + 8)
    rw [State.dropReplies_pc]
    unfold State.pc
    rw [State.wr_who]
    cases e : s.who with
    | reeve q => simp only; rw [hw.reeve q e]
    | sheaf k => simp only; rw [hw.sheaf k e]
    | wain c =>
      have g : (s.routineOf c).isSome = true := by simpa [State.agentOk, e] using hs
      simp only; rw [hw.wain c e g]
  refine ⟨(s.wr d v).dropReplies.retireTo (s.pc + 8), ?_, ?_, ?_, hw.retire hs _⟩
  · rw [State.perform_clear (State.ready_clear h hr hk), hb]
    simp only [finish, State.retire, hpc]
  · have hu : (s.wr d v).dropReplies.agentOk = true := by rw [State.dropReplies_agentOk, hw.own.agentOk, hs]
    rw [(State.rd_retireTo _ _ hu d).1, State.dropReplies_rd, State.rd_wr s hs]; simp
  · exact (hw.retire hs (s.pc + 8)).follow hs

end Sys2Proof.Machine
end

