-- ==== Sys2Proof/Laws/Encode.lean ====
section
/-!
SUPPORT. Field laws of the encoder: what the decoder's field functions read from the words of `mkF`, `mkL`, slots and D words.
-/
set_option linter.unusedSimpArgs false
set_option Elab.async false
namespace Sys2Proof
open Sys2Proof.Machine

theorem Laws.ex_lo {v w : Nat} (x : BitVec v) (y : BitVec w) (s l : Nat) (h : s + l ≤ w) :
    (x ++ y).extractLsb' s l = y.extractLsb' s l := BitVec.extractLsb'_append_eq_of_add_le h
theorem Laws.ex_hi {v w : Nat} (x : BitVec v) (y : BitVec w) (s l : Nat) (h : w ≤ s) :
    (x ++ y).extractLsb' s l = x.extractLsb' (s - w) l := BitVec.extractLsb'_append_eq_of_le h
theorem Laws.decode_mkF (op : BitVec 8) (d a b : Reg) (q : BitVec 4) (x : BitVec 32) :
    decode (mkF op d a b q x) = (decodeF op.toNat d a b q x).bind fun i => req i.wf i := by
  simp (disch := decide) only [decode, decodeRaw, wTag, wOp, wD, wA, wB, wQ, wX, mkF, Laws.ex_lo, Laws.ex_hi, Nat.reduceSub]
  simp
theorem Laws.decode_mkL (op : BitVec 8) (d : Reg) (imm : BitVec 48) :
    decode (mkL op d imm) = (decodeL op.toNat d imm).bind fun i => req i.wf i := by
  simp (disch := decide) only [decode, decodeRaw, wTag, wOp, wD, wImm, mkL, Laws.ex_lo, Laws.ex_hi, Nat.reduceSub]
  simp
theorem Laws.tyOf_tyB (t : Ty) : tyOf (tyB t).toNat = some t := by cases t <;> rfl
theorem Laws.ex_all {w : Nat} (x : BitVec w) : x.extractLsb' 0 w = x := BitVec.extractLsb'_eq_self
theorem Laws.condOf_code (c : Cond) : condOf (condCode c % 64) = some c := by cases c <;> rfl
theorem Laws.fcondOf_code (c : FCond) : fcondOf (fcondCode c % 64) = some c := by cases c <;> rfl
theorem Laws.vcondOf_code (c : VCond) : vcondOf (vcondCode c % 64) = some c := by cases c <;> rfl
theorem Laws.amoOf_code (c : AmoOp) : amoOf (amoCode c % 64) = some c := by cases c <;> rfl
theorem Laws.condOf_code16 (c : Cond) : condOf (condCode c % 16) = some c := by cases c <;> rfl
theorem Laws.tyB_i8 : tyB .i8 = 0#5 := rfl
theorem Laws.tyB_f32 : tyB .f32 = 9#5 := rfl
theorem Laws.scB_hi (b : Bool) : (scB b).extractLsb' 1 14 = 0#14 := by cases b <;> rfl
theorem Laws.scB_lo (b : Bool) : (scB b).getLsbD 0 = b := by cases b <;> rfl
theorem Laws.fn2_hi (q : BitVec 2) : (BitVec.ofNat 6 q.toNat).extractLsb' 2 4 = 0#4 := by revert q; decide
theorem Laws.fn2_lo (q : BitVec 2) : (BitVec.ofNat 6 q.toNat).extractLsb' 0 2 = q := by revert q; decide
theorem Laws.fn3_hi (q : BitVec 3) : (BitVec.ofNat 6 q.toNat).extractLsb' 3 3 = 0#3 := by revert q; decide
theorem Laws.fn3_lo (q : BitVec 3) : (BitVec.ofNat 6 q.toNat).extractLsb' 0 3 = q := by revert q; decide
theorem Laws.fnb_hi (b : Bool) : (BitVec.ofNat 6 (if b = true then 1 else 0)).extractLsb' 1 5 = 0#5 := by cases b <;> rfl
theorem Laws.fnb_hi11 (b : Bool) : (0#6 ++ BitVec.ofNat 6 (if b = true then 1 else 0)).extractLsb' 1 11 = 0#11 := by cases b <;> rfl
theorem Laws.fnb_lo (b : Bool) : (BitVec.ofNat 6 (if b = true then 1 else 0)).getLsbD 0 = b := by cases b <;> rfl
theorem Laws.amo_hi (c : AmoOp) : (BitVec.ofNat 20 (amoCode c)).extractLsb' 6 14 = 0#14 := by cases c <;> rfl
theorem Laws.amo_lo (c : AmoOp) : (BitVec.ofNat 20 (amoCode c)).extractLsb' 0 6 = BitVec.ofNat 6 (amoCode c) := by cases c <;> rfl
theorem Laws.tail20 {n : Nat} (a : BitVec n) : (a ++ 0#5 ++ 0#15).extractLsb' 0 20 = 0#20 := by
  apply BitVec.eq_of_getLsbD_eq; intro i hi
  simp only [BitVec.getLsbD_extractLsb', BitVec.getLsbD_append, BitVec.getLsbD_zero]
  repeat' split
  all_goals simp
  omega
theorem Laws.tail7 {n : Nat} (a : BitVec n) : (a ++ 0#3 ++ 0#2 ++ 0#2).extractLsb' 0 7 = 0#7 := by
  apply BitVec.eq_of_getLsbD_eq; intro i hi
  simp only [BitVec.getLsbD_extractLsb', BitVec.getLsbD_append, BitVec.getLsbD_zero]
  repeat' split
  all_goals simp
  omega
theorem Laws.decodeSlot_encodeSlot (s : Slot) : decodeSlot (encodeSlot s) = some s := by
  cases s with
  | alu o d a b => cases o <;> (simp only [encodeSlot, decodeSlot, slotAluCode]; simp (disch := decide) only [Laws.ex_lo, Laws.ex_hi, Laws.ex_all, Nat.reduceSub]; rfl)
  | vec o d a b => cases o <;> (simp only [encodeSlot, decodeSlot, slotVecCode]; simp (disch := decide) only [Laws.ex_lo, Laws.ex_hi, Laws.ex_all, Nat.reduceSub]; rfl)
  | br c d a i => cases c <;> (simp only [encodeSlot, decodeSlot, slotCondCode]; simp (disch := decide) only [Laws.ex_lo, Laws.ex_hi, Laws.ex_all, Nat.reduceSub]; rfl)
  | _ => simp only [encodeSlot, decodeSlot]; simp (disch := decide) only [Laws.ex_lo, Laws.ex_hi, Laws.ex_all, Nat.reduceSub]; rfl
theorem Laws.wf_dual (a b : Slot) : (Instr.dualWord a b).wf = pairOk a b := rfl
theorem Laws.decode_dual (a b : Slot) : decode (1#2 ++ encodeSlot a ++ encodeSlot b) = req (pairOk a b) (.dualWord a b) := by
  simp only [decode, decodeRaw, wTag, slotBitsA, slotBitsB]
  simp (disch := decide) only [Laws.ex_lo, Laws.ex_hi, Laws.ex_all, Nat.reduceSub]
  simp [Laws.decodeSlot_encodeSlot, Instr.wf]
theorem Laws.rmOf_code (c : Rm) : rmOf (rmCode c % 8) = some c := by cases c <;> rfl
theorem Laws.ovfOf_code (c : Ovf) : ovfOf (ovfCode c % 4) = some c := by cases c <;> rfl
theorem Laws.getLsbD_lo {v w : Nat} (x : BitVec v) (y : BitVec w) (i : Nat) (h : i < w) : (x ++ y).getLsbD i = y.getLsbD i := by
  rw [BitVec.getLsbD_append]; simp [h]
theorem Laws.getLsbD_hi {v w : Nat} (x : BitVec v) (y : BitVec w) (i : Nat) (h : w ≤ i) : (x ++ y).getLsbD i = x.getLsbD (i - w) := by
  rw [BitVec.getLsbD_append]; simp [Nat.not_lt.mpr h]

end Sys2Proof
end

