-- ==== Sys2Proof/Laws/PerInstr.lean ====
section
/-!
SUPPORT. The family RoundTrip: the word that the encoder gives a well-formed instruction decodes to that instruction. One lemma per
constructor; an event has no word and is not well-formed.
-/
set_option linter.unusedSimpArgs false
set_option Elab.async false
namespace Sys2Proof
open Sys2Proof.Machine Sys2Proof.Laws

/-- Decoding the word of a well-formed instruction gives it back. -/
def Laws.RoundTrip.Statement (i : Instr) : Prop := i.wf = true → decode (encode i) = some i


theorem Laws.RoundTrip.add (d : Reg) (a : Reg) (b : Reg) : Laws.RoundTrip.Statement (.add d a b) := by
  intro h
  simp only [encode, decode_mkF, BitVec.reduceToNat, decodeF, Nat.reduceDiv, decodeInt, plainX]
  try simp (disch := decide) only [BitVec.ofNat_eq_ofNat, ex_lo, ex_hi, ex_all, getLsbD_lo, getLsbD_hi, Nat.reduceSub, tyOf_tyB, tyB_i8, tyB_f32, scB_hi, scB_lo]
  simp [condOf_code, condOf_code16, fcondOf_code, vcondOf_code, rmOf_code, ovfOf_code, amoOf_code, tyOf_tyB, req, bit1, h]
theorem Laws.RoundTrip.sub (d : Reg) (a : Reg) (b : Reg) : Laws.RoundTrip.Statement (.sub d a b) := by
  intro h
  simp only [encode, decode_mkF, BitVec.reduceToNat, decodeF, Nat.reduceDiv, decodeInt, plainX]
  try simp (disch := decide) only [BitVec.ofNat_eq_ofNat, ex_lo, ex_hi, ex_all, getLsbD_lo, getLsbD_hi, Nat.reduceSub, tyOf_tyB, tyB_i8, tyB_f32, scB_hi, scB_lo]
  simp [condOf_code, condOf_code16, fcondOf_code, vcondOf_code, rmOf_code, ovfOf_code, amoOf_code, tyOf_tyB, req, bit1, h]
theorem Laws.RoundTrip.mul (d : Reg) (a : Reg) (b : Reg) : Laws.RoundTrip.Statement (.mul d a b) := by
  intro h
  simp only [encode, decode_mkF, BitVec.reduceToNat, decodeF, Nat.reduceDiv, decodeInt, plainX]
  try simp (disch := decide) only [BitVec.ofNat_eq_ofNat, ex_lo, ex_hi, ex_all, getLsbD_lo, getLsbD_hi, Nat.reduceSub, tyOf_tyB, tyB_i8, tyB_f32, scB_hi, scB_lo]
  simp [condOf_code, condOf_code16, fcondOf_code, vcondOf_code, rmOf_code, ovfOf_code, amoOf_code, tyOf_tyB, req, bit1, h]
theorem Laws.RoundTrip.mulh (d : Reg) (a : Reg) (b : Reg) : Laws.RoundTrip.Statement (.mulh d a b) := by
  intro h
  simp only [encode, decode_mkF, BitVec.reduceToNat, decodeF, Nat.reduceDiv, decodeInt, plainX]
  try simp (disch := decide) only [BitVec.ofNat_eq_ofNat, ex_lo, ex_hi, ex_all, getLsbD_lo, getLsbD_hi, Nat.reduceSub, tyOf_tyB, tyB_i8, tyB_f32, scB_hi, scB_lo]
  simp [condOf_code, condOf_code16, fcondOf_code, vcondOf_code, rmOf_code, ovfOf_code, amoOf_code, tyOf_tyB, req, bit1, h]
theorem Laws.RoundTrip.mulhn (d : Reg) (a : Reg) (b : Reg) : Laws.RoundTrip.Statement (.mulhn d a b) := by
  intro h
  simp only [encode, decode_mkF, BitVec.reduceToNat, decodeF, Nat.reduceDiv, decodeInt, plainX]
  try simp (disch := decide) only [BitVec.ofNat_eq_ofNat, ex_lo, ex_hi, ex_all, getLsbD_lo, getLsbD_hi, Nat.reduceSub, tyOf_tyB, tyB_i8, tyB_f32, scB_hi, scB_lo]
  simp [condOf_code, condOf_code16, fcondOf_code, vcondOf_code, rmOf_code, ovfOf_code, amoOf_code, tyOf_tyB, req, bit1, h]
theorem Laws.RoundTrip.div (d : Reg) (a : Reg) (b : Reg) : Laws.RoundTrip.Statement (.div d a b) := by
  intro h
  simp only [encode, decode_mkF, BitVec.reduceToNat, decodeF, Nat.reduceDiv, decodeInt, plainX]
  try simp (disch := decide) only [BitVec.ofNat_eq_ofNat, ex_lo, ex_hi, ex_all, getLsbD_lo, getLsbD_hi, Nat.reduceSub, tyOf_tyB, tyB_i8, tyB_f32, scB_hi, scB_lo]
  simp [condOf_code, condOf_code16, fcondOf_code, vcondOf_code, rmOf_code, ovfOf_code, amoOf_code, tyOf_tyB, req, bit1, h]
theorem Laws.RoundTrip.divn (d : Reg) (a : Reg) (b : Reg) : Laws.RoundTrip.Statement (.divn d a b) := by
  intro h
  simp only [encode, decode_mkF, BitVec.reduceToNat, decodeF, Nat.reduceDiv, decodeInt, plainX]
  try simp (disch := decide) only [BitVec.ofNat_eq_ofNat, ex_lo, ex_hi, ex_all, getLsbD_lo, getLsbD_hi, Nat.reduceSub, tyOf_tyB, tyB_i8, tyB_f32, scB_hi, scB_lo]
  simp [condOf_code, condOf_code16, fcondOf_code, vcondOf_code, rmOf_code, ovfOf_code, amoOf_code, tyOf_tyB, req, bit1, h]
theorem Laws.RoundTrip.rem (d : Reg) (a : Reg) (b : Reg) : Laws.RoundTrip.Statement (.rem d a b) := by
  intro h
  simp only [encode, decode_mkF, BitVec.reduceToNat, decodeF, Nat.reduceDiv, decodeInt, plainX]
  try simp (disch := decide) only [BitVec.ofNat_eq_ofNat, ex_lo, ex_hi, ex_all, getLsbD_lo, getLsbD_hi, Nat.reduceSub, tyOf_tyB, tyB_i8, tyB_f32, scB_hi, scB_lo]
  simp [condOf_code, condOf_code16, fcondOf_code, vcondOf_code, rmOf_code, ovfOf_code, amoOf_code, tyOf_tyB, req, bit1, h]
theorem Laws.RoundTrip.remn (d : Reg) (a : Reg) (b : Reg) : Laws.RoundTrip.Statement (.remn d a b) := by
  intro h
  simp only [encode, decode_mkF, BitVec.reduceToNat, decodeF, Nat.reduceDiv, decodeInt, plainX]
  try simp (disch := decide) only [BitVec.ofNat_eq_ofNat, ex_lo, ex_hi, ex_all, getLsbD_lo, getLsbD_hi, Nat.reduceSub, tyOf_tyB, tyB_i8, tyB_f32, scB_hi, scB_lo]
  simp [condOf_code, condOf_code16, fcondOf_code, vcondOf_code, rmOf_code, ovfOf_code, amoOf_code, tyOf_tyB, req, bit1, h]
theorem Laws.RoundTrip.and (d : Reg) (a : Reg) (b : Reg) : Laws.RoundTrip.Statement (.and d a b) := by
  intro h
  simp only [encode, decode_mkF, BitVec.reduceToNat, decodeF, Nat.reduceDiv, decodeInt, plainX]
  try simp (disch := decide) only [BitVec.ofNat_eq_ofNat, ex_lo, ex_hi, ex_all, getLsbD_lo, getLsbD_hi, Nat.reduceSub, tyOf_tyB, tyB_i8, tyB_f32, scB_hi, scB_lo]
  simp [condOf_code, condOf_code16, fcondOf_code, vcondOf_code, rmOf_code, ovfOf_code, amoOf_code, tyOf_tyB, req, bit1, h]
theorem Laws.RoundTrip.or (d : Reg) (a : Reg) (b : Reg) : Laws.RoundTrip.Statement (.or d a b) := by
  intro h
  simp only [encode, decode_mkF, BitVec.reduceToNat, decodeF, Nat.reduceDiv, decodeInt, plainX]
  try simp (disch := decide) only [BitVec.ofNat_eq_ofNat, ex_lo, ex_hi, ex_all, getLsbD_lo, getLsbD_hi, Nat.reduceSub, tyOf_tyB, tyB_i8, tyB_f32, scB_hi, scB_lo]
  simp [condOf_code, condOf_code16, fcondOf_code, vcondOf_code, rmOf_code, ovfOf_code, amoOf_code, tyOf_tyB, req, bit1, h]
theorem Laws.RoundTrip.xor (d : Reg) (a : Reg) (b : Reg) : Laws.RoundTrip.Statement (.xor d a b) := by
  intro h
  simp only [encode, decode_mkF, BitVec.reduceToNat, decodeF, Nat.reduceDiv, decodeInt, plainX]
  try simp (disch := decide) only [BitVec.ofNat_eq_ofNat, ex_lo, ex_hi, ex_all, getLsbD_lo, getLsbD_hi, Nat.reduceSub, tyOf_tyB, tyB_i8, tyB_f32, scB_hi, scB_lo]
  simp [condOf_code, condOf_code16, fcondOf_code, vcondOf_code, rmOf_code, ovfOf_code, amoOf_code, tyOf_tyB, req, bit1, h]
theorem Laws.RoundTrip.andn (d : Reg) (a : Reg) (b : Reg) : Laws.RoundTrip.Statement (.andn d a b) := by
  intro h
  simp only [encode, decode_mkF, BitVec.reduceToNat, decodeF, Nat.reduceDiv, decodeInt, plainX]
  try simp (disch := decide) only [BitVec.ofNat_eq_ofNat, ex_lo, ex_hi, ex_all, getLsbD_lo, getLsbD_hi, Nat.reduceSub, tyOf_tyB, tyB_i8, tyB_f32, scB_hi, scB_lo]
  simp [condOf_code, condOf_code16, fcondOf_code, vcondOf_code, rmOf_code, ovfOf_code, amoOf_code, tyOf_tyB, req, bit1, h]
theorem Laws.RoundTrip.shl (d : Reg) (a : Reg) (b : Reg) : Laws.RoundTrip.Statement (.shl d a b) := by
  intro h
  simp only [encode, decode_mkF, BitVec.reduceToNat, decodeF, Nat.reduceDiv, decodeInt, plainX]
  try simp (disch := decide) only [BitVec.ofNat_eq_ofNat, ex_lo, ex_hi, ex_all, getLsbD_lo, getLsbD_hi, Nat.reduceSub, tyOf_tyB, tyB_i8, tyB_f32, scB_hi, scB_lo]
  simp [condOf_code, condOf_code16, fcondOf_code, vcondOf_code, rmOf_code, ovfOf_code, amoOf_code, tyOf_tyB, req, bit1, h]
theorem Laws.RoundTrip.shr (d : Reg) (a : Reg) (b : Reg) : Laws.RoundTrip.Statement (.shr d a b) := by
  intro h
  simp only [encode, decode_mkF, BitVec.reduceToNat, decodeF, Nat.reduceDiv, decodeInt, plainX]
  try simp (disch := decide) only [BitVec.ofNat_eq_ofNat, ex_lo, ex_hi, ex_all, getLsbD_lo, getLsbD_hi, Nat.reduceSub, tyOf_tyB, tyB_i8, tyB_f32, scB_hi, scB_lo]
  simp [condOf_code, condOf_code16, fcondOf_code, vcondOf_code, rmOf_code, ovfOf_code, amoOf_code, tyOf_tyB, req, bit1, h]
theorem Laws.RoundTrip.sra (d : Reg) (a : Reg) (b : Reg) : Laws.RoundTrip.Statement (.sra d a b) := by
  intro h
  simp only [encode, decode_mkF, BitVec.reduceToNat, decodeF, Nat.reduceDiv, decodeInt, plainX]
  try simp (disch := decide) only [BitVec.ofNat_eq_ofNat, ex_lo, ex_hi, ex_all, getLsbD_lo, getLsbD_hi, Nat.reduceSub, tyOf_tyB, tyB_i8, tyB_f32, scB_hi, scB_lo]
  simp [condOf_code, condOf_code16, fcondOf_code, vcondOf_code, rmOf_code, ovfOf_code, amoOf_code, tyOf_tyB, req, bit1, h]
theorem Laws.RoundTrip.min (d : Reg) (a : Reg) (b : Reg) : Laws.RoundTrip.Statement (.min d a b) := by
  intro h
  simp only [encode, decode_mkF, BitVec.reduceToNat, decodeF, Nat.reduceDiv, decodeInt1, plainX]
  try simp (disch := decide) only [BitVec.ofNat_eq_ofNat, ex_lo, ex_hi, ex_all, getLsbD_lo, getLsbD_hi, Nat.reduceSub, tyOf_tyB, tyB_i8, tyB_f32, scB_hi, scB_lo]
  simp [condOf_code, condOf_code16, fcondOf_code, vcondOf_code, rmOf_code, ovfOf_code, amoOf_code, tyOf_tyB, req, bit1, h]
theorem Laws.RoundTrip.max (d : Reg) (a : Reg) (b : Reg) : Laws.RoundTrip.Statement (.max d a b) := by
  intro h
  simp only [encode, decode_mkF, BitVec.reduceToNat, decodeF, Nat.reduceDiv, decodeInt1, plainX]
  try simp (disch := decide) only [BitVec.ofNat_eq_ofNat, ex_lo, ex_hi, ex_all, getLsbD_lo, getLsbD_hi, Nat.reduceSub, tyOf_tyB, tyB_i8, tyB_f32, scB_hi, scB_lo]
  simp [condOf_code, condOf_code16, fcondOf_code, vcondOf_code, rmOf_code, ovfOf_code, amoOf_code, tyOf_tyB, req, bit1, h]
theorem Laws.RoundTrip.minn (d : Reg) (a : Reg) (b : Reg) : Laws.RoundTrip.Statement (.minn d a b) := by
  intro h
  simp only [encode, decode_mkF, BitVec.reduceToNat, decodeF, Nat.reduceDiv, decodeInt1, plainX]
  try simp (disch := decide) only [BitVec.ofNat_eq_ofNat, ex_lo, ex_hi, ex_all, getLsbD_lo, getLsbD_hi, Nat.reduceSub, tyOf_tyB, tyB_i8, tyB_f32, scB_hi, scB_lo]
  simp [condOf_code, condOf_code16, fcondOf_code, vcondOf_code, rmOf_code, ovfOf_code, amoOf_code, tyOf_tyB, req, bit1, h]
theorem Laws.RoundTrip.maxn (d : Reg) (a : Reg) (b : Reg) : Laws.RoundTrip.Statement (.maxn d a b) := by
  intro h
  simp only [encode, decode_mkF, BitVec.reduceToNat, decodeF, Nat.reduceDiv, decodeInt1, plainX]
  try simp (disch := decide) only [BitVec.ofNat_eq_ofNat, ex_lo, ex_hi, ex_all, getLsbD_lo, getLsbD_hi, Nat.reduceSub, tyOf_tyB, tyB_i8, tyB_f32, scB_hi, scB_lo]
  simp [condOf_code, condOf_code16, fcondOf_code, vcondOf_code, rmOf_code, ovfOf_code, amoOf_code, tyOf_tyB, req, bit1, h]
theorem Laws.RoundTrip.clz (d : Reg) (a : Reg) : Laws.RoundTrip.Statement (.clz d a) := by
  intro h
  simp only [encode, decode_mkF, BitVec.reduceToNat, decodeF, Nat.reduceDiv, decodeInt1, plainX]
  try simp (disch := decide) only [BitVec.ofNat_eq_ofNat, ex_lo, ex_hi, ex_all, getLsbD_lo, getLsbD_hi, Nat.reduceSub, tyOf_tyB, tyB_i8, tyB_f32, scB_hi, scB_lo]
  simp [condOf_code, condOf_code16, fcondOf_code, vcondOf_code, rmOf_code, ovfOf_code, amoOf_code, tyOf_tyB, req, bit1, h]
theorem Laws.RoundTrip.ctz (d : Reg) (a : Reg) : Laws.RoundTrip.Statement (.ctz d a) := by
  intro h
  simp only [encode, decode_mkF, BitVec.reduceToNat, decodeF, Nat.reduceDiv, decodeInt1, plainX]
  try simp (disch := decide) only [BitVec.ofNat_eq_ofNat, ex_lo, ex_hi, ex_all, getLsbD_lo, getLsbD_hi, Nat.reduceSub, tyOf_tyB, tyB_i8, tyB_f32, scB_hi, scB_lo]
  simp [condOf_code, condOf_code16, fcondOf_code, vcondOf_code, rmOf_code, ovfOf_code, amoOf_code, tyOf_tyB, req, bit1, h]
theorem Laws.RoundTrip.popc (d : Reg) (a : Reg) : Laws.RoundTrip.Statement (.popc d a) := by
  intro h
  simp only [encode, decode_mkF, BitVec.reduceToNat, decodeF, Nat.reduceDiv, decodeInt1, plainX]
  try simp (disch := decide) only [BitVec.ofNat_eq_ofNat, ex_lo, ex_hi, ex_all, getLsbD_lo, getLsbD_hi, Nat.reduceSub, tyOf_tyB, tyB_i8, tyB_f32, scB_hi, scB_lo]
  simp [condOf_code, condOf_code16, fcondOf_code, vcondOf_code, rmOf_code, ovfOf_code, amoOf_code, tyOf_tyB, req, bit1, h]
theorem Laws.RoundTrip.sext (d : Reg) (a : Reg) (b : Reg) : Laws.RoundTrip.Statement (.sext d a b) := by
  intro h
  simp only [encode, decode_mkF, BitVec.reduceToNat, decodeF, Nat.reduceDiv, decodeInt1, plainX]
  try simp (disch := decide) only [BitVec.ofNat_eq_ofNat, ex_lo, ex_hi, ex_all, getLsbD_lo, getLsbD_hi, Nat.reduceSub, tyOf_tyB, tyB_i8, tyB_f32, scB_hi, scB_lo]
  simp [condOf_code, condOf_code16, fcondOf_code, vcondOf_code, rmOf_code, ovfOf_code, amoOf_code, tyOf_tyB, req, bit1, h]
theorem Laws.RoundTrip.zext (d : Reg) (a : Reg) (b : Reg) : Laws.RoundTrip.Statement (.zext d a b) := by
  intro h
  simp only [encode, decode_mkF, BitVec.reduceToNat, decodeF, Nat.reduceDiv, decodeInt1, plainX]
  try simp (disch := decide) only [BitVec.ofNat_eq_ofNat, ex_lo, ex_hi, ex_all, getLsbD_lo, getLsbD_hi, Nat.reduceSub, tyOf_tyB, tyB_i8, tyB_f32, scB_hi, scB_lo]
  simp [condOf_code, condOf_code16, fcondOf_code, vcondOf_code, rmOf_code, ovfOf_code, amoOf_code, tyOf_tyB, req, bit1, h]
theorem Laws.RoundTrip.setc (c : Cond) (d : Reg) (a : Reg) (b : Reg) : Laws.RoundTrip.Statement (.setc c d a b) := by
  intro h
  simp only [encode, decode_mkF, BitVec.reduceToNat, decodeF, Nat.reduceDiv, decodeInt1, encN, encTl, encSys, mkR, mkM, memPlain, xC, xFn, xTy, xExt, xOff, xMty, xMem, v3, v2, vm, plainX, fpX, vX, v2X]
  try simp (disch := decide) only [BitVec.ofNat_eq_ofNat, ex_lo, ex_hi, ex_all, getLsbD_lo, getLsbD_hi, Nat.reduceSub, tyOf_tyB, tyB_i8, tyB_f32, scB_hi, scB_lo, fn2_hi, fn2_lo, fn3_hi, fn3_lo, fnb_hi, fnb_hi11, fnb_lo, amo_hi, amo_lo, tail20, tail7]
  simp [condOf_code, condOf_code16, fcondOf_code, vcondOf_code, rmOf_code, ovfOf_code, amoOf_code, tyOf_tyB, req, bit1, h]
theorem Laws.RoundTrip.csel (d : Reg) (a : Reg) (b : Reg) (c : Reg) : Laws.RoundTrip.Statement (.csel d a b c) := by
  intro h
  simp only [encode, decode_mkF, BitVec.reduceToNat, decodeF, Nat.reduceDiv, decodeInt1, encN, encTl, encSys, mkR, mkM, memPlain, xC, xFn, xTy, xExt, xOff, xMty, xMem, v3, v2, vm, plainX, fpX, vX, v2X]
  try simp (disch := decide) only [BitVec.ofNat_eq_ofNat, ex_lo, ex_hi, ex_all, getLsbD_lo, getLsbD_hi, Nat.reduceSub, tyOf_tyB, tyB_i8, tyB_f32, scB_hi, scB_lo, fn2_hi, fn2_lo, fn3_hi, fn3_lo, fnb_hi, fnb_hi11, fnb_lo, amo_hi, amo_lo, tail20, tail7]
  simp [condOf_code, condOf_code16, fcondOf_code, vcondOf_code, rmOf_code, ovfOf_code, amoOf_code, tyOf_tyB, req, bit1, h]
theorem Laws.RoundTrip.addI (d : Reg) (a : Reg) (imm : BitVec 32) : Laws.RoundTrip.Statement (.addI d a imm) := by
  intro h
  simp only [encode, decode_mkF, BitVec.reduceToNat, decodeF, Nat.reduceDiv, decodeImm, plainX]
  try simp (disch := decide) only [BitVec.ofNat_eq_ofNat, ex_lo, ex_hi, ex_all, getLsbD_lo, getLsbD_hi, Nat.reduceSub, tyOf_tyB, tyB_i8, tyB_f32, scB_hi, scB_lo]
  simp [condOf_code, condOf_code16, fcondOf_code, vcondOf_code, rmOf_code, ovfOf_code, amoOf_code, tyOf_tyB, req, bit1, h]
theorem Laws.RoundTrip.subI (d : Reg) (a : Reg) (imm : BitVec 32) : Laws.RoundTrip.Statement (.subI d a imm) := by
  intro h
  simp only [encode, decode_mkF, BitVec.reduceToNat, decodeF, Nat.reduceDiv, decodeImm, plainX]
  try simp (disch := decide) only [BitVec.ofNat_eq_ofNat, ex_lo, ex_hi, ex_all, getLsbD_lo, getLsbD_hi, Nat.reduceSub, tyOf_tyB, tyB_i8, tyB_f32, scB_hi, scB_lo]
  simp [condOf_code, condOf_code16, fcondOf_code, vcondOf_code, rmOf_code, ovfOf_code, amoOf_code, tyOf_tyB, req, bit1, h]
theorem Laws.RoundTrip.mulI (d : Reg) (a : Reg) (imm : BitVec 32) : Laws.RoundTrip.Statement (.mulI d a imm) := by
  intro h
  simp only [encode, decode_mkF, BitVec.reduceToNat, decodeF, Nat.reduceDiv, decodeImm, plainX]
  try simp (disch := decide) only [BitVec.ofNat_eq_ofNat, ex_lo, ex_hi, ex_all, getLsbD_lo, getLsbD_hi, Nat.reduceSub, tyOf_tyB, tyB_i8, tyB_f32, scB_hi, scB_lo]
  simp [condOf_code, condOf_code16, fcondOf_code, vcondOf_code, rmOf_code, ovfOf_code, amoOf_code, tyOf_tyB, req, bit1, h]
theorem Laws.RoundTrip.mulhI (d : Reg) (a : Reg) (imm : BitVec 32) : Laws.RoundTrip.Statement (.mulhI d a imm) := by
  intro h
  simp only [encode, decode_mkF, BitVec.reduceToNat, decodeF, Nat.reduceDiv, decodeImm, plainX]
  try simp (disch := decide) only [BitVec.ofNat_eq_ofNat, ex_lo, ex_hi, ex_all, getLsbD_lo, getLsbD_hi, Nat.reduceSub, tyOf_tyB, tyB_i8, tyB_f32, scB_hi, scB_lo]
  simp [condOf_code, condOf_code16, fcondOf_code, vcondOf_code, rmOf_code, ovfOf_code, amoOf_code, tyOf_tyB, req, bit1, h]
theorem Laws.RoundTrip.mulhnI (d : Reg) (a : Reg) (imm : BitVec 32) : Laws.RoundTrip.Statement (.mulhnI d a imm) := by
  intro h
  simp only [encode, decode_mkF, BitVec.reduceToNat, decodeF, Nat.reduceDiv, decodeImm, plainX]
  try simp (disch := decide) only [BitVec.ofNat_eq_ofNat, ex_lo, ex_hi, ex_all, getLsbD_lo, getLsbD_hi, Nat.reduceSub, tyOf_tyB, tyB_i8, tyB_f32, scB_hi, scB_lo]
  simp [condOf_code, condOf_code16, fcondOf_code, vcondOf_code, rmOf_code, ovfOf_code, amoOf_code, tyOf_tyB, req, bit1, h]
theorem Laws.RoundTrip.divI (d : Reg) (a : Reg) (imm : BitVec 32) : Laws.RoundTrip.Statement (.divI d a imm) := by
  intro h
  simp only [encode, decode_mkF, BitVec.reduceToNat, decodeF, Nat.reduceDiv, decodeImm, plainX]
  try simp (disch := decide) only [BitVec.ofNat_eq_ofNat, ex_lo, ex_hi, ex_all, getLsbD_lo, getLsbD_hi, Nat.reduceSub, tyOf_tyB, tyB_i8, tyB_f32, scB_hi, scB_lo]
  simp [condOf_code, condOf_code16, fcondOf_code, vcondOf_code, rmOf_code, ovfOf_code, amoOf_code, tyOf_tyB, req, bit1, h]
theorem Laws.RoundTrip.divnI (d : Reg) (a : Reg) (imm : BitVec 32) : Laws.RoundTrip.Statement (.divnI d a imm) := by
  intro h
  simp only [encode, decode_mkF, BitVec.reduceToNat, decodeF, Nat.reduceDiv, decodeImm, plainX]
  try simp (disch := decide) only [BitVec.ofNat_eq_ofNat, ex_lo, ex_hi, ex_all, getLsbD_lo, getLsbD_hi, Nat.reduceSub, tyOf_tyB, tyB_i8, tyB_f32, scB_hi, scB_lo]
  simp [condOf_code, condOf_code16, fcondOf_code, vcondOf_code, rmOf_code, ovfOf_code, amoOf_code, tyOf_tyB, req, bit1, h]
theorem Laws.RoundTrip.remI (d : Reg) (a : Reg) (imm : BitVec 32) : Laws.RoundTrip.Statement (.remI d a imm) := by
  intro h
  simp only [encode, decode_mkF, BitVec.reduceToNat, decodeF, Nat.reduceDiv, decodeImm, plainX]
  try simp (disch := decide) only [BitVec.ofNat_eq_ofNat, ex_lo, ex_hi, ex_all, getLsbD_lo, getLsbD_hi, Nat.reduceSub, tyOf_tyB, tyB_i8, tyB_f32, scB_hi, scB_lo]
  simp [condOf_code, condOf_code16, fcondOf_code, vcondOf_code, rmOf_code, ovfOf_code, amoOf_code, tyOf_tyB, req, bit1, h]
theorem Laws.RoundTrip.remnI (d : Reg) (a : Reg) (imm : BitVec 32) : Laws.RoundTrip.Statement (.remnI d a imm) := by
  intro h
  simp only [encode, decode_mkF, BitVec.reduceToNat, decodeF, Nat.reduceDiv, decodeImm, plainX]
  try simp (disch := decide) only [BitVec.ofNat_eq_ofNat, ex_lo, ex_hi, ex_all, getLsbD_lo, getLsbD_hi, Nat.reduceSub, tyOf_tyB, tyB_i8, tyB_f32, scB_hi, scB_lo]
  simp [condOf_code, condOf_code16, fcondOf_code, vcondOf_code, rmOf_code, ovfOf_code, amoOf_code, tyOf_tyB, req, bit1, h]
theorem Laws.RoundTrip.andI (d : Reg) (a : Reg) (imm : BitVec 32) : Laws.RoundTrip.Statement (.andI d a imm) := by
  intro h
  simp only [encode, decode_mkF, BitVec.reduceToNat, decodeF, Nat.reduceDiv, decodeImm, plainX]
  try simp (disch := decide) only [BitVec.ofNat_eq_ofNat, ex_lo, ex_hi, ex_all, getLsbD_lo, getLsbD_hi, Nat.reduceSub, tyOf_tyB, tyB_i8, tyB_f32, scB_hi, scB_lo]
  simp [condOf_code, condOf_code16, fcondOf_code, vcondOf_code, rmOf_code, ovfOf_code, amoOf_code, tyOf_tyB, req, bit1, h]
theorem Laws.RoundTrip.orI (d : Reg) (a : Reg) (imm : BitVec 32) : Laws.RoundTrip.Statement (.orI d a imm) := by
  intro h
  simp only [encode, decode_mkF, BitVec.reduceToNat, decodeF, Nat.reduceDiv, decodeImm, plainX]
  try simp (disch := decide) only [BitVec.ofNat_eq_ofNat, ex_lo, ex_hi, ex_all, getLsbD_lo, getLsbD_hi, Nat.reduceSub, tyOf_tyB, tyB_i8, tyB_f32, scB_hi, scB_lo]
  simp [condOf_code, condOf_code16, fcondOf_code, vcondOf_code, rmOf_code, ovfOf_code, amoOf_code, tyOf_tyB, req, bit1, h]
theorem Laws.RoundTrip.xorI (d : Reg) (a : Reg) (imm : BitVec 32) : Laws.RoundTrip.Statement (.xorI d a imm) := by
  intro h
  simp only [encode, decode_mkF, BitVec.reduceToNat, decodeF, Nat.reduceDiv, decodeImm, plainX]
  try simp (disch := decide) only [BitVec.ofNat_eq_ofNat, ex_lo, ex_hi, ex_all, getLsbD_lo, getLsbD_hi, Nat.reduceSub, tyOf_tyB, tyB_i8, tyB_f32, scB_hi, scB_lo]
  simp [condOf_code, condOf_code16, fcondOf_code, vcondOf_code, rmOf_code, ovfOf_code, amoOf_code, tyOf_tyB, req, bit1, h]
theorem Laws.RoundTrip.andnI (d : Reg) (a : Reg) (imm : BitVec 32) : Laws.RoundTrip.Statement (.andnI d a imm) := by
  intro h
  simp only [encode, decode_mkF, BitVec.reduceToNat, decodeF, Nat.reduceDiv, decodeImm, plainX]
  try simp (disch := decide) only [BitVec.ofNat_eq_ofNat, ex_lo, ex_hi, ex_all, getLsbD_lo, getLsbD_hi, Nat.reduceSub, tyOf_tyB, tyB_i8, tyB_f32, scB_hi, scB_lo]
  simp [condOf_code, condOf_code16, fcondOf_code, vcondOf_code, rmOf_code, ovfOf_code, amoOf_code, tyOf_tyB, req, bit1, h]
theorem Laws.RoundTrip.shlI (d : Reg) (a : Reg) (imm : BitVec 32) : Laws.RoundTrip.Statement (.shlI d a imm) := by
  intro h
  simp only [encode, decode_mkF, BitVec.reduceToNat, decodeF, Nat.reduceDiv, decodeImm, plainX]
  try simp (disch := decide) only [BitVec.ofNat_eq_ofNat, ex_lo, ex_hi, ex_all, getLsbD_lo, getLsbD_hi, Nat.reduceSub, tyOf_tyB, tyB_i8, tyB_f32, scB_hi, scB_lo]
  simp [condOf_code, condOf_code16, fcondOf_code, vcondOf_code, rmOf_code, ovfOf_code, amoOf_code, tyOf_tyB, req, bit1, h]
theorem Laws.RoundTrip.shrI (d : Reg) (a : Reg) (imm : BitVec 32) : Laws.RoundTrip.Statement (.shrI d a imm) := by
  intro h
  simp only [encode, decode_mkF, BitVec.reduceToNat, decodeF, Nat.reduceDiv, decodeImm, plainX]
  try simp (disch := decide) only [BitVec.ofNat_eq_ofNat, ex_lo, ex_hi, ex_all, getLsbD_lo, getLsbD_hi, Nat.reduceSub, tyOf_tyB, tyB_i8, tyB_f32, scB_hi, scB_lo]
  simp [condOf_code, condOf_code16, fcondOf_code, vcondOf_code, rmOf_code, ovfOf_code, amoOf_code, tyOf_tyB, req, bit1, h]
theorem Laws.RoundTrip.sraI (d : Reg) (a : Reg) (imm : BitVec 32) : Laws.RoundTrip.Statement (.sraI d a imm) := by
  intro h
  simp only [encode, decode_mkF, BitVec.reduceToNat, decodeF, Nat.reduceDiv, decodeImm, plainX]
  try simp (disch := decide) only [BitVec.ofNat_eq_ofNat, ex_lo, ex_hi, ex_all, getLsbD_lo, getLsbD_hi, Nat.reduceSub, tyOf_tyB, tyB_i8, tyB_f32, scB_hi, scB_lo]
  simp [condOf_code, condOf_code16, fcondOf_code, vcondOf_code, rmOf_code, ovfOf_code, amoOf_code, tyOf_tyB, req, bit1, h]
theorem Laws.RoundTrip.minI (d : Reg) (a : Reg) (imm : BitVec 32) : Laws.RoundTrip.Statement (.minI d a imm) := by
  intro h
  simp only [encode, decode_mkF, BitVec.reduceToNat, decodeF, Nat.reduceDiv, decodeImm, plainX]
  try simp (disch := decide) only [BitVec.ofNat_eq_ofNat, ex_lo, ex_hi, ex_all, getLsbD_lo, getLsbD_hi, Nat.reduceSub, tyOf_tyB, tyB_i8, tyB_f32, scB_hi, scB_lo]
  simp [condOf_code, condOf_code16, fcondOf_code, vcondOf_code, rmOf_code, ovfOf_code, amoOf_code, tyOf_tyB, req, bit1, h]
theorem Laws.RoundTrip.maxI (d : Reg) (a : Reg) (imm : BitVec 32) : Laws.RoundTrip.Statement (.maxI d a imm) := by
  intro h
  simp only [encode, decode_mkF, BitVec.reduceToNat, decodeF, Nat.reduceDiv, decodeImm, plainX]
  try simp (disch := decide) only [BitVec.ofNat_eq_ofNat, ex_lo, ex_hi, ex_all, getLsbD_lo, getLsbD_hi, Nat.reduceSub, tyOf_tyB, tyB_i8, tyB_f32, scB_hi, scB_lo]
  simp [condOf_code, condOf_code16, fcondOf_code, vcondOf_code, rmOf_code, ovfOf_code, amoOf_code, tyOf_tyB, req, bit1, h]
theorem Laws.RoundTrip.minnI (d : Reg) (a : Reg) (imm : BitVec 32) : Laws.RoundTrip.Statement (.minnI d a imm) := by
  intro h
  simp only [encode, decode_mkF, BitVec.reduceToNat, decodeF, Nat.reduceDiv, decodeImm, plainX]
  try simp (disch := decide) only [BitVec.ofNat_eq_ofNat, ex_lo, ex_hi, ex_all, getLsbD_lo, getLsbD_hi, Nat.reduceSub, tyOf_tyB, tyB_i8, tyB_f32, scB_hi, scB_lo]
  simp [condOf_code, condOf_code16, fcondOf_code, vcondOf_code, rmOf_code, ovfOf_code, amoOf_code, tyOf_tyB, req, bit1, h]
theorem Laws.RoundTrip.maxnI (d : Reg) (a : Reg) (imm : BitVec 32) : Laws.RoundTrip.Statement (.maxnI d a imm) := by
  intro h
  simp only [encode, decode_mkF, BitVec.reduceToNat, decodeF, Nat.reduceDiv, decodeImm, plainX]
  try simp (disch := decide) only [BitVec.ofNat_eq_ofNat, ex_lo, ex_hi, ex_all, getLsbD_lo, getLsbD_hi, Nat.reduceSub, tyOf_tyB, tyB_i8, tyB_f32, scB_hi, scB_lo]
  simp [condOf_code, condOf_code16, fcondOf_code, vcondOf_code, rmOf_code, ovfOf_code, amoOf_code, tyOf_tyB, req, bit1, h]
theorem Laws.RoundTrip.sextI (d : Reg) (a : Reg) (imm : BitVec 32) : Laws.RoundTrip.Statement (.sextI d a imm) := by
  intro h
  simp only [encode, decode_mkF, BitVec.reduceToNat, decodeF, Nat.reduceDiv, decodeImm, plainX]
  try simp (disch := decide) only [BitVec.ofNat_eq_ofNat, ex_lo, ex_hi, ex_all, getLsbD_lo, getLsbD_hi, Nat.reduceSub, tyOf_tyB, tyB_i8, tyB_f32, scB_hi, scB_lo]
  simp [condOf_code, condOf_code16, fcondOf_code, vcondOf_code, rmOf_code, ovfOf_code, amoOf_code, tyOf_tyB, req, bit1, h]
theorem Laws.RoundTrip.zextI (d : Reg) (a : Reg) (imm : BitVec 32) : Laws.RoundTrip.Statement (.zextI d a imm) := by
  intro h
  simp only [encode, decode_mkF, BitVec.reduceToNat, decodeF, Nat.reduceDiv, decodeImm, plainX]
  try simp (disch := decide) only [BitVec.ofNat_eq_ofNat, ex_lo, ex_hi, ex_all, getLsbD_lo, getLsbD_hi, Nat.reduceSub, tyOf_tyB, tyB_i8, tyB_f32, scB_hi, scB_lo]
  simp [condOf_code, condOf_code16, fcondOf_code, vcondOf_code, rmOf_code, ovfOf_code, amoOf_code, tyOf_tyB, req, bit1, h]
theorem Laws.RoundTrip.setcI (c : Cond) (d : Reg) (a : Reg) (imm : BitVec 32) : Laws.RoundTrip.Statement (.setcI c d a imm) := by
  intro h
  simp only [encode, decode_mkF, BitVec.reduceToNat, decodeF, Nat.reduceDiv, decodeImm, encN, encTl, encSys, mkR, mkM, memPlain, xC, xFn, xTy, xExt, xOff, xMty, xMem, v3, v2, vm, plainX, fpX, vX, v2X]
  try simp (disch := decide) only [BitVec.ofNat_eq_ofNat, ex_lo, ex_hi, ex_all, getLsbD_lo, getLsbD_hi, Nat.reduceSub, tyOf_tyB, tyB_i8, tyB_f32, scB_hi, scB_lo]
  simp [condOf_code, condOf_code16, fcondOf_code, vcondOf_code, rmOf_code, ovfOf_code, amoOf_code, tyOf_tyB, req, bit1, h]
theorem Laws.RoundTrip.li (d : Reg) (imm : BitVec 48) : Laws.RoundTrip.Statement (.li d imm) := by
  intro h
  simp only [encode, decode_mkL, BitVec.reduceToNat, decodeL]
  try simp (disch := decide) only [BitVec.ofNat_eq_ofNat, ex_lo, ex_hi, ex_all, getLsbD_lo, getLsbD_hi, Nat.reduceSub, tyOf_tyB, tyB_i8, tyB_f32, scB_hi, scB_lo]
  simp [condOf_code, condOf_code16, fcondOf_code, vcondOf_code, rmOf_code, ovfOf_code, amoOf_code, tyOf_tyB, req, bit1, h]
theorem Laws.RoundTrip.lih (d : Reg) (a : Reg) (imm : BitVec 32) : Laws.RoundTrip.Statement (.lih d a imm) := by
  intro h
  simp only [encode, decode_mkF, BitVec.reduceToNat, decodeF, Nat.reduceDiv, decodeInt1, encN, encTl, encSys, mkR, mkM, memPlain, xC, xFn, xTy, xExt, xOff, xMty, xMem, v3, v2, vm, plainX, fpX, vX, v2X]
  try simp (disch := decide) only [BitVec.ofNat_eq_ofNat, ex_lo, ex_hi, ex_all, getLsbD_lo, getLsbD_hi, Nat.reduceSub, tyOf_tyB, tyB_i8, tyB_f32, scB_hi, scB_lo]
  simp [condOf_code, condOf_code16, fcondOf_code, vcondOf_code, rmOf_code, ovfOf_code, amoOf_code, tyOf_tyB, req, bit1, h]
theorem Laws.RoundTrip.addpc (d : Reg) (imm : BitVec 48) : Laws.RoundTrip.Statement (.addpc d imm) := by
  intro h
  simp only [encode, decode_mkL, BitVec.reduceToNat, decodeL]
  try simp (disch := decide) only [BitVec.ofNat_eq_ofNat, ex_lo, ex_hi, ex_all, getLsbD_lo, getLsbD_hi, Nat.reduceSub, tyOf_tyB, tyB_i8, tyB_f32, scB_hi, scB_lo]
  simp [condOf_code, condOf_code16, fcondOf_code, vcondOf_code, rmOf_code, ovfOf_code, amoOf_code, tyOf_tyB, req, bit1, h]
theorem Laws.RoundTrip.fadd (t : Ty) (d : Reg) (a : Reg) (b : Reg) : Laws.RoundTrip.Statement (.fadd t d a b) := by
  intro h
  simp only [encode, decode_mkF, BitVec.reduceToNat, decodeF, Nat.reduceDiv, decodeFp, encN, encTl, encSys, mkR, mkM, memPlain, xC, xFn, xTy, xExt, xOff, xMty, xMem, v3, v2, vm, plainX, fpX, vX, v2X]
  try simp (disch := decide) only [BitVec.ofNat_eq_ofNat, ex_lo, ex_hi, ex_all, getLsbD_lo, getLsbD_hi, Nat.reduceSub, tyOf_tyB, tyB_i8, tyB_f32, scB_hi, scB_lo]
  simp [condOf_code, condOf_code16, fcondOf_code, vcondOf_code, rmOf_code, ovfOf_code, amoOf_code, tyOf_tyB, req, bit1, h]
theorem Laws.RoundTrip.fsub (t : Ty) (d : Reg) (a : Reg) (b : Reg) : Laws.RoundTrip.Statement (.fsub t d a b) := by
  intro h
  simp only [encode, decode_mkF, BitVec.reduceToNat, decodeF, Nat.reduceDiv, decodeFp, encN, encTl, encSys, mkR, mkM, memPlain, xC, xFn, xTy, xExt, xOff, xMty, xMem, v3, v2, vm, plainX, fpX, vX, v2X]
  try simp (disch := decide) only [BitVec.ofNat_eq_ofNat, ex_lo, ex_hi, ex_all, getLsbD_lo, getLsbD_hi, Nat.reduceSub, tyOf_tyB, tyB_i8, tyB_f32, scB_hi, scB_lo]
  simp [condOf_code, condOf_code16, fcondOf_code, vcondOf_code, rmOf_code, ovfOf_code, amoOf_code, tyOf_tyB, req, bit1, h]
theorem Laws.RoundTrip.fmul (t : Ty) (d : Reg) (a : Reg) (b : Reg) : Laws.RoundTrip.Statement (.fmul t d a b) := by
  intro h
  simp only [encode, decode_mkF, BitVec.reduceToNat, decodeF, Nat.reduceDiv, decodeFp, encN, encTl, encSys, mkR, mkM, memPlain, xC, xFn, xTy, xExt, xOff, xMty, xMem, v3, v2, vm, plainX, fpX, vX, v2X]
  try simp (disch := decide) only [BitVec.ofNat_eq_ofNat, ex_lo, ex_hi, ex_all, getLsbD_lo, getLsbD_hi, Nat.reduceSub, tyOf_tyB, tyB_i8, tyB_f32, scB_hi, scB_lo]
  simp [condOf_code, condOf_code16, fcondOf_code, vcondOf_code, rmOf_code, ovfOf_code, amoOf_code, tyOf_tyB, req, bit1, h]
theorem Laws.RoundTrip.fma (t : Ty) (d : Reg) (a : Reg) (b : Reg) (c : Reg) : Laws.RoundTrip.Statement (.fma t d a b c) := by
  intro h
  simp only [encode, decode_mkF, BitVec.reduceToNat, decodeF, Nat.reduceDiv, decodeFp, encN, encTl, encSys, mkR, mkM, memPlain, xC, xFn, xTy, xExt, xOff, xMty, xMem, v3, v2, vm, plainX, fpX, vX, v2X]
  try simp (disch := decide) only [BitVec.ofNat_eq_ofNat, ex_lo, ex_hi, ex_all, getLsbD_lo, getLsbD_hi, Nat.reduceSub, tyOf_tyB, tyB_i8, tyB_f32, scB_hi, scB_lo]
  simp [condOf_code, condOf_code16, fcondOf_code, vcondOf_code, rmOf_code, ovfOf_code, amoOf_code, tyOf_tyB, req, bit1, h]
theorem Laws.RoundTrip.fdiv (t : Ty) (d : Reg) (a : Reg) (b : Reg) : Laws.RoundTrip.Statement (.fdiv t d a b) := by
  intro h
  simp only [encode, decode_mkF, BitVec.reduceToNat, decodeF, Nat.reduceDiv, decodeFp, encN, encTl, encSys, mkR, mkM, memPlain, xC, xFn, xTy, xExt, xOff, xMty, xMem, v3, v2, vm, plainX, fpX, vX, v2X]
  try simp (disch := decide) only [BitVec.ofNat_eq_ofNat, ex_lo, ex_hi, ex_all, getLsbD_lo, getLsbD_hi, Nat.reduceSub, tyOf_tyB, tyB_i8, tyB_f32, scB_hi, scB_lo]
  simp [condOf_code, condOf_code16, fcondOf_code, vcondOf_code, rmOf_code, ovfOf_code, amoOf_code, tyOf_tyB, req, bit1, h]
theorem Laws.RoundTrip.fsqrt (t : Ty) (d : Reg) (a : Reg) : Laws.RoundTrip.Statement (.fsqrt t d a) := by
  intro h
  simp only [encode, decode_mkF, BitVec.reduceToNat, decodeF, Nat.reduceDiv, decodeFp, encN, encTl, encSys, mkR, mkM, memPlain, xC, xFn, xTy, xExt, xOff, xMty, xMem, v3, v2, vm, plainX, fpX, vX, v2X]
  try simp (disch := decide) only [BitVec.ofNat_eq_ofNat, ex_lo, ex_hi, ex_all, getLsbD_lo, getLsbD_hi, Nat.reduceSub, tyOf_tyB, tyB_i8, tyB_f32, scB_hi, scB_lo]
  simp [condOf_code, condOf_code16, fcondOf_code, vcondOf_code, rmOf_code, ovfOf_code, amoOf_code, tyOf_tyB, req, bit1, h]
theorem Laws.RoundTrip.fmin (t : Ty) (d : Reg) (a : Reg) (b : Reg) : Laws.RoundTrip.Statement (.fmin t d a b) := by
  intro h
  simp only [encode, decode_mkF, BitVec.reduceToNat, decodeF, Nat.reduceDiv, decodeFp, encN, encTl, encSys, mkR, mkM, memPlain, xC, xFn, xTy, xExt, xOff, xMty, xMem, v3, v2, vm, plainX, fpX, vX, v2X]
  try simp (disch := decide) only [BitVec.ofNat_eq_ofNat, ex_lo, ex_hi, ex_all, getLsbD_lo, getLsbD_hi, Nat.reduceSub, tyOf_tyB, tyB_i8, tyB_f32, scB_hi, scB_lo]
  simp [condOf_code, condOf_code16, fcondOf_code, vcondOf_code, rmOf_code, ovfOf_code, amoOf_code, tyOf_tyB, req, bit1, h]
theorem Laws.RoundTrip.fmax (t : Ty) (d : Reg) (a : Reg) (b : Reg) : Laws.RoundTrip.Statement (.fmax t d a b) := by
  intro h
  simp only [encode, decode_mkF, BitVec.reduceToNat, decodeF, Nat.reduceDiv, decodeFp, encN, encTl, encSys, mkR, mkM, memPlain, xC, xFn, xTy, xExt, xOff, xMty, xMem, v3, v2, vm, plainX, fpX, vX, v2X]
  try simp (disch := decide) only [BitVec.ofNat_eq_ofNat, ex_lo, ex_hi, ex_all, getLsbD_lo, getLsbD_hi, Nat.reduceSub, tyOf_tyB, tyB_i8, tyB_f32, scB_hi, scB_lo]
  simp [condOf_code, condOf_code16, fcondOf_code, vcondOf_code, rmOf_code, ovfOf_code, amoOf_code, tyOf_tyB, req, bit1, h]
theorem Laws.RoundTrip.fcmp (c : FCond) (t : Ty) (d : Reg) (a : Reg) (b : Reg) : Laws.RoundTrip.Statement (.fcmp c t d a b) := by
  intro h
  simp only [encode, decode_mkF, BitVec.reduceToNat, decodeF, Nat.reduceDiv, decodeFp, encN, encTl, encSys, mkR, mkM, memPlain, xC, xFn, xTy, xExt, xOff, xMty, xMem, v3, v2, vm, plainX, fpX, vX, v2X]
  try simp (disch := decide) only [BitVec.ofNat_eq_ofNat, ex_lo, ex_hi, ex_all, getLsbD_lo, getLsbD_hi, Nat.reduceSub, tyOf_tyB, tyB_i8, tyB_f32, scB_hi, scB_lo]
  simp [condOf_code, condOf_code16, fcondOf_code, vcondOf_code, rmOf_code, ovfOf_code, amoOf_code, tyOf_tyB, req, bit1, h]
theorem Laws.RoundTrip.fcvt (td : Ty) (ts : Ty) (rm : Rm) (ov : Ovf) (d : Reg) (a : Reg) : Laws.RoundTrip.Statement (.fcvt td ts rm ov d a) := by
  intro h
  simp only [encode, decode_mkF, BitVec.reduceToNat, decodeF, Nat.reduceDiv, decodeFp, encN, encTl, encSys, mkR, mkM, memPlain, xC, xFn, xTy, xExt, xOff, xMty, xMem, v3, v2, vm, plainX, fpX, vX, v2X]
  try simp (disch := decide) only [BitVec.ofNat_eq_ofNat, ex_lo, ex_hi, ex_all, getLsbD_lo, getLsbD_hi, Nat.reduceSub, tyOf_tyB, tyB_i8, tyB_f32, scB_hi, scB_lo]
  simp [condOf_code, condOf_code16, fcondOf_code, vcondOf_code, rmOf_code, ovfOf_code, amoOf_code, tyOf_tyB, req, bit1, h]
theorem Laws.RoundTrip.bc (c : Cond) (a : Reg) (b : Reg) (off : BitVec 32) : Laws.RoundTrip.Statement (.bc c a b off) := by
  intro h
  simp only [encode, decode_mkF, BitVec.reduceToNat, decodeF, Nat.reduceDiv, decodeCtl, encN, encTl, encSys, mkR, mkM, memPlain, xC, xFn, xTy, xExt, xOff, xMty, xMem, v3, v2, vm, plainX, fpX, vX, v2X]
  try simp (disch := decide) only [BitVec.ofNat_eq_ofNat, ex_lo, ex_hi, ex_all, getLsbD_lo, getLsbD_hi, Nat.reduceSub, tyOf_tyB, tyB_i8, tyB_f32, scB_hi, scB_lo]
  simp [condOf_code, condOf_code16, fcondOf_code, vcondOf_code, rmOf_code, ovfOf_code, amoOf_code, tyOf_tyB, req, bit1, h]
theorem Laws.RoundTrip.j (off : BitVec 48) : Laws.RoundTrip.Statement (.j off) := by
  intro h
  simp only [encode, decode_mkL, BitVec.reduceToNat, decodeL]
  try simp (disch := decide) only [BitVec.ofNat_eq_ofNat, ex_lo, ex_hi, ex_all, getLsbD_lo, getLsbD_hi, Nat.reduceSub, tyOf_tyB, tyB_i8, tyB_f32, scB_hi, scB_lo]
  simp [condOf_code, condOf_code16, fcondOf_code, vcondOf_code, rmOf_code, ovfOf_code, amoOf_code, tyOf_tyB, req, bit1, h]
theorem Laws.RoundTrip.jl (d : Reg) (off : BitVec 48) : Laws.RoundTrip.Statement (.jl d off) := by
  intro h
  simp only [encode, decode_mkL, BitVec.reduceToNat, decodeL]
  try simp (disch := decide) only [BitVec.ofNat_eq_ofNat, ex_lo, ex_hi, ex_all, getLsbD_lo, getLsbD_hi, Nat.reduceSub, tyOf_tyB, tyB_i8, tyB_f32, scB_hi, scB_lo]
  simp [condOf_code, condOf_code16, fcondOf_code, vcondOf_code, rmOf_code, ovfOf_code, amoOf_code, tyOf_tyB, req, bit1, h]
theorem Laws.RoundTrip.jr (d : Reg) (a : Reg) (off : BitVec 32) : Laws.RoundTrip.Statement (.jr d a off) := by
  intro h
  simp only [encode, decode_mkF, BitVec.reduceToNat, decodeF, Nat.reduceDiv, decodeCtl, encN, encTl, encSys, mkR, mkM, memPlain, xC, xFn, xTy, xExt, xOff, xMty, xMem, v3, v2, vm, plainX, fpX, vX, v2X]
  try simp (disch := decide) only [BitVec.ofNat_eq_ofNat, ex_lo, ex_hi, ex_all, getLsbD_lo, getLsbD_hi, Nat.reduceSub, tyOf_tyB, tyB_i8, tyB_f32, scB_hi, scB_lo]
  simp [condOf_code, condOf_code16, fcondOf_code, vcondOf_code, rmOf_code, ovfOf_code, amoOf_code, tyOf_tyB, req, bit1, h]
theorem Laws.RoundTrip.gate (imm : BitVec 16) : Laws.RoundTrip.Statement (.gate imm) := by
  intro h
  simp only [encode, decode_mkF, BitVec.reduceToNat, decodeF, Nat.reduceDiv, decodeCtl, encN, encTl, encSys, mkR, mkM, memPlain, xC, xFn, xTy, xExt, xOff, xMty, xMem, v3, v2, vm, plainX, fpX, vX, v2X]
  try simp (disch := decide) only [BitVec.ofNat_eq_ofNat, ex_lo, ex_hi, ex_all, getLsbD_lo, getLsbD_hi, Nat.reduceSub, tyOf_tyB, tyB_i8, tyB_f32, scB_hi, scB_lo]
  simp [condOf_code, condOf_code16, fcondOf_code, vcondOf_code, rmOf_code, ovfOf_code, amoOf_code, tyOf_tyB, req, bit1, h]
theorem Laws.RoundTrip.gret : Laws.RoundTrip.Statement (.gret) := by
  intro h
  simp only [encode, decode_mkF, BitVec.reduceToNat, decodeF, Nat.reduceDiv, decodeCtl, encN, encTl, encSys, mkR, mkM, memPlain, xC, xFn, xTy, xExt, xOff, xMty, xMem, v3, v2, vm, plainX, fpX, vX, v2X]
  try simp (disch := decide) only [BitVec.ofNat_eq_ofNat, ex_lo, ex_hi, ex_all, getLsbD_lo, getLsbD_hi, Nat.reduceSub, tyOf_tyB, tyB_i8, tyB_f32, scB_hi, scB_lo]
  simp [condOf_code, condOf_code16, fcondOf_code, vcondOf_code, rmOf_code, ovfOf_code, amoOf_code, tyOf_tyB, req, bit1, h]
theorem Laws.RoundTrip.ld (t : Ty) (d : Reg) (a : Reg) (off : BitVec 20) (m : MemQ) : Laws.RoundTrip.Statement (.ld t d a off m) := by
  intro h
  simp only [encode, decode_mkF, BitVec.reduceToNat, decodeF, Nat.reduceDiv, decodeCtl, encN, encTl, encSys, mkR, mkM, memPlain, xC, xFn, xTy, xExt, xOff, xMty, xMem, v3, v2, vm, plainX, fpX, vX, v2X]
  try simp (disch := decide) only [BitVec.ofNat_eq_ofNat, ex_lo, ex_hi, ex_all, getLsbD_lo, getLsbD_hi, Nat.reduceSub, tyOf_tyB, tyB_i8, tyB_f32, scB_hi, scB_lo]
  simp [condOf_code, condOf_code16, fcondOf_code, vcondOf_code, rmOf_code, ovfOf_code, amoOf_code, tyOf_tyB, req, bit1, h]
theorem Laws.RoundTrip.st (t : Ty) (d : Reg) (a : Reg) (off : BitVec 20) (m : MemQ) : Laws.RoundTrip.Statement (.st t d a off m) := by
  intro h
  simp only [encode, decode_mkF, BitVec.reduceToNat, decodeF, Nat.reduceDiv, decodeCtl, encN, encTl, encSys, mkR, mkM, memPlain, xC, xFn, xTy, xExt, xOff, xMty, xMem, v3, v2, vm, plainX, fpX, vX, v2X]
  try simp (disch := decide) only [BitVec.ofNat_eq_ofNat, ex_lo, ex_hi, ex_all, getLsbD_lo, getLsbD_hi, Nat.reduceSub, tyOf_tyB, tyB_i8, tyB_f32, scB_hi, scB_lo]
  simp [condOf_code, condOf_code16, fcondOf_code, vcondOf_code, rmOf_code, ovfOf_code, amoOf_code, tyOf_tyB, req, bit1, h]
theorem Laws.RoundTrip.amo (op : AmoOp) (t : Ty) (d : Reg) (a : Reg) (off : BitVec 20) (m : MemQ) : Laws.RoundTrip.Statement (.amo op t d a off m) := by
  intro h
  simp only [encode, decode_mkF, BitVec.reduceToNat, decodeF, Nat.reduceDiv, decodeCtl, encN, encTl, encSys, mkR, mkM, memPlain, xC, xFn, xTy, xExt, xOff, xMty, xMem, v3, v2, vm, plainX, fpX, vX, v2X]
  try simp (disch := decide) only [BitVec.ofNat_eq_ofNat, ex_lo, ex_hi, ex_all, getLsbD_lo, getLsbD_hi, Nat.reduceSub, tyOf_tyB, tyB_i8, tyB_f32, scB_hi, scB_lo]
  simp [condOf_code, condOf_code16, fcondOf_code, vcondOf_code, rmOf_code, ovfOf_code, amoOf_code, tyOf_tyB, req, bit1, h]
theorem Laws.RoundTrip.cas (t : Ty) (d : Reg) (a : Reg) (b : Reg) (off : BitVec 20) (m : MemQ) : Laws.RoundTrip.Statement (.cas t d a b off m) := by
  intro h
  simp only [encode, decode_mkF, BitVec.reduceToNat, decodeF, Nat.reduceDiv, decodeCtl, encN, encTl, encSys, mkR, mkM, memPlain, xC, xFn, xTy, xExt, xOff, xMty, xMem, v3, v2, vm, plainX, fpX, vX, v2X]
  try simp (disch := decide) only [BitVec.ofNat_eq_ofNat, ex_lo, ex_hi, ex_all, getLsbD_lo, getLsbD_hi, Nat.reduceSub, tyOf_tyB, tyB_i8, tyB_f32, scB_hi, scB_lo]
  simp [condOf_code, condOf_code16, fcondOf_code, vcondOf_code, rmOf_code, ovfOf_code, amoOf_code, tyOf_tyB, req, bit1, h]
theorem Laws.RoundTrip.fence (m : MemQ) : Laws.RoundTrip.Statement (.fence m) := by
  intro h
  simp only [encode, decode_mkF, BitVec.reduceToNat, decodeF, Nat.reduceDiv, decodeCtl, encN, encTl, encSys, mkR, mkM, memPlain, xC, xFn, xTy, xExt, xOff, xMty, xMem, v3, v2, vm, plainX, fpX, vX, v2X]
  try simp (disch := decide) only [BitVec.ofNat_eq_ofNat, ex_lo, ex_hi, ex_all, getLsbD_lo, getLsbD_hi, Nat.reduceSub, tyOf_tyB, tyB_i8, tyB_f32, scB_hi, scB_lo]
  simp [condOf_code, condOf_code16, fcondOf_code, vcondOf_code, rmOf_code, ovfOf_code, amoOf_code, tyOf_tyB, req, bit1, h]
theorem Laws.RoundTrip.vfence (sr : Bool) (n : BitVec 3) : Laws.RoundTrip.Statement (.vfence sr n) := by
  intro h
  simp only [encode, decode_mkF, BitVec.reduceToNat, decodeF, Nat.reduceDiv, decodeCtl, encN, encTl, encSys, mkR, mkM, memPlain, xC, xFn, xTy, xExt, xOff, xMty, xMem, v3, v2, vm, plainX, fpX, vX, v2X]
  try simp (disch := decide) only [BitVec.ofNat_eq_ofNat, ex_lo, ex_hi, ex_all, getLsbD_lo, getLsbD_hi, Nat.reduceSub, tyOf_tyB, tyB_i8, tyB_f32, scB_hi, scB_lo]
  simp [condOf_code, condOf_code16, fcondOf_code, vcondOf_code, rmOf_code, ovfOf_code, amoOf_code, tyOf_tyB, req, bit1, h]
theorem Laws.RoundTrip.tlwait (a : Reg) (n : BitVec 4) (imm : BitVec 24) : Laws.RoundTrip.Statement (.tlwait a n imm) := by
  intro h
  simp only [encode, decode_mkF, BitVec.reduceToNat, decodeF, Nat.reduceDiv, decodeTl, encN, encTl, encSys, mkR, mkM, memPlain, xC, xFn, xTy, xExt, xOff, xMty, xMem, v3, v2, vm, plainX, fpX, vX, v2X]
  try simp (disch := decide) only [BitVec.ofNat_eq_ofNat, ex_lo, ex_hi, ex_all, getLsbD_lo, getLsbD_hi, Nat.reduceSub, tyOf_tyB, tyB_i8, tyB_f32, scB_hi, scB_lo]
  simp [condOf_code, condOf_code16, fcondOf_code, vcondOf_code, rmOf_code, ovfOf_code, amoOf_code, tyOf_tyB, req, bit1, h]
theorem Laws.RoundTrip.tlrd (d : Reg) (n : BitVec 4) : Laws.RoundTrip.Statement (.tlrd d n) := by
  intro h
  simp only [encode, decode_mkF, BitVec.reduceToNat, decodeF, Nat.reduceDiv, decodeTl, encN, encTl, encSys, mkR, mkM, memPlain, xC, xFn, xTy, xExt, xOff, xMty, xMem, v3, v2, vm, plainX, fpX, vX, v2X]
  try simp (disch := decide) only [BitVec.ofNat_eq_ofNat, ex_lo, ex_hi, ex_all, getLsbD_lo, getLsbD_hi, Nat.reduceSub, tyOf_tyB, tyB_i8, tyB_f32, scB_hi, scB_lo]
  simp [condOf_code, condOf_code16, fcondOf_code, vcondOf_code, rmOf_code, ovfOf_code, amoOf_code, tyOf_tyB, req, bit1, h]
theorem Laws.RoundTrip.tladv (a : Reg) (n : BitVec 4) (imm : BitVec 24) (scope : BitVec 3) : Laws.RoundTrip.Statement (.tladv a n imm scope) := by
  intro h
  simp only [encode, decode_mkF, BitVec.reduceToNat, decodeF, Nat.reduceDiv, decodeTl, encN, encTl, encSys, mkR, mkM, memPlain, xC, xFn, xTy, xExt, xOff, xMty, xMem, v3, v2, vm, plainX, fpX, vX, v2X]
  try simp (disch := decide) only [BitVec.ofNat_eq_ofNat, ex_lo, ex_hi, ex_all, getLsbD_lo, getLsbD_hi, Nat.reduceSub, tyOf_tyB, tyB_i8, tyB_f32, scB_hi, scB_lo]
  simp [condOf_code, condOf_code16, fcondOf_code, vcondOf_code, rmOf_code, ovfOf_code, amoOf_code, tyOf_tyB, req, bit1, h]
theorem Laws.RoundTrip.vblk (a : Reg) (b : Reg) (k : BitVec 3) (n : BitVec 4) : Laws.RoundTrip.Statement (.vblk a b k n) := by
  intro h
  simp only [encode, decode_mkF, BitVec.reduceToNat, decodeF, Nat.reduceDiv, decodeTl, encN, encTl, encSys, mkR, mkM, memPlain, xC, xFn, xTy, xExt, xOff, xMty, xMem, v3, v2, vm, plainX, fpX, vX, v2X]
  try simp (disch := decide) only [BitVec.ofNat_eq_ofNat, ex_lo, ex_hi, ex_all, getLsbD_lo, getLsbD_hi, Nat.reduceSub, tyOf_tyB, tyB_i8, tyB_f32, scB_hi, scB_lo]
  simp [condOf_code, condOf_code16, fcondOf_code, vcondOf_code, rmOf_code, ovfOf_code, amoOf_code, tyOf_tyB, req, bit1, h]
theorem Laws.RoundTrip.vrpl (d : Reg) (k : BitVec 3) : Laws.RoundTrip.Statement (.vrpl d k) := by
  intro h
  simp only [encode, decode_mkF, BitVec.reduceToNat, decodeF, Nat.reduceDiv, decodeTl, encN, encTl, encSys, mkR, mkM, memPlain, xC, xFn, xTy, xExt, xOff, xMty, xMem, v3, v2, vm, plainX, fpX, vX, v2X]
  try simp (disch := decide) only [BitVec.ofNat_eq_ofNat, ex_lo, ex_hi, ex_all, getLsbD_lo, getLsbD_hi, Nat.reduceSub, tyOf_tyB, tyB_i8, tyB_f32, scB_hi, scB_lo]
  simp [condOf_code, condOf_code16, fcondOf_code, vcondOf_code, rmOf_code, ovfOf_code, amoOf_code, tyOf_tyB, req, bit1, h]
theorem Laws.RoundTrip.vjoin (k : BitVec 3) : Laws.RoundTrip.Statement (.vjoin k) := by
  intro h
  simp only [encode, decode_mkF, BitVec.reduceToNat, decodeF, Nat.reduceDiv, decodeTl, encN, encTl, encSys, mkR, mkM, memPlain, xC, xFn, xTy, xExt, xOff, xMty, xMem, v3, v2, vm, plainX, fpX, vX, v2X]
  try simp (disch := decide) only [BitVec.ofNat_eq_ofNat, ex_lo, ex_hi, ex_all, getLsbD_lo, getLsbD_hi, Nat.reduceSub, tyOf_tyB, tyB_i8, tyB_f32, scB_hi, scB_lo]
  simp [condOf_code, condOf_code16, fcondOf_code, vcondOf_code, rmOf_code, ovfOf_code, amoOf_code, tyOf_tyB, req, bit1, h]
theorem Laws.RoundTrip.lpart (n : BitVec 2) : Laws.RoundTrip.Statement (.lpart n) := by
  intro h
  simp only [encode, decode_mkF, BitVec.reduceToNat, decodeF, Nat.reduceDiv, decodeTl, encN, encTl, encSys, mkR, mkM, memPlain, xC, xFn, xTy, xExt, xOff, xMty, xMem, v3, v2, vm, plainX, fpX, vX, v2X]
  try simp (disch := decide) only [BitVec.ofNat_eq_ofNat, ex_lo, ex_hi, ex_all, getLsbD_lo, getLsbD_hi, Nat.reduceSub, tyOf_tyB, tyB_i8, tyB_f32, scB_hi, scB_lo]
  simp [condOf_code, condOf_code16, fcondOf_code, vcondOf_code, rmOf_code, ovfOf_code, amoOf_code, tyOf_tyB, req, bit1, h]
theorem Laws.RoundTrip.bar : Laws.RoundTrip.Statement (.bar) := by
  intro h
  simp only [encode, decode_mkF, BitVec.reduceToNat, decodeF, Nat.reduceDiv, decodeTl, encN, encTl, encSys, mkR, mkM, memPlain, xC, xFn, xTy, xExt, xOff, xMty, xMem, v3, v2, vm, plainX, fpX, vX, v2X]
  try simp (disch := decide) only [BitVec.ofNat_eq_ofNat, ex_lo, ex_hi, ex_all, getLsbD_lo, getLsbD_hi, Nat.reduceSub, tyOf_tyB, tyB_i8, tyB_f32, scB_hi, scB_lo]
  simp [condOf_code, condOf_code16, fcondOf_code, vcondOf_code, rmOf_code, ovfOf_code, amoOf_code, tyOf_tyB, req, bit1, h]
theorem Laws.RoundTrip.barSeal : Laws.RoundTrip.Statement (.barSeal) := by
  intro h
  simp only [encode, decode_mkF, BitVec.reduceToNat, decodeF, Nat.reduceDiv, decodeTl, encN, encTl, encSys, mkR, mkM, memPlain, xC, xFn, xTy, xExt, xOff, xMty, xMem, v3, v2, vm, plainX, fpX, vX, v2X]
  try simp (disch := decide) only [BitVec.ofNat_eq_ofNat, ex_lo, ex_hi, ex_all, getLsbD_lo, getLsbD_hi, Nat.reduceSub, tyOf_tyB, tyB_i8, tyB_f32, scB_hi, scB_lo]
  simp [condOf_code, condOf_code16, fcondOf_code, vcondOf_code, rmOf_code, ovfOf_code, amoOf_code, tyOf_tyB, req, bit1, h]
theorem Laws.RoundTrip.wfe (a : Reg) : Laws.RoundTrip.Statement (.wfe a) := by
  intro h
  simp only [encode, decode_mkF, BitVec.reduceToNat, decodeF, Nat.reduceDiv, decodeTl, encN, encTl, encSys, mkR, mkM, memPlain, xC, xFn, xTy, xExt, xOff, xMty, xMem, v3, v2, vm, plainX, fpX, vX, v2X]
  try simp (disch := decide) only [BitVec.ofNat_eq_ofNat, ex_lo, ex_hi, ex_all, getLsbD_lo, getLsbD_hi, Nat.reduceSub, tyOf_tyB, tyB_i8, tyB_f32, scB_hi, scB_lo]
  simp [condOf_code, condOf_code16, fcondOf_code, vcondOf_code, rmOf_code, ovfOf_code, amoOf_code, tyOf_tyB, req, bit1, h]
theorem Laws.RoundTrip.yield : Laws.RoundTrip.Statement (.yield) := by
  intro h
  simp only [encode, decode_mkF, BitVec.reduceToNat, decodeF, Nat.reduceDiv, decodeTl, encN, encTl, encSys, mkR, mkM, memPlain, xC, xFn, xTy, xExt, xOff, xMty, xMem, v3, v2, vm, plainX, fpX, vX, v2X]
  try simp (disch := decide) only [BitVec.ofNat_eq_ofNat, ex_lo, ex_hi, ex_all, getLsbD_lo, getLsbD_hi, Nat.reduceSub, tyOf_tyB, tyB_i8, tyB_f32, scB_hi, scB_lo]
  simp [condOf_code, condOf_code16, fcondOf_code, vcondOf_code, rmOf_code, ovfOf_code, amoOf_code, tyOf_tyB, req, bit1, h]
theorem Laws.RoundTrip.sysrd (d : Reg) (k : BitVec 3) (num : BitVec 6) : Laws.RoundTrip.Statement (.sysrd d k num) := by
  intro h
  simp only [encode, decode_mkF, BitVec.reduceToNat, decodeF, Nat.reduceDiv, decodeSys, encN, encTl, encSys, mkR, mkM, memPlain, xC, xFn, xTy, xExt, xOff, xMty, xMem, v3, v2, vm, plainX, fpX, vX, v2X]
  try simp (disch := decide) only [BitVec.ofNat_eq_ofNat, ex_lo, ex_hi, ex_all, getLsbD_lo, getLsbD_hi, Nat.reduceSub, tyOf_tyB, tyB_i8, tyB_f32, scB_hi, scB_lo]
  simp [condOf_code, condOf_code16, fcondOf_code, vcondOf_code, rmOf_code, ovfOf_code, amoOf_code, tyOf_tyB, req, bit1, h]
theorem Laws.RoundTrip.syswr (a : Reg) (k : BitVec 3) (num : BitVec 6) : Laws.RoundTrip.Statement (.syswr a k num) := by
  intro h
  simp only [encode, decode_mkF, BitVec.reduceToNat, decodeF, Nat.reduceDiv, decodeSys, encN, encTl, encSys, mkR, mkM, memPlain, xC, xFn, xTy, xExt, xOff, xMty, xMem, v3, v2, vm, plainX, fpX, vX, v2X]
  try simp (disch := decide) only [BitVec.ofNat_eq_ofNat, ex_lo, ex_hi, ex_all, getLsbD_lo, getLsbD_hi, Nat.reduceSub, tyOf_tyB, tyB_i8, tyB_f32, scB_hi, scB_lo]
  simp [condOf_code, condOf_code16, fcondOf_code, vcondOf_code, rmOf_code, ovfOf_code, amoOf_code, tyOf_tyB, req, bit1, h]
theorem Laws.RoundTrip.trap (imm : BitVec 16) : Laws.RoundTrip.Statement (.trap imm) := by
  intro h
  simp only [encode, decode_mkF, BitVec.reduceToNat, decodeF, Nat.reduceDiv, decodeSys, encN, encTl, encSys, mkR, mkM, memPlain, xC, xFn, xTy, xExt, xOff, xMty, xMem, v3, v2, vm, plainX, fpX, vX, v2X]
  try simp (disch := decide) only [BitVec.ofNat_eq_ofNat, ex_lo, ex_hi, ex_all, getLsbD_lo, getLsbD_hi, Nat.reduceSub, tyOf_tyB, tyB_i8, tyB_f32, scB_hi, scB_lo]
  simp [condOf_code, condOf_code16, fcondOf_code, vcondOf_code, rmOf_code, ovfOf_code, amoOf_code, tyOf_tyB, req, bit1, h]
theorem Laws.RoundTrip.eret : Laws.RoundTrip.Statement (.eret) := by
  intro h
  simp only [encode, decode_mkF, BitVec.reduceToNat, decodeF, Nat.reduceDiv, decodeSys, encN, encTl, encSys, mkR, mkM, memPlain, xC, xFn, xTy, xExt, xOff, xMty, xMem, v3, v2, vm, plainX, fpX, vX, v2X]
  try simp (disch := decide) only [BitVec.ofNat_eq_ofNat, ex_lo, ex_hi, ex_all, getLsbD_lo, getLsbD_hi, Nat.reduceSub, tyOf_tyB, tyB_i8, tyB_f32, scB_hi, scB_lo]
  simp [condOf_code, condOf_code16, fcondOf_code, vcondOf_code, rmOf_code, ovfOf_code, amoOf_code, tyOf_tyB, req, bit1, h]
theorem Laws.RoundTrip.endTask : Laws.RoundTrip.Statement (.endTask) := by
  intro h
  simp only [encode, decode_mkF, BitVec.reduceToNat, decodeF, Nat.reduceDiv, decodeSys, encN, encTl, encSys, mkR, mkM, memPlain, xC, xFn, xTy, xExt, xOff, xMty, xMem, v3, v2, vm, plainX, fpX, vX, v2X]
  try simp (disch := decide) only [BitVec.ofNat_eq_ofNat, ex_lo, ex_hi, ex_all, getLsbD_lo, getLsbD_hi, Nat.reduceSub, tyOf_tyB, tyB_i8, tyB_f32, scB_hi, scB_lo]
  simp [condOf_code, condOf_code16, fcondOf_code, vcondOf_code, rmOf_code, ovfOf_code, amoOf_code, tyOf_tyB, req, bit1, h]
theorem Laws.RoundTrip.tlbinvPg (a : Reg) (b : Reg) : Laws.RoundTrip.Statement (.tlbinvPg a b) := by
  intro h
  simp only [encode, decode_mkF, BitVec.reduceToNat, decodeF, Nat.reduceDiv, decodeSys, encN, encTl, encSys, mkR, mkM, memPlain, xC, xFn, xTy, xExt, xOff, xMty, xMem, v3, v2, vm, plainX, fpX, vX, v2X]
  try simp (disch := decide) only [BitVec.ofNat_eq_ofNat, ex_lo, ex_hi, ex_all, getLsbD_lo, getLsbD_hi, Nat.reduceSub, tyOf_tyB, tyB_i8, tyB_f32, scB_hi, scB_lo]
  simp [condOf_code, condOf_code16, fcondOf_code, vcondOf_code, rmOf_code, ovfOf_code, amoOf_code, tyOf_tyB, req, bit1, h]
theorem Laws.RoundTrip.tlbinvAs (b : Reg) : Laws.RoundTrip.Statement (.tlbinvAs b) := by
  intro h
  simp only [encode, decode_mkF, BitVec.reduceToNat, decodeF, Nat.reduceDiv, decodeSys, encN, encTl, encSys, mkR, mkM, memPlain, xC, xFn, xTy, xExt, xOff, xMty, xMem, v3, v2, vm, plainX, fpX, vX, v2X]
  try simp (disch := decide) only [BitVec.ofNat_eq_ofNat, ex_lo, ex_hi, ex_all, getLsbD_lo, getLsbD_hi, Nat.reduceSub, tyOf_tyB, tyB_i8, tyB_f32, scB_hi, scB_lo]
  simp [condOf_code, condOf_code16, fcondOf_code, vcondOf_code, rmOf_code, ovfOf_code, amoOf_code, tyOf_tyB, req, bit1, h]
theorem Laws.RoundTrip.tlbinvAll : Laws.RoundTrip.Statement (.tlbinvAll) := by
  intro h
  simp only [encode, decode_mkF, BitVec.reduceToNat, decodeF, Nat.reduceDiv, decodeSys, encN, encTl, encSys, mkR, mkM, memPlain, xC, xFn, xTy, xExt, xOff, xMty, xMem, v3, v2, vm, plainX, fpX, vX, v2X]
  try simp (disch := decide) only [BitVec.ofNat_eq_ofNat, ex_lo, ex_hi, ex_all, getLsbD_lo, getLsbD_hi, Nat.reduceSub, tyOf_tyB, tyB_i8, tyB_f32, scB_hi, scB_lo]
  simp [condOf_code, condOf_code16, fcondOf_code, vcondOf_code, rmOf_code, ovfOf_code, amoOf_code, tyOf_tyB, req, bit1, h]
theorem Laws.RoundTrip.nop : Laws.RoundTrip.Statement (.nop) := by
  intro h
  simp only [encode, decode_mkF, BitVec.reduceToNat, decodeF, Nat.reduceDiv, decodeSys, encN, encTl, encSys, mkR, mkM, memPlain, xC, xFn, xTy, xExt, xOff, xMty, xMem, v3, v2, vm, plainX, fpX, vX, v2X]
  try simp (disch := decide) only [BitVec.ofNat_eq_ofNat, ex_lo, ex_hi, ex_all, getLsbD_lo, getLsbD_hi, Nat.reduceSub, tyOf_tyB, tyB_i8, tyB_f32, scB_hi, scB_lo]
  simp [condOf_code, condOf_code16, fcondOf_code, vcondOf_code, rmOf_code, ovfOf_code, amoOf_code, tyOf_tyB, req, bit1, h]
theorem Laws.RoundTrip.brk : Laws.RoundTrip.Statement (.brk) := by
  intro h
  simp only [encode, decode_mkF, BitVec.reduceToNat, decodeF, Nat.reduceDiv, decodeSys, encN, encTl, encSys, mkR, mkM, memPlain, xC, xFn, xTy, xExt, xOff, xMty, xMem, v3, v2, vm, plainX, fpX, vX, v2X]
  try simp (disch := decide) only [BitVec.ofNat_eq_ofNat, ex_lo, ex_hi, ex_all, getLsbD_lo, getLsbD_hi, Nat.reduceSub, tyOf_tyB, tyB_i8, tyB_f32, scB_hi, scB_lo]
  simp [condOf_code, condOf_code16, fcondOf_code, vcondOf_code, rmOf_code, ovfOf_code, amoOf_code, tyOf_tyB, req, bit1, h]
theorem Laws.RoundTrip.shset (a : Reg) (b : Reg) : Laws.RoundTrip.Statement (.shset a b) := by
  intro h
  simp only [encode, decode_mkF, BitVec.reduceToNat, decodeF, Nat.reduceDiv, decodeSys, encN, encTl, encSys, mkR, mkM, memPlain, xC, xFn, xTy, xExt, xOff, xMty, xMem, v3, v2, vm, plainX, fpX, vX, v2X]
  try simp (disch := decide) only [BitVec.ofNat_eq_ofNat, ex_lo, ex_hi, ex_all, getLsbD_lo, getLsbD_hi, Nat.reduceSub, tyOf_tyB, tyB_i8, tyB_f32, scB_hi, scB_lo]
  simp [condOf_code, condOf_code16, fcondOf_code, vcondOf_code, rmOf_code, ovfOf_code, amoOf_code, tyOf_tyB, req, bit1, h]
theorem Laws.RoundTrip.shgen (d : Reg) (a : Reg) (b : Reg) : Laws.RoundTrip.Statement (.shgen d a b) := by
  intro h
  simp only [encode, decode_mkF, BitVec.reduceToNat, decodeF, Nat.reduceDiv, decodeSys, encN, encTl, encSys, mkR, mkM, memPlain, xC, xFn, xTy, xExt, xOff, xMty, xMem, v3, v2, vm, plainX, fpX, vX, v2X]
  try simp (disch := decide) only [BitVec.ofNat_eq_ofNat, ex_lo, ex_hi, ex_all, getLsbD_lo, getLsbD_hi, Nat.reduceSub, tyOf_tyB, tyB_i8, tyB_f32, scB_hi, scB_lo]
  simp [condOf_code, condOf_code16, fcondOf_code, vcondOf_code, rmOf_code, ovfOf_code, amoOf_code, tyOf_tyB, req, bit1, h]
theorem Laws.RoundTrip.dualWord (sa : Slot) (sb : Slot) : Laws.RoundTrip.Statement (.dualWord sa sb) := by
  intro h
  simp only [encode, decode_dual, req, wf_dual] at h ⊢
  simp [h]
theorem Laws.RoundTrip.vsetvl (d : Reg) (a : Reg) : Laws.RoundTrip.Statement (.vsetvl d a) := by
  intro h
  simp only [encode, decode_mkF, BitVec.reduceToNat, decodeF, Nat.reduceDiv, decodeV8, encN, encTl, encSys, mkR, mkM, memPlain, xC, xFn, xTy, xExt, xOff, xMty, xMem, v3, v2, vm, plainX, fpX, vX, v2X]
  try simp (disch := decide) only [BitVec.ofNat_eq_ofNat, ex_lo, ex_hi, ex_all, getLsbD_lo, getLsbD_hi, Nat.reduceSub, tyOf_tyB, tyB_i8, tyB_f32, scB_hi, scB_lo]
  simp [condOf_code, condOf_code16, fcondOf_code, vcondOf_code, rmOf_code, ovfOf_code, amoOf_code, tyOf_tyB, req, bit1, h]
theorem Laws.RoundTrip.vsett (r : Bool) (a : Reg) (image : BitVec 20) : Laws.RoundTrip.Statement (.vsett r a image) := by
  intro h
  simp only [encode, decode_mkF, BitVec.reduceToNat, decodeF, Nat.reduceDiv, decodeV8, encN, encTl, encSys, mkR, mkM, memPlain, xC, xFn, xTy, xExt, xOff, xMty, xMem, v3, v2, vm, plainX, fpX, vX, v2X]
  try simp (disch := decide) only [BitVec.ofNat_eq_ofNat, ex_lo, ex_hi, ex_all, getLsbD_lo, getLsbD_hi, Nat.reduceSub, tyOf_tyB, tyB_i8, tyB_f32, scB_hi, scB_lo]
  simp [condOf_code, condOf_code16, fcondOf_code, vcondOf_code, rmOf_code, ovfOf_code, amoOf_code, tyOf_tyB, req, bit1, h]
theorem Laws.RoundTrip.vadd (x : V3) : Laws.RoundTrip.Statement (.vadd x) := by
  intro h
  simp only [encode, decode_mkF, BitVec.reduceToNat, decodeF, Nat.reduceDiv, decodeV8, encV3, mkR, v3, vX, xC, xFn, xTy, xExt]
  try simp (disch := decide) only [BitVec.ofNat_eq_ofNat, ex_lo, ex_hi, ex_all, getLsbD_lo, getLsbD_hi, Nat.reduceSub, tyOf_tyB, tyB_i8, tyB_f32, scB_hi, scB_lo]
  simp [condOf_code, condOf_code16, fcondOf_code, vcondOf_code, rmOf_code, ovfOf_code, amoOf_code, tyOf_tyB, req, bit1, h]
theorem Laws.RoundTrip.vsub (x : V3) : Laws.RoundTrip.Statement (.vsub x) := by
  intro h
  simp only [encode, decode_mkF, BitVec.reduceToNat, decodeF, Nat.reduceDiv, decodeV8, encV3, mkR, v3, vX, xC, xFn, xTy, xExt]
  try simp (disch := decide) only [BitVec.ofNat_eq_ofNat, ex_lo, ex_hi, ex_all, getLsbD_lo, getLsbD_hi, Nat.reduceSub, tyOf_tyB, tyB_i8, tyB_f32, scB_hi, scB_lo]
  simp [condOf_code, condOf_code16, fcondOf_code, vcondOf_code, rmOf_code, ovfOf_code, amoOf_code, tyOf_tyB, req, bit1, h]
theorem Laws.RoundTrip.vmul (x : V3) : Laws.RoundTrip.Statement (.vmul x) := by
  intro h
  simp only [encode, decode_mkF, BitVec.reduceToNat, decodeF, Nat.reduceDiv, decodeV8, encV3, mkR, v3, vX, xC, xFn, xTy, xExt]
  try simp (disch := decide) only [BitVec.ofNat_eq_ofNat, ex_lo, ex_hi, ex_all, getLsbD_lo, getLsbD_hi, Nat.reduceSub, tyOf_tyB, tyB_i8, tyB_f32, scB_hi, scB_lo]
  simp [condOf_code, condOf_code16, fcondOf_code, vcondOf_code, rmOf_code, ovfOf_code, amoOf_code, tyOf_tyB, req, bit1, h]
theorem Laws.RoundTrip.vmulh (x : V3) : Laws.RoundTrip.Statement (.vmulh x) := by
  intro h
  simp only [encode, decode_mkF, BitVec.reduceToNat, decodeF, Nat.reduceDiv, decodeV8, encV3, mkR, v3, vX, xC, xFn, xTy, xExt]
  try simp (disch := decide) only [BitVec.ofNat_eq_ofNat, ex_lo, ex_hi, ex_all, getLsbD_lo, getLsbD_hi, Nat.reduceSub, tyOf_tyB, tyB_i8, tyB_f32, scB_hi, scB_lo]
  simp [condOf_code, condOf_code16, fcondOf_code, vcondOf_code, rmOf_code, ovfOf_code, amoOf_code, tyOf_tyB, req, bit1, h]
theorem Laws.RoundTrip.vmac (x : V3) : Laws.RoundTrip.Statement (.vmac x) := by
  intro h
  simp only [encode, decode_mkF, BitVec.reduceToNat, decodeF, Nat.reduceDiv, decodeV8, encV3, mkR, v3, vX, xC, xFn, xTy, xExt]
  try simp (disch := decide) only [BitVec.ofNat_eq_ofNat, ex_lo, ex_hi, ex_all, getLsbD_lo, getLsbD_hi, Nat.reduceSub, tyOf_tyB, tyB_i8, tyB_f32, scB_hi, scB_lo]
  simp [condOf_code, condOf_code16, fcondOf_code, vcondOf_code, rmOf_code, ovfOf_code, amoOf_code, tyOf_tyB, req, bit1, h]
theorem Laws.RoundTrip.vmin (x : V3) : Laws.RoundTrip.Statement (.vmin x) := by
  intro h
  simp only [encode, decode_mkF, BitVec.reduceToNat, decodeF, Nat.reduceDiv, decodeV8, encV3, mkR, v3, vX, xC, xFn, xTy, xExt]
  try simp (disch := decide) only [BitVec.ofNat_eq_ofNat, ex_lo, ex_hi, ex_all, getLsbD_lo, getLsbD_hi, Nat.reduceSub, tyOf_tyB, tyB_i8, tyB_f32, scB_hi, scB_lo]
  simp [condOf_code, condOf_code16, fcondOf_code, vcondOf_code, rmOf_code, ovfOf_code, amoOf_code, tyOf_tyB, req, bit1, h]
theorem Laws.RoundTrip.vmax (x : V3) : Laws.RoundTrip.Statement (.vmax x) := by
  intro h
  simp only [encode, decode_mkF, BitVec.reduceToNat, decodeF, Nat.reduceDiv, decodeV8, encV3, mkR, v3, vX, xC, xFn, xTy, xExt]
  try simp (disch := decide) only [BitVec.ofNat_eq_ofNat, ex_lo, ex_hi, ex_all, getLsbD_lo, getLsbD_hi, Nat.reduceSub, tyOf_tyB, tyB_i8, tyB_f32, scB_hi, scB_lo]
  simp [condOf_code, condOf_code16, fcondOf_code, vcondOf_code, rmOf_code, ovfOf_code, amoOf_code, tyOf_tyB, req, bit1, h]
theorem Laws.RoundTrip.vand (x : V3) : Laws.RoundTrip.Statement (.vand x) := by
  intro h
  simp only [encode, decode_mkF, BitVec.reduceToNat, decodeF, Nat.reduceDiv, decodeV8, encV3, mkR, v3, vX, xC, xFn, xTy, xExt]
  try simp (disch := decide) only [BitVec.ofNat_eq_ofNat, ex_lo, ex_hi, ex_all, getLsbD_lo, getLsbD_hi, Nat.reduceSub, tyOf_tyB, tyB_i8, tyB_f32, scB_hi, scB_lo]
  simp [condOf_code, condOf_code16, fcondOf_code, vcondOf_code, rmOf_code, ovfOf_code, amoOf_code, tyOf_tyB, req, bit1, h]
theorem Laws.RoundTrip.vor (x : V3) : Laws.RoundTrip.Statement (.vor x) := by
  intro h
  simp only [encode, decode_mkF, BitVec.reduceToNat, decodeF, Nat.reduceDiv, decodeV8, encV3, mkR, v3, vX, xC, xFn, xTy, xExt]
  try simp (disch := decide) only [BitVec.ofNat_eq_ofNat, ex_lo, ex_hi, ex_all, getLsbD_lo, getLsbD_hi, Nat.reduceSub, tyOf_tyB, tyB_i8, tyB_f32, scB_hi, scB_lo]
  simp [condOf_code, condOf_code16, fcondOf_code, vcondOf_code, rmOf_code, ovfOf_code, amoOf_code, tyOf_tyB, req, bit1, h]
theorem Laws.RoundTrip.vxor (x : V3) : Laws.RoundTrip.Statement (.vxor x) := by
  intro h
  simp only [encode, decode_mkF, BitVec.reduceToNat, decodeF, Nat.reduceDiv, decodeV8, encV3, mkR, v3, vX, xC, xFn, xTy, xExt]
  try simp (disch := decide) only [BitVec.ofNat_eq_ofNat, ex_lo, ex_hi, ex_all, getLsbD_lo, getLsbD_hi, Nat.reduceSub, tyOf_tyB, tyB_i8, tyB_f32, scB_hi, scB_lo]
  simp [condOf_code, condOf_code16, fcondOf_code, vcondOf_code, rmOf_code, ovfOf_code, amoOf_code, tyOf_tyB, req, bit1, h]
theorem Laws.RoundTrip.vshl (x : V3) : Laws.RoundTrip.Statement (.vshl x) := by
  intro h
  simp only [encode, decode_mkF, BitVec.reduceToNat, decodeF, Nat.reduceDiv, decodeV8, encV3, mkR, v3, vX, xC, xFn, xTy, xExt]
  try simp (disch := decide) only [BitVec.ofNat_eq_ofNat, ex_lo, ex_hi, ex_all, getLsbD_lo, getLsbD_hi, Nat.reduceSub, tyOf_tyB, tyB_i8, tyB_f32, scB_hi, scB_lo]
  simp [condOf_code, condOf_code16, fcondOf_code, vcondOf_code, rmOf_code, ovfOf_code, amoOf_code, tyOf_tyB, req, bit1, h]
theorem Laws.RoundTrip.vshr (x : V3) : Laws.RoundTrip.Statement (.vshr x) := by
  intro h
  simp only [encode, decode_mkF, BitVec.reduceToNat, decodeF, Nat.reduceDiv, decodeV8, encV3, mkR, v3, vX, xC, xFn, xTy, xExt]
  try simp (disch := decide) only [BitVec.ofNat_eq_ofNat, ex_lo, ex_hi, ex_all, getLsbD_lo, getLsbD_hi, Nat.reduceSub, tyOf_tyB, tyB_i8, tyB_f32, scB_hi, scB_lo]
  simp [condOf_code, condOf_code16, fcondOf_code, vcondOf_code, rmOf_code, ovfOf_code, amoOf_code, tyOf_tyB, req, bit1, h]
theorem Laws.RoundTrip.vsra (x : V3) : Laws.RoundTrip.Statement (.vsra x) := by
  intro h
  simp only [encode, decode_mkF, BitVec.reduceToNat, decodeF, Nat.reduceDiv, decodeV8, encV3, mkR, v3, vX, xC, xFn, xTy, xExt]
  try simp (disch := decide) only [BitVec.ofNat_eq_ofNat, ex_lo, ex_hi, ex_all, getLsbD_lo, getLsbD_hi, Nat.reduceSub, tyOf_tyB, tyB_i8, tyB_f32, scB_hi, scB_lo]
  simp [condOf_code, condOf_code16, fcondOf_code, vcondOf_code, rmOf_code, ovfOf_code, amoOf_code, tyOf_tyB, req, bit1, h]
theorem Laws.RoundTrip.vabs (x : V2) : Laws.RoundTrip.Statement (.vabs x) := by
  intro h
  simp only [encode, decode_mkF, BitVec.reduceToNat, decodeF, Nat.reduceDiv, decodeV8, encV2, mkR, v2, v2X, xC, xFn, xTy, xExt]
  try simp (disch := decide) only [BitVec.ofNat_eq_ofNat, ex_lo, ex_hi, ex_all, getLsbD_lo, getLsbD_hi, Nat.reduceSub, tyOf_tyB, tyB_i8, tyB_f32, scB_hi, scB_lo]
  simp [condOf_code, condOf_code16, fcondOf_code, vcondOf_code, rmOf_code, ovfOf_code, amoOf_code, tyOf_tyB, req, bit1, h]
theorem Laws.RoundTrip.vsadd (sub : Bool) (x : V3) : Laws.RoundTrip.Statement (.vsadd sub x) := by
  intro h
  simp only [encode, decode_mkF, BitVec.reduceToNat, decodeF, Nat.reduceDiv, decodeV9, encV3, mkR, v3, vX, xC, xFn, xTy, xExt]
  try simp (disch := decide) only [BitVec.ofNat_eq_ofNat, ex_lo, ex_hi, ex_all, getLsbD_lo, getLsbD_hi, Nat.reduceSub, tyOf_tyB, tyB_i8, tyB_f32, scB_hi, scB_lo, fn2_hi, fn2_lo, fn3_hi, fn3_lo, fnb_hi, fnb_hi11, fnb_lo, amo_hi, amo_lo, tail20, tail7]
  simp [condOf_code, condOf_code16, fcondOf_code, vcondOf_code, rmOf_code, ovfOf_code, amoOf_code, tyOf_tyB, req, bit1, h]
theorem Laws.RoundTrip.vcmp (c : VCond) (x : V3) : Laws.RoundTrip.Statement (.vcmp c x) := by
  intro h
  simp only [encode, decode_mkF, BitVec.reduceToNat, decodeF, Nat.reduceDiv, decodeV9, encV3, mkR, v3, vX, xC, xFn, xTy, xExt]
  try simp (disch := decide) only [BitVec.ofNat_eq_ofNat, ex_lo, ex_hi, ex_all, getLsbD_lo, getLsbD_hi, Nat.reduceSub, tyOf_tyB, tyB_i8, tyB_f32, scB_hi, scB_lo]
  simp [condOf_code, condOf_code16, fcondOf_code, vcondOf_code, rmOf_code, ovfOf_code, amoOf_code, tyOf_tyB, req, bit1, h]
theorem Laws.RoundTrip.vsel (x : V3) : Laws.RoundTrip.Statement (.vsel x) := by
  intro h
  simp only [encode, decode_mkF, BitVec.reduceToNat, decodeF, Nat.reduceDiv, decodeV9, encV3, mkR, v3, vX, xC, xFn, xTy, xExt]
  try simp (disch := decide) only [BitVec.ofNat_eq_ofNat, ex_lo, ex_hi, ex_all, getLsbD_lo, getLsbD_hi, Nat.reduceSub, tyOf_tyB, tyB_i8, tyB_f32, scB_hi, scB_lo]
  simp [condOf_code, condOf_code16, fcondOf_code, vcondOf_code, rmOf_code, ovfOf_code, amoOf_code, tyOf_tyB, req, bit1, h]
theorem Laws.RoundTrip.vwmul (t2 : Ty) (x : V3) : Laws.RoundTrip.Statement (.vwmul t2 x) := by
  intro h
  simp only [encode, decode_mkF, BitVec.reduceToNat, decodeF, Nat.reduceDiv, decodeV9, encN, encTl, encSys, mkR, mkM, memPlain, xC, xFn, xTy, xExt, xOff, xMty, xMem, v3, v2, vm, plainX, fpX, vX, v2X]
  try simp (disch := decide) only [BitVec.ofNat_eq_ofNat, ex_lo, ex_hi, ex_all, getLsbD_lo, getLsbD_hi, Nat.reduceSub, tyOf_tyB, tyB_i8, tyB_f32, scB_hi, scB_lo]
  simp [condOf_code, condOf_code16, fcondOf_code, vcondOf_code, rmOf_code, ovfOf_code, amoOf_code, tyOf_tyB, req, bit1, h]
theorem Laws.RoundTrip.vwmac (t2 : Ty) (x : V3) : Laws.RoundTrip.Statement (.vwmac t2 x) := by
  intro h
  simp only [encode, decode_mkF, BitVec.reduceToNat, decodeF, Nat.reduceDiv, decodeV9, encN, encTl, encSys, mkR, mkM, memPlain, xC, xFn, xTy, xExt, xOff, xMty, xMem, v3, v2, vm, plainX, fpX, vX, v2X]
  try simp (disch := decide) only [BitVec.ofNat_eq_ofNat, ex_lo, ex_hi, ex_all, getLsbD_lo, getLsbD_hi, Nat.reduceSub, tyOf_tyB, tyB_i8, tyB_f32, scB_hi, scB_lo]
  simp [condOf_code, condOf_code16, fcondOf_code, vcondOf_code, rmOf_code, ovfOf_code, amoOf_code, tyOf_tyB, req, bit1, h]
theorem Laws.RoundTrip.vmv (x : V3) : Laws.RoundTrip.Statement (.vmv x) := by
  intro h
  simp only [encode, decode_mkF, BitVec.reduceToNat, decodeF, Nat.reduceDiv, decodeV9, encV3, mkR, v3, vX, xC, xFn, xTy, xExt]
  try simp (disch := decide) only [BitVec.ofNat_eq_ofNat, ex_lo, ex_hi, ex_all, getLsbD_lo, getLsbD_hi, Nat.reduceSub, tyOf_tyB, tyB_i8, tyB_f32, scB_hi, scB_lo]
  simp [condOf_code, condOf_code16, fcondOf_code, vcondOf_code, rmOf_code, ovfOf_code, amoOf_code, tyOf_tyB, req, bit1, h]
theorem Laws.RoundTrip.vfadd (x : V3) : Laws.RoundTrip.Statement (.vfadd x) := by
  intro h
  simp only [encode, decode_mkF, BitVec.reduceToNat, decodeF, Nat.reduceDiv, decodeV9, encV3, mkR, v3, vX, xC, xFn, xTy, xExt]
  try simp (disch := decide) only [BitVec.ofNat_eq_ofNat, ex_lo, ex_hi, ex_all, getLsbD_lo, getLsbD_hi, Nat.reduceSub, tyOf_tyB, tyB_i8, tyB_f32, scB_hi, scB_lo]
  simp [condOf_code, condOf_code16, fcondOf_code, vcondOf_code, rmOf_code, ovfOf_code, amoOf_code, tyOf_tyB, req, bit1, h]
theorem Laws.RoundTrip.vfsub (x : V3) : Laws.RoundTrip.Statement (.vfsub x) := by
  intro h
  simp only [encode, decode_mkF, BitVec.reduceToNat, decodeF, Nat.reduceDiv, decodeV9, encV3, mkR, v3, vX, xC, xFn, xTy, xExt]
  try simp (disch := decide) only [BitVec.ofNat_eq_ofNat, ex_lo, ex_hi, ex_all, getLsbD_lo, getLsbD_hi, Nat.reduceSub, tyOf_tyB, tyB_i8, tyB_f32, scB_hi, scB_lo]
  simp [condOf_code, condOf_code16, fcondOf_code, vcondOf_code, rmOf_code, ovfOf_code, amoOf_code, tyOf_tyB, req, bit1, h]
theorem Laws.RoundTrip.vfmul (x : V3) : Laws.RoundTrip.Statement (.vfmul x) := by
  intro h
  simp only [encode, decode_mkF, BitVec.reduceToNat, decodeF, Nat.reduceDiv, decodeV9, encV3, mkR, v3, vX, xC, xFn, xTy, xExt]
  try simp (disch := decide) only [BitVec.ofNat_eq_ofNat, ex_lo, ex_hi, ex_all, getLsbD_lo, getLsbD_hi, Nat.reduceSub, tyOf_tyB, tyB_i8, tyB_f32, scB_hi, scB_lo]
  simp [condOf_code, condOf_code16, fcondOf_code, vcondOf_code, rmOf_code, ovfOf_code, amoOf_code, tyOf_tyB, req, bit1, h]
theorem Laws.RoundTrip.vfma (x : V3) (c : Reg) : Laws.RoundTrip.Statement (.vfma x c) := by
  intro h
  simp only [encode, decode_mkF, BitVec.reduceToNat, decodeF, Nat.reduceDiv, decodeV9, encV3, mkR, v3, vX, xC, xFn, xTy, xExt]
  try simp (disch := decide) only [BitVec.ofNat_eq_ofNat, ex_lo, ex_hi, ex_all, getLsbD_lo, getLsbD_hi, Nat.reduceSub, tyOf_tyB, tyB_i8, tyB_f32, scB_hi, scB_lo]
  simp [condOf_code, condOf_code16, fcondOf_code, vcondOf_code, rmOf_code, ovfOf_code, amoOf_code, tyOf_tyB, req, bit1, h]
theorem Laws.RoundTrip.vfmin (x : V3) : Laws.RoundTrip.Statement (.vfmin x) := by
  intro h
  simp only [encode, decode_mkF, BitVec.reduceToNat, decodeF, Nat.reduceDiv, decodeV9, encV3, mkR, v3, vX, xC, xFn, xTy, xExt]
  try simp (disch := decide) only [BitVec.ofNat_eq_ofNat, ex_lo, ex_hi, ex_all, getLsbD_lo, getLsbD_hi, Nat.reduceSub, tyOf_tyB, tyB_i8, tyB_f32, scB_hi, scB_lo]
  simp [condOf_code, condOf_code16, fcondOf_code, vcondOf_code, rmOf_code, ovfOf_code, amoOf_code, tyOf_tyB, req, bit1, h]
theorem Laws.RoundTrip.vfmax (x : V3) : Laws.RoundTrip.Statement (.vfmax x) := by
  intro h
  simp only [encode, decode_mkF, BitVec.reduceToNat, decodeF, Nat.reduceDiv, decodeV9, encV3, mkR, v3, vX, xC, xFn, xTy, xExt]
  try simp (disch := decide) only [BitVec.ofNat_eq_ofNat, ex_lo, ex_hi, ex_all, getLsbD_lo, getLsbD_hi, Nat.reduceSub, tyOf_tyB, tyB_i8, tyB_f32, scB_hi, scB_lo]
  simp [condOf_code, condOf_code16, fcondOf_code, vcondOf_code, rmOf_code, ovfOf_code, amoOf_code, tyOf_tyB, req, bit1, h]
theorem Laws.RoundTrip.vfdiv (x : V3) : Laws.RoundTrip.Statement (.vfdiv x) := by
  intro h
  simp only [encode, decode_mkF, BitVec.reduceToNat, decodeF, Nat.reduceDiv, decodeV9, encV3, mkR, v3, vX, xC, xFn, xTy, xExt]
  try simp (disch := decide) only [BitVec.ofNat_eq_ofNat, ex_lo, ex_hi, ex_all, getLsbD_lo, getLsbD_hi, Nat.reduceSub, tyOf_tyB, tyB_i8, tyB_f32, scB_hi, scB_lo]
  simp [condOf_code, condOf_code16, fcondOf_code, vcondOf_code, rmOf_code, ovfOf_code, amoOf_code, tyOf_tyB, req, bit1, h]
theorem Laws.RoundTrip.vfsqrt (x : V2) : Laws.RoundTrip.Statement (.vfsqrt x) := by
  intro h
  simp only [encode, decode_mkF, BitVec.reduceToNat, decodeF, Nat.reduceDiv, decodeV9, encV2, mkR, v2, v2X, xC, xFn, xTy, xExt]
  try simp (disch := decide) only [BitVec.ofNat_eq_ofNat, ex_lo, ex_hi, ex_all, getLsbD_lo, getLsbD_hi, Nat.reduceSub, tyOf_tyB, tyB_i8, tyB_f32, scB_hi, scB_lo]
  simp [condOf_code, condOf_code16, fcondOf_code, vcondOf_code, rmOf_code, ovfOf_code, amoOf_code, tyOf_tyB, req, bit1, h]
theorem Laws.RoundTrip.vfrsq (x : V2) : Laws.RoundTrip.Statement (.vfrsq x) := by
  intro h
  simp only [encode, decode_mkF, BitVec.reduceToNat, decodeF, Nat.reduceDiv, decodeVA, encV2, mkR, v2, v2X, xC, xFn, xTy, xExt]
  try simp (disch := decide) only [BitVec.ofNat_eq_ofNat, ex_lo, ex_hi, ex_all, getLsbD_lo, getLsbD_hi, Nat.reduceSub, tyOf_tyB, tyB_i8, tyB_f32, scB_hi, scB_lo]
  simp [condOf_code, condOf_code16, fcondOf_code, vcondOf_code, rmOf_code, ovfOf_code, amoOf_code, tyOf_tyB, req, bit1, h]
theorem Laws.RoundTrip.vfexp2 (x : V2) : Laws.RoundTrip.Statement (.vfexp2 x) := by
  intro h
  simp only [encode, decode_mkF, BitVec.reduceToNat, decodeF, Nat.reduceDiv, decodeVA, encV2, mkR, v2, v2X, xC, xFn, xTy, xExt]
  try simp (disch := decide) only [BitVec.ofNat_eq_ofNat, ex_lo, ex_hi, ex_all, getLsbD_lo, getLsbD_hi, Nat.reduceSub, tyOf_tyB, tyB_i8, tyB_f32, scB_hi, scB_lo]
  simp [condOf_code, condOf_code16, fcondOf_code, vcondOf_code, rmOf_code, ovfOf_code, amoOf_code, tyOf_tyB, req, bit1, h]
theorem Laws.RoundTrip.vflog2 (x : V2) : Laws.RoundTrip.Statement (.vflog2 x) := by
  intro h
  simp only [encode, decode_mkF, BitVec.reduceToNat, decodeF, Nat.reduceDiv, decodeVA, encV2, mkR, v2, v2X, xC, xFn, xTy, xExt]
  try simp (disch := decide) only [BitVec.ofNat_eq_ofNat, ex_lo, ex_hi, ex_all, getLsbD_lo, getLsbD_hi, Nat.reduceSub, tyOf_tyB, tyB_i8, tyB_f32, scB_hi, scB_lo]
  simp [condOf_code, condOf_code16, fcondOf_code, vcondOf_code, rmOf_code, ovfOf_code, amoOf_code, tyOf_tyB, req, bit1, h]
theorem Laws.RoundTrip.vfcmp (c : FCond) (x : V3) : Laws.RoundTrip.Statement (.vfcmp c x) := by
  intro h
  simp only [encode, decode_mkF, BitVec.reduceToNat, decodeF, Nat.reduceDiv, decodeVA, encV3, mkR, v3, vX, xC, xFn, xTy, xExt]
  try simp (disch := decide) only [BitVec.ofNat_eq_ofNat, ex_lo, ex_hi, ex_all, getLsbD_lo, getLsbD_hi, Nat.reduceSub, tyOf_tyB, tyB_i8, tyB_f32, scB_hi, scB_lo]
  simp [condOf_code, condOf_code16, fcondOf_code, vcondOf_code, rmOf_code, ovfOf_code, amoOf_code, tyOf_tyB, req, bit1, h]
theorem Laws.RoundTrip.vfcls (x : V2) : Laws.RoundTrip.Statement (.vfcls x) := by
  intro h
  simp only [encode, decode_mkF, BitVec.reduceToNat, decodeF, Nat.reduceDiv, decodeVA, encV2, mkR, v2, v2X, xC, xFn, xTy, xExt]
  try simp (disch := decide) only [BitVec.ofNat_eq_ofNat, ex_lo, ex_hi, ex_all, getLsbD_lo, getLsbD_hi, Nat.reduceSub, tyOf_tyB, tyB_i8, tyB_f32, scB_hi, scB_lo]
  simp [condOf_code, condOf_code16, fcondOf_code, vcondOf_code, rmOf_code, ovfOf_code, amoOf_code, tyOf_tyB, req, bit1, h]
theorem Laws.RoundTrip.vcvt (td : Ty) (rm : Rm) (ov : Ovf) (x : V2) : Laws.RoundTrip.Statement (.vcvt td rm ov x) := by
  intro h
  simp only [encode, decode_mkF, BitVec.reduceToNat, decodeF, Nat.reduceDiv, decodeVA, encV2, mkR, v2, v2X, xC, xFn, xTy, xExt]
  try simp (disch := decide) only [BitVec.ofNat_eq_ofNat, ex_lo, ex_hi, ex_all, getLsbD_lo, getLsbD_hi, Nat.reduceSub, tyOf_tyB, tyB_i8, tyB_f32, scB_hi, scB_lo]
  simp [condOf_code, condOf_code16, fcondOf_code, vcondOf_code, rmOf_code, ovfOf_code, amoOf_code, tyOf_tyB, req, bit1, h]
theorem Laws.RoundTrip.vbq (tq : BitVec 2) (s : Reg) (x : V2) : Laws.RoundTrip.Statement (.vbq tq s x) := by
  intro h
  simp only [encode, decode_mkF, BitVec.reduceToNat, decodeF, Nat.reduceDiv, decodeVA, encV2, mkR, v2, v2X, xC, xFn, xTy, xExt]
  try simp (disch := decide) only [BitVec.ofNat_eq_ofNat, ex_lo, ex_hi, ex_all, getLsbD_lo, getLsbD_hi, Nat.reduceSub, tyOf_tyB, tyB_i8, tyB_f32, scB_hi, scB_lo, fn2_hi, fn2_lo, fn3_hi, fn3_lo, fnb_hi, fnb_hi11, fnb_lo, amo_hi, amo_lo, tail20, tail7]
  simp [condOf_code, condOf_code16, fcondOf_code, vcondOf_code, rmOf_code, ovfOf_code, amoOf_code, tyOf_tyB, req, bit1, h]
theorem Laws.RoundTrip.vbdq (tq : BitVec 2) (s : Reg) (x : V2) : Laws.RoundTrip.Statement (.vbdq tq s x) := by
  intro h
  simp only [encode, decode_mkF, BitVec.reduceToNat, decodeF, Nat.reduceDiv, decodeVA, encV2, mkR, v2, v2X, xC, xFn, xTy, xExt]
  try simp (disch := decide) only [BitVec.ofNat_eq_ofNat, ex_lo, ex_hi, ex_all, getLsbD_lo, getLsbD_hi, Nat.reduceSub, tyOf_tyB, tyB_i8, tyB_f32, scB_hi, scB_lo, fn2_hi, fn2_lo, fn3_hi, fn3_lo, fnb_hi, fnb_hi11, fnb_lo, amo_hi, amo_lo, tail20, tail7]
  simp [condOf_code, condOf_code16, fcondOf_code, vcondOf_code, rmOf_code, ovfOf_code, amoOf_code, tyOf_tyB, req, bit1, h]
theorem Laws.RoundTrip.ve8q (ts : Ty) (s : Reg) (cnt : Bool) (n : Reg) (x : V2) : Laws.RoundTrip.Statement (.ve8q ts s cnt n x) := by
  intro h
  simp only [encode, decode_mkF, BitVec.reduceToNat, decodeF, Nat.reduceDiv, decodeVA, encV2, mkR, v2, v2X, xC, xFn, xTy, xExt]
  try simp (disch := decide) only [BitVec.ofNat_eq_ofNat, ex_lo, ex_hi, ex_all, getLsbD_lo, getLsbD_hi, Nat.reduceSub, tyOf_tyB, tyB_i8, tyB_f32, scB_hi, scB_lo]
  simp [condOf_code, condOf_code16, fcondOf_code, vcondOf_code, rmOf_code, ovfOf_code, amoOf_code, tyOf_tyB, req, bit1, h]
theorem Laws.RoundTrip.ve8d (td : Ty) (s : Reg) (x : V2) : Laws.RoundTrip.Statement (.ve8d td s x) := by
  intro h
  simp only [encode, decode_mkF, BitVec.reduceToNat, decodeF, Nat.reduceDiv, decodeVA, encV2, mkR, v2, v2X, xC, xFn, xTy, xExt]
  try simp (disch := decide) only [BitVec.ofNat_eq_ofNat, ex_lo, ex_hi, ex_all, getLsbD_lo, getLsbD_hi, Nat.reduceSub, tyOf_tyB, tyB_i8, tyB_f32, scB_hi, scB_lo]
  simp [condOf_code, condOf_code16, fcondOf_code, vcondOf_code, rmOf_code, ovfOf_code, amoOf_code, tyOf_tyB, req, bit1, h]
theorem Laws.RoundTrip.vscac (pf : Bool) (d : Reg) (p : Reg) (a : Reg) (b : Reg) : Laws.RoundTrip.Statement (.vscac pf d p a b) := by
  intro h
  simp only [encode, decode_mkF, BitVec.reduceToNat, decodeF, Nat.reduceDiv, decodeVA, encN, encTl, encSys, mkR, mkM, memPlain, xC, xFn, xTy, xExt, xOff, xMty, xMem, v3, v2, vm, plainX, fpX, vX, v2X]
  try simp (disch := decide) only [BitVec.ofNat_eq_ofNat, ex_lo, ex_hi, ex_all, getLsbD_lo, getLsbD_hi, Nat.reduceSub, tyOf_tyB, tyB_i8, tyB_f32, scB_hi, scB_lo, fn2_hi, fn2_lo, fn3_hi, fn3_lo, fnb_hi, fnb_hi11, fnb_lo, amo_hi, amo_lo, tail20, tail7]
  simp [condOf_code, condOf_code16, fcondOf_code, vcondOf_code, rmOf_code, ovfOf_code, amoOf_code, tyOf_tyB, req, bit1, h]
theorem Laws.RoundTrip.vpack (tn : Ty) (x : V2) : Laws.RoundTrip.Statement (.vpack tn x) := by
  intro h
  simp only [encode, decode_mkF, BitVec.reduceToNat, decodeF, Nat.reduceDiv, decodeVA, encV2, mkR, v2, v2X, xC, xFn, xTy, xExt]
  try simp (disch := decide) only [BitVec.ofNat_eq_ofNat, ex_lo, ex_hi, ex_all, getLsbD_lo, getLsbD_hi, Nat.reduceSub, tyOf_tyB, tyB_i8, tyB_f32, scB_hi, scB_lo]
  simp [condOf_code, condOf_code16, fcondOf_code, vcondOf_code, rmOf_code, ovfOf_code, amoOf_code, tyOf_tyB, req, bit1, h]
theorem Laws.RoundTrip.vunpk (tn : Ty) (x : V2) : Laws.RoundTrip.Statement (.vunpk tn x) := by
  intro h
  simp only [encode, decode_mkF, BitVec.reduceToNat, decodeF, Nat.reduceDiv, decodeVA, encV2, mkR, v2, v2X, xC, xFn, xTy, xExt]
  try simp (disch := decide) only [BitVec.ofNat_eq_ofNat, ex_lo, ex_hi, ex_all, getLsbD_lo, getLsbD_hi, Nat.reduceSub, tyOf_tyB, tyB_i8, tyB_f32, scB_hi, scB_lo]
  simp [condOf_code, condOf_code16, fcondOf_code, vcondOf_code, rmOf_code, ovfOf_code, amoOf_code, tyOf_tyB, req, bit1, h]
theorem Laws.RoundTrip.vrsum (x : V2) : Laws.RoundTrip.Statement (.vrsum x) := by
  intro h
  simp only [encode, decode_mkF, BitVec.reduceToNat, decodeF, Nat.reduceDiv, decodeVB, encV2, mkR, v2, v2X, xC, xFn, xTy, xExt]
  try simp (disch := decide) only [BitVec.ofNat_eq_ofNat, ex_lo, ex_hi, ex_all, getLsbD_lo, getLsbD_hi, Nat.reduceSub, tyOf_tyB, tyB_i8, tyB_f32, scB_hi, scB_lo]
  simp [condOf_code, condOf_code16, fcondOf_code, vcondOf_code, rmOf_code, ovfOf_code, amoOf_code, tyOf_tyB, req, bit1, h]
theorem Laws.RoundTrip.vrmax (x : V2) : Laws.RoundTrip.Statement (.vrmax x) := by
  intro h
  simp only [encode, decode_mkF, BitVec.reduceToNat, decodeF, Nat.reduceDiv, decodeVB, encV2, mkR, v2, v2X, xC, xFn, xTy, xExt]
  try simp (disch := decide) only [BitVec.ofNat_eq_ofNat, ex_lo, ex_hi, ex_all, getLsbD_lo, getLsbD_hi, Nat.reduceSub, tyOf_tyB, tyB_i8, tyB_f32, scB_hi, scB_lo]
  simp [condOf_code, condOf_code16, fcondOf_code, vcondOf_code, rmOf_code, ovfOf_code, amoOf_code, tyOf_tyB, req, bit1, h]
theorem Laws.RoundTrip.vrmin (x : V2) : Laws.RoundTrip.Statement (.vrmin x) := by
  intro h
  simp only [encode, decode_mkF, BitVec.reduceToNat, decodeF, Nat.reduceDiv, decodeVB, encV2, mkR, v2, v2X, xC, xFn, xTy, xExt]
  try simp (disch := decide) only [BitVec.ofNat_eq_ofNat, ex_lo, ex_hi, ex_all, getLsbD_lo, getLsbD_hi, Nat.reduceSub, tyOf_tyB, tyB_i8, tyB_f32, scB_hi, scB_lo]
  simp [condOf_code, condOf_code16, fcondOf_code, vcondOf_code, rmOf_code, ovfOf_code, amoOf_code, tyOf_tyB, req, bit1, h]
theorem Laws.RoundTrip.vsldu (i : Bool) (imm : BitVec 14) (b : Reg) (x : V2) : Laws.RoundTrip.Statement (.vsldu i imm b x) := by
  intro h
  simp only [encode, decode_mkF, BitVec.reduceToNat, decodeF, Nat.reduceDiv, decodeVB, encV2, mkR, v2, v2X, xC, xFn, xTy, xExt]
  try simp (disch := decide) only [BitVec.ofNat_eq_ofNat, ex_lo, ex_hi, ex_all, getLsbD_lo, getLsbD_hi, Nat.reduceSub, tyOf_tyB, tyB_i8, tyB_f32, scB_hi, scB_lo]
  simp [condOf_code, condOf_code16, fcondOf_code, vcondOf_code, rmOf_code, ovfOf_code, amoOf_code, tyOf_tyB, req, bit1, h]
theorem Laws.RoundTrip.vsldd (i : Bool) (imm : BitVec 14) (b : Reg) (x : V2) : Laws.RoundTrip.Statement (.vsldd i imm b x) := by
  intro h
  simp only [encode, decode_mkF, BitVec.reduceToNat, decodeF, Nat.reduceDiv, decodeVB, encV2, mkR, v2, v2X, xC, xFn, xTy, xExt]
  try simp (disch := decide) only [BitVec.ofNat_eq_ofNat, ex_lo, ex_hi, ex_all, getLsbD_lo, getLsbD_hi, Nat.reduceSub, tyOf_tyB, tyB_i8, tyB_f32, scB_hi, scB_lo]
  simp [condOf_code, condOf_code16, fcondOf_code, vcondOf_code, rmOf_code, ovfOf_code, amoOf_code, tyOf_tyB, req, bit1, h]
theorem Laws.RoundTrip.vprm (b : Reg) (x : V2) : Laws.RoundTrip.Statement (.vprm b x) := by
  intro h
  simp only [encode, decode_mkF, BitVec.reduceToNat, decodeF, Nat.reduceDiv, decodeVB, encV2, mkR, v2, v2X, xC, xFn, xTy, xExt]
  try simp (disch := decide) only [BitVec.ofNat_eq_ofNat, ex_lo, ex_hi, ex_all, getLsbD_lo, getLsbD_hi, Nat.reduceSub, tyOf_tyB, tyB_i8, tyB_f32, scB_hi, scB_lo]
  simp [condOf_code, condOf_code16, fcondOf_code, vcondOf_code, rmOf_code, ovfOf_code, amoOf_code, tyOf_tyB, req, bit1, h]
theorem Laws.RoundTrip.viota (x : V2) : Laws.RoundTrip.Statement (.viota x) := by
  intro h
  simp only [encode, decode_mkF, BitVec.reduceToNat, decodeF, Nat.reduceDiv, decodeVB, encV2, mkR, v2, v2X, xC, xFn, xTy, xExt]
  try simp (disch := decide) only [BitVec.ofNat_eq_ofNat, ex_lo, ex_hi, ex_all, getLsbD_lo, getLsbD_hi, Nat.reduceSub, tyOf_tyB, tyB_i8, tyB_f32, scB_hi, scB_lo]
  simp [condOf_code, condOf_code16, fcondOf_code, vcondOf_code, rmOf_code, ovfOf_code, amoOf_code, tyOf_tyB, req, bit1, h]
theorem Laws.RoundTrip.mpop (d : Reg) (a : Reg) (q : BitVec 4) : Laws.RoundTrip.Statement (.mpop d a q) := by
  intro h
  simp only [encode, decode_mkF, BitVec.reduceToNat, decodeF, Nat.reduceDiv, decodeVB, encN, encTl, encSys, mkR, mkM, memPlain, xC, xFn, xTy, xExt, xOff, xMty, xMem, v3, v2, vm, plainX, fpX, vX, v2X]
  try simp (disch := decide) only [BitVec.ofNat_eq_ofNat, ex_lo, ex_hi, ex_all, getLsbD_lo, getLsbD_hi, Nat.reduceSub, tyOf_tyB, tyB_i8, tyB_f32, scB_hi, scB_lo]
  simp [condOf_code, condOf_code16, fcondOf_code, vcondOf_code, rmOf_code, ovfOf_code, amoOf_code, tyOf_tyB, req, bit1, h]
theorem Laws.RoundTrip.mfst (d : Reg) (a : Reg) (q : BitVec 4) : Laws.RoundTrip.Statement (.mfst d a q) := by
  intro h
  simp only [encode, decode_mkF, BitVec.reduceToNat, decodeF, Nat.reduceDiv, decodeVB, encN, encTl, encSys, mkR, mkM, memPlain, xC, xFn, xTy, xExt, xOff, xMty, xMem, v3, v2, vm, plainX, fpX, vX, v2X]
  try simp (disch := decide) only [BitVec.ofNat_eq_ofNat, ex_lo, ex_hi, ex_all, getLsbD_lo, getLsbD_hi, Nat.reduceSub, tyOf_tyB, tyB_i8, tyB_f32, scB_hi, scB_lo]
  simp [condOf_code, condOf_code16, fcondOf_code, vcondOf_code, rmOf_code, ovfOf_code, amoOf_code, tyOf_tyB, req, bit1, h]
theorem Laws.RoundTrip.mlog (op : BitVec 3) (d : Reg) (a : Reg) (b : Reg) : Laws.RoundTrip.Statement (.mlog op d a b) := by
  intro h
  simp only [encode, decode_mkF, BitVec.reduceToNat, decodeF, Nat.reduceDiv, decodeVB, encN, encTl, encSys, mkR, mkM, memPlain, xC, xFn, xTy, xExt, xOff, xMty, xMem, v3, v2, vm, plainX, fpX, vX, v2X]
  try simp (disch := decide) only [BitVec.ofNat_eq_ofNat, ex_lo, ex_hi, ex_all, getLsbD_lo, getLsbD_hi, Nat.reduceSub, tyOf_tyB, tyB_i8, tyB_f32, scB_hi, scB_lo, fn2_hi, fn2_lo, fn3_hi, fn3_lo, fnb_hi, fnb_hi11, fnb_lo, amo_hi, amo_lo, tail20, tail7]
  simp [condOf_code, condOf_code16, fcondOf_code, vcondOf_code, rmOf_code, ovfOf_code, amoOf_code, tyOf_tyB, req, bit1, h]
theorem Laws.RoundTrip.vargmx (new : Bool) (d : Reg) (a : Reg) (b : Reg) (q : BitVec 4) : Laws.RoundTrip.Statement (.vargmx new d a b q) := by
  intro h
  simp only [encode, decode_mkF, BitVec.reduceToNat, decodeF, Nat.reduceDiv, decodeVB, encN, encTl, encSys, mkR, mkM, memPlain, xC, xFn, xTy, xExt, xOff, xMty, xMem, v3, v2, vm, plainX, fpX, vX, v2X]
  try simp (disch := decide) only [BitVec.ofNat_eq_ofNat, ex_lo, ex_hi, ex_all, getLsbD_lo, getLsbD_hi, Nat.reduceSub, tyOf_tyB, tyB_i8, tyB_f32, scB_hi, scB_lo]
  simp [condOf_code, condOf_code16, fcondOf_code, vcondOf_code, rmOf_code, ovfOf_code, amoOf_code, tyOf_tyB, req, bit1, h]
theorem Laws.RoundTrip.vtopk (new : Bool) (k : BitVec 7) (d : Reg) (a : Reg) (b : Reg) (q : BitVec 4) : Laws.RoundTrip.Statement (.vtopk new k d a b q) := by
  intro h
  simp only [encode, decode_mkF, BitVec.reduceToNat, decodeF, Nat.reduceDiv, decodeVB, encN, encTl, encSys, mkR, mkM, memPlain, xC, xFn, xTy, xExt, xOff, xMty, xMem, v3, v2, vm, plainX, fpX, vX, v2X]
  try simp (disch := decide) only [BitVec.ofNat_eq_ofNat, ex_lo, ex_hi, ex_all, getLsbD_lo, getLsbD_hi, Nat.reduceSub, tyOf_tyB, tyB_i8, tyB_f32, scB_hi, scB_lo]
  simp [condOf_code, condOf_code16, fcondOf_code, vcondOf_code, rmOf_code, ovfOf_code, amoOf_code, tyOf_tyB, req, bit1, h]
theorem Laws.RoundTrip.vsort (desc : Bool) (idx : Bool) (c : Reg) (x : V2) : Laws.RoundTrip.Statement (.vsort desc idx c x) := by
  intro h
  cases desc <;> cases idx
  all_goals simp only [encode, decode_mkF, BitVec.reduceToNat, decodeF, Nat.reduceDiv, decodeVB, encV2, mkR, v2, v2X, xC, xFn, xTy, xExt]
  all_goals try simp (disch := decide) only [BitVec.ofNat_eq_ofNat, ex_lo, ex_hi, ex_all, getLsbD_lo, getLsbD_hi, Nat.reduceSub, tyOf_tyB, tyB_i8, tyB_f32, scB_hi, scB_lo, fn2_hi, fn2_lo, fn3_hi, fn3_lo, fnb_hi, fnb_hi11, fnb_lo, amo_hi, amo_lo, tail20, tail7]
  all_goals simp [condOf_code, condOf_code16, fcondOf_code, vcondOf_code, rmOf_code, ovfOf_code, amoOf_code, tyOf_tyB, req, bit1, h]
theorem Laws.RoundTrip.vsrch (le : Bool) (b : Reg) (x : V2) : Laws.RoundTrip.Statement (.vsrch le b x) := by
  intro h
  simp only [encode, decode_mkF, BitVec.reduceToNat, decodeF, Nat.reduceDiv, decodeVB, encV2, mkR, v2, v2X, xC, xFn, xTy, xExt]
  try simp (disch := decide) only [BitVec.ofNat_eq_ofNat, ex_lo, ex_hi, ex_all, getLsbD_lo, getLsbD_hi, Nat.reduceSub, tyOf_tyB, tyB_i8, tyB_f32, scB_hi, scB_lo, fn2_hi, fn2_lo, fn3_hi, fn3_lo, fnb_hi, fnb_hi11, fnb_lo, amo_hi, amo_lo, tail20, tail7]
  simp [condOf_code, condOf_code16, fcondOf_code, vcondOf_code, rmOf_code, ovfOf_code, amoOf_code, tyOf_tyB, req, bit1, h]
theorem Laws.RoundTrip.vld (x : V2) (off : BitVec 20) (m : MemQ) : Laws.RoundTrip.Statement (.vld x off m) := by
  intro h
  simp only [encode, decode_mkF, BitVec.reduceToNat, decodeF, Nat.reduceDiv, decodeVC, encVM, mkM, vm, memPlain, xOff, xMty, xMem]
  try simp (disch := decide) only [BitVec.ofNat_eq_ofNat, ex_lo, ex_hi, ex_all, getLsbD_lo, getLsbD_hi, Nat.reduceSub, tyOf_tyB, tyB_i8, tyB_f32, scB_hi, scB_lo]
  simp [condOf_code, condOf_code16, fcondOf_code, vcondOf_code, rmOf_code, ovfOf_code, amoOf_code, tyOf_tyB, req, bit1, h]
theorem Laws.RoundTrip.vldC (x : V2) (off : BitVec 20) : Laws.RoundTrip.Statement (.vldC x off) := by
  intro h
  simp only [encode, decode_mkF, BitVec.reduceToNat, decodeF, Nat.reduceDiv, decodeVC, encVM, mkM, vm, memPlain, xOff, xMty, xMem]
  try simp (disch := decide) only [BitVec.ofNat_eq_ofNat, ex_lo, ex_hi, ex_all, getLsbD_lo, getLsbD_hi, Nat.reduceSub, tyOf_tyB, tyB_i8, tyB_f32, scB_hi, scB_lo, fn2_hi, fn2_lo, fn3_hi, fn3_lo, fnb_hi, fnb_hi11, fnb_lo, amo_hi, amo_lo, tail20, tail7]
  simp [condOf_code, condOf_code16, fcondOf_code, vcondOf_code, rmOf_code, ovfOf_code, amoOf_code, tyOf_tyB, req, bit1, h]
theorem Laws.RoundTrip.vlds (b : Reg) (x : V2) (off : BitVec 20) (m : MemQ) : Laws.RoundTrip.Statement (.vlds b x off m) := by
  intro h
  simp only [encode, decode_mkF, BitVec.reduceToNat, decodeF, Nat.reduceDiv, decodeVC, encVM, mkM, vm, memPlain, xOff, xMty, xMem]
  try simp (disch := decide) only [BitVec.ofNat_eq_ofNat, ex_lo, ex_hi, ex_all, getLsbD_lo, getLsbD_hi, Nat.reduceSub, tyOf_tyB, tyB_i8, tyB_f32, scB_hi, scB_lo]
  simp [condOf_code, condOf_code16, fcondOf_code, vcondOf_code, rmOf_code, ovfOf_code, amoOf_code, tyOf_tyB, req, bit1, h]
theorem Laws.RoundTrip.vldx (b : Reg) (x : V2) (m : MemQ) : Laws.RoundTrip.Statement (.vldx b x m) := by
  intro h
  simp only [encode, decode_mkF, BitVec.reduceToNat, decodeF, Nat.reduceDiv, decodeVC, encVM, mkM, vm, memPlain, xOff, xMty, xMem]
  try simp (disch := decide) only [BitVec.ofNat_eq_ofNat, ex_lo, ex_hi, ex_all, getLsbD_lo, getLsbD_hi, Nat.reduceSub, tyOf_tyB, tyB_i8, tyB_f32, scB_hi, scB_lo]
  simp [condOf_code, condOf_code16, fcondOf_code, vcondOf_code, rmOf_code, ovfOf_code, amoOf_code, tyOf_tyB, req, bit1, h]
theorem Laws.RoundTrip.vst (x : V2) (off : BitVec 20) (m : MemQ) : Laws.RoundTrip.Statement (.vst x off m) := by
  intro h
  simp only [encode, decode_mkF, BitVec.reduceToNat, decodeF, Nat.reduceDiv, decodeVC, encVM, mkM, vm, memPlain, xOff, xMty, xMem]
  try simp (disch := decide) only [BitVec.ofNat_eq_ofNat, ex_lo, ex_hi, ex_all, getLsbD_lo, getLsbD_hi, Nat.reduceSub, tyOf_tyB, tyB_i8, tyB_f32, scB_hi, scB_lo]
  simp [condOf_code, condOf_code16, fcondOf_code, vcondOf_code, rmOf_code, ovfOf_code, amoOf_code, tyOf_tyB, req, bit1, h]
theorem Laws.RoundTrip.vsts (b : Reg) (x : V2) (off : BitVec 20) (m : MemQ) : Laws.RoundTrip.Statement (.vsts b x off m) := by
  intro h
  simp only [encode, decode_mkF, BitVec.reduceToNat, decodeF, Nat.reduceDiv, decodeVC, encVM, mkM, vm, memPlain, xOff, xMty, xMem]
  try simp (disch := decide) only [BitVec.ofNat_eq_ofNat, ex_lo, ex_hi, ex_all, getLsbD_lo, getLsbD_hi, Nat.reduceSub, tyOf_tyB, tyB_i8, tyB_f32, scB_hi, scB_lo]
  simp [condOf_code, condOf_code16, fcondOf_code, vcondOf_code, rmOf_code, ovfOf_code, amoOf_code, tyOf_tyB, req, bit1, h]
theorem Laws.RoundTrip.vstx (b : Reg) (x : V2) (m : MemQ) : Laws.RoundTrip.Statement (.vstx b x m) := by
  intro h
  simp only [encode, decode_mkF, BitVec.reduceToNat, decodeF, Nat.reduceDiv, decodeVC, encVM, mkM, vm, memPlain, xOff, xMty, xMem]
  try simp (disch := decide) only [BitVec.ofNat_eq_ofNat, ex_lo, ex_hi, ex_all, getLsbD_lo, getLsbD_hi, Nat.reduceSub, tyOf_tyB, tyB_i8, tyB_f32, scB_hi, scB_lo]
  simp [condOf_code, condOf_code16, fcondOf_code, vcondOf_code, rmOf_code, ovfOf_code, amoOf_code, tyOf_tyB, req, bit1, h]
theorem Laws.RoundTrip.vlsh (b : Reg) (x : V2) (m : MemQ) : Laws.RoundTrip.Statement (.vlsh b x m) := by
  intro h
  simp only [encode, decode_mkF, BitVec.reduceToNat, decodeF, Nat.reduceDiv, decodeVC, encVM, mkM, vm, memPlain, xOff, xMty, xMem]
  try simp (disch := decide) only [BitVec.ofNat_eq_ofNat, ex_lo, ex_hi, ex_all, getLsbD_lo, getLsbD_hi, Nat.reduceSub, tyOf_tyB, tyB_i8, tyB_f32, scB_hi, scB_lo]
  simp [condOf_code, condOf_code16, fcondOf_code, vcondOf_code, rmOf_code, ovfOf_code, amoOf_code, tyOf_tyB, req, bit1, h]
theorem Laws.RoundTrip.vssh (b : Reg) (x : V2) (m : MemQ) : Laws.RoundTrip.Statement (.vssh b x m) := by
  intro h
  simp only [encode, decode_mkF, BitVec.reduceToNat, decodeF, Nat.reduceDiv, decodeVC, encVM, mkM, vm, memPlain, xOff, xMty, xMem]
  try simp (disch := decide) only [BitVec.ofNat_eq_ofNat, ex_lo, ex_hi, ex_all, getLsbD_lo, getLsbD_hi, Nat.reduceSub, tyOf_tyB, tyB_i8, tyB_f32, scB_hi, scB_lo]
  simp [condOf_code, condOf_code16, fcondOf_code, vcondOf_code, rmOf_code, ovfOf_code, amoOf_code, tyOf_tyB, req, bit1, h]
theorem Laws.RoundTrip.vamo (op : AmoOp) (b : Reg) (x : V2) (m : MemQ) : Laws.RoundTrip.Statement (.vamo op b x m) := by
  intro h
  simp only [encode, decode_mkF, BitVec.reduceToNat, decodeF, Nat.reduceDiv, decodeVC, encVM, mkM, vm, memPlain, xOff, xMty, xMem]
  try simp (disch := decide) only [BitVec.ofNat_eq_ofNat, ex_lo, ex_hi, ex_all, getLsbD_lo, getLsbD_hi, Nat.reduceSub, tyOf_tyB, tyB_i8, tyB_f32, scB_hi, scB_lo, fn2_hi, fn2_lo, fn3_hi, fn3_lo, fnb_hi, fnb_hi11, fnb_lo, amo_hi, amo_lo, tail20, tail7]
  simp [condOf_code, condOf_code16, fcondOf_code, vcondOf_code, rmOf_code, ovfOf_code, amoOf_code, tyOf_tyB, req, bit1, h]
theorem Laws.RoundTrip.vldm (d : Reg) (a : Reg) (off : BitVec 20) : Laws.RoundTrip.Statement (.vldm d a off) := by
  intro h
  simp only [encode, decode_mkF, BitVec.reduceToNat, decodeF, Nat.reduceDiv, decodeVC, encN, encTl, encSys, mkR, mkM, memPlain, xC, xFn, xTy, xExt, xOff, xMty, xMem, v3, v2, vm, plainX, fpX, vX, v2X]
  try simp (disch := decide) only [BitVec.ofNat_eq_ofNat, ex_lo, ex_hi, ex_all, getLsbD_lo, getLsbD_hi, Nat.reduceSub, tyOf_tyB, tyB_i8, tyB_f32, scB_hi, scB_lo]
  simp [condOf_code, condOf_code16, fcondOf_code, vcondOf_code, rmOf_code, ovfOf_code, amoOf_code, tyOf_tyB, req, bit1, h]
theorem Laws.RoundTrip.vstm (d : Reg) (a : Reg) (off : BitVec 20) : Laws.RoundTrip.Statement (.vstm d a off) := by
  intro h
  simp only [encode, decode_mkF, BitVec.reduceToNat, decodeF, Nat.reduceDiv, decodeVC, encN, encTl, encSys, mkR, mkM, memPlain, xC, xFn, xTy, xExt, xOff, xMty, xMem, v3, v2, vm, plainX, fpX, vX, v2X]
  try simp (disch := decide) only [BitVec.ofNat_eq_ofNat, ex_lo, ex_hi, ex_all, getLsbD_lo, getLsbD_hi, Nat.reduceSub, tyOf_tyB, tyB_i8, tyB_f32, scB_hi, scB_lo]
  simp [condOf_code, condOf_code16, fcondOf_code, vcondOf_code, rmOf_code, ovfOf_code, amoOf_code, tyOf_tyB, req, bit1, h]
theorem Laws.RoundTrip.vcprs (x : V2) : Laws.RoundTrip.Statement (.vcprs x) := by
  intro h
  simp only [encode, decode_mkF, BitVec.reduceToNat, decodeF, Nat.reduceDiv, decodeVC, encV2, mkR, v2, v2X, xC, xFn, xTy, xExt]
  try simp (disch := decide) only [BitVec.ofNat_eq_ofNat, ex_lo, ex_hi, ex_all, getLsbD_lo, getLsbD_hi, Nat.reduceSub, tyOf_tyB, tyB_i8, tyB_f32, scB_hi, scB_lo]
  simp [condOf_code, condOf_code16, fcondOf_code, vcondOf_code, rmOf_code, ovfOf_code, amoOf_code, tyOf_tyB, req, bit1, h]
theorem Laws.RoundTrip.vexpd (x : V2) : Laws.RoundTrip.Statement (.vexpd x) := by
  intro h
  simp only [encode, decode_mkF, BitVec.reduceToNat, decodeF, Nat.reduceDiv, decodeVC, encV2, mkR, v2, v2X, xC, xFn, xTy, xExt]
  try simp (disch := decide) only [BitVec.ofNat_eq_ofNat, ex_lo, ex_hi, ex_all, getLsbD_lo, getLsbD_hi, Nat.reduceSub, tyOf_tyB, tyB_i8, tyB_f32, scB_hi, scB_lo]
  simp [condOf_code, condOf_code16, fcondOf_code, vcondOf_code, rmOf_code, ovfOf_code, amoOf_code, tyOf_tyB, req, bit1, h]
theorem Laws.RoundTrip.vmvh (i : Bool) (d : Reg) (a : Reg) (b : Reg) (ty : Ty) : Laws.RoundTrip.Statement (.vmvh i d a b ty) := by
  intro h
  simp only [encode, decode_mkF, BitVec.reduceToNat, decodeF, Nat.reduceDiv, decodeVC, encN, encTl, encSys, mkR, mkM, memPlain, xC, xFn, xTy, xExt, xOff, xMty, xMem, v3, v2, vm, plainX, fpX, vX, v2X]
  try simp (disch := decide) only [BitVec.ofNat_eq_ofNat, ex_lo, ex_hi, ex_all, getLsbD_lo, getLsbD_hi, Nat.reduceSub, tyOf_tyB, tyB_i8, tyB_f32, scB_hi, scB_lo]
  simp [condOf_code, condOf_code16, fcondOf_code, vcondOf_code, rmOf_code, ovfOf_code, amoOf_code, tyOf_tyB, req, bit1, h]
theorem Laws.RoundTrip.loop (lp : BitVec 1) (i : Bool) (a : Reg) (imm : BitVec 16) (off : BitVec 9) : Laws.RoundTrip.Statement (.loop lp i a imm off) := by
  intro h
  simp only [encode, decode_mkF, BitVec.reduceToNat, decodeF, Nat.reduceDiv, decodeVD, encN, encTl, encSys, mkR, mkM, memPlain, xC, xFn, xTy, xExt, xOff, xMty, xMem, v3, v2, vm, plainX, fpX, vX, v2X]
  try simp (disch := decide) only [BitVec.ofNat_eq_ofNat, ex_lo, ex_hi, ex_all, getLsbD_lo, getLsbD_hi, Nat.reduceSub, tyOf_tyB, tyB_i8, tyB_f32, scB_hi, scB_lo]
  simp [condOf_code, condOf_code16, fcondOf_code, vcondOf_code, rmOf_code, ovfOf_code, amoOf_code, tyOf_tyB, req, bit1, h]
theorem Laws.RoundTrip.sloop (lp : BitVec 1) (a : Reg) (b : Reg) (s : BitVec 3) (w : BitVec 6) (off : BitVec 9) : Laws.RoundTrip.Statement (.sloop lp a b s w off) := by
  intro h
  simp only [encode, decode_mkF, BitVec.reduceToNat, decodeF, Nat.reduceDiv, decodeVD, encN, encTl, encSys, mkR, mkM, memPlain, xC, xFn, xTy, xExt, xOff, xMty, xMem, v3, v2, vm, plainX, fpX, vX, v2X]
  try simp (disch := decide) only [BitVec.ofNat_eq_ofNat, ex_lo, ex_hi, ex_all, getLsbD_lo, getLsbD_hi, Nat.reduceSub, tyOf_tyB, tyB_i8, tyB_f32, scB_hi, scB_lo]
  simp [condOf_code, condOf_code16, fcondOf_code, vcondOf_code, rmOf_code, ovfOf_code, amoOf_code, tyOf_tyB, req, bit1, h]
theorem Laws.RoundTrip.lpbrk (lp : BitVec 1) (u : Bool) (a : Reg) : Laws.RoundTrip.Statement (.lpbrk lp u a) := by
  intro h
  simp only [encode, decode_mkF, BitVec.reduceToNat, decodeF, Nat.reduceDiv, decodeVD, encN, encTl, encSys, mkR, mkM, memPlain, xC, xFn, xTy, xExt, xOff, xMty, xMem, v3, v2, vm, plainX, fpX, vX, v2X]
  try simp (disch := decide) only [BitVec.ofNat_eq_ofNat, ex_lo, ex_hi, ex_all, getLsbD_lo, getLsbD_hi, Nat.reduceSub, tyOf_tyB, tyB_i8, tyB_f32, scB_hi, scB_lo]
  simp [condOf_code, condOf_code16, fcondOf_code, vcondOf_code, rmOf_code, ovfOf_code, amoOf_code, tyOf_tyB, req, bit1, h]
theorem Laws.RoundTrip.vrpt (a : Reg) : Laws.RoundTrip.Statement (.vrpt a) := by
  intro h
  simp only [encode, decode_mkF, BitVec.reduceToNat, decodeF, Nat.reduceDiv, decodeVD, encN, encTl, encSys, mkR, mkM, memPlain, xC, xFn, xTy, xExt, xOff, xMty, xMem, v3, v2, vm, plainX, fpX, vX, v2X]
  try simp (disch := decide) only [BitVec.ofNat_eq_ofNat, ex_lo, ex_hi, ex_all, getLsbD_lo, getLsbD_hi, Nat.reduceSub, tyOf_tyB, tyB_i8, tyB_f32, scB_hi, scB_lo]
  simp [condOf_code, condOf_code16, fcondOf_code, vcondOf_code, rmOf_code, ovfOf_code, amoOf_code, tyOf_tyB, req, bit1, h]
theorem Laws.RoundTrip.vend : Laws.RoundTrip.Statement (.vend) := by
  intro h
  simp only [encode, decode_mkF, BitVec.reduceToNat, decodeF, Nat.reduceDiv, decodeVD, encN, encTl, encSys, mkR, mkM, memPlain, xC, xFn, xTy, xExt, xOff, xMty, xMem, v3, v2, vm, plainX, fpX, vX, v2X]
  try simp (disch := decide) only [BitVec.ofNat_eq_ofNat, ex_lo, ex_hi, ex_all, getLsbD_lo, getLsbD_hi, Nat.reduceSub, tyOf_tyB, tyB_i8, tyB_f32, scB_hi, scB_lo]
  simp [condOf_code, condOf_code16, fcondOf_code, vcondOf_code, rmOf_code, ovfOf_code, amoOf_code, tyOf_tyB, req, bit1, h]
theorem Laws.RoundTrip.vbars (m : BitVec 8) : Laws.RoundTrip.Statement (.vbars m) := by
  intro h
  simp only [encode, decode_mkF, BitVec.reduceToNat, decodeF, Nat.reduceDiv, decodeVD, encN, encTl, encSys, mkR, mkM, memPlain, xC, xFn, xTy, xExt, xOff, xMty, xMem, v3, v2, vm, plainX, fpX, vX, v2X]
  try simp (disch := decide) only [BitVec.ofNat_eq_ofNat, ex_lo, ex_hi, ex_all, getLsbD_lo, getLsbD_hi, Nat.reduceSub, tyOf_tyB, tyB_i8, tyB_f32, scB_hi, scB_lo]
  simp [condOf_code, condOf_code16, fcondOf_code, vcondOf_code, rmOf_code, ovfOf_code, amoOf_code, tyOf_tyB, req, bit1, h]
theorem Laws.RoundTrip.mcfg (a : Reg) (b : Reg) : Laws.RoundTrip.Statement (.mcfg a b) := by
  intro h
  simp only [encode, decode_mkF, BitVec.reduceToNat, decodeF, Nat.reduceDiv, decodeEng, encN, encTl, encSys, mkR, mkM, memPlain, xC, xFn, xTy, xExt, xOff, xMty, xMem, v3, v2, vm, plainX, fpX, vX, v2X]
  try simp (disch := decide) only [BitVec.ofNat_eq_ofNat, ex_lo, ex_hi, ex_all, getLsbD_lo, getLsbD_hi, Nat.reduceSub, tyOf_tyB, tyB_i8, tyB_f32, scB_hi, scB_lo]
  simp [condOf_code, condOf_code16, fcondOf_code, vcondOf_code, rmOf_code, ovfOf_code, amoOf_code, tyOf_tyB, req, bit1, h]
theorem Laws.RoundTrip.mma (x : MmaArgs) : Laws.RoundTrip.Statement (.mma x) := by
  intro h
  simp only [encode, decode_mkF, BitVec.reduceToNat, decodeF, Nat.reduceDiv, decodeEng, encN, encTl, encSys, mkR, mkM, memPlain, xC, xFn, xTy, xExt, xOff, xMty, xMem, v3, v2, vm, plainX, fpX, vX, v2X]
  try simp (disch := decide) only [BitVec.ofNat_eq_ofNat, ex_lo, ex_hi, ex_all, getLsbD_lo, getLsbD_hi, Nat.reduceSub, tyOf_tyB, tyB_i8, tyB_f32, scB_hi, scB_lo]
  simp [condOf_code, condOf_code16, fcondOf_code, vcondOf_code, rmOf_code, ovfOf_code, amoOf_code, tyOf_tyB, req, bit1, h]
theorem Laws.RoundTrip.mdrn (x : MdrnArgs) : Laws.RoundTrip.Statement (.mdrn x) := by
  intro h
  simp only [encode, decode_mkF, BitVec.reduceToNat, decodeF, Nat.reduceDiv, decodeEng, encN, encTl, encSys, mkR, mkM, memPlain, xC, xFn, xTy, xExt, xOff, xMty, xMem, v3, v2, vm, plainX, fpX, vX, v2X]
  try simp (disch := decide) only [BitVec.ofNat_eq_ofNat, ex_lo, ex_hi, ex_all, getLsbD_lo, getLsbD_hi, Nat.reduceSub, tyOf_tyB, tyB_i8, tyB_f32, scB_hi, scB_lo]
  simp [condOf_code, condOf_code16, fcondOf_code, vcondOf_code, rmOf_code, ovfOf_code, amoOf_code, tyOf_tyB, req, bit1, h]
theorem Laws.RoundTrip.mzro (d : Reg) (sn : BitVec 3) (sm : BitVec 3) (t : Bool) (tl : BitVec 4) : Laws.RoundTrip.Statement (.mzro d sn sm t tl) := by
  intro h
  simp only [encode, decode_mkF, BitVec.reduceToNat, decodeF, Nat.reduceDiv, decodeEng, encN, encTl, encSys, mkR, mkM, memPlain, xC, xFn, xTy, xExt, xOff, xMty, xMem, v3, v2, vm, plainX, fpX, vX, v2X]
  try simp (disch := decide) only [BitVec.ofNat_eq_ofNat, ex_lo, ex_hi, ex_all, getLsbD_lo, getLsbD_hi, Nat.reduceSub, tyOf_tyB, tyB_i8, tyB_f32, scB_hi, scB_lo]
  simp [condOf_code, condOf_code16, fcondOf_code, vcondOf_code, rmOf_code, ovfOf_code, amoOf_code, tyOf_tyB, req, bit1, h]
theorem Laws.RoundTrip.mrpg : Laws.RoundTrip.Statement (.mrpg) := by
  intro h
  simp only [encode, decode_mkF, BitVec.reduceToNat, decodeF, Nat.reduceDiv, decodeEng, encN, encTl, encSys, mkR, mkM, memPlain, xC, xFn, xTy, xExt, xOff, xMty, xMem, v3, v2, vm, plainX, fpX, vX, v2X]
  try simp (disch := decide) only [BitVec.ofNat_eq_ofNat, ex_lo, ex_hi, ex_all, getLsbD_lo, getLsbD_hi, Nat.reduceSub, tyOf_tyB, tyB_i8, tyB_f32, scB_hi, scB_lo]
  simp [condOf_code, condOf_code16, fcondOf_code, vcondOf_code, rmOf_code, ovfOf_code, amoOf_code, tyOf_tyB, req, bit1, h]
theorem Laws.RoundTrip.wcpy (a : Reg) (tl : BitVec 4) : Laws.RoundTrip.Statement (.wcpy a tl) := by
  intro h
  simp only [encode, decode_mkF, BitVec.reduceToNat, decodeF, Nat.reduceDiv, decodeEng, encN, encTl, encSys, mkR, mkM, memPlain, xC, xFn, xTy, xExt, xOff, xMty, xMem, v3, v2, vm, plainX, fpX, vX, v2X]
  try simp (disch := decide) only [BitVec.ofNat_eq_ofNat, ex_lo, ex_hi, ex_all, getLsbD_lo, getLsbD_hi, Nat.reduceSub, tyOf_tyB, tyB_i8, tyB_f32, scB_hi, scB_lo]
  simp [condOf_code, condOf_code16, fcondOf_code, vcondOf_code, rmOf_code, ovfOf_code, amoOf_code, tyOf_tyB, req, bit1, h]
theorem Laws.RoundTrip.wgth (a : Reg) (tl : BitVec 4) : Laws.RoundTrip.Statement (.wgth a tl) := by
  intro h
  simp only [encode, decode_mkF, BitVec.reduceToNat, decodeF, Nat.reduceDiv, decodeEng, encN, encTl, encSys, mkR, mkM, memPlain, xC, xFn, xTy, xExt, xOff, xMty, xMem, v3, v2, vm, plainX, fpX, vX, v2X]
  try simp (disch := decide) only [BitVec.ofNat_eq_ofNat, ex_lo, ex_hi, ex_all, getLsbD_lo, getLsbD_hi, Nat.reduceSub, tyOf_tyB, tyB_i8, tyB_f32, scB_hi, scB_lo]
  simp [condOf_code, condOf_code16, fcondOf_code, vcondOf_code, rmOf_code, ovfOf_code, amoOf_code, tyOf_tyB, req, bit1, h]
theorem Laws.RoundTrip.wsct (a : Reg) (tl : BitVec 4) : Laws.RoundTrip.Statement (.wsct a tl) := by
  intro h
  simp only [encode, decode_mkF, BitVec.reduceToNat, decodeF, Nat.reduceDiv, decodeEng, encN, encTl, encSys, mkR, mkM, memPlain, xC, xFn, xTy, xExt, xOff, xMty, xMem, v3, v2, vm, plainX, fpX, vX, v2X]
  try simp (disch := decide) only [BitVec.ofNat_eq_ofNat, ex_lo, ex_hi, ex_all, getLsbD_lo, getLsbD_hi, Nat.reduceSub, tyOf_tyB, tyB_i8, tyB_f32, scB_hi, scB_lo]
  simp [condOf_code, condOf_code16, fcondOf_code, vcondOf_code, rmOf_code, ovfOf_code, amoOf_code, tyOf_tyB, req, bit1, h]
theorem Laws.RoundTrip.wfil (a : Reg) (tl : BitVec 4) : Laws.RoundTrip.Statement (.wfil a tl) := by
  intro h
  simp only [encode, decode_mkF, BitVec.reduceToNat, decodeF, Nat.reduceDiv, decodeEng, encN, encTl, encSys, mkR, mkM, memPlain, xC, xFn, xTy, xExt, xOff, xMty, xMem, v3, v2, vm, plainX, fpX, vX, v2X]
  try simp (disch := decide) only [BitVec.ofNat_eq_ofNat, ex_lo, ex_hi, ex_all, getLsbD_lo, getLsbD_hi, Nat.reduceSub, tyOf_tyB, tyB_i8, tyB_f32, scB_hi, scB_lo]
  simp [condOf_code, condOf_code16, fcondOf_code, vcondOf_code, rmOf_code, ovfOf_code, amoOf_code, tyOf_tyB, req, bit1, h]
theorem Laws.RoundTrip.wxfm (a : Reg) (tl : BitVec 4) : Laws.RoundTrip.Statement (.wxfm a tl) := by
  intro h
  simp only [encode, decode_mkF, BitVec.reduceToNat, decodeF, Nat.reduceDiv, decodeEng, encN, encTl, encSys, mkR, mkM, memPlain, xC, xFn, xTy, xExt, xOff, xMty, xMem, v3, v2, vm, plainX, fpX, vX, v2X]
  try simp (disch := decide) only [BitVec.ofNat_eq_ofNat, ex_lo, ex_hi, ex_all, getLsbD_lo, getLsbD_hi, Nat.reduceSub, tyOf_tyB, tyB_i8, tyB_f32, scB_hi, scB_lo]
  simp [condOf_code, condOf_code16, fcondOf_code, vcondOf_code, rmOf_code, ovfOf_code, amoOf_code, tyOf_tyB, req, bit1, h]
theorem Laws.RoundTrip.wapr (a : Reg) : Laws.RoundTrip.Statement (.wapr a) := by
  intro h
  simp only [encode, decode_mkF, BitVec.reduceToNat, decodeF, Nat.reduceDiv, decodeEng, encN, encTl, encSys, mkR, mkM, memPlain, xC, xFn, xTy, xExt, xOff, xMty, xMem, v3, v2, vm, plainX, fpX, vX, v2X]
  try simp (disch := decide) only [BitVec.ofNat_eq_ofNat, ex_lo, ex_hi, ex_all, getLsbD_lo, getLsbD_hi, Nat.reduceSub, tyOf_tyB, tyB_i8, tyB_f32, scB_hi, scB_lo]
  simp [condOf_code, condOf_code16, fcondOf_code, vcondOf_code, rmOf_code, ovfOf_code, amoOf_code, tyOf_tyB, req, bit1, h]
theorem Laws.RoundTrip.sxini (n : Reg) (a : Reg) (m : Bool) (off : BitVec 20) : Laws.RoundTrip.Statement (.sxini n a m off) := by
  intro h
  simp only [encode, decode_mkF, BitVec.reduceToNat, decodeF, Nat.reduceDiv, decodeCol, encN, encTl, encSys, mkR, mkM, memPlain, xC, xFn, xTy, xExt, xOff, xMty, xMem, v3, v2, vm, plainX, fpX, vX, v2X]
  try simp (disch := decide) only [BitVec.ofNat_eq_ofNat, ex_lo, ex_hi, ex_all, getLsbD_lo, getLsbD_hi, Nat.reduceSub, tyOf_tyB, tyB_i8, tyB_f32, scB_hi, scB_lo]
  simp [condOf_code, condOf_code16, fcondOf_code, vcondOf_code, rmOf_code, ovfOf_code, amoOf_code, tyOf_tyB, req, bit1, h]
theorem Laws.RoundTrip.sxupd (n : Reg) (a : Reg) (q : BitVec 4) (c : Reg) (f : BitVec 2) (ty : Ty) (cell : BitVec 10) : Laws.RoundTrip.Statement (.sxupd n a q c f ty cell) := by
  intro h
  simp only [encode, decode_mkF, BitVec.reduceToNat, decodeF, Nat.reduceDiv, decodeCol, encN, encTl, encSys, mkR, mkM, memPlain, xC, xFn, xTy, xExt, xOff, xMty, xMem, v3, v2, vm, plainX, fpX, vX, v2X]
  try simp (disch := decide) only [BitVec.ofNat_eq_ofNat, ex_lo, ex_hi, ex_all, getLsbD_lo, getLsbD_hi, Nat.reduceSub, tyOf_tyB, tyB_i8, tyB_f32, scB_hi, scB_lo]
  simp [condOf_code, condOf_code16, fcondOf_code, vcondOf_code, rmOf_code, ovfOf_code, amoOf_code, tyOf_tyB, req, bit1, h]
theorem Laws.RoundTrip.sxmrg (n : Reg) (a : Reg) (m : Bool) (off : BitVec 20) : Laws.RoundTrip.Statement (.sxmrg n a m off) := by
  intro h
  simp only [encode, decode_mkF, BitVec.reduceToNat, decodeF, Nat.reduceDiv, decodeCol, encN, encTl, encSys, mkR, mkM, memPlain, xC, xFn, xTy, xExt, xOff, xMty, xMem, v3, v2, vm, plainX, fpX, vX, v2X]
  try simp (disch := decide) only [BitVec.ofNat_eq_ofNat, ex_lo, ex_hi, ex_all, getLsbD_lo, getLsbD_hi, Nat.reduceSub, tyOf_tyB, tyB_i8, tyB_f32, scB_hi, scB_lo]
  simp [condOf_code, condOf_code16, fcondOf_code, vcondOf_code, rmOf_code, ovfOf_code, amoOf_code, tyOf_tyB, req, bit1, h]
theorem Laws.RoundTrip.sxqry (d : Reg) (n : Reg) (b : Reg) (rg : Bool) (kind : BitVec 5) (cell : BitVec 10) : Laws.RoundTrip.Statement (.sxqry d n b rg kind cell) := by
  intro h
  simp only [encode, decode_mkF, BitVec.reduceToNat, decodeF, Nat.reduceDiv, decodeCol, encN, encTl, encSys, mkR, mkM, memPlain, xC, xFn, xTy, xExt, xOff, xMty, xMem, v3, v2, vm, plainX, fpX, vX, v2X]
  try simp (disch := decide) only [BitVec.ofNat_eq_ofNat, ex_lo, ex_hi, ex_all, getLsbD_lo, getLsbD_hi, Nat.reduceSub, tyOf_tyB, tyB_i8, tyB_f32, scB_hi, scB_lo]
  simp [condOf_code, condOf_code16, fcondOf_code, vcondOf_code, rmOf_code, ovfOf_code, amoOf_code, tyOf_tyB, req, bit1, h]
theorem Laws.RoundTrip.sxld (n : Reg) (a : Reg) (off : BitVec 20) : Laws.RoundTrip.Statement (.sxld n a off) := by
  intro h
  simp only [encode, decode_mkF, BitVec.reduceToNat, decodeF, Nat.reduceDiv, decodeCol, encN, encTl, encSys, mkR, mkM, memPlain, xC, xFn, xTy, xExt, xOff, xMty, xMem, v3, v2, vm, plainX, fpX, vX, v2X]
  try simp (disch := decide) only [BitVec.ofNat_eq_ofNat, ex_lo, ex_hi, ex_all, getLsbD_lo, getLsbD_hi, Nat.reduceSub, tyOf_tyB, tyB_i8, tyB_f32, scB_hi, scB_lo]
  simp [condOf_code, condOf_code16, fcondOf_code, vcondOf_code, rmOf_code, ovfOf_code, amoOf_code, tyOf_tyB, req, bit1, h]
theorem Laws.RoundTrip.sxst (n : Reg) (a : Reg) (off : BitVec 20) : Laws.RoundTrip.Statement (.sxst n a off) := by
  intro h
  simp only [encode, decode_mkF, BitVec.reduceToNat, decodeF, Nat.reduceDiv, decodeCol, encN, encTl, encSys, mkR, mkM, memPlain, xC, xFn, xTy, xExt, xOff, xMty, xMem, v3, v2, vm, plainX, fpX, vX, v2X]
  try simp (disch := decide) only [BitVec.ofNat_eq_ofNat, ex_lo, ex_hi, ex_all, getLsbD_lo, getLsbD_hi, Nat.reduceSub, tyOf_tyB, tyB_i8, tyB_f32, scB_hi, scB_lo]
  simp [condOf_code, condOf_code16, fcondOf_code, vcondOf_code, rmOf_code, ovfOf_code, amoOf_code, tyOf_tyB, req, bit1, h]
theorem Laws.RoundTrip.sxstMrg (n : Reg) (a : Reg) (off : BitVec 20) : Laws.RoundTrip.Statement (.sxstMrg n a off) := by
  intro h
  simp only [encode, decode_mkF, BitVec.reduceToNat, decodeF, Nat.reduceDiv, decodeCol, encN, encTl, encSys, mkR, mkM, memPlain, xC, xFn, xTy, xExt, xOff, xMty, xMem, v3, v2, vm, plainX, fpX, vX, v2X]
  try simp (disch := decide) only [BitVec.ofNat_eq_ofNat, ex_lo, ex_hi, ex_all, getLsbD_lo, getLsbD_hi, Nat.reduceSub, tyOf_tyB, tyB_i8, tyB_f32, scB_hi, scB_lo]
  simp [condOf_code, condOf_code16, fcondOf_code, vcondOf_code, rmOf_code, ovfOf_code, amoOf_code, tyOf_tyB, req, bit1, h]
theorem Laws.RoundTrip.sxclr (n : Reg) : Laws.RoundTrip.Statement (.sxclr n) := by
  intro h
  simp only [encode, decode_mkF, BitVec.reduceToNat, decodeF, Nat.reduceDiv, decodeCol, encN, encTl, encSys, mkR, mkM, memPlain, xC, xFn, xTy, xExt, xOff, xMty, xMem, v3, v2, vm, plainX, fpX, vX, v2X]
  try simp (disch := decide) only [BitVec.ofNat_eq_ofNat, ex_lo, ex_hi, ex_all, getLsbD_lo, getLsbD_hi, Nat.reduceSub, tyOf_tyB, tyB_i8, tyB_f32, scB_hi, scB_lo]
  simp [condOf_code, condOf_code16, fcondOf_code, vcondOf_code, rmOf_code, ovfOf_code, amoOf_code, tyOf_tyB, req, bit1, h]
theorem Laws.RoundTrip.sxtyp (d : Reg) (n : Reg) : Laws.RoundTrip.Statement (.sxtyp d n) := by
  intro h
  simp only [encode, decode_mkF, BitVec.reduceToNat, decodeF, Nat.reduceDiv, decodeCol, encN, encTl, encSys, mkR, mkM, memPlain, xC, xFn, xTy, xExt, xOff, xMty, xMem, v3, v2, vm, plainX, fpX, vX, v2X]
  try simp (disch := decide) only [BitVec.ofNat_eq_ofNat, ex_lo, ex_hi, ex_all, getLsbD_lo, getLsbD_hi, Nat.reduceSub, tyOf_tyB, tyB_i8, tyB_f32, scB_hi, scB_lo]
  simp [condOf_code, condOf_code16, fcondOf_code, vcondOf_code, rmOf_code, ovfOf_code, amoOf_code, tyOf_tyB, req, bit1, h]
theorem Laws.RoundTrip.plan (d : Reg) (a : Reg) : Laws.RoundTrip.Statement (.plan d a) := by
  intro h
  simp only [encode, decode_mkF, BitVec.reduceToNat, decodeF, Nat.reduceDiv, decodeCol, encN, encTl, encSys, mkR, mkM, memPlain, xC, xFn, xTy, xExt, xOff, xMty, xMem, v3, v2, vm, plainX, fpX, vX, v2X]
  try simp (disch := decide) only [BitVec.ofNat_eq_ofNat, ex_lo, ex_hi, ex_all, getLsbD_lo, getLsbD_hi, Nat.reduceSub, tyOf_tyB, tyB_i8, tyB_f32, scB_hi, scB_lo]
  simp [condOf_code, condOf_code16, fcondOf_code, vcondOf_code, rmOf_code, ovfOf_code, amoOf_code, tyOf_tyB, req, bit1, h]
theorem Laws.RoundTrip.plfree (a : Reg) : Laws.RoundTrip.Statement (.plfree a) := by
  intro h
  simp only [encode, decode_mkF, BitVec.reduceToNat, decodeF, Nat.reduceDiv, decodeCol, encN, encTl, encSys, mkR, mkM, memPlain, xC, xFn, xTy, xExt, xOff, xMty, xMem, v3, v2, vm, plainX, fpX, vX, v2X]
  try simp (disch := decide) only [BitVec.ofNat_eq_ofNat, ex_lo, ex_hi, ex_all, getLsbD_lo, getLsbD_hi, Nat.reduceSub, tyOf_tyB, tyB_i8, tyB_f32, scB_hi, scB_lo]
  simp [condOf_code, condOf_code16, fcondOf_code, vcondOf_code, rmOf_code, ovfOf_code, amoOf_code, tyOf_tyB, req, bit1, h]
theorem Laws.RoundTrip.crdy (a : Reg) (b : Reg) : Laws.RoundTrip.Statement (.crdy a b) := by
  intro h
  simp only [encode, decode_mkF, BitVec.reduceToNat, decodeF, Nat.reduceDiv, decodeCol, encN, encTl, encSys, mkR, mkM, memPlain, xC, xFn, xTy, xExt, xOff, xMty, xMem, v3, v2, vm, plainX, fpX, vX, v2X]
  try simp (disch := decide) only [BitVec.ofNat_eq_ofNat, ex_lo, ex_hi, ex_all, getLsbD_lo, getLsbD_hi, Nat.reduceSub, tyOf_tyB, tyB_i8, tyB_f32, scB_hi, scB_lo]
  simp [condOf_code, condOf_code16, fcondOf_code, vcondOf_code, rmOf_code, ovfOf_code, amoOf_code, tyOf_tyB, req, bit1, h]
theorem Laws.RoundTrip.cfire (a : Reg) : Laws.RoundTrip.Statement (.cfire a) := by
  intro h
  simp only [encode, decode_mkF, BitVec.reduceToNat, decodeF, Nat.reduceDiv, decodeCol, encN, encTl, encSys, mkR, mkM, memPlain, xC, xFn, xTy, xExt, xOff, xMty, xMem, v3, v2, vm, plainX, fpX, vX, v2X]
  try simp (disch := decide) only [BitVec.ofNat_eq_ofNat, ex_lo, ex_hi, ex_all, getLsbD_lo, getLsbD_hi, Nat.reduceSub, tyOf_tyB, tyB_i8, tyB_f32, scB_hi, scB_lo]
  simp [condOf_code, condOf_code16, fcondOf_code, vcondOf_code, rmOf_code, ovfOf_code, amoOf_code, tyOf_tyB, req, bit1, h]
theorem Laws.RoundTrip.mldr (d : Reg) (a : Reg) (b : Reg) (c : Reg) (op : BitVec 2) (dt : Ty) (st : Ty) (ne : BitVec 12) : Laws.RoundTrip.Statement (.mldr d a b c op dt st ne) := by
  intro h
  simp only [encode, decode_mkF, BitVec.reduceToNat, decodeF, Nat.reduceDiv, decodeCol, encN, encTl, encSys, mkR, mkM, memPlain, xC, xFn, xTy, xExt, xOff, xMty, xMem, v3, v2, vm, plainX, fpX, vX, v2X]
  try simp (disch := decide) only [BitVec.ofNat_eq_ofNat, ex_lo, ex_hi, ex_all, getLsbD_lo, getLsbD_hi, Nat.reduceSub, tyOf_tyB, tyB_i8, tyB_f32, scB_hi, scB_lo]
  simp [condOf_code, condOf_code16, fcondOf_code, vcondOf_code, rmOf_code, ovfOf_code, amoOf_code, tyOf_tyB, req, bit1, h]
theorem Laws.RoundTrip.mstb (a : Reg) (b : Reg) (c : Reg) (t : Ty) (tle : Bool) (tl : BitVec 4) (ne : BitVec 12) : Laws.RoundTrip.Statement (.mstb a b c t tle tl ne) := by
  intro h
  simp only [encode, decode_mkF, BitVec.reduceToNat, decodeF, Nat.reduceDiv, decodeCol, encN, encTl, encSys, mkR, mkM, memPlain, xC, xFn, xTy, xExt, xOff, xMty, xMem, v3, v2, vm, plainX, fpX, vX, v2X]
  try simp (disch := decide) only [BitVec.ofNat_eq_ofNat, ex_lo, ex_hi, ex_all, getLsbD_lo, getLsbD_hi, Nat.reduceSub, tyOf_tyB, tyB_i8, tyB_f32, scB_hi, scB_lo]
  simp [condOf_code, condOf_code16, fcondOf_code, vcondOf_code, rmOf_code, ovfOf_code, amoOf_code, tyOf_tyB, req, bit1, h]
theorem Laws.RoundTrip.agset (d : Reg) (a : Reg) : Laws.RoundTrip.Statement (.agset d a) := by
  intro h
  simp only [encode, decode_mkF, BitVec.reduceToNat, decodeF, Nat.reduceDiv, decodeCol, encN, encTl, encSys, mkR, mkM, memPlain, xC, xFn, xTy, xExt, xOff, xMty, xMem, v3, v2, vm, plainX, fpX, vX, v2X]
  try simp (disch := decide) only [BitVec.ofNat_eq_ofNat, ex_lo, ex_hi, ex_all, getLsbD_lo, getLsbD_hi, Nat.reduceSub, tyOf_tyB, tyB_i8, tyB_f32, scB_hi, scB_lo]
  simp [condOf_code, condOf_code16, fcondOf_code, vcondOf_code, rmOf_code, ovfOf_code, amoOf_code, tyOf_tyB, req, bit1, h]
theorem Laws.RoundTrip.agsetSh (d : Reg) (a : Reg) : Laws.RoundTrip.Statement (.agsetSh d a) := by
  intro h
  simp only [encode, decode_mkF, BitVec.reduceToNat, decodeF, Nat.reduceDiv, decodeCol, encN, encTl, encSys, mkR, mkM, memPlain, xC, xFn, xTy, xExt, xOff, xMty, xMem, v3, v2, vm, plainX, fpX, vX, v2X]
  try simp (disch := decide) only [BitVec.ofNat_eq_ofNat, ex_lo, ex_hi, ex_all, getLsbD_lo, getLsbD_hi, Nat.reduceSub, tyOf_tyB, tyB_i8, tyB_f32, scB_hi, scB_lo]
  simp [condOf_code, condOf_code16, fcondOf_code, vcondOf_code, rmOf_code, ovfOf_code, amoOf_code, tyOf_tyB, req, bit1, h]
theorem Laws.RoundTrip.deferredFault (uid : Nat) (r : Nat) : Laws.RoundTrip.Statement (.deferredFault uid r) := fun h => nomatch h
theorem Laws.RoundTrip.asIntr (p : Nat) : Laws.RoundTrip.Statement (.asIntr p) := fun h => nomatch h
theorem Laws.RoundTrip.faultRecord (p : Nat) : Laws.RoundTrip.Statement (.faultRecord p) := fun h => nomatch h
theorem Laws.RoundTrip.blockFetch (uid : Nat) (k : Nat) : Laws.RoundTrip.Statement (.blockFetch uid k) := fun h => nomatch h
theorem Laws.RoundTrip.barEpisode (passId : Word) : Laws.RoundTrip.Statement (.barEpisode passId) := fun h => nomatch h
theorem Laws.RoundTrip.vbarsEpisode (uid : Nat) (m : BitVec 8) : Laws.RoundTrip.Statement (.vbarsEpisode uid m) := fun h => nomatch h
theorem Laws.RoundTrip.wfeTimeout (uid : Nat) (r : Nat) : Laws.RoundTrip.Statement (.wfeTimeout uid r) := fun h => nomatch h
theorem Laws.RoundTrip.thresherAtomic (stack : Nat) : Laws.RoundTrip.Statement (.thresherAtomic stack) := fun h => nomatch h
theorem Laws.RoundTrip.thresherMerge (stack : Nat) : Laws.RoundTrip.Statement (.thresherMerge stack) := fun h => nomatch h
theorem Laws.RoundTrip.mmaKblock (uid : Nat) (r : Nat) : Laws.RoundTrip.Statement (.mmaKblock uid r) := fun h => nomatch h
theorem Laws.RoundTrip.rowGroupStart (uid : Nat) (r : Nat) : Laws.RoundTrip.Statement (.rowGroupStart uid r) := fun h => nomatch h
theorem Laws.RoundTrip.mmaComplete (uid : Nat) (r : Nat) : Laws.RoundTrip.Statement (.mmaComplete uid r) := fun h => nomatch h
theorem Laws.RoundTrip.mdrnRow (uid : Nat) (r : Nat) : Laws.RoundTrip.Statement (.mdrnRow uid r) := fun h => nomatch h
theorem Laws.RoundTrip.mdrnComplete (uid : Nat) (r : Nat) : Laws.RoundTrip.Statement (.mdrnComplete uid r) := fun h => nomatch h
theorem Laws.RoundTrip.mzroPerform (uid : Nat) (r : Nat) : Laws.RoundTrip.Statement (.mzroPerform uid r) := fun h => nomatch h
theorem Laws.RoundTrip.wainRun (core : Nat) (seq : Nat) : Laws.RoundTrip.Statement (.wainRun core seq) := fun h => nomatch h
theorem Laws.RoundTrip.gatherBatch (core : Nat) (seq : Nat) : Laws.RoundTrip.Statement (.gatherBatch core seq) := fun h => nomatch h
theorem Laws.RoundTrip.wainComplete (core : Nat) (seq : Nat) : Laws.RoundTrip.Statement (.wainComplete core seq) := fun h => nomatch h
theorem Laws.RoundTrip.granuleCommit (uid : Nat) (k : Nat) : Laws.RoundTrip.Statement (.granuleCommit uid k) := fun h => nomatch h
theorem Laws.RoundTrip.routineStart (core : Nat) : Laws.RoundTrip.Statement (.routineStart core) := fun h => nomatch h
theorem Laws.RoundTrip.kvq (core : Nat) : Laws.RoundTrip.Statement (.kvq core) := fun h => nomatch h
theorem Laws.RoundTrip.roundStart (p : Nat) (h : Nat) (tile : Nat) : Laws.RoundTrip.Statement (.roundStart p h tile) := fun h => nomatch h
theorem Laws.RoundTrip.sendStep (p : Nat) (h : Nat) (tile : Nat) : Laws.RoundTrip.Statement (.sendStep p h tile) := fun h => nomatch h
theorem Laws.RoundTrip.foldStep (p : Nat) (h : Nat) (tile : Nat) : Laws.RoundTrip.Statement (.foldStep p h tile) := fun h => nomatch h
theorem Laws.RoundTrip.putStep (p : Nat) (h : Nat) (tile : Nat) : Laws.RoundTrip.Statement (.putStep p h tile) := fun h => nomatch h
theorem Laws.RoundTrip.launchCheck (p : Nat) (seq : Nat) : Laws.RoundTrip.Statement (.launchCheck p seq) := fun h => nomatch h
theorem Laws.RoundTrip.passPlace (p : Nat) : Laws.RoundTrip.Statement (.passPlace p) := fun h => nomatch h
theorem Laws.RoundTrip.passResume (p : Nat) : Laws.RoundTrip.Statement (.passResume p) := fun h => nomatch h
theorem Laws.RoundTrip.preempt (p : Nat) : Laws.RoundTrip.Statement (.preempt p) := fun h => nomatch h
theorem Laws.RoundTrip.completionRecord (p : Nat) (seq : Nat) : Laws.RoundTrip.Statement (.completionRecord p seq) := fun h => nomatch h
theorem Laws.RoundTrip.blockedTimeout (core : Nat) : Laws.RoundTrip.Statement (.blockedTimeout core) := fun h => nomatch h
theorem Laws.RoundTrip.quantumExpiry (core : Nat) : Laws.RoundTrip.Statement (.quantumExpiry core) := fun h => nomatch h
theorem Laws.RoundTrip.budgetOverrun (uid : Nat) (r : Nat) : Laws.RoundTrip.Statement (.budgetOverrun uid r) := fun h => nomatch h
theorem Laws.RoundTrip.dispResume (uid : Nat) : Laws.RoundTrip.Statement (.dispResume uid) := fun h => nomatch h
theorem Laws.RoundTrip.dispRestart (uid : Nat) : Laws.RoundTrip.Statement (.dispRestart uid) := fun h => nomatch h
theorem Laws.RoundTrip.dispEnd (uid : Nat) : Laws.RoundTrip.Statement (.dispEnd uid) := fun h => nomatch h
theorem Laws.RoundTrip.shardHoldTimeout (p : Nat) (tag : Nat) : Laws.RoundTrip.Statement (.shardHoldTimeout p tag) := fun h => nomatch h
theorem Laws.RoundTrip.frameSend (port : Nat) (q : Nat) : Laws.RoundTrip.Statement (.frameSend port q) := fun h => nomatch h
theorem Laws.RoundTrip.timelineAdvance (uid : Nat) (n : Nat) (k : Word) : Laws.RoundTrip.Statement (.timelineAdvance uid n k) := fun h => nomatch h
theorem Laws.RoundTrip.remoteReply (tag : Nat) (st : ReplyStatus) (data : List Byte) : Laws.RoundTrip.Statement (.remoteReply tag st data) := fun h => nomatch h
theorem Laws.RoundTrip.remoteAck (tag : Nat) (visible : Bool) : Laws.RoundTrip.Statement (.remoteAck tag visible) := fun h => nomatch h
theorem Laws.RoundTrip.remoteStoreFailure (tag : Nat) (st : ReplyStatus) : Laws.RoundTrip.Statement (.remoteStoreFailure tag st) := fun h => nomatch h
theorem Laws.RoundTrip.fabricFill (tag : Nat) (st : ReplyStatus) (data : List Byte) : Laws.RoundTrip.Statement (.fabricFill tag st data) := fun h => nomatch h
theorem Laws.RoundTrip.homeRequest (q : PeerReq) : Laws.RoundTrip.Statement (.homeRequest q) := fun h => nomatch h
theorem Laws.RoundTrip.viewTileBuild (uid : Nat) (slot : Nat) (ti : Nat) (tj : Nat) : Laws.RoundTrip.Statement (.viewTileBuild uid slot ti tj) := fun h => nomatch h
theorem Laws.RoundTrip.contributionArrival (p : Nat) (src : PeerPart) (tag : Nat) (planId : BitVec 32) (addr : Word) (data : List Byte) : Laws.RoundTrip.Statement (.contributionArrival p src tag planId addr data) := fun h => nomatch h
theorem Laws.RoundTrip.tileFinal (p : Nat) (src : PeerPart) (tag : Nat) (q : PlanTile) (addr : Word) (data : List Byte) : Laws.RoundTrip.Statement (.tileFinal p src tag q addr data) := fun h => nomatch h
theorem Laws.RoundTrip.planFailure (p : Nat) (h : Nat) (sub : BitVec 16) : Laws.RoundTrip.Statement (.planFailure p h sub) := fun h => nomatch h
theorem Laws.RoundTrip.planSignature (p : Nat) (src : PeerPart) (planId : BitVec 32) (rank : Nat) (sig : BitVec 256) (offer : MemberOffer) : Laws.RoundTrip.Statement (.planSignature p src planId rank sig offer) := fun h => nomatch h
theorem Laws.RoundTrip.mstbArrival (p : Nat) (peer : Nat) (rpart : Nat) (tag : Nat) (addr : Word) (data : List Byte) (tle : Bool) (tl : Nat) (member : BitVec 32) : Laws.RoundTrip.Statement (.mstbArrival p peer rpart tag addr data tle tl member) := fun h => nomatch h
theorem Laws.RoundTrip.memberRead (p : Nat) (peer : Nat) (rpart : Nat) (tag : Nat) (addr : Word) (n : Nat) : Laws.RoundTrip.Statement (.memberRead p peer rpart tag addr n) := fun h => nomatch h
theorem Laws.RoundTrip.shardRequest (p : Nat) (q : ShardReq) : Laws.RoundTrip.Statement (.shardRequest p q) := fun h => nomatch h
theorem Laws.RoundTrip.shardStaleReplay (tag : Nat) (desc : BitVec 512) : Laws.RoundTrip.Statement (.shardStaleReplay tag desc) := fun h => nomatch h
theorem Laws.RoundTrip.shgenInstall (p : Nat) (handle : Nat) (desc : BitVec 512) (peer : Nat) (tag : Nat) : Laws.RoundTrip.Statement (.shgenInstall p handle desc peer tag) := fun h => nomatch h
theorem Laws.RoundTrip.launchDmwr (p : Nat) (rec : BitVec 512) : Laws.RoundTrip.Statement (.launchDmwr p rec) := fun h => nomatch h
theorem Laws.RoundTrip.preload (core : Nat) : Laws.RoundTrip.Statement (.preload core) := fun h => nomatch h
theorem Laws.RoundTrip.contextSpill (core : Nat) : Laws.RoundTrip.Statement (.contextSpill core) := fun h => nomatch h
theorem Laws.RoundTrip.loftSpill (core : Nat) : Laws.RoundTrip.Statement (.loftSpill core) := fun h => nomatch h
theorem Laws.RoundTrip.quiesceSet (p : Nat) (w : Word) : Laws.RoundTrip.Statement (.quiesceSet p w) := fun h => nomatch h
theorem Laws.RoundTrip.quiesceClear (p : Nat) (w : Word) : Laws.RoundTrip.Statement (.quiesceClear p w) := fun h => nomatch h
theorem Laws.RoundTrip.dropq (p : Nat) : Laws.RoundTrip.Statement (.dropq p) := fun h => nomatch h
theorem Laws.RoundTrip.pccancel (p : Nat) (id : Word) : Laws.RoundTrip.Statement (.pccancel p id) := fun h => nomatch h
theorem Laws.RoundTrip.triggerDoorbell (p : Nat) (w : Word) : Laws.RoundTrip.Statement (.triggerDoorbell p w) := fun h => nomatch h
theorem Laws.RoundTrip.registerWrite (who : Writer) (bar : Nat) (off : Nat) (w : Word) : Laws.RoundTrip.Statement (.registerWrite who bar off w) := fun h => nomatch h
theorem Laws.RoundTrip.coldStart (force : Bool) : Laws.RoundTrip.Statement (.coldStart force) := fun h => nomatch h
theorem Laws.RoundTrip.warmStart (force : Bool) : Laws.RoundTrip.Statement (.warmStart force) := fun h => nomatch h
theorem Laws.RoundTrip.liveUpdate (ctl : Nat) : Laws.RoundTrip.Statement (.liveUpdate ctl) := fun h => nomatch h
theorem Laws.RoundTrip.createPartition (p : Nat) : Laws.RoundTrip.Statement (.createPartition p) := fun h => nomatch h
theorem Laws.RoundTrip.removePartition (p : Nat) : Laws.RoundTrip.Statement (.removePartition p) := fun h => nomatch h
theorem Laws.RoundTrip.setPowerLimit : Laws.RoundTrip.Statement (.setPowerLimit) := fun h => nomatch h
theorem Laws.RoundTrip.setDomain (force : Bool) : Laws.RoundTrip.Statement (.setDomain force) := fun h => nomatch h
theorem Laws.RoundTrip.sendDoorbell (port : Nat) (q : Nat) (w : Word) : Laws.RoundTrip.Statement (.sendDoorbell port q w) := fun h => nomatch h
theorem Laws.RoundTrip.receiveDoorbell (port : Nat) (q : Nat) (w : Word) : Laws.RoundTrip.Statement (.receiveDoorbell port q w) := fun h => nomatch h
theorem Laws.RoundTrip.ringEnable (port : Nat) (q : Nat) (recv : Bool) (w : Word) : Laws.RoundTrip.Statement (.ringEnable port q recv w) := fun h => nomatch h
theorem Laws.RoundTrip.ringDisable (port : Nat) (q : Nat) (recv : Bool) (w : Word) : Laws.RoundTrip.Statement (.ringDisable port q recv w) := fun h => nomatch h
theorem Laws.RoundTrip.frameReceive (port : Nat) (q : Nat) (header payload : List Byte) (fcsOk : Bool) : Laws.RoundTrip.Statement (.frameReceive port q header payload fcsOk) := fun h => nomatch h
theorem Laws.RoundTrip.flitReceive (port : Nat) (fecOk : Bool) (hdr : Word) (payload : List Byte) (integrity : Word) : Laws.RoundTrip.Statement (.flitReceive port fecOk hdr payload integrity) := fun h => nomatch h
theorem Laws.RoundTrip.flitResend (port : Nat) : Laws.RoundTrip.Statement (.flitResend port) := fun h => nomatch h
theorem Laws.RoundTrip.counterWrap (port : Nat) (slot : Nat) : Laws.RoundTrip.Statement (.counterWrap port slot) := fun h => nomatch h
theorem Laws.RoundTrip.signalDetect (port : Nat) : Laws.RoundTrip.Statement (.signalDetect port) := fun h => nomatch h
theorem Laws.RoundTrip.lossOfSignal (port : Nat) : Laws.RoundTrip.Statement (.lossOfSignal port) := fun h => nomatch h
theorem Laws.RoundTrip.equaliseDone (port : Nat) (width : BitVec 2) (speed : BitVec 2) (lanes : BitVec 16) : Laws.RoundTrip.Statement (.equaliseDone port width speed lanes) := fun h => nomatch h
theorem Laws.RoundTrip.confirmRecord (port : Nat) (r : ConfirmRec) : Laws.RoundTrip.Statement (.confirmRecord port r) := fun h => nomatch h
theorem Laws.RoundTrip.disputeReset (port : Nat) : Laws.RoundTrip.Statement (.disputeReset port) := fun h => nomatch h
theorem Laws.RoundTrip.rootRetrain (port : Nat) : Laws.RoundTrip.Statement (.rootRetrain port) := fun h => nomatch h
theorem Laws.RoundTrip.portEnable (port : Nat) : Laws.RoundTrip.Statement (.portEnable port) := fun h => nomatch h
theorem Laws.RoundTrip.laneRetire (port : Nat) (lane : Nat) : Laws.RoundTrip.Statement (.laneRetire port lane) := fun h => nomatch h
theorem Laws.RoundTrip.portLoss (port : Nat) : Laws.RoundTrip.Statement (.portLoss port) := fun h => nomatch h
theorem Laws.RoundTrip.powerInterval (die : Nat) (temp : Nat) : Laws.RoundTrip.Statement (.powerInterval die temp) := fun h => nomatch h
theorem Laws.RoundTrip.powerShare (aside : Nat) (demand : List Nat) (pkgAvg : Nat) : Laws.RoundTrip.Statement (.powerShare aside demand pkgAvg) := fun h => nomatch h
theorem Laws.RoundTrip.criticalTrip (die : Nat) : Laws.RoundTrip.Statement (.criticalTrip die) := fun h => nomatch h
theorem Laws.RoundTrip.hbmThermal (stack : Nat) (temp : Nat) : Laws.RoundTrip.Statement (.hbmThermal stack temp) := fun h => nomatch h
theorem Laws.RoundTrip.patrolScrub (stack : Nat) (row : Nat) : Laws.RoundTrip.Statement (.patrolScrub stack row) := fun h => nomatch h
theorem Laws.RoundTrip.rowSpare (stack : Nat) (row : Nat) : Laws.RoundTrip.Statement (.rowSpare stack row) := fun h => nomatch h
theorem Laws.RoundTrip.coreRetire (core : Nat) : Laws.RoundTrip.Statement (.coreRetire core) := fun h => nomatch h
theorem Laws.RoundTrip.hbmRecalibrate (stack : Nat) (channel : Nat) : Laws.RoundTrip.Statement (.hbmRecalibrate stack channel) := fun h => nomatch h
theorem Laws.RoundTrip.idleEntry (elapsed : Nat) : Laws.RoundTrip.Statement (.idleEntry elapsed) := fun h => nomatch h
theorem Laws.RoundTrip.idleWake : Laws.RoundTrip.Statement (.idleWake) := fun h => nomatch h
theorem Laws.RoundTrip.getMeasurements (q : MeasureReq) : Laws.RoundTrip.Statement (.getMeasurements q) := fun h => nomatch h
theorem Laws.RoundTrip.enclaveRecord (p : Nat) (data : List Byte) (news : EnclaveNews) : Laws.RoundTrip.Statement (.enclaveRecord p data news) := fun h => nomatch h
theorem Laws.RoundTrip.revocationRecord (r : RevocationMsg) : Laws.RoundTrip.Statement (.revocationRecord r) := fun h => nomatch h
theorem Laws.RoundTrip.startCompletion (ok : Bool) : Laws.RoundTrip.Statement (.startCompletion ok) := fun h => nomatch h
theorem Laws.RoundTrip.updateCompletion : Laws.RoundTrip.Statement (.updateCompletion) := fun h => nomatch h
theorem Laws.RoundTrip.packagePowerLoss : Laws.RoundTrip.Statement (.packagePowerLoss) := fun h => nomatch h
theorem Laws.RoundTrip.cxlPortDown (port : Nat) (up : Bool) : Laws.RoundTrip.Statement (.cxlPortDown port up) := fun h => nomatch h
theorem Laws.RoundTrip.secureSession (partner : Nat) (point : BitVec 768) : Laws.RoundTrip.Statement (.secureSession partner point) := fun h => nomatch h

end Sys2Proof
end

