-- ==== Sys2Proof/Tests/Slice0.lean ====
section
/-!
SUPPORT. Tests of the model: the checks of `WellFormed`, words written out from the spec's tables, and for each statement states and operands
that meet its hypotheses together.
-/
set_option Elab.async false
namespace Sys2Proof.Tests
open Sys2Proof Sys2Proof.Machine Sys2Proof.Claims

/-! ### Small states -/

/-- A reeve in the middle of a task: program counter 0x200000, every mask bit set. -/
def reeve0 : Reeve := { Reeve.reset with pc := 0x200000, started := true, mask := 0xFFFFFFFFFFFFFFFF, budget := 0xFFFFFFFFFFFFFFFF }
/-- A unit of pass 1 with one reeve and four sheaves. -/
def unit0 : Machine.Unit :=
  { Unit.none with
    live := true, passId := 1, rv := 1, loftSize := 65536, reeves := [(0, reeve0)], lpart := lpartOf 2 1, place := .running, ctxPA := 0x38100000 }
/-- The pass of that unit, RUNNING in partition 0. -/
def pass0 : Pass :=
  { seq := 1, lrec := 0, header := 0, streams := [], decls := [], st := .running, x := 1, y := 1, s := 1, rv := 1, lanes := 4, wlog := 0,
    reason := 0, cause := 0, ftask := none, nflt := 0, cycles := 0, taskMax := 0, episode := 0, sends := [], recorded := false, placedAt := 1, snap := [] }
/-- Partition 0, ACTIVE, with core 0 and that pass; addresses below 1 GiB are their own frames. -/
def part0 : Partition := { placePart with passes := [pass0], pcseq := 1, initUid := 0 }
/-- The package with that unit running on core 0. -/
def task : State :=
  { State.reset with
    uid := 1, units := [(1, unit0)], nextUid := 2, cores := [(0, { Core.reset with running := some 1 })], parts := [(0, part0)]
    hbm := placeMem [] 0, mgst := .ready, peer := some 0 }
/-- A state with scalar registers of the executing reeve set. -/
def regs (s : State) (l : List (Nat × Word)) : State := s.modRe (fun r => { r with g := l })
/-- The same in keeper mode. -/
def keeper : State := task.modRe (fun r => { r with mode := .keeper })
/-- Sheaf 0 of the unit executes a block, at TYPE and TYPE2 f32 in groups of one register, `%vl` 4. -/
def sheaf : State :=
  (task.modCu (fun u => { u with
    sheaves := [(0, { Sheaf.reset with busy := true, pc := 0x200000, blockAddr := 0x200000, block := [0], vl := 4, vt := 19010 })] })).setAgent (1, .sheaf 0)

/-! ### Scalar words -/

theorem witness_integerWords :
    (∃ R, intRule (.add 0 63 1) = some R ∧ task.ready (R.dst :: R.srcs) R.srcs = true) ∧
    (∃ R, intRule (.csel 15 0 15 7) = some R ∧ sheaf.ready (R.dst :: R.srcs) R.srcs = true) ∧
    (∃ R, intRule (.addpc 1 0xFFFFFFFF) = some R ∧ keeper.ready (R.dst :: R.srcs) R.srcs = true) :=
  ⟨⟨_, rfl, by decide +kernel⟩, ⟨_, rfl, by decide +kernel⟩, ⟨_, rfl, by decide +kernel⟩⟩
theorem witness_floatWords :
    (∃ R, fpRule (.fma .f16 0 1 2 3) = some R ∧ task.who = .reeve 0 ∧ task.ready (R.dst :: R.srcs) R.srcs = true) ∧
    ∃ R, fpRule (.fcvt .i8 .f64 .rtz .sat 63 62) = some R ∧ keeper.who = .reeve 0 ∧ keeper.ready (R.dst :: R.srcs) R.srcs = true :=
  ⟨⟨_, rfl, by decide +kernel, by decide +kernel⟩, ⟨_, rfl, by decide +kernel, by decide +kernel⟩⟩
/-- 1.0, the least subnormal and the largest finite value of f16, whose sums, products and quotients are not zero. -/
theorem witness_arithmeticRounds :
    Ty.f16 ∈ fp4 ∧ (∃ x y z, ratOf (fmtOf .f16) 0x3C00 = some x ∧ ratOf (fmtOf .f16) 1 = some y ∧ ratOf (fmtOf .f16) 0x7BFF = some z ∧
      x + y ≠ 0 ∧ x - y ≠ 0 ∧ x * y ≠ 0 ∧ x ≠ 0 ∧ y ≠ 0 ∧ x * y + z ≠ 0) :=
  ⟨by decide, _, _, _, rfl, rfl, rfl, by decide +kernel, by decide +kernel, by decide +kernel, by decide +kernel, by decide +kernel, by decide +kernel⟩
/-- Patterns of f16 for each clause: a quiet and a signaling NaN, a finite nonzero value, two ordered values. -/
theorem witness_floatSpecialValues :
    Ty.f16 ∈ fp4 ∧ 0x7E01 < 2 ^ tyWidth .f16 ∧ nanBits (fmtOf .f16) 0x7E01 = true ∧ sigBits (fmtOf .f16) 0x7C01 = true ∧
    (0 < 1 ∧ 1 < (2 ^ (fmtOf .f16).eb - 1) * 2 ^ (fmtOf .f16).mb) ∧
    (∃ x y, ratOf (fmtOf .f16) 0x8001 = some x ∧ ratOf (fmtOf .f16) 0x7BFF = some y ∧ x < y) :=
  ⟨by decide, by decide, by decide, by decide, by decide, _, _, rfl, rfl, by decide +kernel⟩

/-! ### Control transfer and traps -/

/-- The routine of core 0's wain executes, a STREAM command of that unit. -/
def wain : State :=
  { task with
    who := .wain 0
    cores := [(0, { Core.reset with
      running := some 1
      wq := [⟨1, 0xEC, 1, 0, 0x200000, 0x300000, 0, 0, 0, 0, 0, 0, [], 0, false, false, false, none, false⟩]
      routine := some ⟨1, 1, 0, [], [], { Sheaf.reset with vl := 4, vt := 19010 }, 0x200000, 0, []⟩ })] }
theorem witness_branchesAndJumps :
    (∃ R, jumpRule (.bc .lt 1 2 0x7FFF) = some R ∧ isReeveOrWain wain.who = true ∧ wain.ready (R.link.toList ++ R.srcs) R.srcs = true) ∧
    (∃ R, jumpRule (.jr 1 2 8) = some R ∧ isReeveOrWain task.who = true ∧ task.ready (R.link.toList ++ R.srcs) R.srcs = true ∧
      (R.target task.rd task.pc).toNat % 8 = 0) ∧
    ∃ R, jumpRule (.jr 0 2 4) = some R ∧ isReeveOrWain task.who = true ∧ task.ready (R.link.toList ++ R.srcs) R.srcs = true ∧
      (R.target task.rd task.pc).toNat % 8 ≠ 0 :=
  ⟨⟨_, rfl, by decide +kernel, by decide +kernel⟩, ⟨_, rfl, by decide +kernel, by decide +kernel, by decide +kernel⟩,
    ⟨_, rfl, by decide +kernel, by decide +kernel, by decide +kernel⟩⟩
/-- A gate table of two entries in memory at 0x240000: entry 1 is valid and enters keeper mode at 0x300000. -/
def gated : State :=
  { task with
    parts := [(0, { part0 with gatebase := 0x240001 })]
    hbm := memWrite task.hbm 0x240020 (leBytes 32 (129 + 0x300000 * 2 ^ 64 + 5 * 2 ^ 128)) }
/-- The answer of an access holds a value with a property. -/
def answers {α : Type} (x : Acc α) (p : α → State → Bool) : Bool :=
  match x with
  | .ok v u => p v u
  | _ => false
theorem exists_of_answers {α : Type} {x : Acc α} {p : α → State → Bool} (h : answers x p = true) : ∃ v u, x = .ok v u ∧ p v u = true := by
  cases x with
  | ok v u => exact ⟨v, u, rfl, h⟩
  | trap _ _ => cases h
  | wait _ _ => cases h
/-- An access traps with a cause that has a property. -/
def traps {α : Type} (x : Acc α) (p : TrapInfo → State → Bool) : Bool :=
  match x with
  | .trap t u => p t u
  | _ => false
theorem exists_of_traps {α : Type} {x : Acc α} {p : TrapInfo → State → Bool} (h : traps x p = true) : ∃ t u, x = .trap t u ∧ p t u = true := by
  cases x with
  | trap t u => exact ⟨t, u, rfl, h⟩
  | ok _ _ => cases h
  | wait _ _ => cases h
def linked (s : State) : State := s.modRe (fun r => { r with link := some ⟨0x200008, .task, 0⟩ })
theorem witness_gateCalls :
    onReeve gated 0 [] [] ∧ (1 : BitVec 16) ≠ 0 ∧ (1 : BitVec 16).toNat < gateEntries gated ∧ gated.re.mode = .task ∧ gated.re.link = none ∧
    (∃ e u, gated.gateEntry 1 = .ok e u ∧ goodEntry e = true) ∧
    (∃ e u, ({ gated with hbm := memWrite gated.hbm 0x240020 [0x82] } : State).gateEntry 1 = .ok e u ∧ (!goodEntry e) = true) ∧
    gateEntries gated ≤ (2 : BitVec 16).toNat ∧ onReeve (linked gated) 0 [] [] ∧ (linked gated).re.link = some ⟨0x200008, .task, 0⟩ :=
  ⟨⟨rfl, by decide +kernel⟩, by decide, by decide +kernel, by decide +kernel, by decide +kernel, exists_of_answers (by decide +kernel),
    exists_of_answers (by decide +kernel), by decide +kernel, ⟨rfl, by decide +kernel⟩, by decide +kernel⟩
theorem witness_trapsInPlace :
    taskOnReeve task 0 ∧ trapCode (tr 0x08 3 0x1234) ≠ 0x0E ∧ enabled (tr 0x08 3 0x1234) task.re.mask = true ∧
    noRecord (tr 0x12 0 0) = true ∧ enabled (tr 0x12 0 0) task.re.mask = true ∧ noRecord (tr 0x08 3 0x1234) = false := by
  refine ⟨⟨?_, ?_, ?_⟩, ?_⟩ <;> decide +kernel
theorem witness_trapAndBrk :
    onReeve task 0 [] [] ∧ task.cu.initial = false ∧ task.re.mode = .task ∧ task.re.mask.getLsbD 0x12 = true ∧ task.re.mask.getLsbD 0x11 = true := by
  refine ⟨⟨?_, ?_⟩, ?_⟩ <;> decide +kernel
/-- A mask mode of zero, and a cause that always parks under the full one. -/
theorem witness_trapsParkTheUnit :
    taskOnReeve (task.modRe (fun r => { r with mask := 0 })) 0 ∧ rising task.units ∧ trapCode (tr 0x08 3 0) ≠ 0x0E ∧
    enabled (tr 0x08 3 0) 0 = false ∧ taskOnReeve task 0 ∧ enabled (tr 0x13 1 0) task.re.mask = false := by
  refine ⟨⟨?_, ?_, ?_⟩, ?_, ?_, ?_, ⟨?_, ?_, ?_⟩, ?_⟩ <;> first | decide +kernel | (unfold rising; decide +kernel)
theorem witness_keeperGates :
    let s := linked keeper
    s.who = .reeve 0 ∧ s.cu.initial = false ∧ s.re.mode = .keeper ∧ s.re.link = some ⟨0x200008, .task, 0⟩ ∧ s.re.inHandler = false ∧
      trapCode (tr 0x08 3 0) ≠ 0x0E ∧ enabled (tr 0x08 3 0) s.re.mask = true := by decide +kernel
theorem witness_sheafTraps :
    sheaf.who = .sheaf 0 ∧ sheaf.cu.owner 0 = 0 ∧ sheaf.cu.initial = false ∧ (sheaf.cu.reeveOf 0).mode = .task ∧ rising sheaf.units ∧
    sheaf.reqOut sheaf.uid 0 = false ∧ trapCode (tr 0x06 0 0) ∈ [0x06, 0x07, 0x08] ∧ trapCode (tr 0x06 0 0) ≠ 0x0E ∧
    (sheaf.cu.reeveOf 0).mask.getLsbD (trapCode (tr 0x06 0 0)) = true ∧ trapCode (tr 0x01 0 0) ∉ [0x06, 0x07, 0x08] := by
  refine ⟨?_, ?_, ?_, ?_, ?_, ?_, ?_, ?_, ?_, ?_⟩ <;> first | decide +kernel | (unfold rising; decide +kernel)
theorem witness_eret :
    onReeve keeper 0 [] [] ∧ keeper.eng = none ∧ keeper.re.mode = .keeper ∧ keeper.re.epc.toNat % 8 = 0 ∧
    keeper.re.cause.toNat / 2 ^ 24 % 4 = 0 ∧
    let s := keeper.modRe (fun r => { r with epc := 0x200004, cause := 0x01000000 })
    onReeve s 0 [] [] ∧ s.re.mode = .keeper ∧ s.re.epc.toNat % 8 ≠ 0 ∧ s.re.cause.toNat / 2 ^ 24 % 4 = 1 := by
  refine ⟨⟨?_, ?_⟩, ?_, ?_, ?_, ?_, ⟨?_, ?_⟩, ?_⟩ <;> decide +kernel

/-! ### The checks before every meaning -/

theorem witness_otherContexts :
    plainWord .eret = true ∧ sheaf.off = false ∧ mayRun .eret sheaf.who = false ∧ plainWord .vend = true ∧ mayRun .vend task.who = false ∧
    plainWord .barSeal = true ∧ mayRun .barSeal sheaf.who = false ∧ wain.off = false ∧ mayRun .vend wain.who = false := by decide +kernel
/-- A SLOOP block in its body at a word whose stage is not yet on. -/
def staged : State := sheaf.modSh (fun x => { x with slp := 0x8100000000000002, lp := [(0, ⟨0x1FFFF0, 0x200040, 5⟩)], stg := 1 })
theorem witness_switchedOff : (Instr.vend).wf = true ∧ staged.off = true := by decide +kernel
theorem witness_keeperWords :
    keeperOnly .eret = true ∧ keeperOnly (.sysrd 0 1 0x0D) = true ∧ task.who = .reeve 0 ∧ task.re.mode = .task := by decide +kernel
theorem witness_scalarRegisterChecks :
    (∃ R, intRule (.add 1 16 2) = some R ∧ sheaf.off = false ∧ (∃ k, sheaf.who = .sheaf k) ∧ ∃ r ∈ R.dst :: R.srcs, 16 ≤ r.toNat) ∧
    ∃ R, intRule (.add 1 3 2) = some R ∧ (∀ r ∈ R.dst :: R.srcs, (task.modRe (fun x => { x with gPoison := [(2, true)] })).badReg r = false) ∧
      ∃ r ∈ R.srcs, (task.modRe (fun x => { x with gPoison := [(2, true)] })).poisoned r = true :=
  ⟨⟨_, rfl, by decide +kernel, ⟨0, by decide +kernel⟩, 16, by decide, by decide⟩, ⟨_, rfl, by decide +kernel, 2, by decide, by decide +kernel⟩⟩

/-! ### Memory -/

/-- An unordered access of scope `.cu`. -/
def plainM : MemQ := ⟨0, 0, 0⟩
/-- An ordered one: acquire and release at `.dm`. -/
def bothM : MemQ := ⟨4, 0, 3⟩
/-- A physical address of HBM that is not sealed. -/
def isHbm : Phys → Bool
  | .hbm _ false => true
  | _ => false
/-- `g1` holds an address; `g2` and `g3` hold values. -/
def ptr : State := regs task [(1, 0x240000), (2, 7), (3, 0xFFFFFFFFFFFFFFFF)]
theorem witness_loads :
    ptr.ready [0, 1] [1] = true ∧ ptr.loadGate bothM = none ∧
    ∃ x u, ptr.xlate ptr.xc .load false (addr ptr 1 8) (bytesOf .i64) (bytesOf .i64) = .ok x u ∧
      (decide (viewOf u.cu (addr ptr 1 8).toNat (bytesOf .i64) = none) && (localByte u x (bytesOf .i64)).isSome && isHbm x) = true :=
  ⟨by decide +kernel, by decide +kernel, exists_of_answers (by decide +kernel)⟩
theorem witness_stores :
    ptr.ready [3, 1] [3, 1] = true ∧ ptr.orderGate (releases bothM) bothM true = none ∧
    ∃ x u, ptr.xlate ptr.xc .store false (addr ptr 1 0xFFFFF) (bytesOf .n8) (bytesOf .n8) = .ok x u ∧
      (u.units.any (fun p => p.2.recorded) == false &&
        u.cu.views.any (fun p => match p.2 with | some v => !v.tiles.isEmpty | none => false) == false && isHbm x) = true :=
  ⟨by decide +kernel, by decide +kernel, exists_of_answers (by decide +kernel)⟩
/-- The operand equals the old value 0 in `g4`, and differs from it in `g2`: both cases of CAS. -/
theorem witness_atomics :
    ptr.ready [2, 1, 3] [2, 1, 3] = true ∧ ptr.ready [4, 1, 3] [4, 1, 3] = true ∧ ptr.orderGate (releases bothM) bothM false = none ∧
    ∃ x u, ptr.xlate ptr.xc .atomic false (addr ptr 1 0) (bytesOf .i32) (bytesOf .i32) = .ok x u ∧
      (u.units.any (fun p => p.2.recorded) == false &&
        u.cu.views.any (fun p => match p.2 with | some v => !v.tiles.isEmpty | none => false) == false &&
        (match x with | .hbm pa z => z == false && u.lineBusy pa == false | _ => false) &&
        (match localByte u x (bytesOf .i32) with
          | some y => littleEndian y 4 == (ptr.rd 4).toNat && littleEndian y 4 != (ptr.rd 2).toNat
          | none => false)) = true :=
  ⟨by decide +kernel, by decide +kernel, by decide +kernel, exists_of_answers (by decide +kernel)⟩
/-- The first address past the mapped gigabyte, and a misaligned one. -/
theorem witness_failedAccesses :
    let s := regs task [(1, 0x40000000)]
    s.ready [2, 1, 3] [2, 1, 3] = true ∧ s.loadGate plainM = none ∧ s.orderGate (releases plainM) plainM true = none ∧
    s.orderGate (releases plainM) plainM false = none ∧
    (∃ f u, s.xlate s.xc .load false (addr s 1 0) (bytesOf .i32) (bytesOf .i32) = .trap f u ∧ (f.code == 0x06) = true) ∧
    (∃ f u, s.xlate s.xc .store false (addr s 1 0) (bytesOf .i32) (bytesOf .i32) = .trap f u ∧ (f.code == 0x06) = true) ∧
    (∃ f u, ptr.xlate ptr.xc .atomic false (addr ptr 1 2) (bytesOf .i32) (bytesOf .i32) = .trap f u ∧ (f.code == 0x05) = true) :=
  ⟨by decide +kernel, by decide +kernel, by decide +kernel, by decide +kernel, exists_of_traps (by decide +kernel),
    exists_of_traps (by decide +kernel), exists_of_traps (by decide +kernel)⟩
theorem witness_translations :
    (∃ x u, ptr.xlate ptr.xc .store false 0x240000 8 8 = .ok x u ∧ (x == .hbm 0x240000 false) = true) ∧
    ∃ t u, ptr.xlate ptr.xc .load false 0 8 8 = .trap t u ∧ (t.code == 0x07) = true :=
  ⟨exists_of_answers (by decide +kernel), exists_of_traps (by decide +kernel)⟩
theorem witness_loggedStores :
    ∃ new, logWrite 1 [] 0x240038 0x240038 (leBytes 8 5) = some new ∧ 0x240038 % 64 + (leBytes 8 5).length ≤ 64 :=
  ⟨_, rfl, by decide⟩

/-! ### Fences, counters, dispatch, barriers -/

/-- A remote store accepted but not yet visible, at scope `.dm`; and one not accepted. -/
def storing (acc : Bool) (f : Option StoreFail) : State := ptr.modRe (fun x => { x with stores := [⟨1, 0, 0x240000, 3, acc, 0⟩], fail := f })
theorem witness_fences :
    ptr.ready [] [] = true ∧ ptr.re.stores.filter (fun t => decide (t.agent < 10)) = [] ∧ ptr.re.fail = none ∧
    ((storing true none).ready [] [] = true ∧ (∃ t ∈ (storing false none).re.stores.filter (fun t => decide (t.agent < 10)), t.accepted = false) ∧
      (storing true none).re.stores.filter (fun t => decide (t.agent < 10)) ≠ []) ∧
    ((storing true (some ⟨1, 0x14, 8, 3⟩)).re.fail = some ⟨1, 0x14, 8, 3⟩ ∧
      ¬∃ t ∈ (storing true (some ⟨1, 0x14, 8, 3⟩)).re.stores.filter (fun t => decide (t.agent < 10)), t.accepted = false) ∧
    ptr.who = .reeve 0 ∧ ptr.cu.owns 0 (3 : BitVec 3).toNat = true ∧ ptr.cu.owns 0 (4 : BitVec 3).toNat = false := by decide +kernel
theorem witness_nop : task.ready [] [] = true ∧ sheaf.ready [] [] = true ∧ wain.ready [] [] = true := by decide +kernel
theorem witness_tlrd : task.ready [0] [] = true ∧ sheaf.ready [15] [] = true := by decide +kernel
/-- Counter 15 holds 7, reached through `.dm` advances from 2 on; a failed plan names counter 1. -/
def tlCount : State :=
  { ptr.modCu (fun u => { u with tl := [(15, 7)], tlWide := [(15, some 2)] }) with
    plans := [⟨0, 1, 1, 1, 0, 0, 0, BitVec.ofNat 512 (2 ^ 104), [], [], [], [], [], 0, some 2, []⟩] }
theorem witness_timeline :
    tlCount.who = .reeve 0 ∧ tlCount.ready [2] [2] = true ∧ amount tlCount 2 0 ≤ (counter tlCount 15).toNat ∧
    KMap.get none tlCount.cu.tlWide 15 = some 2 ∧ (counter tlCount 0).toNat < amount tlCount 2 0 ∧ tlCount.planFailed 0 = none ∧
    tlCount.planFailed 1 = tlCount.plans[0]? ∧ (counter tlCount 1).toNat < amount tlCount 2 0 ∧ releaseDone tlCount 3 ∧ releaseDone tlCount 4 := by
  refine ⟨?_, ?_, ?_, ?_, ?_, ?_, ?_, ?_, ?_, ?_⟩ <;> (try unfold releaseDone) <;> decide +kernel
/-- A sheaf's queue of `n` blocks, and a reply of sheaf 1. -/
def queued (n : Nat) : State :=
  ptr.modCu (fun u => { u with
    sheaves := [(0, { Sheaf.reset with queue := List.replicate n ⟨0x300000, [], 1⟩ }), (1, { Sheaf.reset with replies := [5] })] })
theorem witness_dispatch :
    let s := queued 3
    s.who = .reeve 0 ∧ s.ready [4] [] = true ∧ (∀ q ∈ [(1 : Reg), 2, 3], s.poisoned q = false) ∧ s.cu.owns 0 (0 : BitVec 3).toNat = true ∧
    (s.rd 1).toNat % 8 = 0 ∧ (s.rd 2).toNat % 8 ≠ 0 ∧ s.lpartHeld = false ∧ (s.cu.sheafOf 0).queue.length < 4 ∧
    4 ≤ ((queued 4).cu.sheafOf 0).queue.length ∧ s.cu.owns 0 (7 : BitVec 3).toNat = false ∧ (s.cu.sheafOf 1).replies = [5] ∧
    (s.cu.sheafOf 0).replies = [] ∧ (s.cu.sheafOf 1).busy = false ∧ (s.cu.sheafOf 1).queue = [] ∧ (s.cu.sheafOf 0).queue ≠ [] := by decide +kernel
theorem witness_lpart :
    ptr.who = .reeve 0 ∧ ptr.ready [0] [] = true ∧ (∀ j < 8, (ptr.cu.sheafOf j).busy = false ∧ (ptr.cu.sheafOf j).queue = []) ∧ ptr.cu.mq = [] ∧
    ∃ j < 8, ((queued 1).cu.sheafOf j).queue ≠ [] := by decide +kernel
/-- The reeve waits at a barrier for episode 1, in a pass that has completed `e`. -/
def atBar (e : Nat) : State :=
  { ptr.modRe (fun x => { x with barAt := some 1, arrivals := 1 }) with parts := [(0, { part0 with passes := [{ pass0 with episode := e }] })] }
/-- A second unit of the pass is ready on the core. -/
def twoUnits : State :=
  { ptr with
    units := [(1, unit0), (2, { unit0 with idx := 1, place := .ready, ctxPA := 0x38110000 })], nextUid := 3
    parts := [(0, { part0 with passes := [{ pass0 with x := 2, s := 1 }] })] }
theorem witness_barriersEventsYield :
    ptr.who = .reeve 0 ∧ ptr.ready [2] [2] = true ∧ ptr.episode ptr.cu = some 0 ∧ ptr.re.barAt = none ∧
    (atBar 1).episode (atBar 1).cu = some 1 ∧ (atBar 1).re.barAt = some 1 ∧ (atBar 0).episode (atBar 0).cu = some 0 ∧
    (ptr.modRe (fun x => { x with latch := true })).re.latch = true ∧ (ptr.modRe (fun x => { x with wfeLeft := some 0 })).re.wfeLeft = some 0 ∧
    ptr.re.latch = false ∧ ptr.re.wfeLeft = none ∧ ptr.rd 2 ≠ 0 ∧ ptr.rd 5 = 0 ∧ keeper.keeper = true ∧ ptr.readyOn ptr.cu.core = [] := by
  decide +kernel
theorem witness_yield :
    twoUnits.who = .reeve 0 ∧ twoUnits.ready [0] [0] = true ∧ twoUnits.keeper = false ∧ rising twoUnits.units ∧ (twoUnits.coreOf twoUnits.cu.core).running = some twoUnits.uid ∧
    (twoUnits.coreOf twoUnits.cu.core).unpowered = false ∧ (twoUnits.coreOf twoUnits.cu.core).rerun = [] ∧ (twoUnits.coreOf twoUnits.cu.core).preloaded = none ∧
    twoUnits.readyOn twoUnits.cu.core ≠ [] ∧ ∀ p ∈ twoUnits.readyOn twoUnits.cu.core, p.1 ≠ twoUnits.cu.idx ∧ p.2 ≠ twoUnits.uid := by
  unfold rising; decide +kernel
theorem witness_sheavesArrive :
    sheaf.who = .sheaf 0 ∧ sheaf.ready [] [] = true ∧ sheaf.episode sheaf.cu = some 0 ∧ sheaf.sh.arrived = none ∧
    (sheaf.modSh (fun x => { x with arrived := some 0 })).sh.arrived = some 0 := by decide +kernel

/-! ### System words and END -/

theorem witness_systemRegisters :
    keeper.who = .reeve 0 ∧ keeper.ready [1] [1] = true ∧ sysOk 3 0x05 = true ∧ sysOk 0 0x0C = true ∧ keeper.keeper = true ∧
    keeper.cu.owns 0 3 = true ∧ reachable keeper 3 = true ∧ writable 0x05 true = true ∧ writable 0x0F true = false ∧ sysOk 0 0x0F = true ∧
    sysOk 7 0x00 = true ∧ keeper.cu.owns 0 7 = false ∧
    reachable (keeper.modCu (fun u => { u with sheaves := [(3, { Sheaf.reset with busy := true })] })) 3 = false := by decide +kernel
theorem witness_sysInTaskMode : task.who = .reeve 0 ∧ keeperOnly (.sysrd 1 0 0x10) = false ∧ sysOk 0 0x10 = true := by decide +kernel
/-- Unit 0 with a second reeve, ended or not. -/
def pair (e : Bool) : State := task.modCu (fun u => { u with rv := 2, reeves := [(0, reeve0), (1, { reeve0 with ended := e })] })
def initial : State := task.modCu (fun u => { u with initial := true, passId := 0 })
theorem witness_end :
    (pair false).ready [] [] = true ∧ (pair false).who = .reeve 0 ∧ (pair false).re.fail = none ∧ mayEnd (pair false) 0 ∧
    (pair false).cu.initial = false ∧ (∃ q < (pair false).cu.rv, q ≠ 0 ∧ ((pair false).cu.reeveOf q).ended = false) ∧ mayEnd (pair true) 0 ∧
    (∀ q < (pair true).cu.rv, q = 0 ∨ ((pair true).cu.reeveOf q).ended = true) ∧ rising (pair true).units ∧ (queued 1).re.fail = none ∧
    ¬mayEnd (queued 1) 0 ∧ mayEnd initial 0 ∧ initial.cu.initial = true ∧ wain.ready [] [] = true ∧ wain.who = .wain 0 := by
  refine ⟨?_, ?_, ?_, ?_, ?_, ?_, ?_, ?_, ?_, ?_, ?_, ?_, ?_, ?_⟩ <;> (try unfold mayEnd) <;> (try unfold rising) <;> decide +kernel
theorem witness_translationWords :
    let s := regs keeper [(1, 0x240000), (2, 0x240004), (3, 0x0100000000000000)]
    s.who = .reeve 0 ∧ s.ready [1, 1] [1, 1] = true ∧ s.keeper = true ∧ canonical (s.rd 3) = false ∧ canonical (s.rd 1) = true ∧
    s.invBusy s.cu.part (some ((s.rd 1).toNat % 2 ^ 16)) (pageCovered s ((s.rd 1).toNat % 2 ^ 16) (s.rd 1)) = false ∧
    s.invBusy s.cu.part (some ((s.rd 1).toNat % 2 ^ 16)) (fun _ => true) = false ∧ s.invBusy s.cu.part none (fun _ => true) = false ∧
    (s.rd 2).toNat % 64 ≠ 0 := by decide +kernel
/-- A directory entry of space 0 with room for one descriptor of the shard table. -/
def sharded0 : State :=
  { regs keeper [(1, 0x240000), (2, 1)] with
    hbm := memWrite keeper.hbm 0 (leBytes 16 (256 * 2 ^ 30 + 1 + 2 ^ 64 + 0x280 * 2 ^ 94)) }
theorem witness_shset :
    (sharded0.rd 1).toNat % 64 = 0 ∧
    ∃ x u, sharded0.xlate sharded0.xc .load false (sharded0.rd 1) 64 64 = .ok x u ∧
      answers (u.loadAt 0 (sharded0.rd 1) 64 x) (fun _ v => decide (v.pc = sharded0.pc ∧ v.cu.part = sharded0.cu.part ∧ v.cu.asid = sharded0.cu.asid ∧
        (sharded0.rd 3).toNat < (v.dirEntry 0 0).toNat / 2 ^ 64 % 2 ^ 11 ∧ (v.dirEntry 0 0).toNat / 2 ^ 64 % 2 ^ 11 ≤ (sharded0.rd 2).toNat)) = true :=
  ⟨by decide +kernel, exists_of_answers (by decide +kernel)⟩
/-- A remote store of a keeper that no peer has accepted. -/
def unaccepted : State := keeper.modRe (fun x => { x with stores := [⟨1, 0, 0x240000, 3, false, 0⟩] })
theorem witness_tlbinvWaits : unaccepted.keeper = true ∧ unaccepted.ready [1, 1] [1, 1] = true ∧ unaccepted.invBusy unaccepted.cu.part none (fun _ => true) = true := by
  decide +kernel

/-! ### Dual words -/

theorem witness_dualWords :
    dualReady ptr (.alu .add 4 2 3) (.br .eq 5 0 2) ∧ slotSays ptr (.alu .add 4 2 3) ≠ none ∧ slotSays ptr (.br .eq 5 0 2) = some none ∧
    slotGoes ptr (.br .eq 5 0 2) ≠ none ∧ dualReady sheaf (.alu .sra 14 2 3) (.li13 15 0x1FFF) ∧ slotSays sheaf (.li13 15 0x1FFF) ≠ none := by
  unfold dualReady
  refine ⟨⟨?_, ?_, ?_⟩, ?_, ?_, ?_, ⟨?_, ?_, ?_⟩, ?_⟩ <;> decide +kernel
/-- A load in either slot, and a store, beside an add. -/
theorem witness_dualAccesses :
    dualReady ptr (.ldD 6 1 8) (.alu .add 5 2 3) ∧ dualReady ptr (.alu .add 4 2 3) (.stW 2 1 0x1FFC) ∧ slotSays ptr (.alu .add 4 2 3) ≠ none ∧ slotSays ptr (.alu .add 5 2 3) ≠ none ∧
    noHold ptr ∧ slotLoads (.ldD 6 1 8) = some (6, 1, 8, 8) ∧ slotStores (.stW 2 1 0x1FFC) = some (2, 1, 0x1FFC, 4) ∧
    (∃ x u, ptr.xlate ptr.xc .load false (wrap ((ptr.rd 1).toInt + (8 : BitVec 13).toInt)) 8 8 = .ok x u ∧
      (decide (viewOf u.cu (wrap ((ptr.rd 1).toInt + (8 : BitVec 13).toInt)).toNat 8 = none) && (localByte u x 8).isSome && isHbm x) = true) ∧
    ∃ x u, ptr.xlate ptr.xc .store false (wrap ((ptr.rd 1).toInt + (0x1FFC : BitVec 13).toInt)) 4 4 = .ok x u ∧
      (u.units.any (fun p => p.2.recorded) == false &&
        u.cu.views.any (fun p => match p.2 with | some v => !v.tiles.isEmpty | none => false) == false && isHbm x) = true := by
  unfold dualReady noHold
  refine ⟨⟨?_, ?_, ?_⟩, ⟨?_, ?_, ?_⟩, ?_, ?_, ?_, ?_, ?_, exists_of_answers ?_, exists_of_answers ?_⟩ <;> decide +kernel
/-- A vector slot on a reeve, in either slot; a misaligned load in slot A; two writes of one register. -/
theorem witness_dualTraps :
    (Instr.dualWord (.vec .vadd 2 2 4) .nop).wf = true ∧ ptr.off = false ∧ runsIn (slotRuns (slotOp (.vec .vadd 2 2 4))) ptr.who = false ∧
    (Instr.dualWord .nop (.vmv 1 2)).wf = true ∧ runsIn (slotRuns (slotOp (.vmv 1 2))) ptr.who = false ∧ runsIn (slotRuns (slotOp .nop)) ptr.who = true ∧
    (∀ r ∈ slotScalars .nop, ptr.badReg r = false) ∧ dualReady ptr (.ldD 6 1 1) .nop ∧
    (match ptr.slotStop (.dualWord (.ldD 6 1 1) .nop) (.ldD 6 1 1) with | some (.trap f _) => f.code == 0x05 | _ => false) = true := by
  unfold dualReady; decide +kernel

/-! ### Steps -/

/-- The unit's turn to execute comes next, at a NOP. -/
def turned : State := { task with turns := [.run 1 (.reeve 0)], hbm := memWrite task.hbm 0x200000 (wordBytes (encode .nop)) }
theorem witness_steps :
    (∃ v w u, executes turned (1, .reeve 0) v ∧ v.fetchWord = .ok w u ∧ (decode w == some .nop) = true) ∧
    executes task (1, .reeve 0) (task.tick.setAgent (1, .reeve 0)) ∧ sheaf.who = .sheaf 0 ∧ sheaf.sh.pc.toNat = sheaf.sh.blockAddr.toNat + 8 * 0 ∧
    sheaf.sh.block[0]? = some 0 ∧ ({ task with turns := [.event (.quantumExpiry 0)] } : State).turns = .event (.quantumExpiry 0) :: [] := by
  refine ⟨?_, ⟨by decide +kernel, .inr ⟨by decide +kernel, by decide +kernel, by decide +kernel, rfl⟩⟩, by decide +kernel, by decide +kernel,
    by decide +kernel, rfl⟩
  obtain ⟨w, u, h⟩ := exists_of_answers (x := ({ turned.tick with turns := [] } : State).setAgent (1, .reeve 0) |>.fetchWord)
    (p := fun w _ => decode w == some .nop) (by decide +kernel)
  exact ⟨_, w, u, ⟨rfl, .inl ⟨[], rfl, ⟨by decide +kernel, fun r hr => by cases hr; decide +kernel⟩, rfl⟩⟩, h⟩
theorem witness_fetches :
    task.re.fetchBuf = [] ∧ task.fetchAhead = 0 ∧
    ∃ x u, task.xlate task.xc .fetch false task.pc 8 8 = .ok x u ∧ (isHbm x && (localByte u x 8).isSome) = true :=
  ⟨by decide +kernel, by decide +kernel, exists_of_answers (by decide +kernel)⟩
/-- An event that is due: a core's running unit has been blocked for 4,096 cycles and another is ready. -/
def blocked : State := { twoUnits.modRe (fun x => { x with waited := 4096, wait := some .bar }) with turns := [] }
theorem witness_dueEvents : blocked.device = [] ∧ blocked.turns = [] ∧ blocked.due = some (.blockedTimeout 0) := by decide +kernel
/-- An unassigned opcode and tag 11 at the program counter. -/
theorem witness_undecodable :
    (∃ w u, ({ task with hbm := memWrite task.hbm 0x200000 (leBytes 8 (0xFF * 2 ^ 54)) } : State).fetchWord = .ok w u ∧ (decode w == none && !u.off) = true) ∧
    ∃ w u, ({ task with hbm := memWrite task.hbm 0x200000 (leBytes 8 (3 * 2 ^ 62)) } : State).fetchWord = .ok w u ∧
      (decode w == none && !u.off && w.toNat / 2 ^ 62 == 3) = true :=
  ⟨exists_of_answers (by decide +kernel), exists_of_answers (by decide +kernel)⟩
theorem witness_canonical : Canonical task ∧ Canonical State.reset := by unfold Canonical rising; decide +kernel
theorem witness_memoryWrites : KMap.wf 0 task.hbm = true ∧ KMap.wf 0 (memWrite task.hbm 0x200000 [0, 1]) = true := by decide +kernel

/-! ### Vector words -/

theorem not_interlocked {s : State} {l : List (Reg × Nat)} (h : s.cu.mq = []) : ¬interlocked s l := by
  rintro ⟨_, e, _, _, _, he, _⟩; rw [h] at he; cases he
/-- How many registers a destination group may have. -/
def dstLim (i : Instr) : Nat := match i with | .ve8d .. => 32 | _ => 8
/-- Premises of the vector statements but the last, as one test. -/
def vecReadyB (s : State) (i : Instr) (R : VecRule) : Bool :=
  i.wf && mayRun i s.who && s.ready R.scalars R.scalars && s.sh.vPoison == [] && s.sh.mPoison == [] && (!R.typed || (!s.sh.vt.getLsbD 63 && decide (s.sh.vl ≤ vlmaxOf s s.sh.vt))) &&
    R.ok && (groupsOf R).all (fun p => groupFits p.1 p.2 R.lim) &&
    R.writes.all (fun w => groupFits w.dst w.count (dstLim i)) && @decide (writesApart R) (by unfold writesApart; infer_instance)
theorem vecReady_of {s : State} {i : Instr} {R : VecRule} (h : vecReadyB s i R = true) : i.wf = true ∧ vecReady s i R := by
  simp only [vecReadyB, Bool.and_eq_true, List.all_eq_true, decide_eq_true_eq, beq_iff_eq, Bool.or_eq_true, Bool.not_eq_true'] at h
  obtain ⟨⟨⟨⟨⟨⟨⟨⟨⟨h1, h2⟩, h3⟩, h4⟩, hm⟩, h5⟩, h6⟩, h7⟩, h8⟩, h9⟩ := h
  refine ⟨h1, h2, h3, h4, hm, fun ht => ?_, h6, h7, h8, h9⟩
  rcases h5 with h5 | h5
  · rw [ht] at h5; cases h5
  · exact h5
theorem exists_some {α : Type} {o : Option α} {p : α → Bool} (h : o.any p = true) : ∃ R, o = some R ∧ p R = true := by
  cases o with
  | some R => exact ⟨R, rfl, h⟩
  | none => cases h
theorem exists_ready {s : State} {i : Instr} (h : (vecRule s i).any (vecReadyB s i) = true) :
    i.wf = true ∧ ∃ R, vecRule s i = some R ∧ vecReady s i R := by
  obtain ⟨R, e, h⟩ := exists_some h
  exact ⟨(vecReady_of h).1, R, e, (vecReady_of h).2⟩
/-- `%vt` set to another image. -/
def typed (v : Word) : State := sheaf.modSh (fun x => { x with vt := v })
theorem witness_vectorWords :
    (∃ R, vecRule sheaf (.vfadd ⟨63, 0, 15, 9, .f32, true⟩) = some R ∧ vecReady sheaf (.vfadd ⟨63, 0, 15, 9, .f32, true⟩) R) ∧
    (∃ R, vecRule sheaf (.vtopk true 64 4 1 15 0) = some R ∧ vecReady sheaf (.vtopk true 64 4 1 15 0) R) ∧
    (∃ R, vecRule (typed 0x8411) (.ve8d .f32 1 ⟨32, 4, 0, .i8⟩) = some R ∧ vecReady (typed 0x8411) (.ve8d .f32 1 ⟨32, 4, 0, .i8⟩) R) ∧
    (∃ R, vecRule wain (.vfmul ⟨8, 9, 10, 0, .i8, false⟩) = some R ∧ vecReady wain (.vfmul ⟨8, 9, 10, 0, .i8, false⟩) R) ∧
    ¬interlocked sheaf [(0, 1), (63, 1)] ∧ sheaf.cu.sxPoison = [] :=
  ⟨(exists_ready (by decide +kernel)).2, (exists_ready (by decide +kernel)).2, (exists_ready (by decide +kernel)).2,
    (exists_ready (by decide +kernel)).2, not_interlocked (by decide +kernel), by decide +kernel⟩
/-- A matrix entry of reeve 0 from before sheaf 0's block names `v0` to `v3` of sheaves 0 to 3. -/
def entry0 : MEntry :=
  { kind := .mma, reeve := 0, iaddr := 0x200000, pair := 0, fmt := 0, kBlocks := 1, sn := 0, sm := 3, vd := 0, acc := 0, a := 0x300000, sa := 0,
    b := 0x310000, sb := 0, c := 0, tl := 0, adv := false, start := none, startMet := 0, started := false, rows := 0, kb := 0, flags := 0, seq := 1,
    ord := 1, vt := some 19010, fault := none, reported := false }
def locked : State := (sheaf.modCu (fun u => { u with mq := [entry0] })).modSh (fun x => { x with blockSeq := 2 })
theorem witness_vectorWordsAreChecked :
    (∃ R, vecRule (typed vtReset) (.vadd ⟨1, 2, 3, 0, .i8, false⟩) = some R ∧ (R.typed && (typed vtReset).sh.vt.getLsbD 63) = true) ∧
    (∃ R, vecRule sheaf (.vadd ⟨1, 2, 3, 0, .i32, false⟩) = some R ∧ (R.typed && typeField (.vadd ⟨1, 2, 3, 0, .i32, false⟩) != 0 &&
      typeField (.vadd ⟨1, 2, 3, 0, .i32, false⟩) != tyCode sheaf.ty) = true) ∧
    (∃ R, vecRule (typed 19018) (.vfadd ⟨1, 2, 4, 0, .i8, false⟩) = some R ∧
      (R.typed && R.ok && (groupsOf R).any (fun p => !groupFits p.1 p.2 32)) = true) ∧
    ∃ R, vecRule locked (.vfadd ⟨4, 3, 5, 0, .i8, false⟩) = some R ∧ vecReady locked (.vfadd ⟨4, 3, 5, 0, .i8, false⟩) R ∧
      interlocked locked (groupsOf R) := by
  refine ⟨exists_some (by decide +kernel), exists_some (by decide +kernel), exists_some (by decide +kernel), ?_⟩
  obtain ⟨R, e, h⟩ := exists_some (o := vecRule locked (.vfadd ⟨4, 3, 5, 0, .i8, false⟩))
    (p := fun R => vecReadyB locked (.vfadd ⟨4, 3, 5, 0, .i8, false⟩) R && (groupsOf R).contains (3, 1)) (by decide +kernel)
  rw [Bool.and_eq_true, List.contains_iff_mem] at h
  exact ⟨R, e, (vecReady_of h.1).2, 0, entry0, (3, 1), 0, by decide +kernel, by decide +kernel, by decide +kernel, by decide +kernel,
    by decide +kernel, by decide +kernel, h.2, by decide +kernel, by decide +kernel, by decide +kernel⟩
theorem witness_maskWords :
    (∃ R, maskRule sheaf (.vfcmp .un ⟨7, 1, 2, 0, .i8, false⟩) = some R ∧ (mayRun (.vfcmp .un ⟨7, 1, 2, 0, .i8, false⟩) sheaf.who &&
      sheaf.ready R.scalars R.scalars && sheaf.sh.vPoison == [] && R.ok && !sheaf.sh.vt.getLsbD 63 && R.reads.all (fun p => groupFits p.1 p.2 8)) = true) ∧
    lengthFits sheaf ∧
    ∃ R, maskRule (typed vtReset) (.mlog 6 1 0 7) = some R ∧ (mayRun (.mlog 6 1 0 7) sheaf.who && (typed vtReset).ready R.scalars R.scalars &&
      (typed vtReset).sh.vPoison == [] && R.ok && !R.typed) = true := by
  refine ⟨exists_some (by decide +kernel), ?_, exists_some (by decide +kernel)⟩
  unfold lengthFits; decide +kernel
theorem witness_scalarResults :
    vecCtx sheaf (.vsetvl 15 0) [15, 0] [0] ∧ sheaf.sh.vt.getLsbD 63 = false ∧ vecCtx (typed vtReset) (.vsetvl 1 2) [1, 2] [] ∧
    (typed vtReset).sh.vt.getLsbD 63 = true ∧ vecCtx wain (.vsett true 5 0) [5] [5] ∧ vecCtx sheaf (.mpop 1 7 15) [1] [] ∧
    vecCtx sheaf (.mfst 1 0 0) [1] [] ∧ vecCtx sheaf (.vmvh true 1 63 2 .i8) [1, 2] [2] ∧ fits sheaf .i8 = true ∧ anyTy sheaf.ty = true ∧
    lengthFits sheaf ∧ groupFits 63 sheaf.grp 8 = true := by
  unfold vecCtx lengthFits; decide +kernel
theorem witness_vectorSlots :
    dualReady sheaf (.vec .vfadd 2 4 6) (.vmv 3 2) ∧ lengthFits sheaf ∧
    ∃ A, vecSlot sheaf (.vec .vfadd 2 4 6) = some A ∧ (vecSlot sheaf (.vmv 3 2)).any (fun B =>
      let R := bothOf A B
      R.ok && !sheaf.sh.vt.getLsbD 63 && sheaf.sh.vPoison == [] && (groupsOf R).all (fun p => groupFits p.1 p.2 8) &&
        @decide (writesApart R) (by unfold writesApart; infer_instance)) = true := by
  refine ⟨⟨by decide +kernel, by decide +kernel, by decide +kernel⟩, ?_, exists_some (by decide +kernel)⟩
  unfold lengthFits; decide +kernel

/-! ### Loops and blocks -/

/-- A block of eight words whose last is `vend`, with loop registers and a count in `h1`, a stage word in `h2`. -/
def looped (l : KMap Loop) : State :=
  sheaf.modSh (fun x => { x with
    block := List.replicate 7 0 ++ [0x3540000000000000], lp := l, h := [(1, 3), (2, 1)] })
theorem witness_loops :
    let w : Instr := .loop 0 true 0 (1 : BitVec 16) 7
    vecCtx (looped []) w [] [] ∧ loopFault (looped []).sh 0 (wordsOn (looped []) 7) false = none ∧
    loopFault (looped []).sh 0 (wordsOn (looped []) 8) false = some 2 ∧
    loopFault (looped [(0, ⟨0x200008, 0x200018, 2⟩)]).sh 0 (wordsOn (looped []) 7) false = some 1 ∧
    loopFault (looped [(0, ⟨0x200008, 0x200018, 2⟩)]).sh 1 (wordsOn (looped []) 7) false = some 3 := by
  unfold vecCtx; decide +kernel
theorem witness_sloop :
    let i : Instr := .sloop 1 1 2 1 8 5
    vecCtx (looped []) i [1, 2] [1, 2] ∧ (looped []).sh.vt.getLsbD 63 = false ∧
    loopFault (looped []).sh 1 (wordsOn (looped []) 5) (sloopOut ((looped []).rd 2) 2 8 1 5) = none ∧ ((looped []).rd 1).toNat ≠ 0 ∧
    ((looped []).rd 3).toNat = 0 ∧ loopFault (looped []).sh 1 (wordsOn (looped []) 5) (sloopOut ((looped []).rd 2) 2 33 1 5) = some 2 := by
  unfold vecCtx; decide +kernel
theorem witness_lpbrk :
    let s := looped [(0, ⟨0x200008, 0x200018, 2⟩)]
    vecCtx s (.lpbrk 0 false 1) [1] [1] ∧ s.rd 1 ≠ 0 ∧ s.rd 3 = 0 ∧ (loopOf s.sh 0).count ≠ 0 ∧ (loopOf s.sh 1).count = 0 := by
  unfold vecCtx; decide +kernel
/-- Both loops end at the word that follows; their counts. -/
def nested (c0 c1 : Word) (slp : Word) : Sheaf :=
  { Sheaf.reset with lp := [(0, ⟨0x200008, 0x200018, c0⟩), (1, ⟨0x200010, 0x200018, c1⟩)], slp := slp, rrb := 8 * 2 ^ 8, stg := 1 }
theorem witness_backEdges :
    let l := fun (x : Sheaf) (k : Nat) => loopOf x k
    ((l (nested 0 0 0) 1).count = 0 ∧ (l (nested 0 0 0) 0).count = 0) ∧
    ((l (nested 2 2 0) 1).count ≠ 0 ∧ 0x200018 = (l (nested 2 2 0) 1).stop ∧ 1 < (l (nested 2 2 0) 1).count.toNat) ∧
    (piped (nested 0 2 0xC100000000000001) = true ∧ pipeLoop (nested 0 2 0xC100000000000001) = 1) ∧
    ((l (nested 0 1 0) 1).count ≠ 0 ∧ ¬1 < (l (nested 0 1 0) 1).count.toNat ∧ (l (nested 0 1 0) 0).count = 0) ∧
    ((l (nested 2 1 0) 1).count ≠ 0 ∧ ¬1 < (l (nested 2 1 0) 1).count.toNat ∧ 1 < (l (nested 2 1 0) 0).count.toNat) := by decide +kernel
/-- A sheaf with `n` replies queued. -/
def replied (n : Nat) : State := sheaf.modSh (fun x => { x with replies := List.replicate n 1 })
theorem witness_blockWords :
    (replied 15).who = .sheaf 0 ∧ (replied 15).ready [15] [15] = true ∧ (replied 15).sh.replies.length < 16 ∧ 16 ≤ (replied 16).sh.replies.length ∧
    sheaf.ready [] [] = true ∧ (15 : BitVec 8).toNat < 2 ^ sheaf.cu.nSheaves ∧ (15 : BitVec 8).getLsbD 0 = true ∧ sheaf.sh.vbarsAt = none ∧
    (sheaf.modSh (fun x => { x with vbarsAt := some (15, 0) })).sh.vbarsAt = some (15, 0) := by decide +kernel

/-! ### Vector memory -/

/-- Scalar registers of sheaf 0, `v1` indices 0, 4, 8, 12 and `v2` data, over memory whose word at 0x240000 is 1. -/
def vmem (h1 : Word) : State :=
  { sheaf.modSh (fun x => { x with
      h := [(1, h1), (2, 8)], v := [(1, 0x0000000C000000080000000400000000), (2, 0x3F8000003F800000)] }) with
    hbm := memWrite task.hbm 0x240000 (leBytes 4 1) }
/-- TYPE and TYPE2 i32, for atomics and indices. -/
def imem (h1 : Word) : State := (vmem h1).modSh (fun x => { x with vt := 4226 })
/-- Plain local pieces: HBM that is not sealed, without an uncorrectable error, and no view over it. -/
def plainPieces (u : State) (l : List Placed) : Bool :=
  l.all (fun a => a.2.all (fun p => isHbm p.2.2 && (localByte u p.2.2 p.2.1).isSome && viewOf u.cu p.1.toNat p.2.1 == none))
theorem eq_hbm_of_isHbm {x : Phys} (h : isHbm x = true) : ∃ pa, x = .hbm pa false := by
  unfold isHbm at h; split at h
  · exact ⟨_, rfl⟩
  · cases h
theorem plainPieces_places {u : State} {l : List Placed} (h : plainPieces u l = true) : localPlaces u l ∧ plainPlaces u l := by
  simp only [plainPieces, List.all_eq_true, Bool.and_eq_true, beq_iff_eq] at h
  constructor <;> intro a ha p hp <;> obtain ⟨⟨h1, h2⟩, h3⟩ := h a ha p hp <;> obtain ⟨pa, hx⟩ := eq_hbm_of_isHbm h1
  · refine ⟨h2, h3, ?_, ?_⟩
    · intro _ e; rw [hx] at e; cases e
    · intro _ _ e; rw [hx] at e; cases e
  · refine ⟨by rw [hx]; rfl, h3, h2, ?_⟩
    intro _ _ e; rw [hx] at e; cases e
/-- The premises of a vector memory word but the interlock, as one test. -/
def memReadyB (s : State) (i : Instr) (f : MemForm) : Bool :=
  i.wf && mayRun i s.who && s.ready f.scalars f.scalars && s.sh.vPoison == [] && s.sh.mPoison == [] && !s.sh.vt.getLsbD 63 && decide (s.sh.vl ≤ vlmaxOf s s.sh.vt) && f.ok &&
    ((f.x.d, s.grp) :: f.index).all (fun p => groupFits p.1 p.2 8) && s.cu.mq == []
theorem memReady_of {s : State} {i : Instr} {f : MemForm} (h : memReadyB s i f = true) : i.wf = true ∧ memReady s i f := by
  simp only [memReadyB, Bool.and_eq_true, List.all_eq_true, decide_eq_true_eq, beq_iff_eq, Bool.not_eq_true'] at h
  obtain ⟨⟨⟨⟨⟨⟨⟨⟨⟨h1, h2⟩, h3⟩, h4⟩, hm⟩, h5⟩, h6⟩, h7⟩, h8⟩, h9⟩ := h
  exact ⟨h1, h2, h3, h4, hm, h5, h6, h7, h8, not_interlocked h9⟩
theorem exists_form {s : State} {i : Instr} {o : Option MemForm} {p : MemForm → Bool} (h : o.any (fun f => memReadyB s i f && p f) = true) :
    ∃ f, o = some f ∧ memReady s i f ∧ p f = true := by
  obtain ⟨f, e, h⟩ := exists_some h
  rw [Bool.and_eq_true] at h
  exact ⟨f, e, (memReady_of h.1).2, h.2⟩
/-- What a load's or store's translation gives: whether it stops, at which element, and whether its places are plain. -/
def reach (s : State) (k : Kind) (f : MemForm) (lo : Nat) (stop : Option Nat) : Bool :=
  let r := s.vxlate k (accessList s f.x.q lo f.place)
  plainPieces (r.2.2.migrateAll (vpieces r.1)) r.1 && r.2.1.map (fun p => p.1.el) == stop
/-- A whole load in an indexed and a strided form; one that fails past its first element, and one that fails at it. -/
theorem witness_vectorLoads :
    (∃ f, loadForm (imem 0x240000) (.vldx 1 ⟨3, 1, 0, .i32⟩ bothM) = some f ∧ memReady (imem 0x240000) (.vldx 1 ⟨3, 1, 0, .i32⟩ bothM) f ∧
      (((imem 0x240000).loadGate f.m).isNone && reach (imem 0x240000) .load f 0 none) = true) ∧
    (∃ f, loadForm (vmem 0x240000) (.vlds 2 ⟨3, 1, 0, .i8⟩ 4 bothM) = some f ∧ memReady (vmem 0x240000) (.vlds 2 ⟨3, 1, 0, .i8⟩ 4 bothM) f ∧
      (((vmem 0x240000).loadGate f.m).isNone && reach (vmem 0x240000) .load f 0 none) = true) ∧
    (∃ f, loadForm (vmem 0x37FFFFF8) (.vld ⟨3, 1, 0, .i8⟩ 0 bothM) = some f ∧ memReady (vmem 0x37FFFFF8) (.vld ⟨3, 1, 0, .i8⟩ 0 bothM) f ∧
      (((vmem 0x37FFFFF8).loadGate f.m).isNone && reach (vmem 0x37FFFFF8) .load f 0 (some 2) &&
        (accessList (vmem 0x37FFFFF8) f.x.q 0 f.place).head?.map (·.el) != some 2) = true) ∧
    ∃ f, loadForm (vmem 0x38000000) (.vld ⟨3, 1, 0, .i8⟩ 0 bothM) = some f ∧ memReady (vmem 0x38000000) (.vld ⟨3, 1, 0, .i8⟩ 0 bothM) f ∧
      (reach (vmem 0x38000000) .load f 0 (some 0) && (accessList (vmem 0x38000000) f.x.q 0 f.place).head?.map (·.el) == some 0) = true :=
  ⟨exists_form (by decide +kernel), exists_form (by decide +kernel), exists_form (by decide +kernel),
    exists_form (by decide +kernel)⟩
theorem plainStores_of {u : State} (h : (u.units.any (fun p => p.2.recorded) ||
    u.cu.views.any (fun p => match p.2 with | some v => !v.tiles.isEmpty | none => false)) = false) : plainStores u := by
  rw [Bool.or_eq_false_iff] at h; exact h
def quiet (u : State) : Bool :=
  !(u.units.any (fun p => p.2.recorded) || u.cu.views.any (fun p => match p.2 with | some v => !v.tiles.isEmpty | none => false)) &&
    u.shardOut == [] && u.cu.replies == []
theorem witness_vectorStores :
    (∃ f, storeForm (vmem 0x240000) (.vsts 2 ⟨2, 1, 0, .i8⟩ 0 bothM) = some f ∧ memReady (vmem 0x240000) (.vsts 2 ⟨2, 1, 0, .i8⟩ 0 bothM) f ∧
      (((vmem 0x240000).orderGate (releases f.m) f.m true).isNone && startOf (vmem 0x240000) == 0 && reach (vmem 0x240000) .store f 0 none &&
        quiet ((vmem 0x240000).vxlate .store (accessList (vmem 0x240000) f.x.q 0 f.place)).2.2) = true) ∧
    ∃ f, storeForm (vmem 0x37FFFFF8) (.vst ⟨2, 1, 0, .i8⟩ 0 plainM) = some f ∧ memReady (vmem 0x37FFFFF8) (.vst ⟨2, 1, 0, .i8⟩ 0 plainM) f ∧
      (((vmem 0x37FFFFF8).orderGate (releases f.m) f.m true).isNone && reach (vmem 0x37FFFFF8) .store f 0 (some 2) &&
        quiet ((vmem 0x37FFFFF8).vxlate .store (accessList (vmem 0x37FFFFF8) f.x.q 0 f.place)).2.2) = true :=
  ⟨exists_form (by decide +kernel), exists_form (by decide +kernel)⟩
theorem witness_vectorAtomics :
    let f (s : State) := indexForm s 1 ⟨2, 1, 0, .i8⟩ bothM
    memReady (imem 0x240000) (.vamo .add 1 ⟨2, 1, 0, .i8⟩ bothM) (f (imem 0x240000)) ∧ amoTypes .add (imem 0x240000).ty = true ∧
    (imem 0x240000).orderGate (releases bothM) bothM false = none ∧ startOf (imem 0x240000) = 0 ∧
    reach (imem 0x240000) .atomic (f (imem 0x240000)) 0 none = true ∧ reach (imem 0x37FFFFF8) .atomic (f (imem 0x37FFFFF8)) 0 (some 2) = true ∧
    memReady (imem 0x37FFFFF8) (.vamo .add 1 ⟨2, 1, 0, .i8⟩ bothM) (f (imem 0x37FFFFF8)) ∧
    quiet ((imem 0x240000).vxlate .atomic (accessList (imem 0x240000) 0 0 (f (imem 0x240000)).place)).2.2 = true ∧
    (imem 0x240000).thresher = [] ∧ (imem 0x240000).shardOut = [] :=
  ⟨(memReady_of (by decide +kernel)).2, by decide +kernel, by decide +kernel, by decide +kernel, by decide +kernel, by decide +kernel,
    (memReady_of (by decide +kernel)).2, by decide +kernel, by decide +kernel, by decide +kernel⟩
theorem witness_maskMoves :
    vecCtx (vmem 0x240000) (.vldm 7 1 0) [1] [1] ∧ (vmem 0x240000).loadGate plainMem = none ∧
    (let r := (vmem 0x240000).vxlate .load (maskAccesses (vmem 0x240000) 1 0)
     (plainPieces (r.2.2.migrateAll (vpieces r.1)) r.1 && r.2.1.isNone) = true) ∧
    vecCtx (vmem 0x240000) (.vstm 0 1 0) [1] [1] ∧ (vmem 0x240000).orderGate false plainMem true = none ∧
    (let r := (vmem 0x240000).vxlate .store (maskAccesses (vmem 0x240000) 1 0)
     (plainPieces (r.2.2.migrateAll (vpieces r.1)) r.1 && r.2.1.isNone && quiet (r.2.2.migrateAll (vpieces r.1))) = true) ∧
    vecCtx (vmem 0x38000000) (.vstm 0 1 0) [1] [1] ∧
    (let r := (vmem 0x38000000).vxlate .store (maskAccesses (vmem 0x38000000) 1 0)
     (plainPieces (r.2.2.migrateAll (vpieces r.1)) r.1 && r.2.1.isSome && quiet (r.2.2.migrateAll (vpieces r.1))) = true) := by
  unfold vecCtx; decide +kernel
/-- A stream page of the loft at 0x40000000 and a stream buffer of 64 bytes there that holds `fill` bytes from offset 56 on. -/
def streamed (h1 : Word) (fill : Nat) : State :=
  { (vmem h1).modCu (fun u => { u with streams := [⟨0, 64, 56, (56 + fill) % 64, fill⟩], loft := [(56, 1)] }) with
    hbm := memWrite (memWrite (memWrite task.hbm 0x120008 (leBytes 8 (320 * 2 ^ 30 + 1))) 0x140000 (leBytes 8 (352 * 2 ^ 30 + 1))) 0x160000
      (leBytes 8 0x1167) }
theorem witness_consumingLoads :
    memReady (streamed 0x40000000 16) (.vldC ⟨3, 1, 0, .i8⟩ 0) (unitForm (streamed 0x40000000 16) ⟨3, 1, 0, .i8⟩ 0 plainMem) ∧
    oneEach (streamed 0x40000000 16).ty = true ∧
    (∃ x u, (streamed 0x40000000 16).xlate (streamed 0x40000000 16).xc .load true (addr (streamed 0x40000000 16) 1 0) 1 1 = .ok x u ∧
      (x == .loft 1 0 && (match u.leafFor u.xc (addr (streamed 0x40000000 16) 1 0) with | some (some l) => pteStream l.pte | _ => false) &&
        u.cu.streamAt 0 == some 0 && u.cu.streams[0]? == some ⟨0, 64, 56, 8, 16⟩ && (u.unitOf 1).loftResident) = true) ∧
    (streamed 0x40000000 15).cu.streams[0]? = some ⟨0, 64, 56, 7, 15⟩ ∧
    (∃ x u, (streamed 0x240000 16).xlate (streamed 0x240000 16).xc .load true (addr (streamed 0x240000 16) 1 0) 1 1 = .ok x u ∧ isHbm x = true) ∧
    ((streamed 0x40000000 16).modSh (fun x => { x with vl := 17 })).sh.vl * 4 = 68 :=
  ⟨(memReady_of (by decide +kernel)).2, by decide +kernel, exists_of_answers (by decide +kernel), by decide +kernel, exists_of_answers (by decide +kernel),
    by decide +kernel⟩

/-! ### Sharded words, selections, statex words -/

/-- A shard table of one descriptor: 16 words at 0x240000, all on this package; `v2` and `v3` hold the indices 0 to 3. -/
def shardDesc : Desc := BitVec.ofNat 512 (0x03020101 + 2 ^ 128 * 16 + 2 ^ 192 * 16 + 2 ^ 320 + 2 ^ 448 * 0x240000)
def shardState (d : Desc) : State :=
  ({ sheaf.modSh (fun x => { x with v := [(2, 3 * 2 ^ 192 + 2 * 2 ^ 128 + 2 ^ 64), (4, 5)] }) with
      hbm := memWrite task.hbm 0 (leBytes 16 (256 * 2 ^ 30 + 1 + 2 ^ 64 + 0x280 * 2 ^ 94)) } : State).shWrite 0 0 0 d
/-- The same with its request answered: each element's word. -/
def answered (write : Bool) : State :=
  { shardState shardDesc with
    shardOut := [⟨1, 1, 2, 0, 0, 0, 0, write, false, true, [(0, 0, []), (1, 1, []), (2, 2, []), (3, 3, [])],
      some 0, 0, [(0, [1, 0, 0, 0]), (1, [2, 0, 0, 0]), (2, [3, 0, 0, 0]), (3, [4, 0, 0, 0])]⟩] }
def oneForm (s : State) : MemForm := ⟨⟨4, 1, 0, .i8⟩, [(2, regsAt s 64)], [1], fits s .i8 && oneEach s.ty, fun _ => 0, plainM⟩
theorem witness_shardPlaces : sdValid shardDesc = true ∧ 15 < sdCount shardDesc := by decide +kernel
theorem witness_shardedLoads :
    (Instr.vlsh 2 ⟨4, 1, 0, .i8⟩ plainM).wf = true ∧ memReady (answered false) (.vlsh 2 ⟨4, 1, 0, .i8⟩ plainM) (oneForm (answered false)) ∧
    (answered false).shDesc 0 0 ((answered false).rd 1).toNat = some shardDesc ∧ 8 * sdSize shardDesc = (answered false).sew ∧
    (answered false).loadGate plainM = none ∧
    (∃ r u, (answered false).shardAccess 0 shardDesc false (fun e => sdAddr shardDesc (el (answered false) 2 64 e))
      ((picked (answered false) 0).map (fun e => (e, el (answered false) 2 64 e, []))) = .ok r u ∧
      r.all (fun p => match p.2 with | .ok _ => true | .error _ => false) = true) ∧
    memReady (shardState 0) (.vlsh 2 ⟨4, 1, 0, .i8⟩ plainM) (oneForm (shardState 0)) ∧ (shardState 0).shDesc 0 0 0 = some 0 ∧ sdValid 0 = false :=
  ⟨by decide +kernel, (memReady_of (by decide +kernel)).2, by decide +kernel, by decide +kernel, by decide +kernel, exists_of_answers (by decide +kernel),
    (memReady_of (by decide +kernel)).2, by decide +kernel, by decide +kernel⟩
theorem witness_shardedStores :
    let s := answered true
    let items := ((picked s 0).filter (fun e => decide (startOf s ≤ e))).map (fun e => (e, el s 2 64 e, (List.range (s.sew / 8)).map (byteOf (el s 4 s.sew e))))
    (Instr.vssh 2 ⟨4, 1, 0, .i8⟩ plainM).wf = true ∧ memReady s (.vssh 2 ⟨4, 1, 0, .i8⟩ plainM) (oneForm s) ∧ s.orderGate (releases plainM) plainM true = none ∧ s.shDesc 0 0 0 = some shardDesc ∧
    items ≠ [] ∧ (∃ r u, s.shardAccess 0 shardDesc true (fun e => sdAddr shardDesc (el s 2 64 e)) items = .ok r u ∧
      r.all (fun p => match p.2 with | .ok _ => true | .error _ => false) = true) ∧ picked (s.modSh (fun x => { x with vl := 0 })) 0 = [] :=
  ⟨by decide +kernel, (memReady_of (by decide +kernel)).2, by decide +kernel, by decide +kernel, by decide +kernel, exists_of_answers (by decide +kernel),
    by decide +kernel⟩
theorem witness_selections :
    let t : Topk := ⟨0, 0, 0, 2, 0, [(0x40000000, 1), (0x3F800000, 0)]⟩
    t.pairs.Pairwise (fun x y => pairBefore x y = true) ∧ (∀ p ∈ t.pairs, p.1 < 2 ^ 32 ∧ isNaN (fdec f32F p.1) = false) ∧ t.pairs.length ≤ 2 ∧
      0x7FC00000 < 2 ^ 32 ∧ 0x40000000 < 2 ^ 32 := by decide +kernel
theorem witness_statexWords :
    sxCtx ptr (.sxini 7 1 false 0) [1] [1] ∧ sxInit (ptr.rd 4) = none ∧ (sxInit 0x20100).isSome = true ∧ sxCtx ptr (.sxclr 7) [] [] ∧ sxClean ptr 7 ∧
    sxCtx ptr (.sxtyp 0 7) [0] [] ∧ sxCtx sheaf (.sxmrg 7 6 false 0) [] [] ∧ (sxMerge (sxReg sheaf 7) (sxReg sheaf 6)).isSome = true := by
  unfold sxCtx sxClean; decide +kernel
/-- The unit's statex register 7 set from a header word; sheaf 0 executes. -/
def stat (w : Word) : State := sheaf.modCu (fun u => { u with sx := [(7, (sxInit w).getD 1)] })
theorem witness_merges :
    sxCtx (stat 0x20100) (.sxmrg 7 6 false 0) [] [] ∧ sxMerge (sxReg (stat 0x20100) 7) (sxReg (stat 0x20100) 6) = none ∧ sxClean (stat 0x20100) 6 := by
  unfold sxCtx sxClean; decide +kernel
/-- Does a query answer, and with which subcode not? -/
def queryStops (i : SxImage) (kind op : Nat) : Option Nat :=
  match sxQuery i kind op with
  | .ok _ => none
  | .error k => some k
theorem witness_queries :
    sxCtx (stat 0x20100) (.sxqry 1 7 2 true 0 0) [1, 2] [2] ∧ queryStops (sxReg (stat 0x20100) 7) 0 1 = none ∧
    queryStops (sxReg (stat 0x20100) 7) 0 2 = some 3 ∧ sxClean (stat 0x20100) 7 := by
  unfold sxCtx sxClean; decide +kernel
/-- An LSUM.f32 of two cells: cells 1 and 2 by the cell field, and a form it does not take. -/
theorem witness_updates :
    let s := stat 0x20100
    sxCtx s (.sxupd 7 3 0 0 1 .i8 1) [] [] ∧ s.sh.vt.getLsbD 63 = false ∧ fits s .i8 = true ∧ s.sh.vPoison = [] ∧ lengthFits s ∧ sxClean s 7 ∧
    (∀ p ∈ [((3 : Reg), s.grp)], groupFits p.1 p.2 8 = true) ∧ sxAccepts (sxType (sxReg s 7)) s.ty 1 = true ∧
    (¬∃ x ∈ contributions s 3 0 0 1 1 32, sxP0 (sxReg s 7) ≤ x.2.1) ∧ (∃ x ∈ contributions s 3 0 0 1 2 32, sxP0 (sxReg s 7) ≤ x.2.1) ∧
    sxType (sxReg s 7) = 1 ∧ sxAccepts (sxType (sxReg s 7)) s.ty 0 = false := by
  unfold sxCtx sxClean lengthFits; decide +kernel
/-- A merge in memory of reeve 0 that has been answered with status `v`. -/
def merged (v : Byte) : State := ptr.modCu (fun u => { u with replies := [⟨1, 0, 0, 0x240000, 0, some (.ok, [v, 1]), none, false⟩] })
theorem witness_mergeReplies :
    sxCtx (merged 1) (.sxstMrg 7 1 0) [1] [1] ∧ (addr (merged 1) 1 0).toNat % 64 = 0 ∧
    ((merged 1).cu.pendOf (merged 1).agentNo 0).map (·.reply) = some (some (.ok, [1, 1])) ∧
    ((merged 0).cu.pendOf (merged 0).agentNo 0).map (·.reply) = some (some (.ok, [0, 1])) := by
  unfold sxCtx; decide +kernel
/-- Lines of HBM, as `isHbm` tests pieces. -/
def plainLines (u : State) (l : List (Word × Phys)) : Bool :=
  l.all (fun p => isHbm p.2 && (localByte u p.2 64).isSome && viewOf u.cu p.1.toNat 64 == none)
theorem plainLines_local {u : State} {l : List (Word × Phys)} (h : plainLines u l = true) :
    localLines u l ∧ ∀ p ∈ l, (spaceOf p.2).isSome = true ∧ ∀ q o, p.2 = .loft q o → (u.unitOf q).loftResident = true ∧ u.routineStream = none := by
  simp only [plainLines, List.all_eq_true, Bool.and_eq_true, beq_iff_eq] at h
  constructor <;> intro p hp <;> obtain ⟨⟨h1, h2⟩, h3⟩ := h p hp <;> obtain ⟨pa, hx⟩ := eq_hbm_of_isHbm h1
  · refine ⟨h2, h3, ?_⟩
    intro _ e; rw [hx] at e; cases e
  · refine ⟨by rw [hx]; rfl, ?_⟩
    intro _ _ e; rw [hx] at e; cases e
/-- At 0x240000 the empty LSUM.f32 register of no cells, whose image is 1; at 0x250000 zeros, which are no image; 0x240020 is misaligned. -/
def imaged : State :=
  { regs task [(1, 0x240000), (2, 0x250000), (3, 0x240020)] with
    hbm := memWrite task.hbm 0x240000 [1] }
def lineTest (a : Reg) (k : Kind) (n : Nat) (p : State → List (Word × Phys) → Bool) : Bool :=
  answers (imaged.sxLines k (addr imaged a 0) n) (fun l u => plainLines (u.migrateAll l) l && quiet u && p (u.migrateAll l) l)
theorem witness_images :
    (∀ m ∈ [Instr.sxini 7 3 true 0, .sxmrg 7 3 true 0, .sxld 7 3 0, .sxst 7 3 0, .sxstMrg 7 3 0],
      mayRun m imaged.who = true ∧ imaged.ready [3] [3] = true) ∧ (addr imaged 3 0).toNat % 64 ≠ 0 ∧ (addr imaged 1 0).toNat % 64 = 0 ∧
    imaged.loadGate plainMem = none ∧
    lineTest 1 .load 64 (fun v l => (sxInitImage (BitVec.ofNat 512 (numberOf (lineBytes v l)))).isSome) = true ∧
    lineTest 2 .load 64 (fun v l => (sxInitImage (BitVec.ofNat 512 (numberOf (lineBytes v l)))).isNone) = true := by decide +kernel
theorem littleEndian_of_zeros {b : Nat → Byte} : ∀ n, (∀ j, 0 < j → b j = 0) → littleEndian b (n + 1) = (b 0).toNat
  | 0, _ => by simp [littleEndian]
  | n + 1, h => by
    rw [littleEndian, littleEndian_of_zeros n h, h (n + 1) (by omega)]; simp
theorem numberOf_of_zeros {x : Byte} {l : List Byte} (h : l.all (· == 0) = true) : numberOf (x :: l) = x.toNat := by
  refine littleEndian_of_zeros _ (fun j hj => ?_)
  obtain ⟨k, rfl⟩ : ∃ k, j = k + 1 := ⟨j - 1, by omega⟩
  rw [List.getD_cons_succ]
  by_cases hk : k < l.length
  · rw [List.getD_eq_getElem?_getD, List.getElem?_eq_getElem hk]; simpa using List.all_eq_true.mp h _ (List.getElem_mem hk)
  · rw [List.getD_eq_getElem?_getD, List.getElem?_eq_none (by omega)]; rfl
/-- The first byte and zeros. -/
def firstThenZeros (x : Byte) (l : List Byte) : Bool :=
  match l with
  | [] => false
  | y :: t => y == x && t.all (· == 0)
theorem numberOf_of_first {x : Byte} {l : List Byte} (h : firstThenZeros x l = true) : numberOf l = x.toNat := by
  cases l with
  | nil => cases h
  | cons y t =>
    simp only [firstThenZeros, Bool.and_eq_true, beq_iff_eq] at h
    rw [← h.1]; exact numberOf_of_zeros h.2
theorem witness_wholeImages :
    (∃ l u, imaged.sxLines .load 0x240000 4160 = .ok l u ∧ localLines (u.migrateAll l) l ∧ numberOf (lineBytes (u.migrateAll l) l) = 1) ∧
    (∃ l u, imaged.sxLines .load 0x250000 4160 = .ok l u ∧ localLines (u.migrateAll l) l ∧ numberOf (lineBytes (u.migrateAll l) l) = 0) ∧
    sxImageOk 1 = true ∧ sxImageOk 0 = false ∧ (sxMerge (sxReg imaged 7) 1).isSome = true ∧ sxMerge (sxReg imaged 7) 0 = none ∧
    sxCtx imaged (.sxld 7 1 0) [1] [1] ∧ sxClean imaged 7 := by
  have key (a : Word) (x : Byte) (h : answers (imaged.sxLines .load a 4160) (fun l u => plainLines (u.migrateAll l) l &&
      firstThenZeros x (lineBytes (u.migrateAll l) l)) = true) : ∃ l u, imaged.sxLines .load a 4160 = .ok l u ∧
      localLines (u.migrateAll l) l ∧ numberOf (lineBytes (u.migrateAll l) l) = x.toNat := by
    obtain ⟨l, u, e, h⟩ := exists_of_answers h
    rw [Bool.and_eq_true] at h
    exact ⟨l, u, e, (plainLines_local h.1).1, numberOf_of_first h.2⟩
  refine ⟨key _ 1 (by decide +kernel), key _ 0 (by decide +kernel), ?_⟩
  unfold sxCtx sxClean; decide +kernel
theorem witness_imageStores :
    imaged.orderGate false plainMem true = none ∧ sxClean imaged 7 ∧ lineTest 1 .store 4160 (fun _ _ => true) = true ∧
    imaged.cu.pendOf imaged.agentNo 0 = none ∧ imaged.orderGate false plainMem false = none ∧
    sxType (sxReg imaged 7) ≠ 6 ∧ sxType (sxReg imaged 7) ≠ 7 ∧
    lineTest 1 .atomic 4160 (fun v l => l.map (·.2) == (List.range 65).map (fun j => Phys.hbm (0x240000 + 64 * j) false) &&
      decide (v.outstanding < 256)) = true := by
  unfold sxClean; decide +kernel

/-! ### Matrix words and entries -/

/-- The reeve with register 2 misaligned, register 4 a reserved configuration and a queue of `n` entries. -/
def mready (n : Nat) : State :=
  (regs task [(2, 7), (4, 3)]).modCu (fun u => { u with mq := List.replicate n entry0 })
def mmaW (d a : Reg) (kx : BitVec 10) (pr : BitVec 5) (sm : BitVec 3) : MmaArgs := ⟨d, a, 12, 13, kx, pr, 0, sm, 15⟩
/-- Every check of MMA passed and failed: sheaves, K, the destination, an operand, room. -/
theorem witness_mma :
    (mready 0).who = .reeve 0 ∧ (∀ a ∈ [(10 : Reg), 2], (mready 0).ready [a, a + 1, 12, 13] [a, a + 1, 12, 13] = true) ∧
    mine (mready 0) 0 0 3 ∧ ¬mine (mready 0) 0 0 4 ∧ (14 : BitVec 5).toNat < 23 ∧
    ((mmaW 0 10 0 15 3).kx.toNat + 1) * kBlockOf .bf16 .i3 % 32 ≠ 0 ∧ ((mmaW 0 10 3 15 3).kx.toNat + 1) * kBlockOf .bf16 .i3 % 32 = 0 ∧
    (60 : Reg).toNat % groupWidth ((mready 0).re.mcfg.toNat % 4) = 0 ∧ (2 : Reg).toNat % groupWidth ((mready 0).re.mcfg.toNat % 4) ≠ 0 ∧
    ((mready 0).rd 2).toNat % operandAlign .bf16 ≠ 0 ∧ ((mready 0).rd 10).toNat % operandAlign .bf16 = 0 ∧ roomFor (mready 31) 0 ∧ ¬roomFor (mready 32) 0 := by
  unfold mine roomFor
  refine ⟨by decide +kernel, by decide +kernel, ⟨by decide, ?_⟩, fun h => ?_, by decide, by decide, by decide, by decide +kernel, by decide +kernel,
    by decide +kernel, by decide +kernel, by decide +kernel, by decide +kernel⟩
  · intro k _ h
    exact (by decide +kernel : ∀ k : Fin 4, (mready 0).cu.owns 0 k.1 = true) ⟨k, by omega⟩
  · exact absurd (h.2 4 (by decide) (by decide)) (by decide +kernel)
theorem witness_mcfgMdrnMzro :
    (mready 0).ready [10, 11] [10, 11] = true ∧ (mready 0).ready [4, 11] [4, 11] = true ∧ ((mready 0).rd 4).toNat % 4 = 3 ∧
    ((mready 0).rd 10).toNat % 4 ≠ 3 ∧ (5 : BitVec 3).toNat < 6 ∧ (mready 0).ready ([10, 11] ++ [12]) ([10, 11] ++ [12]) = true ∧
    (4 : Reg).toNat % groupWidth 0 = 0 ∧ (1 : BitVec 3).toNat ≠ 0 ∧ ((mready 0).rd 10).toNat % drainAlign 5 = 0 ∧ ((mready 0).rd 2).toNat % drainAlign 5 ≠ 0 ∧
    (mready 0).ready [] [] = true := by decide +kernel
/-- An entry of sheaf 0 at a place in its work, at the head of the queue. -/
def entry1 (k : MKind) (rows : Nat) : MEntry := { entry0 with kind := k, fmt := 1, sm := 0, rows := rows, sb := 16 }
def heading (e : MEntry) : State := task.modCu (fun u => { u with mq := [e] })
theorem witness_entries :
    headOf (heading (entry1 .mma 0)) 1 0 .mma (entry1 .mma 0) ∧ ((heading (entry1 .mma 0)).unitOf 1).accHeld (entry1 .mma 0) = false ∧
    accPoisoned ((heading (entry1 .mma 0)).unitOf 1) (entry1 .mma 0) = false ∧ (entry1 .mma 0).rows % 4 = 0 ∧ (entry1 .mma 0).start = none ∧
    0 + groupWidth 0 ≤ 64 ∧
    (match ((heading (entry1 .mma 0)).unitOf 1).startSlices (entry1 .mma 0) with | some (.ok _) => true | _ => false) = true ∧
    (match ((heading (entry1 .mma 0)).unitOf 1).startSlices { entry1 .mma 0 with pair := 21, vt := some vtReset } with | some (.error f) => f.code == 0x04 | _ => false) = true := by
  unfold headOf; decide +kernel
theorem witness_kBlocks :
    (∃ ops v, ((heading (entry1 .mma 0)).asEngine 1 0 10).kRead (entry1 .mma 0) 32 = .ok ops v ∧
      (v.unitOf 1 == (heading (entry1 .mma 0)).unitOf 1) = true) ∧
    ∃ f v, ((heading { entry1 .mma 0 with a := 0x40000000 }).asEngine 1 0 10).kRead { entry1 .mma 0 with a := 0x40000000 } 32 = .trap f v ∧
      (v.unitOf 1 == (heading { entry1 .mma 0 with a := 0x40000000 }).unitOf 1) = true :=
  ⟨exists_of_answers (by decide +kernel), exists_of_traps (by decide +kernel)⟩
/-- A block dispatched to sheaf 0 before the entry has not ended; a word of the group is poisoned. -/
theorem witness_heldEntries :
    let s := (heading { entry1 .mdrn 0 with seq := 3 }).modCu (fun u => { u with sheaves := [(0, { Sheaf.reset with queue := [⟨0x200000, [], 2⟩] })] })
    let p := (heading (entry1 .mdrn 0)).modCu (fun u => { u with sheaves := [(0, { Sheaf.reset with vPoison := [(0, true)] })] })
    headOf s 1 0 .mdrn { entry1 .mdrn 0 with seq := 3 } ∧ (s.unitOf 1).accHeld { entry1 .mdrn 0 with seq := 3 } = true ∧
    headOf p 1 0 .mdrn (entry1 .mdrn 0) ∧ (p.unitOf 1).accHeld (entry1 .mdrn 0) = false ∧ accPoisoned (p.unitOf 1) (entry1 .mdrn 0) = true := by
  unfold headOf; decide +kernel
/-- Thresholds met and missed: counter 2 holds 5, the first row group of STEP 1 needs T0 + 1. -/
theorem witness_rowGroupStarts :
    let e (t0 : Word) : MEntry := { entry1 .mma 0 with start := some (2, 1, t0) }
    let s (t0 : Word) : State := (heading (e t0)).modCu (fun u => { u with tl := [(2, 5)] })
    headOf (s 4) 1 0 .mma (e 4) ∧ (e 4).startMet = (e 4).rows / 4 ∧
    (4 : Word).toNat + (4 * (0 / 4 + 1) + 2 ^ 1 - 1) / 2 ^ 1 - 1 ≤ (KMap.get 0 ((s 4).unitOf 1).tl 2).toNat ∧ headOf (s 5) 1 0 .mma (e 5) ∧
    (KMap.get 0 ((s 5).unitOf 1).tl 2).toNat < (5 : Word).toNat + (4 * (0 / 4 + 1) + 2 ^ 1 - 1) / 2 ^ 1 - 1 := by
  unfold headOf; decide +kernel
theorem witness_drains :
    let e := { entry1 .mdrn 15 with sa := 128 }
    let eng := (heading e).asEngine 1 0 10
    headOf (heading e) 1 0 .mdrn e ∧ ((heading e).unitOf 1).accHeld e = false ∧ accPoisoned ((heading e).unitOf 1) e = false ∧ e.rows < 16 ∧
    (e.fmt.toNat = 1 ∧ e.acc.toNat = 0) ∧
    (∃ x v, eng.engWrite (e.a + toW e.rows * e.sa) (drainRow e (rowVals ((heading e).unitOf 1) e e.rows)).1 = .ok x v ∧
      ((v.unitOf 1).mq == ((heading e).unitOf 1).mq) = true) ∧
    ∃ f v, ((heading { e with a := 0x40000000 }).asEngine 1 0 10).engWrite (0x40000000 + toW e.rows * e.sa)
      (drainRow e (rowVals ((heading { e with a := 0x40000000 }).unitOf 1) e e.rows)).1 = .trap f v ∧
      (v.unitOf 1 == (heading { e with a := 0x40000000 }).unitOf 1) = true := by
  refine ⟨?_, by decide +kernel, by decide +kernel, by decide, by decide, exists_of_answers (by decide +kernel), exists_of_traps (by decide +kernel)⟩
  unfold headOf; decide +kernel
theorem witness_completions :
    headOf (heading (entry1 .mma 16)) 1 0 .mma (entry1 .mma 16) ∧ headOf (heading (entry1 .mdrn 16)) 1 0 .mdrn (entry1 .mdrn 16) ∧
    (∀ t ∈ (((heading (entry1 .mdrn 16)).unitOf 1).reeveOf 0).stores, t.agent ≠ 10) ∧ headOf (heading (entry1 .mzro 0)) 1 0 .mzro (entry1 .mzro 0) ∧
    ((heading (entry1 .mzro 0)).unitOf 1).accHeld (entry1 .mzro 0) = false ∧ firstToAdvance (heading (entry1 .mma 16)) 1 (entry1 .mma 16) := by
  unfold headOf firstToAdvance rising; decide +kernel

/-! ### The wain -/

/-- A descriptor from its fields: byte offset and value. -/
def desc (l : List (Nat × Nat)) : Desc := BitVec.ofNat 512 (l.foldl (fun a p => a + p.2 * 2 ^ (8 * p.1)) 0)
/-- A command of unit 1. -/
def cmd (op : BitVec 8) (d : Desc) : WainCmd := ⟨1, op, 1, 0, 0x200000, 0x240000, d, 2, 0, 0, 0, 0, [], 0, false, false, false, none, false⟩
/-- The descriptor in memory at `g[1]`; `g[2]` is misaligned and `g[3]` names no page; core 0 holds `n` commands. -/
def described (d : Desc) (n : Nat) : State :=
  { regs task [(1, 0x240000), (2, 7), (3, 0x40000000)] with
    hbm := memWrite task.hbm 0x240000 (leBytes 64 d.toNat)
    cores := [(0, { Core.reset with running := some 1, wq := List.replicate n (cmd 0xE8 0) })] }
def copy1 : Desc := desc [(0, 0x240000), (8, 0x250000), (20, 1), (26, 1), (28, 1), (30, 1)]
def copy2 : Desc :=
  desc [(0, 0x10000000000000), (8, 0x10000000000000), (16, 0x3F), (20, 2 ^ 24), (26, 65535), (28, 65535), (30, 65535), (32, 2 ^ 32 - 16), (56, 8)]
def rows1 : Desc := desc [(0, 0x240000), (8, 0x250000), (20, 4), (24, 4), (28, 4), (32, 9), (36, 2), (40, 0x260000), (48, 0x270000), (16, 0x10), (56, 0x270008)]
def routine1 : Desc := desc [(0, 0x60), (4, 64), (8, 0x210000), (16, 0x280000), (24, 0x290000), (56, 32 + 2 ^ 16)]
theorem witness_wainWordsPostCommands :
    (wainWord (.wcpy 1 2)).isSome = true ∧ (described 0 0).ready [1] [1] = true ∧ ((described 0 0).rd 2).toNat % 64 ≠ 0 ∧ (described 0 0).ready [2] [2] = true ∧
    (described 0 0).who = .reeve 0 ∧ ((described 0 0).rd 3).toNat % 64 = 0 ∧ (∃ f u, (described 0 0).descRead 0x40000000 = .trap f u ∧ (u.pc == 0x200000) = true) ∧
    (∃ d u, (described copy1 255).descRead 0x240000 = .ok d u ∧
      (d == copy1 && u.pc == 0x200000 && u.who == .reeve 0 && u.uid == 1 && u.cu.core == 0 && decide ((u.coreOf 0).wq.length < 256)) = true) ∧
    (∃ d u, (described copy1 256).descRead 0x240000 = .ok d u ∧ (d == copy1 && decide (256 ≤ (u.coreOf 0).wq.length)) = true) ∧
    copyFits false copy1 ∧ copyFits true (desc [(20, 1), (26, 1), (28, 1), (30, 1)]) ∧ ¬copyFits false copy2 ∧ ¬copyFits true 0 ∧ rowsFit false rows1 ∧
    rowsFit true rows1 ∧ ¬rowsFit true (rows1 ||| desc [(16, 0x20)]) ∧ routineFits routine1 ∧ ¬routineFits (desc [(0, 0x20)]) := by
  refine ⟨by decide, by decide +kernel, by decide +kernel, by decide +kernel, by decide +kernel, by decide +kernel, exists_of_traps (by decide +kernel),
    exists_of_answers (by decide +kernel), exists_of_answers (by decide +kernel), ?_, ?_, ?_, ?_, ?_, ?_, ?_, ?_, ?_⟩ <;>
    first
    | (unfold copyFits optFits swizzleFits; decide +kernel)
    | (unfold rowsFit optFits swizzleFits; decide +kernel)
    | (unfold routineFits; decide +kernel)
/-- The view of 8 × 16 f32 values at 0x240000 in slot `n`, its region of one page at page `p`. -/
def view1 (n p : Nat) : Desc := desc [(4, n), (5, 9), (6, 9), (20, 8), (24, 16), (32, 128), (40, 0x240000), (48, 4096 * p)]
/-- The descriptor in memory, with slot 3 bound to the region at page 0x251. -/
def viewed (d : Desc) : State := (described d 0).modCu (fun u => { u with views := [(3, some ⟨view1 3 0x251, []⟩)] })
theorem viewFits_view1 {p : Nat} (h : p = 0x250 ∨ p = 0x251 ∨ p = 0x40000) : viewFits (view1 2 p) ∧ viewFits (view1 3 p) := by
  rcases h with rfl | rfl | rfl <;> exact ⟨by unfold viewFits; exact ⟨by decide, by decide, by decide, by decide, by decide, by decide, by decide, by decide,
    by decide, by decide, .f32, .f32, by decide⟩, by unfold viewFits; exact ⟨by decide, by decide, by decide, by decide, by decide, by decide, by decide,
    by decide, by decide, by decide, .f32, .f32, by decide⟩⟩
/-- The page of an address may hold a view's region. -/
def pageB (s : State) (va : Nat) : Bool :=
  canonical (BitVec.ofNat 64 va) && (match s.leafFor s.xc (BitVec.ofNat 64 va) with
    | some (some l) => leafOk l && (pteType l.pte == 0 || pteType l.pte == 1 || pteType l.pte == 3)
    | _ => false)
theorem viewPage_iff {s : State} {va : Nat} : viewPage s va ↔ pageB s va = true := by
  unfold viewPage pageB
  rw [Bool.and_eq_true]
  refine and_congr_right fun _ => ?_
  split
  · rename_i l e
    simp [e, Bool.and_eq_true, Bool.or_eq_true, or_assoc]
  · rename_i h
    exact ⟨fun ⟨l, e, _⟩ => absurd e (h l), fun h => by simp at h⟩
theorem regionHas_of {d : Desc} {b n m : Nat} (h : dfld d 48 8 = n ∧
    dfld d 48 8 + ((if (dfld d 7 1).testBit 0 then dfld d 24 4 else dfld d 20 4) + 31) / 32 * 32 * dfld d 32 4 = m) : regionHas d b ↔ n ≤ b ∧ b < m := by
  unfold regionHas; rw [h.1, ← h.2, h.1]
/-- A region on a page of its own is bound, one on another slot's or on no page is refused, and UNBIND is asked of slot 7. -/
theorem witness_waprBindsViews :
    (viewed 0).who = .reeve 0 ∧ (viewed 0).ready [1] [1] = true ∧ (viewed 0).ready [2] [2] = true ∧ ((viewed 0).rd 2).toNat % 64 ≠ 0 ∧
    (∀ d ∈ [(view1 2 0x250, true), (view1 2 0x251, true), (view1 2 0x40000, false), (desc [(4, 7), (7, 0x80)], true), (desc [(4, 2)], true)],
      ∃ e u, (viewed d.1).descRead 0x240000 = .ok e u ∧ (e == d.1 && u.pc == 0x200000 && u.who == .reeve 0 && u.uid == 1 &&
        u.cu.views == (viewed 0).cu.views && pageB u (dfld e 48 8) == d.2) = true) ∧
    (∀ p ∈ (viewed 0).cu.views, ∀ v, p.2 = some v → viewFits v.desc) ∧ viewFits (view1 2 0x250) ∧ viewFits (view1 2 0x251) ∧
    viewFits (view1 2 0x40000) ∧ ¬viewFits (desc [(4, 2)]) ∧ (∀ b, ¬(regionHas (view1 2 0x250) b ∧ regionHas (view1 3 0x251) b)) ∧
    regionHas (view1 2 0x251) 0x251000 ∧ regionHas (view1 3 0x251) 0x251000 ∧
    (dfld (view1 2 0x250) 7 1).testBit 7 = false ∧ (dfld (desc [(4, 7), (7, 0x80)]) 7 1).testBit 7 = true ∧ dfld (desc [(4, 7), (7, 0x80)]) 4 1 ≤ 7 := by
  refine ⟨by decide +kernel, by decide +kernel, by decide +kernel, by decide +kernel, ?_, ?_, (viewFits_view1 (by decide)).1, (viewFits_view1 (by decide)).1,
    (viewFits_view1 (by decide)).1, fun h => absurd h.2.2.2.2.1 (by decide +kernel), fun b h => ?_, by unfold regionHas; decide +kernel, by unfold regionHas; decide +kernel,
    by decide, by decide, by decide⟩
  · intro d h
    simp only [List.mem_cons, List.not_mem_nil, or_false] at h
    rcases h with rfl | rfl | rfl | rfl | rfl <;> exact exists_of_answers (by decide +kernel)
  · intro p h v e
    rw [show (viewed 0).cu.views = [(3, some ⟨view1 3 0x251, []⟩)] by decide +kernel, List.mem_singleton] at h
    subst h; cases e; exact (viewFits_view1 (by decide)).2
  · rw [regionHas_of (n := 0x250000) (m := 0x251000) (by decide +kernel), regionHas_of (n := 0x251000) (m := 0x252000) (by decide +kernel)] at h
    omega
/-- The task with commands in its core's queue, a loft page at 0x40000000 of which bytes 0 to 127 are stream buffer 0, and indices 1, 5, 0 at 0x260000. -/
def waining (l : List WainCmd) : State :=
  { (streamed 0 0).modCu (fun u => { u with streams := [⟨0, 128, 64, 64, 0⟩] }) with
    hbm := memWrite (memWrite (streamed 0 0).hbm 0x260000 (leBytes 12 (1 + 5 * 2 ^ 32))) 0x240000 [1, 2, 3, 4, 5, 6, 7, 8]
    cores := [(0, { Core.reset with running := some 1, wq := l })]
    who := .reeve 0 }
/-- The copy of 32 bytes in two runs from HBM to the loft, swizzled there; the same with its first byte past the loft's page. -/
def copy3 (dst : Nat) : Desc := desc [(0, 0x240000), (8, dst), (16, 4), (20, 32), (26, 2), (28, 1), (30, 1), (32, 64), (44, 64)]
def fill1 (stm : Nat) : Desc := desc [(0, 0xFE), (8, if stm = 0 then 0x250000 else 0x40000000), (16, stm), (20, 100), (26, 1), (28, 1), (30, 1), (36, 3)]
def gather1 (statva : Nat) : Desc := desc [(0, 0x240000), (8, 0x250000), (20, 4), (24, 4), (28, 4), (32, 3), (36, 5), (40, 0x260000), (48, statva), (16, 0x10), (56, 0x270008)]
/-- The command is still in the queue as it was. -/
def sameCmd (u : State) (w : WainCmd) : Bool := (u.coreOf 0).wq.find? (fun x => x.seq == 1) == some w
theorem stillThere_of {u : State} {w : WainCmd} (h : sameCmd u w = true) : stillThere u 0 1 w := ⟨w, by simpa [sameCmd] using h, rfl⟩
def copyW : WainCmd := cmd 0xE8 (copy3 0x40000F00)
def fillS : WainCmd := cmd 0xEB (fill1 0x20)
def gatherW : WainCmd := cmd 0xE9 (gather1 0x270000)
/-- Runs that write, that produce for a stream, and that fail at either side. -/
theorem witness_wainRuns :
    (∀ w ∈ [copyW, fillS, gatherW], (waining [w]).streamBusy 0 w = false ∧ (waining [w]).wainCmd 0 1 = some w ∧ ((waining [w]).unitOf w.uid).live = true) ∧
    (∃ x u, ((waining [copyW]).asWain copyW).wainDest copyW = .ok x u ∧
      (match u.swRead 0 0x240000 32 0 0 with
        | .ok b v => wStream copyW == none && (match v.swWrite 0x40000F00 b 1 0 with | .ok _ _ => true | _ => false) &&
            (match v.swWrite 0x50000000 b 1 0 with | .trap _ z => sameCmd z copyW | _ => false)
        | _ => false) = true) ∧
    (∃ x u, ((waining [copyW]).asWain copyW).wainDest copyW = .ok x u ∧
      (match u.swRead 0 0x50000000 32 0 0 with | .trap _ z => sameCmd z copyW | _ => false) = true) ∧
    (∃ x u, ((waining [fillS]).asWain fillS).wainDest fillS = .ok x u ∧ ((wStream fillS).isSome && decide (fillS.pend.length < 64)) = true) := by
  refine ⟨by decide +kernel, exists_of_answers (by decide +kernel), exists_of_answers (by decide +kernel), exists_of_answers (by decide +kernel)⟩
/-- The rows of a gather: an index below BOUND and one at it. -/
theorem witness_gatherRows :
    ((∃ x u, ((waining [gatherW]).asWain gatherW).wainDest gatherW = .ok x u ∧
      (match u.engRead (2 ^ 40) 0x260000 4 with
        | .ok i v => leVal i == 1 && (match v.swRead 0 0x240004 4 0 1 with
            | .ok b v => (match v.swWrite 0x250000 b 0 0 with | .ok _ _ => true | _ => false) | _ => false)
        | _ => false) &&
      (match u.engRead (2 ^ 40) 0x260004 4 with
        | .ok i v => leVal i == 5 && (match v.swWrite 0x250004 (List.replicate 4 0) 0 1 with | .ok _ _ => true | _ => false)
        | _ => false) = true)) ∧
    gatherW.done < dfld gatherW.desc 32 4 ∧ wStream gatherW = none :=
  ⟨exists_of_answers (by decide +kernel), by decide, by decide +kernel⟩
/-- Commands whose work is done: a gather writes its status record and flag, a finished one leaves. -/
theorem witness_wainCompletions :
    let w := { gatherW with done := 3, copied := 2, zeroed := 1 }
    let s := waining [w]
    wTotal w ≤ w.done ∧ w.pend = [] ∧ ((s.unitOf 1).reeveOf 0).stores = [] ∧
    (∃ x u, (s.asWain w).wainStatus w = .ok x u ∧
      (((u.unitOf 1).reeveOf 0).stores == [] && (match (u.asWain w).wainFlag w with
        | .ok _ v => sameCmd v w && v.units.all (fun p => p.2.heldAdv == []) && decide (w.advanced ≤ 1) && !v.heldBack 0 1 (v.wainUnit w) w.tl
        | _ => false)) = true) := by
  refine ⟨by decide, by decide, by decide +kernel, exists_of_answers (by decide +kernel)⟩
/-- A granule is due, a routine may start, and a tile may be built. -/
theorem witness_streamEvents :
    let g : WainCmd := { fillS with done := 1, pend := List.replicate 100 7 }
    let r := cmd 0xEC (desc [(8, 0x210000)])
    let v := viewed 0
    ((waining [g]).unitOf 1).streams[0]? = some ⟨0, 128, 64, 64, 0⟩ ∧ (waining [g]).producers 1 0 = [(0, 1)] ∧
    ((waining [g]).unitOf 1).loftResident = true ∧ ((waining [g]).unitOf 1).heldAdv = [] ∧ 64 ≤ 128 - (0 + 64 % 64) ∧
    ((waining [r]).coreOf 0).routine = none ∧ ((waining [r]).coreOf 0).wq.find? (fun w => w.op = 0xEC && !w.finished && w.fault.isNone &&
      ((waining [r]).unitOf w.uid).live) = some r ∧
    (waining [r]).streamBusy 0 r = false ∧ (match ((waining [r]).asWain r).wainDest r with | .ok _ _ => true | _ => false) = true ∧
    KMap.get none (v.unitOf 1).views 3 = some ⟨view1 3 0x251, []⟩ ∧ 32 * 0 < vwRows (view1 3 0x251) ∧ 32 * 0 < vwCols (view1 3 0x251) ∧
    (v.unitOf 1).rv ≠ 2 := by
  refine ⟨by decide +kernel, by decide +kernel, by decide +kernel, by decide +kernel, by decide, by decide +kernel, by decide +kernel, by decide +kernel,
    by decide +kernel, by decide +kernel, by decide +kernel, by decide +kernel, by decide +kernel⟩
/-- A KVQ routine at its entry, 64 bytes of its stream committed: tokens of 32 elements, a window of one token. -/
def kvDesc (t0 : Nat) : Desc :=
  desc [(0, 0x40), (4, 128), (8, 0x210000), (16, 0x40000000), (24, 0x290000), (32, 0x2A0000), (40, 0x2B0000), (48, 0x2C0000), (56, 32 + 2 ^ 16 + 2 ^ 32 * t0)]
def kvState (t0 consumed : Nat) : State :=
  let s := (waining [cmd 0xEC (kvDesc t0)]).modCu (fun u => { u with streams := [⟨0, 128, 64, 0, 64⟩] })
  { s with cores := s.cores.map (fun p => (p.1, { p.2 with routine := some ⟨1, 1, 0, [], [], Sheaf.reset, Config.kvqEntry, consumed, []⟩ })) }
theorem witness_kvq :
    (∀ a ∈ [(0, 0), (1, 0), (1, 128)], ∃ x, ((kvState a.1 a.2).coreOf 0).routine = some x ∧ x.pc = Config.kvqEntry ∧ x.held = [] ∧
      (x.consumed == a.2 && (kvState a.1 a.2).wainCmd 0 x.seq == some (cmd 0xEC (kvDesc a.1)) && ((kvState a.1 a.2).unitOf 1).loftPoison == [] &&
        (kvState a.1 a.2).hbmPoison == [] && (kvState a.1 a.2).destOf 1 0x40000000 == some (1, 0) &&
        ((kvState a.1 a.2).unitOf 1).streams[0]? == some ⟨0, 128, 64, 0, 64⟩) = true) ∧
    (match ((kvState 0 0).asWain (cmd 0xEC (kvDesc 0))).engProbe 0x2A0000 64 with
      | .ok _ u => (match u.engWrite 0x2A0000 (List.replicate 64 0) with | .ok _ _ => true | _ => false) | _ => false) = true ∧
    (match ((kvState 1 0).asWain (cmd 0xEC (kvDesc 1))).engProbe 0x2A0000 64 with
      | .ok _ u => (match u.engRead 0 0x2A0000 64 with
        | .ok _ u => (match u.engRead (2 ^ 40) 0x2C0000 32 with
          | .ok _ u => (match u.engWrite 0x2B0000 (List.replicate 16 0) with | .ok _ _ => true | _ => false) | _ => false) | _ => false)
      | _ => false) = true := by
  refine ⟨?_, by decide +kernel, by decide +kernel⟩
  intro a h
  simp only [List.mem_cons, List.not_mem_nil, or_false] at h
  rcases h with rfl | rfl | rfl <;> exact ⟨_, rfl, rfl, rfl, by decide +kernel⟩

/-! ### Collectives -/

/-- The task, its partition with symmetric space 0 and one export entry that lets every peer read, write and update memory. -/
def homed : State :=
  { regs task [(1, 3), (2, 1), (3, 0x10000), (4, 0x1000), (5, 0x240000), (6, 7), (7, 0x1007)] with
    parts := [(0, { part0 with pcsym := 2 ^ 63, pcexpb := 0x230000, pcexpc := 0x10000 })]
    hbm := memWrite task.hbm 0x230000 (leBytes 16 (2 ^ 115 + 0xFFF * 2 ^ 48 + 0xFF * 2 ^ 40 + 7 * 2 ^ 32)) }
/-- Sixteen f32 values in two tiles, two members, three entries for tile 0: SEND to rank 1, FOLD of both, PUT to rank 1. -/
def planDesc : Desc :=
  desc [(0, 77), (4, 16), (10, 9), (11, 9), (14, 0), (16, 2), (18, 3), (20, 8), (32, 0x220000), (40, 0x250000), (48, 0x260000), (56, 0x240000)]
def entryOf (kind base count step addr : Nat) : BitVec 128 := BitVec.ofNat 128 (base + 2 ^ 10 * count + 2 ^ 21 * step + 2 ^ 40 * kind + 2 ^ 64 * addr)
def planTable : List (BitVec 128) := [entryOf 0 1 1 1 0x260000, entryOf 1 0 2 1 0x260000, entryOf 2 1 1 1 0x250000]
def pairOf : List (BitVec 32) := [0, 1]
def plan1 (tiles : KMap Tile) : Plan := ⟨0, 3, 1, 1, 0, 0, 77, planDesc, pairOf, planTable, tiles, [], [], 0, none, []⟩
def planned (tiles : KMap Tile) : State := { homed with plans := [plan1 tiles], routes := [(1, 1)] }
/-- A PLAN that waits, the other member's signature come or not, its reservation made or not. -/
def planWaits (sigs : List PlanSig) (r : Option (List (Nat × Nat) × Nat)) : State :=
  { homed with sigs := sigs, routes := [(1, 1)], ports := [(0, { Port.reset with st := .up, routed := true })] }.modRe
    (fun x => { x with planWait := some ⟨planDesc, pairOf, planTable, 5, 0, r⟩ })
def signed (g : BitVec 256) (reserved : Bool) : PlanSig := ⟨0, 77, 1, g, 0, reserved⟩
theorem witness_planWaits :
    (∀ s ∈ [planWaits [] none, planWaits [signed 5 false] none, planWaits [signed 6 false] none, planWaits [signed 5 true] (some ([], 0))],
      s.who = .reeve 0 ∧ s.ready [8, 1, 2] [1, 2] = true ∧ (s.partOf s.cu.part).st ≠ .revoked ∧ s.enclaveOf s.cu.part = none ∧
      ∃ w, s.re.planWait = some w ∧ (w.sig == 5 && w.members.all (fun e => !s.memberGone e) && w.members.length == 2 && dfld w.desc 14 2 == 0 &&
        dfld w.desc 0 4 == 77) = true) ∧
    (∃ rs slot, (planWaits [signed 5 false] none).planReserve planDesc pairOf planTable = some rs ∧
      (planWaits [signed 5 false] none).planSlot ⟨planDesc, pairOf, planTable, 5, 0, none⟩ [signed 5 false] = some slot ∧
      ((planWaits [signed 5 false] none).slotTaken slot 77) = false) := by
  refine ⟨?_, _, _, rfl, rfl, by decide +kernel⟩
  intro s h
  simp only [List.mem_cons, List.not_mem_nil, or_false] at h
  rcases h with rfl | rfl | rfl | rfl <;> exact ⟨by decide +kernel, by decide +kernel, by decide +kernel, by decide +kernel, _, rfl, by decide +kernel⟩
/-- Handles of a plan that runs, stands or has failed, of a group and of nothing; a flag set and clear; a CFIRE of tiles 0 and 1. -/
theorem witness_planWords :
    let s := planned [(0, { Tile.idle with flag := true })]
    let f (n : BitVec 16) : State := { s with plans := [{ plan1 [] with failed := some n }] }
    s.who = .reeve 0 ∧ s.ready [8, 1, 2] [1, 2] = true ∧ (s.partOf s.cu.part).st ≠ .revoked ∧ handle16 (s.rd 1) = 3 ∧ planOf s 3 = some (plan1 [(0, { Tile.idle with flag := true })]) ∧
    planOf (f 5) 3 = some { plan1 [] with failed := some 5 } ∧ planOf (f 2) 3 = some { plan1 [] with failed := some 2 } ∧ planOf s 7 = none ∧
    groupAt s (handle16 (s.rd 4)) = none ∧ tilesOf planDesc = 2 ∧ s.ackGate (ackNeed 4 0) = none ∧
    groupAt (s.modRe (fun x => { x with groups := [(0, some ⟨0x240000, 64, pairOf⟩)] })) 0x1000 = some ⟨0x240000, 64, pairOf⟩ ∧
    (let w := ((0x100000003 : Word)).toNat
     w / 2 ^ 12 % 16 = 0 ∧ w / 2 ^ 48 = 0 ∧ w / 2 ^ 16 % 2 ^ 16 ≤ w / 2 ^ 32 % 2 ^ 16 ∧ w / 2 ^ 32 % 2 ^ 16 < tilesOf planDesc) ∧
    (∀ i ∈ [Instr.plan 8 1, .agset 8 1, .agsetSh 8 1, .plfree 1, .cfire 1, .crdy 1 2, .mldr 8 1 2 3 0 .f32 .f32 1, .mstb 1 2 3 .f32 false 0 1],
      i.wf = true ∧ ∃ l, collective i = some l ∧ { homed with parts := [(0, { part0 with st := .revoked })] }.ready l.1 l.2 = true) := by
  refine ⟨by decide +kernel, by decide +kernel, by decide +kernel, by decide +kernel, by decide +kernel, by decide +kernel, by decide +kernel, by decide +kernel,
    by decide +kernel, by decide +kernel, by decide +kernel, by decide +kernel, by decide +kernel, ?_⟩
  intro i h
  simp only [List.mem_cons, List.not_mem_nil, or_false] at h
  rcases h with rfl | rfl | rfl | rfl | rfl | rfl | rfl | rfl <;> exact ⟨by decide, _, rfl, by decide +kernel⟩
/-- A group descriptor of two members at `g[5]`, another with LEN 0, and a shard descriptor. -/
theorem witness_groups :
    let h (n : Nat) : List Byte := leBytes 8 0x240000 ++ leBytes 4 n ++ [2, 0, 0, 0]
    let s := { homed with hbm := memWrite homed.hbm 0x240000 (h 64 ++ leBytes 8 (2 ^ 32)) }
    s.who = .reeve 0 ∧ s.ready [8, 5, 6, 3] [5, 6, 3] = true ∧ (s.rd 5).toNat % 16 = 0 ∧ (s.rd 6).toNat % 16 ≠ 0 ∧ s.loadGate plainMem = none ∧
    (∃ b u, s.plainLoad 0 0x240000 16 = .ok b u ∧ (b == h 64 && (match Acc.each (fun k y => State.plainLoad y (k + 1) (wrap ((0x240000 : Word).toInt + 16 + 4 * k)) 4) [0, 1] u with
      | .ok l v => l.map leVal == [0, 1] && v.pc == s.pc && (KMap.get none v.re.groups 0).isNone | _ => false)) = true) ∧
    (shardState shardDesc).shDesc 0 0 0 = some shardDesc ∧ sdValid shardDesc = true ∧ (sdMesh shardDesc).length ≤ 64 :=
  ⟨by decide +kernel, by decide +kernel, by decide +kernel, by decide +kernel, by decide +kernel, exists_of_answers (by decide +kernel), by decide +kernel,
    by decide +kernel, by decide +kernel⟩
theorem witness_groupDescriptors :
    groupDescOk (leBytes 8 0x240000 ++ leBytes 4 64 ++ [2, 0, 0, 0]) pairOf ∧ ¬groupDescOk (List.replicate 16 0) [] := by
  have h1 : leVal (((leBytes 8 0x240000 ++ leBytes 4 64 ++ [2, 0, 0, 0]).drop 8).take 4) ≠ 0 := by decide
  have h2 : leVal ((leBytes 8 0x240000 ++ leBytes 4 64 ++ [2, 0, 0, 0]).drop 13) = 0 := by decide
  refine ⟨⟨by decide, by decide, h1, h2, ?_, by decide⟩, fun h => absurd h.1 (by decide)⟩
  intro e h
  simp only [pairOf, List.mem_cons, List.not_mem_nil, or_false] at h
  rcases h with rfl | rfl <;> decide
/-- A group of this member alone at `g[4]`: MLDR reads it, MSTB stores to it, SHGEN installs at it. -/
def grouped : State := (homed.modRe (fun x => { x with groups := [(0, some ⟨0x240000, 64, [0]⟩)], g := [(2, 0x250000), (4, 0x1000), (5, 4)] }))
theorem witness_groupWords :
    grouped.who = .reeve 0 ∧ grouped.ready [8, 2, 4, 5] [2, 4, 5] = true ∧ groupAt grouped (handle16 (grouped.rd 4)) = some ⟨0x240000, 64, [0]⟩ ∧
    groupAt grouped (handle16 (grouped.rd 5)) = none ∧ (grouped.partOf grouped.cu.part).st ≠ .revoked ∧ grouped.inFlight = false ∧ grouped.loadGate plainMem = none ∧
    grouped.orderGate false plainMem true = none ∧
    (∃ x u, grouped.colProbe .store 0x250000 8 4 = .ok x u ∧ (match u.members [0] (fun y e => y.memberReadAt (mePart e) ((u.peer).getD 0) u.cu.part 0x240004 8)
        (fun y k e => y.sendMemberRead k e 0x240004 8) with
      | .ok l v => statusOf 0 (l.map (·.1)) == 0 && l.all (fun x => x.1 != .poison) && v.pc == grouped.pc && (match v.colWrite 0x250000 (l.map (·.2)).flatten with
          | .ok _ y => y.pc == grouped.pc | _ => false)
      | _ => false) = true) ∧
    (∃ b v, grouped.colRead 0x250000 8 4 = .ok b v ∧ ((v.mstbSend 0x240004 b none 0).pc == grouped.pc) = true) := by
  exact ⟨by decide +kernel, by decide +kernel, by decide +kernel, by decide +kernel, by decide +kernel, by decide +kernel, by decide +kernel, by decide +kernel,
    exists_of_answers (by decide +kernel), exists_of_answers (by decide +kernel)⟩
theorem witness_memberStores :
    homed.eng = none ∧ homed.peerGone 7 = true ∧ { homed with routes := [(1, 1)], ports := [(0, { Port.reset with st := .up, routed := true })] }.peerGone 1 = false ∧
    homed.symReady 0 = some 0 ∧ (match homed.symRange 0 0 .store 0x240000 8 0 0 expW with | (.ok _, _) => true | _ => false) = true := by decide +kernel
/-- A plan whose tile 0 stands at each kind of entry. -/
theorem witness_planRounds :
    let at_ (k : Nat) : KMap Tile := [(0, { Tile.idle with running := true, entry := k, round := 1 })]
    let s := planned (at_ 1)
    let x := plan1 (at_ 1)
    (∀ k ∈ [0, 1, 2], (planned (at_ k)).plans.find? (fun y => y.part == 0 && y.handle == 3) = some (plan1 (at_ k)) ∧
      ((planned (at_ k)).partOf 0).st ≠ .revoked ∧ (tileOf (plan1 (at_ k)) 0).running = true ∧
      (entriesOf (plan1 (at_ k)) 0)[(tileOf (plan1 (at_ k)) 0).entry]? = some (planTable.getD k 0) ∧ dfld (planTable.getD k 0) 5 1 = k) ∧
    s.planPlace x (stagingAt x (planTable.getD 1 0) 1) = some 0x260020 ∧
    (let y := { x with arrived := [0x260020] }
     let t := { s with plans := [y] }
     (∃ l u, Acc.each (fun q (z : State) => z.readVA y.xc [] (if q = 0 then sourceAt planDesc 0 else stagingAt y (planTable.getD 1 0) q) 32)
        (teRanks (planTable.getD 1 0)) t = .ok l u ∧ (u.plans == t.plans && (match u.writeVA y.xc y.uid none (resultAt planDesc 0) (List.replicate 32 0) with
          | .ok _ v => v.plans == t.plans | _ => false)) = true)) ∧
    (∃ b u, (planned (at_ 0)).readVA x.xc [] (sourceAt planDesc 0) 32 = .ok b u ∧ (!u.sendWaits x (planTable.getD 0 0) false 0x260000 32) = true) ∧
    s.planById 0 77 = some x ∧ s.planById 0 78 = none ∧ s.blocked x false 0x260020 32 = false ∧ s.symReady 0 = some 0 ∧
    (match s.symRange 0 0 .store 0x260020 32 1 0 expW with | (.ok l, u) => l == [(0x260020, 32)] && u.plans == s.plans | _ => false) = true ∧
    (match s.symRange 0 0 .store 0x40000000 32 1 0 expW with | (.error e, _) => e == .refused | _ => false) = true := by
  exact ⟨by decide +kernel, by decide +kernel, exists_of_answers (by decide +kernel), exists_of_answers (by decide +kernel), by decide +kernel, by decide +kernel,
    by decide +kernel, by decide +kernel, by decide +kernel, by decide +kernel⟩
/-- Requests of peers at this member. -/
theorem witness_memberRequests :
    homed.peer.isSome = true ∧ homed.symReady 0 = some 0 ∧ task.symReady 0 = none ∧
    (match homed.symRange 0 0 .load 0x240000 8 1 0 expR with | (.ok _, _) => true | _ => false) = true ∧
    (match homed.symRange 0 0 .load 0x40000000 8 1 0 expR with | (.error e, _) => e == .refused | _ => false) = true ∧
    (homed.partOf 0).held.length < 256 ∧ { homed with parts := [(0, { part0 with passes := [] })] }.memberUnit 0 0 0 = none := by decide +kernel

/-! ### Later faults, blocks, requests -/

/-- The task with a matrix entry that has faulted. -/
def lateFault : State := task.modCu (fun u => { u with mq := [{ entry0 with fault := some (tr 0x07 0 5) }] })
def oldRecord : FaultRec := ⟨0, 1, 0, 1, 0, false⟩
theorem witness_deferredFaults :
    interruptible lateFault 1 0 ∧ engineFault lateFault 1 0 (tr 0x07 0 5) 0x200000 ∧ noRecord (tr 0x07 0 5) = false ∧ trapCode (tr 0x07 0 5) = 0x07 ∧
    enabled (tr 0x07 0 5) 0xFFFFFFFFFFFFFFFF = true ∧ enabled (tr 0x07 0 5) 0 = false ∧
    interruptible (task.modRe (fun x => { x with budget := 0 })) 1 0 ∧
    (let s := { task with parts := [(0, { part0 with faultSeq := 1 })] }.modRe (fun x => { x with mask := 0x200000000 })
     s.intrDue 0 = some (1, 0)) ∧
    (let s := { task with parts := [(0, { part0 with faults := [oldRecord] })] }
     (s.partOf 0).faults = [oldRecord] ∧ (s.partOf 0).faultSeq + 1 ≤ leVal (memRead s.hbm ((s.partOf 0).reserveBase + 2 ^ 18) 8) + 4096) ∧
    (let s := { task with parts := [(0, { part0 with faults := [oldRecord], faultSeq := 4096 })] }
     leVal (memRead s.hbm ((s.partOf 0).reserveBase + 2 ^ 18) 8) + 4096 < (s.partOf 0).faultSeq + 1) := by
  refine ⟨by unfold interruptible; decide +kernel, .inl ⟨{ entry0 with fault := some (tr 0x07 0 5) }, tr 0x07 0 5, by decide +kernel, by decide +kernel, by decide +kernel, by decide +kernel, by decide +kernel⟩, by decide +kernel, by decide +kernel,
    by decide +kernel, by decide +kernel, by unfold interruptible; decide +kernel, by decide +kernel, by decide +kernel, by decide +kernel⟩
/-- A dispatched block of one `vend`; a pass whose only task has arrived, sealed or not; two sheaves at one barrier. -/
def arrivedAt (wlog flags : Nat) (sl : Bool) : State :=
  let x := { pass0 with lrec := desc [(8, flags)], wlog := wlog }
  let s := { task with parts := [(0, { part0 with passes := [x] })] }
  s.modRe (fun r => { r with arrivals := 1, barAt := some 1, barSealed := sl, log := [⟨0x240000, 0x240000, 7, 1⟩] })
theorem witness_blocks :
    let s := { task.modCu (fun u => { u with sheaves := [(0, { Sheaf.reset with queue := [⟨0x280000, [5], 2⟩] })] }) with
      hbm := memWrite task.hbm 0x280000 (leBytes 8 0x3540000000000000) }
    (s.unitOf 1).live = true ∧ (s.unitOf 1).place = .running ∧ 0 < (s.unitOf 1).nSheaves ∧
    (let v : State := { s.modUnit 1 (fun u => u.captureVt 0) with uid := 1, who := .sheaf 0, eng := none }
     ∃ l w, v.fetchBlock 0x280000 512 0x280000 [] = .ok l w ∧ ((w.unitOf 1).sheaves == (s.unitOf 1).sheaves) = true) ∧
    (let v : State := { task.modUnit 1 (fun u => u.captureVt 0) with uid := 1, who := .sheaf 0, eng := none }
     ∃ f w, v.fetchBlock 0x40000000 512 0x40000000 [] = .trap f w ∧ (w.uid == 1) = true) :=
  ⟨by decide +kernel, by decide +kernel, by decide +kernel, exists_of_answers (by decide +kernel), exists_of_traps (by decide +kernel)⟩
theorem witness_episodes :
    (∀ s ∈ [arrivedAt 0 0 false, arrivedAt 16 1 true], ∃ x, s.passAt 0 1 = some x ∧ (passIdOf 0 x.seq == 1 && !x.st.over && s.tasksOf 0 1 == [(0, 1, 0)] &&
        !((s.unitOf 1).reeveOf 0).ended && decide (x.episode < ((s.unitOf 1).reeveOf 0).arrivals)) = true) ∧
    (arrivedAt 16 1 true).sealConflict [(0, 1, 0)] = none ∧
    (task.modCu (fun u => { u with sheaves := (List.range 2).map (fun k => (k, { Sheaf.reset with arrivals := [(3, 1)], vbarsAt := some (3, 1) })) })).cu.vbarsDue 3 =
      some 1 ∧
    (let s := task.modRe (fun r => { r with wait := some .wfe, wfeLeft := some 0 })
     ((s.unitOf 1).reeveOf 0).wait = some .wfe ∧ ((s.unitOf 1).reeveOf 0).wfeLeft = some 0) := by
  refine ⟨?_, by decide +kernel, by decide +kernel, by decide +kernel⟩
  intro s h
  simp only [List.mem_cons, List.not_mem_nil, or_false] at h
  rcases h with rfl | rfl <;> exact exists_some (by decide +kernel)
/-- Requests of a peer that the export table admits and that it does not. -/
theorem witness_homeRequests :
    task.peer.isSome = true ∧ (homed.admitAll 1 0 0 [0x240000]).1 = true ∧ (task.admitAll 1 0 0 [0x240000]).1 = false ∧
    (homed.admitAll 1 0 0 [0x240000]).2.hbmBad 0x240000 8 = false ∧
    ({ homed with hbmPoison := [(0x240000 / 64, true)] }.admitAll 1 0 0 [0x240000]).2.hbmBad 0x240000 8 = true ∧
    (homed.admitAll 1 0 0 [0x240000]).2.units.any (fun x => x.2.recorded) = false ∧ (homed.admitAll 1 0 2 [0x240000]).2.queueFull 0x240000 = false := by
  decide +kernel
theorem witness_threshers :
    let c : ThCmd := .amo 1 0 0 0x240000 .add .i64 5 none
    let m : ThCmd := .merge 1 0 7 ((List.range 65).map (fun k => 0x240000 + 64 * k)) 0 none
    let s (c : ThCmd) := { homed with thresher := [(0, [c])] }
    KMap.get [] (s c).thresher 0 = [c] ∧ (atomicOf c).isSome = true ∧ (s c).hbmBad 0x240000 8 = false ∧
    ({ s c with hbmPoison := [(0x240000 / 64, true)] }).hbmBad 0x240000 8 = true ∧ (s c).units.any (fun x => x.2.recorded) = false ∧
    KMap.get [] (s m).thresher 0 = [m] ∧ ((List.range 65).map (fun k => 0x240000 + 64 * k)).Pairwise (fun a b => a + 64 ≤ b ∨ b + 64 ≤ a) ∧
    (∀ k ∈ List.range 65, (s m).hbmBad (0x240000 + 64 * k) 64 = false) := by decide +kernel
/-- A request, a store and a tile's store of the unit in flight, and a line of the fabric cache on its way. -/
theorem witness_replies :
    let s := { task.modCu (fun u => { u with replies := [⟨9, 0, 0, 0x240000, 1, none, none, false⟩] }) with fills := [⟨10, 0, 0, 0, 0x240000, 1, false, false, [(1, 0, 0, 0, 8)]⟩] }
    rising s.units ∧ (∀ f ∈ s.fills, f.tag ≠ 9) ∧ unrecorded s 9 ∧ (s.fills.find? (fun f => f.tag == 10)).isSome = true ∧
    (let t := task.modRe (fun r => { r with stores := [⟨11, 0, 0x240000, 1, false, 0⟩] })
     t.tileOfTag 11 = none ∧ t.storeOfTag 11 = some (1, 0, ⟨11, 0, 0x240000, 1, false, 0⟩) ∧ rising (t.unitOf 1).reeves) ∧
    (let t := planned [(0, { Tile.idle with running := true, issued := true, unacked := [12] })]
     ∃ p n, t.tileOfTag 12 = some (p, n) ∧ livePlan t p.part p.handle p) := by
  unfold rising unrecorded
  refine ⟨by decide +kernel, by decide +kernel, by decide +kernel, by decide +kernel, by decide +kernel, plan1 _, 0, rfl, ?_⟩
  unfold livePlan; exact ⟨rfl, rfl, by decide +kernel, by decide +kernel⟩

/-! ### Passes and turns -/

/-- One partition, as it was but for its cached directory entries. -/
def partsKeptB (s u : State) : Bool :=
  match s.parts, u.parts with
  | [(k, x)], [(j, y)] => k == j && y == { x with dir := y.dir }
  | _, _ => false
/-- A launch record that names the image at 0x240000, with flags and handles of predecessors. -/
def launchRec (flags dep : Nat) : Desc := desc [(8, flags), (20, dep), (56, 0x240000)]
/-- An image header of one task, one stream buffer of 64 bytes and no declaration. -/
def header1 : Desc := desc [(0, 0x5A4C), (16, 1), (17, 1), (18, 1), (19, 1), (20, 4), (22, 1), (24, 4096), (36, 0x100)]
/-- Pass 2 in state `st` beside pass 1, and its image in memory. -/
def launched (d : Desc) (st : PassState) (first : PassState) : State :=
  { task with
    parts := [(0, { part0 with passes := [{ pass0 with st := first }, { pass0 with seq := 2, lrec := d, header := header1, st := st, placedAt := 0 }], pcseq := 2 })]
    hbm := memWrite (memWrite task.hbm 0x240000 (leBytes 64 header1.toNat)) 0x240100 (leBytes 8 (64 * 2 ^ 32)) }
theorem witness_launches :
    task.mgst ≠ .safe ∧ task.paused 0 = false ∧ (task.partOf 0).st = .active ∧ (task.partOf 0).openPasses < 256 ∧
    ({ task with parts := [(0, { part0 with st := .quiescing })] }.partOf 0).st ≠ .active ∧
    (∃ x, (launched (launchRec 0 0) .queued .running).passAt 0 2 = some x ∧ (x.st == .queued) = true) ∧ recordBroken 1 0 ∧ ¬recordBroken (launchRec 0 1) 0 ∧
    (∃ l u, (launched (launchRec 0 1) .queued .running).readVA ⟨0, 0, false, none⟩ [] 0x240000 64 = .ok l u ∧
      (leVal l == header1.toNat && partsKeptB (launched (launchRec 0 1) .queued .running) u &&
        (match u.readVA ⟨0, 0, false, none⟩ [] 0x240100 8 with
          | .ok st v => leVal (st.take 4) == 0 && leVal ((st.drop 4).take 4) == 64 && v.parts == u.parts && (match v.readVA ⟨0, 0, false, none⟩ [] 0x240000 0 with
            | .ok sx w => sx == [] && w.parts == v.parts | _ => false)
          | _ => false)) = true) ∧
    (∃ f u, task.readVA ⟨0, 0, false, none⟩ [] 0x40000000 64 = .trap f u ∧ partsKeptB task u = true) := by
  refine ⟨by decide +kernel, by decide +kernel, by decide +kernel, by decide +kernel, by decide +kernel, exists_some (by decide +kernel), ?_, ?_,
    exists_of_answers (by decide +kernel), exists_of_traps (by decide +kernel)⟩ <;> (unfold recordBroken; decide +kernel)
theorem witness_images1 : imageGood (launchRec 0 1) header1 ∧ ¬imageGood (launchRec 0 1) 0 ∧ ¬imageGood (launchRec 1 1) (header1 ||| desc [(2, 1)]) := by
  refine ⟨?_, fun h => absurd h.1 (by decide +kernel), fun h => absurd (h.2.2.2.2.2.2.2.2.2.2.2.2.2.2.2.2.2.2.2.2.2.2 (by decide +kernel)) (by decide +kernel)⟩
  unfold imageGood
  refine ⟨by decide +kernel, by decide +kernel, by decide +kernel, by decide +kernel, by decide +kernel, by decide +kernel, by decide +kernel, by decide +kernel,
    by decide +kernel, by decide +kernel, by decide +kernel, by decide +kernel, by decide +kernel, by decide +kernel, by decide +kernel, by decide +kernel,
    by decide +kernel, by decide +kernel, by decide +kernel, by decide +kernel, by decide +kernel, by decide +kernel, fun h => absurd h (by decide +kernel)⟩
theorem witness_streamTables : streamsGood 4096 1 (leBytes 8 (64 * 2 ^ 32)) ∧ declsGood 0 [] ∧
    reserveOf (launchRec 0 1) header1 ≤ 2 ^ 30 - ((task.partOf 0).reserveBase + 2 ^ 20) := by
  refine ⟨?_, ?_, by unfold reserveOf either wlogOf; decide +kernel⟩
  · intro k h
    have : k = 0 := by omega
    subst this
    refine ⟨by decide +kernel, by decide +kernel, by decide +kernel, by decide +kernel, fun j h1 h2 => by omega⟩
  · intro k h; omega
/-- Its predecessor runs, is done, or has failed. -/
theorem witness_predecessors :
    let s (st : PassState) := launched (launchRec 0 1) .queued st
    (∃ z, (s .running).passAt 0 (2 - 1) = some z ∧ (z.st == .running) = true) ∧ (∃ z, (s .done).passAt 0 (2 - 1) = some z ∧ (z.st == .done) = true) ∧
    (∃ z, (s .faulted).passAt 0 (2 - 1) = some z ∧ (z.st == .faulted) = true) ∧ dfld (launchRec 0 1) 20 2 = 1 :=
  ⟨exists_some (by decide +kernel), exists_some (by decide +kernel), exists_some (by decide +kernel), by decide +kernel⟩
/-- A pass whose task has ended; one that is over; with work left and without. -/
theorem witness_completionRecords :
    let s := task.modRe (fun r => { r with ended := true })
    let o := { s with parts := [(0, { part0 with passes := [{ pass0 with st := .done, lrec := desc [(40, 0x240000)] }] })] }
    (∃ x, s.passAt 0 1 = some x ∧ (x.st == .running && dfld x.lrec 8 2 % 2 == 0 && s.unitsOf 0 (passIdOf 0 1) == [1] &&
      ((s.unitOf 1).reeveOf 0).ended) = true) ∧ (∀ e ∈ s.cores, e.2.wq = []) ∧ s.plans = [] ∧
    (∃ x, o.passAt 0 1 = some x ∧ (x.st == .done && !x.recorded && x.sends == [] && (o.partOf 0).faults == [] && o.shardOut == [] &&
      (((o.unitOf 1).reeveOf 0).stores == [])) = true) ∧ rising o.units ∧
    (∃ u v, o.writeVA ⟨0, 0, false, none⟩ 0 none 0x240002 (List.replicate 30 0) = .ok u v ∧ (partsKeptB o v && v.units == o.units &&
      (match v.writeVA ⟨0, 0, false, none⟩ 0 none 0x240000 [1, 0] with | .ok _ w => partsKeptB o w && w.units == o.units | _ => false)) = true) := by
  refine ⟨exists_some (by decide +kernel), by decide +kernel, by decide +kernel, exists_some (by decide +kernel), by unfold rising; decide +kernel,
    exists_of_answers (by decide +kernel)⟩
/-- A READY pass with a free core, a PARKED one, and a READY one of higher priority than the one that runs. -/
def parkedUnit : Machine.Unit := { unit0 with passId := 2, place := .preempted, core := 0 }
def placing (st : PassState) (prio : Nat) (us : KMap Machine.Unit) (first : PassState) : State :=
  { launched (desc [(10, prio), (56, 0x240000)]) st first with
    units := us, cores := if us.any (fun u => u.2.place == .running) then task.cores else [(0, Core.reset)] }
theorem witness_placements :
    (∃ x, (placing .ready 0 [] .done).passAt 0 2 = some x ∧ (x.st == .ready && (placing .ready 0 [] .done).nextPass 0 == some x &&
      ((placing .ready 0 [] .done).slotsFor 0 x).isSome && ((placing .ready 0 [] .done).regionsFor 0 x).isSome &&
      (let m := (placing .ready 0 [] .done).startMask 0 0; m.2.units == [] && m.2.nextUid == 2 && partsKeptB (placing .ready 0 [] .done) m.2)) = true) ∧
    (∃ x, (placing .parked 0 [(1, parkedUnit)] .done).passAt 0 2 = some x ∧ (x.st == .parked && (placing .parked 0 [(1, parkedUnit)] .done).nextPass 0 == some x &&
      ((placing .parked 0 [(1, parkedUnit)] .done).slotsFor 0 x).isSome && (placing .parked 0 [(1, parkedUnit)] .done).unitsOf 0 (passIdOf 0 2) == [1] &&
      parkedUnit.ctxBad == 0 && parkedUnit.ctxCheck == []) = true) ∧
    (∃ x, (placing .ready 3 [(1, unit0)] .running).passAt 0 2 = some x ∧ ((placing .ready 3 [(1, unit0)] .running).lacksSlots 0 == some x &&
      ((placing .ready 3 [(1, unit0)] .running).victim 0 3).isSome) = true) :=
  ⟨exists_some (by decide +kernel), exists_some (by decide +kernel), exists_some (by decide +kernel)⟩
/-- Two units of one core: the running one has waited too long or used its quantum, the other is ready. -/
def shared (waited turn loft : Nat) : State :=
  { task with
    units := [(1, { unit0 with reeves := [(0, { reeve0 with waited := waited })] }), (2, { unit0 with idx := 1, place := .ready, loftSize := loft, ctxPA := 0x38200000 })]
    cores := [(0, { Core.reset with running := some 1, turn := turn })]
    nextUid := 3 }
theorem witness_turns :
    (∀ a ∈ [(4096, 0, 0), (0, 2 ^ 20, 0)], let s := shared a.1 a.2.1 a.2.2
      (s.coreOf 0).running = some 1 ∧ (s.unitOf 1).place = .running ∧ (s.unitOf 1).core = 0 ∧ (s.coreOf 0).rerun = [] ∧ (s.coreOf 0).unpowered = false ∧
      readyHere s 0 2 (s.unitOf 2) ∧ contextWhole s 2 ∧ (∀ r ∈ [0, 1], s.haltedWord 1 r ≠ some .endTask) ∧ (s.coreOf 0).shadow = [] ∧
      (s.coreOf 0).preloaded = none ∧ (4096 ≤ ((s.unitOf 1).reeveOf 0).waited ∨ 2 ^ 20 ≤ (s.coreOf 0).turn) ∧ s.nextOn 0 (0, 1) = some 2) := by
  intro a h
  simp only [List.mem_cons, List.not_mem_nil, or_false] at h
  rcases h with rfl | rfl <;> (unfold readyHere contextWhole; refine ⟨by decide +kernel, by decide +kernel, by decide +kernel, by decide +kernel, by decide +kernel,
    by decide +kernel, ⟨by decide +kernel, by decide +kernel, .inl (by decide +kernel)⟩, by decide +kernel, by decide +kernel, by decide +kernel, by decide +kernel, by decide +kernel⟩)
theorem witness_spills :
    (let s := { shared 0 0 4096 with cores := [(0, { Core.reset with running := some 1, shadow := [2] })] }
     (s.coreOf 0).shadow = [2] ∧ (s.unitOf 2).core = 0 ∧ (s.unitOf 2).live = true ∧ (s.unitOf 2).place = .ready ∧ (s.unitOf 2).ctxCheck = [] ∧
     (s.unitOf 2).replies.length ≤ 256 ∧ (s.unitOf 2).loftSize ≤ 2 ^ 21 ∧ (s.unitOf 1).loftSize ≤ 2 ^ 21) ∧
    (let s := shared 0 0 4096
     mayLeave s 0 2 (s.unitOf 2) ∧ ∀ e ∈ s.units, e.1 ≠ 2 → (e.2.place ≠ .ready ∧ e.2.place ≠ .preempted ∧ e.2.place ≠ .faulted)) ∧
    (task.coreOf 0).preloadPass = none ∧ (∃ y, (launched (launchRec 0 0) .ready .running).candidates 0 = [y] ∧ (dfld y.header 24 4 == 4096) = true) := by
  refine ⟨by decide +kernel, ⟨by unfold mayLeave; decide +kernel, by decide +kernel⟩, by decide +kernel, _, rfl, by decide +kernel⟩
/-- A unit that a fault parked, with DISP 1, 2, 3 and another value. -/
def faultedUnit (disp : Nat) : State :=
  { task with
    units := [(1, { unit0 with place := .faulted, cause0 := 7, seq0 := 1 })], cores := [(0, Core.reset)]
    hbm := memWrite task.hbm 0x38100000 (leBytes 2 (1 + 256 * disp)) }
theorem witness_dispositions :
    (∀ d ∈ [1, 2, 3, 9], let s := faultedUnit d
      disposed s 1 (BitVec.ofNat 8 d) ∧ contextWhole s 1 ∧ (s.passOf (s.unitOf 1)).isSome = true ∧ (s.passAt 0 1).isSome = true) ∧
    (let s := faultedUnit 2
     let m := s.startMask 0 0
     m.2.units = s.units ∧ partsKeptB s m.2 = true) ∧
    (let s := { faultedUnit 1 with units := [(1, { unit0 with place := .faulted, cause0 := 7, ctxBad := 6 })] }
     disposed s 1 1 ∧ (s.unitOf 1).ctxBad ≠ 0) := by
  refine ⟨?_, by decide +kernel, by unfold disposed; decide +kernel⟩
  intro d h
  simp only [List.mem_cons, List.not_mem_nil, or_false] at h
  rcases h with rfl | rfl | rfl | rfl <;> (unfold disposed contextWhole; exact ⟨by decide +kernel, ⟨by decide +kernel, by decide +kernel, .inl (by decide +kernel)⟩,
    by decide +kernel, by decide +kernel⟩)
theorem witness_hostControls :
    ((task.partOf 0).passes.map (fun y => y.seq)).Nodup ∧ rising task.units ∧ task.mgst ≠ .safe ∧ ({ task with mgst := .safe }).mgst = .safe ∧ passPart 1 = 0 ∧
    (task.passAt 0 (passSeq 1)).isSome = true ∧ ((task.unitOf 1).reeveOf 0).ended = false ∧
    (∃ x, (planned []).plans.find? (fun x => x.part == 0 && x.handle == 3) = some x ∧ (decide (0 < dfld x.desc 20 4) && decide (1 < tilesOf x.desc) && x.failed == none) = true) := by
  refine ⟨by decide +kernel, by unfold rising; decide +kernel, by decide +kernel, by decide +kernel, by decide +kernel, by decide +kernel, by decide +kernel,
    exists_some (by decide +kernel)⟩

/-! ### Ports, Ethernet, management, power, security -/

/-- The task with port 0 in a state, its four lanes used in order. -/
def ported (st : PortState) : State := { task with ports := [(0, { Port.reset with st := st, lanes := 0xBA98, width := 0, speed := 0, routed := st == .up })], tim := 60000000000 }
/-- A record of the partner with the same width and lanes, and one with another width. -/
def partnerRec (w : BitVec 2) : ConfirmRec := ⟨7, 3, 1, w, 0, 0xBA98, []⟩
theorem witness_portsTrain :
    (∀ st ∈ [PortState.down, .detect, .equalise, .confirm, .up, .disputed, .disabled, .retire], ((ported st).portOf 0).st = st) ∧
    inverseMaps 0xBA98 0xBA98 ∧ ((ported .confirm).portOf 0).width = (partnerRec 0).width ∧ ((ported .confirm).portOf 0).width ≠ (partnerRec 2).width ∧
    60000000000 ≤ (ported .up).tim.toNat - ((ported .up).portOf 0).since.toNat ∧ widestOf 4 0 0 ∧ ¬retiredLane 0xBA98 0 := by
  refine ⟨by decide +kernel, ?_, by decide +kernel, by decide +kernel, by decide +kernel, ?_, by unfold retiredLane nibble; decide⟩
  · unfold inverseMaps usedLane nibble; decide +kernel
  · exact ⟨by decide, by decide, fun x h _ => h⟩
/-- Flits in the clear and under a key, in and out of sequence. -/
theorem witness_flits :
    let h (kind seq : Nat) : Word := BitVec.ofNat 64 (2 ^ 60 * kind + 2 ^ 46 * seq + 2 ^ 10 * 7)
    let d : List Byte := List.replicate 112 5
    (∃ g, hdrField (h 1 0) 60 4 = 1 ∧ hdrField (h 1 0) 46 12 = (((ported .up).portOf 0).rxSeq + 1) % 4096 ∧ hdrField (h 1 0) 25 8 = 0 ∧ hdrField (h 1 0) 0 10 = 0 ∧
      d.length = 112 ∧ flitCrc (h 1 0) d = g) ∧
    hdrField (h 1 9) 46 12 ≠ (((ported .up).portOf 0).rxSeq + 1) % 4096 ∧ ¬hdrField (h 5 0) 60 4 < 4 ∧
    (let s := { ported .up with keys := [(1, 9)] }
     let k : Word := h 1 0 ||| 0x2000000
     ∃ g, hdrField k 25 8 = 1 ∧ KMap.get 0 s.keys 1 ≠ 0 ∧ gcmTag (KMap.get 0 s.keys 1) (ivOf (s.portOf 0) 1) (leBytes 8 k.toNat) d = g ∧
      (KMap.get PortSlot.empty (s.portOf 0).slots 1).dropping = false) ∧
    (let s := { task with ports := [(0, { Port.reset with st := .up, resend := true, slots := [(1, { PortSlot.empty with tx := 2 ^ 64 - 1, dropping := true, failsInRow := 8 })] })] }
     (s.portOf 0).resend = true ∧ (KMap.get PortSlot.empty (s.portOf 0).slots 1).dropping = true ∧ 2 ^ 64 ≤ (KMap.get PortSlot.empty (s.portOf 0).slots 1).tx + 1 ∧
     (KMap.get PortSlot.empty (s.portOf 0).slots 1).stopped = false) :=
  ⟨⟨_, by decide +kernel, by decide +kernel, by decide +kernel, by decide +kernel, by decide, rfl⟩, by decide +kernel, by decide +kernel,
    ⟨_, by decide +kernel, by decide +kernel, rfl, by decide +kernel⟩, by decide +kernel⟩
/-- Port 0 with queue pair 1: rings at 0x240000, of 16 descriptors, whose first names 64 bytes at `va`. -/
def ringed (va : Nat) (base : Word) (en : Bool) : State :=
  let r : Ring := ⟨base, 0, en, 4, 0, 1, 0⟩
  { task with pairs := [(1, ⟨0, r, r⟩)], hbm := memWrite task.hbm 0x240000 (leBytes 32 (va + 64 * 2 ^ 64)) }
theorem witness_rings :
    (∀ recv, let r := ringAt (ringed 0x250000 0x240000 true) 0 1 recv
      r.en = true ∧ r.cons ≠ r.prod ∧ ((5 : BitVec 32).toNat + 2 ^ 32 - r.cons.toNat) % 2 ^ 32 ≤ 2 ^ r.logn ∧
      2 ^ r.logn < ((17 : BitVec 32).toNat + 2 ^ 32 - r.cons.toNat) % 2 ^ 32) ∧ (ringAt (ringed 0x250000 0x240000 false) 0 1 true).en = false ∧
    (∀ va ∈ [0x250000, 0x40000000], let s := { ringed va 0x240000 true with eng := some 0 }
      ∃ l u, s.readVA ⟨0, 0, false, none⟩ [] (descriptorAt (ringAt s 0 1 false)) 32 = .ok l u ∧
        (u.pairs == s.pairs && dfld (BitVec.ofNat 256 (leVal l)) 0 8 == va && u.bufOk ⟨0, 0, false, none⟩ .load (BitVec.ofNat 64 va) 64 == decide (va = 0x250000) &&
          u.bufOk ⟨0, 0, false, none⟩ .store (BitVec.ofNat 64 va) 64 == decide (va = 0x250000) &&
          (match u.writeVA ⟨0, 0, false, none⟩ 0 none 0x240012 (List.replicate 14 0) with | .ok _ w => w.pairs == s.pairs | _ => false)) = true) ∧
    (∃ f u, ({ ringed 0x250000 0x40000000 true with eng := some 0 } : State).readVA ⟨0, 0, false, none⟩ [] 0x40000000 32 = .trap f u ∧ (u.eng == some 0) = true) ∧
    (let s := { streamed 0 0 with eng := some 0 }
     (match s.xlate ⟨0, 0, false, some 1⟩ .store false 0x40000000 64 1 with | .ok (.loft 1 0) _ => (s.unitOf 1).streamAt 0 == some 0 | _ => false) = true) := by
  refine ⟨by decide +kernel, by decide +kernel, ?_, exists_of_traps (by decide +kernel), by decide +kernel⟩
  intro va h
  simp only [List.mem_cons, List.not_mem_nil, or_false] at h
  rcases h with rfl | rfl <;> exact exists_of_answers (by decide +kernel)
theorem witness_management :
    task.mgst ≠ .starting ∧ task.mgst ≠ .updating ∧ ¬settledPart (task.partOf 0) ∧ (∀ e ∈ State.reset.parts, settledPart e.2) ∧ { task with mgst := .safe }.mgst = .safe ∧
    (task.partOf 1).st = .off ∧ { task with parts := [(0, { part0 with st := .quiesced })] }.partOf 0 ≠ part0 ∧
    { task with starting := some true, mgst := .starting }.starting = some true ∧ { task with updating := some (3, []) }.updating = some (3, []) := by
  unfold settledPart; decide +kernel
/-- A partition record for core 5 and 1 GiB, with a keeper image of 64 bytes. -/
def partitionImage : List Byte := leBytes 128 (2 ^ 96 + 2 ^ (128 + 5) + 2 ^ 512 * (2 ^ 128 * 64 + 2 ^ 256 * 2 ^ 30))
theorem witness_createPartition :
    let s := { task with parts := [], units := [], cores := [], host := memWrite [] 0 partitionImage, mgimgl := 128 }
    hostBytes s 0 64 = partitionImage.take 64 ∧ fieldOf (hostBytes s 0 64) 12 4 = 1 ∧ (List.range 384).filter (fun c => (fieldOf (hostBytes s 0 64) 16 48).testBit c) = [5] ∧
    (s.coreOf 5).retired = false ∧ (s.coreOf 5).unpowered = false ∧ keeperImageGood (hostBytes s 64 64) (2 ^ 30) ∧ s.mgimgl.toNat = 64 + fieldOf (hostBytes s 64 64) 16 8 ∧
    gapFor 0 hbmBytes [] (2 ^ 30) = some 0 ∧ gapFor 0 (min Config.cxlGiB 3072 * 2 ^ 30) [] 0 = some 0 := by
  refine ⟨by decide +kernel, by decide +kernel, by decide +kernel, by decide +kernel, by decide +kernel, ?_, by decide +kernel, by decide +kernel, rfl⟩
  refine ⟨by decide +kernel, by decide +kernel, by decide +kernel, by decide +kernel, by decide +kernel, by decide +kernel, by decide +kernel, by decide +kernel, .inl (by decide +kernel), .inl (by decide +kernel),
    .inl (by decide +kernel), by decide +kernel⟩
theorem witness_registers :
    State.reset.mgst ≠ .safe ∧ 0x1008 / 2 ^ 20 = 0 ∧ 0x1008 % 2 ^ 20 = 0x1008 ∧ (0x0207 : Word).toNat % 2 ^ 8 = 7 := by decide
theorem witness_power :
    (KMap.get Die.reset task.dies 0).tripped = false ∧ (∀ u ∈ task.units, u.2.initial = false) ∧ rising task.units ∧
    (KMap.get Die.reset { task with dies := [(0, { Die.reset with tripped := true })] }.dies 0).tripped = true ∧ 0 ≤ task.powerLimit ∧
    (let s := { task with parts := [(0, { part0 with cores := [3, 4], remap := [3, 4] })] }
     (s.coreOf 3).running = none ∧ (s.coreOf 3).routine = none ∧ (s.coreOf 3).wq = [] ∧ (s.coreOf 3).retired = false ∧ 3 ∈ (s.partOf 0).cores ∧
     (s.partOf 0).cores.filter (fun e => e != 3 && !(s.coreOf e).retired && !(s.coreOf e).unpowered) = [4]) ∧
    (let s := { State.reset with ltr := some (30000, 40000) }
     s.quiet = true ∧ s.ltr = some (30000, 40000)) ∧ task.quiet = false := by unfold rising; decide +kernel
/-- An enclave record of one participant, whose key pair is (1, G), and one member partition, signed with the nonce 1. -/
def enclaveRec : List Byte := leBytes 452
  (5 +
    2 ^ 32 * 1 +
    2 ^ 48 * 1 +
    2 ^ 56 * 1 +
    2 ^ 1280 * 0xbbee3a823998712bace686ed852ba08f1c2c76aa3d7a63750e72e69fe3ea29a5f01f9772b91a662559464e7995799d5d +
    2 ^ 2048 * 0xaa87ca22be8b05378eb1c71ef320ad746e1d3b628ba79b9859f741e082542a385502f25dbf55296c3a545e3872760ab73617de4a96262c6f5d9e98bf9292dc29f8f41dbd289a147ce9da3113b5f0b8c00a60b1ce1d7e819d7a431d7c90ea0e5f +
    2 ^ 2848 * 0xaa87ca22be8b05378eb1c71ef320ad746e1d3b628ba79b9859f741e082542a385502f25dbf55296c3a545e3872760ab70b18c35240988f72d4ce5b6a93290bacd747a16cb1b7b04362e79a98c1f448865855e0b80a9c4a9d46dd0858107baa2f)
/-- A package whose partition 0 may join: no open pass, its session with the host open; and the enclave that the record forms. -/
def joining : State := { task with parts := [(0, { part0 with passes := [] })], sessions := [(4096, 5)] }
def enclave1 (quorum : Nat) : Enclave := ⟨5, 1, 0, quorum, [BitVec.ofNat 768 (p384G.1 * 2 ^ 384 + p384G.2), 1], [0], [], 9, []⟩
def revocation1 : List Byte := leBytes 16 (5 + 2 ^ 64)
theorem witness_enclaveRecords :
    joining.enclaveOk enclaveRec = true ∧ KMap.get 0 joining.sessions (4096 + 0) ≠ 0 ∧ joining.attests enclaveRec [] = true ∧ joining.peer = some (((0 : BitVec 32)).toNat % 2 ^ 12) ∧
    task.enclaveOk enclaveRec = false ∧ KMap.get 0 task.sessions (4096 + 0) = 0 := by decide +kernel
theorem witness_revocations :
    let s := { joining with enclaves := [enclave1 0], parts := [(0, { part0 with passes := [], enclave := 5 })] }
    s.enclaves.find? (fun x => x.id == fieldOf revocation1 0 2) = some (enclave1 0) ∧ revocationOk (enclave1 0) revocation1 = true ∧
    revocationOk (enclave1 0) [] = false ∧ (∀ e ∈ task.enclaves, e.id ≠ fieldOf revocation1 0 2) ∧ membersHere s (enclave1 0).members = [0] ∧
    participant 0 = fieldOf revocation1 2 1 ∧ participant 0 ≠ 1 := by decide +kernel
/-- A domain record of 4,160 bytes: identity 1, own peer 0, no route. -/
def domainRec : List Byte := leBytes 64 1 ++ List.replicate 4096 255
theorem domainRec_route {i : Nat} (h : i < 4096) : fieldOf domainRec (64 + i) 1 = 255 := by
  have e : domainRec.getD (64 + i + 0) 0 = 255 := by
    have l : (leBytes 64 1).length = 64 := by decide
    rw [domainRec, List.getD_eq_getElem?_getD, List.getElem?_append_right (by rw [l]; omega), l, List.getElem?_replicate]
    simp [h]
  simp only [fieldOf, littleEndian]
  rw [e]; rfl
theorem witness_domains : domainGood domainRec ∧ domainRec.length = 4160 ∧ ¬domainGood [] := by
  refine ⟨⟨by decide +kernel, by decide +kernel, by decide +kernel, by decide +kernel, fun k hk j hj => ?_, fun j hj => ?_⟩, by decide +kernel, fun h => absurd h.2.2.1 (by decide)⟩
  · simp only []
    rw [show 64 + 4 * k + j = 64 + (4 * k + j) by omega, domainRec_route (by omega)]
    exact ⟨.inr rfl, fun i hi _ => by rw [show 64 + 4 * k + i = 64 + (4 * k + i) by omega, domainRec_route (by omega)]⟩
  · have e : fieldOf domainRec 16 2 = 0 := by decide +kernel
    simp only [e]
    rw [show 64 + 4 * 0 + j = 64 + j by omega, domainRec_route (by omega)]

/-! ### Words and checks -/

/-- Words of the spec's listings, one of each family (chapters 12 to 28). -/
theorem test_listedVectorWords :
    decode 0x2AC4043010082401 = some (.ve8q .f32 3 true 4 ⟨4, 1, 0, .e8w16⟩) ∧ decode 0x2F50044000048302 = some (.vtopk true 3 16 1 4 0) ∧
    decode 0x4138A30014796040 = some (.dualWord (.alu .sub 14 10 12) (.addI13 15 11 0x40)) ∧
    decode 0x3001040000000480 = some (.vld ⟨1, 1, 0, .f32⟩ 0 ⟨0, 0, 0⟩) ∧ decode 0x35000C0000000000 = some (.vrpt 3) ∧
    decode 0x358000000000000F = some (.vbars 15) := by decide
theorem test_listedEngineWords :
    decode 0x384851605C000001 = some (.mma ⟨8, 20, 22, 23, 0, 0, 0, 0, 1⟩) ∧ decode 0x3888159000010001 = some (.mdrn ⟨8, 5, 25, 0, 1, 0, 0, 1⟩) ∧
    decode 0x3AC0280000000001 = some (.wfil 10 1) ∧ decode 0x3A40300000000002 = some (.wgth 12 2) ∧
    decode 0x3C43040B01048000 = some (.sxupd 3 1 11 0 1 .f32 0) ∧ decode 0x3CCD0C0000000000 = some (.sxqry 13 3 0 false 0 0) ∧
    decode 0x3C00080000000001 = some (.sxini 0 2 true 0) ∧ decode 0x3F8B280000000000 = some (.agset 11 10) ∧
    decode 0x3F103CB0344AC002 = some (.mldr 16 15 11 13 0 .f32 .bf16 2) ∧ decode 0x3F403CB039350002 = some (.mstb 15 11 14 .f32 true 5 2) := by decide
theorem test_listedScalarWords :
    decode 0x164D3C0000008312 = some (.st .n32 13 15 8 ⟨1, 0, 2⟩) ∧ decode 0x1700000000000048 = some (.fence ⟨4, 2, 0⟩) ∧
    decode 0x86CA000000000010 = some (.li 10 16) := by decide
/-- An instruction with a field that each check of `wf` refuses. -/
theorem test_illFormedScalarWords : ∀ i ∈ [Instr.fadd .i32 1 2 3, .fcvt .i8 .i16 .rne .none 1 2, .fcvt .e4m3 .f32 .rne .none 1 2, .ld .f32 1 2 0 ⟨0, 0, 0⟩,
    .ld .i8 1 2 0 ⟨6, 0, 0⟩, .ld .i8 1 2 0 ⟨0, 1, 0⟩, .ld .i8 1 2 0 ⟨0, 0, 2⟩, .st .i8 1 2 0 ⟨0, 0, 1⟩, .st .i8 1 2 0 ⟨0, 3, 0⟩, .amo .fadd .i32 1 2 3 ⟨0, 0, 0⟩,
    .amo .add .i32 1 2 3 ⟨0, 1, 0⟩, .cas .f32 1 2 3 4 ⟨0, 0, 0⟩, .fence ⟨0, 1, 1⟩, .tladv 1 2 3 6, .vblk 1 2 0 9, .vblk 1 2 0 0, .vblk 1 63 0 2, .sysrd 1 0 18,
    .syswr 1 1 16, .dualWord (.alu .add 1 0 0) .nop, .dualWord (.alu .add 2 1 3) .nop, .dualWord (.ldD 2 0 0) (.ldD 3 0 0),
    .dualWord (.br .eq 0 0 0) (.br .eq 1 1 0)], i.wf = false := by decide
theorem test_illFormedVectorWords : ∀ i ∈ [Instr.vsett true 1 5, .vadd ⟨1, 2, 3, 8, .i8, false⟩, .vand ⟨1, 2, 3, 0, .i16, false⟩, .vcmp .eq ⟨0, 2, 3, 0, .i8, false⟩,
    .vmv ⟨1, 2, 3, 0, .i8, true⟩, .vcvt .i8 .rne .none ⟨1, 2, 0, .i16⟩, .vbdq 3 1 ⟨1, 2, 0, .i8⟩, .ve8q .f64 1 false 0 ⟨1, 2, 0, .i8⟩, .ve8q .f32 1 true 32 ⟨1, 2, 0, .i8⟩,
    .ve8d .f32 1 ⟨1, 2, 0, .e8w32⟩, .vpack .i8 ⟨1, 2, 1, .i8⟩, .vunpk .f32 ⟨1, 2, 0, .i8⟩, .vsldu true 1 2 ⟨1, 2, 0, .i8⟩, .vsldu false 0 16 ⟨1, 2, 0, .i8⟩,
    .viota ⟨1, 8, 0, .i8⟩, .mpop 16 1 0, .mlog 0 0 1 2, .mlog 7 1 2 3, .vtopk true 65 1 2 3 0, .vsort true false 1 ⟨1, 2, 0, .i8⟩, .vldC ⟨1, 2, 0, .i4⟩ 0,
    .vldx 1 ⟨1, 16, 0, .i8⟩ ⟨0, 0, 0⟩, .vamo .fadd 1 ⟨1, 2, 0, .i32⟩ ⟨0, 0, 0⟩, .vldm 0 1 0, .loop 0 true 1 2 2, .loop 0 false 1 0 1,
    .sloop 0 16 1 0 0 2, .lpbrk 0 true 1, .vrpt 16, .vbars 0], i.wf = false := by decide
theorem test_illFormedEngineWords : ∀ i ∈ [Instr.mma ⟨0, 63, 0, 0, 0, 0, 0, 0, 0⟩, .mma ⟨0, 1, 0, 0, 0, 23, 0, 0, 0⟩, .mdrn ⟨0, 1, 2, 0, 6, 0, 0, 0⟩,
    .mdrn ⟨0, 1, 2, 3, 0, 0, 0, 0⟩, .sxini 32 1 false 0, .sxini 1 1 false 4, .sxupd 1 2 0 0 3 .i8 0, .sxupd 1 2 0 1 0 .i8 0, .sxupd 1 2 0 0 0 .i8 1,
    .sxmrg 1 32 false 0, .sxqry 1 2 3 false 0 0, .sxqry 1 2 0 true 23 0, .mldr 1 2 3 4 3 .f32 .f32 1, .mldr 1 2 3 4 0 .f32 .f64 1, .mldr 1 2 3 4 0 .f32 .f32 0,
    .mstb 1 2 3 .i8 false 0 1, .mstb 1 2 3 .f32 false 1 1, .mstb 1 2 3 .f64 false 0 513], i.wf = false := by decide
/-- The check value of the CRC that R39 names (ECMA-182, over the digits 1 to 9), which its standard gives. -/
theorem test_crc64 : crc64Bytes [0x31, 0x32, 0x33, 0x34, 0x35, 0x36, 0x37, 0x38, 0x39] = 0x6C40DF5F0B497347 := by decide +kernel
/-- R48's example: DISP 1, lane 0 joined to lane 0 of the partner and lane 2 retired, STATE 4. -/
theorem test_portStatus :
    { Port.reset with st := .up, width := 2, speed := 2, lanes := 0x0408, disp := 1, partnerPort := 9, partnerPeer := 52 }.status = 0x000342400408A404 := by decide +kernel
/-- A corrupted signature does not verify. -/
theorem test_signature : ecdsaVerify ((erPoints enclaveRec).headD 0) 0 (BitVec.ofNat 768 (rfld enclaveRec 356 96)) = false := by decide +kernel
/-- A placed word is the first that runs after reset: in the table's numbering its bits are the word's. -/
theorem test_placedWords :
    (match step (State.reset.withFetchWord 64 0x86CA000000000010) with | .next t => t.units.any (fun u => KMap.get 0 (u.2.reeveOf 0).g 10 == 16) | _ => false) = true ∧
    (match step (State.reset.withFetchWord 64 0x3540000000000000) with | .next t => t.units.any (fun u => !(u.2.sheafOf 0).busy) | _ => false) = true ∧
    decodeTableWord 64 0x86CA000000000010 = some (.li 10 16) := by decide +kernel
end Sys2Proof.Tests
end

section
/-!
PROOFS. What is stored is read back: in a byte memory (assumption logs 2 and 5) and through a sealed write log (R215, R216).
-/
namespace Sys2Proof.Machine
open Sys2Proof.Claims

/-! ### Byte memories -/

theorem memWrite_wf {m : Memory} (a : Nat) (l : List Byte) (h : KMap.wf 0 m = true) : KMap.wf 0 (memWrite m a l) = true := by
  induction l generalizing m a with
  | nil => exact h
  | cons b l ih => exact ih (a + 1) (KMap.wf_set 0 m a b h)

theorem get_memWrite (m : Memory) (a : Nat) (l : List Byte) (k : Nat) :
    KMap.get 0 (memWrite m a l) k = if a ≤ k ∧ k < a + l.length then l.getD (k - a) 0 else KMap.get 0 m k := by
  induction l generalizing m a with
  | nil => exact (if_neg fun h => absurd h.2 (by simpa using h.1)).symm
  | cons b l ih =>
    rw [memWrite, ih, KMap.get_set]
    obtain hk | rfl | hk := Nat.lt_trichotomy k a
    · simp [show ¬ a + 1 ≤ k by omega, show ¬ a ≤ k by omega, hk.ne]
    · simp
    · have tail : (a + 1 ≤ k ∧ k < a + 1 + l.length) ↔ (a ≤ k ∧ k < a + (b :: l).length) := by rw [List.length_cons]; omega
      rw [if_congr tail rfl rfl, if_neg hk.ne', show k - a = k - (a + 1) + 1 by omega, List.getD_cons_succ]

theorem length_memRead (m : Memory) (a n : Nat) : (memRead m a n).length = n := by simp [memRead]

theorem memRead_memWrite (m : Memory) (a : Nat) (l : List Byte) : memRead (memWrite m a l) a l.length = l := by
  refine List.ext_getElem (length_memRead _ _ _) fun i _ hi => ?_
  have byte : KMap.get 0 (memWrite m a l) (a + i) = l[i] := by
    rw [get_memWrite, if_pos ⟨by omega, by omega⟩, Nat.add_sub_cancel_left, List.getD_eq_getElem _ _ hi]
  simpa [memRead] using byte

/-! ### Bits and bytes of a field that was replaced -/

/-- The bytes of a little-endian value are the listed ones, and zeros above them. -/
theorem testBit_leVal (l : List Byte) (i : Nat) : (leVal l).testBit i = (l.getD (i / 8) 0).getLsbD (i % 8) := by
  induction l generalizing i with
  | nil => simp [leVal]
  | cons b l ih =>
    have split : leVal (b :: l) = 2 ^ 8 * leVal l + b.toNat := Nat.add_comm _ _
    rw [split, Nat.testBit_two_pow_mul_add _ b.isLt]
    split
    · next h => simp [Nat.div_eq_of_lt h, Nat.mod_eq_of_lt h, BitVec.testBit_toNat]
    · next h =>
      rw [ih, show i / 8 = (i - 8) / 8 + 1 by omega, List.getD_cons_succ, show (i - 8) % 8 = i % 8 by omega]

/-- The three parts of a number whose field was replaced: above, in and below the field. -/
theorem putFld_eq (n lo w v : Nat) : putFld n lo w v = 2 ^ lo * (2 ^ w * (n / 2 ^ lo / 2 ^ w) + v % 2 ^ w) + n % 2 ^ lo := by
  have hn : 2 ^ lo * (2 ^ w * (n / 2 ^ lo / 2 ^ w) + n / 2 ^ lo % 2 ^ w) + n % 2 ^ lo = n := by
    rw [Nat.div_add_mod, Nat.div_add_mod]
  rw [Nat.mul_add] at hn ⊢
  simp only [putFld, fld, Nat.shiftRight_eq_div_pow, Nat.shiftLeft_eq, Nat.mul_comm _ (2 ^ lo)]
  omega

theorem testBit_putFld (n lo w v i : Nat) :
    (putFld n lo w v).testBit i = if lo ≤ i ∧ i < lo + w then v.testBit (i - lo) else n.testBit i := by
  rw [putFld_eq, Nat.testBit_two_pow_mul_add _ (Nat.mod_lt _ (by positivity)),
    Nat.testBit_two_pow_mul_add _ (Nat.mod_lt _ (by positivity))]
  by_cases below : i < lo
  · simp [below, Nat.not_le.mpr below]
  by_cases inside : i - lo < w
  · simp [below, inside, Nat.not_lt.mp below, show i < lo + w by omega]
  · simp [below, inside, show ¬ i < lo + w by omega, Nat.testBit_div_two_pow, show i - lo - w + w + lo = i by omega]

theorem getLsbD_byteAt (n k b : Nat) : (BitVec.ofNat 8 (n / 2 ^ (8 * k))).getLsbD b = (decide (b < 8) && n.testBit (b + 8 * k)) := by
  rw [BitVec.getLsbD_ofNat, Nat.testBit_div_two_pow]

/-- Byte `k` of a record after the bytes `l` were put at offset `o`. -/
theorem byteAt_dput {w : Nat} (d : BitVec w) (o k : Nat) (l : List Byte) (hk : 8 * k + 8 ≤ w) :
    BitVec.ofNat 8 ((dput d o l.length (leVal l)).toNat / 2 ^ (8 * k)) =
      if o ≤ k ∧ k < o + l.length then l.getD (k - o) 0 else BitVec.ofNat 8 (d.toNat / 2 ^ (8 * k)) := by
  refine BitVec.eq_of_getLsbD_eq fun b hb => ?_
  have field : (8 * o ≤ b + 8 * k ∧ b + 8 * k < 8 * o + 8 * l.length) ↔ (o ≤ k ∧ k < o + l.length) := by omega
  rw [getLsbD_byteAt, dput, BitVec.toNat_ofNat, Nat.testBit_mod_two_pow, testBit_putFld, testBit_leVal, if_congr field rfl rfl]
  split
  · next h =>
    rw [show (b + 8 * k - 8 * o) / 8 = k - o by omega, show (b + 8 * k - 8 * o) % 8 = b by omega]
    simp [hb, show b + 8 * k < w by omega]
  · rw [getLsbD_byteAt]
    simp [hb, show b + 8 * k < w by omega]

/-! ### The sealed log -/

/-- Byte `k` of a granule as a log entry shows it: the logged byte where the mask has it, else `old`. -/
def LogEntry.shows (e : LogEntry) (k : Nat) (old : Byte) : Byte :=
  if e.mask.getLsbD k then BitVec.ofNat 8 (e.data.toNat / 2 ^ (8 * k)) else old

theorem logged_eq_shows (log : List LogEntry) (a : Nat) (old : Byte) :
    logged log a old = ((log.find? (fun e => e.addr == a / 64 * 64)).map (fun e => e.shows (a % 64) old)).getD old := by
  unfold logged
  cases log.find? (fun e => e.addr == a / 64 * 64) <;> rfl

@[simp] theorem LogEntry.put_addr (e : LogEntry) (o : Nat) (l : List Byte) : (e.put o l).addr = e.addr := rfl

theorem LogEntry.put_mask_getLsbD (e : LogEntry) (o : Nat) (l : List Byte) {k : Nat} (hk : k < 64) :
    (e.put o l).mask.getLsbD k = (e.mask.getLsbD k || decide (o ≤ k ∧ k < o + l.length)) := by
  have inMask : (decide (o ≤ k) && decide (k - o < l.length)) = decide (o ≤ k ∧ k < o + l.length) := by
    rw [← Bool.decide_and]; exact decide_eq_decide.mpr (by omega)
  rw [LogEntry.put, BitVec.getLsbD_or, BitVec.getLsbD_ofNat, Nat.testBit_shiftLeft, Nat.testBit_two_pow_sub_one]
  simp [hk, ← inMask]

theorem LogEntry.shows_of_mask_zero {e : LogEntry} (h : e.mask = 0) (k : Nat) (old : Byte) : e.shows k old = old := by
  simp [LogEntry.shows, h]

/-- An entry shows the bytes put into it, and as before every other byte of its granule. -/
theorem LogEntry.shows_put (e : LogEntry) (o : Nat) (l : List Byte) (old : Byte) {k : Nat} (hk : k < 64) :
    (e.put o l).shows k old = if o ≤ k ∧ k < o + l.length then l.getD (k - o) 0 else e.shows k old := by
  have data : BitVec.ofNat 8 ((e.put o l).data.toNat / 2 ^ (8 * k)) = _ := byteAt_dput e.data o k l (by omega)
  rw [LogEntry.shows, LogEntry.put_mask_getLsbD e o l hk, data]
  by_cases h : o ≤ k ∧ k < o + l.length
  · simp [h]
  · simp [h, LogEntry.shows]

/-- What a store to granule `g` makes of an entry that the log holds. -/
def LogEntry.putAt (g o : Nat) (l : List Byte) (e : LogEntry) : LogEntry := if e.addr == g then e.put o l else e

theorem LogEntry.putAt_of_eq {g : Nat} {e : LogEntry} (o : Nat) (l : List Byte) (h : e.addr = g) : e.putAt g o l = e.put o l := by
  simp [LogEntry.putAt, h]
theorem LogEntry.putAt_of_ne {g : Nat} {e : LogEntry} (o : Nat) (l : List Byte) (h : e.addr ≠ g) : e.putAt g o l = e := by
  simp [LogEntry.putAt, h]
@[simp] theorem LogEntry.putAt_addr (g o : Nat) (l : List Byte) (e : LogEntry) : (e.putAt g o l).addr = e.addr := by
  by_cases h : e.addr = g
  · rw [LogEntry.putAt_of_eq o l h, LogEntry.put_addr]
  · rw [LogEntry.putAt_of_ne o l h]

/-- A store to granule `g` changes no entry's address, so the entry found first for a granule stays the first. -/
theorem find?_map_putAt (log : List LogEntry) (g g' o : Nat) (l : List Byte) :
    (log.map (LogEntry.putAt g o l)).find? (fun e => e.addr == g') = (log.find? (fun e => e.addr == g')).map (LogEntry.putAt g o l) := by
  have keeps : (fun e : LogEntry => e.addr == g') ∘ LogEntry.putAt g o l = fun e => e.addr == g' := by
    funext e
    simp
  rw [List.find?_map, keeps]

/-- A write that the log takes updates the entries of its granule, or appends one where there is none and the log has room (R216). -/
theorem logWrite_cases {cap : Nat} {log new : List LogEntry} {pa : Nat} {va : Word} {l : List Byte} (h : logWrite cap log pa va l = some new) :
    ((log.find? (fun e => e.addr == pa / 64 * 64)).isSome ∧ new = log.map (LogEntry.putAt (pa / 64 * 64) (pa % 64) l)) ∨
    (log.find? (fun e => e.addr == pa / 64 * 64) = none ∧ log.length < cap ∧
      ∃ e : LogEntry, e.addr = pa / 64 * 64 ∧ e.mask = 0 ∧ new = log ++ [e.put (pa % 64) l]) := by
  simp only [logWrite] at h
  split at h
  · next hit => exact .inl ⟨by simpa using hit, (Option.some.inj h).symm⟩
  · next miss =>
    split at h
    · cases h
    · next room => exact .inr ⟨by simpa using miss, Nat.not_le.mp room, _, rfl, rfl, (Option.some.inj h).symm⟩

theorem find?_logWrite_same {cap : Nat} {log new : List LogEntry} {pa : Nat} {va : Word} {l : List Byte}
    (h : logWrite cap log pa va l = some new) :
    ∃ e : LogEntry, new.find? (fun e => e.addr == pa / 64 * 64) = some (e.put (pa % 64) l) ∧
      (log.find? (fun e => e.addr == pa / 64 * 64) = some e ∨ log.find? (fun e => e.addr == pa / 64 * 64) = none ∧ e.mask = 0) := by
  obtain ⟨hit, rfl⟩ | ⟨miss, -, e, he, empty, rfl⟩ := logWrite_cases h
  · obtain ⟨e, he⟩ := Option.isSome_iff_exists.mp hit
    have haddr : e.addr = pa / 64 * 64 := by simpa using List.find?_some he
    exact ⟨e, by rw [find?_map_putAt, he, Option.map_some, LogEntry.putAt_of_eq _ l haddr], .inl he⟩
  · exact ⟨e, by simp [List.find?_append, miss, he], .inr ⟨miss, empty⟩⟩

theorem find?_logWrite_ne {cap : Nat} {log new : List LogEntry} {pa g : Nat} {va : Word} {l : List Byte}
    (h : logWrite cap log pa va l = some new) (hg : g ≠ pa / 64 * 64) :
    new.find? (fun e => e.addr == g) = log.find? (fun e => e.addr == g) := by
  obtain ⟨-, rfl⟩ | ⟨-, -, e, he, -, rfl⟩ := logWrite_cases h
  · rw [find?_map_putAt]
    cases found : log.find? (fun e => e.addr == g) with
    | none => rfl
    | some e =>
      have haddr : e.addr = g := by simpa using List.find?_some found
      rw [Option.map_some, LogEntry.putAt_of_ne _ l (haddr.trans_ne hg)]
  · simp [List.find?_append, he, hg.symm]

theorem length_logWrite {cap : Nat} {log new : List LogEntry} {pa : Nat} {va : Word} {l : List Byte}
    (h : logWrite cap log pa va l = some new) : new.length ≤ log.length ∨ new.length = log.length + 1 ∧ log.length < cap := by
  obtain ⟨-, rfl⟩ | ⟨-, room, e, -, -, rfl⟩ := logWrite_cases h
  · exact .inl (List.length_map _).le
  · exact .inr ⟨by simp, room⟩

/-- Bytes within one granule: `a` is among them if and only if it lies in that granule and its offset is among theirs. -/
theorem inGranule_iff {pa n : Nat} (a : Nat) (h : pa % 64 + n ≤ 64) :
    (pa ≤ a ∧ a < pa + n) ↔ a / 64 * 64 = pa / 64 * 64 ∧ (pa % 64 ≤ a % 64 ∧ a % 64 < pa % 64 + n) := by omega

/-- R215, R216: after a logged store the log shows the stored bytes, and every other byte as before. -/
theorem logged_logWrite {cap : Nat} {log new : List LogEntry} {pa : Nat} {va : Word} {l : List Byte}
    (h : logWrite cap log pa va l = some new) (one : pa % 64 + l.length ≤ 64) (a : Nat) (old : Byte) :
    logged new a old = if pa ≤ a ∧ a < pa + l.length then l.getD (a - pa) 0 else logged log a old := by
  rw [if_congr (inGranule_iff a one) rfl rfl, logged_eq_shows, logged_eq_shows]
  by_cases hg : a / 64 * 64 = pa / 64 * 64
  · obtain ⟨e, hnew, hlog⟩ := find?_logWrite_same h
    have before : ((log.find? (fun e => e.addr == pa / 64 * 64)).map (fun e => e.shows (a % 64) old)).getD old = e.shows (a % 64) old := by
      obtain hit | ⟨miss, empty⟩ := hlog
      · rw [hit]; rfl
      · rw [miss, LogEntry.shows_of_mask_zero empty]; rfl
    rw [hg, hnew, before, Option.map_some, Option.getD_some, LogEntry.shows_put e _ l old (Nat.mod_lt a (by decide)),
      show a - pa = a % 64 - pa % 64 by omega]
    simp
  · rw [find?_logWrite_ne h hg, if_neg fun within => hg within.1]

/-! ### The statement -/

/-- The sealed log's half of the statement. -/
theorem loggedStores_readBack : Claims.loggedStoresAreReadBack := by
  intro cap log new pa va l h one
  refine ⟨fun j hj old => ?_, fun a ha old => ?_, length_logWrite h⟩
  · rw [logged_logWrite h one, if_pos ⟨by omega, by omega⟩, Nat.add_sub_cancel_left]
  · rw [logged_logWrite h one, if_neg (by omega)]

/-- The byte memories' half of the statement. -/
theorem memoryWrites_readBack : Claims.memoryWritesAreReadBack :=
  fun m a l h => ⟨memWrite_wf a l h, get_memWrite m a l, memRead_memWrite m a l⟩

/-- Settles O27: one read-after-write law for the sealed log and one for the byte memories. -/
theorem logsAndMemoriesAreReadBack : Obligations.LogsAndMemoriesAreReadBack :=
  ⟨loggedStores_readBack, memoryWrites_readBack⟩

end Sys2Proof.Machine
end

section
/-!
PROOFS. Keyed maps whose values were mapped, and keyed maps whose keys rise.
-/
namespace Sys2Proof

/-- A property `g` of the values that a map keeps reads at every key as before. -/
theorem KMap.proj_get_map {α β : Type} (g : α → β) (d : α) (m : KMap α) (f : Nat × α → α) (h : ∀ p, g (f p) = g p.2) (k : Nat) :
    g (KMap.get d (m.map (fun p => (p.1, f p))) k) = g (KMap.get d m k) := by
  induction m with
  | nil => rfl
  | cons p m ih =>
    obtain ⟨j, v⟩ := p
    simp only [List.map_cons, KMap.get]
    split
    · exact h (j, v)
    · split
      · rfl
      · exact ih

/-- A map of the values that keeps the default applies to the value at every key. -/
theorem KMap.get_map {α : Type} (d : α) (m : KMap α) (f : α → α) (h : f d = d) (k : Nat) :
    KMap.get d (m.map (fun p => (p.1, f p.2))) k = f (KMap.get d m k) := by
  induction m with
  | nil => exact h.symm
  | cons p m ih =>
    simp only [List.map_cons, KMap.get]
    split
    · rfl
    · split
      · exact h.symm
      · exact ih

/-- Where the keys rise, an entry is what its key reads. -/
theorem KMap.get_of_mem {α : Type} (d : α) {m : KMap α} (h : Claims.rising m) {p : Nat × α} (hp : p ∈ m) : KMap.get d m p.1 = p.2 := by
  induction m with
  | nil => cases hp
  | cons q m ih =>
    obtain ⟨above, rest⟩ := List.pairwise_cons.1 h
    obtain rfl | hp := List.mem_cons.1 hp
    · exact KMap.get_head d _ _ _
    · rw [KMap.get_above d _ _ (above _ (List.mem_map_of_mem hp)), ih rest hp]

end Sys2Proof
end

section
/-!
PROOFS. What rescheduling keeps: the dispatcher's operations on cores, contexts and lofts leave the health of the cores, the slots of the
partitions, their passes and the tasks' program counters and registers as they are (R139, R142, R148-R150).
-/
namespace Sys2Proof.Machine
open Sys2Proof.Claims

/-! ### The relations -/

/-- Power and retirement of a core. -/
def Core.health (c : Core) : Bool × Bool × Bool := (c.unpowered, c.retired, c.marked)
/-- The program counters and registers of a unit's tasks, and the mark of a context that is lost. -/
def Unit.tasks (u : Unit) : Nat × (Nat → Word × KMap Word) := (u.ctxBad, fun r => ((u.reeveOf r).pc, (u.reeveOf r).g))

/-- From `s` to `t` the dies and the health of the cores stayed. -/
structure KeepsHardware (s t : State) : Prop where
  dies : t.dies = s.dies
  health : ∀ c, (t.coreOf c).health = (s.coreOf c).health

/-- So did the enclaves, the tasks of the units, and the cores and slots of the partitions. -/
structure KeepsTasks (s t : State) : Prop extends KeepsHardware s t where
  enclaves : t.enclaves = s.enclaves
  tasks : ∀ u, (t.unitOf u).tasks = (s.unitOf u).tasks
  slots : ∀ p, (t.partOf p).cores = (s.partOf p).cores ∧ (t.partOf p).remap = (s.partOf p).remap

/-- So did the passes, and the core of each unit: the dispatcher took units off their cores and put units on. -/
structure Rescheduled (s t : State) : Prop extends KeepsTasks s t where
  core : ∀ u, (t.unitOf u).core = (s.unitOf u).core
  passes : ∀ p, (t.partOf p).passes = (s.partOf p).passes

theorem KeepsHardware.refl (s : State) : KeepsHardware s s := ⟨rfl, fun _ => rfl⟩
theorem KeepsHardware.trans {s t u : State} (h : KeepsHardware s t) (g : KeepsHardware t u) : KeepsHardware s u :=
  ⟨g.dies.trans h.dies, fun c => (g.health c).trans (h.health c)⟩
theorem KeepsHardware.unpowered {s t : State} (h : KeepsHardware s t) (c : Nat) : (t.coreOf c).unpowered = (s.coreOf c).unpowered :=
  congrArg (·.1) (h.health c)
theorem KeepsHardware.retired {s t : State} (h : KeepsHardware s t) (c : Nat) : (t.coreOf c).retired = (s.coreOf c).retired :=
  congrArg (·.2.1) (h.health c)
theorem KeepsHardware.marked {s t : State} (h : KeepsHardware s t) (c : Nat) : (t.coreOf c).marked = (s.coreOf c).marked :=
  congrArg (·.2.2) (h.health c)

theorem KeepsTasks.refl (s : State) : KeepsTasks s s := ⟨.refl s, rfl, fun _ => rfl, fun _ => ⟨rfl, rfl⟩⟩
theorem KeepsTasks.trans {s t u : State} (h : KeepsTasks s t) (g : KeepsTasks t u) : KeepsTasks s u where
  toKeepsHardware := h.toKeepsHardware.trans g.toKeepsHardware
  enclaves := g.enclaves.trans h.enclaves
  tasks v := (g.tasks v).trans (h.tasks v)
  slots p := ⟨(g.slots p).1.trans (h.slots p).1, (g.slots p).2.trans (h.slots p).2⟩
theorem KeepsTasks.ctxBad {s t : State} (h : KeepsTasks s t) (u : Nat) : (t.unitOf u).ctxBad = (s.unitOf u).ctxBad :=
  congrArg Prod.fst (h.tasks u)
theorem KeepsTasks.tasksKept {s t : State} (h : KeepsTasks s t) (u : Nat) : tasksKept s t u := fun r =>
  Prod.ext_iff.1 (congrFun (congrArg Prod.snd (h.tasks u)) r)

/-- Nothing that the relation speaks of was written. -/
theorem Rescheduled.of_eq {s t : State} (dies : t.dies = s.dies) (enclaves : t.enclaves = s.enclaves) (cores : t.cores = s.cores)
    (units : t.units = s.units) (parts : t.parts = s.parts) : Rescheduled s t where
  dies := dies
  health c := by rw [State.coreOf, cores, State.coreOf]
  enclaves := enclaves
  tasks u := by rw [State.unitOf, units, State.unitOf]
  slots p := by rw [State.partOf, parts, State.partOf]; exact ⟨rfl, rfl⟩
  core u := by rw [State.unitOf, units, State.unitOf]
  passes p := by rw [State.partOf, parts, State.partOf]

theorem Rescheduled.refl (s : State) : Rescheduled s s := .of_eq rfl rfl rfl rfl rfl
theorem Rescheduled.trans {s t u : State} (h : Rescheduled s t) (g : Rescheduled t u) : Rescheduled s u where
  toKeepsTasks := h.toKeepsTasks.trans g.toKeepsTasks
  core v := (g.core v).trans (h.core v)
  passes p := (g.passes p).trans (h.passes p)
theorem Rescheduled.passAt {s t : State} (h : Rescheduled s t) (p q : Nat) : t.passAt p q = s.passAt p q := by
  rw [State.passAt, h.passes, State.passAt]

/-- What every step of a fold keeps, the fold keeps. -/
theorem Rescheduled.foldl {α : Type} {f : State → α → State} (h : ∀ s x, Rescheduled s (f s x)) (l : List α) (s : State) :
    Rescheduled s (l.foldl f s) := by
  induction l generalizing s with
  | nil => exact .refl s
  | cons x l ih => exact (h s x).trans (ih _)

/-! ### Single writes -/

theorem Rescheduled.modUnit (s : State) (u : Nat) {f : Unit → Unit} (tasks : ∀ x, (f x).tasks = x.tasks := by intro; rfl)
    (core : ∀ x, (f x).core = x.core := by intro; rfl) : Rescheduled s (s.modUnit u f) where
  toKeepsTasks := {
    dies := rfl
    health := fun _ => rfl
    enclaves := rfl
    tasks := fun v => by
      by_cases h : v = u
      · rw [h, State.unitOf_modUnit_self, tasks]
      · rw [State.unitOf_modUnit_ne s f h]
    slots := fun _ => ⟨rfl, rfl⟩ }
  core v := by
    by_cases h : v = u
    · rw [h, State.unitOf_modUnit_self, core]
    · rw [State.unitOf_modUnit_ne s f h]
  passes _ := rfl

theorem Rescheduled.modCore (s : State) (c : Nat) {f : Core → Core} (health : ∀ x : Core, (f x).health = x.health := by intro; rfl) :
    Rescheduled s (s.modCore c f) := by
  refine ⟨⟨⟨rfl, fun b => ?_⟩, rfl, fun _ => rfl, fun _ => ⟨rfl, rfl⟩⟩, fun _ => rfl, fun _ => rfl⟩
  by_cases h : b = c
  · rw [h, State.coreOf_modCore_self, health]
  · rw [State.coreOf_modCore_ne s f h]

theorem Rescheduled.mapCores (s : State) {f : Nat × Core → Core} (health : ∀ p, (f p).health = p.2.health := by intro; rfl) :
    Rescheduled s { s with cores := s.cores.map (fun p => (p.1, f p)) } :=
  ⟨⟨⟨rfl, KMap.proj_get_map Core.health _ s.cores f health⟩, rfl, fun _ => rfl, fun _ => ⟨rfl, rfl⟩⟩, fun _ => rfl, fun _ => rfl⟩

theorem KeepsTasks.modPart (s : State) (p : Nat) {f : Partition → Partition} (cores : (f (s.partOf p)).cores = (s.partOf p).cores)
    (remap : (f (s.partOf p)).remap = (s.partOf p).remap) : KeepsTasks s (s.modPart p f) := by
  refine ⟨⟨rfl, fun _ => rfl⟩, rfl, fun _ => rfl, fun q => ?_⟩
  by_cases h : q = p
  · rw [h, State.partOf_modPart_self]
    exact ⟨cores, remap⟩
  · rw [State.partOf_modPart_ne s _ h]
    exact ⟨rfl, rfl⟩

theorem Rescheduled.modPart (s : State) (p : Nat) {f : Partition → Partition} (cores : (f (s.partOf p)).cores = (s.partOf p).cores)
    (remap : (f (s.partOf p)).remap = (s.partOf p).remap) (passes : (f (s.partOf p)).passes = (s.partOf p).passes) :
    Rescheduled s (s.modPart p f) := by
  refine ⟨KeepsTasks.modPart s p cores remap, fun _ => rfl, fun q => ?_⟩
  by_cases h : q = p
  · rw [h, State.partOf_modPart_self, passes]
  · rw [State.partOf_modPart_ne s _ h]

@[simp] theorem Unit.tasks_ctxCheck (u : Unit) (l : List (Nat × Byte)) : ({ u with ctxCheck := l } : Unit).tasks = u.tasks := rfl

/-- A unit whose reeves were mapped, with their program counters and registers kept, keeps its tasks. -/
theorem Unit.tasks_mapReeves (u : Unit) {f : Nat × Reeve → Reeve} (pc : ∀ p, (f p).pc = p.2.pc := by intro; rfl)
    (g : ∀ p, (f p).g = p.2.g := by intro; rfl) :
    ({ u with reeves := u.reeves.map (fun p => (p.1, f p)) } : Unit).tasks = u.tasks :=
  Prod.ext rfl <| funext fun r => KMap.proj_get_map (fun x : Reeve => (x.pc, x.g)) _ u.reeves f (fun p => by rw [pc, g]) r

theorem Unit.tasks_modReeve (u : Unit) (q : Nat) {f : Reeve → Reeve} (pc : ∀ x, (f x).pc = x.pc := by intro; rfl)
    (g : ∀ x, (f x).g = x.g := by intro; rfl) : (u.modReeve q f).tasks = u.tasks := by
  refine Prod.ext rfl (funext fun r => ?_)
  by_cases h : r = q
  · simp only [Unit.tasks, h, Unit.reeveOf_modReeve_self, pc, g]
  · simp only [Unit.tasks, Unit.reeveOf_modReeve_ne u f h]

/-! ### Contexts, lofts and fault records -/

theorem rescheduled_hbmWrite (s : State) (a : Nat) (l : List Byte) : Rescheduled s (s.hbmWrite a l) := .of_eq rfl rfl rfl rfl rfl
theorem rescheduled_count (s : State) (n : Nat) : Rescheduled s (s.count n) := .of_eq rfl rfl rfl rfl rfl

theorem rescheduled_writeContext (s : State) (uid : Nat) : Rescheduled s (s.writeContext uid) := by
  unfold State.writeContext
  dsimp only
  generalize ctxBytes (s.unitOf uid) s.fresh (s.replySection uid) = l
  refine Rescheduled.trans (Rescheduled.trans ?_ (Rescheduled.modCore _ _)) (Rescheduled.modUnit _ uid)
  exact .of_eq rfl rfl rfl rfl rfl

theorem rescheduled_spillLoft (s : State) (uid : Nat) : Rescheduled s (s.spillLoft uid) := by
  unfold State.spillLoft
  dsimp only
  have spilled (m : KMap Bool) (a : Nat) (l : List Byte) : Rescheduled s ({ s.hbmWrite a l with hbmPoison := m }.modUnit uid (fun u =>
      { u with loft := [], loftPoison := [], loftResident := false })) :=
    (Rescheduled.of_eq rfl rfl rfl rfl rfl : Rescheduled s { s.hbmWrite a l with hbmPoison := m }).trans (Rescheduled.modUnit _ _)
  split
  · exact .refl s
  · split
    · exact spilled _ _ _
    · exact (spilled _ _ _).trans (rescheduled_hbmWrite _ _ _)

theorem rescheduled_fillLoft (s : State) (uid : Nat) : Rescheduled s (s.fillLoft uid) := by
  unfold State.fillLoft
  dsimp only
  split
  · exact .refl s
  · split
    · exact Rescheduled.modUnit _ _
    · exact (Rescheduled.modUnit _ _).trans (rescheduled_hbmWrite _ _ _)

theorem rescheduled_takeHalf (s : State) (c uid : Nat) (other : Option Nat) : Rescheduled s (s.takeHalf c uid other) :=
  (Rescheduled.foldl rescheduled_spillLoft _ s).trans (rescheduled_fillLoft _ uid)

/-- What `g` reads, a fold whose steps keep it keeps. -/
theorem foldl_keeps {α β γ : Type} {f : α → β → α} (g : α → γ) (h : ∀ a b, g (f a b) = g a) (l : List β) (a : α) :
    g (l.foldl f a) = g a := by
  induction l generalizing a with
  | nil => rfl
  | cons b l ih => rw [List.foldl_cons, ih, h]

/-- A record's budgets and loop state are read back; the tasks' program counters and registers are not in it (R149, R320). -/
theorem rescheduled_reloadContext (s : State) (uid : Nat) : Rescheduled s (s.reloadContext uid) := by
  unfold State.reloadContext
  dsimp only
  split
  · exact .refl s
  · refine Rescheduled.modUnit s uid (fun u => ?_) (fun u => ?_)
    · refine (Unit.tasks_ctxCheck _ []).trans ((foldl_keeps Unit.tasks (fun u k => ?_) _ _).trans (foldl_keeps Unit.tasks (fun u r => ?_) _ _))
      · rfl
      · exact Unit.tasks_modReeve u r
    · refine (foldl_keeps Unit.core (fun u k => ?_) _ _).trans (foldl_keeps Unit.core (fun u r => ?_) _ _) <;> rfl

theorem rescheduled_queueRec (s : State) (p : Nat) (r : FaultRec) : Rescheduled s (s.queueRec p r) := by
  unfold State.queueRec
  dsimp only
  have queued := Rescheduled.modPart s p (f := fun x => { x with faults := x.faults ++ [r] }) rfl rfl rfl
  split
  · exact queued
  · exact queued.trans (rescheduled_count _ _)

theorem rescheduled_record (s : State) (uid r : Nat) (t : TrapInfo) (iaddr : Word) (flags : Nat) (parks : Bool) :
    Rescheduled s (s.record uid r t iaddr flags parks) := rescheduled_queueRec s _ _

theorem rescheduled_faultContext (s : State) (uid : Nat) : Rescheduled s (s.faultContext uid) := by
  unfold State.faultContext
  dsimp only
  refine Rescheduled.trans ?_ (rescheduled_record _ _ _ _ _ _ _)
  split
  · exact (Rescheduled.modUnit s uid).trans (rescheduled_writeContext _ uid)
  · exact (Rescheduled.modUnit s uid).trans (rescheduled_hbmWrite _ _ _)

/-! ### Units take and leave cores -/

theorem rescheduled_putOn (s : State) (c uid : Nat) : Rescheduled s (s.putOn c uid) := by
  unfold State.putOn
  dsimp only
  split
  all_goals
    refine Rescheduled.trans ?_ (Rescheduled.modUnit _ uid fun u => Unit.tasks_mapReeves u)
    refine Rescheduled.trans (Rescheduled.trans ?_ (Rescheduled.modCore _ c)) (Rescheduled.modUnit _ uid)
    exact (rescheduled_takeHalf s c uid _).trans (rescheduled_reloadContext _ uid)

theorem rescheduled_startWhole (s : State) (c : Nat) (last : Nat × Nat) (n : Nat) : Rescheduled s (s.startWhole c last n) := by
  induction n generalizing s with
  | zero => exact .refl s
  | succ n ih =>
    unfold State.startWhole
    split
    · split
      · exact rescheduled_putOn s c _
      · exact (rescheduled_faultContext s _).trans (ih _)
    · exact .refl s

theorem rescheduled_startNext (s : State) (c : Nat) (last : Nat × Nat) : Rescheduled s (s.startNext c last) := by
  unfold State.startNext
  dsimp only
  split
  · exact .refl s
  · exact rescheduled_startWhole s c last _

theorem rescheduled_startCores (s : State) (p : Nat) : Rescheduled s (s.startCores p) :=
  Rescheduled.foldl (fun s c => rescheduled_startNext s c _) _ s

theorem rescheduled_toShadow (s : State) (c uid : Nat) : Rescheduled s (s.toShadow c uid) := by
  refine (Rescheduled.foldl (fun s v => ?_) _ s).trans (Rescheduled.modCore _ c)
  dsimp only
  split
  · exact rescheduled_writeContext s v
  · exact .refl s

theorem Unit.halt_tasks (u : Unit) (place : Place) : (u.halt place).tasks = u.tasks := Unit.tasks_mapReeves u

theorem rescheduled_leaveCore (s : State) (uid : Nat) (place : Place) : Rescheduled s (s.leaveCore uid place) := by
  unfold State.leaveCore
  dsimp only
  have halted : Rescheduled s (s.modUnit uid (fun u => u.halt place)) := Rescheduled.modUnit s uid fun u => u.halt_tasks place
  split
  · have off := halted.trans (Rescheduled.modCore _ (s.unitOf uid).core (f := fun x => { x with running := none, turn := 0 }))
    split
    · exact (off.trans (rescheduled_toShadow _ _ uid)).trans (rescheduled_startNext _ _ _)
    · exact off.trans (rescheduled_startNext _ _ _)
  · exact halted

theorem rescheduled_stopUnits (s : State) (p seq : Nat) : Rescheduled s (s.stopUnits p seq) := by
  unfold State.stopUnits
  dsimp only
  refine Rescheduled.trans ?_ (Rescheduled.foldl (fun s x => ?_) _ _)
  · split
    · exact Rescheduled.mapCores s
    · exact .refl s
  · refine (rescheduled_leaveCore s x.1 .over).trans (Rescheduled.trans ?_ (Rescheduled.modCore _ x.2.core))
    exact Rescheduled.modUnit _ x.1 fun u => Unit.tasks_mapReeves u

end Sys2Proof.Machine
end

section
/-!
PROOFS. How a pass ends, what the zeroisation of keys leaves, and what a critical trip does (R32, R128, R142).
-/
namespace Sys2Proof.Machine
open Sys2Proof.Claims

/-! ### Key slots -/

theorem zeroise_frame (s : State) (k : Nat) : s.zeroise k = { s with keys := (s.zeroise k).keys, ports := (s.zeroise k).ports } := by
  unfold State.zeroise
  split <;> rfl

theorem get_zeroise_keys (s : State) (k j : Nat) :
    KMap.get 0 (s.zeroise k).keys j = if j = k ∧ k ≠ 0 then 0 else KMap.get 0 s.keys j := by
  unfold State.zeroise
  split
  · next h => rw [if_neg fun g => g.2 (by simpa using h)]
  · next h =>
    have hk : k ≠ 0 := by simpa using h
    simp only [State.putKey, KMap.get_set, hk, ne_eq, not_false_eq_true, and_true]

/-- Only keys and ports changed. -/
def OnlyKeys (s t : State) : Prop := t = { s with keys := t.keys, ports := t.ports }

theorem onlyKeys_foldl {α : Type} {f : State → α → State} (h : ∀ s x, OnlyKeys s (f s x)) (l : List α) (s : State) : OnlyKeys s (l.foldl f s) := by
  induction l generalizing s with
  | nil => rfl
  | cons x l ih =>
    have step : OnlyKeys (f s x) (l.foldl f (f s x)) := ih _
    have first : OnlyKeys s (f s x) := h s x
    unfold OnlyKeys at *
    rw [List.foldl_cons, step, first]

theorem onlyKeys_zeroise (s : State) (k : Nat) : OnlyKeys s (s.zeroise k) := zeroise_frame s k

theorem OnlyKeys.rescheduled {s t : State} (h : OnlyKeys s t) : Rescheduled s t := by
  rw [h]
  exact .of_eq rfl rfl rfl rfl rfl

/-- A key that is gone stays gone while slots are zeroised. -/
theorem keys_foldl_zeroise {α : Type} (slot : α → Nat) (l : List α) (s : State) (k : Nat)
    (h : KMap.get 0 s.keys k = 0 ∨ ∃ x ∈ l, slot x = k ∧ k ≠ 0) : KMap.get 0 (l.foldl (fun s x => s.zeroise (slot x)) s).keys k = 0 := by
  induction l generalizing s with
  | nil => simpa using h
  | cons x l ih =>
    refine ih _ ?_
    rw [get_zeroise_keys]
    obtain h | ⟨y, hy, rfl, nz⟩ := h
    · left; split <;> trivial
    · obtain rfl | hy := List.mem_cons.1 hy
      · left; exact if_pos ⟨rfl, nz⟩
      · exact .inr ⟨y, hy, rfl, nz⟩

theorem zeroEnclaves_frame (s : State) :
    s.zeroEnclaves = { s with enclaves := s.zeroEnclaves.enclaves, keys := s.zeroEnclaves.keys, ports := s.zeroEnclaves.ports } := by
  unfold State.zeroEnclaves
  dsimp only
  have enclaves := onlyKeys_foldl (fun s (e : Enclave) => onlyKeys_zeroise s e.slot) (s.enclaves.filter fun e => e.key != 0)
    { s with enclaves := s.enclaves.map (fun e => { e with key := 0 }) }
  have plans := onlyKeys_foldl (fun s (q : Plan) => onlyKeys_zeroise s q.keySlot)
  generalize (s.enclaves.filter fun e => e.key != 0).foldl _ _ = t at enclaves ⊢
  have plans := plans t.plans t
  generalize t.plans.foldl _ _ = u at plans ⊢
  rw [plans, enclaves]

/-- R128: the key of every enclave that has one is gone. -/
theorem zeroEnclaves_keys (s : State) {e : Enclave} (he : e ∈ s.enclaves) (key : e.key ≠ 0) (slot : e.slot ≠ 0) :
    KMap.get 0 s.zeroEnclaves.keys e.slot = 0 :=
  keys_foldl_zeroise Plan.keySlot _ _ _ <| .inl <|
    keys_foldl_zeroise Enclave.slot _ _ _ <| .inr ⟨e, List.mem_filter.2 ⟨he, by simpa using key⟩, rfl, slot⟩

/-! ### How a pass is over -/

theorem rescheduled_dropPlanKey (s : State) (k : Nat) : Rescheduled s (s.dropPlanKey k) := by
  unfold State.dropPlanKey
  split
  · exact .refl s
  · exact (onlyKeys_zeroise s k).rescheduled

theorem rescheduled_freePlans (s : State) (p : Nat) (id : Word) : Rescheduled s (s.freePlans p id) :=
  have dropped : Rescheduled s { s with plans := s.plans.filter (fun q => !(q.part == p && q.passId == id)) } := .of_eq rfl rfl rfl rfl rfl
  dropped.trans (Rescheduled.foldl (fun s (q : Plan) => rescheduled_dropPlanKey s q.keySlot) _ _)

theorem passAt_modPass (s : State) (p q : Nat) {f : Pass → Pass} (seq : ∀ x, (f x).seq = x.seq := by intro; rfl) (p' q' : Nat) :
    (s.modPass p q f).passAt p' q' = if p' = p ∧ q' = q then (s.passAt p q).map f else s.passAt p' q' := by
  have keeps : (fun x : Pass => x.seq == q') ∘ (fun x => if x.seq == q then f x else x) = fun x => x.seq == q' := by
    funext x
    simp only [Function.comp]
    split
    · rw [seq]
    · rfl
  by_cases hp : p' = p
  · subst hp
    rw [State.passAt, State.modPass, State.partOf_modPart_self, List.find?_map, keeps]
    by_cases hq : q' = q
    · subst hq
      rw [if_pos ⟨rfl, rfl⟩, State.passAt]
      refine Option.map_congr fun x hx => if_pos (List.find?_some hx)
    · rw [if_neg fun h => hq h.2, State.passAt]
      cases found : (s.partOf p').passes.find? (fun x => x.seq == q') with
      | none => rfl
      | some x =>
        have hx : x.seq = q' := by simpa using List.find?_some found
        rw [Option.map_some, if_neg (by simpa [hx] using hq)]
  · rw [if_neg fun h => hp h.1, State.passAt, State.modPass, State.partOf_modPart_ne s _ hp, State.passAt]

/-- A pass as FAULTED or CANCELLED leaves it. -/
def Pass.ended (st : PassState) (reason cause : Nat) (y : Pass) : Pass :=
  if y.st.over then y else { y with st := st, reason := reason, cause := BitVec.ofNat 8 cause }

theorem endPass_cases (s : State) (p q : Nat) (st : PassState) (reason cause : Nat) :
    (s.endPass p q st reason cause = s ∧ ∀ y, s.passAt p q = some y → y.st.over = true) ∨
    ∃ y, s.passAt p q = some y ∧ y.st.over = false ∧ s.endPass p q st reason cause =
      ((s.stopUnits p q).modPass p q (fun y => { y with st := st, reason := reason, cause := BitVec.ofNat 8 cause })).freePlans p (passIdOf p q) := by
  unfold State.endPass
  split
  · next y hy =>
    split
    · next ended => exact .inl ⟨rfl, fun z hz => by rw [hy] at hz; cases hz; exact ended⟩
    · next ended => exact .inr ⟨y, hy, by simpa using ended, rfl⟩
  · next hy => exact .inl ⟨rfl, fun z hz => by rw [hy] at hz; cases hz⟩

theorem keepsTasks_endPass (s : State) (p q : Nat) (st : PassState) (reason cause : Nat) : KeepsTasks s (s.endPass p q st reason cause) := by
  obtain ⟨same, -⟩ | ⟨y, -, -, e⟩ := endPass_cases s p q st reason cause
  · rw [same]; exact .refl s
  · rw [e]
    exact ((rescheduled_stopUnits s p q).toKeepsTasks.trans (KeepsTasks.modPart _ p rfl rfl)).trans (rescheduled_freePlans _ p _).toKeepsTasks

/-- R142: the pass that ends, if it had not, takes its state, and every other pass keeps its own. -/
theorem passAt_endPass (s : State) (p q : Nat) (st : PassState) (reason cause p' q' : Nat) :
    (s.endPass p q st reason cause).passAt p' q' =
      if p' = p ∧ q' = q then (s.passAt p q).map (Pass.ended st reason cause) else s.passAt p' q' := by
  obtain ⟨same, done⟩ | ⟨y, hy, unended, e⟩ := endPass_cases s p q st reason cause
  · rw [same]
    split
    · next h =>
      rw [h.1, h.2]
      cases hy : s.passAt p q with
      | none => rfl
      | some y => rw [Option.map_some, Pass.ended, if_pos (done y hy)]
    · rfl
  · rw [e, (rescheduled_freePlans _ p _).passAt, passAt_modPass, (rescheduled_stopUnits s p q).passAt,
      (rescheduled_stopUnits s p q).passAt, hy, Option.map_some, Option.map_some, Pass.ended, unended]
    rfl

/-! ### The removal of a partition -/

theorem keepsHardware_dropPartition (s : State) (p : Nat) : KeepsHardware s (s.dropPartition p) := by
  have zeroed : KeepsHardware s (if (s.partOf p).enclave == 0 then s else s.zeroEnclaves) := by
    split
    · exact .refl s
    · rw [zeroEnclaves_frame]
      exact ⟨rfl, fun _ => rfl⟩
  have emptied := Rescheduled.foldl (f := fun (s : State) c => s.modCore c (fun y => { y with
    running := none, preloaded := none, preloadPass := none, rerun := [], wq := [], routine := none, shadow := [], turn := 0 }))
    (fun s c => Rescheduled.modCore s c) (s.partOf p).cores (if (s.partOf p).enclave == 0 then s else s.zeroEnclaves)
  exact (zeroed.trans emptied.toKeepsHardware).trans ⟨rfl, fun _ => rfl⟩

/-! ### A critical trip (R32) -/

/-- The units with their state on die `d`. -/
def State.unitsOn (s : State) (d : Nat) : List (Nat × Unit) := s.units.filter (fun u => u.2.live && dieOf u.2.core == d && u.2.place != .over)
/-- The contexts that parked units had on die `d` are lost. -/
def State.loseContexts (s : State) (d : Nat) : State :=
  { s with units := s.units.map (fun u => (u.1, if u.2.losesTo d then { u.2 with ctxBad := 6 } else u.2)) }
/-- A core without power, with nothing on it. -/
def Core.dark (x : Core) : Core := { x with unpowered := true, preloaded := none, preloadPass := none, wq := [], routine := none, shadow := [] }
/-- The cores of die `d` lose power. -/
def State.darken (s : State) (d : Nat) : State := (dieCores d).foldl (fun s c => s.modCore c Core.dark) s
/-- The partition of an initial task that ran on the die is removed; else the pass of a unit placed there ends. -/
def State.endPlaced (s : State) (u : Nat × Unit) : State :=
  if u.2.initial then { s.dropPartition u.2.part with mgst := .ready, mgres := resFAILED, telemetry := KMap.set 0 s.telemetry tmKeeperCause cMCHK }
  else if s.onSlots u.2 then s.endPass u.2.part (passSeq u.2.passId) .faulted 0 cMCHK else s

theorem trip_eq (s : State) (d : Nat) :
    s.trip d = (((s.unitsOn d).foldl State.endPlaced ((s.loseContexts d).darken d)).zeroEnclaves.modDie d (fun x => { x with tripped := true })).count tmTrip :=
  rfl

theorem darken_frame (s : State) (d : Nat) : s.darken d = { s with cores := (s.darken d).cores } := by
  have frame (l : List Nat) : l.foldl (fun s c => s.modCore c Core.dark) s = { s with cores := (l.foldl (fun s c => s.modCore c Core.dark) s).cores } := by
    induction l generalizing s with
    | nil => rfl
    | cons c l ih => rw [List.foldl_cons, ih]; rfl
  exact frame _

theorem unpowered_foldl_dark (l : List Nat) (s : State) (c : Nat) (h : c ∈ l ∨ (s.coreOf c).unpowered = true) :
    ((l.foldl (fun s c => s.modCore c Core.dark) s).coreOf c).unpowered = true := by
  induction l generalizing s with
  | nil => simpa using h
  | cons b l ih =>
    refine ih _ ?_
    by_cases hb : c = b
    · rw [hb, State.coreOf_modCore_self]
      exact .inr rfl
    · rw [State.coreOf_modCore_ne s _ hb]
      exact h.imp_left fun mem => (List.mem_cons.1 mem).resolve_left hb

theorem darken_unpowered (s : State) {d c : Nat} (lo : 64 * d ≤ c) (hi : c < 64 * d + 64) : ((s.darken d).coreOf c).unpowered = true :=
  unpowered_foldl_dark _ s c <| .inl <| List.mem_map.2 ⟨c - 64 * d, List.mem_range.2 (by omega), by omega⟩

theorem keepsHardware_endPlaced (s : State) (u : Nat × Unit) : KeepsHardware s (s.endPlaced u) := by
  unfold State.endPlaced
  split
  · exact (keepsHardware_dropPartition s _).trans ⟨rfl, fun _ => rfl⟩
  · split
    · exact (keepsTasks_endPass _ _ _ _ _ _).toKeepsHardware
    · exact .refl s

theorem keepsTasks_endPlaced (s : State) {u : Nat × Unit} (h : u.2.initial = false) : KeepsTasks s (s.endPlaced u) := by
  unfold State.endPlaced
  rw [if_neg (by simp [h])]
  split
  · exact keepsTasks_endPass _ _ _ _ _ _
  · exact .refl s

theorem keepsHardware_foldl_endPlaced (l : List (Nat × Unit)) (s : State) : KeepsHardware s (l.foldl State.endPlaced s) := by
  induction l generalizing s with
  | nil => exact .refl s
  | cons u l ih => exact (keepsHardware_endPlaced s u).trans (ih _)

theorem keepsTasks_foldl_endPlaced (l : List (Nat × Unit)) (s : State) (h : ∀ u ∈ l, u.2.initial = false) : KeepsTasks s (l.foldl State.endPlaced s) := by
  induction l generalizing s with
  | nil => exact .refl s
  | cons u l ih => exact (keepsTasks_endPlaced s (h u (by simp))).trans (ih _ fun v hv => h v (by simp [hv]))

/-- A pass as a trip leaves it: FAULTED with FT_MCHK. -/
def Pass.lost (y : Pass) : Pass := { y with st := .faulted, reason := 0, cause := 0x13 }

/-- A unit's turn in a trip leaves a lost pass lost, and of the passes on slots loses the unit's own alone. -/
theorem passAt_endPlaced (s : State) {u : Nat × Unit} (initial : u.2.initial = false) {p q : Nat} {y : Pass} (placed : y.placed = true) :
    (s.passAt p q = some y.lost → (s.endPlaced u).passAt p q = some y.lost) ∧
    (s.passAt p q = some y → (s.endPlaced u).passAt p q = some (if u.2.part = p ∧ passSeq u.2.passId = q then y.lost else y)) := by
  have unended : y.st.over = false := by
    unfold Pass.placed at placed
    cases h : y.st <;> simp [h] at placed ⊢ <;> rfl
  have acts : s.endPlaced u = if s.onSlots u.2 then s.endPass u.2.part (passSeq u.2.passId) .faulted 0 cMCHK else s := by
    unfold State.endPlaced
    rw [if_neg (by simp [initial])]
  rw [acts]
  refine ⟨fun hy => ?_, fun hy => ?_⟩
  · split
    · rw [passAt_endPass]
      split
      · next h => rw [← h.1, ← h.2, hy]; rfl
      · exact hy
    · exact hy
  · by_cases mine : u.2.part = p ∧ passSeq u.2.passId = q
    · obtain ⟨rfl, rfl⟩ := mine
      have on : s.onSlots u.2 = true := by
        unfold State.onSlots State.passOf
        simp only [initial, Bool.false_eq_true, if_false, hy, placed]
      rw [if_pos on, passAt_endPass, if_pos ⟨rfl, rfl⟩, hy, Option.map_some, Pass.ended, unended]
      exact congrArg some (if_pos ⟨rfl, rfl⟩).symm
    · rw [if_neg mine]
      split
      · rw [passAt_endPass, if_neg fun h => mine ⟨h.1.symm, h.2.symm⟩, hy]
      · exact hy

theorem passAt_foldl_endPlaced {p q : Nat} {y : Pass} (placed : y.placed = true) (l : List (Nat × Unit)) (s : State) (initial : ∀ u ∈ l, u.2.initial = false)
    (h : s.passAt p q = some y.lost ∨ s.passAt p q = some y ∧ ∃ u ∈ l, u.2.part = p ∧ passSeq u.2.passId = q) :
    (l.foldl State.endPlaced s).passAt p q = some y.lost := by
  induction l generalizing s with
  | nil => simpa using h
  | cons u l ih =>
    obtain ⟨stays, falls⟩ := passAt_endPlaced s (initial u (by simp)) (p := p) (q := q) placed
    refine ih _ (fun v hv => initial v (by simp [hv])) ?_
    obtain h | ⟨h, v, hv, mine⟩ := h
    · exact .inl (stays h)
    · have now := falls h
      split at now
      · exact .inl now
      · next other =>
        obtain rfl | hv := List.mem_cons.1 hv
        · exact absurd mine other
        · exact .inr ⟨now, v, hv, mine⟩

/-! #### What a trip leaves -/

theorem die_modDie (s : State) (d e : Nat) (f : Die → Die) :
    KMap.get Die.reset (s.modDie d f).dies e = if e = d then f (KMap.get Die.reset s.dies d) else KMap.get Die.reset s.dies e :=
  KMap.get_set _ _ _ _ _

/-- The state of a trip before the enclave keys are zeroised: its cores are dark and the passes placed there have ended. -/
def State.tripEnded (s : State) (d : Nat) : State := (s.unitsOn d).foldl State.endPlaced ((s.loseContexts d).darken d)

theorem trip_frame (s : State) (d : Nat) :
    s.trip d = { s.tripEnded d with
      enclaves := (s.trip d).enclaves, keys := (s.tripEnded d).zeroEnclaves.keys, ports := (s.trip d).ports
      dies := ((s.tripEnded d).modDie d (fun x => { x with tripped := true })).dies, telemetry := (s.trip d).telemetry } := by
  have eq : s.trip d = ((s.tripEnded d).zeroEnclaves.modDie d (fun x => { x with tripped := true })).count tmTrip := trip_eq s d
  rw [eq, zeroEnclaves_frame]
  rfl

theorem tripEnded_hardware (s : State) (d : Nat) : KeepsHardware ((s.loseContexts d).darken d) (s.tripEnded d) :=
  keepsHardware_foldl_endPlaced _ _

theorem initial_unitsOn {s : State} (d : Nat) (h : ∀ u ∈ s.units, u.2.initial = false) : ∀ u ∈ s.unitsOn d, u.2.initial = false :=
  fun u hu => h u (List.mem_filter.1 hu).1

theorem tripEnded_tasks {s : State} (d : Nat) (h : ∀ u ∈ s.units, u.2.initial = false) : KeepsTasks ((s.loseContexts d).darken d) (s.tripEnded d) :=
  keepsTasks_foldl_endPlaced _ _ (initial_unitsOn d h)

/-- R32: the die is tripped, and no other die is touched. -/
theorem trip_die (s : State) (d e : Nat) :
    KMap.get Die.reset (s.trip d).dies e =
      if e = d then { KMap.get Die.reset s.dies d with tripped := true } else KMap.get Die.reset s.dies e := by
  have dies : (s.tripEnded d).dies = s.dies := by rw [(tripEnded_hardware s d).dies, darken_frame]; rfl
  rw [trip_frame]
  refine (die_modDie (s.tripEnded d) d e fun x => { x with tripped := true }).trans ?_
  rw [dies]

/-- R32: the cores of the die have no power. -/
theorem trip_unpowered (s : State) {d c : Nat} (lo : 64 * d ≤ c) (hi : c < 64 * d + 64) : ((s.trip d).coreOf c).unpowered = true := by
  rw [trip_frame]
  exact ((tripEnded_hardware s d).unpowered c).trans (darken_unpowered _ lo hi)

/-- R128: the enclave keys are zeroised. -/
theorem trip_keys {s : State} (d : Nat) {e : Enclave} (he : e ∈ s.enclaves) (initial : ∀ u ∈ s.units, u.2.initial = false)
    (key : e.key ≠ 0) (slot : e.slot ≠ 0) : KMap.get 0 (s.trip d).keys e.slot = 0 := by
  have enclaves : (s.tripEnded d).enclaves = s.enclaves := by rw [(tripEnded_tasks d initial).enclaves, darken_frame]; rfl
  rw [trip_frame]
  exact zeroEnclaves_keys _ (enclaves ▸ he) key slot

/-- R32: a pass on slots with a unit on the die ends FAULTED with FT_MCHK. -/
theorem trip_pass {s : State} {d : Nat} (initial : ∀ u ∈ s.units, u.2.initial = false) {u : Nat × Unit} (hu : u ∈ s.unitsOn d) {y : Pass}
    (hy : s.passAt u.2.part (passSeq u.2.passId) = some y) (placed : y.placed = true) :
    (s.trip d).passAt u.2.part (passSeq u.2.passId) = some y.lost := by
  have before : ((s.loseContexts d).darken d).passAt u.2.part (passSeq u.2.passId) = some y := by rw [darken_frame]; exact hy
  rw [trip_frame]
  exact passAt_foldl_endPlaced placed _ _ (initial_unitsOn d initial) (.inr ⟨before, u, hu, rfl, rfl⟩)

/-- R32: what a parked unit had in the die's shadow storage or lofts is marked as lost. -/
theorem trip_ctxBad {s : State} {d : Nat} (keys : rising s.units) (initial : ∀ u ∈ s.units, u.2.initial = false) {u : Nat × Unit} (hu : u ∈ s.units)
    (loses : u.2.losesTo d = true) : ((s.trip d).unitOf u.1).ctxBad = 6 := by
  have marked : (((s.loseContexts d).darken d).unitOf u.1).ctxBad = 6 := by
    have unit := KMap.get_map Unit.none s.units (fun x => if x.losesTo d then { x with ctxBad := 6 } else x) rfl u.1
    rw [KMap.get_of_mem _ keys hu, if_pos loses] at unit
    rw [darken_frame]
    exact congrArg Unit.ctxBad unit
  rw [trip_frame]
  exact ((tripEnded_tasks d initial).ctxBad u.1).trans marked

theorem losesTo_of {u : Unit} {d : Nat} (live : u.live = true) (initial : u.initial = false) (die : u.core / 64 = d)
    (h : (u.place = .ready ∨ u.place = .preempted) ∧ u.ctxCheck = [] ∨
      (u.place = .ready ∨ u.place = .preempted ∨ u.place = .faulted) ∧ u.loftResident = true ∧ u.loftSize ≠ 0) : u.losesTo d = true := by
  have parked : u.place = .ready ∨ u.place = .preempted ∨ u.place = .faulted := by
    obtain ⟨hp | hp, -⟩ | ⟨hp, -⟩ := h
    · exact .inl hp
    · exact .inr (.inl hp)
    · exact hp
  have loses : u.place ≠ .faulted ∧ u.ctxCheck = [] ∨ u.loftResident = true ∧ u.loftSize ≠ 0 := by
    obtain ⟨hp | hp, check⟩ | ⟨-, loft⟩ := h
    · exact .inl ⟨by simp [hp], check⟩
    · exact .inl ⟨by simp [hp], check⟩
    · exact .inr loft
  simpa [Unit.losesTo, live, initial, dieOf, die, or_assoc] using And.intro parked loses

end Sys2Proof.Machine
end

section
/-!
PROOFS. Clocks, power shares, HBM stacks, the retirement of a core, idle states and occurrences (R30-R36, R110, R111, R120-R122).
-/
namespace Sys2Proof.Machine
open Sys2Proof.Claims

/-! ### Clocks and power (R30) -/

theorem stepUp_eq (m : Nat) : stepUp m = min (m + 50) 1700 := by unfold stepUp; split <;> omega
theorem stepDown_eq (m : Nat) : stepDown m = if m < 650 then 600 else m - 50 := by unfold stepDown; split <;> split <;> omega

theorem thermalReq_eq (m temp : Nat) : thermalReq m temp =
    if temp < 90 then min (m + 50) 1700 else if temp < 95 then m else if temp < 105 then (if m < 650 then 600 else m - 50) else 600 := by
  rw [thermalReq, stepUp_eq, stepDown_eq]

theorem powerReq_eq (s : State) (x : Die) : s.powerReq x =
    if x.share < x.avg then (if x.mhz < 650 then 600 else x.mhz - 50)
    else if x.avg * 100 < x.share * 95 ∧ x.pkgAvg * 100 < s.powerLimit * 95 then min (x.mhz + 50) 1700 else x.mhz := by
  rw [State.powerReq, stepUp_eq, stepDown_eq]
  simp only [Bool.and_eq_true, decide_eq_true_eq]

theorem exec_powerInterval_off {s : State} {d : Nat} (temp : Nat) (h : 6 ≤ d ∨ (s.die d).tripped = true) : exec (.powerInterval d temp) s = .next s :=
  if_pos (by simpa using h)
theorem exec_criticalTrip_off {s : State} {d : Nat} (h : 6 ≤ d ∨ (s.die d).tripped = true) : exec (.criticalTrip d) s = .next s :=
  if_pos (by simpa using h)
theorem exec_criticalTrip {s : State} {d : Nat} (die : d < 6) (on : (s.die d).tripped = false) : exec (.criticalTrip d) s = .next (s.trip d) :=
  if_neg (by simp [on, die])
theorem exec_powerInterval_trip {s : State} {d temp : Nat} (die : d < 6) (on : (s.die d).tripped = false) (hot : 115 ≤ temp) :
    exec (.powerInterval d temp) s = .next (s.trip d) :=
  (if_neg (by simp [on, die])).trans (if_pos hot)
theorem exec_powerInterval {s : State} {d temp : Nat} (die : d < 6) (on : (s.die d).tripped = false) (cool : temp < 115) :
    exec (.powerInterval d temp) s =
      .next (s.modDie d (fun x => { x with mhz := min (thermalReq (s.die d).mhz temp) (s.powerReq (s.die d)) })) := by
  refine (if_neg (by simp [on, die])).trans ((if_neg (Nat.not_le.2 cool)).trans ?_)
  have lower (a b : Nat) : (if a < b then a else b) = min a b := by split <;> omega
  simp only [lower]

/-! ### Shares of the power limit (R30) -/

/-- What a die gets of `rest` watts by its demand (R30, log entry 25). -/
def dieShare (rest : Nat) (demand : List Nat) (d : Nat) : Nat :=
  let total := ((List.range 6).map (fun d => demand.getD d 0)).sum
  if total == 0 then rest / 6 else rest * demand.getD d 0 / total

theorem sum_range_six (f : Nat → Nat) : ((List.range 6).map f).sum = f 0 + f 1 + f 2 + f 3 + f 4 + f 5 := by
  simp [List.range_succ, Nat.add_assoc]

/-- Parts rounded down do not exceed the whole rounded down. -/
theorem sum_div_le (n t : Nat) (a : Nat → Nat) (l : List Nat) : (l.map (fun d => n * a d / t)).sum ≤ n * (l.map a).sum / t := by
  induction l with
  | nil => simp
  | cons d l ih =>
    simp only [List.map_cons, List.sum_cons, Nat.mul_add]
    exact (Nat.add_le_add_left ih _).trans (Nat.div_add_div_le_add_div)

theorem sum_dieShare_le (rest : Nat) (demand : List Nat) : ((List.range 6).map (dieShare rest demand)).sum ≤ rest := by
  unfold dieShare
  dsimp only
  split
  · rw [sum_range_six]
    omega
  · next demanded =>
    refine (sum_div_le rest _ (fun d => demand.getD d 0) _).trans ?_
    rw [Nat.mul_div_cancel _ (Nat.pos_of_ne_zero (by simpa using demanded))]

theorem foldl_modDie (f : Nat → Die → Die) (l : List Nat) (nodup : l.Nodup) (s : State) :
    l.foldl (fun s d => s.modDie d (f d)) s = { s with dies := (l.foldl (fun s d => s.modDie d (f d)) s).dies } ∧
    ∀ e, (l.foldl (fun s d => s.modDie d (f d)) s).die e = if e ∈ l then f e (s.die e) else s.die e := by
  induction l generalizing s with
  | nil => exact ⟨rfl, fun e => rfl⟩
  | cons d l ih =>
    obtain ⟨fresh, nodup⟩ := List.nodup_cons.1 nodup
    obtain ⟨frame, dies⟩ := ih nodup (s.modDie d (f d))
    refine ⟨frame, fun e => (dies e).trans ?_⟩
    have one : (s.modDie d (f d)).die e = if e = d then f d (s.die d) else s.die e := die_modDie s d e (f d)
    rw [one]
    by_cases h : e = d
    · simp [h, fresh]
    · simp [h]

/-- A die after a division of the limit. -/
def Die.given (aside limit pkg : Nat) (demand : List Nat) (d : Nat) (x : Die) : Die :=
  { x with avg := demand.getD d 0, share := dieShare (limit - aside) demand d, pkgAvg := pkg }

theorem exec_powerShare (s : State) (aside : Nat) (demand : List Nat) (pkg : Nat) : ∃ t, exec (.powerShare aside demand pkg) s = .next t ∧
    t = { s with dies := t.dies } ∧ ∀ d, d < 6 → KMap.get Die.reset t.dies d = Die.given aside s.powerLimit pkg demand d (KMap.get Die.reset s.dies d) := by
  obtain ⟨frame, dies⟩ := foldl_modDie (Die.given aside s.powerLimit pkg demand) (List.range 6) List.nodup_range s
  exact ⟨_, rfl, frame, fun d hd => (dies d).trans (if_pos (List.mem_range.2 hd))⟩

/-! ### HBM stacks (R33, R34, R121, R122) -/

theorem counts_count (s : State) (n : Nat) : counts s (s.count n) n 1 := fun j => by
  rw [State.count, KMap.upd, KMap.get_set]
  by_cases h : j = n
  · simp [h]
  · simp [h]

theorem sends_send (s : State) (m : Msg) : sends s (s.send m) m := ⟨rfl, [], rfl, by simp⟩

theorem exec_hbmThermal (s : State) {k : Nat} (temp : Nat) (h : k < 12) : exec (.hbmThermal k temp) s = .next (s.modStack k (fun x =>
    { x with doubleRefresh := decide (95 ≤ temp), halfBandwidth := if temp < 100 then false else if 105 ≤ temp then true else x.halfBandwidth })) := by
  refine (if_neg (Nat.not_le.2 h)).trans ?_
  have half (b : Bool) : (decide (105 ≤ temp) || (b && decide (100 ≤ temp))) = if temp < 100 then false else if 105 ≤ temp then true else b := by
    split
    · simp [show ¬ 105 ≤ temp by omega, show ¬ 100 ≤ temp by omega]
    · split
      · simp [*]
      · simp [*, show 100 ≤ temp by omega]
  simp only [half]
theorem exec_patrolScrub (s : State) {k : Nat} (row : Nat) (h : k < 12) :
    exec (.patrolScrub k row) s = .next ((s.modStack k (fun x => { x with scrubbed := row })).count tmPatrol) := if_neg (Nat.not_le.2 h)
theorem exec_hbmRecalibrate (s : State) {k : Nat} (channel : Nat) (h : k < 12) :
    exec (.hbmRecalibrate k channel) s = .next (s.modStack k (fun x => { x with recal := channel })) := if_neg (Nat.not_le.2 h)
theorem exec_rowSpare_spared {s : State} {k : Nat} (row : Nat) (h : k < 12) (left : (KMap.get Stack.reset s.stackHealth k).spares < Config.spareRows k) :
    exec (.rowSpare k row) s = .next (s.modStack k (fun x => { x with spares := x.spares + 1 })) :=
  (if_neg (Nat.not_le.2 h)).trans (if_pos left)
theorem exec_rowSpare_reported {s : State} {k : Nat} (row : Nat) (h : k < 12) (exhausted : Config.spareRows k ≤ (KMap.get Stack.reset s.stackHealth k).spares) :
    exec (.rowSpare k row) s = .next (({ s with
      rowReports := s.rowReports ++ (Config.rowFrames k row).filter (fun f => !s.rowReports.contains f) }.count tmRow).send (.msix 0)) :=
  (if_neg (Nat.not_le.2 h)).trans (if_neg (Nat.not_lt.2 exhausted))

theorem mem_append_new (l new : List Nat) (f : Nat) : f ∈ l ++ new.filter (fun f => !l.contains f) ↔ f ∈ l ∨ f ∈ new := by
  by_cases h : f ∈ l <;> simp [h]

/-! ### The retirement of a core (R120) -/

/-- A core that retires, with nothing on it. -/
def Core.retire (x : Core) : Core := { x with retired := true, marked := false, preloaded := none, preloadPass := none }
/-- The core of `l` that takes slot `k` of a core that retires. -/
def heir (l : List Nat) (k : Nat) : Nat := l.getD (k % l.length) 0
/-- A partition whose core `c` gave its slots to the cores of `l`. -/
def Partition.without (c : Nat) (l : List Nat) (x : Partition) : Partition :=
  { x with
    cores := x.cores.filter (· != c)
    remap := ((List.range x.remap.length).zip x.remap).map (fun e => if e.2 == c then heir l e.1 else e.2) }
/-- The units that a core of partition `p` has when it retires. -/
def State.movers (s : State) (p c : Nat) : List (Nat × Unit) := s.units.filter (fun u => u.2.live && u.2.core == c && u.2.part == p)
/-- A unit goes to the heir of its slot. -/
def State.moveToHeir (l : List Nat) (s : State) (u : Nat × Unit) : State := s.moveUnit u.1 u.2.slot (heir l u.2.slot)
/-- The state in which a core has retired and its units have moved. -/
def State.handOver (s : State) (p c : Nat) (l : List Nat) : State :=
  ((s.movers p c).foldl (State.moveToHeir l) ((s.modCore c Core.retire).modPart p (Partition.without c l))).startCores p

/-- A core may retire: it is one, and nothing runs on it. -/
def State.retirable (s : State) (c : Nat) : Prop :=
  c < 384 ∧ (s.coreOf c).running = none ∧ (s.coreOf c).routine = none ∧ (s.coreOf c).wq = [] ∧ (s.coreOf c).retired = false

theorem exec_coreRetire_busy {s : State} {c : Nat}
    (h : (s.coreOf c).running ≠ none ∨ (s.coreOf c).routine ≠ none ∨ (s.coreOf c).wq ≠ [] ∨ (s.coreOf c).retired = true ∨ 384 ≤ c) :
    exec (.coreRetire c) s = .next s := by
  refine if_pos ?_
  simp only [Bool.or_eq_true, decide_eq_true_eq, Option.isSome_iff_ne_none, Bool.not_eq_true', List.isEmpty_eq_false_iff]
  tauto

theorem State.retirable.not_busy {s : State} {c : Nat} (h : s.retirable c) :
    ¬(384 ≤ c || (s.coreOf c).retired || (s.coreOf c).running.isSome || (s.coreOf c).routine.isSome || !(s.coreOf c).wq.isEmpty) = true := by
  obtain ⟨core, running, routine, wq, retired⟩ := h
  simp [running, routine, wq, retired, core]

theorem exec_coreRetire_unassigned {s : State} {c : Nat} (h : s.retirable c) (out : ∀ p, p < 8 → c ∉ (s.partOf p).cores) :
    exec (.coreRetire c) s = .next (s.modCore c Core.retire) := by
  have none_found : (List.range 8).find? (fun p => (s.partOf p).cores.contains c) = none := by
    simpa [List.find?_eq_none] using out
  refine (if_neg h.not_busy).trans ?_
  rw [none_found]
  rfl

theorem exec_coreRetire_assigned {s : State} {c p : Nat} (h : s.retirable c) (hp : p < 8) (here : c ∈ (s.partOf p).cores)
    (first : ∀ q, q < p → c ∉ (s.partOf q).cores) :
    exec (.coreRetire c) s = if s.spareCores p c = [] then .next s else .next (s.handOver p c (s.spareCores p c)) := by
  have found : (List.range 8).find? (fun p => (s.partOf p).cores.contains c) = some p := by
    rw [List.find?_range_eq_some]
    exact ⟨by simpa using here, List.mem_range.2 hp, fun q hq => by simpa using first q hq⟩
  refine (if_neg h.not_busy).trans ?_
  rw [found]
  dsimp only
  split
  · next nil => rw [if_pos nil]
  · next more =>
    rw [if_neg (by simp [more])]
    rfl

theorem moveUnit_cases (s : State) (uid k c : Nat) :
    ∃ u, Rescheduled s u ∧ s.moveUnit uid k c = u.modUnit uid (fun x => { x with slot := k, core := c }) := by
  refine ⟨_, ?_, rfl⟩
  refine Rescheduled.trans ?_ (Rescheduled.modCore _ _ fun x => ?_)
  · split
    · exact .refl s
    · refine Rescheduled.trans ?_ (rescheduled_spillLoft _ uid)
      split
      · exact rescheduled_writeContext s uid
      · exact .refl s
  · split <;> rfl

theorem keepsTasks_moveUnit (s : State) (uid k c : Nat) : KeepsTasks s (s.moveUnit uid k c) := by
  obtain ⟨u, res, e⟩ := moveUnit_cases s uid k c
  rw [e]
  refine res.toKeepsTasks.trans ⟨⟨rfl, fun _ => rfl⟩, rfl, fun v => ?_, fun _ => ⟨rfl, rfl⟩⟩
  by_cases h : v = uid
  · rw [h, State.unitOf_modUnit_self]; rfl
  · rw [State.unitOf_modUnit_ne u _ h]

theorem core_moveUnit (s : State) (uid k c v : Nat) :
    ((s.moveUnit uid k c).unitOf v).core = if v = uid then c else (s.unitOf v).core := by
  obtain ⟨u, res, e⟩ := moveUnit_cases s uid k c
  rw [e]
  split
  · next h => rw [h, State.unitOf_modUnit_self]
  · next h => rw [State.unitOf_modUnit_ne u _ h, res.core]

theorem keepsTasks_foldl_moveToHeir (h : List Nat) (l : List (Nat × Unit)) (s : State) : KeepsTasks s (l.foldl (State.moveToHeir h) s) := by
  induction l generalizing s with
  | nil => exact .refl s
  | cons u l ih => exact (keepsTasks_moveUnit s _ _ _).trans (ih _)

theorem core_foldl_moveToHeir_other (h : List Nat) (l : List (Nat × Unit)) (s : State) {v : Nat} (other : ∀ u ∈ l, v ≠ u.1) :
    ((l.foldl (State.moveToHeir h) s).unitOf v).core = (s.unitOf v).core := by
  induction l generalizing s with
  | nil => rfl
  | cons u l ih =>
    rw [List.foldl_cons, ih _ fun w hw => other w (by simp [hw]), State.moveToHeir, core_moveUnit, if_neg (other u (by simp))]

theorem core_foldl_moveToHeir (h : List Nat) {l : List (Nat × Unit)} (keys : rising l) (s : State) {u : Nat × Unit} (hu : u ∈ l) :
    ((l.foldl (State.moveToHeir h) s).unitOf u.1).core = heir h u.2.slot := by
  induction l generalizing s with
  | nil => cases hu
  | cons w l ih =>
    obtain ⟨above, rest⟩ := List.pairwise_cons.1 keys
    obtain rfl | hu := List.mem_cons.1 hu
    · have other : ∀ w ∈ l, u.1 ≠ w.1 := fun w hw => (above _ (List.mem_map_of_mem hw)).ne
      rw [List.foldl_cons, core_foldl_moveToHeir_other h l _ other, State.moveToHeir, core_moveUnit, if_pos rfl]
    · exact ih rest _ hu

theorem rising_filter {α : Type} {m : KMap α} (h : rising m) (f : Nat × α → Bool) : rising (m.filter f) :=
  List.Pairwise.sublist (List.filter_sublist.map Prod.fst) h

/-- What the move of the units and the starts on the partition's cores keep of the state in which the core had retired. -/
theorem keepsTasks_handOver (s : State) (p c : Nat) (l : List Nat) :
    KeepsTasks ((s.modCore c Core.retire).modPart p (Partition.without c l)) (s.handOver p c l) :=
  (keepsTasks_foldl_moveToHeir l _ _).trans (rescheduled_startCores _ p).toKeepsTasks

theorem handOver_core (s : State) (p c : Nat) (l : List Nat) :
    ((s.handOver p c l).coreOf c).retired = true ∧ ((s.handOver p c l).coreOf c).marked = false := by
  have hw := (keepsTasks_handOver s p c l).toKeepsHardware
  have retired : ((s.modCore c Core.retire).modPart p (Partition.without c l)).coreOf c = (s.coreOf c).retire := State.coreOf_modCore_self s c _
  exact ⟨(hw.retired c).trans (by rw [retired]; rfl), (hw.marked c).trans (by rw [retired]; rfl)⟩

theorem handOver_slots (s : State) (p c : Nat) (l : List Nat) :
    ((s.handOver p c l).partOf p).cores = (s.partOf p).cores.filter (· != c) ∧
    ((s.handOver p c l).partOf p).remap = ((s.partOf p).without c l).remap := by
  have part : ((s.modCore c Core.retire).modPart p (Partition.without c l)).partOf p = (s.partOf p).without c l := State.partOf_modPart_self _ p _
  obtain ⟨cores, remap⟩ := (keepsTasks_handOver s p c l).slots p
  exact ⟨cores.trans (by rw [part]; rfl), remap.trans (by rw [part])⟩

theorem Partition.without_length (c : Nat) (l : List Nat) (x : Partition) : (x.without c l).remap.length = x.remap.length := by
  simp [Partition.without]

theorem Partition.without_remap (c : Nat) (l : List Nat) (x : Partition) {k : Nat} (h : k < x.remap.length) :
    (x.without c l).remap.getD k 0 = if x.remap.getD k 0 = c then heir l k else x.remap.getD k 0 := by
  rw [List.getD_eq_getElem _ _ (by rw [Partition.without_length]; exact h), List.getD_eq_getElem _ _ h]
  simp [Partition.without]

/-- R120: the units of the core go to the heirs of their slots, and no other unit moves. -/
theorem handOver_unit {s : State} (keys : rising s.units) (p c : Nat) (l : List Nat) {u : Nat × Unit} (hu : u ∈ s.units) :
    ((s.handOver p c l).unitOf u.1).core = if u.2.live = true ∧ u.2.core = c ∧ u.2.part = p then heir l u.2.slot else u.2.core := by
  refine ((rescheduled_startCores _ p).core u.1).trans ?_
  by_cases moves : u.2.live = true ∧ u.2.core = c ∧ u.2.part = p
  · rw [if_pos moves]
    refine core_foldl_moveToHeir l (rising_filter keys _) _ (List.mem_filter.2 ⟨hu, ?_⟩)
    simpa [and_assoc] using moves
  · rw [if_neg moves, core_foldl_moveToHeir_other]
    · exact congrArg Unit.core (KMap.get_of_mem Unit.none keys hu)
    · intro w hw same
      obtain ⟨mem, mover⟩ := List.mem_filter.1 hw
      have unit : u.2 = w.2 := by rw [← KMap.get_of_mem Unit.none keys hu, ← KMap.get_of_mem Unit.none keys mem, same]
      rw [unit] at moves
      exact moves (by simpa [and_assoc] using mover)

/-! ### Idle states (R110, R111) -/

theorem latencyOf_eq (l : Nat × Nat) : latencyOf l = min l.1 l.2 := by unfold latencyOf; split <;> omega

theorem exec_idleEntry_stays {s : State} (elapsed : Nat) (h : s.ltr = none ∨ s.quiet = false) : exec (.idleEntry elapsed) s = .next s := by
  show execIdleEntry elapsed s = _
  unfold execIdleEntry
  split
  · rfl
  · next ltr => rw [if_neg (by simpa [ltr] using h)]
theorem exec_idleEntry {s : State} {l : Nat × Nat} (elapsed : Nat) (ltr : s.ltr = some l) (quiet : s.quiet = true) :
    exec (.idleEntry elapsed) s = .next { s with idle := s.idleFor (min l.1 l.2) elapsed } := by
  show execIdleEntry elapsed s = _
  rw [execIdleEntry, ltr, ← latencyOf_eq]
  exact if_pos quiet

/-- The deepest state whose exit latency fits both the tolerated latency and the time idle; `i3` with no port up. -/
theorem idleFor_eq (s : State) (l elapsed : Nat) : s.idleFor l elapsed =
    if (2000000 ≤ l ∧ 2000000 ≤ elapsed) ∧ ∀ e ∈ s.ports, e.2.st ≠ .up then .i3
    else if 20000 ≤ l ∧ 20000 ≤ elapsed then .i2 else if 2000 ≤ l ∧ 2000 ≤ elapsed then .i1 else .active := by
  simp only [State.idleFor, Bool.and_eq_true, decide_eq_true_eq, List.all_eq_true, bne_iff_ne]
  rfl

theorem quiet_done {s : State} (h : s.quiet = true) :
    (∀ e ∈ s.parts, ∀ y ∈ e.2.passes, y.recorded = true) ∧ ∀ e ∈ s.cores, e.2.wq = [] ∧ e.2.routine = none := by
  simp only [State.quiet, Bool.and_eq_true, List.all_eq_true] at h
  obtain ⟨⟨⟨⟨⟨⟨⟨⟨⟨parts, cores⟩, -⟩, -⟩, -⟩, -⟩, -⟩, -⟩, -⟩, -⟩ := h
  refine ⟨fun e he y hy => ?_, fun e he => ?_⟩
  · have unrecorded := parts e he
    simp only [Partition.openPasses, beq_iff_eq, List.length_eq_zero_iff, List.filter_eq_nil_iff] at unrecorded
    simpa using unrecorded y hy
  · simpa using cores e he

/-! ### Occurrences (log entry 23) -/

theorem occur_line {s : State} {n : Nat} (h : 64 * n < 12 * 2 ^ 36) :
    s.occur (.line false n) = { s with hbmPoison := KMap.set false s.hbmPoison n true }.count tmUncorrected :=
  if_pos (by simpa [hbmBytes] using h)

/-- A replay that failed: it is counted, and root firmware marks the core, on behalf of the reeve that then traps. -/
def State.replayed (s : State) (uid r : Nat) : State :=
  { (s.count tmReplay).markCore (s.unitOf uid).core with uid := uid, who := .reeve r, eng := none }

theorem occur_replay_failed {s : State} {uid r : Nat} (live : (s.unitOf uid).live = true) (running : (s.unitOf uid).place = .running)
    (reeve : r < (s.unitOf uid).rv) (started : ((s.unitOf uid).reeveOf r).started = true) (ended : ((s.unitOf uid).reeveOf r).ended = false)
    (wait : ((s.unitOf uid).reeveOf r).wait = none) :
    s.occur (.replay uid (.reeve r) false) = ((s.replayed uid r).takeTrap (tr 0x13 3 0)).back s := by
  have issuing : s.issuing uid (.reeve r) = true := by simp [State.issuing, live, running, reeve, started, ended, wait]
  show (if (!s.issuing uid (.reeve r)) = true then s else _) = _
  rw [issuing]
  rfl

theorem hostRead_launchWindow (s : State) {off : Nat} (lo : off < 2 ^ 23) (window : off % 2 ^ 20 < 64) :
    s.hostRead 0 off = { s with idle := .active, sent := s.sent ++ [.unsupported (off / 2 ^ 20)] } := if_pos ⟨lo, window⟩
theorem hostRead_past (s : State) {off : Nat} (hi : 2 ^ 23 ≤ off) :
    s.hostRead 0 off = { s with idle := .active, sent := s.sent ++ [.hostData 0 off 0] } := by
  refine (if_neg fun h => absurd h.1 (Nat.not_lt.2 hi)).trans ?_
  rw [if_neg (Nat.not_lt.2 hi)]
  rfl
theorem hostRead_bar4 (s : State) (off : Nat) :
    s.hostRead 4 off = { s with idle := .active, sent := s.sent ++ [.hostData 4 off (s.touched.bar4Read off)] } := rfl
theorem bar4Read_unassigned (s : State) {off : Nat} (unassigned : off ∉ [0, 8, 0x10, 0x18]) (out : off < 0x8000 ∨ 0x10000 < off + 8) :
    s.bar4Read off = 0 := by
  simp only [List.mem_cons, List.not_mem_nil, or_false, not_or] at unassigned
  obtain ⟨-, h8, h10, h18⟩ := unassigned
  unfold State.bar4Read
  split
  · exact absurd rfl h8
  · exact absurd rfl h10
  · exact absurd rfl h18
  · exact if_neg (by omega)
theorem bar4Read_status (s : State) : s.bar4Read 8 =
    BitVec.ofNat 64 ((match s.mgst with | .off => 0 | .starting => 1 | .ready => 2 | .updating => 3 | .safe => 4) +
      16 * (s.mgres % 16) + 2 ^ 8 * (s.wfail % 4) + 2 ^ 10 * (s.cfail % 4)) := by
  simp only [State.bar4Read, toW, Nat.mul_comm 16, Nat.mul_comm (2 ^ 8), Nat.mul_comm (2 ^ 10)]
  cases s.mgst <;> rfl

end Sys2Proof.Machine
end

section
/-!
PROOFS. The statement on power and reliability events, clause by clause (R30-R35, R110, R111, R120-R122; assumption logs 23, 25, 41, 43).
-/
namespace Sys2Proof.Machine
open Sys2Proof.Claims

/-! ### The clauses -/

theorem powerShare_within_limit {s t : State} {aside pkg : Nat} {demand : List Nat} (fits : aside ≤ s.powerLimit)
    (given : ∀ d, d < 6 → KMap.get Die.reset t.dies d = Die.given aside s.powerLimit pkg demand d (KMap.get Die.reset s.dies d)) :
    let got (e : Nat) : Nat := (KMap.get Die.reset t.dies e).share
    aside + (got 0 + got 1 + got 2 + got 3 + got 4 + got 5) ≤ s.powerLimit := by
  have share (e : Nat) (he : e < 6) : (KMap.get Die.reset t.dies e).share = dieShare (s.powerLimit - aside) demand e := by rw [given e he]; rfl
  have within := sum_dieShare_le (s.powerLimit - aside) demand
  rw [sum_range_six] at within
  simp only [share 0 (by decide), share 1 (by decide), share 2 (by decide), share 3 (by decide), share 4 (by decide), share 5 (by decide)]
  omega

theorem dieShare_eq (rest : Nat) (demand : List Nat) (d : Nat) :
    dieShare rest demand d =
      let total := demand.getD 0 0 + demand.getD 1 0 + demand.getD 2 0 + demand.getD 3 0 + demand.getD 4 0 + demand.getD 5 0
      if total = 0 then rest / 6 else rest * demand.getD d 0 / total := by
  unfold dieShare
  rw [sum_range_six]
  simp only [beq_iff_eq]

/-- From `s` to `t` stack `d` became `y`; of the rest the telemetry alone may have changed. -/
theorem stack_event (s : State) (d : Nat) (f : Stack → Stack) :
    s.modStack d f = { s with stackHealth := (s.modStack d f).stackHealth, telemetry := (s.modStack d f).telemetry } ∧
    KMap.get Stack.reset (s.modStack d f).stackHealth d = f (KMap.get Stack.reset s.stackHealth d) ∧
    ∀ e, e ≠ d → KMap.get Stack.reset (s.modStack d f).stackHealth e = KMap.get Stack.reset s.stackHealth e :=
  ⟨rfl, KMap.get_upd_self _ _ _ _, fun _ he => KMap.get_upd_ne _ _ _ he⟩

theorem replayed_effect (s : State) (uid r : Nat) :
    s.replayed uid r = { s with telemetry := (s.replayed uid r).telemetry, cores := (s.replayed uid r).cores, uid := uid, who := .reeve r, eng := none } ∧
    ((s.replayed uid r).coreOf (s.unitOf uid).core).marked = true ∧
    ∀ c, c ≠ (s.unitOf uid).core → (s.replayed uid r).coreOf c = s.coreOf c := by
  refine ⟨rfl, ?_, fun c hc => ?_⟩
  · exact congrArg Core.marked (KMap.get_upd_self Core.reset s.cores (s.unitOf uid).core fun x => { x with marked := true })
  · exact KMap.get_upd_ne Core.reset s.cores (fun x => { x with marked := true }) hc

/-- Settles O59: each event by its own rule. -/
theorem powerAndReliabilityEvents : Obligations.PowerAndReliabilityEvents := by
  unfold Obligations.PowerAndReliabilityEvents
  intro s d x up down trips
  have tripped : trips (s.trip d) := by
    refine ⟨?_, fun e he => ?_, fun c lo hi => trip_unpowered s lo hi, fun e he initial key slot => trip_keys d he initial key slot,
      fun _ initial u hu live die place y hy placed => ?_, fun keys initial u hu live die loses => ?_⟩
    · rw [trip_die, if_pos rfl]
    · rw [trip_die, if_neg he]
    · refine trip_pass initial (List.mem_filter.2 ⟨hu, ?_⟩) hy (by simpa [Pass.placed] using placed)
      simp [live, dieOf, die, place]
    · exact trip_ctxBad keys initial hu (losesTo_of live (initial u hu) die loses)
  refine ⟨fun temp die on => ⟨fun hot => ⟨_, exec_powerInterval_trip die on hot, tripped⟩, fun cool => ?_, _, exec_criticalTrip die on, tripped⟩,
    fun temp off => ⟨exec_powerInterval_off temp off, exec_criticalTrip_off off⟩, fun aside demand pkg => ?_, fun k stack => ?_, ⟨exec_coreRetire_busy, ?_⟩,
    rfl, exec_idleEntry_stays d, fun l ltr quiet => ?_, quiet_done, fun n hn => ?_, fun uid r live running reeve started ended wait => ?_, fun off => ?_⟩
  · -- the clock
    refine ⟨_, exec_powerInterval die on cool, rfl, ?_, fun e he => by rw [die_modDie, if_neg he]⟩
    rw [die_modDie, if_pos rfl, thermalReq_eq, powerReq_eq]
    rfl
  · -- the shares
    obtain ⟨t, run, frame, given⟩ := exec_powerShare s aside demand pkg
    refine ⟨t, run, frame, fun fits => powerShare_within_limit fits given, fun die => (given d die).trans ?_⟩
    rw [Die.given, dieShare_eq]
  · -- the stacks
    refine ⟨⟨_, exec_hbmThermal s k stack, rfl, stack_event s d _⟩, ⟨_, exec_patrolScrub s k stack, ?_, counts_count _ _⟩,
      ⟨_, exec_hbmRecalibrate s k stack, rfl, stack_event s d _⟩, fun left => ⟨_, exec_rowSpare_spared k stack left, rfl, stack_event s d _⟩,
      fun exhausted => ⟨_, exec_rowSpare_reported k stack exhausted, sends_send _ _, counts_count _ _, mem_append_new _ _⟩⟩
    obtain ⟨-, this, others⟩ := stack_event s d fun y => { y with scrubbed := k }
    exact ⟨rfl, this, others⟩
  · -- the core that retires
    intro core running routine wq retired
    have free : s.retirable d := ⟨core, running, routine, wq, retired⟩
    refine ⟨fun out => ⟨_, exec_coreRetire_unassigned free out, rfl, State.coreOf_modCore_self s d _⟩, fun p hp here first => ?_⟩
    have run := exec_coreRetire_assigned free hp here first
    refine ⟨fun nil => run.trans (if_pos nil), fun more => ⟨_, run.trans (if_neg more), ?_⟩⟩
    obtain ⟨isRetired, unmarked⟩ := handOver_core s p d (s.spareCores p d)
    obtain ⟨cores, remap⟩ := handOver_slots s p d (s.spareCores p d)
    refine ⟨isRetired, unmarked, cores, ?_, fun k hk => ?_, fun keys u hu => ⟨?_, handOver_unit keys p d _ hu⟩⟩
    · rw [remap, Partition.without_length]
    · rw [remap]
      exact Partition.without_remap d _ _ hk
    · exact (keepsTasks_handOver s p d _).tasksKept u.1
  · -- the idle state
    refine ⟨_, exec_idleEntry d ltr quiet, rfl, ?_⟩
    dsimp only
    rw [idleFor_eq]
    refine ⟨fun fits noneUp => if_pos ⟨fits, noneUp⟩, fun fits no => ?_, fun fits no => ?_, fun no => ?_⟩
    · rw [if_neg no, if_pos fits]
    · rw [if_neg (by omega), if_neg no, if_pos fits]
    · rw [if_neg (by omega), if_neg (by omega), if_neg no]
  · -- a lost line
    rw [occur_line hn]
    exact ⟨rfl, fun k => KMap.get_set _ _ _ _ _⟩
  · -- a failed replay
    obtain ⟨frame, marked, others⟩ := replayed_effect s uid r
    exact ⟨s.replayed uid r, frame, marked, others, occur_replay_failed live running reeve started ended wait⟩
  · -- the host's reads
    refine ⟨hostRead_launchWindow s, hostRead_past s, ?_, ?_, ?_, ?_, fun unassigned out => ?_⟩
    · rintro rfl; exact hostRead_bar4 s 0
    · rintro rfl; exact hostRead_bar4 s 0x10
    · rintro rfl; exact hostRead_bar4 s 0x18
    · rintro rfl
      refine (hostRead_bar4 s 8).trans ?_
      rw [bar4Read_status]
      rfl
    · refine (hostRead_bar4 s off).trans ?_
      rw [bar4Read_unassigned _ unassigned out]

end Sys2Proof.Machine
end

section
/-!
PROOFS. The state after reset (R48, R99, R112, R136; assumption logs 1, 2 and 5).
-/
namespace Sys2Proof.Machine
open Sys2Proof.Claims

/-! ### What reset leaves -/

/-- Nothing is listed, so the memories and the maps are in their canonical form. -/
theorem canonical_reset : Canonical State.reset := ⟨rfl, rfl, rfl, .nil, .nil, .nil⟩
@[simp] theorem partOf_reset (p : Nat) : State.reset.partOf p = Partition.off := rfl
@[simp] theorem portOf_reset (i : Nat) : State.reset.portOf i = Port.reset := rfl
@[simp] theorem unitOf_reset (u : Nat) : State.reset.unitOf u = Unit.none := rfl
@[simp] theorem reeveOf_none (r : Nat) : Unit.none.reeveOf r = Reeve.reset := rfl
@[simp] theorem sheafOf_none (k : Nat) : Unit.none.sheafOf k = Sheaf.reset := rfl
/-- R48: STATE 0 and width code 3. -/
theorem status_reset : Port.reset.status = 0x3000 := rfl

/-- Settles O26, by what stands at every key of an empty map. -/
theorem resetLeavesTheGivenValues : Obligations.ResetLeavesTheGivenValues := by
  unfold Obligations.ResetLeavesTheGivenValues
  refine ⟨canonical_reset, fun p => ?_, rfl, rfl, rfl, rfl, rfl, fun p => ?_, fun u r => ?_, fun u k => ?_⟩
  · -- a partition
    rw [partOf_reset]
    exact ⟨rfl, rfl, rfl⟩
  · -- a port
    rw [portOf_reset]
    exact ⟨rfl, status_reset⟩
  · -- a reeve
    rw [unitOf_reset, reeveOf_none]
    exact ⟨rfl, rfl, rfl, fun g => KMap.get_nil 0 g⟩
  · -- a sheaf
    rw [unitOf_reset, sheafOf_none]
    exact ⟨rfl, rfl, rfl⟩

end Sys2Proof.Machine
end

section
/-!
PROOFS. The statement on the Ethernet rings fails: a frame that only partly fits a stream buffer is said to change the units and the pairs alone,
and where the loft of the buffer is spilled the committed granules go to HBM (R52, R137, R150, R168).
-/
namespace Sys2Proof.Machine
open Sys2Proof.Claims

/-- What an access answered, where it answered and `p` holds of the answer. -/
theorem Acc.exists_ok {α : Type} {x : Acc α} (p : α → State → Bool) (h : (match x with | .ok v u => p v u | _ => false) = true) :
    ∃ v u, x = .ok v u ∧ p v u = true := by
  cases x with
  | ok v u => exact ⟨v, u, rfl, h⟩
  | trap _ _ => cases h
  | wait _ _ => cases h

/-! ### A frame for a buffer whose loft is spilled -/

namespace SpilledFrame

/-- A pass of one unit, pre-empted. -/
def pass : Pass :=
  { seq := 1, lrec := 0, header := 0, streams := [], decls := [], st := .parked, x := 1, y := 1, s := 1, rv := 1, lanes := 4, wlog := 0,
    reason := 0, cause := 0, ftask := none, nflt := 0, cycles := 0, taskMax := 0, episode := 0, sends := [], recorded := false, placedAt := 1, snap := [] }
/-- A stream buffer of 128 bytes at the base of the loft, half full. -/
def buffer : Stream := ⟨0, 128, 0, 64, 64⟩
/-- The unit of the pass: its loft is spilled to 0x38200000. -/
def unit : Machine.Unit :=
  { Unit.none with
    live := true, passId := 1, rv := 1, loftSize := 65536, place := .preempted, streams := [buffer], loftResident := false, loftPA := 0x38200000 }
/-- A receive ring at 0x240000 with one descriptor to process. -/
def ring : Ring := ⟨0x240000, 0, true, 4, 0, 1, 0⟩
/-- That pass in partition 0, and the ring on pair 0 of port 0. The descriptor names 128 bytes at the base of the unit's loft window (R448). -/
def start : State :=
  { State.reset with
    units := [(1, unit)], parts := [(0, { placePart with passes := [pass], pcseq := 1, initUid := 0 })]
    pairs := [(0, ⟨0, Ring.reset, ring⟩)]
    hbm := memWrite (placeMem [] 0) 0x240000 (leBytes 32 (windowBase + 128 * 2 ^ 64)) }
/-- Two granules of ones; the buffer has room for one. -/
def frame : List Byte := List.replicate 128 1
/-- Where the byte at the tail of the buffer lies in the spilled loft. -/
def tailByte : Nat := 0x38200040

/-- The port reads the descriptor: its buffer is the stream buffer, every byte of it accessible, and the spilled loft is empty. -/
theorem descriptor_read : ∃ l u, ({ start with eng := some 0 } : State).readVA ⟨0, 0, false, none⟩ [] (descriptorAt ring) 32 = .ok l u ∧
    (let d : BitVec 256 := BitVec.ofNat 256 (leVal l)
     let x : XCtx := ⟨0, 0, false, u.ringUnit (start.pairOf 0 0) ring d⟩
     decide (u.pairs = start.pairs) && decide (dfld d 8 4 = 128) && u.bufOk x .store (BitVec.ofNat 64 (dfld d 0 8)) 128 &&
       decide (u.bufStream x (BitVec.ofNat 64 (dfld d 0 8)) = some (1, 0)) && decide ((u.unitOf 1).streams[0]? = some buffer) &&
       decide (KMap.get 0 u.hbm tailByte = 0)) = true :=
  Acc.exists_ok _ (by decide +kernel)

/-- The first granule of the frame stands in HBM. -/
theorem granule_in_hbm {t : State} (h : exec (.frameReceive 0 0 frame [] true) start = .next t) : KMap.get 0 t.hbm tailByte = 1 := by
  have run : (match execFrameReceive 0 0 frame [] true start with | .next t => decide (KMap.get 0 t.hbm tailByte = 1) | _ => false) = true := by
    decide +kernel
  have arm : execFrameReceive 0 0 frame [] true start = .next t := h
  rw [arm] at run
  exact of_decide_eq_true run

end SpilledFrame

open SpilledFrame in
/-- Refutes O56: the frame of `SpilledFrame` waits after its first granule, and that granule changed HBM, where the statement lets only the units
and the queue pairs change. -/
theorem not_ethernetRingsAndCxlPorts : ¬ Obligations.EthernetRingsAndCxlPorts := by
  unfold Obligations.EthernetRingsAndCxlPorts
  intro holds
  obtain ⟨l, u, read, checks⟩ := descriptor_read
  simp only [Bool.and_eq_true, decide_eq_true_eq] at checks
  obtain ⟨⟨⟨⟨⟨pairs, blen⟩, bufOk⟩, stream⟩, atBuffer⟩, before⟩ := checks
  obtain ⟨-, -, receive, -⟩ := holds start 0 0 (by decide) (by decide)
  obtain ⟨-, -, filled⟩ := receive frame []
  obtain ⟨-, ok⟩ := filled (by simp [frame]) rfl (by decide)
  obtain ⟨-, granules, -⟩ := ok l u read pairs
  have length : min (frame ++ []).length (dfld (BitVec.ofNat 256 (leVal l)) 8 4) = 128 := by rw [blen]; simp [frame]
  rw [length] at granules
  obtain ⟨t, run, -, waits, -⟩ := granules 1 0 buffer bufOk stream atBuffer (by decide)
  obtain ⟨only, -⟩ := waits (by decide)
  have same : t.hbm = u.hbm := by rw [only]; rfl
  have after := granule_in_hbm run
  rw [same, before] at after
  exact absurd after (by decide)

end Sys2Proof.Machine
end

section
/-!
PROOFS. Thouruth ports: what sending leaves of a port (R38-R41, R46), and what the failure of peers leaves of all of them (R47, R70, R71, R84).
-/
namespace Sys2Proof.Machine
open Sys2Proof.Claims

/-! ### Ports and key slots -/

@[simp] theorem portOf_modPort_self (s : State) (i : Nat) (f : Port → Port) : (s.modPort i f).portOf i = f (s.portOf i) :=
  KMap.get_upd_self _ _ _ _
theorem portOf_modPort_ne (s : State) {i j : Nat} (f : Port → Port) (h : j ≠ i) : (s.modPort i f).portOf j = s.portOf j :=
  KMap.get_upd_ne _ _ _ h
@[simp] theorem slotOf_modSlot_self (p : Port) (k : Nat) (f : PortSlot → PortSlot) : (p.modSlot k f).slotOf k = f (p.slotOf k) :=
  KMap.get_upd_self _ _ _ _
theorem slotOf_modSlot_ne (p : Port) {k j : Nat} (f : PortSlot → PortSlot) (h : j ≠ k) : (p.modSlot k f).slotOf j = p.slotOf j :=
  KMap.get_upd_ne _ _ _ h

/-- A port changed alone. -/
theorem portIs_modPort (s : State) (i : Nat) (f : Port → Port) : portIs s (s.modPort i f) i (f (s.portOf i)) :=
  ⟨rfl, portOf_modPort_self s i f, fun _ h => portOf_modPort_ne s f h⟩

/-! ### Sending -/

/-- From `p` to `q` a port sent flits, or took some that wait: what it has sent and its partner has not acknowledged grew, and of its key slots
the transmit counters alone changed. -/
structure Port.SentMore (p q : Port) : Prop where
  rest : q = { p with txSeq := q.txSeq, unacked := q.unacked, waiting := q.waiting, slots := q.slots }
  unacked : p.unacked <+: q.unacked
  slots : ∀ k, q.slotOf k = { p.slotOf k with tx := (q.slotOf k).tx }

theorem Port.SentMore.refl (p : Port) : p.SentMore p := ⟨rfl, List.prefix_rfl, fun _ => rfl⟩
theorem Port.SentMore.trans {p q r : Port} (h : p.SentMore q) (g : q.SentMore r) : p.SentMore r where
  rest := by rw [g.rest, h.rest]
  unacked := h.unacked.trans g.unacked
  slots k := by rw [g.slots, h.slots]
theorem Port.SentMore.waiting (p : Port) (l : List TxFlit) : p.SentMore { p with waiting := l } := ⟨rfl, List.prefix_rfl, fun _ => rfl⟩

section
variable {p q : Port} (h : p.SentMore q)
include h
theorem Port.SentMore.st : q.st = p.st := by rw [h.rest]
theorem Port.SentMore.routed : q.routed = p.routed := by rw [h.rest]
theorem Port.SentMore.rxSeq : q.rxSeq = p.rxSeq := by rw [h.rest]
theorem Port.SentMore.nak : q.nak = p.nak := by rw [h.rest]
theorem Port.SentMore.resend : q.resend = p.resend := by rw [h.rest]
theorem Port.SentMore.delivered : q.delivered = p.delivered := by rw [h.rest]
theorem Port.SentMore.loaded (k : Nat) : (q.slotOf k).loaded = (p.slotOf k).loaded := by rw [h.slots]
theorem Port.SentMore.rx (k : Nat) : (q.slotOf k).rx = (p.slotOf k).rx := by rw [h.slots]
theorem Port.SentMore.failsInRow (k : Nat) : (q.slotOf k).failsInRow = (p.slotOf k).failsInRow := by rw [h.slots]
end

/-- From `s` to `t` messages left the package, or replies are held back; of the ports those of `on` alone sent flits. -/
structure Transmits (on : Nat → Prop) (s t : State) : Prop where
  frame : t = { s with ports := t.ports, sent := t.sent, heldReplies := t.heldReplies }
  sent : s.sent <+: t.sent
  port : ∀ i, (s.portOf i).SentMore (t.portOf i)
  others : ∀ i, ¬ on i → t.portOf i = s.portOf i

section
variable {on : Nat → Prop}
theorem Transmits.refl (s : State) : Transmits on s s := ⟨rfl, List.prefix_rfl, fun _ => .refl _, fun _ _ => rfl⟩
theorem Transmits.trans {s t u : State} (h : Transmits on s t) (g : Transmits on t u) : Transmits on s u where
  frame := by rw [g.frame, h.frame]
  sent := h.sent.trans g.sent
  port i := (h.port i).trans (g.port i)
  others i hi := (g.others i hi).trans (h.others i hi)
theorem Transmits.mono {on' : Nat → Prop} {s t : State} (h : Transmits on s t) (le : ∀ i, on i → on' i) : Transmits on' s t :=
  { h with others := fun i hi => h.others i fun m => hi (le i m) }
theorem Transmits.telemetry {s t : State} (h : Transmits on s t) : t.telemetry = s.telemetry := by rw [h.frame]

/-- What every step of a fold keeps, the fold keeps. -/
theorem Transmits.foldl {α : Type} {f : State → α → State} (s₀ : State)
    (h : ∀ s x, Transmits on s₀ s → Transmits on s (f s x)) (l : List α) {s : State} (start : Transmits on s₀ s) :
    Transmits on s₀ (l.foldl f s) := by
  induction l generalizing s with
  | nil => exact start
  | cons x l ih => exact ih (start.trans (h s x start))
end

theorem transmits_send (on : Nat → Prop) (s : State) (m : Msg) : Transmits on s (s.send m) :=
  ⟨rfl, List.prefix_append _ _, fun _ => .refl _, fun _ _ => rfl⟩

/-- A port took or gave flits that wait. -/
theorem transmits_waiting (s : State) (i : Nat) (f : Port → List TxFlit) : Transmits (· = i) s (s.modPort i fun p => { p with waiting := f p }) := by
  refine ⟨rfl, List.prefix_rfl, fun j => ?_, fun j h => portOf_modPort_ne s _ h⟩
  by_cases h : j = i
  · subst h
    rw [portOf_modPort_self]
    exact .waiting _ _
  · rw [portOf_modPort_ne s _ h]
    exact .refl _

/-- A port after one flit left it: the flit is kept, and under a key the slot's counter went up (R39, R40). -/
theorem Port.sentMore_flit (p : Port) (n : Nat) (f : TxFlit) (k : Nat) :
    p.SentMore (if k == 0 then { p with txSeq := n, unacked := p.unacked ++ [f] }
      else ({ p with txSeq := n, unacked := p.unacked ++ [f] } : Port).modSlot k fun x => { x with tx := x.tx + 1 }) := by
  split
  · exact ⟨rfl, List.prefix_append _ _, fun _ => rfl⟩
  · refine ⟨rfl, List.prefix_append _ _, fun j => ?_⟩
    by_cases h : j = k
    · subst h
      rw [slotOf_modSlot_self]
      rfl
    · rw [slotOf_modSlot_ne _ _ h]
      rfl

theorem transmits_sendFlit (s : State) (i : Nat) (f : TxFlit) : Transmits (· = i) s (s.sendFlit i f) := by
  refine ⟨rfl, List.prefix_append _ _, fun j => ?_, fun j h => KMap.get_set_ne _ _ _ h⟩
  by_cases h : j = i
  · subst h
    have port : (s.sendFlit j f).portOf j = _ := KMap.get_set_self Port.reset s.ports j _
    rw [port]
    exact Port.sentMore_flit _ _ _ _
  · have port : (s.sendFlit i f).portOf j = s.portOf j := KMap.get_set_ne _ _ _ h
    rw [port]
    exact .refl _

theorem transmits_flushFrom (s : State) (i : Nat) (l : List TxFlit) (shut : List Nat) (kept : List TxFlit) :
    Transmits (· = i) s (s.flushFrom i l shut kept) := by
  induction l generalizing s shut kept with
  | nil => exact transmits_waiting s i fun _ => kept
  | cons f l ih =>
    unfold State.flushFrom
    dsimp only
    split
    · exact (transmits_sendFlit s i f).trans (ih _ _ _)
    · exact ih _ _ _

theorem transmits_flush (s : State) (i : Nat) : Transmits (· = i) s (s.flush i) := by
  unfold State.flush
  dsimp only
  split
  · exact transmits_flushFrom s i _ _ _
  · exact .refl s

theorem transmits_enqueueOn (s : State) (i : Nat) (f : TxFlit) : Transmits (· = i) s (s.enqueueOn i f) :=
  (transmits_waiting s i fun p => p.waiting ++ [f]).trans (transmits_flush _ i)

/-- The ports in route sets (R47). -/
def State.inRoutes (s : State) (i : Nat) : Prop := (s.portOf i).routed = true

theorem Transmits.inRoutes_iff {on : Nat → Prop} {s t : State} (h : Transmits on s t) (i : Nat) : t.inRoutes i ↔ s.inRoutes i := by
  rw [State.inRoutes, (h.port i).routed, State.inRoutes]

theorem inRoutes_of_viaPorts {s : State} {peer i : Nat} {v : Via} (h : i ∈ s.viaPorts peer v) : s.inRoutes i := by
  have routed : i ∈ s.routedPorts peer := by
    unfold State.viaPorts at h
    split at h
    · split at h
      · exact (List.mem_filter.1 h).1
      · exact h
    · exact h
  exact (List.mem_filter.1 routed).2

/-- A flit takes a port that is in route sets (R46, R47). -/
theorem inRoutes_of_portFor {s : State} {peer i : Nat} {v : Via} (h : s.portFor peer v = some i) : s.inRoutes i := by
  unfold State.portFor at h
  dsimp only at h
  split at h
  · next j found =>
    cases h
    exact inRoutes_of_viaPorts (List.mem_of_find?_eq_some found)
  · split at h
    · cases h
    · exact inRoutes_of_viaPorts (List.mem_of_getElem? h)

theorem transmits_enqueue (s : State) (f : TxFlit) : Transmits s.inRoutes s (s.enqueue f) := by
  unfold State.enqueue
  split
  · exact .refl s
  · next i route =>
    refine (transmits_enqueueOn s i f).mono fun j hj => ?_
    rw [hj]
    exact inRoutes_of_portFor route

theorem transmits_sendOn (s : State) (m : Msg) (peer vc key : Nat) (via : Via) (lines : List Nat) :
    Transmits s.inRoutes s (s.sendOn m peer vc key via lines) := by
  unfold State.sendOn
  dsimp only
  split
  · exact transmits_send _ s m
  · exact (transmits_send _ s m).trans (transmits_enqueue (s.send m) _)

/-- The same, seen from a state in which the same ports were in route sets. -/
theorem Transmits.of_start {on : Nat → Prop} {s₀ s t : State} (start : Transmits on s₀ s) (h : Transmits s.inRoutes s t) : Transmits s₀.inRoutes s t :=
  h.mono fun i => (start.inRoutes_iff i).1

theorem transmits_settle (s : State) : Transmits s.inRoutes s s.settle := by
  unfold State.settle
  split
  · exact .refl s
  · refine Transmits.foldl s (fun u h start => start.of_start ?_) _ ⟨rfl, List.prefix_rfl, fun _ => .refl _, fun _ _ => rfl⟩
    exact transmits_sendOn u _ _ _ _ _ _

/-! ### The failure of peers -/

/-- From `s` to `t` the ports and what was sent stayed, and of the telemetry all but the count of stores to a context's DISP. -/
structure KeepsLinks (s t : State) : Prop where
  ports : t.ports = s.ports
  sent : t.sent = s.sent
  telemetry : ∀ n, n ≠ tmDisp → KMap.get 0 t.telemetry n = KMap.get 0 s.telemetry n

theorem KeepsLinks.of_eq {s t : State} (ports : t.ports = s.ports) (sent : t.sent = s.sent) (telemetry : t.telemetry = s.telemetry) : KeepsLinks s t :=
  ⟨ports, sent, fun n _ => by rw [telemetry]⟩
theorem KeepsLinks.refl (s : State) : KeepsLinks s s := .of_eq rfl rfl rfl
theorem KeepsLinks.trans {s t u : State} (h : KeepsLinks s t) (g : KeepsLinks t u) : KeepsLinks s u :=
  ⟨g.ports.trans h.ports, g.sent.trans h.sent, fun n hn => (g.telemetry n hn).trans (h.telemetry n hn)⟩
theorem KeepsLinks.portOf {s t : State} (h : KeepsLinks s t) (i : Nat) : t.portOf i = s.portOf i := by
  rw [State.portOf, h.ports, State.portOf]
theorem KeepsLinks.foldl {α : Type} {f : State → α → State} (h : ∀ s x, KeepsLinks s (f s x)) (l : List α) (s : State) :
    KeepsLinks s (l.foldl f s) := by
  induction l generalizing s with
  | nil => exact .refl s
  | cons x l ih => exact (h s x).trans (ih _)

theorem KeepsLinks.ite {c : Prop} [Decidable c] {s t u : State} (yes : KeepsLinks s t) (no : KeepsLinks s u) : KeepsLinks s (if c then t else u) := by
  split <;> assumption

/-- The state that an access leaves. -/
def Acc.state {α : Type} : Acc α → State
  | .ok _ s => s
  | .trap _ s => s
  | .wait _ s => s

theorem KeepsLinks.bind {α β : Type} {s : State} {x : Acc α} {f : α → State → Acc β} (h : KeepsLinks s x.state)
    (next : ∀ a u, KeepsLinks u (f a u).state) : KeepsLinks s (x.bind f).state := by
  cases x with
  | ok a u => exact h.trans (next a u)
  | trap t u => exact h
  | wait w u => exact h

/-- What every access of a chain keeps, the chain keeps. -/
theorem KeepsLinks.bind_foldl {α β : Type} {f : β → α → State → Acc α} (step : ∀ b a u, KeepsLinks u (f b a u).state) {s : State} (l : List β)
    {x : Acc α} (h : KeepsLinks s x.state) : KeepsLinks s (l.foldl (fun acc b => acc.bind (f b)) x).state := by
  induction l generalizing x with
  | nil => exact h
  | cons b l ih => exact ih (h.bind (step b))

theorem KeepsLinks.acc_ite {α : Type} {c : Prop} [Decidable c] {s : State} {x y : Acc α} (yes : KeepsLinks s x.state) (no : KeepsLinks s y.state) :
    KeepsLinks s (if c then x else y).state := by
  split <;> assumption

theorem keepsLinks_hbmWrite (s : State) (a : Nat) (l : List Byte) : KeepsLinks s (s.hbmWrite a l) := .of_eq rfl rfl rfl
theorem keepsLinks_modUnit (s : State) (u : Nat) (f : Unit → Unit) : KeepsLinks s (s.modUnit u f) := .of_eq rfl rfl rfl
theorem keepsLinks_modPart (s : State) (p : Nat) (f : Partition → Partition) : KeepsLinks s (s.modPart p f) := .of_eq rfl rfl rfl

theorem keepsLinks_hbmStore (s : State) (a : Nat) (l : List Byte) : KeepsLinks s (s.hbmStore a l) := by
  have counted : KeepsLinks s (s.count tmDisp) := ⟨rfl, rfl, fun _ hn => KMap.get_upd_ne _ _ _ hn⟩
  exact .ite ((KeepsLinks.ite counted (.refl s)).trans (keepsLinks_hbmWrite _ _ _)) (keepsLinks_hbmWrite s a l)

/-- A walk fills caches (R176, R184). -/
theorem keepsLinks_leafRead (s : State) (c : XCtx) (va : Word) : KeepsLinks s (s.leafRead c va).2 := by
  have dir (p a : Nat) : KeepsLinks s (s.cacheDir p a) := .ite (keepsLinks_modPart s p _) (.refl s)
  have walk (l : Option Leaf) : KeepsLinks s (s.cacheWalk c.part c.asid va l) :=
    .ite (dir _ _) ((dir _ _).trans (.of_eq rfl rfl rfl))
  exact .ite (.refl s) (walk _)

theorem keepsLinks_setAD (s : State) (k : Kind) (l : Leaf) : KeepsLinks s (s.setAD k l) := by
  unfold State.setAD
  cases l.entry with
  | none => exact .refl s
  | some a => exact .ite (.refl s) (keepsLinks_hbmWrite s a _)

/-- A translation fills caches and sets A and D (R182, R184). -/
theorem keepsLinks_xlate (s : State) (c : XCtx) (k : Kind) (vec : Bool) (va : Word) (n al : Nat) : KeepsLinks s (s.xlate c k vec va n al).state := by
  have read := keepsLinks_leafRead s c va
  unfold State.xlate
  refine .acc_ite (.refl s) ?_
  generalize s.leafRead c va = found at read ⊢
  obtain ⟨_ | _ | l, u⟩ := found
  · exact read
  · exact read
  · refine KeepsLinks.trans read (.acc_ite (.refl u) (.acc_ite (.refl u) (.acc_ite (.refl u) ?_)))
    cases u.target c k vec va n al l with
    | error t => exact .refl u
    | ok x => exact .ite ((keepsLinks_setAD u k l).trans (.of_eq rfl rfl rfl)) (keepsLinks_setAD u k l)

/-- A store to device MMIO space waits for the device, or sets the base of a ring (R51, R181). -/
theorem keepsLinks_mmioWrite (s : State) (keep : Bool) (f off : Nat) (v : Word) : KeepsLinks s (s.mmioWrite keep f off v) := by
  have put (i : DevWrite) : KeepsLinks s { s with device := s.device ++ [i] } := .of_eq rfl rfl rfl
  have base (m : KMap QPair) : KeepsLinks s { s with pairs := m } := .of_eq rfl rfl rfl
  exact .ite (.refl s) (.ite (put _) (.ite (.refl s) (.ite (put _)
    (.ite (.ite (.ite (.refl s) (base _)) (.ite (put _) (.ite (put _) (.refl s)))) (.refl s)))))

theorem keepsLinks_keepSnap (s : State) (u pa n : Nat) : KeepsLinks s (s.keepSnap u pa n) := .ite (keepsLinks_modPart s _ _) (.refl s)

theorem keepsLinks_loftWrite (s : State) (u o : Nat) (l : List Byte) : KeepsLinks s (s.loftWrite u o l) :=
  .ite (keepsLinks_modUnit s u _) (keepsLinks_hbmWrite s _ _)

theorem keepsLinks_writePhys {s t : State} {u : Nat} {r : Option Nat} {keep : Bool} {x : Phys} {va : Word} {l : List Byte}
    (h : s.writePhys u r keep x va l = .ok t) : KeepsLinks s t := by
  cases x with
  | hbm pa sl =>
    cases sl with
    | false =>
      cases h
      exact (keepsLinks_keepSnap s u pa _).trans (keepsLinks_hbmStore _ pa l)
    | true =>
      cases r with
      | none => cases h
      | some r =>
        simp only [State.writePhys, if_true] at h
        split at h
        · cases h
        · cases h
          exact keepsLinks_modUnit s u _
  | loft v o =>
    cases h
    exact keepsLinks_loftWrite s v o l
  | cxl pa =>
    simp only [State.writePhys] at h
    split at h
    · cases h
    · cases h
      exact .of_eq rfl rfl rfl
  | host pa =>
    cases h
    exact .of_eq rfl rfl rfl
  | mmio f o =>
    simp only [State.writePhys] at h
    split at h
    · cases h
    · cases h
      exact keepsLinks_mmioWrite s keep f o _
  | peer => cases h
  | shard => cases h

theorem keepsLinks_writeVA (s : State) (c : XCtx) (u : Nat) (r : Option Nat) (va : Word) (l : List Byte) :
    KeepsLinks s (s.writeVA c u r va l).state := by
  unfold State.writeVA
  refine KeepsLinks.bind_foldl (fun p _ v => (keepsLinks_xlate v c _ _ _ _ _).bind fun y w => ?_) _ (.refl s)
  split
  · exact .refl w
  · next done => exact keepsLinks_writePhys done

/-- A plan that fails writes free values into its result tiles (R84). -/
theorem keepsLinks_failPlan (s : State) (p h sub : Nat) : KeepsLinks s (s.failPlan p h sub) := by
  unfold State.failPlan State.failPlanBut
  cases s.planAt p h with
  | none => exact .refl s
  | some x =>
    refine .ite (.refl s) (KeepsLinks.trans (KeepsLinks.foldl (fun u t => .ite (.refl u) ?_) _ s) (.of_eq rfl rfl rfl))
    have wrote := keepsLinks_writeVA u x.xc x.uid none (pdDst x.desc t)
      ((List.range (pdLen x.desc t * pdDstSize x.desc)).map fun i => Config.tileByte (u.fresh + t) i)
    dsimp only
    generalize u.writeVA x.xc x.uid none (pdDst x.desc t) _ = written at wrote ⊢
    cases written with
    | ok _ v => exact wrote
    | trap _ v => exact .refl u
    | wait _ v => exact .refl u

/-- What is outstanding to peers completes, and their plans fail, without a word on the links (R70, R71, R84). -/
theorem keepsLinks_failPeers (s : State) (f : Nat → Nat → Bool) : KeepsLinks s (s.failPeers f) := by
  have dropped : KeepsLinks s (s.dropSends fun p _ k => f p k) := .ite (.refl s) (.of_eq rfl rfl rfl)
  have plans (u : State) (l : List Plan) : KeepsLinks u (l.foldl (fun s p => s.failPlan p.part p.handle plABSENT) u) :=
    KeepsLinks.foldl (fun u _ => keepsLinks_failPlan u _ _ _) l u
  refine dropped.trans (KeepsLinks.trans ?_ (plans _ _))
  exact (KeepsLinks.foldl (fun u _ => keepsLinks_modUnit u _ _) _ _).trans (.of_eq rfl rfl rfl)

theorem keepsLinks_refreshReach (s : State) : KeepsLinks s s.refreshReach := by
  have marked (m : KMap Bool) : KeepsLinks s { s with unreachable := m } := .of_eq rfl rfl rfl
  exact (marked _).trans (keepsLinks_failPeers _ _)

theorem keepsLinks_slotLost (s : State) (k : Nat) : KeepsLinks s (s.slotLost k) :=
  (keepsLinks_failPeers s _).trans (KeepsLinks.foldl (fun u _ => keepsLinks_failPlan u _ _ _) _ _)

/-! ### A port leaves the route sets (R47) -/

/-- A port outside the route sets, with no flits. -/
def Port.unrouted (p : Port) : Port := { p with routed := false, unacked := [], waiting := [], resend := false }

theorem leaveUp_cases (s : State) (i : Nat) :
    ∃ u, Transmits (s.modPort i Port.unrouted).inRoutes (s.modPort i Port.unrouted) u ∧ s.leaveUp i = u.refreshReach.settle :=
  ⟨_, Transmits.foldl (s.modPort i Port.unrouted) (fun u f start => start.of_start (transmits_enqueue u f))
    ((s.portOf i).flits.filter fun f => !f.control) (.refl _), rfl⟩

/-- The port is empty and stays so, since its flits go to ports that are in route sets. -/
theorem portOf_leaveUp (s : State) (i : Nat) : (s.leaveUp i).portOf i = (s.portOf i).unrouted := by
  obtain ⟨u, moved, eq⟩ := leaveUp_cases s i
  have stays {t v : State} (h : Transmits t.inRoutes t v) (ht : t.portOf i = (s.portOf i).unrouted) : v.portOf i = (s.portOf i).unrouted :=
    (h.others i (by simp [State.inRoutes, ht, Port.unrouted])).trans ht
  rw [eq]
  exact stays (transmits_settle _) (((keepsLinks_refreshReach u).portOf i).trans (stays moved (portOf_modPort_self s i _)))

theorem telemetry_leaveUp (s : State) (i : Nat) {n : Nat} (h : n ≠ tmDisp) :
    KMap.get 0 (s.leaveUp i).telemetry n = KMap.get 0 s.telemetry n := by
  obtain ⟨u, moved, eq⟩ := leaveUp_cases s i
  rw [eq, (transmits_settle _).telemetry, (keepsLinks_refreshReach u).telemetry n h, moved.telemetry]
  rfl

/-- A port that goes to another state leaves the route sets where R47 says so. -/
theorem portLeaves_portTo (s : State) (i : Nat) (f : Port → Port) : portLeaves s (s.portTo i f) i (f (s.portOf i)) := by
  unfold portLeaves State.portTo
  by_cases h : (s.portOf i).st = .up ∨ ((s.portOf i).routed = true ∧ (f (s.portOf i)).st = .disabled)
  · rw [if_pos h]
    dsimp only
    rw [if_pos (by simpa using h), portOf_leaveUp, portOf_modPort_self, Port.unrouted]
  · rw [if_neg h]
    dsimp only
    rw [if_neg (by simpa using h), portOf_modPort_self]

theorem telemetry_portTo (s : State) (i : Nat) (f : Port → Port) {n : Nat} (h : n ≠ tmDisp) :
    KMap.get 0 (s.portTo i f).telemetry n = KMap.get 0 s.telemetry n := by
  unfold State.portTo
  dsimp only
  split
  · exact telemetry_leaveUp (s.modPort i f) i h
  · rfl

end Sys2Proof.Machine
end

section
/-!
PROOFS. Lane maps, widths and confirm records of Thouruth ports (R37, R43-R45, R48).
-/
namespace Sys2Proof.Machine
open Sys2Proof.Claims

/-! ### Lane maps -/

theorem lane_eq_nibble (m : BitVec 16) (k : Nat) : lane m k = nibble m k := by
  rw [lane, fld, Nat.shiftRight_eq_div_pow]
  rfl
theorem nibble_lt (m : BitVec 16) (k : Nat) : nibble m k < 16 := Nat.mod_lt _ (by decide)

theorem laneUsed_iff {n : Nat} (h : n < 16) : laneUsed n = true ↔ 8 ≤ n := by
  rw [laneUsed, Nat.testBit_eq_decide_div_mod_eq, decide_eq_true_iff]
  omega
theorem laneRetired_iff (n : Nat) : laneRetired n = true ↔ 4 ≤ n % 8 := by
  rw [laneRetired, Nat.testBit_eq_decide_div_mod_eq, decide_eq_true_iff]
  omega

theorem laneUsed_nibble (m : BitVec 16) (k : Nat) : laneUsed (nibble m k) = true ↔ usedLane m k := laneUsed_iff (nibble_lt m k)
theorem laneUsed_lane (m : BitVec 16) (k : Nat) : laneUsed (lane m k) = true ↔ usedLane m k := by
  rw [lane_eq_nibble, laneUsed_nibble]
theorem laneRetired_lane (m : BitVec 16) (k : Nat) : laneRetired (lane m k) = true ↔ retiredLane m k := by
  rw [lane_eq_nibble, laneRetired_iff, retiredLane]
theorem not_laneRetired_lane (m : BitVec 16) (k : Nat) : (!laneRetired (lane m k)) = healthyLane m k := by
  rw [healthyLane, Bool.eq_iff_iff, Bool.not_eq_true', ← Bool.not_eq_true, laneRetired_lane, retiredLane, decide_eq_true_iff]
  omega
theorem healthyLane_iff (m : BitVec 16) (k : Nat) : healthyLane m k = true ↔ ¬retiredLane m k := by
  rw [healthyLane, decide_eq_true_iff, retiredLane]
  omega

theorem lt_four_iff (k : Nat) : k < 4 ↔ k = 0 ∨ k = 1 ∨ k = 2 ∨ k = 3 := by omega

theorem nibble_laneMap (f : Nat → Nat) {k : Nat} (h : k < 4) : nibble (laneMap f) k = f k % 16 := by
  have value : (laneMap f).toNat = f 0 % 16 + f 1 % 16 * 16 + f 2 % 16 * 256 + f 3 % 16 * 4096 := by
    simp only [laneMap, BitVec.toNat_ofNat, List.range_succ, List.range_zero, List.nil_append, List.map_append, List.map_cons, List.map_nil,
      List.sum_append, List.sum_cons, List.sum_nil]
    omega
  rw [nibble, value]
  obtain rfl | rfl | rfl | rfl := (lt_four_iff k).1 h <;> omega

theorem nibble_mapOf (m : BitVec 16) (use : List Nat) (join : Nat → Nat) {k : Nat} (h : k < 4) :
    nibble (mapOf m use join) k = (if 4 ≤ nibble m k % 8 then 4 else 0) + (if k ∈ use then 8 + join k % 4 else 0) := by
  rw [mapOf, nibble_laneMap _ h]
  simp only [lane_eq_nibble, laneRetired_iff, List.contains_iff_mem]
  split <;> split <;> omega

/-- The lanes of `use` are used, each joined as `join` says, and a retired lane stays retired (R45). -/
theorem usesLanes_mapOf (m : BitVec 16) {use : List Nat} {join : Nat → Nat} {P : Nat → Prop} {J : Nat → Nat} (used : ∀ j, j < 4 → (j ∈ use ↔ P j))
    (joins : ∀ j, join j % 4 = J j % 4) : usesLanes m (mapOf m use join) P J := by
  intro j hj
  have value := nibble_mapOf m use join hj
  have choice := used j hj
  have join := joins j
  rw [usedLane, retiredLane, retiredLane]
  by_cases mem : j ∈ use
  · have yes : P j := choice.1 mem
    rw [if_pos mem] at value
    simp only [yes, if_true, iff_true]
    split at value <;> omega
  · have no : ¬P j := fun h => mem (choice.2 h)
    rw [if_neg mem] at value
    simp only [no, if_false, iff_false]
    split at value <;> omega

/-! ### Healthy lanes and widths -/

/-- Of the numbers below `n` that a test takes, the first `w` are those with fewer than `w` below them. -/
theorem mem_take_filter_range (ok : Nat → Bool) (n w j : Nat) :
    j ∈ ((List.range n).filter ok).take w ↔ j < n ∧ ok j = true ∧ below ok j < w := by
  induction n with
  | zero => simp
  | succ n ih =>
    have last : j ∈ ((List.range (n + 1)).filter ok).take w ↔ j ∈ ((List.range n).filter ok).take w ∨ j = n ∧ ok n = true ∧ below ok n < w := by
      rw [List.range_succ, List.filter_append, List.take_append, List.mem_append, below]
      refine or_congr_right ?_
      by_cases hn : ok n = true
      · by_cases room : ((List.range n).filter ok).length < w
        · obtain ⟨d, hd⟩ := Nat.exists_eq_add_of_lt room
          simp [hn, room, show w - ((List.range n).filter ok).length = d + 1 by omega]
        · simp [room, show w - ((List.range n).filter ok).length = 0 by omega]
      · simp [hn]
    rw [last, ih]
    constructor
    · rintro (⟨hj, rest⟩ | ⟨rfl, rest⟩)
      · exact ⟨by omega, rest⟩
      · exact ⟨by omega, rest⟩
    · rintro ⟨hj, rest⟩
      obtain h | rfl := Nat.lt_succ_iff_lt_or_eq.1 hj
      · exact .inl ⟨h, rest⟩
      · exact .inr ⟨rfl, rest⟩

theorem healthyLanes_eq (m : BitVec 16) : healthyLanes m = (List.range 4).filter (healthyLane m) := by
  rw [healthyLanes]
  exact List.filter_congr fun k _ => not_laneRetired_lane m k

theorem bothHealthy_eq (m r : BitVec 16) : bothHealthy m r =
    (List.range 4).filter (fun k => healthyLane m k && !(decide (8 ≤ nibble m k) && !healthyLane r (nibble m k % 4))) := by
  rw [bothHealthy, healthyLanes_eq, List.filter_filter]
  refine List.filter_congr fun k _ => ?_
  have used : laneUsed (lane m k) = decide (8 ≤ nibble m k) := by
    rw [Bool.eq_iff_iff, laneUsed_lane, usedLane, decide_eq_true_iff]
  rw [used, ← not_laneRetired_lane r, Bool.not_not, Bool.and_comm, lane_eq_nibble m k]

theorem widthLanes_eq (w : BitVec 2) : widthLanes w = lanesOf w := by revert w; decide
theorem lanesOf_injective {v w : BitVec 2} (h : lanesOf v = lanesOf w) : v = w := by revert v w; decide

theorem widestOf_unique {n : Nat} {w v v' : BitVec 2} (h : widestOf n w v) (h' : widestOf n w v') : v = v' := by
  obtain ⟨fits, narrower, widest⟩ := h
  obtain ⟨fits', narrower', widest'⟩ := h'
  exact lanesOf_injective (Nat.le_antisymm (widest' v fits narrower) (widest v' fits' narrower'))

theorem narrowed_widest : ∀ n ∈ List.range 5, ∀ w : BitVec 2, lanesOf (narrowed n w) ≤ n ∧ lanesOf (narrowed n w) ≤ lanesOf w ∧
    ∀ x : BitVec 2, lanesOf x ≤ n → lanesOf x ≤ lanesOf w → lanesOf x ≤ lanesOf (narrowed n w) := by
  decide

/-- R37, R45: the widest width that the lanes support. -/
theorem widestOf_narrowed (ok : Nat → Bool) (w : BitVec 2) : widestOf (below ok 4) w (narrowed ((List.range 4).filter ok).length w) := by
  have few : ((List.range 4).filter ok).length < 5 := Nat.lt_succ_of_le (List.length_filter_le _ _)
  exact narrowed_widest _ (List.mem_range.2 few) w

/-- The lowest-numbered of the lanes `ok` that a width uses. -/
theorem mem_lowest (ok : Nat → Bool) (w : BitVec 2) (j : Nat) (h : j < 4) :
    j ∈ ((List.range 4).filter ok).take (widthLanes w) ↔ ok j = true ∧ below ok j < lanesOf w := by
  rw [mem_take_filter_range, widthLanes_eq]
  exact and_iff_right h

theorem joined_mod (m : BitVec 16) (j : Nat) : joined m j % 4 = (if 8 ≤ nibble m j then nibble m j else j) % 4 := by
  have used : laneUsed (lane m j) = true ↔ 8 ≤ nibble m j := laneUsed_lane m j
  rw [joined, if_congr used rfl rfl, lane_eq_nibble]
  split
  · rw [Nat.mod_mod]
  · rfl

/-! ### Records -/

/-- R43: each end's map of used lanes is the inverse of the other's. -/
theorem mapsAgree_iff (a b : BitVec 16) : mapsAgree a b = true ↔ inverseMaps a b := by
  have half (x y : BitVec 16) : ((List.range 4).all fun k => !laneUsed (lane x k) || (laneUsed (lane y (lane x k % 4)) && lane y (lane x k % 4) % 4 == k)) = true ↔
      ∀ k, k < 4 → usedLane x k → usedLane y (nibble x k % 4) ∧ nibble y (nibble x k % 4) % 4 = k := by
    simp only [List.all_eq_true, List.mem_range, Bool.or_eq_true, Bool.not_eq_true', ← Bool.not_eq_true, Bool.and_eq_true, beq_iff_eq, lane_eq_nibble,
      laneUsed_nibble, or_iff_not_imp_left, not_not]
  rw [mapsAgree, Bool.and_eq_true]
  exact and_congr (half a b) (half b a)

/-- R44: the lowest lane that both records list as healthy, or lane 0. -/
theorem commonLane_eq {a b : BitVec 16} {k : Nat} (h : commonIs a b k) : commonLane a b = k := by
  obtain ⟨lowest, none⟩ := h
  have both (j : Nat) : (!laneRetired (lane a j) && !laneRetired (lane b j)) = true ↔ ¬retiredLane a j ∧ ¬retiredLane b j := by
    rw [Bool.and_eq_true, not_laneRetired_lane, not_laneRetired_lane, healthyLane_iff, healthyLane_iff]
  rw [commonLane]
  cases found : (List.range 4).find? fun k => !laneRetired (lane a k) && !laneRetired (lane b k) with
  | none =>
    have unhealthy := List.find?_eq_none.1 found
    exact (none fun j ⟨hj, ok⟩ => unhealthy j (List.mem_range.2 hj) ((both j).2 ok)).symm
  | some j =>
    obtain ⟨ok, hj, first⟩ := List.find?_range_eq_some.1 found
    obtain ⟨⟨hk, healthy⟩, le⟩ := lowest j ⟨List.mem_range.1 hj, (both j).1 ok⟩
    refine Nat.le_antisymm (Nat.not_lt.1 fun lt => ?_) le
    have unhealthy := first k lt
    rw [(both k).2 healthy] at unhealthy
    cases unhealthy

end Sys2Proof.Machine
end

section
/-!
PROOFS. Thouruth ports train, narrow and leave (R42-R45, R47): the statement's first half, clause by clause.
-/
namespace Sys2Proof.Machine
open Sys2Proof.Claims

/-! ### Flit headers (R38) -/

section
variable (kind vc seq ack key peer len : Nat) (nak : Bool)

theorem flitHdr_toNat : (flitHdr kind vc seq ack nak key peer len).toNat =
    kind % 16 * 2 ^ 60 + vc % 4 * 2 ^ 58 + seq % 4096 * 2 ^ 46 + ack % 4096 * 2 ^ 34 + (if nak then 1 else 0) * 2 ^ 33 + key % 256 * 2 ^ 25 +
      peer % 4096 * 2 ^ 13 + len % 8 * 2 ^ 10 := by
  rw [flitHdr, toW, BitVec.toNat_ofNat]
  cases nak <;> simp only [Bool.false_eq_true, if_true, if_false] <;> omega

theorem hdrField_kind : hdrField (flitHdr kind vc seq ack nak key peer len) 60 4 = kind % 16 := by
  rw [hdrField, flitHdr_toNat]
  split <;> omega
theorem hdrField_ack : hdrField (flitHdr kind vc seq ack nak key peer len) 34 12 = ack % 4096 := by
  rw [hdrField, flitHdr_toNat]
  split <;> omega
theorem hdrField_nak : hdrField (flitHdr kind vc seq ack nak key peer len) 33 1 = if nak = true then 1 else 0 := by
  rw [hdrField, flitHdr_toNat]
  split <;> omega
theorem hdrField_key : hdrField (flitHdr kind vc seq ack nak key peer len) 25 8 = key % 256 := by
  rw [hdrField, flitHdr_toNat]
  split <;> omega
theorem hdrField_len : hdrField (flitHdr kind vc seq ack nak key peer len) 10 3 = len % 8 := by
  rw [hdrField, flitHdr_toNat]
  split <;> omega
theorem hdrField_reserved : hdrField (flitHdr kind vc seq ack nak key peer len) 0 10 = 0 := by
  rw [hdrField, flitHdr_toNat]
  split <;> omega
end

theorem length_leBytes (n v : Nat) : (leBytes n v).length = n := by
  induction n generalizing v with
  | zero => rfl
  | succ n ih => rw [leBytes, List.length_cons, ih]

/-! ### CONFIRM (R43) -/

theorem ownRecord_eq (s : State) (i : Nat) : s.ownRecord i = recordOf s i (s.portOf i) := rfl

theorem portOf_sendConfirm (s : State) (i j : Nat) : (s.sendConfirm i).portOf j = s.portOf j :=
  congrArg (KMap.get Port.reset · j) (rfl : (s.sendConfirm i).ports = s.ports)
theorem sendConfirm_frame (s : State) (i : Nat) : s.sendConfirm i = { s with sent := (s.sendConfirm i).sent } := rfl
/-- The record goes in a link-control flit. -/
theorem sendConfirm_sent (s : State) (i : Nat) : ∃ h b, (s.sendConfirm i).sent = s.sent ++ [.confirm i (s.ownRecord i), .flit i h b (flitCrc h b)] ∧
    hdrField h 60 4 = 3 ∧ hdrField h 25 8 = 0 ∧ hdrField h 0 10 = 0 ∧ b.length = 112 := by
  unfold State.sendConfirm
  exact ⟨_, _, List.append_assoc _ _ _, hdrField_kind .., hdrField_key .., hdrField_reserved .., length_leBytes _ _⟩

/-- A port that enters CONFIRM sends its record. -/
theorem confirms_sendConfirm (s : State) (i : Nat) (f : Port → Port) (h : (f (s.portOf i)).st = .confirm) :
    confirms s ((s.modPort i f).sendConfirm i) i (f (s.portOf i)) := by
  have own : (s.modPort i f).ownRecord i = recordOf s i (f (s.portOf i)) := by
    rw [ownRecord_eq, portOf_modPort_self]
    rfl
  have sent := sendConfirm_sent (s.modPort i f) i
  rw [own] at sent
  refine ⟨?_, (portOf_sendConfirm _ i i).trans (portOf_modPort_self s i f), h,
    fun j hj => (portOf_sendConfirm _ i j).trans (portOf_modPort_ne s f hj), sent⟩
  rw [sendConfirm_frame]
  rfl

/-- R45: a port narrows to the lowest-numbered of the lanes `ok`. -/
theorem narrows_narrow (s : State) (i : Nat) (ok : Nat → Bool) : narrows s (s.narrow i ((List.range 4).filter ok)) i ok :=
  ⟨_, _, confirms_sendConfirm s i (fun p => narrowPort p ((List.range 4).filter ok)) rfl, widestOf_narrowed ok _,
    usesLanes_mapOf _ (mem_lowest ok _) (joined_mod _)⟩

/-! ### Records that agree (R43) -/

/-- The counters that the partner announces for the key slots that hold a key. -/
def Port.takeCounters (keys : KMap (BitVec 256)) (l : List (Nat × Nat)) (p : Port) : Port :=
  l.foldl (fun q c => if KMap.get 0 keys c.1 = 0 then q else q.modSlot c.1 (fun x => { x with rx := c.2, loaded := true })) p

theorem Port.takeCounters_rest (keys : KMap (BitVec 256)) (l : List (Nat × Nat)) (p : Port) :
    p.takeCounters keys l = { p with slots := (p.takeCounters keys l).slots } := by
  induction l generalizing p with
  | nil => rfl
  | cons c l ih =>
    rw [Port.takeCounters, List.foldl_cons]
    split
    · exact ih p
    · exact (ih _).trans rfl

theorem Port.takeCounters_other (keys : KMap (BitVec 256)) {l : List (Nat × Nat)} (p : Port) {k : Nat} (h : ∀ c ∈ l, k ≠ c.1) :
    (p.takeCounters keys l).slotOf k = p.slotOf k := by
  induction l generalizing p with
  | nil => rfl
  | cons c l ih =>
    rw [Port.takeCounters, List.foldl_cons]
    refine (ih _ fun d hd => h d (by simp [hd])).trans ?_
    split
    · rfl
    · exact slotOf_modSlot_ne p _ (h c (by simp))

theorem Port.takeCounters_slot (keys : KMap (BitVec 256)) {l : List (Nat × Nat)} (p : Port) (sorted : rising l) {c : Nat × Nat} (hc : c ∈ l)
    (key : KMap.get 0 keys c.1 ≠ 0) : ((p.takeCounters keys l).slotOf c.1).rx = c.2 ∧ ((p.takeCounters keys l).slotOf c.1).loaded = true := by
  induction l generalizing p with
  | nil => cases hc
  | cons d l ih =>
    obtain ⟨above, rest⟩ := List.pairwise_cons.1 sorted
    rw [Port.takeCounters, List.foldl_cons]
    obtain rfl | hc := List.mem_cons.1 hc
    · rw [if_neg key]
      have last := Port.takeCounters_other keys (p.modSlot c.1 fun x => { x with rx := c.2, loaded := true })
        fun d hd => (above d.1 (List.mem_map_of_mem hd)).ne
      rw [slotOf_modSlot_self] at last
      rw [Port.takeCounters] at last
      rw [last]
      exact ⟨rfl, rfl⟩
    · exact ih _ rest hc

/-- A port as it goes UP with partner record `r` at time `now`. -/
def Port.goesUp (keys : KMap (BitVec 256)) (r : ConfirmRec) (now : Word) (p : Port) : Port :=
  Port.takeCounters keys r.counters { p with
    st := .up, partnerSerial := r.serial, partnerPort := r.port, partnerPeer := r.peer, goal := .any, routed := true, since := now }

/-- What is unacknowledged is sent again, and then what waits (R39). -/
theorem enterUp_cases (s : State) (i : Nat) (r : ConfirmRec) :
    ({ (s.portOf i).goesUp s.keys r s.tim with resend := false } : Port).SentMore ((s.enterUp i r).portOf i) ∧
    ∃ l, (s.enterUp i r).sent = s.sent ++ (((s.portOf i).unacked.map fun f => Msg.flit i f.hdr f.wire f.integrity) ++ l) := by
  have up : (s.modPort i (Port.goesUp s.keys r s.tim)).portOf i = (s.portOf i).goesUp s.keys r s.tim := portOf_modPort_self s i _
  have reach := keepsLinks_refreshReach (s.modPort i (Port.goesUp s.keys r s.tim))
  have port := (reach.portOf i).trans up
  have sent : (s.modPort i (Port.goesUp s.keys r s.tim)).refreshReach.sent = s.sent := reach.sent
  change Port.SentMore _ (State.portOf ((State.resendAll (s.modPort i (Port.goesUp s.keys r s.tim)).refreshReach i).flush i) i) ∧
    ∃ l, ((State.resendAll (s.modPort i (Port.goesUp s.keys r s.tim)).refreshReach i).flush i).sent = _
  generalize (s.modPort i (Port.goesUp s.keys r s.tim)).refreshReach = u at port sent
  have flushed := transmits_flush (u.resendAll i) i
  have again : (u.resendAll i).portOf i = { (s.portOf i).goesUp s.keys r s.tim with resend := false } := by
    rw [← port]
    exact portOf_modPort_self u i fun p => { p with resend := false }
  have kept : ((s.portOf i).goesUp s.keys r s.tim).unacked = (s.portOf i).unacked := by
    rw [Port.goesUp, Port.takeCounters_rest]
  obtain ⟨l, more⟩ := flushed.sent
  refine ⟨again ▸ flushed.port i, l, ?_⟩
  rw [← more, State.resendAll, port, sent, kept, List.append_assoc]

theorem enterUp_agrees (s : State) (i : Nat) (r : ConfirmRec) :
    let p := s.portOf i
    let t := s.enterUp i r
    let q := t.portOf i
    ∃ l, q.st = .up ∧ q.routed = true ∧ q.partnerSerial = r.serial ∧ q.partnerPort = r.port ∧ q.partnerPeer = r.peer ∧ q.since = s.tim ∧
      q.goal = .any ∧ q.disp = p.disp ∧ q.rxSeq = p.rxSeq ∧ q.lanes = p.lanes ∧ t.sent = s.sent ++ l ∧
      (p.unacked.map (fun f => Msg.flit i f.hdr f.wire f.integrity)).Sublist l ∧
      (rising r.counters → ∀ c ∈ r.counters, KMap.get 0 s.keys c.1 ≠ 0 →
        (KMap.get PortSlot.empty q.slots c.1).rx = c.2 ∧ (KMap.get PortSlot.empty q.slots c.1).loaded = true) := by
  intro p t q
  obtain ⟨more, l, sent⟩ := enterUp_cases s i r
  have fields := more.rest
  rw [Port.goesUp, Port.takeCounters_rest] at fields
  refine ⟨_, congrArg Port.st fields, congrArg Port.routed fields, congrArg Port.partnerSerial fields, congrArg Port.partnerPort fields,
    congrArg Port.partnerPeer fields, congrArg Port.since fields, congrArg Port.goal fields, (congrArg Port.disp fields).trans rfl, (congrArg Port.rxSeq fields).trans rfl,
    (congrArg Port.lanes fields).trans rfl, sent, List.sublist_append_left _ _, fun sorted c hc key => ?_⟩
  obtain ⟨rx, loaded⟩ := Port.takeCounters_slot s.keys _ sorted hc key
  exact ⟨(more.rx c.1).trans rx, (more.loaded c.1).trans loaded⟩

/-! ### Records that disagree (R44) -/

/-- A port whose record and the partner's disagree. -/
def Port.disputed (r : ConfirmRec) (p : Port) : Port :=
  { p with
    st := if 2 ≤ p.disp then .disabled else .disputed
    disp := min (p.disp + 1) 3
    goal := .lowest
    lanes := mapOf p.lanes [commonLane p.lanes r.lanes] (fun _ => 0) }

theorem dispute_eq (s : State) (i : Nat) (r : ConfirmRec) : s.dispute i r =
    if ((s.portTo i (Port.disputed r)).portOf i).st == .disabled then (s.portTo i (Port.disputed r)).count tmDispute else s.portTo i (Port.disputed r) := by
  have port : Port.disputed r = fun p => { p with
      st := if 3 ≤ p.disp + 1 then .disabled else .disputed
      disp := if p.disp + 1 < 3 then p.disp + 1 else 3
      goal := .lowest
      lanes := mapOf p.lanes [commonLane p.lanes r.lanes] (fun _ => 0) } := by
    funext p
    have third : 3 ≤ p.disp + 1 ↔ 2 ≤ p.disp := by omega
    have count : min (p.disp + 1) 3 = if p.disp + 1 < 3 then p.disp + 1 else 3 := by split <;> omega
    rw [Port.disputed, if_congr third rfl rfl, count]
  rw [port]
  rfl

theorem dispute_disagrees (s : State) (i : Nat) (r : ConfirmRec) :
    let p := s.portOf i
    let t := s.dispute i r
    ∃ m, portLeaves s t i { p with
        st := if 2 ≤ p.disp then .disabled else .disputed
        disp := min (p.disp + 1) 3
        goal := .lowest
        lanes := m } ∧
      (∀ k, commonIs p.lanes r.lanes k → ∀ j, j < 4 → (retiredLane m j ↔ retiredLane p.lanes j) ∧ (usedLane m j ↔ j = k)) ∧
      (2 ≤ p.disp → KMap.get 0 t.telemetry tmDispute = KMap.get 0 s.telemetry tmDispute + 1) := by
  intro p t
  have leaves : portLeaves s (s.portTo i (Port.disputed r)) i (Port.disputed r p) := portLeaves_portTo s i _
  have port : t.portOf i = (s.portTo i (Port.disputed r)).portOf i := by
    change (s.dispute i r).portOf i = _
    rw [dispute_eq]
    split <;> rfl
  refine ⟨_, port.trans leaves, fun k common j hj => ?_, fun third => ?_⟩
  · obtain ⟨used, retired, -⟩ := usesLanes_mapOf p.lanes (use := [commonLane p.lanes r.lanes]) (join := fun _ => 0) (P := (· = k)) (J := fun _ => 0)
      (fun j _ => by rw [commonLane_eq common, List.mem_singleton]) (fun _ => rfl) j hj
    exact ⟨retired, used⟩
  · have disabled : ((s.portTo i (Port.disputed r)).portOf i).st = .disabled := by
      have st : (Port.disputed r p).st = .disabled := if_pos third
      rw [leaves]
      split <;> exact st
    change KMap.get 0 (s.dispute i r).telemetry tmDispute = _
    rw [dispute_eq, if_pos (by rw [disabled]; rfl), State.count, KMap.get_upd_self, telemetry_portTo s i _ (by decide)]

/-- R43, R44: the port in CONFIRM compares the records. -/
theorem compares_compareRecord (s : State) (i : Nat) (r : ConfirmRec) : compares s (s.compareRecord i r) i r := by
  have agree : ((s.portOf i).width == r.width && (s.portOf i).speed == r.speed && mapsAgree (s.portOf i).lanes r.lanes) = true ↔
      (s.portOf i).width = r.width ∧ (s.portOf i).speed = r.speed ∧ inverseMaps (s.portOf i).lanes r.lanes := by
    rw [Bool.and_eq_true, Bool.and_eq_true, beq_iff_eq, beq_iff_eq, mapsAgree_iff, and_assoc]
  unfold State.compareRecord
  refine ⟨fun yes => ?_, fun no => ?_⟩
  · dsimp only
    rw [if_pos (agree.2 yes)]
    exact enterUp_agrees s i r
  · dsimp only
    rw [if_neg (mt agree.1 no)]
    exact dispute_disagrees s i r

end Sys2Proof.Machine
end

section
/-!
PROOFS. The events of a training Thouruth port (R42-R45, R47; assumption logs 25 and 42).
-/
namespace Sys2Proof.Machine
open Sys2Proof.Claims

/-! ### Signals and losses (R42, R47) -/

theorem exec_signalDetect_goes {s : State} {i : Nat} (hi : i < 36) {q : PortState}
    (h : ((s.portOf i).st, q) ∈ [(PortState.down, PortState.detect), (.detect, .equalise), (.disputed, .equalise)]) :
    exec (.signalDetect i) s = .next (s.modPort i fun p => { p with st := q }) := by
  refine (if_neg (Nat.not_le.2 hi)).trans ?_
  simp only [List.mem_cons, Prod.mk.injEq, List.not_mem_nil, or_false] at h
  obtain ⟨st, rfl⟩ | ⟨st, rfl⟩ | ⟨st, rfl⟩ := h <;> rw [st]
theorem exec_signalDetect_stays {s : State} (i : Nat) (h : (s.portOf i).st ∉ [.down, .detect, .disputed]) : exec (.signalDetect i) s = .next s := by
  change execSignalDetect i s = _
  unfold execSignalDetect
  dsimp only
  split
  · rfl
  · split
    · next st => simp [st] at h
    · next st => simp [st] at h
    · next st => simp [st] at h
    · rfl

theorem exec_lossOfSignal_down {s : State} {i : Nat} (h : (s.portOf i).st ∈ [.detect, .up]) :
    exec (.lossOfSignal i) s = .next (s.portTo i fun p => { p with st := .down, width := 3 }) := if_pos (by simpa using h)
theorem exec_lossOfSignal_stays {s : State} {i : Nat} (h : (s.portOf i).st ∉ [.detect, .up]) : exec (.lossOfSignal i) s = .next s :=
  if_neg (by simpa using h)
theorem exec_portLoss {s : State} {i : Nat} (h : (s.portOf i).st = .up) :
    exec (.portLoss i) s = .next (s.portTo i fun p => { p with st := .down, width := 3 }) := if_pos (by simpa using h)

/-! ### Equalisation (R42, R44) -/

/-- A port that enters CONFIRM with a chosen width, speed and lanes. -/
def Port.equalised (w v : BitVec 2) (m : BitVec 16) (use : List Nat) (p : Port) : Port :=
  { p with st := .confirm, width := w, speed := v, lanes := mapOf p.lanes use (lane m) }

theorem confirms_equalised (s : State) (i : Nat) (w v : BitVec 2) (m : BitVec 16) {use : List Nat} {P : Nat → Prop} (used : ∀ j, j < 4 → (j ∈ use ↔ P j)) :
    ∃ m', confirms s ((s.modPort i (Port.equalised w v m use)).sendConfirm i) i
        { s.portOf i with st := .confirm, width := w, speed := v, lanes := m' } ∧ usesLanes (s.portOf i).lanes m' P (nibble m) :=
  ⟨_, confirms_sendConfirm s i (Port.equalised w v m use) rfl, usesLanes_mapOf _ used fun j => by rw [lane_eq_nibble]⟩

theorem exec_equaliseDone_stays {s : State} {i : Nat} (w v : BitVec 2) (m : BitVec 16) (h : (s.portOf i).st ≠ .equalise) :
    exec (.equaliseDone i w v m) s = .next s := if_pos (by simpa using h)

/-- The lowest common configuration: its one lane at 56 Gb/s (R44). -/
theorem exec_equaliseDone_lowest {s : State} {i : Nat} (w v : BitVec 2) (m : BitVec 16) (st : (s.portOf i).st = .equalise)
    (goal : (s.portOf i).goal = .lowest) : exec (.equaliseDone i w v m) s =
      .next ((s.modPort i (Port.equalised 2 2 m ((List.range 4).filter fun k => laneUsed (lane (s.portOf i).lanes k)))).sendConfirm i) := by
  refine (if_neg (by simp [st])).trans ?_
  rw [goal]
  rfl

/-- The widest width that the healthy lanes support, no wider than equalisation found or, on a retraining of root firmware, than x4 (R37, R44). -/
theorem exec_equaliseDone_wide {s : State} {i : Nat} (w v : BitVec 2) (m : BitVec 16) (st : (s.portOf i).st = .equalise)
    (goal : (s.portOf i).goal ≠ .lowest) {w' v' : BitVec 2}
    (width : w' = narrowed (healthyLanes (s.portOf i).lanes).length (if (s.portOf i).goal = .full then 0 else w))
    (speed : v' = if (s.portOf i).goal = .full then 0 else v) :
    exec (.equaliseDone i w v m) s = if w' = 3 ∨ v' = 3 then .next s
      else .next ((s.modPort i (Port.equalised w' v' m ((healthyLanes (s.portOf i).lanes).take (widthLanes w')))).sendConfirm i) := by
  refine (if_neg (by simp [st])).trans ?_
  subst width speed
  cases g : (s.portOf i).goal with
  | any => rfl
  | full => rfl
  | lowest => exact absurd g goal

/-- R42, R44: EQUALISE_DONE chooses the lanes. -/
theorem equaliseDone_chooses (s : State) (i : Nat) (w v : BitVec 2) (m : BitVec 16) (st : (s.portOf i).st = .equalise) :
    let p := s.portOf i
    let healthy := healthyLane p.lanes
    let chosen (w' v' : BitVec 2) (use : Nat → Prop) : Prop := ∃ t m', exec (.equaliseDone i w v m) s = .next t ∧
      confirms s t i { p with st := .confirm, width := w', speed := v', lanes := m' } ∧ usesLanes p.lanes m' use (nibble m)
    (p.goal = .lowest → chosen 2 2 (usedLane p.lanes)) ∧
    ∀ w', p.goal ≠ .lowest → widestOf (below healthy 4) (if p.goal = .full then 0 else w) w' →
      let v' := if p.goal = .full then 0 else v
      ((w' = 3 ∨ v' = 3) → exec (.equaliseDone i w v m) s = .next s) ∧
      (w' ≠ 3 → v' ≠ 3 → chosen w' v' (fun j => healthy j = true ∧ below healthy j < lanesOf w')) := by
  intro p healthy chosen
  refine ⟨fun lowest => ?_, fun w' goal widest => ?_⟩
  · have used : ∀ j, j < 4 → (j ∈ (List.range 4).filter (fun k => laneUsed (lane p.lanes k)) ↔ usedLane p.lanes j) := fun j hj => by
      rw [List.mem_filter, laneUsed_lane]
      exact and_iff_right (List.mem_range.2 hj)
    obtain ⟨m', done⟩ := confirms_equalised s i 2 2 m used
    exact ⟨_, m', exec_equaliseDone_lowest w v m st lowest, done⟩
  · intro v'
    have width : w' = narrowed (healthyLanes p.lanes).length (if p.goal = .full then 0 else w) := by
      rw [healthyLanes_eq]
      exact widestOf_unique widest (widestOf_narrowed _ _)
    have run := exec_equaliseDone_wide w v m st goal width (rfl : v' = _)
    refine ⟨fun none => run.trans (if_pos none), fun hw hv => ?_⟩
    have used := mem_lowest (healthyLane p.lanes) w'
    rw [← healthyLanes_eq] at used
    obtain ⟨m', done⟩ := confirms_equalised s i w' v' m used
    exact ⟨_, m', run.trans (if_neg fun none => none.elim hw hv), done⟩

/-! ### Confirm records (R43-R45) -/

theorem confirmRecord_compares (s : State) (i : Nat) (r : ConfirmRec) :
    let p := s.portOf i
    let healthy := healthyLane p.lanes
    (p.st = .confirm → ∃ t, exec (.confirmRecord i r) s = .next t ∧ compares s t i r) ∧
    (p.st = .retire → ∃ u t, exec (.confirmRecord i r) s = .next t ∧ narrows s u i healthy ∧ compares u t i r) ∧
    (p.st = .up → ∃ u t, exec (.confirmRecord i r) s = .next t ∧ compares u t i r ∧
      narrows s u i (fun k => healthy k && !(decide (8 ≤ nibble p.lanes k) && !healthyLane r.lanes (nibble p.lanes k % 4)))) ∧
    (p.st ∉ [.confirm, .retire, .up] → exec (.confirmRecord i r) s = .next s) := by
  intro p healthy
  have run : exec (.confirmRecord i r) s = match p.st with
      | .confirm => .next (s.compareRecord i r)
      | .retire => .next ((s.narrow i (healthyLanes p.lanes)).compareRecord i r)
      | .up => .next ((s.narrow i (bothHealthy p.lanes r.lanes)).compareRecord i r)
      | _ => .next s := rfl
  rw [healthyLanes_eq, bothHealthy_eq] at run
  refine ⟨fun st => ?_, fun st => ?_, fun st => ?_, fun st => ?_⟩
  · rw [st] at run
    exact ⟨_, run, compares_compareRecord s i r⟩
  · rw [st] at run
    exact ⟨_, _, run, narrows_narrow s i _, compares_compareRecord _ i r⟩
  · rw [st] at run
    exact ⟨_, _, run, compares_compareRecord _ i r, narrows_narrow s i _⟩
  · rw [run]
    split
    · next h => simp [h] at st
    · next h => simp [h] at st
    · next h => simp [h] at st
    · rfl

/-! ### Disputes, retraining and the enabling of a port (R42, R44) -/

theorem exec_disputeReset {s : State} {i : Nat} (up : (s.portOf i).st = .up) (late : 60000000000 ≤ s.tim.toNat - (s.portOf i).since.toNat) :
    exec (.disputeReset i) s = .next (s.modPort i fun p => { p with disp := 0 }) := if_pos (by simpa [up] using late)
theorem exec_disputeReset_stays {s : State} {i : Nat} (h : (s.portOf i).st ≠ .up ∨ s.tim.toNat - (s.portOf i).since.toNat < 60000000000) :
    exec (.disputeReset i) s = .next s := by
  refine if_neg ?_
  rw [Bool.and_eq_true, beq_iff_eq, decide_eq_true_eq]
  exact fun ⟨up, late⟩ => h.elim (fun not => not up) (Nat.not_lt.2 late)
theorem exec_rootRetrain {s : State} {i : Nat} (up : (s.portOf i).st = .up) :
    exec (.rootRetrain i) s = .next (s.portTo i fun p => { p with st := .equalise, goal := .full }) := if_pos (by simpa using up)
theorem exec_rootRetrain_stays {s : State} {i : Nat} (h : (s.portOf i).st ≠ .up) : exec (.rootRetrain i) s = .next s := if_neg (by simpa using h)
theorem exec_portEnable {s : State} {i : Nat} (h : (s.portOf i).st = .disabled) :
    exec (.portEnable i) s = .next (s.modPort i fun p => { p with st := .detect, disp := 0, goal := .any }) := if_pos (by simpa using h)
theorem exec_portEnable_stays {s : State} {i : Nat} (h : (s.portOf i).st ≠ .disabled) : exec (.portEnable i) s = .next s := if_neg (by simpa using h)

/-! ### The retirement of a lane (R42, R45) -/

/-- A lane map in which lane `k` has retired. -/
def retireLane (m : BitVec 16) (k : Nat) : BitVec 16 := laneMap (fun j => if j == k then 4 else lane m j)

theorem nibble_retireLane (m : BitVec 16) (k : Nat) {j : Nat} (h : j < 4) : nibble (retireLane m k) j = if j = k then 4 else nibble m j := by
  have small := nibble_lt m j
  rw [retireLane, nibble_laneMap _ h, lane_eq_nibble]
  simp only [beq_iff_eq]
  split
  · rfl
  · exact Nat.mod_eq_of_lt small

/-- No lane is left once one retires exactly where every other had retired. -/
theorem healthyLanes_retireLane (m : BitVec 16) (k : Nat) :
    (healthyLanes (retireLane m k)).isEmpty = true ↔ ∀ j, j < 4 → j ≠ k → retiredLane m j := by
  have retired (j : Nat) (hj : j < 4) : retiredLane (retireLane m k) j ↔ j = k ∨ retiredLane m j := by
    rw [retiredLane, nibble_retireLane m k hj, retiredLane]
    split
    · next h => simp [h]
    · next h => simp [h]
  rw [List.isEmpty_iff, healthyLanes_eq, List.filter_eq_nil_iff]
  simp only [healthyLane_iff, not_not, List.mem_range]
  exact forall₂_congr fun j hj => (retired j hj).trans or_iff_not_imp_left

theorem exec_laneRetire_narrows {s : State} {i : Nat} (k : Nat) (st : (s.portOf i).st = .retire) :
    exec (.laneRetire i k) s = .next (s.narrow i (healthyLanes (s.portOf i).lanes)) := if_pos (by simpa using st)
theorem exec_laneRetire_stays {s : State} {i k : Nat} (st : (s.portOf i).st ≠ .retire)
    (h : (s.portOf i).st ≠ .up ∨ 4 ≤ k ∨ retiredLane (s.portOf i).lanes k) : exec (.laneRetire i k) s = .next s :=
  (if_neg (by simpa using st)).trans (if_pos (by simpa [laneRetired_lane, or_assoc] using h))
theorem exec_laneRetire {s : State} {i k : Nat} (up : (s.portOf i).st = .up) (hk : k < 4) (healthy : ¬retiredLane (s.portOf i).lanes k) :
    exec (.laneRetire i k) s = if (healthyLanes (retireLane (s.portOf i).lanes k)).isEmpty = true
      then .next (s.portTo i fun p => { p with st := .down, width := 3, lanes := retireLane (s.portOf i).lanes k })
      else .next (s.modPort i fun p => { p with st := .retire, lanes := retireLane (s.portOf i).lanes k }) :=
  (if_neg (by simp [up])).trans (if_neg (by
    rw [Bool.or_eq_true, laneRetired_lane]
    simpa [up, healthy] using hk))

theorem laneRetire_retires {s : State} {i k : Nat} (up : (s.portOf i).st = .up) (hk : k < 4) (healthy : ¬retiredLane (s.portOf i).lanes k) :
    let p := s.portOf i
    ∃ m, nibble m k = 4 ∧ (∀ j, j < 4 → j ≠ k → nibble m j = nibble p.lanes j) ∧
      ((∀ j, j < 4 → j ≠ k → retiredLane p.lanes j) → ∃ t, exec (.laneRetire i k) s = .next t ∧
        portLeaves s t i { p with st := .down, width := 3, lanes := m }) ∧
      ((∃ j, j < 4 ∧ j ≠ k ∧ ¬retiredLane p.lanes j) → ∃ t, exec (.laneRetire i k) s = .next t ∧ portIs s t i { p with st := .retire, lanes := m }) := by
  intro p
  have run := exec_laneRetire up hk healthy
  refine ⟨retireLane p.lanes k, (nibble_retireLane _ k hk).trans (if_pos rfl), fun j hj ne => (nibble_retireLane _ k hj).trans (if_neg ne),
    fun last => ?_, fun ⟨j, hj, ne, left⟩ => ?_⟩
  · exact ⟨_, run.trans (if_pos ((healthyLanes_retireLane _ k).2 last)), portLeaves_portTo s i _⟩
  · exact ⟨_, run.trans (if_neg fun none => left ((healthyLanes_retireLane _ k).1 none j hj ne)), portIs_modPort s i _⟩

/-! ### The first half of the statement -/

theorem ports_trainAndRetire : portsTrainAndRetire := by
  intro s i hi p healthy
  refine ⟨fun q h => ⟨_, exec_signalDetect_goes hi h, portIs_modPort s i _⟩, exec_signalDetect_stays i,
    fun h => ⟨_, exec_lossOfSignal_down h, portLeaves_portTo s i _⟩, exec_lossOfSignal_stays, fun h => ⟨_, exec_portLoss h, portLeaves_portTo s i _⟩,
    equaliseDone_chooses s i, exec_equaliseDone_stays, confirmRecord_compares s i, fun up late => ⟨_, exec_disputeReset up late, portIs_modPort s i _⟩,
    exec_disputeReset_stays, fun up => ⟨_, exec_rootRetrain up, portLeaves_portTo s i _⟩, exec_rootRetrain_stays,
    fun h => ⟨_, exec_portEnable h, portIs_modPort s i _⟩, exec_portEnable_stays, fun k => ⟨laneRetire_retires, fun st => ?_, exec_laneRetire_stays⟩⟩
  refine ⟨_, exec_laneRetire_narrows k st, ?_⟩
  rw [healthyLanes_eq]
  exact narrows_narrow s i _

end Sys2Proof.Machine
end

section
/-!
PROOFS. Flits as a Thouruth port receives, answers and resends them (R38-R41; assumption logs 18 and 25), and the statement on ports.
-/
namespace Sys2Proof.Machine
open Sys2Proof.Claims

/-! ### Header fields -/

theorem fld_eq_hdrField (h : Word) (lo n : Nat) : fld h.toNat lo n = hdrField h lo n := by rw [fld, Nat.shiftRight_eq_div_pow, hdrField]
theorem hdKind_eq (h : Word) : hdKind h = hdrField h 60 4 := fld_eq_hdrField h 60 4
theorem hdSeq_eq (h : Word) : hdSeq h = hdrField h 46 12 := fld_eq_hdrField h 46 12
theorem hdKey_eq (h : Word) : hdKey h = hdrField h 25 8 := fld_eq_hdrField h 25 8
theorem hdAck_eq (h : Word) : hdAck h = hdrField h 34 12 := fld_eq_hdrField h 34 12
theorem hdVc_eq (h : Word) : hdVc h = hdrField h 58 2 := fld_eq_hdrField h 58 2

/-- Data, and link control between ports in UP, take a sequence number. -/
theorem hdSequenced_iff (h : Word) : hdSequenced h = true ↔ hdrField h 60 4 = 1 ∨ hdrField h 60 4 = 3 := by
  rw [hdSequenced, hdKind_eq, Bool.or_eq_true, beq_iff_eq, beq_iff_eq]

theorem flitIv_eq (p : Port) (k : Nat) : flitIv p.partnerPeer p.partnerPort (p.slotOf k).rx = ivOf p k := by
  rw [flitIv, ivOf]
  congr 1
  exact (Nat.add_comm _ _).trans (by rw [Nat.add_assoc, Nat.add_comm (_ % 2 ^ 64)]; rfl)

/-! ### Acknowledgements (R38, R39) -/

theorem portOf_answerFlit (s : State) (i j : Nat) : (s.answerFlit i).portOf j = s.portOf j := by
  unfold State.answerFlit
  dsimp only
  split <;> rfl
theorem answerFlit_frame (s : State) (i : Nat) : s.answerFlit i = { s with sent := (s.answerFlit i).sent } := by
  unfold State.answerFlit
  dsimp only
  split <;> rfl

/-- A port in UP tells what it has received, after all that left before. -/
theorem answers_answerFlit {s₀ s : State} {i : Nat} (before : s₀.sent <+: s.sent) (up : (s.portOf i).st = .up) :
    answers s₀ (s.answerFlit i) i (s.portOf i).rxSeq (s.portOf i).nak := by
  obtain ⟨l, before⟩ := before
  let p := s.portOf i
  let hdr := flitHdr 2 3 0 p.rxSeq p.nak 0 p.partnerPeer 0
  have answer : s.answerFlit i = s.send (.flit i hdr (payloadOf []) (flitCrc hdr (payloadOf []))) := if_neg (by simp [up])
  refine ⟨l, hdr, payloadOf [], ?_, hdrField_kind _ _ _ _ _ _ _ _, hdrField_ack _ _ _ _ _ _ _ _, hdrField_nak _ _ _ _ _ _ _ _,
    hdrField_key _ _ _ _ _ _ _ _, hdrField_len _ _ _ _ _ _ _ _, hdrField_reserved _ _ _ _ _ _ _ _, rfl⟩
  rw [answer, before]
  rfl

/-! ### Flits that are discarded (R39) -/

theorem discardFlit_port (s : State) (i : Nat) : (s.discardFlit i).portOf i = { s.portOf i with nak := true } :=
  (portOf_answerFlit _ i i).trans (portOf_modPort_self s i _)

theorem discards_discardFlit {s : State} {i : Nat} (up : (s.portOf i).st = .up) : discards s (s.discardFlit i) i none := by
  have port : (s.modPort i fun p => { p with nak := true }).portOf i = { s.portOf i with nak := true } := portOf_modPort_self s i _
  have answered := answers_answerFlit (s₀ := s) (s := s.modPort i fun p => { p with nak := true }) (i := i) List.prefix_rfl (by rw [port]; exact up)
  rw [port] at answered
  have frame := answerFlit_frame (s.modPort i fun p => { p with nak := true }) i
  refine ⟨?_, discardFlit_port s i, fun j hj => (portOf_answerFlit _ i j).trans (portOf_modPort_ne s _ hj), answered, fun k => ?_⟩
  · rw [State.discardFlit, frame]
    rfl
  · rw [State.discardFlit, frame]
    simp [State.modPort]

theorem discards_counted {s : State} {i : Nat} (up : (s.portOf i).st = .up) (n : Nat) : discards s ((s.count n).discardFlit i) i (some n) := by
  obtain ⟨frame, port, others, answered, telemetry⟩ := discards_discardFlit (s := s.count n) (i := i) up
  refine ⟨by rw [frame]; rfl, port, others, answered, fun k => ?_⟩
  rw [telemetry k, counts_count s n k]
  simp

/-! ### Flits that are taken in order (R39, R41) -/

theorem deliver_port (s : State) (i : Nat) (h : Word) (plain : List Byte) (kept : Bool) : (s.deliver i h plain kept).portOf i =
    { s.portOf i with rxSeq := hdSeq h, nak := false, delivered := if kept then (s.portOf i).delivered ++ [(hdVc h, plain)] else (s.portOf i).delivered } :=
  (portOf_answerFlit _ i i).trans (portOf_modPort_self s i _)

theorem deliver_frame (s : State) (i : Nat) (h : Word) (plain : List Byte) (kept : Bool) :
    s.deliver i h plain kept = { s with ports := (s.deliver i h plain kept).ports, sent := (s.deliver i h plain kept).sent } := by
  rw [State.deliver, answerFlit_frame]
  rfl

theorem answers_deliver {s₀ s : State} {i : Nat} (before : s₀.sent <+: s.sent) (up : (s.portOf i).st = .up) (h : Word) (plain : List Byte) (kept : Bool) :
    answers s₀ (s.deliver i h plain kept) i (hdrField h 46 12) false := by
  have port := portOf_modPort_self s i fun p =>
    { p with rxSeq := hdSeq h, nak := false, delivered := if kept then p.delivered ++ [(hdVc h, plain)] else p.delivered }
  have answered := answers_answerFlit (s₀ := s₀) (i := i) (s := s.modPort i fun p =>
    { p with rxSeq := hdSeq h, nak := false, delivered := if kept then p.delivered ++ [(hdVc h, plain)] else p.delivered }) before (by rw [port]; exact up)
  rw [port] at answered
  rw [← hdSeq_eq]
  exact answered

/-! ### What FLIT_RECEIVE does -/

/-- A flit is decoded, and one under key 0 checked by its CRC (R39). -/
def decodes (fec : Bool) (h : Word) (d : List Byte) (g : Word) : Prop :=
  fec = true ∧ hdrField h 60 4 < 4 ∧ hdrField h 0 10 = 0 ∧ d.length = 112 ∧ (hdrField h 25 8 = 0 → flitCrc h d = g)
/-- It is next in sequence, or takes no number. -/
def inOrder (p : Port) (h : Word) : Prop := hdrField h 60 4 = 1 ∨ hdrField h 60 4 = 3 → hdrField h 46 12 = (p.rxSeq + 1) % 4096
/-- Its tag is the one that its slot's key gives (R41). -/
def opensUnder (s : State) (p : Port) (h : Word) (d : List Byte) (g : Word) : Prop :=
  KMap.get 0 s.keys (hdrField h 25 8) ≠ 0 ∧
  gcmTag (KMap.get 0 s.keys (hdrField h 25 8)) (ivOf p (hdrField h 25 8)) (leBytes 8 h.toNat) d = g

/-- A port that takes a flit: the acknowledgement it carries, and the counter of its slot. -/
def Port.takeFlit (h : Word) (p : Port) : Port :=
  if hdKey h == 0 then p.ack (hdAck h) (hdNak h)
  else (p.ack (hdAck h) (hdNak h)).modSlot (hdKey h) (fun x => { x with rx := x.rx + 1, failsInRow := 0 })
/-- What the acknowledgement lets go. -/
def State.takeFlit (s : State) (i : Nat) (h : Word) : State := ((s.modPort i (Port.takeFlit h)).flush i).settle
/-- The payload in the clear. -/
def clearPayload (s : State) (p : Port) (h : Word) (d : List Byte) : List Byte :=
  (if hdrField h 25 8 = 0 then d else gcmCipher (KMap.get 0 s.keys (hdrField h 25 8)) (ivOf p (hdrField h 25 8)) d).take (16 * hdrField h 10 3)
/-- The state after a flit of each kind was accepted. -/
def State.acceptFlit (s : State) (i : Nat) (h : Word) (plain : List Byte) : State :=
  if hdrField h 60 4 = 1 then (s.takeFlit i h).deliver i h plain true
  else if hdrField h 60 4 = 3 then ((s.takeFlit i h).deliver i h plain false).linkControl i plain
  else s.takeFlit i h

section
variable {s : State} {i : Nat} {fec : Bool} {h : Word} {d : List Byte} {g : Word}

theorem exec_flitReceive_down (fec : Bool) (h : Word) (d : List Byte) (g : Word) (down : (s.portOf i).st ≠ .up) :
    exec (.flitReceive i fec h d g) s = .next s := if_pos (by simpa using down)

/-- The two checks that a flit must pass to be decoded. -/
theorem decodes_iff : decodes fec h d g ↔ ¬(!fec || decide (4 ≤ hdKind h) || fld h.toNat 0 10 != 0 || d.length != 112) = true ∧
    ¬(hdKey h == 0 && flitCrc h d != g) = true := by
  rw [decodes, hdKind_eq, hdKey_eq, fld_eq_hdrField]
  simp only [Bool.or_eq_true, Bool.and_eq_true, Bool.not_eq_true', decide_eq_true_eq, bne_iff_ne, beq_iff_eq, not_or, not_and, not_not,
    Bool.not_eq_false, Nat.not_le, ne_eq, and_assoc]

theorem exec_flitReceive_undecoded (up : (s.portOf i).st = .up) (bad : ¬decodes fec h d g) :
    exec (.flitReceive i fec h d g) s = .next ((s.count tmFlit).discardFlit i) := by
  refine (if_neg (by simp [up])).trans ?_
  by_cases broken : (!fec || decide (4 ≤ hdKind h) || fld h.toNat 0 10 != 0 || d.length != 112) = true
  · exact if_pos broken
  · refine (if_neg broken).trans (if_pos ?_)
    by_contra crc
    exact bad (decodes_iff.2 ⟨broken, crc⟩)

theorem inOrder_iff (p : Port) : inOrder p h ↔ ¬(hdSequenced h && hdSeq h != (p.rxSeq + 1) % 4096) = true := by
  rw [inOrder, Bool.and_eq_true, hdSequenced_iff, bne_iff_ne, hdSeq_eq, not_and, ne_eq, not_not]

theorem exec_flitReceive_outOfOrder (up : (s.portOf i).st = .up) (good : decodes fec h d g) (stale : ¬inOrder (s.portOf i) h) :
    exec (.flitReceive i fec h d g) s = .next (s.discardFlit i) := by
  obtain ⟨whole, crc⟩ := decodes_iff.1 good
  exact (if_neg (by simp [up])).trans ((if_neg whole).trans ((if_neg crc).trans (if_pos (by rwa [inOrder_iff, not_not] at stale))))

theorem exec_flitReceive_dropped (up : (s.portOf i).st = .up) (good : decodes fec h d g) (order : inOrder (s.portOf i) h)
    (key : hdrField h 25 8 ≠ 0) (dropping : ((s.portOf i).slotOf (hdrField h 25 8)).dropping = true) :
    exec (.flitReceive i fec h d g) s = .next (if hdSequenced h then s.deliver i h [] false else s) := by
  obtain ⟨whole, crc⟩ := decodes_iff.1 good
  refine (if_neg (by simp [up])).trans ((if_neg whole).trans ((if_neg crc).trans ((if_neg ((inOrder_iff _).1 order)).trans (if_pos ?_))))
  rw [Bool.and_eq_true, bne_iff_ne, hdKey_eq]
  exact ⟨key, dropping⟩

/-- The check of a tag (R41). -/
theorem opensUnder_iff : opensUnder s (s.portOf i) h d g ↔ ¬(decide (KMap.get 0 s.keys (hdKey h) = 0) ||
    gcmTag (KMap.get 0 s.keys (hdKey h)) (flitIv (s.portOf i).partnerPeer (s.portOf i).partnerPort ((s.portOf i).slotOf (hdKey h)).rx) (hdrBytes h) d != g) = true := by
  rw [flitIv_eq, hdKey_eq, opensUnder, hdrBytes, Bool.or_eq_true, decide_eq_true_eq, bne_iff_ne, not_or, ne_eq, ne_eq, not_not]

theorem exec_flitReceive_failed (up : (s.portOf i).st = .up) (good : decodes fec h d g) (order : inOrder (s.portOf i) h)
    (key : hdrField h 25 8 ≠ 0) (taking : ((s.portOf i).slotOf (hdrField h 25 8)).dropping = false) (fails : ¬opensUnder s (s.portOf i) h d g) :
    exec (.flitReceive i fec h d g) s = .next (s.tagFailure i h) := by
  obtain ⟨whole, crc⟩ := decodes_iff.1 good
  refine (if_neg (by simp [up])).trans ((if_neg whole).trans ((if_neg crc).trans ((if_neg ((inOrder_iff _).1 order)).trans ((if_neg ?_).trans (if_pos ?_)))))
  · rw [hdKey_eq, taking, Bool.and_false]
    exact Bool.false_ne_true
  · rw [Bool.and_eq_true, bne_iff_ne, hdKey_eq, ← hdKey_eq]
    exact ⟨hdKey_eq h ▸ key, by rwa [opensUnder_iff, not_not] at fails⟩

theorem clearPayload_eq (s : State) (p : Port) (h : Word) (d : List Byte) : clearPayload s p h d =
    (if hdKey h == 0 then d else gcmCipher (KMap.get 0 s.keys (hdKey h)) (flitIv p.partnerPeer p.partnerPort (p.slotOf (hdKey h)).rx) d).take
      (16 * fld h.toNat 10 3) := by
  rw [flitIv_eq, hdKey_eq, fld_eq_hdrField, clearPayload]
  simp only [beq_iff_eq]

theorem exec_flitReceive_accepted (up : (s.portOf i).st = .up) (good : decodes fec h d g) (order : inOrder (s.portOf i) h)
    (opens : hdrField h 25 8 ≠ 0 → opensUnder s (s.portOf i) h d g ∧ ((s.portOf i).slotOf (hdrField h 25 8)).dropping = false) :
    exec (.flitReceive i fec h d g) s = .next (s.acceptFlit i h (clearPayload s (s.portOf i) h d)) := by
  obtain ⟨whole, crc⟩ := decodes_iff.1 good
  refine (if_neg (by simp [up])).trans ((if_neg whole).trans ((if_neg crc).trans ((if_neg ((inOrder_iff _).1 order)).trans ((if_neg ?_).trans
    ((if_neg ?_).trans ?_)))))
  · rw [Bool.and_eq_true, bne_iff_ne, hdKey_eq]
    rintro ⟨key, dropping⟩
    rw [(opens key).2] at dropping
    cases dropping
  · rw [Bool.and_eq_true, bne_iff_ne]
    rintro ⟨key, closed⟩
    exact opensUnder_iff.1 (opens (hdKey_eq h ▸ key)).1 closed
  · rw [clearPayload_eq, State.acceptFlit, ← hdKind_eq]
    dsimp only
    split
    · next kind => rw [if_pos (show hdKind h = 1 from kind)]; rfl
    · next kind => rw [if_neg (show ¬hdKind h = 1 by rw [kind]; decide), if_pos kind]; rfl
    · next data control => rw [if_neg (show ¬hdKind h = 1 from data), if_neg (show ¬hdKind h = 3 from control)]; rfl
end

end Sys2Proof.Machine
end

section
/-!
PROOFS. What an accepted flit and a failed tag leave of a Thouruth port (R39-R41), and the statement on ports.
-/
namespace Sys2Proof.Machine
open Sys2Proof.Claims

/-! ### Taking a flit (R38-R40) -/

/-- Of the flits that are not acknowledged, those up to the one with number `n` are let go (R39). -/
theorem Port.ack_found (p : Port) {n : Nat} (nak : Bool) {a b : List TxFlit} {f : TxFlit} (split : p.unacked = a ++ f :: b) (here : f.seq = n)
    (first : ∀ x ∈ a, x.seq ≠ n) : p.ack n nak = { p with unacked := b, resend := p.resend || nak } := by
  have found : p.unacked.findIdx? (fun f => f.seq == n) = some a.length := by
    have none : a.findIdx? (fun f => f.seq == n) = none := by simpa [List.findIdx?_eq_none_iff] using first
    rw [split, List.findIdx?_append, none, List.findIdx?_cons]
    simp [here]
  rw [Port.ack, found, split]
  simp
theorem Port.ack_absent (p : Port) {n : Nat} (nak : Bool) (absent : ∀ x ∈ p.unacked, x.seq ≠ n) : p.ack n nak = { p with resend := p.resend || nak } := by
  have none : p.unacked.findIdx? (fun f => f.seq == n) = none := by simpa [List.findIdx?_eq_none_iff] using absent
  rw [Port.ack, none]
theorem Port.ack_rest (p : Port) (n : Nat) (nak : Bool) : p.ack n nak = { p with unacked := (p.ack n nak).unacked, resend := p.resend || nak } := by
  unfold Port.ack
  split <;> rfl

theorem Port.takeFlit_rest (h : Word) (p : Port) : p.takeFlit h =
    { p with unacked := (p.ack (hdAck h) (hdNak h)).unacked, resend := p.resend || hdNak h, slots := (p.takeFlit h).slots } := by
  have acked := Port.ack_rest p (hdAck h) (hdNak h)
  unfold Port.takeFlit
  generalize p.ack (hdAck h) (hdNak h) = q at acked ⊢
  split
  · rw [acked]
  · rw [acked]
    rfl
theorem Port.takeFlit_slot (p : Port) {h : Word} (key : hdrField h 25 8 ≠ 0) :
    (p.takeFlit h).slotOf (hdrField h 25 8) = { p.slotOf (hdrField h 25 8) with rx := (p.slotOf (hdrField h 25 8)).rx + 1, failsInRow := 0 } := by
  rw [Port.takeFlit, hdKey_eq, if_neg (by simpa using key), slotOf_modSlot_self, Port.ack_rest]
  rfl

theorem transmits_takeFlit (s : State) (i : Nat) (h : Word) : Transmits (fun _ => True) (s.modPort i (Port.takeFlit h)) (s.takeFlit i h) :=
  ((transmits_flush _ i).mono fun _ _ => trivial).trans ((transmits_settle _).mono fun _ _ => trivial)

/-- The port once the flits that it held went after the acknowledgement. -/
theorem takeFlit_port (s : State) (i : Nat) (h : Word) : ((s.portOf i).takeFlit h).SentMore ((s.takeFlit i h).portOf i) := by
  have more := (transmits_takeFlit s i h).port i
  rwa [portOf_modPort_self] at more
theorem takeFlit_sent (s : State) (i : Nat) (h : Word) : s.sent <+: (s.takeFlit i h).sent := (transmits_takeFlit s i h).sent
theorem takeFlit_st (s : State) (i : Nat) (h : Word) : ((s.takeFlit i h).portOf i).st = (s.portOf i).st :=
  (takeFlit_port s i h).st.trans (by rw [Port.takeFlit_rest])

/-! ### Accepting a flit -/

/-- From `p` to `q` a port took the flits `new` in, at sequence number `seq` where they have one, and possibly sent some; key slots were confirmed. -/
structure Port.TookIn (seq : Option Nat) (new : List (Nat × List Byte)) (p q : Port) : Prop where
  st : q.st = p.st
  delivered : q.delivered = p.delivered ++ new
  rxSeq : q.rxSeq = seq.getD p.rxSeq
  nak : q.nak = (seq.isNone && p.nak)
  resend : q.resend = p.resend
  unacked : p.unacked <+: q.unacked
  rx : ∀ k, (q.slotOf k).rx = (p.slotOf k).rx
  failsInRow : ∀ k, (q.slotOf k).failsInRow = (p.slotOf k).failsInRow

theorem Port.TookIn.refl (p : Port) : p.TookIn none [] p :=
  ⟨rfl, (List.append_nil _).symm, rfl, rfl, rfl, List.prefix_rfl, fun _ => rfl, fun _ => rfl⟩

/-- Sending after it changes nothing of that. -/
theorem Port.TookIn.sentMore {seq : Option Nat} {new : List (Nat × List Byte)} {p q r : Port} (h : p.TookIn seq new q) (g : q.SentMore r) :
    p.TookIn seq new r where
  st := g.st.trans h.st
  delivered := g.delivered.trans h.delivered
  rxSeq := g.rxSeq.trans h.rxSeq
  nak := g.nak.trans h.nak
  resend := g.resend.trans h.resend
  unacked := h.unacked.trans g.unacked
  rx k := (g.rx k).trans (h.rx k)
  failsInRow k := (g.failsInRow k).trans (h.failsInRow k)

theorem deliver_tookIn (s : State) (i : Nat) (h : Word) (plain : List Byte) (kept : Bool) :
    (s.portOf i).TookIn (some (hdSeq h)) (if kept then [(hdVc h, plain)] else []) ((s.deliver i h plain kept).portOf i) := by
  rw [deliver_port]
  refine ⟨rfl, ?_, rfl, rfl, rfl, List.prefix_rfl, fun _ => rfl, fun _ => rfl⟩
  cases kept
  · exact (List.append_nil _).symm
  · rfl

/-- R40: the partner confirms a key slot, and what waited for it is sent. -/
theorem linkControl_cases (s : State) (i : Nat) (l : List Byte) :
    s.linkControl i l = { s with ports := (s.linkControl i l).ports, sent := (s.linkControl i l).sent, heldReplies := (s.linkControl i l).heldReplies } ∧
    ((l.getD 0 0).toNat = 0 ∧ s.linkControl i l = s ∨ (l.getD 0 0).toNat ≠ 0 ∧
      ((s.portOf i).modSlot (l.getD 0 0).toNat fun x => { x with loaded := true }).SentMore ((s.linkControl i l).portOf i)) := by
  unfold State.linkControl
  dsimp only
  split
  · next none => exact ⟨rfl, .inl ⟨by simpa using none, rfl⟩⟩
  · next slot =>
    have sent := transmits_flush (s.modPort i fun p => p.modSlot (l.getD 0 0).toNat fun x => { x with loaded := true }) i
    have more := sent.port i
    rw [portOf_modPort_self] at more
    exact ⟨sent.frame, .inr ⟨by simpa using slot, more⟩⟩

theorem confirm_tookIn (p : Port) (k : Nat) : p.TookIn none [] (p.modSlot k fun x => { x with loaded := true }) := by
  refine ⟨rfl, (List.append_nil _).symm, rfl, rfl, rfl, List.prefix_rfl, fun j => ?_, fun j => ?_⟩
  all_goals
    by_cases hj : j = k
    · rw [hj, slotOf_modSlot_self]
    · rw [slotOf_modSlot_ne _ _ hj]

theorem linkControl_tookIn (s : State) (i : Nat) (l : List Byte) : (s.portOf i).TookIn none [] ((s.linkControl i l).portOf i) := by
  obtain ⟨-, ⟨-, same⟩ | ⟨-, more⟩⟩ := linkControl_cases s i l
  · rw [same]
    exact .refl _
  · exact (confirm_tookIn _ _).sentMore more

/-- Taking in in two steps, of which the second brings nothing. -/
theorem Port.TookIn.andThen {seq : Option Nat} {new : List (Nat × List Byte)} {p q r : Port} (h : p.TookIn seq new q) (g : q.TookIn none [] r) :
    p.TookIn seq new r where
  st := g.st.trans h.st
  delivered := by rw [g.delivered, h.delivered, List.append_nil]
  rxSeq := g.rxSeq.trans h.rxSeq
  nak := g.nak.trans h.nak
  resend := g.resend.trans h.resend
  unacked := h.unacked.trans g.unacked
  rx k := (g.rx k).trans (h.rx k)
  failsInRow k := (g.failsInRow k).trans (h.failsInRow k)

section
variable (s : State) (i : Nat) (h : Word) (plain : List Byte)

/-- The sequence number and the data that an accepted flit brings. -/
def seqOf (h : Word) : Option Nat := if hdrField h 60 4 = 1 ∨ hdrField h 60 4 = 3 then some (hdrField h 46 12) else none
def dataOf (h : Word) (plain : List Byte) : List (Nat × List Byte) := if hdrField h 60 4 = 1 then [(hdrField h 58 2, plain)] else []

theorem acceptFlit_tookIn : ((s.takeFlit i h).portOf i).TookIn (seqOf h) (dataOf h plain) ((s.acceptFlit i h plain).portOf i) := by
  have data := deliver_tookIn (s.takeFlit i h) i h plain true
  have control := deliver_tookIn (s.takeFlit i h) i h plain false
  rw [hdSeq_eq] at data control
  rw [hdVc_eq] at data
  by_cases one : hdrField h 60 4 = 1
  · rw [seqOf, dataOf, State.acceptFlit, if_pos (.inl one), if_pos one, if_pos one]
    exact data
  · by_cases three : hdrField h 60 4 = 3
    · rw [seqOf, dataOf, State.acceptFlit, if_pos (.inr three), if_neg one, if_neg one, if_pos three]
      exact control.andThen (linkControl_tookIn _ i plain)
    · rw [seqOf, dataOf, State.acceptFlit, if_neg (not_or.2 ⟨one, three⟩), if_neg one, if_neg one, if_neg three]
      exact .refl _

theorem acceptFlit_frame : (s.acceptFlit i h plain).hbm = s.hbm ∧ (s.acceptFlit i h plain).units = s.units := by
  have taken : (s.takeFlit i h).hbm = s.hbm ∧ (s.takeFlit i h).units = s.units := by
    rw [(transmits_takeFlit s i h).frame]
    exact ⟨rfl, rfl⟩
  unfold State.acceptFlit
  split
  · rw [deliver_frame]
    exact taken
  · split
    · rw [(linkControl_cases _ i plain).1, deliver_frame]
      exact taken
    · exact taken

theorem acceptFlit_answers (up : (s.portOf i).st = .up) (data : hdrField h 60 4 = 1) : answers s (s.acceptFlit i h plain) i (hdrField h 46 12) false := by
  rw [State.acceptFlit, if_pos data]
  exact answers_deliver (takeFlit_sent s i h) ((takeFlit_st s i h).trans up) h plain true

theorem acceptFlit_loaded (control : hdrField h 60 4 = 3) (slot : (plain.getD 0 0).toNat ≠ 0) :
    (((s.acceptFlit i h plain).portOf i).slotOf (plain.getD 0 0).toNat).loaded = true := by
  rw [State.acceptFlit, if_neg (by rw [control]; decide), if_pos control]
  obtain ⟨-, ⟨none, -⟩ | ⟨-, more⟩⟩ := linkControl_cases ((s.takeFlit i h).deliver i h plain false) i plain
  · exact absurd none slot
  · exact (more.loaded _).trans (by rw [slotOf_modSlot_self])

/-- What a port in UP holds after it accepted a flit. -/
theorem acceptFlit_port (up : (s.portOf i).st = .up) :
    let p := s.portOf i
    let q := (s.acceptFlit i h plain).portOf i
    let k := hdrField h 25 8
    q.st = .up ∧ q.delivered = p.delivered ++ dataOf h plain ∧ q.rxSeq = (seqOf h).getD p.rxSeq ∧ q.nak = ((seqOf h).isNone && p.nak) ∧
      (k ≠ 0 → (q.slotOf k).rx = (p.slotOf k).rx + 1 ∧ (q.slotOf k).failsInRow = 0) ∧ q.resend = (p.resend || h.getLsbD 33) ∧
      (p.ack (hdAck h) (hdNak h)).unacked <+: q.unacked := by
  intro p q k
  have sent := takeFlit_port s i h
  have took := acceptFlit_tookIn s i h plain
  have rest := Port.takeFlit_rest h p
  refine ⟨took.st.trans ((takeFlit_st s i h).trans up), ?_, ?_, ?_, fun key => ⟨?_, ?_⟩, ?_, ?_⟩
  · rw [took.delivered, sent.delivered, rest]
  · rw [took.rxSeq, sent.rxSeq, rest]
  · rw [took.nak, sent.nak, rest]
  · rw [took.rx, sent.rx, Port.takeFlit_slot p key]
  · rw [took.failsInRow, sent.failsInRow, Port.takeFlit_slot p key]
  · rw [took.resend, sent.resend, rest]
    rfl
  · have kept := sent.unacked.trans took.unacked
    rw [rest] at kept
    exact kept
end

/-! ### A failed tag (R41) -/

/-- A key slot after a failed tag. -/
def PortSlot.failed (x : PortSlot) : PortSlot := { x with failsInRow := x.failsInRow + 1, dropping := x.dropping || decide (8 ≤ x.failsInRow + 1) }
/-- The failure is counted, and noted in the slot. -/
def State.noteFailure (s : State) (i k : Nat) : State := (s.count tmAuth).modPort i fun p => p.modSlot k PortSlot.failed

section
variable (s : State) (i k : Nat)
theorem noteFailure_port : (s.noteFailure i k).portOf i = (s.portOf i).modSlot k PortSlot.failed := portOf_modPort_self _ i _
theorem noteFailure_slot : ((s.noteFailure i k).portOf i).slotOf k = ((s.portOf i).slotOf k).failed := by
  rw [noteFailure_port, slotOf_modSlot_self]
theorem noteFailure_telemetry : KMap.get 0 (s.noteFailure i k).telemetry tmAuth = KMap.get 0 s.telemetry tmAuth + 1 := KMap.get_upd_self _ _ _ _
end

/-- A flit that is dropped without nak takes its number, where it has one. -/
def State.passOver (s : State) (i : Nat) (h : Word) : State := if hdSequenced h then s.deliver i h [] false else s

theorem passOver_port (s : State) (i : Nat) (h : Word) :
    ((s.passOver i h).portOf i).slots = (s.portOf i).slots ∧ ((s.passOver i h).portOf i).delivered = (s.portOf i).delivered ∧
    (hdrField h 60 4 = 1 ∨ hdrField h 60 4 = 3 → ((s.passOver i h).portOf i).rxSeq = hdrField h 46 12 ∧ ((s.passOver i h).portOf i).nak = false) := by
  rw [← hdSequenced_iff, ← hdSeq_eq, State.passOver]
  split
  · rw [deliver_port]
    exact ⟨rfl, rfl, fun _ => ⟨rfl, rfl⟩⟩
  · next none => exact ⟨rfl, rfl, fun seq => absurd seq none⟩
theorem passOver_frame (s : State) (i : Nat) (h : Word) :
    s.passOver i h = { s with ports := (s.passOver i h).ports, sent := (s.passOver i h).sent } := by
  unfold State.passOver
  split
  · exact deliver_frame s i h [] false
  · rfl

theorem tagFailure_eq (s : State) (i : Nat) (h : Word) : s.tagFailure i h =
    if (((s.noteFailure i (hdKey h)).portOf i).slotOf (hdKey h)).dropping then ((s.noteFailure i (hdKey h)).passOver i h).slotLost (hdKey h)
    else (s.noteFailure i (hdKey h)).discardFlit i := rfl

/-- Before the eighth failure in succession the flit is discarded; from then on its number is taken and it is dropped. -/
theorem tagFailure_effect {s : State} {i : Nat} {h : Word} (up : (s.portOf i).st = .up)
    (taking : ((s.portOf i).slotOf (hdrField h 25 8)).dropping = false) :
    let p := s.portOf i
    let t := s.tagFailure i h
    let k := hdrField h 25 8
    let q := t.portOf i
    (q.slotOf k).failsInRow = (p.slotOf k).failsInRow + 1 ∧ q.delivered = p.delivered ∧
      KMap.get 0 t.telemetry tmAuth = KMap.get 0 s.telemetry tmAuth + 1 ∧
      ((p.slotOf k).failsInRow < 7 → (q.slotOf k).dropping = false ∧ q.nak = true ∧ q.rxSeq = p.rxSeq) ∧
      (7 ≤ (p.slotOf k).failsInRow → (q.slotOf k).dropping = true ∧
        (hdrField h 60 4 = 1 ∨ hdrField h 60 4 = 3 → q.rxSeq = hdrField h 46 12 ∧ q.nak = false)) := by
  intro p t k q
  let u := s.noteFailure i k
  have slot : (u.portOf i).slotOf k = (p.slotOf k).failed := noteFailure_slot s i k
  have port : u.portOf i = p.modSlot k PortSlot.failed := noteFailure_port s i k
  have counted : KMap.get 0 u.telemetry tmAuth = KMap.get 0 s.telemetry tmAuth + 1 := noteFailure_telemetry s i k
  have dropping : ((p.slotOf k).failed).dropping = decide (7 ≤ (p.slotOf k).failsInRow) := by
    rw [PortSlot.failed, taking, Bool.false_or]
    exact decide_eq_decide.2 (by omega)
  have branch : t = if ((u.portOf i).slotOf k).dropping then (u.passOver i h).slotLost k else u.discardFlit i := by
    have branch := tagFailure_eq s i h
    rwa [hdKey_eq] at branch
  rw [slot, dropping] at branch
  by_cases many : 7 ≤ (p.slotOf k).failsInRow
  · rw [if_pos (decide_eq_true many)] at branch
    have lost := keepsLinks_slotLost (u.passOver i h) k
    rw [← branch] at lost
    obtain ⟨slots, delivered, number⟩ := passOver_port u i h
    rw [← lost.portOf i] at slots delivered number
    have here : q.slotOf k = (p.slotOf k).failed := (congrArg (KMap.get PortSlot.empty · k) slots).trans slot
    refine ⟨by rw [here]; rfl, delivered.trans (by rw [port]; rfl), ?_, fun few => absurd many (Nat.not_le.2 few), fun _ =>
      ⟨by rw [here, dropping, decide_eq_true many], number⟩⟩
    rw [lost.telemetry tmAuth (by decide), passOver_frame]
    exact counted
  · rw [if_neg (by simpa using many)] at branch
    have here : q = { u.portOf i with nak := true } := by rw [← discardFlit_port, ← branch]
    have there : q.slotOf k = (p.slotOf k).failed := by rw [here, ← slot]; rfl
    have up' : (u.portOf i).st = .up := by rw [port]; exact up
    obtain ⟨-, -, -, -, telemetry⟩ := discards_discardFlit up'
    refine ⟨by rw [there]; rfl, by rw [here, port]; rfl, ?_, fun _ => ⟨by rw [there, dropping, decide_eq_false many], by rw [here], by rw [here, port]; rfl⟩,
      fun few => absurd few many⟩
    rw [branch, telemetry]
    exact counted

/-! ### FLIT_RECEIVE, FLIT_RESEND and COUNTER_WRAP -/

theorem flitReceive_accepts {s : State} {i : Nat} {fec : Bool} {h : Word} {d : List Byte} {g : Word} (up : (s.portOf i).st = .up)
    (good : decodes fec h d g) (order : inOrder (s.portOf i) h)
    (opens : hdrField h 25 8 ≠ 0 → opensUnder s (s.portOf i) h d g ∧ ((s.portOf i).slotOf (hdrField h 25 8)).dropping = false) :
    let p := s.portOf i
    let kind := hdrField h 60 4
    let k := hdrField h 25 8
    let seq := hdrField h 46 12
    let clear := clearPayload s p h d
    ∃ t, exec (.flitReceive i fec h d g) s = .next t ∧
      let q := t.portOf i
      q.st = .up ∧ t.hbm = s.hbm ∧ t.units = s.units ∧
      q.delivered = (if kind = 1 then p.delivered ++ [(hdrField h 58 2, clear)] else p.delivered) ∧
      (kind = 1 ∨ kind = 3 → q.rxSeq = seq ∧ q.nak = false) ∧ (¬(kind = 1 ∨ kind = 3) → q.rxSeq = p.rxSeq ∧ q.nak = p.nak) ∧
      (kind = 1 → answers s t i seq false) ∧
      (kind = 3 → (clear.getD 0 0).toNat ≠ 0 → (q.slotOf (clear.getD 0 0).toNat).loaded = true) ∧
      (k ≠ 0 → (q.slotOf k).rx = (p.slotOf k).rx + 1 ∧ (q.slotOf k).failsInRow = 0) ∧
      q.resend = (p.resend || h.getLsbD 33) ∧
      (∀ a f b, p.unacked = a ++ f :: b → f.seq = hdrField h 34 12 → (∀ x ∈ a, x.seq ≠ hdrField h 34 12) → ∃ l, q.unacked = b ++ l) ∧
      ((∀ x ∈ p.unacked, x.seq ≠ hdrField h 34 12) → ∃ l, q.unacked = p.unacked ++ l) := by
  intro p kind k seq clear
  obtain ⟨hbm, units⟩ := acceptFlit_frame s i h clear
  obtain ⟨st, delivered, rxSeq, nak, slot, resend, l, unacked⟩ := acceptFlit_port s i h clear up
  refine ⟨_, exec_flitReceive_accepted up good order opens, st, hbm, units, ?_, fun yes => ⟨?_, ?_⟩, fun no => ⟨?_, ?_⟩, acceptFlit_answers s i h clear up,
    acceptFlit_loaded s i h clear, slot, resend, fun a f b split here first => ⟨l, ?_⟩, fun absent => ⟨l, ?_⟩⟩
  · rw [delivered, dataOf]
    split
    · rfl
    · rw [List.append_nil]
  · rw [rxSeq, seqOf, if_pos yes]
    rfl
  · rw [nak, seqOf, if_pos yes]
    rfl
  · rw [rxSeq, seqOf, if_neg no]
    rfl
  · rw [nak, seqOf, if_neg no]
    rfl
  · rw [← unacked, hdAck_eq, Port.ack_found p _ split here first]
  · rw [← unacked, hdAck_eq, Port.ack_absent p _ absent]

/-- A slot whose flits are dropped (R41). -/
theorem flitReceive_drops {s : State} {i : Nat} {fec : Bool} {h : Word} {d : List Byte} {g : Word} (up : (s.portOf i).st = .up)
    (good : decodes fec h d g) (order : inOrder (s.portOf i) h) (key : hdrField h 25 8 ≠ 0)
    (dropping : ((s.portOf i).slotOf (hdrField h 25 8)).dropping = true) :
    ∃ t, exec (.flitReceive i fec h d g) s = .next t ∧
      t = { s with ports := t.ports, sent := t.sent } ∧ (t.portOf i).delivered = (s.portOf i).delivered ∧
      (hdrField h 60 4 = 1 ∨ hdrField h 60 4 = 3 → (t.portOf i).rxSeq = hdrField h 46 12 ∧ answers s t i (hdrField h 46 12) false) ∧
      (¬(hdrField h 60 4 = 1 ∨ hdrField h 60 4 = 3) → t = s) := by
  obtain ⟨-, delivered, number⟩ := passOver_port s i h
  refine ⟨_, exec_flitReceive_dropped up good order key dropping, passOver_frame s i h, delivered, fun seq => ⟨(number seq).1, ?_⟩, fun none => ?_⟩
  · rw [if_pos (hdSequenced_iff h |>.2 seq)]
    exact answers_deliver List.prefix_rfl up h [] false
  · exact if_neg (mt (hdSequenced_iff h).1 none)

theorem exec_flitResend {s : State} {i : Nat} (up : (s.portOf i).st = .up) (asked : (s.portOf i).resend = true) :
    exec (.flitResend i) s = .next (s.resendAll i) := if_pos (by rw [up, asked]; rfl)
theorem exec_flitResend_stays {s : State} {i : Nat} (h : (s.portOf i).st ≠ .up ∨ (s.portOf i).resend = false) :
    exec (.flitResend i) s = .next s := by
  refine if_neg ?_
  rw [Bool.and_eq_true, beq_iff_eq]
  rintro ⟨up, asked⟩
  obtain down | unasked := h
  · exact down up
  · rw [unasked] at asked
    cases asked
theorem resendAll_effect (s : State) (i : Nat) :
    portIs { s with sent := (s.resendAll i).sent } (s.resendAll i) i { s.portOf i with resend := false } :=
  ⟨rfl, portOf_modPort_self s i fun p => { p with resend := false }, fun _ h => portOf_modPort_ne s (fun p => { p with resend := false }) h⟩

theorem exec_counterWrap_stops {s : State} {i k : Nat} (key : k ≠ 0) (going : ((s.portOf i).slotOf k).stopped = false)
    (wraps : 2 ^ 64 ≤ ((s.portOf i).slotOf k).tx + 1) :
    exec (.counterWrap i k) s = .next ((s.count tmSlot).modPort i fun p => p.modSlot k fun x => { x with stopped := true }) := by
  refine if_pos ?_
  rw [Bool.and_eq_true, Bool.and_eq_true, bne_iff_ne, decide_eq_true_eq, going]
  exact ⟨⟨key, wraps⟩, rfl⟩
theorem exec_counterWrap_stays {s : State} {i k : Nat} (room : ((s.portOf i).slotOf k).tx + 1 < 2 ^ 64) : exec (.counterWrap i k) s = .next s := by
  refine if_neg ?_
  rw [Bool.and_eq_true, Bool.and_eq_true, decide_eq_true_eq]
  exact fun ⟨⟨_, wraps⟩, _⟩ => absurd room (Nat.not_lt.2 wraps)

/-! ### The statement -/

/-- The second half of the statement. -/
theorem ports_carryFlits : portsCarryFlits := by
  intro s i p slot
  refine ⟨fun fec h d g => ?_, fun up asked => ⟨_, exec_flitResend up asked, resendAll_effect s i, rfl⟩, exec_flitResend_stays,
    fun k key going => ⟨fun wraps => ⟨_, exec_counterWrap_stops key going wraps, rfl, ?_, KMap.get_upd_self _ _ _ _⟩, exec_counterWrap_stays⟩⟩
  · intro kind k seq _ opens sequenced fresh decoded clear
    refine ⟨exec_flitReceive_down fec h d g, fun up bad => ⟨_, exec_flitReceive_undecoded up bad, discards_counted up tmFlit⟩, fun up good =>
      ⟨fun stale => ⟨_, exec_flitReceive_outOfOrder up good stale, discards_discardFlit up⟩, flitReceive_accepts up good,
        fun order key going fails => ⟨_, exec_flitReceive_failed up good order key going fails, tagFailure_effect up going⟩,
        flitReceive_drops up good⟩⟩
  · change ((State.portOf _ i).slotOf k) = _
    rw [portOf_modPort_self, slotOf_modSlot_self]
    rfl

/-- Settles O55: the ports train and retire lanes by the rules of R42-R45 and R47, and carry flits by those of R38-R41. -/
theorem portsTrainAndCarryFlits : Obligations.PortsTrainAndCarryFlits := ⟨ports_trainAndRetire, ports_carryFlits⟩

end Sys2Proof.Machine
end

section
/-!
PROOFS. What loads, translations and the home side of an access leave of the tasks (R57, R87, R175-R186, R194-R198): the executing agent, and every
reeve of every unit, its registers with it.
-/
namespace Sys2Proof.Machine
open Sys2Proof.Claims

/-! ### The view -/

/-- The executing agent and the reeves of the units: what no load changes. -/
def State.taskView (s : State) : Who × Nat × (Nat → KMap Reeve) := (s.who, s.uid, fun u => (s.unitOf u).reeves)

theorem who_of_taskView {s t : State} (h : t.taskView = s.taskView) : t.who = s.who := congrArg (·.1) h
theorem uid_of_taskView {s t : State} (h : t.taskView = s.taskView) : t.uid = s.uid := congrArg (·.2.1) h

/-- A reeve's registers are part of the view. -/
theorem rd_of_taskView {s t : State} {r : Nat} (w : s.who = .reeve r) (h : t.taskView = s.taskView) (a : Reg) : t.rd a = s.rd a := by
  have who : t.who = .reeve r := (who_of_taskView h).trans w
  have re : t.re = s.re := by
    have units : (t.unitOf s.uid).reeves = (s.unitOf s.uid).reeves := congrFun (congrArg (·.2.2) h) s.uid
    rw [State.re, State.re, State.rIdx, State.rIdx, w, who, State.cu, State.cu, uid_of_taskView h, Unit.reeveOf, Unit.reeveOf, units]
  rw [State.rd, State.rd, w, who, re]

theorem tasks_ite {c : Prop} [Decidable c] {s t u : State} (yes : t.taskView = s.taskView) (no : u.taskView = s.taskView) :
    (if c then t else u).taskView = s.taskView := by
  split <;> assumption

theorem tasks_acc_ite {α : Type} {c : Prop} [Decidable c] {s : State} {x y : Acc α} (yes : x.state.taskView = s.taskView)
    (no : y.state.taskView = s.taskView) : (if c then x else y).state.taskView = s.taskView := by
  split <;> assumption

theorem tasks_bind {α β : Type} {s : State} {x : Acc α} {f : α → State → Acc β} (h : x.state.taskView = s.taskView)
    (next : ∀ a u, (f a u).state.taskView = u.taskView) : (x.bind f).state.taskView = s.taskView := by
  cases x with
  | ok a u => exact (next a u).trans h
  | trap t u => exact h
  | wait w u => exact h

/-- A chain of fallible steps keeps what every one of them keeps. -/
theorem tasks_foldl {α β : Type} {f : α × State → β → α × State} (step : ∀ acc b, (f acc b).2.taskView = acc.2.taskView) (l : List β) (acc : α × State) :
    (l.foldl f acc).2.taskView = acc.2.taskView := foldl_keeps (fun acc => acc.2.taskView) step l acc

/-! ### Memory, caches and pending replies -/

theorem tasks_hbmStore (s : State) (a : Nat) (l : List Byte) : (s.hbmStore a l).taskView = s.taskView :=
  tasks_ite (tasks_ite (t := s.count tmDisp) rfl rfl) rfl
theorem tasks_cacheDir (s : State) (p a : Nat) : (s.cacheDir p a).taskView = s.taskView := tasks_ite rfl rfl
theorem tasks_cacheWalk (s : State) (p a : Nat) (va : Word) (l : Option Leaf) : (s.cacheWalk p a va l).taskView = s.taskView :=
  tasks_ite (tasks_cacheDir s p a) (tasks_cacheDir s p a)
theorem tasks_leafRead (s : State) (c : XCtx) (va : Word) : (s.leafRead c va).2.taskView = s.taskView := tasks_ite rfl (tasks_cacheWalk s _ _ _ _)
theorem tasks_setAD (s : State) (k : Kind) (l : Leaf) : (s.setAD k l).taskView = s.taskView := by
  unfold State.setAD
  cases l.entry with
  | none => rfl
  | some a => exact tasks_ite rfl rfl

/-- A change of a unit that spares its reeves. -/
theorem tasks_modCu (s : State) {f : Unit → Unit} (reeves : ∀ u, (f u).reeves = u.reeves := by intro; rfl) : (s.modCu f).taskView = s.taskView := by
  refine Prod.ext rfl (Prod.ext rfl (funext fun u => ?_))
  change ((s.modCu f).unitOf u).reeves = (s.unitOf u).reeves
  by_cases h : u = s.uid
  · rw [h, State.unitOf_modCu_self, reeves, State.cu]
  · rw [s.unitOf_modCu_ne f h]

theorem tasks_sendReq (s : State) (part peer a : Nat) (m : Msg) : (s.sendReq part peer a m).taskView = s.taskView := by
  rw [State.sendReq, (transmits_sendOn s m peer 0 _ _ []).frame]
  rfl

theorem tasks_request (s : State) (elem : Nat) (va : Word) (peer addr : Nat) (op : PeerOp) (drops : Option Nat) :
    (s.request elem va peer addr op drops).taskView = s.taskView :=
  tasks_ite rfl ((tasks_modCu _).trans (tasks_sendReq _ _ _ _ _))

theorem tasks_queueRec (s : State) (p : Nat) (r : FaultRec) : (s.queueRec p r).taskView = s.taskView := tasks_ite rfl rfl
theorem tasks_migrate (s : State) (part asid base size peer cls : Nat) : (s.migrate part asid base size peer cls).taskView = s.taskView :=
  tasks_ite rfl (tasks_ite (tasks_queueRec _ _ _) rfl)
theorem tasks_engCount (s : State) (key : Nat) (va : Word) (x : Phys) : (s.engCount key va x).taskView = s.taskView := by
  unfold State.engCount
  split
  · exact tasks_ite rfl (tasks_migrate s _ _ _ _ _ _)
  · rfl

/-! ### Translation and the home's admission -/

theorem tasks_xlate (s : State) (c : XCtx) (k : Kind) (vec : Bool) (va : Word) (n al : Nat) : (s.xlate c k vec va n al).state.taskView = s.taskView := by
  have read := tasks_leafRead s c va
  unfold State.xlate
  refine tasks_acc_ite rfl ?_
  generalize s.leafRead c va = found at read ⊢
  obtain ⟨_ | _ | l, u⟩ := found
  · exact read
  · exact read
  · refine Eq.trans (tasks_acc_ite rfl (tasks_acc_ite rfl (tasks_acc_ite rfl ?_))) read
    cases u.target c k vec va n al l with
    | error t => rfl
    | ok x => exact tasks_ite (tasks_setAD u k l) (tasks_setAD u k l)

theorem tasks_readVA (s : State) (c : XCtx) (log : List LogEntry) (va : Word) (n : Nat) : (s.readVA c log va n).state.taskView = s.taskView := by
  refine List.foldlRecOn (motive := fun x : Acc _ => x.state.taskView = s.taskView) _ _ rfl fun acc h p _ => tasks_bind h fun l u =>
    tasks_bind (tasks_xlate u c _ _ _ _ _) fun x v => ?_
  cases v.readPhys log x p.1 p.2 <;> rfl

theorem tasks_admits (s : State) (pa peer part perm : Nat) : (s.admits pa peer part perm).2.taskView = s.taskView := by
  unfold State.admits
  cases s.homePart pa with
  | none => rfl
  | some h =>
    have read := tasks_readVA s ⟨h, fld (s.partOf h).pcexpc.toNat 0 16, true, none⟩ [] (s.partOf h).pcexpb
      (16 * (if fld (s.partOf h).pcexpc.toNat 16 9 < 256 then fld (s.partOf h).pcexpc.toNat 16 9 else 256))
    dsimp only
    split
    · rfl
    · split
      · rfl
      · generalize s.readVA _ _ _ _ = x at read ⊢
        cases x <;> exact read

theorem tasks_symAddr (s : State) (p asid : Nat) (k : Kind) (va : Word) (peer rpart perm : Nat) :
    (s.symAddr p asid k va peer rpart perm).2.taskView = s.taskView := by
  have read := tasks_leafRead s ⟨p, asid, true, none⟩ va
  unfold State.symAddr
  split
  · rfl
  · generalize s.leafRead ⟨p, asid, true, none⟩ va = found at read ⊢
    obtain ⟨_ | _ | l, u⟩ := found
    · exact read
    · exact read
    · dsimp only
      split
      · exact read
      · exact ((tasks_admits _ _ _ _ _).trans (tasks_setAD u k l)).trans read

theorem tasks_symRange (s : State) (p asid : Nat) (k : Kind) (va : Word) (n peer rpart perm : Nat) :
    (s.symRange p asid k va n peer rpart perm).2.taskView = s.taskView := by
  refine tasks_foldl (fun acc c => ?_) (chunks va n) (Except.ok [], s)
  have place := tasks_symAddr acc.2 p asid k c.1 peer rpart perm
  cases acc.1 with
  | error e => rfl
  | ok l =>
    generalize acc.2.symAddr p asid k c.1 peer rpart perm = found at place ⊢
    obtain ⟨_ | _ | _ | pa, u⟩ := found <;> exact place

/-- A member's read (R87). -/
theorem tasks_memberReadAt (s : State) (p peer rpart : Nat) (va : Word) (n : Nat) : (s.memberReadAt p peer rpart va n).2.taskView = s.taskView := by
  unfold State.memberReadAt
  split
  · rfl
  · next a _ =>
    have range := tasks_symRange s p a .load va n peer rpart expR
    generalize s.symRange p a .load va n peer rpart expR = found at range ⊢
    obtain ⟨(_ | _ | _ | _) | l, u⟩ := found <;> exact range

/-! ### Sharded requests -/

theorem tasks_shardPas (s : State) (p asid : Nat) (d : Desc) (q : ShardReq) : (s.shardPas p asid d q).2.taskView = s.taskView := by
  refine tasks_foldl (fun acc it => ?_) q.items (Except.ok [], s)
  have place := tasks_symAddr acc.2 p asid (if q.write then .store else .load) (sdAddr d it.2.1) q.peer q.part (if q.write then expW else expR)
  dsimp only
  cases acc.1 with
  | error e => rfl
  | ok l =>
    dsimp only
    split
    · rfl
    · generalize acc.2.symAddr p asid (if q.write then .store else .load) (sdAddr d it.2.1) q.peer q.part (if q.write then expW else expR) = found at place ⊢
      obtain ⟨_ | _ | _ | pa, u⟩ := found <;> exact place

theorem tasks_serveShard (s : State) (p : Nat) (q : ShardReq) : (s.serveShard p q).2.taskView = s.taskView := by
  unfold State.serveShard
  cases s.symReady p with
  | none => rfl
  | some a =>
    have dir := tasks_cacheDir s p a
    dsimp only
    split
    · exact dir
    · next d _ =>
      split
      · exact dir
      · split
        · exact dir
        · have pas := tasks_shardPas (s.cacheDir p a) p a d q
          generalize (s.cacheDir p a).shardPas p a d q = found at pas ⊢
          obtain ⟨(_ | _ | _ | _) | l, u⟩ := found
          case ok =>
            dsimp only
            split
            · exact ((foldl_keeps State.taskView (fun v it => tasks_hbmStore v _ _) l u).trans pas).trans dir
            · exact pas.trans dir
          all_goals exact pas.trans dir

theorem tasks_shardLocal (s : State) (p : Nat) (q : ShardReq) : (s.shardLocal p q).taskView = s.taskView := by
  have served := tasks_serveShard s p q
  unfold State.shardLocal
  generalize s.serveShard p q = found at served ⊢
  obtain ⟨_ | _ | _ | _ | _ | _, u⟩ := found <;> exact served

theorem tasks_shardSend (s : State) (o : ShardOut) : (s.shardSend o).taskView = s.taskView :=
  tasks_ite rfl (tasks_ite (tasks_shardLocal _ _ _) (tasks_sendReq _ _ _ _ _))
theorem tasks_shardPump (s : State) : s.shardPump.taskView = s.taskView :=
  foldl_keeps State.taskView (fun u o => tasks_ite rfl (tasks_shardSend u o)) _ s

theorem tasks_shardNote (s : State) (handle : Nat) (d : Desc) (write replayed : Bool) (peer : Nat) (st : Option Nat)
    (items : List (Nat × Nat × List Byte)) : (s.shardNote handle d write replayed peer st items).taskView = s.taskView := rfl

theorem tasks_shardIssue (s : State) (handle : Nat) (d : Desc) (write replayed : Bool) (items : List (Nat × Nat × List Byte)) :
    (s.shardIssue handle d write replayed items).taskView = s.taskView := by
  unfold State.shardIssue
  dsimp only
  refine ((tasks_shardPump _).trans (foldl_keeps State.taskView (fun u rc => foldl_keeps State.taskView (fun v p => tasks_shardNote v _ _ _ _ _ _ _) _ u) _ _)).trans
    (foldl_keeps State.taskView (fun u it => ?_) items s)
  split
  · exact tasks_shardNote u _ _ _ _ _ _ _
  · rfl

theorem tasks_shardReplay (s : State) (handle : Nat) (write : Bool) : (s.shardReplay handle write).taskView = s.taskView := by
  refine foldl_keeps State.taskView (fun u o => ?_) _ s
  exact tasks_ite (tasks_shardIssue _ _ _ _ _ _) (foldl_keeps State.taskView (fun v it => tasks_shardNote v _ _ _ _ _ _ _) _ _)

theorem tasks_shardAccess (s : State) (handle : Nat) (d : Desc) (va : Nat → Word) (items : List (Nat × Nat × List Byte)) :
    (s.shardAccess handle d false va items).state.taskView = s.taskView := by
  have sent : (if (s.shardMine handle false).isEmpty then s.shardIssue handle d false false items else s.shardPump).taskView = s.taskView :=
    tasks_ite (tasks_shardIssue _ _ _ _ _ _) (tasks_shardPump s)
  exact tasks_acc_ite sent (tasks_acc_ite ((tasks_shardReplay _ _ _).trans sent) ((tasks_shardReplay _ _ _).trans sent))

theorem tasks_shardScalar (s : State) (handle byte : Nat) (va : Word) (n : Nat) : (s.shardScalar handle byte va n none).state.taskView = s.taskView := by
  have dir := tasks_cacheDir s s.cu.part s.cu.asid
  unfold State.shardScalar
  dsimp only
  split
  · exact dir
  · next d _ =>
    refine tasks_acc_ite dir (tasks_acc_ite dir (tasks_bind ((tasks_shardAccess _ _ d _ _).trans dir) fun l u => ?_))
    split <;> rfl

/-! ### Loads -/

theorem tasks_answer (va : Word) (peer : Nat) (r : ReplyStatus × List Byte) (s : State) : (answer va peer r s).state.taskView = s.taskView := by
  unfold answer
  cases r.1 <;> rfl

theorem tasks_peerLoad (s : State) (elem : Nat) (va : Word) (peer pa mode n : Nat) : (s.peerLoad elem va peer pa mode n).state.taskView = s.taskView := by
  unfold State.peerLoad
  dsimp only
  split
  · split
    · rfl
    · exact tasks_answer va peer _ s
  · split
    · exact tasks_acc_ite rfl rfl
    · have home := tasks_admits s pa peer s.cu.part expR
      refine tasks_acc_ite rfl (tasks_acc_ite (tasks_acc_ite home (tasks_acc_ite home (tasks_acc_ite home home)))
        (tasks_acc_ite rfl (tasks_acc_ite rfl (tasks_acc_ite ?_ (tasks_request s elem va peer pa _ _)))))
      split
      · exact tasks_modCu _
      · exact tasks_request s elem va peer _ _ _

theorem tasks_touchPage (s : State) (x : Phys) : (s.touchPage x).taskView = s.taskView := by
  unfold State.touchPage
  split
  · split <;> rfl
  · split <;> rfl
  · rfl

theorem tasks_rawLoad (s : State) (elem : Nat) (va : Word) (n : Nat) (x : Phys) : (s.rawLoad elem va n x).state.taskView = s.taskView := by
  refine Eq.trans ?_ (tasks_touchPage s x)
  unfold State.rawLoad
  generalize s.touchPage x = u
  cases x with
  | peer => exact tasks_peerLoad _ _ _ _ _ _ _
  | shard => exact tasks_shardScalar _ _ _ _ _
  | hbm | loft | cxl | host | mmio =>
    dsimp only
    split <;> rfl

section
variable {f : State → Nat → Word → Nat → Phys → Acc (List Byte)} (load : ∀ s k va n x, (f s k va n x).state.taskView = s.taskView)
include load

theorem tasks_plainPieces (s : State) (k : Nat) (va : Word) (n : Nat) : (s.plainPieces f k va n).state.taskView = s.taskView :=
  List.foldlRecOn (motive := fun x : Nat × Acc _ => x.2.state.taskView = s.taskView) _ _ rfl fun _ h _ _ => tasks_bind h fun _ u =>
    tasks_bind (tasks_xlate u _ _ _ _ _ _) fun _ v => tasks_bind (load v _ _ _ _) fun _ _ => rfl

theorem tasks_viewElem (s : State) (k : Nat) (v : View) (a b : Nat) : (s.viewElem f k v a b).state.taskView = s.taskView := by
  unfold State.viewElem
  dsimp only
  split
  · rfl
  · split
    · rfl
    · refine tasks_bind (tasks_plainPieces load s _ _ _) fun l u => ?_
      split
      · rfl
      · exact tasks_bind (tasks_plainPieces load u _ _ _) fun _ _ => rfl

theorem tasks_viewBytes (s : State) (elem : Nat) (v : View) (va n : Nat) : (s.viewBytes f elem v va n).state.taskView = s.taskView :=
  tasks_bind (List.foldlRecOn (motive := fun x : Acc _ => x.state.taskView = s.taskView) _ _ rfl fun _ h _ _ => tasks_bind h fun _ u =>
    tasks_bind (tasks_viewElem load u _ v _ _) fun _ _ => rfl) fun _ _ => rfl
end

theorem tasks_loadThrough (fuel : Nat) (s : State) (elem : Nat) (va : Word) (n : Nat) (x : Phys) :
    (s.loadThrough fuel elem va n x).state.taskView = s.taskView := by
  induction fuel generalizing s elem va n x with
  | zero => exact tasks_rawLoad s elem va n x
  | succ fuel ih =>
    rw [State.loadThrough]
    split
    · exact tasks_viewBytes ih s elem _ _ n
    · exact tasks_rawLoad s elem va n x

theorem tasks_loadAt (s : State) (elem : Nat) (va : Word) (n : Nat) (x : Phys) : (s.loadAt elem va n x).state.taskView = s.taskView :=
  tasks_loadThrough 8 s elem va n x

/-! ### Buffers and members -/

theorem tasks_engTarget (va : Word) (x : Phys) (s : State) : (engTarget va x s).state.taskView = s.taskView := by
  cases x <;> rfl

theorem tasks_colProbe (s : State) (k : Kind) (va : Word) (n al : Nat) : (s.colProbe k va n al).state.taskView = s.taskView := by
  refine List.foldlRecOn (motive := fun x : Acc _ => x.state.taskView = s.taskView) _ _ rfl fun _ h p _ => tasks_bind h fun _ u =>
    tasks_bind (tasks_xlate u _ _ _ _ _ _) fun x v => ?_
  cases x <;> rfl

theorem tasks_colRead (s : State) (va : Word) (n al : Nat) : (s.colRead va n al).state.taskView = s.taskView :=
  List.foldlRecOn (motive := fun x : Nat × Acc _ => x.2.state.taskView = s.taskView) _ _ rfl fun _ h _ _ => tasks_bind h fun _ u =>
    tasks_bind (tasks_xlate u _ _ _ _ _ _) fun x v => tasks_bind (tasks_engTarget _ x v) fun _ w =>
      tasks_bind ((tasks_loadAt _ _ _ _ _).trans (tasks_engCount w _ _ _)) fun _ _ => rfl

theorem tasks_each {α β : Type} {f : α → State → Acc β} (step : ∀ a u, (f a u).state.taskView = u.taskView) (l : List α) (s : State) :
    (Acc.each f l s).state.taskView = s.taskView := by
  induction l generalizing s with
  | nil => rfl
  | cons a l ih => exact tasks_bind (step a s) fun _ u => tasks_bind (ih u) fun _ _ => rfl

end Sys2Proof.Machine
end

section
/-!
PROOFS. Groups (R75, R86-R92, R197, R374, R375, R444-R446): how a word of a reeve ends, what AGSET, MLDR, MSTB and SHGEN answer, what MSTB does at one
member, and the fold of integers.
-/
namespace Sys2Proof.Machine
open Sys2Proof.Claims

/-! ### How a word of a reeve ends -/

/-- A word that names fewer registers is ready where one that names more is. -/
theorem ready_of_subset {s : State} {a b a' b' : List Reg} (h : s.ready a b = true) (regs : a' ⊆ a) (srcs : b' ⊆ b) : s.ready a' b' = true := by
  simp only [State.ready, Bool.and_eq_true, Bool.not_eq_true', List.any_eq_false] at h ⊢
  obtain ⟨⟨⟨⟨agent, on⟩, named⟩, clean⟩, next⟩ := h
  exact ⟨⟨⟨⟨agent, on⟩, fun r hr => named r (regs hr)⟩, fun r hr => clean r (srcs hr)⟩, next⟩

/-- The checks of R333 pass, so that the word's own effect ends it. -/
theorem perform_on_reeve {s : State} {r : Nat} {a b a' b' : List Reg} (w : s.who = .reeve r) (h : s.ready a b = true) {runs : Runs}
    (here : runs.reeve = true) {k : Bool} (keeper : k = false ∨ s.keeper = true) {word : Word} {body : State → Eff} {e : Eff} (effect : body s = e)
    (regs : a' ⊆ a := by simp) (srcs : b' ⊆ b := by simp) : s.perform word runs k a' b' body = finish e := by
  have agent : runsIn runs s.who = true := by rw [w]; exact here
  rw [State.perform_clear (State.ready_clear (ready_of_subset h regs srcs) agent keeper), effect]

/-- A change of the executing agent's reeve that spares its program counter. -/
theorem pc_modRe (s : State) {f : Reeve → Reeve} (pc : ∀ x, (f x).pc = x.pc := by intro; rfl) : (s.modRe f).pc = s.pc := by
  rw [State.pc, State.pc, State.modRe_who]
  cases s.who <;> simp [pc]

theorem pc_wr (s : State) (d : Reg) (v : Word) : (s.wr d v).pc = s.pc := by
  have routine {c : Nat} (w : s.who = .wain c) (f : Routine → Routine) (pc : ∀ x, (f x).pc = x.pc) : (s.modRt c f).pc = s.pc := by
    rw [State.pc, State.pc, State.modRt_who, w]
    simp only [State.rt, State.modRt, State.coreOf_modCore_self]
    cases (s.coreOf c).routine with
    | none => rfl
    | some x => exact pc x
  unfold State.wr
  split
  · split
    · rfl
    · exact pc_modRe s
  · next k w =>
    rw [State.pc, State.pc, State.modSh_who, w]
    simp only [State.sh_modSh_sheaf w]
  · next c w =>
    split
    · rfl
    · exact routine w _ fun _ => rfl

/-- A word that completes is followed by the next one. -/
theorem finish_go {u : State} {p : Word} (pc : u.pc = p) : finish (.go u) = .next (u.ran (p + 8)) := by
  rw [finish, State.retire, State.dropReplies_pc, pc, State.ran]

theorem finish_wr {u : State} {p : Word} (pc : u.pc = p) (d : Reg) (v : Word) : finish (.go (u.wr d v)) = .next ((u.wr d v).ran (p + 8)) :=
  finish_go ((pc_wr u d v).trans pc)

theorem isRevoked_eq_false {s : State} (live : (s.partOf s.cu.part).st ≠ .revoked) : ¬ s.isRevoked = true := by
  rwa [State.isRevoked, beq_iff_eq]

/-! ### Groups -/

theorem groupOf_eq (s : State) (h : Nat) : s.groupOf h = groupAt s h := by
  rw [State.groupOf, groupAt]
  refine ite_congr ?_ (fun _ => rfl) fun _ => rfl
  rw [Bool.and_eq_true, decide_eq_true_eq, decide_eq_true_eq, Nat.lt_succ_iff]

theorem handleOf_eq (w : Word) : handleOf w = handle16 w := by rw [handleOf, fld, Nat.shiftRight_zero, handle16]

theorem groupOf_handleOf (s : State) (w : Word) : s.groupOf (handleOf w) = groupAt s (handle16 w) := by rw [groupOf_eq, handleOf_eq]

/-- A new group takes the lowest free slot (R86, R446). -/
theorem takesSlot_of_takeGroup {u s : State} {i : Instr} {d : Reg} {tval : Word} {g : Group} (pc : u.pc = s.pc)
    (run : exec i s = finish (u.takeGroup d tval g)) : takesSlot u i s d tval g := by
  have free (k : Nat) : (KMap.get none u.re.groups k).isNone = true ↔ KMap.get none u.re.groups k = none := Option.isNone_iff_eq_none
  refine ⟨fun k hk here before => ?_, fun full => ?_⟩
  · have found : (List.range 8).find? (fun i => (KMap.get none u.re.groups i).isNone) = some k := by
      rw [List.find?_range_eq_some]
      refine ⟨(free k).2 here, List.mem_range.2 hk, fun j hj => ?_⟩
      rw [Bool.not_eq_true', ← Bool.not_eq_true, free]
      exact before j hj
    have taken : u.takeGroup d tval g =
        .go ((u.modRe fun x => { x with groups := KMap.set none x.groups k (some g) }).wr d (toW (0x1000 + k))) := by
      simp only [State.takeGroup, found]
    rw [run, taken]
    exact finish_wr ((pc_modRe u).trans pc) d _
  · have found : (List.range 8).find? (fun i => (KMap.get none u.re.groups i).isNone) = none := by
      rw [List.find?_eq_none]
      exact fun k hk => (free k).not.2 (full k (List.mem_range.1 hk))
    have taken : u.takeGroup d tval g = .trap (planTrap plNORES tval) u := by
      simp only [State.takeGroup, found]
    rw [run, taken]
    rfl

/-! ### AGSET (R86, R446) -/

theorem meOk_iff (e : BitVec 32) : meOk e = true ↔ e.toNat / 2 ^ 15 % 2 = 0 ∧ e.toNat / 2 ^ 28 = 0 := by
  have top : e.toNat / 2 ^ 28 < 2 ^ 4 := Nat.div_lt_of_lt_mul e.isLt
  rw [meOk, Bool.and_eq_true, Bool.not_eq_true', beq_iff_eq, BitVec.getLsbD, Nat.testBit_eq_decide_div_mod_eq, decide_eq_false_iff_not, fld,
    Nat.shiftRight_eq_div_pow, Nat.mod_eq_of_lt top]
  omega

/-- The number of members: byte 12 of a header. -/
theorem groupCount_eq (h : List Byte) : leVal ((h.drop 12).take 1) = (h.getD 12 0).toNat := by
  rw [List.take_one, List.head?_drop, List.getD_eq_getElem?_getD]
  cases h[12]? <;> simp [leVal]

theorem groupBad_eq_false_iff (h : List Byte) (m : List (BitVec 32)) : groupBad h m = false ↔ groupDescOk h m := by
  have keys : m.map (fun e => (mePeer e, mePart e)) = m.map (fun e => (e.toNat % 2 ^ 12, e.toNat / 2 ^ 12 % 8)) := by
    simp only [mePeer, mePart, fld, Nat.shiftRight_eq_div_pow, Nat.pow_zero, Nat.div_one, Nat.reducePow]
  simp only [groupBad, groupDescOk, groupCount_eq, keys, Bool.or_eq_false_iff, beq_eq_false_iff_ne, bne_eq_false_iff_eq, decide_eq_false_iff_not,
    Bool.not_eq_false', List.all_eq_true, meOk_iff, decide_eq_true_eq, Nat.one_le_iff_ne_zero, not_lt, and_assoc, List.Nodup]

/-- The group that a header and member entries describe. -/
def groupFrom (h : List Byte) (m : List (BitVec 32)) : Group := ⟨BitVec.ofNat 64 (leVal (h.take 8)), leVal ((h.drop 8).take 4), m⟩

section
variable {s : State} {r : Nat} {d a b c : Reg} (w : s.who = .reeve r) (h : s.ready [d, a, b, c] [a, b, c] = true)
  (live : (s.partOf s.cu.part).st ≠ .revoked)
include w h live

theorem exec_agset_misaligned (bad : (s.rd a).toNat % 16 ≠ 0) : exec (.agset d a) s = finish (.trap (tr 0x05 0 (s.rd a)) s) := by
  change execAgset d a s = _
  refine perform_on_reeve w h rfl (.inl rfl) ?_
  rw [if_neg (isRevoked_eq_false live), if_pos bad]
  rfl

theorem exec_agset_read (aligned : (s.rd a).toNat % 16 = 0) (gate : s.loadGate plainMem = none) {hd : List Byte} {u : State}
    (header : s.plainLoad 0 (s.rd a) 16 = .ok hd u) {l : List (List Byte)} {v : State}
    (entries : Acc.each (fun k y => State.plainLoad y (k + 1) (wrap ((s.rd a).toInt + 16 + 4 * k)) 4) (List.range (hd.getD 12 0).toNat) u = .ok l v)
    {m : List (BitVec 32)} (members : l.map (fun b => BitVec.ofNat 32 (leVal b)) = m) : exec (.agset d a) s =
      finish (if groupBad hd m then .trap (planTrap plBADDESC (s.rd a)) v else v.takeGroup d (s.rd a) (groupFrom hd m)) := by
  subst members
  change execAgset d a s = _
  refine perform_on_reeve w h rfl (.inl rfl) ?_
  have place (k : Nat) : s.rd a + toW (16 + 4 * k) = wrap ((s.rd a).toInt + 16 + 4 * k) := by
    have shift : (16 : Int) + 4 * k = ((16 + 4 * k : Nat) : Int) := by push_cast; rfl
    rw [wrap, Int.add_assoc, shift, BitVec.ofInt_add, BitVec.ofInt_toInt, BitVec.ofInt_natCast, toW]
  dsimp only
  rw [if_neg (isRevoked_eq_false live), if_neg (not_not.2 aligned), gate]
  dsimp only
  rw [header]
  dsimp only [Acc.eff]
  rw [groupCount_eq, funext₂ fun k (y : State) => congrArg (fun va => y.plainLoad (k + 1) va 4) (place k), entries]
  rfl

theorem exec_agsetSh_none (none : s.shDesc s.cu.part s.cu.asid (s.rd a).toNat = none) : exec (.agsetSh d a) s = finish (.trap (tr 0x0B 3 0) s) := by
  change execAgsetSh d a s = _
  refine perform_on_reeve w h rfl (.inl rfl) ?_
  dsimp only
  rw [if_neg (isRevoked_eq_false live), none]
  rfl

section
variable {x : Desc} (found : s.shDesc s.cu.part s.cu.asid (s.rd a).toNat = some x)
include found

theorem exec_agsetSh_invalid (bad : sdValid x = false) : exec (.agsetSh d a) s = finish (.trap (tr 0x0B 3 0) s) := by
  change execAgsetSh d a s = _
  refine perform_on_reeve w h rfl (.inl rfl) ?_
  dsimp only
  rw [if_neg (isRevoked_eq_false live), found]
  dsimp only
  rw [bad]
  rfl

theorem exec_agsetSh_tooMany (valid : sdValid x = true) (many : 64 < (sdMesh x).length) :
    exec (.agsetSh d a) s = finish (.trap (planTrap plBADDESC (s.rd a)) s) := by
  change execAgsetSh d a s = _
  refine perform_on_reeve w h rfl (.inl rfl) ?_
  dsimp only
  rw [if_neg (isRevoked_eq_false live), found]
  dsimp only
  rw [valid, Bool.not_true, if_neg Bool.false_ne_true, if_pos many]

/-- The members of a shard descriptor's group: the peer at each place of the mesh, in the executing partition (R86). -/
theorem exec_agsetSh_group (valid : sdValid x = true) (few : (sdMesh x).length ≤ 64) (peers : ∀ k ∈ sdMesh x, sdAt x k < 4096) (part : s.cu.part < 8) :
    exec (.agsetSh d a) s = finish (s.takeGroup d (s.rd a) ⟨BitVec.ofNat 64 (dfld x 56 8), sdExtent x,
      (sdMesh x).map (fun k => BitVec.ofNat 32 (sdAt x k + 2 ^ 12 * s.cu.part))⟩) := by
  have entry : ∀ k ∈ sdMesh x, BitVec.ofNat 32 ((if sdAt x k < 4096 then sdAt x k else 4095) + s.cu.part % 8 * 4096) =
      BitVec.ofNat 32 (sdAt x k + 4096 * s.cu.part) := fun k hk => by
    rw [if_pos (peers k hk), Nat.mod_eq_of_lt part, Nat.mul_comm]
  change execAgsetSh d a s = _
  refine perform_on_reeve w h rfl (.inl rfl) ?_
  dsimp only
  rw [if_neg (isRevoked_eq_false live), found]
  dsimp only
  rw [valid, Bool.not_true, if_neg Bool.false_ne_true, if_neg (Nat.not_lt.2 few), List.map_congr_left entry]
  rfl
end

/-! ### Handles of no group (R79, R89, R91) -/

section
variable (freed : groupAt s (handle16 (s.rd b)) = none)
include freed

theorem exec_mldr_freed (op : BitVec 2) (dt st : Ty) (n : BitVec 12) :
    exec (.mldr d a b c op dt st n) s = finish (.trap (planTrap plFREED (s.rd b)) s) := by
  change execMldr d a b c op dt st n s = _
  refine perform_on_reeve w h rfl (.inl rfl) ?_
  dsimp only
  rw [if_neg (isRevoked_eq_false live), groupOf_handleOf, freed]

theorem exec_mstb_freed (t : Ty) (tle : Bool) (tl : BitVec 4) (n : BitVec 12) :
    exec (.mstb a b c t tle tl n) s = finish (.trap (planTrap plFREED (s.rd b)) s) := by
  change execMstb a b c t tle tl n s = _
  refine perform_on_reeve w h rfl (.inl rfl) ?_
  dsimp only
  rw [if_neg (isRevoked_eq_false live), groupOf_handleOf, freed]

omit live in
theorem exec_shgen_freed (keeper : s.keeper = true) : exec (.shgen d a b) s = finish (.trap (planTrap plFREED (s.rd b)) s) := by
  change execShgen d a b s = _
  refine perform_on_reeve w h rfl (.inr keeper) ?_
  dsimp only
  rw [groupOf_handleOf, freed]
end

end

/-! ### Answers of members (R87-R89) -/

/-- Once every answer has come, only the package's own members have run (R55). -/
theorem members_taskView {s v : State} {m : List (BitVec 32)} {own : State → BitVec 32 → (ReplyStatus × List Byte) × State}
    {send : State → Nat → BitVec 32 → State} {l : List (ReplyStatus × List Byte)} (all : s.members m own send = .ok l v)
    (step : ∀ y e, (own y e).2.taskView = y.taskView) : v.taskView = s.taskView := by
  unfold State.members at all
  dsimp only at all
  split at all
  · split at all <;> cases all
  · split at all
    · cases all
    · have each := congrArg Acc.state all
      refine (congrArg State.taskView each).symm.trans (tasks_each (fun p u => ?_) _ s)
      refine tasks_acc_ite (x := .ok (own u p.2).1 (own u p.2).2) (step u p.2) ?_
      split <;> rfl

/-- The lowest rank that is absent or refuses, with its code (R89). -/
theorem statusOf_eq_find (l : List ReplyStatus) (k : Nat) :
    statusOf k l = (((List.range' k l.length).zip l).find? (fun p => p.2 == .unreachable || p.2 == .refused)).elim 0
      fun p => p.1 * 2 ^ 16 + (if p.2 == .unreachable then stABSENT else stREFUSED) := by
  induction l generalizing k with
  | nil => rfl
  | cons x l ih =>
    cases x with
    | unreachable => rfl
    | refused => rfl
    | ok => exact ih (k + 1)
    | poison => exact ih (k + 1)

theorem memberStatus_eq (l : List ReplyStatus) : memberStatus l = BitVec.ofNat 64 (statusOf 0 l) := by
  rw [statusOf_eq_find l 0, memberStatus, List.range_eq_range']
  cases List.find? _ _ <;> rfl

theorem statusOf_code (l : List ReplyStatus) (k : Nat) : statusOf k l = 0 ∨ statusOf k l % 2 ^ 16 = 1 ∨ statusOf k l % 2 ^ 16 = 2 := by
  induction l generalizing k with
  | nil => exact .inl rfl
  | cons x l ih =>
    cases x with
    | unreachable => exact .inr (.inl (by rw [statusOf]; omega))
    | refused => exact .inr (.inr (by rw [statusOf]; omega))
    | ok => exact ih (k + 1)
    | poison => exact ih (k + 1)

theorem memberStatus_eq_zero_iff (l : List ReplyStatus) : memberStatus l = 0 ↔ statusOf 0 l = 0 := by
  refine ⟨fun h => ?_, fun h => by rw [memberStatus_eq, h]; rfl⟩
  have value := congrArg BitVec.toNat h
  rw [memberStatus_eq, BitVec.toNat_ofNat, show (0 : Word).toNat = 0 from rfl] at value
  have code := statusOf_code l 0
  omega

theorem any_poison_iff (l : List (ReplyStatus × List Byte)) : l.any (fun x => x.1 == .poison) = true ↔ ∃ x ∈ l, x.1 = .poison := by
  simp only [List.any_eq_true, beq_iff_eq]

/-! ### The member offset (R88, R91) -/

theorem offsetTrap_misaligned {off : Word} {size : Nat} (g : Group) (n : Nat) (bad : off.toNat % size ≠ 0) :
    offsetTrap g off size n = some (tr 0x05 0 off) := if_pos bad
theorem offsetTrap_beyond {g : Group} {off : Word} {size n : Nat} (aligned : off.toNat % size = 0) (long : g.len < off.toNat + n * size) :
    offsetTrap g off size n = some (tr 0x07 0 off) := (if_neg (not_not.2 aligned)).trans (if_pos long)
theorem offsetTrap_none {g : Group} {off : Word} {size n : Nat} (aligned : off.toNat % size = 0) (fits : off.toNat + n * size ≤ g.len) :
    offsetTrap g off size n = none := (if_neg (not_not.2 aligned)).trans (if_neg (Nat.not_lt.2 fits))

/-! ### MLDR (R88, R444) -/

section
variable {s u : State} {r : Nat} {d a b c : Reg} {g : Group} (w : s.who = .reeve r) (h : s.ready [d, a, b, c] [a, b, c] = true)
  (live : (s.partOf s.cu.part).st ≠ .revoked) (group : groupAt s (handle16 (s.rd b)) = some g)
include w h live group

section
variable {dt st : Ty} {n : BitVec 12} (idle : s.inFlight = false) (gate : s.loadGate plainMem = none)
  (probe : s.colProbe .store (s.rd a) (n.toNat * bytesOf dt) (bytesOf dt) = .ok ⟨⟩ u)
include idle gate probe

theorem exec_mldr_probed (op : BitVec 2) : exec (.mldr d a b c op dt st n) s = finish
    ((offsetTrap g (s.rd c) (bytesOf st) n.toNat).elim
      ((u.members g.members (fun y e => y.memberReadAt (mePart e) ((u.peer).getD 0) u.cu.part (g.base + s.rd c) (n.toNat * bytesOf st))
        (fun y k e => y.sendMemberRead k e (g.base + s.rd c) (n.toNat * bytesOf st))).eff fun l v =>
          if memberStatus (l.map (·.1)) ≠ 0 then .go (v.wr d (memberStatus (l.map (·.1))))
          else if l.any (fun x => x.1 == .poison) then .trap (tr 0x13 2 (g.base + s.rd c)) v
          else (v.colWrite (v.rd a) (foldBytes op.toNat dt st n.toNat ((List.range l.length).zip (l.map (·.2))))).eff fun _ y => .go (y.wr d 0))
      (.trap · u)) := by
  have view : u.taskView = s.taskView := (congrArg (fun x => x.state.taskView) probe).symm.trans (tasks_colProbe s .store _ _ _)
  rw [← rd_of_taskView w view c]
  change execMldr d a b c op dt st n s = _
  refine perform_on_reeve w h rfl (.inl rfl) ?_
  dsimp only
  rw [if_neg (isRevoked_eq_false live), groupOf_handleOf, group]
  dsimp only
  rw [idle, if_neg Bool.false_ne_true, gate]
  change Acc.eff (s.colProbe .store (s.rd a) (n.toNat * bytesOf dt) (bytesOf dt)) _ = _
  rw [probe]
  change (match offsetTrap g (u.rd c) (bytesOf st) n.toNat with | some t => Eff.trap t u | none => _) = _
  cases offsetTrap g (u.rd c) (bytesOf st) n.toNat <;> rfl

theorem exec_mldr_offset (op : BitVec 2) {t : TrapInfo} (bad : offsetTrap g (s.rd c) (bytesOf st) n.toNat = some t) :
    exec (.mldr d a b c op dt st n) s = finish (.trap t u) := by
  rw [exec_mldr_probed w h live group idle gate probe op, bad]
  rfl

theorem exec_mldr_members (op : BitVec 2) (off : offsetTrap g (s.rd c) (bytesOf st) n.toNat = none) {l : List (ReplyStatus × List Byte)} {v : State}
    (answers : u.members g.members (fun y e => y.memberReadAt (mePart e) ((u.peer).getD 0) u.cu.part (g.base + s.rd c) (n.toNat * bytesOf st))
      (fun y k e => y.sendMemberRead k e (g.base + s.rd c) (n.toNat * bytesOf st)) = .ok l v) :
    exec (.mldr d a b c op dt st n) s = finish (
      if memberStatus (l.map (·.1)) ≠ 0 then .go (v.wr d (memberStatus (l.map (·.1))))
      else if l.any (fun x => x.1 == .poison) then .trap (tr 0x13 2 (g.base + s.rd c)) v
      else (v.colWrite (s.rd a) (foldBytes op.toNat dt st n.toNat ((List.range l.length).zip (l.map (·.2))))).eff fun _ y => .go (y.wr d 0)) := by
  have view : u.taskView = s.taskView := (congrArg (fun x => x.state.taskView) probe).symm.trans (tasks_colProbe s .store _ _ _)
  have after : v.taskView = s.taskView := (members_taskView answers fun y e => tasks_memberReadAt y _ _ _ _ _).trans view
  rw [← rd_of_taskView w after a, exec_mldr_probed w h live group idle gate probe op, off, Option.elim, answers, Acc.eff]
end

/-! ### MSTB (R91, R445) -/

section
variable {t : Ty} {n : BitVec 12} {data : List Byte} {v : State} (gate : s.orderGate false plainMem true = none)
  (read : s.colRead (s.rd a) (n.toNat * bytesOf t) (bytesOf t) = .ok data v)
include gate read

theorem exec_mstb_read (tle : Bool) (tl : BitVec 4) : exec (.mstb a b c t tle tl n) s = finish
    ((offsetTrap g (s.rd c) (bytesOf t) n.toNat).elim
      (.go (g.members.foldl (fun y e => y.mstbSend (g.base + s.rd c) data (if tle then some tl.toNat else none) e) v)) (.trap · v)) := by
  have view : v.taskView = s.taskView := (congrArg (fun x => x.state.taskView) read).symm.trans (tasks_colRead s _ _ _)
  rw [← rd_of_taskView w view c]
  change execMstb a b c t tle tl n s = _
  refine perform_on_reeve w h rfl (.inl rfl) ?_
  dsimp only
  rw [if_neg (isRevoked_eq_false live), groupOf_handleOf, group]
  dsimp only
  rw [gate]
  change Acc.eff (s.colRead (s.rd a) (n.toNat * bytesOf t) (bytesOf t)) _ = _
  rw [read]
  change (match offsetTrap g (v.rd c) (bytesOf t) n.toNat with | some t => Eff.trap t v | none => _) = _
  cases offsetTrap g (v.rd c) (bytesOf t) n.toNat <;> rfl

theorem exec_mstb_offset (tle : Bool) (tl : BitVec 4) {i : TrapInfo} (bad : offsetTrap g (s.rd c) (bytesOf t) n.toNat = some i) :
    exec (.mstb a b c t tle tl n) s = finish (.trap i v) := by
  rw [exec_mstb_read w h live group gate read, bad]
  rfl

theorem exec_mstb_sends (tle : Bool) (tl : BitVec 4) (off : offsetTrap g (s.rd c) (bytesOf t) n.toNat = none) : exec (.mstb a b c t tle tl n) s =
    finish (.go (g.members.foldl (fun y e => y.mstbSend (g.base + s.rd c) data (if tle then some tl.toNat else none) e) v)) := by
  rw [exec_mstb_read w h live group gate read, off]
  rfl
end

/-! ### SHGEN (R197, R375) -/

omit live in
theorem exec_shgen_answers (keeper : s.keeper = true) {x : Desc} (found : s.shDesc s.cu.part s.cu.asid (s.rd a).toNat = some x)
    (idle : s.inFlight = false) (gate : s.ackGate (ackNeed 4 0) = none) {l : List (ReplyStatus × List Byte)} {v : State}
    (answers : s.members g.members (fun y e => let z := y.shInstall (mePart e) (s.rd a).toNat x; ((z.1, []), z.2.shRelease (mePart e)))
      (fun y k e => y.sendInstall k e (s.rd a).toNat x) = .ok l v) :
    exec (.shgen d a b) s = finish (.go (v.wr d (memberStatus (l.map (·.1))))) := by
  change execShgen d a b s = _
  refine perform_on_reeve w h rfl (.inr keeper) ?_
  dsimp only
  rw [groupOf_handleOf, group]
  dsimp only
  rw [found]
  dsimp only
  rw [idle, if_neg Bool.false_ne_true, gate]
  dsimp only at answers ⊢
  rw [answers]
  rfl
end

/-! ### Flits that follow a message (R38-R40, R46) -/

/-- From `s` to `t` flits left the package; of its ports and what it has sent nothing else changed. -/
def flitsLeft (s t : State) : Prop := t = { s with sent := t.sent, ports := t.ports } ∧ ∃ l, t.sent = s.sent ++ l ∧ ∀ x ∈ l, isFlit x = true

theorem flitsLeft.refl (s : State) : flitsLeft s s := ⟨rfl, [], (List.append_nil _).symm, fun _ h => nomatch h⟩
theorem flitsLeft.trans {s t u : State} (h : flitsLeft s t) (g : flitsLeft t u) : flitsLeft s u := by
  obtain ⟨frame, l, sent, flits⟩ := h
  obtain ⟨frame', l', sent', flits'⟩ := g
  refine ⟨by rw [frame', frame], l ++ l', by rw [sent', sent, List.append_assoc], fun x hx => ?_⟩
  obtain hx | hx := List.mem_append.1 hx
  · exact flits x hx
  · exact flits' x hx

theorem flitsLeft_sendFlit (s : State) (i : Nat) (f : TxFlit) : flitsLeft s (s.sendFlit i f) :=
  ⟨rfl, _, rfl, fun x hx => by rw [List.mem_singleton.1 hx]; rfl⟩
theorem flitsLeft_modPort (s : State) (i : Nat) (f : Port → Port) : flitsLeft s (s.modPort i f) :=
  ⟨rfl, [], (List.append_nil _).symm, fun _ h => nomatch h⟩

theorem flitsLeft_flushFrom (s : State) (i : Nat) (l : List TxFlit) (shut : List Nat) (kept : List TxFlit) : flitsLeft s (s.flushFrom i l shut kept) := by
  induction l generalizing s shut kept with
  | nil => exact flitsLeft_modPort s i _
  | cons f l ih =>
    unfold State.flushFrom
    dsimp only
    split
    · exact (flitsLeft_sendFlit s i f).trans (ih _ _ _)
    · exact ih _ _ _

theorem flitsLeft_flush (s : State) (i : Nat) : flitsLeft s (s.flush i) := by
  unfold State.flush
  dsimp only
  split
  · exact flitsLeft_flushFrom s i _ _ _
  · exact .refl s

theorem flitsLeft_enqueue (s : State) (f : TxFlit) : flitsLeft s (s.enqueue f) := by
  unfold State.enqueue
  split
  · exact .refl s
  · next i _ => exact (flitsLeft_modPort s i fun p => { p with waiting := p.waiting ++ [f] }).trans (flitsLeft_flush _ i)

theorem sends_sendOn (s : State) (m : Msg) (peer vc key : Nat) (via : Via) (lines : List Nat) : sends s (s.sendOn m peer vc key via lines) m := by
  have left : flitsLeft (s.send m) (s.sendOn m peer vc key via lines) := by
    unfold State.sendOn
    dsimp only
    split
    · exact .refl _
    · exact flitsLeft_enqueue _ _
  obtain ⟨frame, l, sent, flits⟩ := left
  exact ⟨by rw [frame]; rfl, l, by rw [sent, State.send, List.append_assoc]; rfl, flits⟩

theorem sends_sendCol (s : State) (part peer a : Nat) (m : Msg) : sends s (s.sendCol part peer a m) m := sends_sendOn s m peer 2 _ _ _

/-! ### MSTB at one member (R65, R71, R91) -/

theorem mePeer_eq (e : BitVec 32) : mePeer e = e.toNat % 2 ^ 12 := by rw [mePeer, fld, Nat.shiftRight_zero]
theorem mePart_eq (e : BitVec 32) : mePart e = e.toNat / 2 ^ 12 % 8 := by rw [mePart, fld, Nat.shiftRight_eq_div_pow]; rfl

section
variable {s : State} {va : Word} {b : List Byte} {tl : Option Nat} {e : BitVec 32}

theorem mstbSend_gone (gone : s.peerGone (e.toNat % 2 ^ 12) = true) :
    s.mstbSend va b tl e = s.storeFailed s.uid s.rIdx s.nextTag 0x13 va (e.toNat % 2 ^ 12) := by
  unfold State.mstbSend
  rw [mePeer_eq, if_pos gone]
  rfl

theorem mstbSend_peer {r : Nat} (w : s.who = .reeve r) (task : s.eng = none) (near : s.peerGone (e.toNat % 2 ^ 12) = false)
    (other : s.peer ≠ some (e.toNat % 2 ^ 12)) :
    ∃ u, sends { s with nextTag := s.nextTag + 1 } u (.mstb (e.toNat % 2 ^ 12) (e.toNat / 2 ^ 12 % 8) s.nextTag va b tl e) ∧
      s.mstbSend va b tl e = u.modRe (fun x => { x with stores := x.stores ++ [⟨s.nextTag, r, va, e.toNat % 2 ^ 12, false, 0⟩] }) := by
  have agent : s.agentNo = r := by rw [State.agentNo, task, w]
  refine ⟨_, sends_sendCol { s with nextTag := s.nextTag + 1 } s.cu.part (e.toNat % 2 ^ 12) va.toNat _, ?_⟩
  unfold State.mstbSend
  dsimp only
  rw [mePeer_eq, mePart_eq, near, if_neg Bool.false_ne_true, if_neg (by rwa [beq_iff_eq]), agent]

theorem mstbSend_own {a : Nat} {l : List (Nat × Nat)} {u : State} (near : s.peerGone (e.toNat % 2 ^ 12) = false)
    (own : s.peer = some (e.toNat % 2 ^ 12)) (sym : s.symReady (e.toNat / 2 ^ 12 % 8) = some a)
    (range : s.symRange (e.toNat / 2 ^ 12 % 8) a .store va b.length (e.toNat % 2 ^ 12) s.cu.part expW = (.ok l, u)) :
    s.mstbSend va b none e = u.writePieces l b := by
  have stored : s.memberStore (e.toNat / 2 ^ 12 % 8) (e.toNat % 2 ^ 12) s.cu.part va b none e = (.ok, u.writePieces l b) := by
    unfold State.memberStore
    rw [own, Option.isNone_some, if_neg Bool.false_ne_true, sym]
    dsimp only
    rw [range]
  unfold State.mstbSend
  dsimp only
  rw [mePeer_eq, mePart_eq, near, if_neg Bool.false_ne_true, if_pos (by rw [own, beq_self_eq_true]), stored]
end

/-! ### Folds of integers (R75) -/

theorem tyWidth_pos (t : Ty) : tyWidth t ≠ 0 := by cases t <;> decide

theorem intVal_eq_asInt {t : Ty} {n : Nat} (h : n < 2 ^ tyWidth t) : intVal t n = asInt t n := by
  rw [intVal, asInt, low, sInt, Nat.mod_eq_of_lt h, if_neg (tyWidth_pos t)]
  cases tySigned t with
  | false => rfl
  | true =>
    by_cases neg : n < 2 ^ (tyWidth t - 1)
    · rw [if_pos rfl, if_pos neg, Nat.testBit_lt_two_pow neg]
      rfl
    · have top : n < 2 ^ (tyWidth t - 1 + 1) := by rwa [Nat.sub_add_cancel (Nat.pos_of_ne_zero (tyWidth_pos t))]
      rw [if_pos rfl, if_neg neg, Nat.testBit_of_two_pow_le_and_two_pow_add_one_gt (Nat.not_lt.1 neg) top, Bool.and_self, if_pos rfl]
      push_cast
      rfl

theorem amoNew_eq_amoRule (op : AmoOp) (t : Ty) {old p : Nat} (ho : old < 2 ^ tyWidth t) : amoNew op t old p = amoRule op t old (p % 2 ^ tyWidth t) := by
  have hp : p % 2 ^ tyWidth t < 2 ^ tyWidth t := Nat.mod_lt _ (Nat.two_pow_pos _)
  unfold amoNew
  dsimp only
  rw [show low (tyWidth t) old = old from Nat.mod_eq_of_lt ho, low]
  cases op <;> simp only [amoRule, low, intVal_eq_asInt ho, intVal_eq_asInt hp]

theorem amoNew_lt {op : AmoOp} (h : op = .add ∨ op = .min ∨ op = .max) (t : Ty) (old p : Nat) : amoNew op t old p < 2 ^ tyWidth t := by
  have bound (n : Nat) : low (tyWidth t) n < 2 ^ tyWidth t := Nat.mod_lt _ (Nat.two_pow_pos _)
  unfold amoNew
  obtain rfl | rfl | rfl := h
  · exact bound _
  all_goals
    dsimp only
    split <;> exact bound _

/-- The operation that a fold names by its number, over integers (R75). -/
def foldOp (op : Nat) : AmoOp := match op with | 0 => .add | 1 => .min | _ => .max

theorem foldStep_int {op : Nat} (h : op ≤ 2) {t : Ty} (int : tyIsFloat t = false) (a b : Nat) : foldStep op t a b = amoNew (foldOp op) t a b := by
  unfold foldStep
  rw [int]
  interval_cases op <;> rfl

theorem foldl_foldStep {op : Nat} (h : op ≤ 2) {t : Ty} (int : tyIsFloat t = false) (l : List Nat) {a : Nat} (ha : a < 2 ^ tyWidth t) :
    (l.map (low (tyWidth t))).foldl (foldStep op t) a = l.foldl (fun a b => amoRule (foldOp op) t a (b % 2 ^ tyWidth t)) a := by
  have named : foldOp op = .add ∨ foldOp op = .min ∨ foldOp op = .max := by interval_cases op <;> simp [foldOp]
  induction l generalizing a with
  | nil => rfl
  | cons b l ih =>
    have step : foldStep op t a (low (tyWidth t) b) = amoRule (foldOp op) t a (b % 2 ^ tyWidth t) := by
      rw [foldStep_int h int, amoNew_eq_amoRule _ t ha, low, Nat.mod_mod]
    have small : amoRule (foldOp op) t a (b % 2 ^ tyWidth t) < 2 ^ tyWidth t := by
      rw [← step, foldStep_int h int]
      exact amoNew_lt named t _ _
    rw [List.map_cons, List.foldl_cons, List.foldl_cons, step, ih small]

/-- The fold of integers of one type (R75). -/
theorem foldElem_int {op : Nat} (h : op ≤ 2) {t : Ty} (int : tyIsFloat t = false) (l : List (Nat × Nat)) :
    foldElem op t t l = intFold op t (l.map (·.2)) := by
  have same : (fun p : Nat × Nat => foldIn t t p.2) = low (tyWidth t) ∘ (·.2) := funext fun p => if_pos (beq_self_eq_true t)
  unfold foldElem
  dsimp only
  rw [int, Bool.not_false, if_pos rfl]
  dsimp only
  rw [same, ← List.map_map]
  cases l.map (·.2) with
  | nil => rfl
  | cons x l => exact foldl_foldStep h int l (Nat.mod_lt _ (Nat.two_pow_pos _))

/-! ### The statement -/

/-- The first half of the statement. -/
theorem groupWords_reachTheirMembers : groupWordsReachTheirMembers := by
  intro s r d a b c w h
  refine ⟨fun live bad => exec_agset_misaligned w h live bad, fun hd u l v live aligned gate header => ?_, fun x live found => ?_,
    fun none live => exec_agsetSh_none w h live none,
    fun freed => ⟨fun op dt st n t tle tl live => ⟨exec_mldr_freed w h live freed op dt st n, exec_mstb_freed w h live freed t tle tl n⟩,
      fun keeper => exec_shgen_freed w h freed keeper⟩, fun g group => ?_⟩
  · intro va entries pc m
    have read := exec_agset_read w h live aligned gate header entries (m := m) rfl
    refine ⟨fun ok => takesSlot_of_takeGroup pc ?_, fun bad => ?_⟩
    · rwa [(groupBad_eq_false_iff hd m).2 ok, if_neg Bool.false_ne_true] at read
    · rwa [if_pos (Bool.not_eq_false (groupBad hd m) ▸ (groupBad_eq_false_iff hd m).not.2 bad)] at read
  · exact ⟨exec_agsetSh_invalid w h live found, exec_agsetSh_tooMany w h live found,
      fun valid few peers part => takesSlot_of_takeGroup rfl (exec_agsetSh_group w h live found valid few peers part)⟩
  · intro off va
    refine ⟨fun op dt st n u live idle gate probe => ⟨fun bad => ?_, fun aligned long => ?_, fun l v aligned fits answers pc => ?_⟩,
      fun t tle tl n data v live gate read pc => ⟨fun bad => ?_, fun aligned long => ?_, fun aligned fits => ?_⟩,
      fun x l v keeper found idle gate answers pc => ?_⟩
    · exact exec_mldr_offset w h live group idle gate probe op (offsetTrap_misaligned g _ bad)
    · exact exec_mldr_offset w h live group idle gate probe op (offsetTrap_beyond aligned long)
    · have run := exec_mldr_members w h live group idle gate probe op (offsetTrap_none aligned fits) answers
      intro status
      refine ⟨fun failed => ?_, fun ok poison => ?_, fun ok clean y wrote ypc => ?_⟩
      · rw [if_pos ((memberStatus_eq_zero_iff _).not.2 failed), finish_wr pc, memberStatus_eq] at run
        exact run
      · rw [if_neg (not_not.2 ((memberStatus_eq_zero_iff _).2 ok)), if_pos ((any_poison_iff l).2 poison)] at run
        exact run
      · rw [if_neg (not_not.2 ((memberStatus_eq_zero_iff _).2 ok)), if_neg fun h => (not_exists.2 fun x hx => clean x hx.1 hx.2) ((any_poison_iff l).1 h), wrote, Acc.eff,
          finish_wr ypc] at run
        exact run
    · exact exec_mstb_offset w h live group gate read tle tl (offsetTrap_misaligned g _ bad)
    · exact exec_mstb_offset w h live group gate read tle tl (offsetTrap_beyond aligned long)
    · intro z zpc
      exact (exec_mstb_sends w h live group gate read tle tl (offsetTrap_none aligned fits)).trans (finish_go zpc)
    · rw [exec_shgen_answers w h group keeper found idle gate answers, finish_wr pc, memberStatus_eq]

/-- The second half of the statement. -/
theorem members_storeAndFold : memberStoresAndFolds := by
  refine ⟨fun s va b tl e r w task => ⟨mstbSend_gone, mstbSend_peer w task, fun a l u near own sym range none => ?_⟩, fun op t l h int => ?_⟩
  · subst none
    exact mstbSend_own near own sym range
  · refine foldElem_int h ?_ l
    simp only [List.mem_cons, List.not_mem_nil, or_false] at int
    obtain rfl | rfl | rfl | rfl := int <;> rfl

/-- Settles O45: the group words by the rules of R75, R86-R92, R197, R374, R375 and R444-R446. -/
theorem groupWordsMembersAndFolds : Obligations.GroupWordsMembersAndFolds := ⟨groupWords_reachTheirMembers, members_storeAndFold⟩

end Sys2Proof.Machine
end

section
/-!
PROOFS. The statement on requests and replies fails: where the marks of poisoned lines are listed out of order, a statex merge that clears one mark
uncovers another (R34, R280).
-/
namespace Sys2Proof.Machine
open Sys2Proof.Claims

/-! ### A merge over marks that are out of order -/

namespace UnorderedMarks

/-- The 65 lines of a statex image, from line 4 on. -/
def imageLines : List Nat := (List.range 65).map (fun i => 256 + 64 * i)
/-- An image of type 9 with one cell that has counted nothing. -/
def image : SxImage := BitVec.ofNat 33280 (9 + 2 ^ 32)
/-- The merge of that image heads the queue of stack 0; it asks for no peer. The image in HBM is the same. The mark of line 5, which the merge writes,
stands before that of line 3, which it does not write: a look-up of line 3 ends at the mark of line 5 and finds none. -/
def start : State :=
  { State.reset with
    thresher := [(0, [.merge 0 0 0 imageLines image none])], hbm := [(256, 9), (260, 1)], hbmPoison := [(5, false), (3, true)] }
/-- The image that the lines hold. -/
def held : SxImage := BitVec.ofNat 33280 (leVal (imageLines.flatMap (fun pa => (List.range 64).map (fun j => KMap.get 0 start.hbm (pa + j)))))

theorem lines_apart : imageLines.Pairwise (fun a b => a + 64 ≤ b ∨ b + 64 ≤ a) := by decide +kernel

theorem lines_unmarked : ∀ pa ∈ imageLines, start.hbmBad pa 64 = false := by decide +kernel

theorem held_headerOk : sxHeaderOk held = true := by decide +kernel

theorem held_merges : (sxMerge held image).isSome = true := by decide +kernel

/-- Line 3 is marked after the merge. -/
theorem mark_uncovered {t : State} (h : exec (.thresherMerge 0) start = .next t) : KMap.get false t.hbmPoison 3 = true := by
  have run : (match execThresherMerge 0 start with | .next t => KMap.get false t.hbmPoison 3 | _ => false) = true := by decide +kernel
  have arm : execThresherMerge 0 start = .next t := h
  rw [arm] at run
  exact run

end UnorderedMarks

open UnorderedMarks in
/-- Refutes O50: the statement does not ask that a state list its marks of poisoned lines in the canonical form (`KMap.wf`), and has a merge leave every
look-up of a mark as it was. In the state of `UnorderedMarks`, whose list is not of that form, the merge removes the mark of line 5, and the look-up of
line 3 then finds the mark behind it. -/
theorem not_requestsArePerformedAndSettled : ¬ Obligations.RequestsArePerformedAndSettled := by
  unfold Obligations.RequestsArePerformedAndSettled
  intro ⟨homes, _⟩
  obtain ⟨-, -, -, merge⟩ := homes start ⟨0, 0, 0, 0, .load 0⟩ 0
  obtain ⟨-, merged⟩ := merge 0 0 0 imageLines image none [] rfl rfl lines_unmarked rfl lines_apart
  obtain ⟨⟨x, sat⟩, merges⟩ := Option.isSome_iff_exists.mp held_merges
  obtain ⟨u, t, run, reply, -, marks, -⟩ := merged x sat held_headerOk merges
  have same : t.hbmPoison = u.hbmPoison := by rw [show t = _ from reply]; rfl
  have after : KMap.get false u.hbmPoison 3 = true := same ▸ mark_uncovered run
  rw [marks 3] at after
  exact absurd after (by decide)

end Sys2Proof.Machine
end

section
/-!
PROOFS. Fences and timeline counters (R65, R71, R84, R139, R189, R206-R208, R211, R358, R360): what a fence waits for, what it discards, and how
TLWAIT and TLADV end.
-/
namespace Sys2Proof.Machine
open Sys2Proof.Claims
set_option Elab.async false

/-! ### What a release or a fence waits for -/

theorem acquire_eq_acquired (s : State) (scope : Nat) : s.acquire scope = acquired s scope := rfl

/-- An acquire changes only what is cached outside the unit. -/
theorem acquired_frame (s : State) (scope : Nat) : ∃ x y, acquired s scope = { s with fabric := x, fills := y } := by
  unfold acquired
  split
  · exact ⟨_, _, rfl⟩
  · exact ⟨_, _, rfl⟩

theorem pc_acquired (s : State) (scope : Nat) : (acquired s scope).pc = s.pc := by obtain ⟨x, y, h⟩ := acquired_frame s scope; rw [h]; rfl

theorem who_acquired (s : State) (scope : Nat) : (acquired s scope).who = s.who := by obtain ⟨x, y, h⟩ := acquired_frame s scope; rw [h]

/-- The acknowledgements a need asks for are not all there. -/
def State.unacked (s : State) (need : Nat) : Prop :=
  need = 1 ∧ (∃ t ∈ s.ownStores, t.accepted = false) ∨ 2 ≤ need ∧ s.ownStores ≠ []

theorem ackGate_zero (s : State) : s.ackGate 0 = none := rfl

theorem ackGate_unacked {s : State} {need : Nat} (h : s.unacked need) : s.ackGate need = some (.wait .fence s) := by
  unfold State.ackGate
  obtain ⟨rfl, t, ht, late⟩ | ⟨two, some⟩ := h
  · have waits : s.ownStores.any (fun t => !t.accepted) = true := List.any_eq_true.2 ⟨t, ht, by simp [late]⟩
    simp [waits]
  · simp [show need ≠ 0 by omega, show need ≠ 1 by omega, some]

/-- Once the stores are acknowledged, only a recorded failure is left to raise. -/
theorem ackGate_acked {s : State} {need : Nat} (some : need ≠ 0) (h : ¬s.unacked need) :
    s.ackGate need = s.ownFail.map (fun f => .trap f.trap (s.modRe (fun x => { x with fail := none }))) := by
  unfold State.unacked at h
  push Not at h
  obtain ⟨accepted, empty⟩ := h
  have done : (if need == 1 then s.ownStores.any (fun t => !t.accepted) else !s.ownStores.isEmpty) = false := by
    split
    · next one => simpa using accepted (beq_iff_eq.1 one)
    · next many =>
      have none : s.ownStores = [] := empty (by have := mt beq_iff_eq.2 many; omega)
      rw [none]; rfl
  unfold State.ackGate
  dsimp only
  rw [if_neg (by simpa using some), done]
  cases s.ownFail <;> rfl

/-- Every store that a release covers is acknowledged. -/
theorem ackGate_none_of_releaseDone {s : State} {r : Nat} (w : s.who = .reeve r) {scope : Nat} (h : releaseDone s scope) :
    s.ackGate (ackNeed scope 0) = none := by
  obtain narrow | ⟨acked, clean⟩ := h
  · rw [ackNeed, if_pos rfl, if_neg (by omega), ackGate_zero]
  · have own : s.ownStores = [] := by rw [State.ownStores, w]; exact acked
    have fail : s.ownFail = none := by rw [State.ownFail, w]; exact clean
    by_cases wide : 4 ≤ scope
    · rw [ackNeed, if_pos rfl, if_pos wide, ackGate_acked (by decide) (by simp [State.unacked, own]), fail]; rfl
    · rw [ackNeed, if_pos rfl, if_neg wide, ackGate_zero]

/-! ### FENCE and VFENCE (R206-R208) -/

/-- Does a routine execute? Its failed stores fault its command, and raise nothing (R286). -/
def State.inRoutine (s : State) : Bool := match s.who with | .wain _ => true | _ => false

theorem ownStores_eq (s : State) :
    s.ownStores = s.re.stores.filter (fun t => if s.inRoutine then t.agent == s.agentNo else decide (t.agent < 10)) := by
  unfold State.ownStores State.inRoutine
  cases s.who <;> rfl

theorem ownFail_eq (s : State) : s.ownFail = if s.inRoutine then none else s.re.fail := by
  unfold State.ownFail State.inRoutine
  cases s.who <;> rfl

theorem trap_code_tval_late (f : StoreFail) : f.trap.code = f.code ∧ f.trap.tval = f.addr ∧ f.trap.late = true := by
  unfold StoreFail.trap
  split
  · next peer => exact ⟨peer.symm, rfl, rfl⟩
  · exact ⟨BitVec.ofNat_toNat _ _ |>.trans (BitVec.setWidth_eq _), rfl, rfl⟩

/-- A `fence.sc` follows every earlier `.sc` store (R206). -/
def State.fenceHeld (s : State) (m : MemQ) : Prop := m.ord = 3 ∧ ∃ t ∈ s.ownStores, t.hold = 3

/-- FENCE has something to wait for. -/
def State.fencePending (s : State) (m : MemQ) : Prop := s.fenceHeld m ∨ s.unacked (ackNeed m.scope.toNat m.ack)

section
variable {s : State} {m : MemQ}

/-- What FENCE does once its agent may run it. -/
def State.fenceBody (m : MemQ) (s : State) : Eff :=
  if m.ord = 3 && s.ownStores.any (fun t => t.hold = 3) then .wait .fence s
  else
    match (if m.ord = 1 then none else s.ackGate (ackNeed m.scope.toNat m.ack)) with
    | some w => w.eff fun _ s => .go s
    | none => .go (if m.ord = 2 then s else s.acquire m.scope.toNat).refill

theorem exec_fence (h : s.ready [] [] = true) : exec (.fence m) s = finish (s.fenceBody m) := by
  change State.perform s _ _ _ _ _ (State.fenceBody m) = _
  exact State.perform_clear (State.ready_clear h (by cases s.who <;> rfl) (.inl rfl)) _ _

theorem fenceHeld_iff : (m.ord = 3 && s.ownStores.any (fun t => t.hold = 3)) = true ↔ s.fenceHeld m := by
  simp [State.fenceHeld]

theorem fenceBody_pending (kind : m.ord ≠ 1) (h : s.fencePending m) : s.fenceBody m = .wait .fence s := by
  unfold State.fenceBody
  by_cases held : s.fenceHeld m
  · rw [if_pos (fenceHeld_iff.2 held)]
  · rw [if_neg (fenceHeld_iff.not.2 held), if_neg kind, ackGate_unacked (h.resolve_left held)]
    rfl

theorem fenceBody_failed (kind : m.ord ≠ 1) (h : ¬s.fencePending m) (need : ackNeed m.scope.toNat m.ack ≠ 0) (task : s.inRoutine = false) {f : StoreFail}
    (fail : s.re.fail = some f) : s.fenceBody m = .trap f.trap (s.modRe (fun x => { x with fail := none })) := by
  obtain ⟨free, acked⟩ := not_or.1 h
  have raised : s.ownFail = some f := by rw [ownFail_eq, task, fail]; rfl
  rw [State.fenceBody, if_neg (fenceHeld_iff.not.2 free), if_neg kind, ackGate_acked need acked, raised]
  rfl

theorem fenceBody_done (h : m.ord = 1 ∨ ¬s.fencePending m ∧ (ackNeed m.scope.toNat m.ack = 0 ∨ s.inRoutine = true ∨ s.re.fail = none)) :
    s.fenceBody m = .go (if m.ord = 2 then s else s.acquire m.scope.toNat).refill := by
  unfold State.fenceBody
  obtain acq | ⟨free, clean⟩ := h
  · rw [acq]; rfl
  · obtain ⟨free, acked⟩ := not_or.1 free
    have gate : s.ackGate (ackNeed m.scope.toNat m.ack) = none := by
      by_cases need : ackNeed m.scope.toNat m.ack = 0
      · rw [need, ackGate_zero]
      · have none : s.ownFail = none := by
          rw [ownFail_eq]
          obtain routine | clean := clean.resolve_left need
          · rw [if_pos routine]
          · rw [clean, ite_self]
        rw [ackGate_acked need acked, none]; rfl
    rw [if_neg (fenceHeld_iff.not.2 free), gate, ite_self]

theorem refill_eq (u : State) (h : u.who = s.who) :
    u.refill = (match s.who with | .reeve _ => u.modRe (fun x => { x with fetchBuf := [] }) | _ => u) := by
  rw [State.refill, h] <;> rfl

theorem pc_refill (u : State) : u.refill.pc = u.pc := by
  unfold State.refill
  split
  · exact pc_modRe u
  · rfl
end

theorem exec_vfence {s : State} {r : Nat} (sr : Bool) (n : BitVec 3) (w : s.who = .reeve r) (h : s.ready [] [] = true) :
    exec (.vfence sr n) s = finish (if s.cu.owns r n.toNat then .go s else .trap (wrongCtx (.vfence sr n)) s) := by
  change execVfence sr n s = _
  refine perform_on_reeve w h rfl (.inl rfl) ?_
  rw [State.rIdx, w]

theorem fences_completeWhenStoresAre : Claims.fencesCompleteWhenStoresAre := by
  intro s m h need routine mine scOut pending
  have own : s.ownStores = mine := ownStores_eq s
  have waits : pending ↔ s.fencePending m := by
    simp only [pending, scOut, ← own, need, State.fencePending, State.fenceHeld, State.unacked, ackNeed]
  refine ⟨fun done => ?_, fun kind wait => ?_, fun kind free some task f fail => ?_, fun r sr n w owned => ?_, fun r sr n w other => ?_⟩
  · refine ⟨_, ?_, rfl⟩
    rw [exec_fence h, fenceBody_done (done.imp_right fun ⟨free, clean⟩ => ⟨waits.not.1 free, clean⟩), acquire_eq_acquired]
    have who : (if m.ord = 2 then s else acquired s m.scope.toNat).who = s.who := by split <;> simp only [who_acquired]
    have pc : (if m.ord = 2 then s else acquired s m.scope.toNat).pc = s.pc := by split <;> simp only [pc_acquired]
    rw [finish_go ((pc_refill _).trans pc), refill_eq _ who] <;> rfl
  · rw [exec_fence h, fenceBody_pending kind (waits.1 wait)]; rfl
  · refine ⟨f.trap, ?_, trap_code_tval_late f⟩
    rw [exec_fence h, fenceBody_failed kind (waits.not.1 free) some task fail]; rfl
  · rw [exec_vfence sr n w h, if_pos owned]; exact finish_go rfl
  · rw [exec_vfence sr n w h, if_neg (Bool.not_eq_true _ ▸ other)]; rfl

/-! ### TLWAIT and TLADV (R358, R360) -/

theorem toNat_tlAmount (s : State) (a : Reg) (imm : BitVec 24) : (s.tlAmount a imm).toNat = amount s a imm := by
  rw [State.tlAmount, BitVec.toNat_add, zx64, BitVec.toNat_setWidth, Nat.mod_eq_of_lt (a := imm.toNat) (by have := imm.isLt; omega), amount]

/-- A reeve whose event latch is set. -/
def Reeve.latched (x : Reeve) : Reeve := { x with latch := true }

/-- A unit whose counter `n` has gone up by `k`, saturating (R172, R360). -/
def Unit.counted (u : Unit) (n k : Nat) (wide : Bool) : Unit :=
  { u with
    tl := KMap.set 0 u.tl n (toW (if (KMap.get 0 u.tl n).toNat + k ≤ tlMax then (KMap.get 0 u.tl n).toNat + k else tlMax))
    tlWide := if wide && (KMap.get Option.none u.tlWide n).isNone then KMap.set Option.none u.tlWide n (some (KMap.get 0 u.tl n).toNat) else u.tlWide }

theorem advance_zero (u : Unit) (n : Nat) (wide : Bool) : u.advance n 0 wide = u := rfl

/-- An advance counts and sets the latches of the unit's reeves (R366). -/
theorem advance_eq (u : Unit) (n : Nat) {k : Nat} (wide : Bool) (some : k ≠ 0) : u.advance n k wide =
    if 1 < u.rv then ((u.counted n k wide).modReeve 0 Reeve.latched).modReeve 1 Reeve.latched else (u.counted n k wide).modReeve 0 Reeve.latched := by
  unfold Unit.advance
  rw [if_neg (by simpa using some)]
  rfl

theorem advance_frame (u : Unit) (n k : Nat) (wide : Bool) :
    u.advance n k wide = { u with tl := (u.advance n k wide).tl, tlWide := (u.advance n k wide).tlWide, reeves := (u.advance n k wide).reeves } := by
  obtain rfl | some := eq_or_ne k 0
  · rfl
  · rw [advance_eq u n wide some]
    split <;> rfl

theorem get_advance_tl (u : Unit) (n k : Nat) (wide : Bool) (j : Nat) :
    KMap.get 0 (u.advance n k wide).tl j = if j = n then
      (if (KMap.get 0 u.tl j).toNat + k < 2 ^ 64 then BitVec.ofNat 64 ((KMap.get 0 u.tl j).toNat + k) else BitVec.ofNat 64 (2 ^ 64 - 1))
      else KMap.get 0 u.tl j := by
  obtain rfl | some := eq_or_ne k 0
  · have fits : (KMap.get 0 u.tl j).toNat < 2 ^ 64 := (KMap.get 0 u.tl j).isLt
    rw [advance_zero, Nat.add_zero, if_pos fits, BitVec.ofNat_toNat, BitVec.setWidth_eq, ite_self]
  · have set : (u.advance n k wide).tl = (u.counted n k wide).tl := by
      rw [advance_eq u n wide some]
      split <;> rfl
    rw [set, Unit.counted, KMap.get_set]
    split
    · next here =>
      subst here
      by_cases fits : (KMap.get 0 u.tl j).toNat + k < 2 ^ 64
      · rw [if_pos fits, tlMax, if_pos (Nat.le_sub_one_of_lt fits)]
        rfl
      · rw [if_neg fits, tlMax, if_neg fun le => fits (Nat.lt_of_le_sub_one (by decide) le)]
        rfl
    · rfl

theorem reeveOf_advance (u : Unit) (n k : Nat) (wide : Bool) (q : Nat) :
    (u.advance n k wide).reeveOf q =
      { u.reeveOf q with latch := (u.reeveOf q).latch || (decide (k ≠ 0) && (q == 0 || (q == 1 && decide (1 < u.rv)))) } := by
  obtain rfl | some := eq_or_ne k 0
  · simp [advance_zero]
  · have kept : (u.counted n k wide).reeveOf q = u.reeveOf q := rfl
    rw [advance_eq u n wide some, decide_eq_true some]
    obtain rfl | first := eq_or_ne q 0
    · split
      · rw [Unit.reeveOf_modReeve_ne _ _ (by decide), Unit.reeveOf_modReeve_self, kept]; simp [Reeve.latched]
      · rw [Unit.reeveOf_modReeve_self, kept]; simp [Reeve.latched]
    · obtain rfl | second := eq_or_ne q 1
      · split
        · next two => rw [Unit.reeveOf_modReeve_self, Unit.reeveOf_modReeve_ne _ _ first, kept]; simp [two, Reeve.latched]
        · next one => rw [Unit.reeveOf_modReeve_ne _ _ first, kept]; simp [one]
      · have neither : (q == 0 || (q == 1 && decide (1 < u.rv))) = false := by simp [first, second]
        rw [neither, Bool.and_false, Bool.or_false]
        split
        · rw [Unit.reeveOf_modReeve_ne _ _ second, Unit.reeveOf_modReeve_ne _ _ first, kept]
        · rw [Unit.reeveOf_modReeve_ne _ _ first, kept]

/-! ### A word of a reeve that changes only its unit -/

section
variable {s : State} {f : Unit → Unit}

theorem dropReplies_modCu_frame : (s.modCu f).dropReplies = { s.dropReplies with units := (s.modCu f).dropReplies.units } := by
  rw [State.dropReplies_eq, s.dropReplies_eq]
  rfl

theorem dropReplies_modCu_unitOf_ne {u : Nat} (h : u ≠ s.uid) : (s.modCu f).dropReplies.unitOf u = s.unitOf u := by
  rw [State.dropReplies_unitOf_ne (s.modCu f) h, State.unitOf_modCu_ne _ _ h]

theorem dropReplies_modCu_cu (replies : ∀ u, (f u).replies = u.replies) :
    (s.modCu f).dropReplies.cu = { f s.cu with replies := s.dropReplies.cu.replies } := by
  rw [State.dropReplies_cu, s.dropReplies_cu, State.cu_modCu, replies]
  rfl

theorem ran_reeve {r : Nat} (w : s.who = .reeve r) (next : Word) : s.ran next = s.dropReplies.modRe (fun x => doneAt x next) := by
  rw [State.ran, State.retireTo, State.dropReplies_who, w]
  rfl

theorem onlyUnit_ran_modCu {r : Nat} (w : s.who = .reeve r) (next : Word) : onlyUnit s ((s.modCu f).ran next) := by
  rw [ran_reeve (s := s.modCu f) (r := r) w]
  refine ⟨?_, fun u h => ?_⟩
  · rw [State.modRe, State.modCu, State.modUnit, State.setUnit, dropReplies_modCu_frame]
  · rw [State.modRe, State.unitOf_modCu_ne _ _ (by rw [State.dropReplies_uid]; exact h), dropReplies_modCu_unitOf_ne h]

theorem cu_ran_modCu {r : Nat} (w : s.who = .reeve r) (next : Word) (replies : ∀ u, (f u).replies = u.replies) :
    ((s.modCu f).ran next).cu = { f s.cu with replies := s.dropReplies.cu.replies }.modReeve r (fun x => doneAt x next) := by
  have r' : (s.modCu f).dropReplies.rIdx = r := by rw [State.dropReplies_rIdx, State.rIdx, State.modCu_who, w]
  rw [ran_reeve (s := s.modCu f) (r := r) w, State.modRe, State.cu_modCu, r', dropReplies_modCu_cu replies]
end

section
variable {s : State} {a : Reg} {n : BitVec 4} {imm : BitVec 24} {r : Nat}

theorem exec_tlwait (w : s.who = .reeve r) (h : s.ready [a] [a] = true) : exec (.tlwait a n imm) s = finish
    (if s.tlAmount a imm ≤ counter s n.toNat then .go (s.tlAcquire n.toNat (s.tlAmount a imm))
    else match s.planFailed n.toNat with
      | some p => .trap (tr cPLAN ((p.failed.getD 0).toNat) (toW p.handle)) s
      | none => .wait .tlwait s) := by
  change execTlwait a n imm s = _
  exact perform_on_reeve w h rfl (.inl rfl) rfl

theorem tlAmount_le_iff : s.tlAmount a imm ≤ counter s n.toNat ↔ amount s a imm ≤ (counter s n.toNat).toNat := by
  rw [BitVec.le_def, toNat_tlAmount]

/-- The acquire of a TLWAIT discards cached lines when a wide advance supplied part of its amount (R358, R211). -/
theorem tlAcquire_eq (c : Nat) : s.tlAcquire c (s.tlAmount a imm) = (match KMap.get none s.cu.tlWide c with
    | some v => if v < amount s a imm then acquired s 4 else s
    | none => s) := by
  rw [State.tlAcquire, toNat_tlAmount] <;> rfl

theorem pc_tlAcquire (c : Nat) (k : Word) : (s.tlAcquire c k).pc = s.pc := by
  unfold State.tlAcquire
  split
  · split
    · exact pc_acquired s 4
    · rfl
  · rfl

theorem exec_tladv (w : s.who = .reeve r) (h : s.ready [a] [a] = true) {scope : BitVec 3} (done : releaseDone s scope.toNat) :
    exec (.tladv a n imm scope) s =
      finish (.go (s.modCu (fun u => u.advance n.toNat (amount s a imm) (decide (4 ≤ scope.toNat))))) := by
  change execTladv a n imm scope s = _
  refine perform_on_reeve w h rfl (.inl rfl) ?_
  rw [ackGate_none_of_releaseDone w done, toNat_tlAmount]
  rfl

theorem pc_modCu_reeve (w : s.who = .reeve r) {f : Unit → Unit} (pc : ((f s.cu).reeveOf r).pc = (s.cu.reeveOf r).pc) : (s.modCu f).pc = s.pc := by
  simp only [State.pc, State.modCu_who, w, State.re, State.rIdx, State.cu_modCu, pc]
end

theorem timeline_waitsAndAdvances : Claims.timelineWaitsAndAdvances := by
  intro s a n imm scope r w h k
  refine ⟨fun holds => ?_, fun less none => ?_, fun p less failed => ?_, fun done => ?_⟩
  · rw [exec_tlwait w h, if_pos (tlAmount_le_iff.2 holds), finish_go (pc_tlAcquire _ _), tlAcquire_eq] <;> rfl
  · rw [exec_tlwait w h, if_neg (tlAmount_le_iff.not.2 (Nat.not_le.2 less)), none]; rfl
  · rw [exec_tlwait w h, if_neg (tlAmount_le_iff.not.2 (Nat.not_le.2 less)), failed]; rfl
  · let f : Unit → Unit := fun u => u.advance n.toNat k (decide (4 ≤ scope.toNat))
    have replies (u : Unit) : (f u).replies = u.replies := by rw [show f u = _ from advance_frame u _ _ _]
    have reeve (q : Nat) : (f s.cu).reeveOf q = _ := reeveOf_advance s.cu _ _ _ q
    have cu := cu_ran_modCu (f := f) w (s.pc + 8) replies
    refine ⟨(s.modCu f).ran (s.pc + 8), ?_, onlyUnit_ran_modCu w _, ?_, fun j => ?_, fun q => ?_⟩
    · rw [exec_tladv w h done]
      exact finish_go (pc_modCu_reeve w (by rw [reeve]))
    · rw [cu, show f s.cu = _ from advance_frame s.cu _ _ _, s.dropReplies_cu]
      rfl
    · rw [cu]
      exact get_advance_tl s.cu n.toNat k _ j
    · rw [cu]
      split
      · next here => subst here; rw [Unit.reeveOf_modReeve_self]; exact congrArg (doneAt · _) (reeve q)
      · next other => rw [Unit.reeveOf_modReeve_ne _ _ other]; exact reeve q

/-- Settles O14: FENCE and VFENCE go through their one body, TLWAIT through the comparison of its amount, TLADV through what an advance changes. -/
theorem fencesAndTimelineWords : Obligations.FencesAndTimelineWords := ⟨fences_completeWhenStoresAre, timeline_waitsAndAdvances⟩

end Sys2Proof.Machine
end

section
/-!
PROOFS. Plans (R79, R85, R93, R441-R443): the exchange of signatures that PLAN makes, the ready flags that CRDY and CFIRE set, and how PLFREE lets a
plan go.
-/
namespace Sys2Proof.Machine
open Sys2Proof.Claims
set_option Elab.async false

/-! ### What a reeve's word leaves of the state -/

section
variable {s : State} {r : Nat} (w : s.who = .reeve r)
include w

theorem agentOk_reeve : s.agentOk = true := by rw [State.agentOk, w]

theorem rd_modRe {f : Reeve → Reeve} (g : ∀ x, (f x).g = x.g := by intro; rfl) (q : Reg) : (s.modRe f).rd q = s.rd q := by
  simp only [State.rd, State.modRe_who, w, State.re_modRe, g]

/-- A completed word's registers are those its effect left. -/
theorem rd_ran (next : Word) (q : Reg) : (s.ran next).rd q = s.rd q := by
  rw [ran_reeve w, rd_modRe ((State.dropReplies_who s).trans w), State.dropReplies_rd]

theorem pc_ran (next : Word) : (s.ran next).pc = next := by
  rw [ran_reeve w, State.pc, State.modRe_who, State.dropReplies_who, w]
  simp only [State.re_modRe]
  rfl

theorem part_ran (next : Word) : (s.ran next).cu.part = s.cu.part := by
  rw [ran_reeve w, State.modRe, State.cu_modCu, State.dropReplies_cu]
  rfl

theorem re_ran (next : Word) : (s.ran next).re = doneAt s.re next := by rw [ran_reeve w, State.re_modRe, State.dropReplies_re]

theorem ran_frame (next : Word) : ∃ x y, s.ran next = { s with units := x, shardOut := y } := by
  obtain ⟨x, y, h⟩ := s.dropReplies_frame
  exact ⟨_, y, by rw [ran_reeve w, h]; rfl⟩

theorem planWait_wr (d : Reg) (v : Word) : (s.wr d v).re.planWait = s.re.planWait := by
  simp only [State.wr, w]
  split
  · rfl
  · rw [State.re_modRe]
end

theorem wr_frame (s : State) (d : Reg) (v : Word) : ∃ x y, s.wr d v = { s with units := x, cores := y } := ⟨_, _, (TouchesOwn.wr s d v).outside⟩

/-! ### Announcing signatures and binding a plan's key (R78, R129) -/

/-- From `s` to `t` signatures and messages went out; nothing else changed. -/
def announced (s t : State) : Prop := t = { s with sigs := t.sigs, sent := t.sent, ports := t.ports }

theorem announced.trans {s t u : State} (h : announced s t) (g : announced t u) : announced s u := by
  rw [announced] at h g ⊢
  rw [g, h]

theorem announced_foldl {α : Type} {f : State → α → State} (h : ∀ s x, announced s (f s x)) (l : List α) (s : State) : announced s (l.foldl f s) := by
  induction l generalizing s with
  | nil => exact rfl
  | cons x l ih => exact (h s x).trans (ih _)

theorem announced_sendSigs (s : State) (w : PlanWait) (sig : BitVec 256) (reserved : Bool) : announced s (s.sendSigs w sig reserved) := by
  refine announced_foldl (fun s p => ?_) _ s
  split
  · exact rfl
  · split
    · exact rfl
    · obtain ⟨frame, _⟩ := sends_sendCol s s.cu.part (mePeer p.2) 0
        (.planSig (mePeer p.2) (mePart p.2) (BitVec.ofNat 32 (dfld w.desc 0 4)) (pdRank w.desc) sig w.slots reserved)
      rw [announced, frame]

/-- From `s` to `t` a key slot was loaded and the partners told; nothing else changed. -/
def keyLoaded (s t : State) : Prop := t = { s with keys := t.keys, sent := t.sent, ports := t.ports }

theorem keyLoaded_of_flitsLeft {s t : State} (h : flitsLeft s t) : keyLoaded s t := by
  obtain ⟨frame, _⟩ := h
  rw [keyLoaded, frame]

theorem keyLoaded_loadKey (s : State) (slot : Nat) (key : BitVec 256) : keyLoaded s (s.loadKey slot key) := by
  have told (l : List (Nat × Port)) (u : State) (h : keyLoaded s u) : keyLoaded s (l.foldl (fun s p => s.sendControl p.1 (leBytes 1 slot)) u) := by
    induction l generalizing u with
    | nil => exact h
    | cons p l ih =>
      have flit : flitsLeft u (u.sendControl p.1 (leBytes 1 slot)) := (flitsLeft_modPort u p.1 _).trans (flitsLeft_flush _ p.1)
      refine ih _ ?_
      have next := keyLoaded_of_flitsLeft flit
      change keyLoaded s (u.sendControl p.1 (leBytes 1 slot))
      rw [keyLoaded] at h next ⊢
      rw [next, h]
  exact told _ _ rfl

theorem keyLoaded_bindPlanKey (s : State) (slot : Nat) (w : PlanWait) : keyLoaded s (s.bindPlanKey slot w) := by
  unfold State.bindPlanKey
  split
  · exact rfl
  · dsimp only
    split
    · exact rfl
    · exact keyLoaded_loadKey s slot _

/-! ### PLAN (R78, R442) -/

section
variable {s : State} {w : PlanWait} {d : Reg} {va : Word}

/-- The signatures that the other members have announced for a plan. -/
def State.otherSigs (s : State) (w : PlanWait) : List PlanSig :=
  s.sigs.filter (fun g => g.part == s.cu.part && g.planId = (BitVec.ofNat 32 (dfld w.desc 0 4) : BitVec 32) && g.rank != pdRank w.desc)

/-- Every other rank has announced a signature. -/
def State.allAnnounced (s : State) (w : PlanWait) : Prop := ∀ q, q < w.members.length → q ≠ pdRank w.desc → ∃ g ∈ s.otherSigs w, g.rank = q

theorem allAnnounced_iff : (List.range w.members.length).all (fun q => q == pdRank w.desc || (s.otherSigs w).any (fun g => g.rank == q)) = true ↔
    s.allAnnounced w := by
  simp only [State.allAnnounced, List.all_eq_true, List.mem_range, Bool.or_eq_true, beq_iff_eq, List.any_eq_true, or_iff_not_imp_left, ne_eq]

theorem near_iff : ¬w.members.any (fun e => s.memberGone e) = true ↔ ∀ e ∈ w.members, s.memberGone e = false := by simp

/-- No member gave up (R79): every signature announced is one. -/
theorem noneGaveUp (there : ∀ g ∈ s.otherSigs w, g.sig ≠ 0) : ¬(s.otherSigs w).any (fun g => g.sig = 0 && !g.reserved) = true := by
  simp only [List.any_eq_true, Bool.and_eq_true, decide_eq_true_eq, not_exists, not_and]
  exact fun g hg zero => absurd zero (there g hg)

theorem allThere (there : ∀ g ∈ s.otherSigs w, g.sig ≠ 0) : ¬(s.otherSigs w).any (fun g => g.sig = 0) = true := by simpa using there

theorem differs_iff : (s.otherSigs w).any (fun g => g.sig ≠ w.sig) = true ↔ ∃ g ∈ s.otherSigs w, g.sig ≠ w.sig := by simp

theorem agree_iff : ¬(s.otherSigs w).any (fun g => g.sig ≠ w.sig) = true ↔ ∀ g ∈ s.otherSigs w, g.sig = w.sig := by simp

section
variable (near : ∀ e ∈ w.members, s.memberGone e = false)
include near

theorem planExchange_mismatch (there : ∀ g ∈ s.otherSigs w, g.sig ≠ 0) (other : ∃ g ∈ s.otherSigs w, g.sig ≠ w.sig) :
    s.planExchange d va w = .trap (planTrap plMISMATCH va) (s.planForget (BitVec.ofNat 32 (dfld w.desc 0 4))) :=
  (if_neg (near_iff.2 near)).trans <| (if_neg (noneGaveUp there)).trans <| (if_neg (allThere there)).trans <| if_pos (differs_iff.2 other)

variable (sig : w.sig ≠ 0) (same : ∀ g ∈ s.otherSigs w, g.sig = w.sig)
include sig same

theorem planExchange_waits (missing : ¬s.allAnnounced w) : s.planExchange d va w = .wait .plan s :=
  have there (g : PlanSig) (hg : g ∈ s.otherSigs w) : g.sig ≠ 0 := same g hg ▸ sig
  (if_neg (near_iff.2 near)).trans <| (if_neg (noneGaveUp there)).trans <| (if_neg (allThere there)).trans <| (if_neg (agree_iff.2 same)).trans <|
    if_pos (by rw [Bool.not_eq_true', ← Bool.not_eq_true]; exact allAnnounced_iff.not.2 missing)

variable (all : s.allAnnounced w)
include all

theorem planExchange_reserves (first : w.reserve = none) {rs : List (Nat × Nat)} {slot : Nat}
    (fits : s.planReserve w.desc w.members w.table = some rs) (found : s.planSlot w (s.otherSigs w) = some slot)
    (free : s.slotTaken slot (BitVec.ofNat 32 (dfld w.desc 0 4)) = false) :
    s.planExchange d va w = .wait .plan ((s.sendSigs w w.sig true).modRe (fun x => { x with planWait := some { w with reserve := some (rs, slot) } })) := by
  have there (g : PlanSig) (hg : g ∈ s.otherSigs w) : g.sig ≠ 0 := same g hg ▸ sig
  have chosen : (s.planSlot w (s.otherSigs w)).filter (fun k => !s.slotTaken k (BitVec.ofNat 32 (dfld w.desc 0 4))) = some slot := by
    rw [found, Option.filter_some, free]; rfl
  refine (if_neg (near_iff.2 near)).trans <| (if_neg (noneGaveUp there)).trans <| (if_neg (allThere there)).trans <|
    (if_neg (agree_iff.2 same)).trans <| (if_neg ?_).trans ?_
  · rw [Bool.not_eq_true', Bool.not_eq_false]
    exact allAnnounced_iff.2 all
  · rw [State.otherSigs] at chosen
    rw [first]
    dsimp only
    rw [fits, chosen]

theorem planExchange_posts {rs : List (Nat × Nat)} {slot h : Nat} (second : w.reserve = some (rs, slot))
    (reserved : ∀ g ∈ s.otherSigs w, g.reserved = true) (handle : s.freeHandle s.cu.part = some h) :
    s.planExchange d va w = .go (((State.bindPlanKey { s with plans := s.plans ++ [⟨s.cu.part, h, s.cu.passId, s.uid, s.rIdx, s.cu.asid,
      BitVec.ofNat 32 (dfld w.desc 0 4), w.desc, w.members, w.table, [], [], [], slot, none, rs⟩] } slot w).planForget
        (BitVec.ofNat 32 (dfld w.desc 0 4))).wr d (toW h)) := by
  have there (g : PlanSig) (hg : g ∈ s.otherSigs w) : g.sig ≠ 0 := same g hg ▸ sig
  have agreed : ¬(!(s.otherSigs w).all (fun g => g.reserved)) = true := by simpa using reserved
  refine (if_neg (near_iff.2 near)).trans <| (if_neg (noneGaveUp there)).trans <| (if_neg (allThere there)).trans <|
    (if_neg (agree_iff.2 same)).trans <| (if_neg ?_).trans ?_
  · rw [Bool.not_eq_true', Bool.not_eq_false]
    exact allAnnounced_iff.2 all
  · rw [second]
    refine (if_neg agreed).trans ?_
    rw [handle]
end
end

/-- The lowest handle that no plan of the partition has. -/
theorem freeHandle_eq {s : State} {p h : Nat} (few : h < 4096) (free : ∀ x ∈ s.plans, x.part = p → x.handle ≠ h)
    (before : ∀ j, j < h → ∃ x ∈ s.plans, x.part = p ∧ x.handle = j) : s.freeHandle p = some h := by
  rw [State.freeHandle, List.find?_range_eq_some]
  refine ⟨?_, List.mem_range.2 few, fun j hj => ?_⟩
  · simpa using free
  · simpa using before j hj

/-! ### A plan among the package's plans -/

/-- Is this the plan that a handle names in a partition? -/
def Plan.named (p h : Nat) (x : Plan) : Bool := x.part == p && x.handle == h

theorem planAt_eq (s : State) (p h : Nat) : s.planAt p h = s.plans.find? (Plan.named p h) := rfl
theorem planOf_eq (s : State) (h : Nat) : planOf s h = s.planAt s.cu.part h := rfl

theorem named_of_planAt {s : State} {p h : Nat} {x : Plan} (at' : s.planAt p h = some x) : x.part = p ∧ x.handle = h := by
  have named := List.find?_some at'
  simpa using named

/-- A change of the named plans that keeps their names is found under the same handle. -/
theorem planAt_modPlan {s : State} {p h : Nat} {x : Plan} (at' : s.planAt p h = some x) {f : Plan → Plan}
    (named : ∀ y, Plan.named p h (f y) = Plan.named p h y) : (s.modPlan p h f).planAt p h = some (f x) := by
  have keeps : (Plan.named p h ∘ fun y => if Plan.named p h y then f y else y) = Plan.named p h := by
    funext y
    rw [Function.comp]
    split
    · exact named y
    · rfl
  rw [planAt_eq, State.modPlan]
  change List.find? _ (List.map (fun y => if Plan.named p h y then f y else y) s.plans) = _
  rw [List.find?_map, keeps, ← planAt_eq, at', Option.map_some, if_pos (show Plan.named p h x = true from List.find?_some at')]

theorem named_modTile (p h t : Nat) (f : Tile → Tile) (y : Plan) : Plan.named p h (y.modTile t f) = Plan.named p h y := rfl

theorem pdTiles_eq {d : Desc} (h : 0 < dfld d 20 4) : pdTiles d = tilesOf d := by
  rw [pdTiles, ceilDiv, tilesOf, pdTile, pdCount]
  rw [if_neg (Nat.pos_iff_ne_zero.1 h)]

theorem fireTile_eq (s : State) (h t : Nat) : s.fireTile s.cu.part h t = { s with plans := plansWith s h (fun x => flagged x t) } := by
  simp only [State.fireTile, State.modPlan, plansWith, Bool.and_eq_true, beq_iff_eq]
  rfl

/-! ### CFIRE: the ready flags of a range of tiles (R81, R443) -/

/-- One tile of a trigger: a flag that is set already is counted. -/
def State.triggerTile (p h : Nat) (s : State) (t : Nat) : State :=
  match s.planAt p h with
  | some y => if (y.tile t).flag then s.count tmTrigger else s.fireTile p h t
  | none => s

/-- From `s` to `t` only plans changed and telemetry was counted. -/
def firedFrom (s t : State) : Prop := t = { s with plans := t.plans, telemetry := t.telemetry }

/-- Tiles of a plan in which the flags of `l` are set. -/
def flagsSet (l : List Nat) (x y : Plan) : Prop :=
  y = { x with tiles := y.tiles } ∧ ∀ j, KMap.get Tile.idle y.tiles j =
    { KMap.get Tile.idle x.tiles j with flag := (KMap.get Tile.idle x.tiles j).flag || decide (j ∈ l) }

theorem triggerTile_flags {s : State} {p h : Nat} {x : Plan} (at' : s.planAt p h = some x) (t : Nat) :
    firedFrom s (s.triggerTile p h t) ∧ ∃ y, (s.triggerTile p h t).planAt p h = some y ∧ flagsSet [t] x y := by
  rw [State.triggerTile, at']
  dsimp only
  split
  · next set =>
    refine ⟨rfl, x, at', rfl, fun j => ?_⟩
    by_cases here : j = t
    · subst here
      rw [show (KMap.get Tile.idle x.tiles j).flag = true from set, Bool.true_or]
      exact congrArg (fun b => { KMap.get Tile.idle x.tiles j with flag := b }) set
    · simp [here]
  · refine ⟨rfl, _, planAt_modPlan at' (named_modTile p h t _), rfl, fun j => ?_⟩
    by_cases here : j = t
    · subst here; simp [Plan.modTile]
    · rw [Plan.modTile, KMap.get_upd_ne _ _ _ here]; simp [here]

theorem triggerTile_foldl {p h : Nat} (l : List Nat) {s : State} {x : Plan} (at' : s.planAt p h = some x) :
    firedFrom s (l.foldl (State.triggerTile p h) s) ∧ ∃ y, (l.foldl (State.triggerTile p h) s).planAt p h = some y ∧ flagsSet l x y := by
  induction l generalizing s x with
  | nil => exact ⟨rfl, x, at', rfl, fun j => by simp⟩
  | cons t l ih =>
    obtain ⟨frame, y, found, same, flags⟩ := triggerTile_flags at' t
    obtain ⟨frame', z, found', same', flags'⟩ := ih found
    refine ⟨?_, z, found', ?_, fun j => ?_⟩
    · rw [firedFrom] at frame frame' ⊢
      rw [List.foldl_cons, frame', frame]
    · rw [same', same]
    · simp only [flags', flags, List.mem_cons, List.not_mem_nil, or_false, Bool.decide_or, Bool.or_assoc]

theorem trigger_eq {s : State} {p h : Nat} {x : Plan} {w : Word} (handle : w.toNat % 2 ^ 12 = h) (at' : s.planAt p h = some x) (runs : s.planRuns x = true)
    (zero : w.toNat / 2 ^ 12 % 16 = 0) (top : w.toNat / 2 ^ 48 = 0) (order : w.toNat / 2 ^ 16 % 2 ^ 16 ≤ w.toNat / 2 ^ 32 % 2 ^ 16)
    (tiles : w.toNat / 2 ^ 32 % 2 ^ 16 < pdTiles x.desc) :
    s.trigger p w = ((List.range (w.toNat / 2 ^ 32 % 2 ^ 16 + 1 - w.toNat / 2 ^ 16 % 2 ^ 16)).map (w.toNat / 2 ^ 16 % 2 ^ 16 + ·)).foldl
      (State.triggerTile p h) s := by
  have fields : fld w.toNat 0 12 = h ∧ fld w.toNat 12 4 = 0 ∧ fld w.toNat 48 16 = 0 ∧ fld w.toNat 16 16 = w.toNat / 2 ^ 16 % 2 ^ 16 ∧
      fld w.toNat 32 16 = w.toNat / 2 ^ 32 % 2 ^ 16 := by
    simp only [fld, Nat.shiftRight_eq_div_pow, top]
    exact ⟨by rw [Nat.pow_zero, Nat.div_one]; exact handle, zero, Nat.zero_mod _, trivial, trivial⟩
  obtain ⟨f0, f12, f48, f16, f32⟩ := fields
  unfold State.trigger
  dsimp only
  rw [f0, f12, f48, f16, f32, at']
  dsimp only
  rw [if_neg (by simpa [runs] using ⟨order, tiles⟩)]
  rw [List.foldl_map]
  rfl

/-! ### The words -/

section
variable {s : State} {r : Nat} {d a b : Reg} (w : s.who = .reeve r) (h : s.ready [d, a, b] [a, b] = true)

include w in
/-- Every collective word of a revoked partition traps before anything else (R93, R441). -/
theorem exec_revoked {i : Instr} {l : List Reg × List Reg} (word : collective i = some l) (ready : s.ready l.1 l.2 = true)
    (revoked : (s.partOf s.cu.part).st = .revoked) : exec i s = .next (s.dropReplies.takeTrap (tr 0x0E 0 0)) := by
  have revoked : s.isRevoked = true := by rw [State.isRevoked, revoked]; rfl
  unfold collective at word
  split at word
  case h_9 => exact nomatch word
  all_goals obtain rfl := Option.some.inj word
  · change execPlan _ _ s = finish (.trap revokedTrap s)
    exact perform_on_reeve w ready rfl (.inl rfl) (if_pos revoked)
  · change execAgset _ _ s = finish (.trap revokedTrap s)
    exact perform_on_reeve w ready rfl (.inl rfl) (if_pos revoked)
  · change execAgsetSh _ _ s = finish (.trap revokedTrap s)
    exact perform_on_reeve w ready rfl (.inl rfl) (if_pos revoked)
  · change execPlfree _ s = finish (.trap revokedTrap s)
    exact perform_on_reeve w ready rfl (.inl rfl) (if_pos revoked)
  · change execCfire _ s = finish (.trap revokedTrap s)
    exact perform_on_reeve w ready rfl (.inl rfl) (if_pos revoked)
  · change execCrdy _ _ s = finish (.trap revokedTrap s)
    exact perform_on_reeve w ready rfl (.inl rfl) (if_pos revoked)
  · change execMldr _ _ _ _ _ _ _ _ s = finish (.trap revokedTrap s)
    exact perform_on_reeve w ready rfl (.inl rfl) (if_pos revoked)
  · change execMstb _ _ _ _ _ _ _ s = finish (.trap revokedTrap s)
    exact perform_on_reeve w ready rfl (.inl rfl) (if_pos revoked)

variable (live : (s.partOf s.cu.part).st ≠ .revoked)

include w h live in
theorem exec_plan_again {p : PlanWait} (wait : s.re.planWait = some p) : exec (.plan d a) s = finish (s.planExchange d (s.rd a) p) := by
  change execPlan d a s = _
  refine perform_on_reeve w h rfl (.inl rfl) ?_
  dsimp only
  rw [if_neg (isRevoked_eq_false live), wait]

include w h live in
theorem exec_plan_misaligned (first : s.re.planWait = none) (bad : (s.rd a).toNat % 64 ≠ 0) :
    exec (.plan d a) s = .next (s.dropReplies.takeTrap (tr 0x05 0 (s.rd a))) := by
  change execPlan d a s = finish (.trap (tr 0x05 0 (s.rd a)) s)
  refine perform_on_reeve w h rfl (.inl rfl) ?_
  dsimp only
  rw [if_neg (isRevoked_eq_false live), first]
  exact if_pos bad

include w h live in
theorem exec_plfree : exec (.plfree a) s = finish
    (if 0x1000 ≤ handle16 (s.rd a) then
      if (groupAt s (handle16 (s.rd a))).isNone then .trap (planTrap plFREED (toW (handle16 (s.rd a)))) s
      else .go (s.modRe (fun x => { x with groups := KMap.set none x.groups (handle16 (s.rd a) - 0x1000) none }))
    else match planOf s (handle16 (s.rd a)) with
      | none => .trap (planTrap plFREED (toW (handle16 (s.rd a)))) s
      | some p => match p.failed with
        | some f => if f.toNat == plFREED || f.toNat == plABSENT || f.toNat == plSXTYPE then .go (s.dropPlan p)
            else .trap (planTrap f.toNat (toW (handle16 (s.rd a)))) s
        | none => if p.busy then .wait .plan s else .go (s.dropPlan p)) := by
  change execPlfree a s = _
  refine perform_on_reeve w h rfl (.inl rfl) ?_
  dsimp only
  rw [if_neg (isRevoked_eq_false live), handleOf_eq, groupOf_eq] <;> rfl

include w h live in
theorem exec_plfree_group {g : Group} (at' : groupAt s (handle16 (s.rd a)) = some g) : exec (.plfree a) s = .next
    ((s.modRe (fun x => { x with groups := KMap.set none x.groups (handle16 (s.rd a) - 0x1000) none })).ran (s.pc + 8)) := by
  have high : 0x1000 ≤ handle16 (s.rd a) := by
    by_contra low
    rw [groupAt, if_neg fun h => low h.1] at at'
    exact nomatch at'
  rw [exec_plfree w h live, if_pos high, at', if_neg (show ¬(some g).isNone = true from Bool.false_ne_true)]
  exact finish_go (pc_modRe s)

include w h live in
theorem exec_plfree_unnamed
    (none : 0x1000 ≤ handle16 (s.rd a) ∧ groupAt s (handle16 (s.rd a)) = none ∨ handle16 (s.rd a) < 0x1000 ∧ planOf s (handle16 (s.rd a)) = none) :
    exec (.plfree a) s = .next (s.dropReplies.takeTrap (planFault 6 (BitVec.ofNat 64 (handle16 (s.rd a))))) := by
  rw [exec_plfree w h live]
  obtain ⟨high, none⟩ | ⟨low, none⟩ := none
  · rw [if_pos high, none, if_pos Option.isNone_none]
    rfl
  · rw [if_neg (Nat.not_le.2 low), none]
    rfl

include w h live in
theorem exec_plfree_plan {p : Plan} (low : handle16 (s.rd a) < 0x1000) (at' : planOf s (handle16 (s.rd a)) = some p) :
    exec (.plfree a) s = finish (match p.failed with
      | some f => if f.toNat == plFREED || f.toNat == plABSENT || f.toNat == plSXTYPE then .go (s.dropPlan p)
          else .trap (planTrap f.toNat (toW (handle16 (s.rd a)))) s
      | none => if p.busy then .wait .plan s else .go (s.dropPlan p)) := by
  rw [exec_plfree w h live, if_neg (Nat.not_le.2 low), at']

include w h live in
theorem exec_crdy : exec (.crdy a b) s = finish
    (match (if handle16 (s.rd a) < 0x1000 then planOf s (handle16 (s.rd a)) else none) with
      | none => .trap (planTrap plFREED (toW (handle16 (s.rd a)))) s
      | some p => match p.failed with
        | some f => .trap (planTrap f.toNat (toW (handle16 (s.rd a)))) s
        | none =>
          if pdTiles p.desc ≤ (s.rd b).toNat then .trap (planTrap plBADDESC (toW (handle16 (s.rd a)))) s
          else match s.ackGate (ackNeed 4 0) with
            | some w => w.eff fun _ s => .go s
            | none => if (p.tile (s.rd b).toNat).flag then .wait .plan s else .go (s.fireTile p.part (handle16 (s.rd a)) (s.rd b).toNat)) := by
  change execCrdy a b s = _
  refine perform_on_reeve w h rfl (.inl rfl) ?_
  dsimp only
  rw [if_neg (isRevoked_eq_false live), handleOf_eq] <;> rfl

include w h live in
theorem exec_crdy_unnamed (none : 0x1000 ≤ handle16 (s.rd a) ∨ planOf s (handle16 (s.rd a)) = none) :
    exec (.crdy a b) s = .next (s.dropReplies.takeTrap (planFault 6 (BitVec.ofNat 64 (handle16 (s.rd a))))) := by
  have none : (if handle16 (s.rd a) < 0x1000 then planOf s (handle16 (s.rd a)) else Option.none) = Option.none := by
    obtain high | none := none
    · exact if_neg (Nat.not_lt.2 high)
    · rw [none, ite_self]
  rw [exec_crdy w h live, none]
  rfl

include w h live in
theorem exec_crdy_plan {p : Plan} (low : handle16 (s.rd a) < 0x1000) (at' : planOf s (handle16 (s.rd a)) = some p) (runs : p.failed = none)
    (tiled : 0 < dfld p.desc 20 4) : exec (.crdy a b) s = finish
      (if tilesOf p.desc ≤ (s.rd b).toNat then .trap (planTrap plBADDESC (toW (handle16 (s.rd a)))) s
      else match s.ackGate (ackNeed 4 0) with
        | some w => w.eff fun _ s => .go s
        | none => if (KMap.get Tile.idle p.tiles (s.rd b).toNat).flag then .wait .plan s
            else .go { s with plans := plansWith s (handle16 (s.rd a)) (fun x => flagged x (s.rd b).toNat) }) := by
  rw [exec_crdy w h live, if_pos low, at']
  dsimp only
  rw [runs, pdTiles_eq tiled, (named_of_planAt at').1, fireTile_eq] <;> rfl

include w h live in
theorem exec_cfire {p : Plan} (at' : planOf s ((s.rd a).toNat % 2 ^ 12) = some p) (runs : p.failed = none) (gate : s.ackGate (ackNeed 4 0) = none) :
    exec (.cfire a) s = finish (.go (s.trigger s.cu.part (s.rd a))) := by
  change execCfire a s = _
  refine perform_on_reeve w h rfl (.inl rfl) ?_
  have field : fld (s.rd a).toNat 0 12 = (s.rd a).toNat % 2 ^ 12 := by rw [fld, Nat.shiftRight_zero]
  dsimp only
  rw [planOf_eq] at at'
  rw [if_neg (isRevoked_eq_false live), field, at']
  dsimp only
  rw [runs, gate, (named_of_planAt at').1]

include w h live in
/-- CFIRE sets the flags of the tiles that its word names, and of no others. -/
theorem exec_cfire_fires {p : Plan} (at' : planOf s ((s.rd a).toNat % 2 ^ 12) = some p) (runs : p.failed = none)
    (zero : (s.rd a).toNat / 2 ^ 12 % 16 = 0) (top : (s.rd a).toNat / 2 ^ 48 = 0)
    (order : (s.rd a).toNat / 2 ^ 16 % 2 ^ 16 ≤ (s.rd a).toNat / 2 ^ 32 % 2 ^ 16) (tiled : 0 < dfld p.desc 20 4)
    (tiles : (s.rd a).toNat / 2 ^ 32 % 2 ^ 16 < tilesOf p.desc) (gate : s.ackGate (ackNeed 4 0) = none) :
    ∃ t, exec (.cfire a) s = .next t ∧ t.pc = s.pc + 8 ∧ (∀ q, t.rd q = s.rd q) ∧ t.hbm = s.hbm ∧
      ∃ p', planOf t ((s.rd a).toNat % 2 ^ 12) = some p' ∧ p' = { p with tiles := p'.tiles } ∧ ∀ j, KMap.get Tile.idle p'.tiles j =
        { KMap.get Tile.idle p.tiles j with flag := (KMap.get Tile.idle p.tiles j).flag ||
          (decide ((s.rd a).toNat / 2 ^ 16 % 2 ^ 16 ≤ j) && decide (j ≤ (s.rd a).toNat / 2 ^ 32 % 2 ^ 16)) } := by
  have fired := exec_cfire w h live at' runs gate
  have going : s.planRuns p = true := by
    rw [State.planRuns, runs, (named_of_planAt at').1]
    simpa using live
  rw [trigger_eq rfl at' going zero top order (by rw [pdTiles_eq tiled]; exact tiles)] at fired
  generalize (s.rd a).toNat / 2 ^ 16 % 2 ^ 16 = lo, (s.rd a).toNat / 2 ^ 32 % 2 ^ 16 = hi at *
  obtain ⟨frame, y, found, same, flags⟩ := triggerTile_foldl ((List.range (hi + 1 - lo)).map (lo + ·)) at'
  generalize ((List.range (hi + 1 - lo)).map (lo + ·)).foldl (State.triggerTile s.cu.part ((s.rd a).toNat % 2 ^ 12)) s = u at *
  have who : u.who = .reeve r := by rw [frame]; exact w
  have part : u.cu.part = s.cu.part := by rw [frame]; rfl
  obtain ⟨_, _, out⟩ := ran_frame who (s.pc + 8)
  refine ⟨u.ran (s.pc + 8), fired.trans (finish_go (by rw [frame]; rfl)), pc_ran who _, fun q => ?_, by rw [out, frame], y, ?_, same, fun j => ?_⟩
  · rw [rd_ran who, frame]
    rfl
  · rw [planOf_eq, part_ran who, part, planAt_eq, ← found, planAt_eq, out]
  · have range : j ∈ (List.range (hi + 1 - lo)).map (lo + ·) ↔ lo ≤ j ∧ j ≤ hi := by
      simp only [List.mem_map, List.mem_range]
      exact ⟨fun ⟨i, lt, sum⟩ => by omega, fun ⟨low, high⟩ => ⟨j - lo, by omega, by omega⟩⟩
    rw [flags, decide_eq_decide.2 range, Bool.decide_and]
end

/-! ### What each word does -/

theorem planForget_eq (s : State) (id : BitVec 32) : s.planForget id =
    State.modRe { s with sigs := s.sigs.filter (fun g => !(g.part == s.cu.part && g.planId = id)) } (fun x => { x with planWait := none }) := rfl

section
variable {s : State} {r : Nat} {d a b : Reg} (w : s.who = .reeve r)
include w

/-- PLAN's first pass: the reservation is kept while the members are told (R78). -/
theorem planAnnounced {p : PlanWait} {sig : BitVec 256} {reserved : Bool} {q : PlanWait} {t : State}
    (ends : t = ((s.sendSigs p sig reserved).modRe (fun x => { x with planWait := some q })).markWait .plan) :
    t.pc = s.pc ∧ t.re.planWait = some q ∧ t.plans = s.plans ∧ t.hbm = s.hbm ∧ t.keys = s.keys := by
  have told : announced s (s.sendSigs p sig reserved) := announced_sendSigs s p sig reserved
  have who : (s.sendSigs p sig reserved).who = .reeve r := by rw [told]; exact w
  have marked : t = ((s.sendSigs p sig reserved).modRe (fun x => { x with planWait := some q })).modRe (fun x => { x with wait := some .plan }) := by
    rw [ends, State.markWait, State.modRe_who, who]
  rw [marked]
  refine ⟨(pc_modRe _).trans ((pc_modRe _).trans (by rw [told]; rfl)), by rw [State.re_modRe, State.re_modRe], ?_, ?_, ?_⟩
  · exact (by rw [told] : (s.sendSigs p sig reserved).plans = s.plans)
  · exact (by rw [told] : (s.sendSigs p sig reserved).hbm = s.hbm)
  · exact (by rw [told] : (s.sendSigs p sig reserved).keys = s.keys)

/-- PLAN's last pass: the plan is posted, its key is bound and its handle answered (R78, R129). -/
theorem planPosted {p : PlanWait} {slot : Nat} {x : Plan} {id : BitVec 32} {v : Word} {u : State}
    (ends : u = (State.bindPlanKey { s with plans := s.plans ++ [x] } slot p).planForget id) :
    finish (.go (u.wr d v)) = .next ((u.wr d v).ran (s.pc + 8)) ∧ ((u.wr d v).ran (s.pc + 8)).rd d = s.written d v ∧
    ((u.wr d v).ran (s.pc + 8)).pc = s.pc + 8 ∧ ((u.wr d v).ran (s.pc + 8)).re.planWait = none ∧
    ((u.wr d v).ran (s.pc + 8)).sigs = s.sigs.filter (fun g => !(g.part == s.cu.part && g.planId = id)) ∧
    ((u.wr d v).ran (s.pc + 8)).plans = s.plans ++ [x] ∧ ((u.wr d v).ran (s.pc + 8)).hbm = s.hbm ∧
    (∀ q, q ≠ d → ((u.wr d v).ran (s.pc + 8)).rd q = s.rd q) ∧ (s.enclaveOf s.cu.part = none → ((u.wr d v).ran (s.pc + 8)).keys = s.keys) := by
  have bound := keyLoaded_bindPlanKey { s with plans := s.plans ++ [x] } slot p
  have unkeyed (none : s.enclaveOf s.cu.part = none) :
      State.bindPlanKey { s with plans := s.plans ++ [x] } slot p = { s with plans := s.plans ++ [x] } := by
    have none : State.enclaveOf { s with plans := s.plans ++ [x] } s.cu.part = Option.none := none
    exact (by rw [State.bindPlanKey]; simp only [State.cu, State.unitOf] at none ⊢; rw [none])
  generalize State.bindPlanKey { s with plans := s.plans ++ [x] } slot p = k at *
  have who : u.who = .reeve r := by rw [ends, planForget_eq, State.modRe_who, bound]; exact w
  have wrote : (u.wr d v).who = .reeve r := by obtain ⟨_, _, h⟩ := wr_frame u d v; rw [h]; exact who
  have pc : u.pc = s.pc := by rw [ends, planForget_eq, pc_modRe, bound]; rfl
  have regs (q : Reg) : u.rd q = s.rd q := by
    rw [ends, planForget_eq]
    exact (rd_modRe (r := r) (by rw [bound]; exact w) (q := q)).trans (by rw [bound]; rfl)
  have sigs : u.sigs = s.sigs.filter (fun g => !(g.part == s.cu.part && g.planId = id)) := by
    have part : k.cu.part = s.cu.part := by rw [bound]; rfl
    have kept : k.sigs = s.sigs := by rw [bound]
    rw [ends, ← kept, ← part]
    rfl
  have plans : u.plans = s.plans ++ [x] := by rw [ends]; exact (by rw [bound] : k.plans = s.plans ++ [x])
  have hbm : u.hbm = s.hbm := by rw [ends]; exact (by rw [bound] : k.hbm = s.hbm)
  obtain ⟨_, _, out⟩ := ran_frame wrote (s.pc + 8)
  obtain ⟨_, _, own⟩ := wr_frame u d v
  refine ⟨finish_wr pc d v, ?_, pc_ran wrote _, ?_, ?_, ?_, ?_, fun q other => ?_, fun none => ?_⟩
  · rw [rd_ran wrote, State.rd_wr u (agentOk_reeve who), if_pos rfl, State.written, who, State.written, w]
  · rw [re_ran wrote]
    exact (planWait_wr who d v).trans (by rw [ends, planForget_eq, State.re_modRe])
  · rw [← sigs, out, own]
  · rw [← plans, out, own]
  · rw [← hbm, out, own]
  · rw [rd_ran wrote, State.rd_wr u (agentOk_reeve who), if_neg other, regs]
  · have keys : u.keys = s.keys := by rw [ends]; exact (by rw [unkeyed none] : k.keys = s.keys)
    rw [← keys, out, own]
end

section
variable {s : State} {h : Nat} {p : Plan}

theorem dropPlan_eq (at' : planOf s h = some p) : s.dropPlan p =
    (let gone : State := { s with plans := s.plans.filter (fun x => !(x.part == s.cu.part && x.handle == h)) }
     if gone.plans.any (fun x => x.keySlot == p.keySlot) then gone else gone.zeroise p.keySlot) := by
  obtain ⟨part, handle⟩ := named_of_planAt at'
  rw [State.dropPlan, part, handle]
  rfl

theorem pc_dropPlan : (s.dropPlan p).pc = s.pc := by
  have frame : ∃ x y z, s.dropPlan p = { s with plans := x, keys := y, ports := z } := by
    unfold State.dropPlan State.dropPlanKey
    dsimp only
    split
    · exact ⟨_, _, _, rfl⟩
    · exact ⟨_, _, _, zeroise_frame _ _⟩
  obtain ⟨x, y, z, frame⟩ := frame
  rw [frame]
  rfl

theorem busy_iff (runs : p.failed = none) : p.busy = true ↔ ∃ t ∈ p.tiles, t.2.running = true := by
  rw [Plan.busy, runs]
  simp

theorem freesFailed_iff (f : BitVec 16) : (f.toNat == plFREED || f.toNat == plABSENT || f.toNat == plSXTYPE) = true ↔ f.toNat ∈ [5, 6, 7] := by
  simp only [plFREED, plABSENT, plSXTYPE, Bool.or_eq_true, beq_iff_eq, List.mem_cons, List.not_mem_nil, or_false]
  omega
end

/-- Settles O44: PLAN by what its exchange answers, PLFREE, CRDY and CFIRE by what they do to the plan that their handle names. -/
theorem plansAreSetUpFiredAndFreed : Obligations.PlansAreSetUpFiredAndFreed := by
  intro s r d a b w
  refine ⟨fun i l word _ ready revoked => exec_revoked w word ready revoked, fun ready live => ⟨?_, fun p waits near => ?_, ?_, ?_, ?_⟩⟩
  · exact fun first bad => exec_plan_misaligned w ready live first bad
  · intro id me theirs beyond beyond'
    have again := exec_plan_again w ready live waits
    refine ⟨fun there other => ?_, fun sig same missing => ?_, fun rs slot sig same all first fits found free => ?_,
      fun rs h slot sig both all second few unused before => ?_⟩
    · rw [again, planExchange_mismatch near there other]; rfl
    · have missing : ¬s.allAnnounced p := fun all => by
        obtain ⟨q, lt, other, none⟩ := missing
        obtain ⟨g, hg, rank⟩ := all q lt other
        exact none g hg rank
      rw [again, planExchange_waits near sig same missing]; rfl
    · rw [again, planExchange_reserves near sig same all first fits found free]
      exact ⟨_, rfl, planAnnounced w rfl⟩
    · have same (g : PlanSig) (hg : g ∈ theirs) : g.sig = p.sig := (both g hg).1
      have handle := freeHandle_eq few unused before
      rw [again, planExchange_posts near sig same all second (fun g hg => (both g hg).2) handle]
      have index : s.rIdx = r := by rw [State.rIdx, w]
      obtain ⟨ends, rest⟩ := planPosted (d := d) w (p := p) (slot := slot) (v := toW h) (id := id)
        (x := ⟨s.cu.part, h, s.cu.passId, s.uid, s.rIdx, s.cu.asid, id, p.desc, p.members, p.table, [], [], [], slot, none, rs⟩) rfl
      rw [index] at ends rest
      exact ⟨_, by rw [index]; exact ends, rest⟩
  · intro h here
    subst here
    refine ⟨fun g at' => exec_plfree_group w ready live at', fun none => exec_plfree_unnamed w ready live none, fun p low at' => ?_⟩
    intro gone freed
    have run := exec_plfree_plan w ready live low at'
    have dropped : finish (.go (s.dropPlan p)) = .next (freed.ran (s.pc + 8)) := by rw [finish_go pc_dropPlan, dropPlan_eq at']
    refine ⟨fun runs idle => ?_, fun runs busy => ?_, fun f failed known => ?_, fun f failed other => ?_⟩
    · rw [run, runs]
      exact (congrArg finish (if_neg ((busy_iff runs).not.2 fun ⟨t, ht, running⟩ => Bool.false_ne_true ((idle t ht).symm.trans running)))).trans dropped
    · rw [run, runs]
      exact congrArg finish (if_pos ((busy_iff runs).2 busy))
    · rw [run, failed]
      exact (congrArg finish (if_pos ((freesFailed_iff f).2 known))).trans dropped
    · rw [run, failed]
      exact congrArg finish (if_neg ((freesFailed_iff f).not.2 other))
  · intro h here
    subst here
    refine ⟨fun none => exec_crdy_unnamed w ready live none, fun p low at' runs tiled => ?_⟩
    intro t
    have run := exec_crdy_plan w ready live low at' runs tiled
    refine ⟨fun beyond => run.trans (congrArg finish (if_pos beyond)), fun tile gate => ⟨fun set => ?_, fun clear => ?_⟩⟩
    · rw [run, if_neg (Nat.not_le.2 tile), gate]
      exact congrArg finish (if_pos set)
    · rw [run, if_neg (Nat.not_le.2 tile), gate]
      exact (congrArg finish (if_neg (ne_true_of_eq_false clear))).trans (finish_go rfl)
  · intro p k h lo hi at' runs zero top order tiled tiles gate
    exact exec_cfire_fires w ready live at' runs zero top order tiled tiles gate

end Sys2Proof.Machine
end

section
/-!
PROOFS. The statement on members' and owners' answers fails: where a port is listed twice, the flit that answers a peer replaces the hidden port, and a
reply that was still on its way there no longer holds back the acknowledgement (R65, R91).
-/
namespace Sys2Proof.Machine
open Sys2Proof.Claims
set_option Elab.async false

/-! ### A store acknowledged over a port that is listed twice -/

namespace RepeatedPort

/-- A reply to peer 1 that waits to be sent; it concerns `lines`. -/
def waitingReply (lines : List Nat) : TxFlit :=
  { num := 0, control := false, seq := 0, vc := 1, key := 0, peer := 1, via := .reply 0, lines := lines, plain := [], hdr := 0, wire := [], integrity := 0 }
/-- Partition 0 with symmetric space 0, whose page 0 a cached leaf maps; peer 1 is reached through port 0. Port 0 is listed twice: a look-up finds the
first, where an answer for no line waits, and the reply for line 0 waits at the second. -/
def start : State :=
  { State.reset with
    peer := some 0, routes := [(1, 0xFFFFFF00)], staleTlb := true, tlb := [⟨0, 0, 0, 4096, 1, none⟩],
    parts := [(0, { Partition.off with st := .active, pcsym := 2 ^ 63, dir := [(0, 1)] })],
    ports := [(0, { Port.reset with routed := true, waiting := [waitingReply []] }), (0, { Port.reset with waiting := [waitingReply [0]] })] }

theorem peer_isSome : start.peer.isSome = true := rfl

theorem symReady_start : start.symReady 0 = some 0 := by decide +kernel

theorem symLines_start : start.symLines 0 1 0 = [0] := by decide +kernel

/-- The reply for line 0 is on its way. -/
theorem repliesOut_start : start.repliesOut [0] = [0] := by decide +kernel

/-- A multicast store of no bytes leaves no acknowledgement held back. -/
theorem heldReplies_after {t : State} (h : exec (.mstbArrival 0 1 0 0 1 [] false 0 0) start = .next t) : t.heldReplies = [] := by
  have run : (match execMstbArrival 0 1 0 0 1 [] false 0 0 start with | .next t => t.heldReplies.isEmpty | _ => false) = true := by decide +kernel
  have arm : execMstbArrival 0 1 0 0 1 [] false 0 0 start = .next t := h
  rw [arm] at run
  exact List.isEmpty_iff.1 run

end RepeatedPort

open RepeatedPort in
/-- Refutes O47: the statement does not ask that a state list its ports in the canonical form (`KMap.wf`), and has a member that acknowledges a store hold
the acknowledgement back while an earlier reply for its lines is on its way. In the state of `RepeatedPort` that reply waits at the hidden one of two ports
numbered 0; the message that the store is accepted goes to port 0, which drops the hidden port, and the acknowledgement follows at once. -/
theorem not_membersAndOwnersAnswer : ¬ Obligations.MembersAndOwnersAnswer := by
  unfold Obligations.MembersAndOwnersAnswer
  intro answers
  obtain ⟨-, -, -, stores, -⟩ := answers start 0 1 0 0 1
  obtain ⟨plain, -⟩ := stores 0 [] [] start 0 peer_isSome symReady_start rfl
  obtain ⟨t, run, -, l, -, -, held⟩ := plain 0
  have lines : (start.writePieces [] []).symLines 0 1 ([] : List Byte).length = [0] := symLines_start
  rw [lines] at held
  have out : (start.writePieces [] []).repliesOut [0] ≠ [] := by
    rw [show (start.writePieces [] []).repliesOut [0] = [0] from repliesOut_start]
    exact List.cons_ne_nil _ _
  obtain ⟨r, mem, -⟩ := held out
  rw [heldReplies_after run] at mem
  exact nomatch mem

end Sys2Proof.Machine
end

section
/-!
PROOFS. The rounds of plans (R78-R85): what an access leaves of the package's plans, what a step changes of one plan, and what each event does to it.
-/
namespace Sys2Proof.Machine
open Sys2Proof.Claims
set_option Elab.async false

/-! ### What an access leaves of the plans -/

theorem plans_ite {c : Prop} [Decidable c] {s t u : State} (yes : t.plans = s.plans) (no : u.plans = s.plans) : (if c then t else u).plans = s.plans := by
  split <;> assumption

theorem plans_acc_ite {α : Type} {c : Prop} [Decidable c] {s : State} {x y : Acc α} (yes : x.state.plans = s.plans) (no : y.state.plans = s.plans) :
    (if c then x else y).state.plans = s.plans := by
  split <;> assumption

theorem plans_bind {α β : Type} {s : State} {x : Acc α} {f : α → State → Acc β} (h : x.state.plans = s.plans)
    (next : ∀ a u, (f a u).state.plans = u.plans) : (x.bind f).state.plans = s.plans := by
  cases x with
  | ok a u => exact (next a u).trans h
  | trap t u => exact h
  | wait w u => exact h

theorem plans_hbmStore (s : State) (a : Nat) (l : List Byte) : (s.hbmStore a l).plans = s.plans :=
  plans_ite (plans_ite (t := s.count tmDisp) rfl rfl) rfl

theorem plans_leafRead (s : State) (c : XCtx) (va : Word) : (s.leafRead c va).2.plans = s.plans := by
  have dir (p a : Nat) : (s.cacheDir p a).plans = s.plans := plans_ite rfl rfl
  have walk (l : Option Leaf) : (s.cacheWalk c.part c.asid va l).plans = s.plans := plans_ite (dir _ _) (dir _ _)
  exact plans_ite rfl (walk _)

theorem plans_setAD (s : State) (k : Kind) (l : Leaf) : (s.setAD k l).plans = s.plans := by
  unfold State.setAD
  cases l.entry with
  | none => rfl
  | some a => exact plans_ite rfl rfl

theorem plans_xlate (s : State) (c : XCtx) (k : Kind) (vec : Bool) (va : Word) (n al : Nat) : (s.xlate c k vec va n al).state.plans = s.plans := by
  have read := plans_leafRead s c va
  unfold State.xlate
  refine plans_acc_ite rfl ?_
  generalize s.leafRead c va = found at read ⊢
  obtain ⟨_ | _ | l, u⟩ := found
  · exact read
  · exact read
  · refine Eq.trans (plans_acc_ite rfl (plans_acc_ite rfl (plans_acc_ite rfl ?_))) read
    cases u.target c k vec va n al l with
    | error t => rfl
    | ok x => exact plans_ite (plans_setAD u k l) (plans_setAD u k l)

theorem plans_readVA (s : State) (c : XCtx) (log : List LogEntry) (va : Word) (n : Nat) : (s.readVA c log va n).state.plans = s.plans := by
  refine List.foldlRecOn (motive := fun x : Acc _ => x.state.plans = s.plans) _ _ rfl fun acc h p _ => plans_bind h fun l u =>
    plans_bind (plans_xlate u c _ _ _ _ _) fun x v => ?_
  cases v.readPhys log x p.1 p.2 <;> rfl

/-- A store to device MMIO space waits for the device, or sets the base of a ring (R51, R181). -/
theorem plans_mmioWrite (s : State) (keep : Bool) (f off : Nat) (v : Word) : (s.mmioWrite keep f off v).plans = s.plans :=
  plans_ite rfl (plans_ite rfl (plans_ite rfl (plans_ite rfl (plans_ite (plans_ite (plans_ite rfl rfl) (plans_ite rfl (plans_ite rfl rfl))) rfl))))

theorem plans_writePhys {s t : State} {u : Nat} {r : Option Nat} {keep : Bool} {x : Phys} {va : Word} {l : List Byte}
    (h : s.writePhys u r keep x va l = .ok t) : t.plans = s.plans := by
  cases x with
  | hbm pa sl =>
    cases sl with
    | false =>
      cases h
      exact (plans_hbmStore _ pa l).trans (plans_ite rfl rfl)
    | true =>
      cases r with
      | none => cases h
      | some r =>
        simp only [State.writePhys, if_true] at h
        split at h
        · cases h
        · cases h
          rfl
  | loft v o =>
    cases h
    exact plans_ite rfl rfl
  | cxl pa =>
    simp only [State.writePhys] at h
    split at h
    · cases h
    · cases h
      rfl
  | host pa =>
    cases h
    rfl
  | mmio f o =>
    simp only [State.writePhys] at h
    split at h
    · cases h
    · cases h
      exact plans_mmioWrite s keep f o _
  | peer => cases h
  | shard => cases h

theorem plans_writeVA (s : State) (c : XCtx) (u : Nat) (r : Option Nat) (va : Word) (l : List Byte) : (s.writeVA c u r va l).state.plans = s.plans := by
  refine List.foldlRecOn (motive := fun x : Acc _ => x.state.plans = s.plans) _ _ rfl fun acc h p _ => plans_bind h fun _ v =>
    plans_bind (plans_xlate v c _ _ _ _ _) fun y w => ?_
  split
  · rfl
  · next done => exact plans_writePhys done

theorem plans_admits (s : State) (pa peer part perm : Nat) : (s.admits pa peer part perm).2.plans = s.plans := by
  unfold State.admits
  cases s.homePart pa with
  | none => rfl
  | some h =>
    have read := plans_readVA s ⟨h, fld (s.partOf h).pcexpc.toNat 0 16, true, none⟩ [] (s.partOf h).pcexpb
      (16 * (if fld (s.partOf h).pcexpc.toNat 16 9 < 256 then fld (s.partOf h).pcexpc.toNat 16 9 else 256))
    dsimp only
    split
    · rfl
    · split
      · rfl
      · generalize s.readVA _ _ _ _ = x at read ⊢
        cases x <;> exact read

theorem plans_symAddr (s : State) (p asid : Nat) (k : Kind) (va : Word) (peer rpart perm : Nat) :
    (s.symAddr p asid k va peer rpart perm).2.plans = s.plans := by
  have read := plans_leafRead s ⟨p, asid, true, none⟩ va
  unfold State.symAddr
  split
  · rfl
  · generalize s.leafRead ⟨p, asid, true, none⟩ va = found at read ⊢
    obtain ⟨_ | _ | l, u⟩ := found
    · exact read
    · exact read
    · dsimp only
      split
      · exact read
      · exact ((plans_admits _ _ _ _ _).trans (plans_setAD u k l)).trans read

theorem plans_symRange (s : State) (p asid : Nat) (k : Kind) (va : Word) (n peer rpart perm : Nat) :
    (s.symRange p asid k va n peer rpart perm).2.plans = s.plans := by
  refine foldl_keeps (fun acc : Except Home (List (Nat × Nat)) × State => acc.2.plans) (fun acc c => ?_) (chunks va n) (Except.ok [], s)
  have place := plans_symAddr acc.2 p asid k c.1 peer rpart perm
  cases acc.1 with
  | error e => rfl
  | ok l =>
    generalize acc.2.symAddr p asid k c.1 peer rpart perm = found at place ⊢
    obtain ⟨_ | _ | _ | pa, u⟩ := found <;> exact place

theorem plans_writePieces (l : List (Nat × Nat)) (s : State) (b : List Byte) : (s.writePieces l b).plans = s.plans := by
  induction l generalizing s b with
  | nil => rfl
  | cons c l ih => exact (ih _ _).trans (plans_hbmStore s _ _)

/-! ### What a step keeps of every plan -/

/-- A plan without what its rounds change: tiles, contributions and failure. -/
def Plan.fixed (x : Plan) : Plan := { x with tiles := [], arrived := [], heldC := [], failed := none }

/-- From `s` to `t` the package's plans are the same, but for what their rounds change. -/
def samePlans (s t : State) : Prop := t.plans.map Plan.fixed = s.plans.map Plan.fixed

theorem samePlans.of_eq {s t : State} (h : t.plans = s.plans) : samePlans s t := congrArg (List.map Plan.fixed) h
theorem samePlans.trans {s t u : State} (h : samePlans s t) (g : samePlans t u) : samePlans s u := Eq.trans g h

theorem samePlans_modPlan (s : State) (p h : Nat) {f : Plan → Plan} (fixed : ∀ y, (f y).fixed = y.fixed := by intro; rfl) :
    samePlans s (s.modPlan p h f) := by
  rw [samePlans, State.modPlan, List.map_map]
  refine List.map_congr_left fun y _ => ?_
  rw [Function.comp]
  split
  · exact fixed y
  · rfl

theorem named_fixed (p h : Nat) (x : Plan) : Plan.named p h x.fixed = Plan.named p h x := rfl

/-- The plan that a handle names stays the same but for its rounds. -/
theorem samePlans.planAt {s t : State} (same : samePlans s t) (p h : Nat) : (t.planAt p h).map Plan.fixed = (s.planAt p h).map Plan.fixed := by
  have found (u : State) : (u.planAt p h).map Plan.fixed = (u.plans.map Plan.fixed).find? (Plan.named p h) := by
    rw [List.find?_map, planAt_eq]
    rfl
  rw [found, found, same]

/-! ### The addresses and lists of a plan (R77, R80) -/

theorem pdLen_eq (d : Desc) (t : Nat) : pdLen d t = elems d t := by
  rw [pdLen, elems, pdCount, pdTile, Nat.add_mul, Nat.one_mul]
  split <;> omega

theorem pdDst_eq (d : Desc) (t : Nat) : pdDst d t = resultAt d t := (BitVec.ofNat_add _ _).symm
theorem pdSrc_eq (d : Desc) (t : Nat) : pdSrc d t = sourceAt d t := (BitVec.ofNat_add _ _).symm
theorem foldSlot_eq (x : Plan) (e : BitVec 128) (q : Nat) : foldSlot x.desc e q = stagingAt x e q := (BitVec.ofNat_add _ _).symm
theorem pdRank_eq (d : Desc) : pdRank d = dfld d 14 2 := rfl
theorem pdTl_eq (d : Desc) : pdTl d = dfld d 13 1 % 16 := by rw [pdTl, fld, Nat.shiftRight_zero]; rfl

theorem teRanks_eq (e : BitVec 128) : teRanks e =
    (List.range (dfld e 0 4 / 2 ^ 10 % 2 ^ 11)).map (fun j => dfld e 0 4 % 2 ^ 10 + j * (dfld e 0 4 / 2 ^ 21 % 2 ^ 10)) := by
  simp only [teRanks, fld, Nat.shiftRight_eq_div_pow, Nat.pow_zero, Nat.div_one]

/-! ### One tile changed (R81, R82) -/

/-- Of two writes to one key the second stays, canonical form or not. -/
theorem set_set {α : Type} [DecidableEq α] (d : α) (m : KMap α) (k : Nat) (v w : α) : KMap.set d (KMap.set d m k v) k w = KMap.set d m k w := by
  have beyond (t : KMap α) : KMap.set d (t.dropWhile (fun p => decide (p.1 ≤ k))) k w =
      if w = d then t.dropWhile (fun p => decide (p.1 ≤ k)) else (k, w) :: t.dropWhile (fun p => decide (p.1 ≤ k)) := by
    cases h : t.dropWhile (fun p => decide (p.1 ≤ k)) with
    | nil => rfl
    | cons q r =>
      have above := List.head_dropWhile_not (fun p : Nat × α => decide (p.1 ≤ k)) (l := t) (by rw [h]; exact List.cons_ne_nil _ _)
      simp only [h, List.head_cons, decide_eq_false_iff_not, Nat.not_le] at above
      rw [KMap.set, if_pos above]
  induction m with
  | nil => by_cases hv : v = d <;> simp [KMap.set, hv]
  | cons q t ih =>
    obtain ⟨j, u⟩ := q
    obtain lt | rfl | gt := Nat.lt_trichotomy k j
    · have stays : ((j, u) :: t).dropWhile (fun p => decide (p.1 ≤ k)) = (j, u) :: t := by simp [lt]
      by_cases hv : v = d
      · simp [KMap.set, lt, hv]
      · simp [KMap.set, lt, hv, stays]
    · by_cases hv : v = d
      · simp only [KMap.set, Nat.lt_irrefl, hv, if_true, if_false]
        exact beyond t
      · have stays : (t.dropWhile (fun p => decide (p.1 ≤ k))).dropWhile (fun p => decide (p.1 ≤ k)) = t.dropWhile (fun p => decide (p.1 ≤ k)) :=
          List.dropWhile_idempotent _ _
        simp only [KMap.set, Nat.lt_irrefl, hv, if_true, if_false, stays]
    · simp only [KMap.set, Nat.not_lt.2 (Nat.le_of_lt gt), Nat.ne_of_gt gt, if_false, ih]

theorem modTile_modTile (x : Plan) (t : Nat) (f g : Tile → Tile) : (x.modTile t f).modTile t g = withTile t (g ∘ f) x := by
  simp only [Plan.modTile, withTile, KMap.upd, KMap.get_set_self, set_set, Function.comp]

theorem modTile_eq (t : Nat) (f : Tile → Tile) (x : Plan) : x.modTile t f = withTile t f x := rfl

theorem planBecomes_modPlan {s u : State} (h : u.plans = s.plans) (p n : Nat) (f : Plan → Plan) : planBecomes s (u.modPlan p n f) p n f := by
  rw [planBecomes, State.modPlan, h]
  refine List.map_congr_left fun y _ => ?_
  simp only [Bool.and_eq_true, beq_iff_eq]

/-! ### A live plan and the entry it stands at (R80, R84, R93) -/

section
variable {s : State} {p h : Nat} {x : Plan} (live : livePlan s p h x)
include live

theorem livePlan.planAt : s.planAt p h = some x := live.1
theorem livePlan.part : x.part = p := (named_of_planAt live.1).1
theorem livePlan.handle : x.handle = h := (named_of_planAt live.1).2

theorem livePlan.planRuns : s.planRuns x = true := by
  obtain ⟨at', runs, active, _⟩ := live
  rw [State.planRuns, runs, (named_of_planAt at').1]
  simpa using active

/-- Two changes of the live plan that agree on it have the same effect. -/
theorem livePlan.planBecomes_congr {t : State} {f g : Plan → Plan} (agree : f x = g x) (becomes : planBecomes s t p h f) : planBecomes s t p h g := by
  obtain ⟨_, _, _, only⟩ := live
  rw [planBecomes] at becomes ⊢
  rw [becomes]
  refine List.map_congr_left fun y hy => ?_
  split
  · next named => rw [only y hy named.1 named.2, agree]
  · rfl

theorem livePlan.stepEntry {tile k : Nat} {e : BitVec 128} (stands : standsAt x tile k e) : s.stepEntry p h tile k = some (x, e) := by
  obtain ⟨running, entry, kind⟩ := stands
  have entry : x.entry tile = some e := by
    rw [Plan.entry]
    exact (if_pos running).trans entry
  rw [State.stepEntry, livePlan.planAt live]
  dsimp only
  rw [livePlan.planRuns live, entry]
  exact if_pos (beq_iff_eq.2 kind)

/-! ### ROUND_START (R81) -/

theorem roundStart_starts {tile : Nat} (flag : (tileOf x tile).flag = true) (idle : (tileOf x tile).running = false) :
    exec (.roundStart p h tile) s = .next (s.modPlan p h (withTile tile (fun z => { z with
      flag := false, running := decide (entriesOf x tile ≠ []), entry := 0, round := z.round + 1, issued := false, unacked := [], final := false }))) := by
  change execRoundStart p h tile s = _
  have some : (!(x.entries tile).isEmpty) = decide (entriesOf x tile ≠ []) := by
    rw [show x.entries tile = entriesOf x tile from rfl]
    cases entriesOf x tile <;> rfl
  rw [execRoundStart, livePlan.planAt live]
  dsimp only
  rw [livePlan.planRuns live, show x.tile tile = tileOf x tile from rfl, flag, idle, some]
  rfl

theorem roundStart_stays {tile : Nat} (not : (tileOf x tile).flag = false ∨ (tileOf x tile).running = true) :
    exec (.roundStart p h tile) s = .next s := by
  change execRoundStart p h tile s = _
  rw [execRoundStart, livePlan.planAt live]
  refine if_pos ?_
  rw [show x.tile tile = tileOf x tile from rfl]
  obtain clear | runs := not
  · rw [clear]; simp
  · rw [runs]; simp
end

/-! ### The failure of a plan (R84) -/

/-- A tile that was not final holds free values. -/
def State.blankTile (x : Plan) (s : State) (t : Nat) : State :=
  if (tileOf x t).final then s
  else match s.writeVA x.xc x.uid none (resultAt x.desc t)
      ((List.range (elems x.desc t * pdDstSize x.desc)).map (fun j => Config.tileByte (s.fresh + t) j)) with
    | .ok _ u => u
    | _ => s

theorem plans_blankTile (x : Plan) (s : State) (t : Nat) : (s.blankTile x t).plans = s.plans := by
  have wrote := plans_writeVA s x.xc x.uid none (resultAt x.desc t)
    ((List.range (elems x.desc t * pdDstSize x.desc)).map (fun j => Config.tileByte (s.fresh + t) j))
  unfold State.blankTile
  generalize s.writeVA x.xc x.uid none (resultAt x.desc t) _ = written at wrote ⊢
  refine plans_ite rfl ?_
  cases written with
  | ok _ u => exact wrote
  | trap _ u => rfl
  | wait _ u => rfl

/-- A plan that has failed: it stands still. -/
def Plan.stopped (sub : BitVec 16) (y : Plan) : Plan :=
  { y with failed := some sub, tiles := y.tiles.map (fun z => (z.1, { z.2 with running := false, flag := false })) }

/-- The package once the unfinished tiles of a plan hold free values. -/
def State.blanked (s : State) (x : Plan) : State := (List.range (pdTiles x.desc)).foldl (State.blankTile x) s

theorem plans_blanked (s : State) (x : Plan) : (s.blanked x).plans = s.plans :=
  foldl_keeps State.plans (fun s t => plans_blankTile x s t) _ s

theorem failPlan_eq {s : State} {p h : Nat} {x : Plan} (at' : s.planAt p h = some x) (runs : x.failed = none) (sub : Nat) :
    s.failPlan p h sub =
      State.modPlan { s.blanked x with fresh := (s.blanked x).fresh + pdTiles x.desc } p h (Plan.stopped (BitVec.ofNat 16 sub)) := by
  have step : (fun (u : State) (t : Nat) => if (x.tile t).final || (none : Option Nat) == some t then u
      else match u.writeVA x.xc x.uid none (pdDst x.desc t) ((List.range (pdLen x.desc t * pdDstSize x.desc)).map
          (fun i => Config.tileByte (u.fresh + t) i)) with
        | .ok _ s => s
        | _ => u) = State.blankTile x := by
    funext u t
    rw [State.blankTile, pdDst_eq, pdLen_eq, show ((none : Option Nat) == some t) = false from rfl, Bool.or_false, show x.tile t = tileOf x t from rfl]
  rw [State.failPlan, State.failPlanBut, at']
  dsimp only
  rw [runs]
  exact congrArg (fun f => State.modPlan (let u := (List.range (pdTiles x.desc)).foldl f s; { u with fresh := u.fresh + pdTiles x.desc }) p h
    (Plan.stopped (BitVec.ofNat 16 sub))) step

theorem samePlans_failPlan (s : State) (p h sub : Nat) : samePlans s (s.failPlan p h sub) := by
  cases at' : s.planAt p h with
  | none => rw [State.failPlan, State.failPlanBut, at']; exact .of_eq rfl
  | some x =>
    cases failed : x.failed with
    | some c => rw [State.failPlan, State.failPlanBut, at']; exact .of_eq (by dsimp only; rw [failed]; rfl)
    | none =>
      rw [failPlan_eq at' failed]
      exact samePlans.trans (.of_eq (plans_blanked s x)) (samePlans_modPlan _ p h)

/-! ### Contributions and final tiles (R82) -/

theorem samePlans_tileDone (s : State) (p h t : Nat) : samePlans s (s.tileDone p h t) := by
  unfold State.tileDone
  cases s.planAt p h with
  | none => exact .of_eq rfl
  | some x => exact (samePlans_modPlan s p h (f := fun y => y.modTile t (fun z => { z with final := true }))).trans (.of_eq rfl)

/-- A final tile is marked, and the plan's counter goes up by 1. -/
theorem tileDone_eq {s : State} {p h : Nat} {x : Plan} (at' : s.planAt p h = some x) (t : Nat) :
    s.tileDone p h t = (s.modPlan p h (withTile t (fun z => { z with final := true }))).advance x.uid (dfld x.desc 13 1 % 16) 1 true := by
  rw [State.tileDone, at', ← pdTl_eq]
  rfl

theorem rises_advance (s : State) (u n k : Nat) (wide : Bool) : rises s (s.advance u n k wide) u n k := by
  rw [rises, State.advance, State.unitOf_modUnit_self, get_advance_tl, if_pos rfl]
  split
  · next fits => rw [BitVec.toNat_ofNat, Nat.mod_eq_of_lt fits, Nat.min_eq_left (Nat.le_sub_one_of_lt fits)]
  · next full => rw [BitVec.toNat_ofNat, Nat.mod_eq_of_lt (by decide), Nat.min_eq_right (by omega)]

/-- Counters are the same in both states. -/
theorem rises_of_units {s u t : State} {uid n k : Nat} (units : u.units = s.units) (h : rises u t uid n k) : rises s t uid n k := by
  rw [rises, State.unitOf, State.unitOf, units] at h
  exact h

theorem samePlans_takeContribution (s : State) (x : Plan) (va : Word) (b : List Byte) (peer rpart : Nat) :
    samePlans s (s.takeContribution x va b peer rpart).2 := by
  unfold State.takeContribution
  cases s.symReady x.part with
  | none => exact .of_eq rfl
  | some a =>
    have range := plans_symRange s x.part a .store va b.length peer rpart expW
    dsimp only
    generalize s.symRange x.part a .store va b.length peer rpart expW = found at range ⊢
    obtain ⟨_ | l, u⟩ := found
    · exact .of_eq range
    · refine samePlans.trans (.of_eq range) ?_
      dsimp only
      split
      · exact samePlans_modPlan u _ _
      · refine samePlans.trans (.of_eq (plans_writePieces l u b)) ?_
        dsimp only
        split
        · exact samePlans_modPlan _ _ _
        · exact .of_eq rfl

theorem samePlans_takeFinal (s : State) (x : Plan) (tile : Nat) (va : Word) (b : List Byte) (peer rpart : Nat) :
    samePlans s (s.takeFinal x tile va b peer rpart).2 := by
  unfold State.takeFinal
  cases s.symReady x.part with
  | none => exact .of_eq rfl
  | some a =>
    have range := plans_symRange s x.part a .store va b.length peer rpart expW
    dsimp only
    generalize s.symRange x.part a .store va b.length peer rpart expW = found at range ⊢
    obtain ⟨_ | l, u⟩ := found
    · exact .of_eq range
    · exact (samePlans.of_eq ((plans_writePieces l u b).trans range)).trans (samePlans_tileDone _ _ _ _)

theorem samePlans_takeTile (s : State) (p : Nat) (id : BitVec 32) (put : Bool) (tile : Nat) (va : Word) (b : List Byte) (peer rpart : Nat) :
    samePlans s (s.takeTile p id put tile va b peer rpart).2 := by
  unfold State.takeTile
  cases s.planById p id with
  | none => exact .of_eq rfl
  | some y =>
    have taken : samePlans s (if put then s.takeFinal y tile va b peer rpart else s.takeContribution y va b peer rpart).2 := by
      cases put
      · exact samePlans_takeContribution s y va b peer rpart
      · exact samePlans_takeFinal s y tile va b peer rpart
    dsimp only
    split
    · exact .of_eq rfl
    · generalize (if put then s.takeFinal y tile va b peer rpart else s.takeContribution y va b peer rpart) = found at taken ⊢
      obtain ⟨_ | _ | _ | _, u⟩ := found <;> exact taken

/-! ### SEND and PUT (R80) -/

theorem sends_sendPlan (s : State) (p h peer : Nat) (m : Msg) : sends s (s.sendPlan p h peer m) m := sends_sendOn s m peer 2 _ _ _

theorem samePlans_sendPlan (s : State) (p h peer : Nat) (m : Msg) : samePlans s (s.sendPlan p h peer m) := by
  obtain ⟨frame, _⟩ := sends_sendPlan s p h peer m
  exact .of_eq (by rw [frame])

theorem samePlans_sendTile (s : State) (x : Plan) (put : Bool) (tile : Nat) (va : Word) (b : List Byte) (q : Nat) :
    samePlans s (s.sendTile x put tile va b q) := by
  unfold State.sendTile
  dsimp only
  split
  · exact samePlans_failPlan s _ _ _
  · split
    · have taken := samePlans_takeTile s (mePart (x.members.getD q 0)) x.planId put tile va b (s.peer.getD 0) x.part
      split
      · exact taken
      · exact taken.trans (samePlans_failPlan _ _ _ _)
    · have sent := samePlans_sendPlan { s with nextTag := s.nextTag + 1 } x.part x.handle (mePeer (x.members.getD q 0))
        (if put then .planResult (mePeer (x.members.getD q 0)) (mePart (x.members.getD q 0)) x.planId s.nextTag tile va b
          else .planData (mePeer (x.members.getD q 0)) (mePart (x.members.getD q 0)) x.planId s.nextTag tile (pdRank x.desc) va b)
      exact sent.trans (samePlans_modPlan _ _ _)

/-- A step sends by what a round does not change of its plan. -/
theorem sendTile_congr {s : State} {w x : Plan} (same : w.fixed = x.fixed) (put : Bool) (tile : Nat) (va : Word) (b : List Byte) (q : Nat) :
    s.sendTile w put tile va b q = s.sendTile x put tile va b q := by
  have part : w.part = x.part := show w.fixed.part = x.fixed.part by rw [same]
  have handle : w.handle = x.handle := show w.fixed.handle = x.fixed.handle by rw [same]
  have members : w.members = x.members := show w.fixed.members = x.fixed.members by rw [same]
  have planId : w.planId = x.planId := show w.fixed.planId = x.fixed.planId by rw [same]
  have passId : w.passId = x.passId := show w.fixed.passId = x.fixed.passId by rw [same]
  have desc : w.desc = x.desc := show w.fixed.desc = x.fixed.desc by rw [same]
  rw [State.sendTile, State.sendTile, part, handle, members, planId, passId, desc]

/-- The current plan sends a tile to one rank, unless it has failed. -/
def State.sendRank (p h : Nat) (put : Bool) (tile : Nat) (va : Word) (b : List Byte) (y : State) (q : Nat) : State :=
  match y.planAt p h with
  | some w => if w.failed.isSome then y else y.sendTile w put tile va b q
  | none => y

/-- All ranks of an entry, in turn: what the plan is now and what it was at the start send alike. -/
theorem foldl_sendRank {p h : Nat} {x : Plan} (put : Bool) (tile : Nat) (va : Word) (b : List Byte) (ranks : List Nat) {y : State}
    (at' : (y.planAt p h).map Plan.fixed = some x.fixed) :
    ranks.foldl (fun (s : State) q => match s.planAt p h with
      | some w => if w.failed.isSome then s else s.sendTile x put tile va b q
      | none => s) y = ranks.foldl (State.sendRank p h put tile va b) y := by
  induction ranks generalizing y with
  | nil => rfl
  | cons q ranks ih =>
    obtain ⟨w, found, same⟩ := Option.map_eq_some_iff.1 at'
    have kept : samePlans y (y.sendRank p h put tile va b q) := by
      rw [State.sendRank, found]
      dsimp only
      split
      · exact .of_eq rfl
      · exact samePlans_sendTile _ _ _ _ _ _ _
    rw [List.foldl_cons, List.foldl_cons, ← ih ((kept.planAt p h).trans at'), State.sendRank, found]
    dsimp only
    rw [sendTile_congr same]

section
variable {s : State} {p h tile : Nat} {x : Plan} {e : BitVec 128} (live : livePlan s p h x)
include live

/-- What SEND and PUT do once the tile has been read and no member's slot is busy. -/
theorem sendAll_sends {put : Bool} (fresh : (tileOf x tile).issued = false) {b : List Byte} {u : State}
    (read : s.readVA x.xc [] (if put then resultAt x.desc tile else sourceAt x.desc tile)
      (elems x.desc tile * (if put then pdDstSize x.desc else pdSrcSize x.desc)) = .ok b u)
    {va : Word} (dest : va = if put then BitVec.ofNat 64 (dfld e 8 8)
      else BitVec.ofNat 64 (dfld e 8 8 + dfld x.desc 14 2 * (dfld x.desc 20 4 * pdSrcSize x.desc)))
    (go : u.sendWaits x e put va b.length = false) : s.sendAll x e put tile =
      ((teRanks e).foldl (State.sendRank p h put tile va b)
        (u.modPlan p h (withTile tile (fun z => { z with issued := true, unacked := [] })))).sendDone p h tile := by
  have dst : (if put then teAddr e else teAddr e + toW (pdRank x.desc * pdTB x.desc)) = va := by
    rw [dest, BitVec.ofNat_add]
    rfl
  have plans : u.plans = s.plans := by have kept := plans_readVA s x.xc [] (if put then resultAt x.desc tile else sourceAt x.desc tile)
                                        (elems x.desc tile * (if put then pdDstSize x.desc else pdSrcSize x.desc)); rw [read] at kept; exact kept
  have loaded : s.planLoad x (if put then pdDst x.desc tile else pdSrc x.desc tile)
      (pdLen x.desc tile * (if put then pdDstSize x.desc else pdSrcSize x.desc)) = (some b, u) := by
    rw [State.planLoad, pdDst_eq, pdSrc_eq, pdLen_eq, read]
  have start : ((u.modPlan p h (withTile tile (fun z => { z with issued := true, unacked := [] }))).planAt p h).map Plan.fixed = some x.fixed := by
    have same := (samePlans.of_eq plans).trans (samePlans_modPlan u p h (f := withTile tile (fun z => { z with issued := true, unacked := [] })))
    rw [same.planAt p h, livePlan.planAt live]
    rfl
  rw [State.sendAll, show x.tile tile = tileOf x tile from rfl, fresh, loaded, livePlan.part live, livePlan.handle live]
  dsimp only
  rw [dst, if_neg (by decide), if_neg (by rw [go]; decide)]
  exact congrArg (State.sendDone · p h tile) (foldl_sendRank put tile va b (teRanks e) start)

theorem sendStep_sends (stands : standsAt x tile 0 e) : exec (.sendStep p h tile) s = .next (s.sendAll x e false tile) := by
  change execSendStep p h tile s = _
  rw [execSendStep, livePlan.stepEntry live stands]

theorem putStep_sends (stands : standsAt x tile 2 e) : exec (.putStep p h tile) s = .next (s.sendAll x e true tile) := by
  change execPutStep p h tile s = _
  rw [execPutStep, livePlan.stepEntry live stands]

/-- A rank on another package is sent a message, whose acceptance the entry awaits. -/
theorem sendTile_peer {put : Bool} {va : Word} {b : List Byte} {q : Nat}
    (near : s.peerGoneFor p ((x.members.getD q 0).toNat % 2 ^ 12) = false) (other : s.peer ≠ some ((x.members.getD q 0).toNat % 2 ^ 12)) :
    ∃ u, sends { s with nextTag := s.nextTag + 1 } u
        (if put then .planResult ((x.members.getD q 0).toNat % 2 ^ 12) ((x.members.getD q 0).toNat / 2 ^ 12 % 8) x.planId s.nextTag tile va b
         else .planData ((x.members.getD q 0).toNat % 2 ^ 12) ((x.members.getD q 0).toNat / 2 ^ 12 % 8) x.planId s.nextTag tile (dfld x.desc 14 2) va b) ∧
      s.sendTile x put tile va b q = (u.modPlan p h (withTile tile (fun z => { z with unacked := z.unacked ++ [s.nextTag] }))).modPass p
        (passSeq x.passId) (fun y => { y with sends := y.sends ++ [(s.nextTag, (x.members.getD q 0).toNat % 2 ^ 12)] }) := by
  rw [← mePeer_eq, ← mePart_eq]
  rw [← mePeer_eq] at near other
  refine ⟨_, sends_sendPlan { s with nextTag := s.nextTag + 1 } p h (mePeer (x.members.getD q 0)) _, ?_⟩
  rw [State.sendTile, livePlan.part live, livePlan.handle live]
  dsimp only
  rw [near, if_neg (by decide), if_neg (by simpa using other)]
  rfl

end

/-! ### FOLD (R75, R80) -/

/-- A rank's contribution to an entry has a place in HBM and has not come. -/
def State.awaits (s : State) (x : Plan) (e : BitVec 128) (q : Nat) : Bool :=
  match s.planPlace x (foldSlot x.desc e q) with
  | some pa => !x.arrived.contains pa
  | none => false

theorem awaits_iff (s : State) (x : Plan) (e : BitVec 128) (q : Nat) :
    s.awaits x e q = true ↔ ∃ pa, s.planPlace x (stagingAt x e q) = some pa ∧ pa ∉ x.arrived := by
  rw [State.awaits, foldSlot_eq]
  cases s.planPlace x (stagingAt x e q) <;> simp

theorem awaitsSome_iff (s : State) (x : Plan) (e : BitVec 128) :
    (teRanks e).any (fun q => q != pdRank x.desc && s.awaits x e q) = true ↔ missing s x e := by
  simp only [List.any_eq_true, Bool.and_eq_true, bne_iff_ne, awaits_iff, pdRank_eq]
  rfl

/-- Where a FOLD reads a rank's contribution: this member's own is its source tile. -/
def Plan.foldSource (x : Plan) (tile : Nat) (e : BitVec 128) (q : Nat) : Word := if q == pdRank x.desc then pdSrc x.desc tile else foldSlot x.desc e q

theorem foldSource_eq (x : Plan) (tile : Nat) (e : BitVec 128) (q : Nat) :
    x.foldSource tile e q = if q = dfld x.desc 14 2 then sourceAt x.desc tile else stagingAt x e q := by
  rw [Plan.foldSource, pdSrc_eq, foldSlot_eq, pdRank_eq]
  simp only [beq_iff_eq]

/-- The places of the contributions that a FOLD has read. -/
def State.foldUsed (s : State) (x : Plan) (e : BitVec 128) : List Nat :=
  ((teRanks e).filter (· != pdRank x.desc)).filterMap (fun q => s.planPlace x (foldSlot x.desc e q))

theorem foldUsed_contains (s : State) (x : Plan) (e : BitVec 128) (a : Nat) :
    (s.foldUsed x e).contains a = (teRanks e).any (fun q => q != dfld x.desc 14 2 && s.planPlace x (stagingAt x e q) == some a) := by
  rw [Bool.eq_iff_iff, List.contains_iff_mem, State.foldUsed, List.mem_filterMap, List.any_eq_true]
  simp only [List.mem_filter, foldSlot_eq, pdRank_eq, Bool.and_eq_true, beq_iff_eq, and_assoc]

/-- A plan whose FOLD entry has completed. -/
def Plan.folded (tile : Nat) (used : List Nat) (y : Plan) : Plan :=
  { y with heldC := [], arrived := y.arrived.filter (fun a => !used.contains a) }.stepDone tile

theorem named_folded (p h tile : Nat) (used : List Nat) (y : Plan) : Plan.named p h (y.folded tile used) = Plan.named p h y := rfl

theorem modPlan_modPlan (s : State) (p h : Nat) {f g : Plan → Plan} (named : ∀ y, Plan.named p h (f y) = Plan.named p h y) :
    (s.modPlan p h f).modPlan p h g = s.modPlan p h (g ∘ f) := by
  rw [State.modPlan, State.modPlan, State.modPlan, List.map_map]
  refine congrArg (fun l => { s with plans := l }) (List.map_congr_left fun y _ => ?_)
  change (if Plan.named p h (if Plan.named p h y then f y else y) then g (if Plan.named p h y then f y else y) else _) = _
  by_cases here : Plan.named p h y = true
  · rw [if_pos here, named, if_pos here]
    exact (if_pos here).symm
  · rw [if_neg here, if_neg here]
    exact (if_neg here).trans (if_neg here).symm

section
variable {s : State} {p h tile : Nat} {x : Plan} {e : BitVec 128} (live : livePlan s p h x) (stands : standsAt x tile 1 e)
include live stands

theorem foldStep_waits (lack : missing s x e) : exec (.foldStep p h tile) s = .next
    (if (teRanks e).any (fun q => s.peerGoneFor p ((x.members.getD q 0).toNat % 2 ^ 12)) then s.failPlan p h 5 else s) := by
  change execFoldStep p h tile s = _
  simp only [← mePeer_eq]
  rw [execFoldStep, livePlan.stepEntry live stands]
  exact if_pos ((awaitsSome_iff s x e).2 lack)

/-- Once every contribution is here, FOLD folds them, writes the result and makes the tile final. -/
theorem foldStep_folds (all : ¬missing s x e) (op : pdOp x.desc < 3) (held : x.heldC = [])
    (dst : s.bufferBusy x (pdDst x.desc tile) (pdLen x.desc tile * pdDstSize x.desc) = false)
    (srcs : ∀ q ∈ teRanks e, s.bufferBusy x (x.foldSource tile e q) (pdLen x.desc tile * pdSrcSize x.desc) = false) {l : List (List Byte)} {u v : State}
    (read : Acc.each (fun q (y : State) => y.readVA x.xc [] (x.foldSource tile e q) (pdLen x.desc tile * pdSrcSize x.desc)) (teRanks e) s = .ok l u)
    (write : u.writeVA x.xc x.uid none (pdDst x.desc tile) (foldBytes (pdOp x.desc) ((tyOf (dfld x.desc 11 1)).getD .i8)
      ((tyOf (dfld x.desc 10 1)).getD .i8) (pdLen x.desc tile) ((teRanks e).zip l)) = .ok ⟨⟩ v) :
    exec (.foldStep p h tile) s = .next ((v.modPlan p h (Plan.folded tile (v.foldUsed x e))).tileDone p h tile) := by
  change execFoldStep p h tile s = _
  have idle : ¬(s.bufferBusy x (pdDst x.desc tile) (pdLen x.desc tile * pdDstSize x.desc) ||
      (teRanks e).any (fun q => s.bufferBusy x (x.foldSource tile e q) (pdLen x.desc tile * pdSrcSize x.desc))) = true := by
    rw [dst, Bool.false_or, List.any_eq_true]
    exact fun ⟨q, hq, busy⟩ => Bool.false_ne_true ((srcs q hq).symm.trans busy)
  rw [execFoldStep, livePlan.stepEntry live stands]
  refine (if_neg ((awaitsSome_iff s x e).not.2 all)).trans ((if_neg idle).trans ?_)
  dsimp only [Plan.foldSource] at read
  rw [read]
  dsimp only
  rw [if_neg (by simpa using Nat.ne_of_lt op)]
  dsimp only
  rw [write, held]
  rfl

omit stands in
/-- What a FOLD makes of the package's plans, and the counter it advances (R80, R82). -/
theorem foldStep_plans {v : State} (same : v.plans = s.plans) (held : x.heldC = []) :
    let t := (v.modPlan p h (Plan.folded tile (v.foldUsed x e))).tileDone p h tile
    t.hbm = v.hbm ∧
    planBecomes s t p h (fun y => { withTile tile (fun z => { nextEntry x tile z with final := true }) y with
      arrived := y.arrived.filter (fun a => !(teRanks e).any (fun q => q != dfld x.desc 14 2 && v.planPlace x (stagingAt x e q) == some a)) }) ∧
    rises v t x.uid (dfld x.desc 13 1 % 16) 1 := by
  have at' : v.planAt p h = some x := by rw [planAt_eq, same]; exact livePlan.planAt live
  intro t
  have done : t = ((v.modPlan p h (Plan.folded tile (v.foldUsed x e))).modPlan p h (withTile tile (fun z => { z with final := true }))).advance x.uid
      (dfld x.desc 13 1 % 16) 1 true := tileDone_eq (planAt_modPlan at' (named_folded p h tile _)) tile
  refine ⟨by rw [done]; rfl, ?_, ?_⟩
  · have becomes : planBecomes s t p h (withTile tile (fun z => { z with final := true }) ∘ Plan.folded tile (v.foldUsed x e)) := by
      have step := planBecomes_modPlan same p h (withTile tile (fun z => { z with final := true }) ∘ Plan.folded tile (v.foldUsed x e))
      rw [planBecomes] at step ⊢
      rw [← step, ← modPlan_modPlan v p h (named_folded p h tile _), done]
      rfl
    refine livePlan.planBecomes_congr live ?_ becomes
    simp only [Function.comp, Plan.folded, Plan.stepDone, foldUsed_contains]
    rw [← modTile_eq, modTile_modTile]
    simp only [withTile, held]
    rfl
  · rw [done]
    exact rises_of_units rfl (rises_advance _ x.uid _ 1 true)
end

/-! ### Contributions and final tiles that arrive (R82, R84, R85) -/

section
variable {s : State} {p h tile peer rpart tag : Nat} {x : Plan} {addr : Word} {data : List Byte}

theorem exec_contributionArrival (id : BitVec 32) : exec (.contributionArrival p ⟨peer, rpart⟩ tag id addr data) s =
    .next (s.tileArrives p peer rpart tag id false 0 addr data) := rfl

theorem exec_tileFinal (id : BitVec 32) : exec (.tileFinal p ⟨peer, rpart⟩ tag ⟨id, tile⟩ addr data) s =
    .next (s.tileArrives p peer rpart tag id true tile addr data) := rfl

/-- A plan that was freed here refuses (R85). -/
theorem tileArrives_freed {id : BitVec 32} (freed : s.planById p id = none) (put : Bool) (tile : Nat) :
    sends s (s.tileArrives p peer rpart tag id put tile addr data) (.planAnswer peer tag 6) := by
  rw [State.tileArrives, freed]
  exact sends_sendCol s p peer 0 _

variable (live : livePlan s p h x)
include live

/-- What a member that takes or refuses a tile tells its sender. -/
theorem tileArrives_answers (byId : s.planById p x.planId = some x) {put : Bool} (open' : s.blocked x put addr data.length = false)
    {st : ReplyStatus} {v : State}
    (taken : (if put then s.takeFinal x tile addr data peer rpart else s.takeContribution x addr data peer rpart) = (st, v)) :
    sends v (s.tileArrives p peer rpart tag x.planId put tile addr data) (.planAnswer peer tag (if st = .ok then 0 else 5)) := by
  have runs : ¬(!s.planRuns x) = true := by rw [livePlan.planRuns live]; decide
  have answer : s.takeTile p x.planId put tile addr data peer rpart = (if st = .ok then 0 else 5, v) := by
    rw [State.takeTile, byId]
    refine (if_neg runs).trans ?_
    rw [taken]
    cases st <;> rfl
  rw [State.tileArrives, byId]
  dsimp only
  rw [open', answer, if_neg (by decide)]
  exact sends_sendPlan v p x.handle peer _

variable {a : Nat} {l : List (Nat × Nat)} {u : State} (ready : s.symReady p = some a)
include ready

theorem takeFinal_refused (found : s.symRange p a .store addr data.length peer rpart expW = (.error .refused, u)) :
    s.takeFinal x tile addr data peer rpart = (.refused, u) := by
  rw [State.takeFinal, livePlan.part live, ready]
  dsimp only
  rw [found]

theorem takeContribution_refused (found : s.symRange p a .store addr data.length peer rpart expW = (.error .refused, u)) :
    s.takeContribution x addr data peer rpart = (.refused, u) := by
  rw [State.takeContribution, livePlan.part live, ready]
  dsimp only
  rw [found]

variable (found : s.symRange p a .store addr data.length peer rpart expW = (.ok l, u))
include found

theorem takeFinal_ok : s.takeFinal x tile addr data peer rpart = (.ok, (u.writePieces l data).tileDone p h tile) := by
  rw [State.takeFinal, livePlan.part live, livePlan.handle live, ready]
  dsimp only
  rw [found]

theorem takeContribution_held (unread : (l.headD (0, 0)).1 ∈ x.arrived) : s.takeContribution x addr data peer rpart =
    (.ok, u.modPlan p h (fun y => { y with heldC := y.heldC ++ [(l, data)] })) := by
  rw [State.takeContribution, livePlan.part live, livePlan.handle live, ready]
  dsimp only
  rw [found]
  exact if_pos (List.contains_iff_mem.2 unread)

theorem takeContribution_new (new : (l.headD (0, 0)).1 ∉ x.arrived) : s.takeContribution x addr data peer rpart =
    (.ok, if u.foldReads x (l.headD (0, 0)).1 then
        (u.writePieces l data).modPlan p h (fun y => { y with arrived := y.arrived ++ [(l.headD (0, 0)).1] })
      else u.writePieces l data) := by
  rw [State.takeContribution, livePlan.part live, livePlan.handle live, ready]
  dsimp only
  rw [found]
  exact if_neg (List.contains_iff_mem.not.2 new)
end

section
variable {s : State} {p h tile peer rpart tag : Nat} {x : Plan} {addr : Word} {data : List Byte} (live : livePlan s p h x)
  (byId : s.planById p x.planId = some x) {a : Nat} (ready : s.symReady p = some a) {l : List (Nat × Nat)} {u : State}
include live byId ready

/-- A contribution to a slot whose last one has been read is written, and noted where a FOLD reads it. -/
theorem contribution_new (open' : s.blocked x false addr data.length = false)
    (found : s.symRange p a .store addr data.length peer rpart expW = (.ok l, u)) (same : u.plans = s.plans) (new : (l.headD (0, 0)).1 ∉ x.arrived) :
    ∃ v t, exec (.contributionArrival p ⟨peer, rpart⟩ tag x.planId addr data) s = .next t ∧ sends v t (.planAnswer peer tag 0) ∧
      v = { u.writePieces l data with plans := v.plans } ∧
      planBecomes s v p h (fun y => if u.foldReads x (l.headD (0, 0)).1 then { y with arrived := y.arrived ++ [(l.headD (0, 0)).1] } else y) := by
  have kept : (u.writePieces l data).plans = s.plans := (plans_writePieces l u data).trans same
  have taken := takeContribution_new live ready found new
  refine ⟨_, _, exec_contributionArrival x.planId, tileArrives_answers live byId open' (put := false) (tile := 0) taken, ?_, ?_⟩
  · split <;> rfl
  · split
    · exact planBecomes_modPlan kept p h _
    · simp only [planBecomes, ite_self, List.map_id', kept]

/-- A contribution to a slot that still holds one is kept for a later round. -/
theorem contribution_held (open' : s.blocked x false addr data.length = false)
    (found : s.symRange p a .store addr data.length peer rpart expW = (.ok l, u)) (same : u.plans = s.plans) (unread : (l.headD (0, 0)).1 ∈ x.arrived) :
    ∃ v t, exec (.contributionArrival p ⟨peer, rpart⟩ tag x.planId addr data) s = .next t ∧ sends v t (.planAnswer peer tag 0) ∧
      v = { u with plans := v.plans } ∧ planBecomes s v p h (fun y => { y with heldC := y.heldC ++ [(l, data)] }) :=
  ⟨_, _, exec_contributionArrival x.planId,
    tileArrives_answers live byId open' (put := false) (tile := 0) (takeContribution_held live ready found unread), rfl, planBecomes_modPlan same p h _⟩

/-- A final tile is written and marked, and the plan's counter goes up. -/
theorem tileFinal_ok (open' : s.blocked x true addr data.length = false)
    (found : s.symRange p a .store addr data.length peer rpart expW = (.ok l, u)) (same : u.plans = s.plans) :
    ∃ v t, exec (.tileFinal p ⟨peer, rpart⟩ tag ⟨x.planId, tile⟩ addr data) s = .next t ∧ sends v t (.planAnswer peer tag 0) ∧
      v.hbm = (u.writePieces l data).hbm ∧ planBecomes s v p h (withTile tile (fun z => { z with final := true })) ∧
      rises (u.writePieces l data) v x.uid (dfld x.desc 13 1 % 16) 1 := by
  have kept : (u.writePieces l data).plans = s.plans := (plans_writePieces l u data).trans same
  have at' : (u.writePieces l data).planAt p h = some x := by rw [planAt_eq, kept]; exact livePlan.planAt live
  refine ⟨_, _, exec_tileFinal x.planId, tileArrives_answers live byId open' (put := true) (takeFinal_ok live ready found), ?_⟩
  rw [tileDone_eq at' tile]
  exact ⟨rfl, planBecomes_modPlan kept p h _, rises_of_units rfl (rises_advance _ x.uid _ 1 true)⟩

/-- A member that may not take the data refuses it. -/
theorem tiles_refused (open' : s.blocked x false addr data.length = false) (open'' : s.blocked x true addr data.length = false)
    (found : s.symRange p a .store addr data.length peer rpart expW = (.error .refused, u)) :
    ∃ t t', exec (.contributionArrival p ⟨peer, rpart⟩ tag x.planId addr data) s = .next t ∧
      exec (.tileFinal p ⟨peer, rpart⟩ tag ⟨x.planId, tile⟩ addr data) s = .next t' ∧
      sends u t (.planAnswer peer tag 5) ∧ sends u t' (.planAnswer peer tag 5) :=
  ⟨_, _, exec_contributionArrival x.planId, exec_tileFinal x.planId,
    tileArrives_answers live byId open' (put := false) (tile := 0) (takeContribution_refused live ready found),
    tileArrives_answers live byId open'' (put := true) (takeFinal_refused live ready found)⟩
end

/-- PLAN_FAILURE stops the plan, whose unfinished tiles then hold free values (R84). -/
theorem planFailure_stops {s : State} {p h : Nat} {x : Plan} (live : livePlan s p h x) (sub : BitVec 16) (fresh : (s.blanked x).fresh = s.fresh) :
    ∃ t, exec (.planFailure p h sub) s = .next t ∧ t = { s.blanked x with plans := t.plans, fresh := s.fresh + pdTiles x.desc } ∧
      planBecomes s t p h (fun y => { y with
        failed := some sub, tiles := y.tiles.map (fun q => (q.1, { q.2 with running := false, flag := false })) }) := by
  have run : exec (.planFailure p h sub) s = .next (s.failPlan p h sub.toNat) := rfl
  obtain ⟨-, runs, -⟩ := id live
  rw [failPlan_eq (livePlan.planAt live) runs, BitVec.ofNat_toNat, BitVec.setWidth_eq, fresh] at run
  exact ⟨_, run, rfl, planBecomes_modPlan (u := { s.blanked x with fresh := s.fresh + pdTiles x.desc }) (plans_blanked s x) p h _⟩

/-- Settles O46: each event through what it makes of the live plan, SEND and PUT by following their ranks. -/
theorem planRoundsRun : Obligations.PlanRoundsRun := by
  intro s p h tile x live d z n
  refine ⟨fun flag idle => ⟨_, roundStart_starts live flag idle, rfl, planBecomes_modPlan rfl p h _⟩, roundStart_stays live, ?_, ?_, ?_,
    fun e stands lack => foldStep_waits live stands lack, ?_, ?_, ?_⟩
  · intro e put i b u kind stands fresh read va r ranks go v one
    have sent := sendAll_sends live fresh read (va := va) rfl go
    have all : (teRanks e).foldl (State.sendRank p h put tile va b) v = ranks.foldl one v := by
      rw [teRanks_eq]
      rfl
    have run : exec i s = .next (s.sendAll x e put tile) := by
      simp only [List.mem_cons, Prod.mk.injEq, List.not_mem_nil, or_false] at kind
      obtain ⟨rfl, rfl⟩ | ⟨rfl, rfl⟩ := kind
      · exact sendStep_sends live stands
      · exact putStep_sends live stands
    exact ⟨_, run, all ▸ sent⟩
  · intro put va b q e peer part near other
    exact sendTile_peer live near other
  · intro e l u v stands op held all ranks src dst srcs read write same
    have reads : (fun q (y : State) => y.readVA x.xc [] (src q) (n * pdSrcSize d)) =
        fun q (y : State) => y.readVA x.xc [] (x.foldSource tile e q) (pdLen x.desc tile * pdSrcSize x.desc) := by
      funext q y
      rw [foldSource_eq, pdLen_eq]
    have folds := foldStep_folds live stands all op held (u := u) (v := v) (l := l) (by rw [pdDst_eq, pdLen_eq]; exact dst)
      (fun q hq => by rw [foldSource_eq, pdLen_eq]; exact srcs q hq) (reads ▸ read) (by rw [pdDst_eq, pdLen_eq]; exact write)
    exact ⟨_, folds, foldStep_plans live same held⟩
  · intro peer rpart tag addr data arrive final byId open' open''
    refine ⟨fun a l u ready found same => ?_, fun a u ready found => tiles_refused live byId ready open' open'' found⟩
    exact ⟨contribution_new live byId ready open' found same, contribution_held live byId ready open' found same,
      tileFinal_ok live byId ready open'' found same⟩
  · exact fun peer rpart tag id addr data freed => ⟨_, _, rfl, rfl, tileArrives_freed freed false 0, tileArrives_freed freed true tile⟩
  · intro sub u _ _ blanked same fresh
    have same : s.blanked x = u := blanked ▸ rfl
    exact same ▸ planFailure_stops live sub (same ▸ fresh)

end Sys2Proof.Machine
end

section
/-!
PROOFS. What the dispatcher chooses: the pass in turn, its slots, its places in the reserve and the victim of a pre-emption (R138, R140, R143, R144).
-/
namespace Sys2Proof.Machine
open Sys2Proof.Claims
set_option Elab.async false

/-! ### The order of passes (R143, R144) -/

theorem le_foldl_top {α : Type} (f : α → Nat) (l : List α) (a : Nat) :
    a ≤ l.foldl (fun m x => if m < f x then f x else m) a ∧ ∀ y ∈ l, f y ≤ l.foldl (fun m x => if m < f x then f x else m) a := by
  induction l generalizing a with
  | nil => exact ⟨Nat.le_refl a, fun y hy => by cases hy⟩
  | cons x l ih =>
    obtain ⟨first, rest⟩ := ih (if a < f x then f x else a)
    have grows : a ≤ (if a < f x then f x else a) ∧ f x ≤ (if a < f x then f x else a) := by split <;> omega
    refine ⟨grows.1.trans first, fun y hy => ?_⟩
    obtain rfl | hy := List.mem_cons.1 hy
    · exact grows.2.trans first
    · exact rest y hy

/-- A candidate waits, and no waiting pass has a higher priority. -/
theorem candidates_first {s : State} {p : Nat} {x : Pass} (h : x ∈ s.candidates p) :
    (x ∈ (s.partOf p).passes ∧ (x.st = .ready ∨ x.st = .parked)) ∧
    ∀ y, (y ∈ (s.partOf p).passes ∧ (y.st = .ready ∨ y.st = .parked)) → lrPrio y.lrec ≤ lrPrio x.lrec := by
  have waits (y : Pass) : (y.st == .ready || y.st == .parked) = true ↔ y.st = .ready ∨ y.st = .parked := by simp
  simp only [State.candidates, List.mem_append, List.mem_filter, waits, beq_iff_eq] at h
  obtain ⟨⟨here, top⟩, -⟩ | ⟨⟨here, top⟩, -⟩ := h
  all_goals
    refine ⟨here, fun y hy => ?_⟩
    rw [top]
    exact (le_foldl_top (fun z : Pass => lrPrio z.lrec) _ 0).2 y (List.mem_filter.2 ⟨hy.1, (waits y).2 hy.2⟩)

theorem nextPass_candidate {s : State} {p : Nat} {x : Pass} (h : s.nextPass p = some x) : x ∈ s.candidates p ∧ s.passFits p x = true :=
  ⟨List.mem_of_find?_eq_some h, List.find?_some h⟩

/-- The better victim of two: of the lower priority, and among equals the later. -/
def worse (b : Option Pass) (x : Pass) : Option Pass :=
  match b with
  | none => some x
  | some y => if lrPrio x.lrec ≤ lrPrio y.lrec then some x else b

theorem foldl_worse {v : Pass} (l : List Pass) (b : Pass) (h : l.foldl worse (some b) = some v) :
    v ∈ b :: l ∧ (∀ w ∈ b :: l, lrPrio v.lrec ≤ lrPrio w.lrec) ∧
    ((b :: l).Pairwise (fun x y => x.seq < y.seq) → ∀ w ∈ b :: l, lrPrio w.lrec = lrPrio v.lrec → w.seq ≤ v.seq) := by
  induction l generalizing b with
  | nil =>
    cases h
    simp
  | cons a l ih =>
    rw [List.foldl_cons, worse] at h
    split at h
    · next lower =>
      obtain ⟨mem, least, last⟩ := ih a h
      have la := least a (by simp)
      refine ⟨List.mem_cons_of_mem b mem, fun w hw => ?_, fun sorted w hw same => ?_⟩
      · obtain rfl | hw := List.mem_cons.1 hw
        · exact la.trans lower
        · exact least w hw
      · obtain ⟨above, rest⟩ := List.pairwise_cons.1 sorted
        obtain rfl | hw := List.mem_cons.1 hw
        · exact (above a (by simp)).le.trans (last rest a (by simp) (by omega))
        · exact last rest w hw same
    · next higher =>
      obtain ⟨mem, least, last⟩ := ih b h
      have lb := least b (by simp)
      refine ⟨?_, fun w hw => ?_, fun sorted w hw same => ?_⟩
      · obtain rfl | mem := List.mem_cons.1 mem
        · simp
        · simp [mem]
      · simp only [List.mem_cons] at hw least
        obtain rfl | rfl | hw := hw
        · exact lb
        · omega
        · exact least w (.inr hw)
      · have sub : (b :: l).Pairwise (fun x y => x.seq < y.seq) := sorted.sublist (by simp)
        simp only [List.mem_cons] at hw last
        obtain rfl | rfl | hw := hw
        · exact last sub w (.inl rfl) same
        · omega
        · exact last sub w (.inr hw) same

/-- The victim runs below the priority given; it is the lowest there, and among equals the last. -/
theorem victim_spec {s : State} {p prio : Nat} {v : Pass} (h : s.victim p prio = some v) :
    v ∈ (s.partOf p).passes ∧ v.st = .running ∧ lrPrio v.lrec < prio ∧
    (∀ w ∈ (s.partOf p).passes, w.st = .running → lrPrio v.lrec ≤ lrPrio w.lrec ∨ prio ≤ lrPrio w.lrec) ∧
    (((s.partOf p).passes.map (fun y => y.seq)).Pairwise (· < ·) →
      ∀ w ∈ (s.partOf p).passes, w.st = .running → lrPrio w.lrec = lrPrio v.lrec → w.seq ≤ v.seq) := by
  have chosen : ((s.partOf p).passes.filter (fun x => x.st == .running && decide (lrPrio x.lrec < prio))).foldl worse none = some v := h
  have mem (w : Pass) : w ∈ (s.partOf p).passes.filter (fun x => x.st == .running && decide (lrPrio x.lrec < prio)) ↔
      w ∈ (s.partOf p).passes ∧ w.st = .running ∧ lrPrio w.lrec < prio := by simp
  have sub : ((s.partOf p).passes.filter (fun x => x.st == .running && decide (lrPrio x.lrec < prio))).Sublist (s.partOf p).passes := List.filter_sublist
  generalize (s.partOf p).passes.filter (fun x => x.st == .running && decide (lrPrio x.lrec < prio)) = l at chosen mem sub
  cases l with
  | nil => cases chosen
  | cons b l =>
    obtain ⟨here, least, last⟩ := foldl_worse l b chosen
    obtain ⟨isPass, runs, below⟩ := (mem v).1 here
    refine ⟨isPass, runs, below, fun w hw running => ?_, fun sorted w hw running same => ?_⟩
    · by_cases low : lrPrio w.lrec < prio
      · exact .inl (least w ((mem w).2 ⟨hw, running, low⟩))
      · exact .inr (by omega)
    · exact last ((List.pairwise_map.1 sorted).sublist sub) w ((mem w).2 ⟨hw, running, by omega⟩) same

/-! ### Slots (R138) -/

theorem slotsFor_spec {s : State} {p : Nat} {x : Pass} {slots : List Nat} (h : s.slotsFor p x = some slots) :
    slots ≠ [] ∧ slots.length = min (x.x * x.y * x.s) (s.partOf p).remap.length ∧ slots.Pairwise (· < ·) ∧
    ∀ k ∈ slots, k < (s.partOf p).remap.length := by
  have free : (s.freeSlotsOf p).Sublist (List.range (s.partOf p).remap.length) := List.filter_sublist
  unfold State.slotsFor at h
  dsimp only at h
  generalize size : (if x.x * x.y * x.s < (s.partOf p).remap.length then x.x * x.y * x.s else (s.partOf p).remap.length) = k at h
  split at h
  · cases h
  · next enough =>
    cases h
    obtain ⟨some', fits⟩ : ¬k = 0 ∧ k ≤ (s.freeSlotsOf p).length := by simpa using enough
    have taken : ((s.freeSlotsOf p).take k).Sublist (List.range (s.partOf p).remap.length) := (List.take_sublist k _).trans free
    have len : ((s.freeSlotsOf p).take k).length = k := by rw [List.length_take]; omega
    refine ⟨fun none => some' (by rw [← len, none]; rfl), ?_, List.pairwise_lt_range.sublist taken, fun j hj => List.mem_range.1 (taken.subset hj)⟩
    rw [len, ← size]
    split <;> omega

/-! ### Places in the reserve (R140) -/

theorem minPair_mem {l : List (Nat × Nat)} {q : Nat × Nat} (h : minPair l = some q) : q ∈ l := by
  induction l generalizing q with
  | nil => cases h
  | cons a l ih =>
    rw [minPair] at h
    split at h
    · next r rest =>
      split at h
      · cases h
        exact List.mem_cons_of_mem a (ih rest)
      · cases h
        exact List.mem_cons_self
    · cases h
      exact List.mem_cons_self

theorem apart_comm {a n b m : Nat} (h : apart a n b m) : apart b m a n := by
  unfold apart at *
  omega

/-- A gap lies in its bounds and touches nothing used. -/
theorem gapFor_spec {lo hi n b : Nat} {used : List (Nat × Nat)} (h : gapFor lo hi used n = some b) :
    lo ≤ b ∧ (n = 0 ∨ b + n ≤ hi) ∧ ∀ r ∈ used, apart b n r.1 r.2 := by
  unfold gapFor at h
  split at h
  · next none =>
    cases h
    exact ⟨Nat.le_refl _, .inl (by simpa using none), fun r _ => .inl (by simpa using none)⟩
  · obtain ⟨q, found, rfl⟩ := Option.map_eq_some_iff.1 h
    obtain ⟨c, hc, rfl⟩ := List.mem_map.1 (minPair_mem found)
    simp only [List.mem_filter, Bool.and_eq_true, Bool.or_eq_true, decide_eq_true_eq, beq_iff_eq, List.all_eq_true, or_assoc] at hc
    obtain ⟨-, ⟨above, below⟩, clear⟩ := hc
    exact ⟨above, .inr below, fun r hr => .inr (clear r hr)⟩

/-- A unit's context and loft lie in the reserve and are apart. -/
def placeGood (lo hi loft : Nat) (u : Nat × Nat) : Prop :=
  lo ≤ u.1 ∧ u.1 + 2 ^ 19 ≤ hi ∧ lo ≤ u.2 ∧ (loft = 0 ∨ u.2 + loft ≤ hi) ∧ apart u.1 (2 ^ 19) u.2 loft
/-- The contexts and lofts of two units are apart. -/
def placesApart (loft : Nat) (u v : Nat × Nat) : Prop :=
  apart u.1 (2 ^ 19) v.1 (2 ^ 19) ∧ apart u.1 (2 ^ 19) v.2 loft ∧ apart u.2 loft v.1 (2 ^ 19) ∧ apart u.2 loft v.2 loft

theorem placesApart_comm {loft : Nat} {u v : Nat × Nat} (h : placesApart loft u v) : placesApart loft v u := by
  obtain ⟨cc, cl, lc, ll⟩ := h
  exact ⟨apart_comm cc, apart_comm lc, apart_comm cl, apart_comm ll⟩

theorem placesGood_of_pairwise {lo hi loft : Nat} {l : List (Nat × Nat)} (each : ∀ u ∈ l, placeGood lo hi loft u)
    (two : l.Pairwise (placesApart loft)) : placesGood lo hi loft l := by
  intro i hi'
  have at' {k : Nat} (h : k < l.length) : l.getD k (0, 0) = l[k] := List.getD_eq_getElem _ _ h
  obtain ⟨c, ce, f, fe, own⟩ := each l[i] (List.getElem_mem hi')
  simp only [at' hi']
  refine ⟨c, ce, f, fe, own, fun j hj ne => ?_⟩
  have both : placesApart loft l[i] l[j] := by
    obtain lt | gt := Nat.lt_or_gt_of_ne ne
    · exact placesApart_comm (List.pairwise_iff_getElem.1 two j i hj hi' lt)
    · exact List.pairwise_iff_getElem.1 two i j hi' hj gt
  obtain ⟨cc, cl, -, ll⟩ := both
  rw [at' hj]
  exact ⟨cc, cl, ll⟩

/-- The places chosen lie in the reserve, apart from one another and from what is used. -/
theorem regionsIn_spec {lo hi loft n : Nat} {used places : List (Nat × Nat)} (h : regionsIn lo hi loft n used = some places) :
    places.length = n ∧ (∀ u ∈ places, placeGood lo hi loft u) ∧ places.Pairwise (placesApart loft) ∧
    ∀ u ∈ places, ∀ r ∈ used, apart u.1 (2 ^ 19) r.1 r.2 ∧ apart u.2 loft r.1 r.2 := by
  induction n generalizing used places with
  | zero =>
    cases h
    exact ⟨rfl, fun u hu => (List.not_mem_nil hu).elim, .nil, fun u hu => (List.not_mem_nil hu).elim⟩
  | succ n ih =>
    obtain ⟨c, ctx, h⟩ := Option.bind_eq_some_iff.1 h
    obtain ⟨f, lft, h⟩ := Option.bind_eq_some_iff.1 h
    obtain ⟨rest, more, rfl⟩ := Option.map_eq_some_iff.1 h
    obtain ⟨len, good, two, out⟩ := ih more
    obtain ⟨cLo, cHi, cOut⟩ := gapFor_spec ctx
    obtain ⟨fLo, fHi, fOut⟩ := gapFor_spec lft
    have fc : apart f loft c (2 ^ 19) := fOut (c, 2 ^ 19) (by simp)
    refine ⟨by simp [len], fun u hu => ?_, .cons (fun v hv => ?_) two, fun u hu r hr => ?_⟩
    · obtain rfl | hu := List.mem_cons.1 hu
      · exact ⟨cLo, cHi.resolve_left (by decide), fLo, fHi, apart_comm fc⟩
      · exact good u hu
    · obtain ⟨vf, vf'⟩ := out v hv (f, loft) (by simp)
      obtain ⟨vc, vc'⟩ := out v hv (c, 2 ^ 19) (by simp)
      exact ⟨apart_comm vc, apart_comm vc', apart_comm vf, apart_comm vf'⟩
    · obtain rfl | hu := List.mem_cons.1 hu
      · exact ⟨cOut r hr, fOut r (by simp [hr])⟩
      · exact out u hu r (by simp [hr])

theorem regionsFor_spec {s : State} {p : Nat} {x : Pass} {places : List (Nat × Nat)} (h : s.regionsFor p x = some places) :
    places.length = x.x * x.y * x.s ∧
    placesGood ((s.partOf p).reserveBase + 2 ^ 20) ((s.partOf p).shareBase + (s.partOf p).shareSize) (imLoft x.header) places := by
  unfold State.regionsFor at h
  dsimp only at h
  split at h
  · cases h
  · obtain ⟨len, each, two, -⟩ := regionsIn_spec h
    exact ⟨len, placesGood_of_pairwise each two⟩

end Sys2Proof.Machine
end

section
/-!
PROOFS. What the dispatcher's operations make of one unit: those on a single unit (contexts, lofts, parking), and the turns of a core, by what every
one of their steps keeps (R139, R148-R150, R321).
-/
namespace Sys2Proof
set_option Elab.async false

theorem rising_cons {α : Type} {q : Nat × α} {t : KMap α} : Claims.rising (q :: t) ↔ (∀ r ∈ t, q.1 < r.1) ∧ Claims.rising t := by
  simp [Claims.rising]

/-- A write keeps rising keys rising. -/
theorem rising_set {α : Type} [DecidableEq α] (d : α) {m : KMap α} (k : Nat) (v : α) (h : Claims.rising m) : Claims.rising (KMap.set d m k v) := by
  induction m with
  | nil =>
    unfold KMap.set
    split
    · exact h
    · exact List.pairwise_singleton _ _
  | cons q t ih =>
    obtain ⟨j, w⟩ := q
    obtain ⟨above, rest⟩ := rising_cons.1 h
    unfold KMap.set
    split
    · next lt =>
      split
      · exact h
      · refine rising_cons.2 ⟨fun r hr => ?_, h⟩
        obtain rfl | hr := List.mem_cons.1 hr
        · exact lt
        · exact lt.trans (above r hr)
    · next ge =>
      split
      · next eq =>
        subst eq
        have dropped : (t.dropWhile (fun p => decide (p.1 ≤ k))).Sublist t := List.dropWhile_sublist _
        have tail : Claims.rising (t.dropWhile (fun p => decide (p.1 ≤ k))) := List.Pairwise.sublist (dropped.map Prod.fst) rest
        dsimp only
        split
        · exact tail
        · exact rising_cons.2 ⟨fun r hr => above r (dropped.subset hr), tail⟩
      · next ne =>
        refine rising_cons.2 ⟨fun r hr => ?_, ih rest⟩
        obtain rfl | hr := KMap.mem_set d t k v hr
        · show j < r.1
          omega
        · exact above r hr

namespace Machine
open Sys2Proof.Claims
set_option Elab.async false

/-! ### Operations on one unit -/

/-- From `s` to `t` no unit but `w` changed, and that one as `R` says. -/
structure Touches (w : Nat) (R : Unit → Unit → Prop) (s t : State) : Prop where
  keys : rising s.units → rising t.units
  others : ∀ v, v ≠ w → t.unitOf v = s.unitOf v
  unit : R (s.unitOf w) (t.unitOf w)

theorem Touches.of_units {s t : State} (h : t.units = s.units) (w : Nat) : Touches w (fun u u' => u' = u) s t :=
  ⟨fun k => h ▸ k, fun v _ => by rw [State.unitOf, h, State.unitOf], by rw [State.unitOf, h, State.unitOf]⟩
theorem Touches.modUnit (s : State) (w : Nat) (f : Unit → Unit) : Touches w (fun u u' => u' = f u) s (s.modUnit w f) :=
  ⟨rising_set _ _ _, fun _ h => State.unitOf_modUnit_ne s f h, State.unitOf_modUnit_self s w f⟩
theorem Touches.trans {w : Nat} {Q R W : Unit → Unit → Prop} {s t u : State} (h : Touches w Q s t) (g : Touches w R t u)
    (both : ∀ a b c, Q a b → R b c → W a c) : Touches w W s u :=
  ⟨fun k => g.keys (h.keys k), fun v ne => (g.others v ne).trans (h.others v ne), both _ _ _ h.unit g.unit⟩
theorem Touches.mono {w : Nat} {Q R : Unit → Unit → Prop} {s t : State} (h : Touches w Q s t) (weaker : ∀ a b, Q a b → R a b) : Touches w R s t :=
  ⟨h.keys, h.others, weaker _ _ h.unit⟩
theorem Touches.modUnit_after {w : Nat} {R : Unit → Unit → Prop} {s t : State} (h : Touches w R s t) (f : Unit → Unit) :
    Touches w (fun u u' => ∃ v, R u v ∧ u' = f v) s (t.modUnit w f) :=
  h.trans (.modUnit t w f) fun _ b _ r e => ⟨b, r, e⟩
/-- An operation that follows and writes no unit changes nothing. -/
theorem Touches.then_units {w : Nat} {R : Unit → Unit → Prop} {s t u : State} (h : Touches w R s t) (e : u.units = t.units) : Touches w R s u :=
  h.trans (.of_units e w) fun _ _ _ r same => same ▸ r

/-- A unit whose record was written, or read back. -/
def Unit.checked (l : List (Nat × Byte)) (u : Unit) : Unit := { u with ctxCheck := l }
/-- A unit whose loft went to its image. -/
def Unit.spilled (u : Unit) : Unit := { u with loft := [], loftPoison := [], loftResident := false }
/-- A unit whose loft came in. -/
def Unit.filled (l : Memory) (m : KMap Bool) (u : Unit) : Unit := { u with loft := l, loftPoison := m, loftResident := true }
/-- A unit whose budgets and loop state were read back from its record's bytes. -/
def Unit.reloaded (b : Nat → Nat → List Byte) (u : Unit) : Unit :=
  { (List.range 8).foldl (fun u k => u.modSheaf k (fun x => loadLoops x (b (320 + 64 * k) 64)))
    ((List.range u.rv).foldl (fun u r => u.modReeve r (fun x => { x with budget := toW (leVal (b (40 + 8 * r) 8)) })) u) with ctxCheck := [] }
/-- A unit that a broken context parked. -/
def Unit.broken (c0 c1 : BitVec 8) (l : List (Nat × Byte)) (u : Unit) : Unit := { u with place := .faulted, cause0 := c0, cause1 := c1, ctxCheck := l }
/-- A unit that starts on its core, or goes on there. -/
def Unit.begun (u : Unit) : Unit :=
  { u with
    place := .running, cause0 := 0, cause1 := 0
    reeves := u.reeves.map (fun p => (p.1, if u.place == .unstarted then { p.2 with started := decide (p.1 < u.rv) }
      else { p.2 with latch := true, waited := 0, fetchBuf := [] })) }

theorem touches_writeContext (s : State) (w : Nat) : Touches w (fun u u' => ∃ l, u' = u.checked l) s (s.writeContext w) := by
  unfold State.writeContext
  dsimp only
  generalize ctxBytes (s.unitOf w) s.fresh (s.replySection w) = l
  refine Touches.mono (Touches.modUnit_after (Touches.of_units (s := s) (by rfl) w) _) fun a b ⟨c, same, e⟩ => ?_
  exact ⟨_, by rw [e, same]; rfl⟩

theorem touches_spillLoft (s : State) (w : Nat) : Touches w (fun u u' => u' = u ∨ u' = u.spilled) s (s.spillLoft w) := by
  unfold State.spillLoft
  dsimp only
  split
  · exact (Touches.of_units rfl w).mono fun _ _ => .inl
  · have spill (t : State) (same : t.units = s.units) : Touches w (fun u u' => u' = u ∨ u' = u.spilled) s
        (t.modUnit w (fun u => { u with loft := [], loftPoison := [], loftResident := false })) :=
      (Touches.of_units same w).trans (Touches.modUnit _ w _) fun a b c same e => .inr (same ▸ e)
    split
    · exact spill _ rfl
    · exact (spill _ rfl).then_units rfl

theorem touches_fillLoft (s : State) (w : Nat) :
    Touches w (fun u u' => u' = u ∨ u.loftResident = false ∧ ∃ l m, u' = u.filled l m) s (s.fillLoft w) := by
  unfold State.fillLoft
  dsimp only
  split
  · exact (Touches.of_units rfl w).mono fun _ _ => .inl
  · next out =>
    have away : (s.unitOf w).loftResident = false := by simpa using out
    have fill : Touches w (fun u u' => u' = u ∨ u.loftResident = false ∧ ∃ l m, u' = u.filled l m) s (s.modUnit w (fun u => { u with
        loft := memWrite [] 0 (memRead s.hbm u.loftPA u.loftSize), loftPoison := linesToLoft s.hbmPoison u.loftPA u.loftSize, loftResident := true })) := by
      have t := Touches.modUnit s w (fun u => { u with
        loft := memWrite [] 0 (memRead s.hbm u.loftPA u.loftSize), loftPoison := linesToLoft s.hbmPoison u.loftPA u.loftSize, loftResident := true })
      exact ⟨t.keys, t.others, .inr ⟨away, _, _, t.unit⟩⟩
    split
    · exact fill
    · exact fill.then_units rfl

theorem touches_reloadContext (s : State) (w : Nat) :
    Touches w (fun u u' => u' = u ∧ u.ctxCheck = [] ∨ u.ctxCheck ≠ [] ∧ ∃ b, u' = u.reloaded b) s (s.reloadContext w) := by
  unfold State.reloadContext
  dsimp only
  split
  · next none =>
    have t := Touches.of_units (s := s) rfl w
    exact ⟨t.keys, t.others, .inl ⟨t.unit, by simpa using none⟩⟩
  · next some' =>
    have t := Touches.modUnit s w (Unit.reloaded fun o n => memRead s.hbm ((s.unitOf w).ctxPA + o) n)
    exact ⟨t.keys, t.others, .inr ⟨by simpa using some', _, t.unit⟩⟩

theorem units_queueRec (s : State) (p : Nat) (r : FaultRec) : (s.queueRec p r).units = s.units := by
  unfold State.queueRec
  dsimp only
  split <;> rfl

theorem touches_faultContext (s : State) (w : Nat) : Touches w (fun u u' => ∃ c0 c1 l, u' = u.broken c0 c1 l) s (s.faultContext w) := by
  unfold State.faultContext
  dsimp only
  refine Touches.then_units ?_ (units_queueRec _ _ _)
  generalize (s.unitOf w).parkCause _ _ = c
  have parked := Touches.modUnit s w (fun u => { u with place := .faulted, cause0 := c 0, cause1 := c 1 })
  split
  · refine parked.trans (touches_writeContext _ w) fun a b c e ⟨l, e'⟩ => ?_
    exact ⟨_, _, l, by rw [e', e]; rfl⟩
  · exact (parked.then_units (by rfl)).mono fun a b e => ⟨_, _, a.ctxCheck, e⟩

/-! ### What the turns of a core keep -/

/-- In `s` the keys of the units rise, and unit `v` is as `P` says. -/
structure Holds (P : Unit → Prop) (v : Nat) (s : State) : Prop where
  keys : rising s.units
  unit : P (s.unitOf v)

theorem Holds.touch {P : Unit → Prop} {v w : Nat} {R : Unit → Unit → Prop} {s t : State} (h : Holds P v s) (changed : Touches w R s t)
    (keeps : v = w → ∀ u, R (s.unitOf v) u → P (s.unitOf v) → P u) : Holds P v t := by
  refine ⟨changed.keys h.keys, ?_⟩
  by_cases same : v = w
  · subst same
    exact keeps rfl _ changed.unit h.unit
  · rw [changed.others v same]
    exact h.unit

theorem Holds.of_units {P : Unit → Prop} {v : Nat} {s t : State} (h : Holds P v s) (same : t.units = s.units) : Holds P v t :=
  h.touch (.of_units same v) fun _ _ e p => e ▸ p

/-- What a unit keeps while cores change hands. -/
structure KeptByTurns (P : Unit → Prop) : Prop where
  spilled : ∀ u : Unit, u.place ≠ .unstarted → P u → P u.spilled
  filled : ∀ (u : Unit) l m, u.runnable = true → u.loftResident = false → P u → P (u.filled l m)
  reloaded : ∀ (u : Unit) b, u.runnable = true → u.ctxCheck ≠ [] → P u → P (u.reloaded b)
  begun : ∀ u : Unit, u.runnable = true → P u → P u.begun
  broken : ∀ (u : Unit) c0 c1 l, u.runnable = true → u.ctxBad ≠ 0 ∨ u.ctxCheck ≠ [] → P u → P (u.broken c0 c1 l)

/-- A unit that may not run is only spilled. -/
theorem KeptByTurns.of_parked {P : Unit → Prop} (parked : ∀ u, P u → u.runnable = false) (spilled : ∀ u : Unit, P u → P u.spilled) :
    KeptByTurns P where
  spilled u _ := spilled u
  filled u _ _ run _ p := by simp [parked u p] at run
  reloaded u _ run _ p := by simp [parked u p] at run
  begun u run p := by simp [parked u p] at run
  broken u _ _ _ run _ p := by simp [parked u p] at run

/-- What neither the write of a budget nor that of a loop register changes, the reload of a record keeps. -/
theorem reloaded_keeps {β : Type} (view : Unit → β) (u : Unit) (b : Nat → Nat → List Byte)
    (budget : ∀ (u : Unit) r n, view (u.modReeve r (fun x => { x with budget := n })) = view u := by intros; rfl)
    (loops : ∀ (u : Unit) k l, view (u.modSheaf k (fun x => loadLoops x l)) = view u := by intros; rfl)
    (check : ∀ u : Unit, view { u with ctxCheck := [] } = view u := by intros; rfl) : view (u.reloaded b) = view u :=
  (check _).trans ((foldl_keeps view (fun u k => loops u k _) _ _).trans (foldl_keeps view (fun u r => budget u r _) _ _))

theorem runnable_reloaded (u : Unit) (b : Nat → Nat → List Byte) : (u.reloaded b).runnable = u.runnable := reloaded_keeps Unit.runnable u b

/-- A unit in the way of another is not that unit, and has started (R150). -/
theorem mem_crowd {s : State} {c uid w : Nat} {other : Option Nat} (keys : rising s.units) (h : w ∈ s.crowd c uid other) :
    w ≠ uid ∧ (s.unitOf w).place ≠ .unstarted := by
  simp only [State.crowd, State.residents, List.mem_filter, List.mem_filterMap, Bool.and_eq_true, bne_iff_ne] at h
  obtain ⟨⟨e, he, found⟩, ne, -⟩ := h
  split at found
  · next res =>
    cases found
    refine ⟨ne, ?_⟩
    have place : (s.unitOf e.1).place = e.2.place := congrArg Unit.place (KMap.get_of_mem Unit.none keys he)
    rw [place]
    exact res.1.2
  · cases found

theorem unitOf_spills_ne {v : Nat} (l : List Nat) (s : State) (h : ∀ w ∈ l, v ≠ w) : (l.foldl State.spillLoft s).unitOf v = s.unitOf v := by
  induction l generalizing s with
  | nil => rfl
  | cons w l ih => rw [List.foldl_cons, ih _ fun x hx => h x (by simp [hx]), (touches_spillLoft s w).others v (h w (by simp))]

section
variable {P : Unit → Prop} {v : Nat} (kept : KeptByTurns P)
include kept

theorem Holds.spills {s : State} (l : List Nat) (h : Holds P v s) (started : v ∈ l → (s.unitOf v).place ≠ .unstarted) :
    Holds P v (l.foldl State.spillLoft s) := by
  induction l generalizing s with
  | nil => exact h
  | cons w l ih =>
    have changed := touches_spillLoft s w
    refine ih (h.touch changed fun same _ e p => ?_) fun later => ?_
    · obtain rfl | rfl := e
      · exact p
      · exact kept.spilled _ (started (by simp [same])) p
    · have before := started (by simp [later])
      by_cases same : v = w
      · subst same
        obtain e | e := changed.unit <;> rw [e] <;> exact before
      · rw [changed.others v same]
        exact before

/-- A unit that runs next takes its half, and its context is read back (R148-R150). -/
theorem Holds.takeHalf {s : State} (c uid : Nat) (other : Option Nat) (h : Holds P v s) (run : (s.unitOf uid).runnable = true) :
    Holds (fun u => P u ∧ (v = uid → u.runnable = true)) v ((s.takeHalf c uid other).reloadContext uid) := by
  have crowd (w : Nat) (hw : w ∈ s.crowd c uid other) := mem_crowd h.keys hw
  have spilled : Holds (fun u => P u ∧ (v = uid → u.runnable = true)) v ((s.crowd c uid other).foldl State.spillLoft s) := by
    have holds := h.spills kept _ fun hv => (crowd v hv).2
    refine ⟨holds.keys, holds.unit, fun same => ?_⟩
    subst same
    rw [unitOf_spills_ne _ s fun w hw => (crowd w hw).1.symm]
    exact run
  have filled : Holds (fun u => P u ∧ (v = uid → u.runnable = true)) v (s.takeHalf c uid other) := by
    refine spilled.touch (touches_fillLoft _ uid) fun same u e ⟨p, may⟩ => ?_
    obtain rfl | ⟨away, l, m, rfl⟩ := e
    · exact ⟨p, may⟩
    · exact ⟨kept.filled _ l m (may same) away p, may⟩
  refine filled.touch (touches_reloadContext _ uid) fun same u e ⟨p, may⟩ => ?_
  obtain ⟨rfl, -⟩ | ⟨checks, b, rfl⟩ := e
  · exact ⟨p, may⟩
  · exact ⟨kept.reloaded _ b (may same) checks p, fun h => (runnable_reloaded _ b).trans (may h)⟩

theorem Holds.putOn {s : State} (c uid : Nat) (h : Holds P v s) (run : (s.unitOf uid).runnable = true) : Holds P v (s.putOn c uid) := by
  have half := h.takeHalf kept c uid (s.second c uid) run
  have begin' (u : Unit) : P u ∧ (v = uid → u.runnable = true) → v = uid → P u.begun := fun ⟨p, may⟩ same => kept.begun u (may same) p
  have running (f : Unit → Unit) (t : State) (same : t.units = ((s.takeHalf c uid (s.second c uid)).reloadContext uid).units)
      (shape : ∀ w : Unit, (((s.takeHalf c uid (s.second c uid)).reloadContext uid).unitOf uid).place = w.place →
        f { w with place := .running, cause0 := 0, cause1 := 0 } = w.begun) :
      Holds P v ((t.modUnit uid (fun u => { u with place := .running, cause0 := 0, cause1 := 0 })).modUnit uid f) := by
    have changed := ((Touches.of_units same uid).modUnit_after (fun u => { u with place := .running, cause0 := 0, cause1 := 0 })).modUnit_after f
    refine ⟨changed.keys half.keys, ?_⟩
    by_cases here : v = uid
    · subst here
      obtain ⟨_, ⟨_, rfl, rfl⟩, e⟩ := changed.unit
      rw [e, shape _ rfl]
      exact begin' _ half.unit rfl
    · rw [changed.others v here]
      exact half.unit.1
  unfold State.putOn
  dsimp only
  split
  · next first =>
    refine running _ _ rfl fun w place => ?_
    rw [place] at first
    simp only [Unit.begun, first, if_true]
  · next again =>
    refine running _ _ rfl fun w place => ?_
    rw [place] at again
    simp only [Unit.begun, again, Bool.false_eq_true, if_false]
end

theorem contextOk_of_fresh {s : State} {uid : Nat} (bad : (s.unitOf uid).ctxBad = 0) (none : (s.unitOf uid).ctxCheck = []) :
    s.contextOk uid = true := by
  simp [State.contextOk, bad, none]

/-- The unit that starts next may run. -/
theorem nextStart_runnable {s : State} {c uid : Nat} {last : Nat × Nat} (keys : rising s.units) (h : s.nextStart c last = some uid) :
    (s.unitOf uid).runnable = true := by
  unfold State.nextStart at h
  dsimp only at h
  split at h
  · next found =>
    cases h
    have may := List.find?_some found
    exact (Bool.and_eq_true_iff.1 may).1
  · next found =>
    cases h
    exact (Bool.and_eq_true_iff.1 (Option.filter_eq_some_iff.1 found).2).1
  · have ready (q : Nat × Nat) (hq : q ∈ s.readyOn c) : (s.unitOf q.2).runnable = true := by
      obtain ⟨e, he, found⟩ := List.mem_filterMap.1 hq
      split at found
      · next may =>
        cases found
        have unit : s.unitOf e.1 = e.2 := KMap.get_of_mem Unit.none keys he
        show (s.unitOf e.1).runnable = true
        rw [unit]
        exact (Bool.and_eq_true_iff.1 may).2
      · cases found
    unfold State.nextOn at h
    dsimp only at h
    split at h
    · next q first =>
      cases h
      exact ready q (List.mem_filter.1 (minPair_mem first)).1
    · obtain ⟨q, first, rfl⟩ := Option.map_eq_some_iff.1 h
      exact ready q (minPair_mem first)

section
variable {P : Unit → Prop} {v : Nat} (kept : KeptByTurns P)
include kept

theorem Holds.startWhole {s : State} (c : Nat) (last : Nat × Nat) (n : Nat) (h : Holds P v s) : Holds P v (s.startWhole c last n) := by
  induction n generalizing s with
  | zero => exact h
  | succ n ih =>
    unfold State.startWhole
    split
    · next uid next' =>
      have run := nextStart_runnable h.keys next'
      split
      · exact h.putOn kept c uid run
      · next bad =>
        refine ih (h.touch (touches_faultContext s uid) fun same u e p => ?_)
        obtain ⟨c0, c1, l, rfl⟩ := e
        subst same
        refine kept.broken _ c0 c1 l run ?_ p
        by_contra whole
        obtain ⟨good, none⟩ := not_or.1 whole
        exact bad (contextOk_of_fresh (not_not.1 good) (not_not.1 none))
    · exact h

theorem Holds.startNext {s : State} (c : Nat) (last : Nat × Nat) (h : Holds P v s) : Holds P v (s.startNext c last) := by
  unfold State.startNext
  dsimp only
  split
  · exact h
  · exact h.startWhole kept c last _

theorem Holds.startCores {s : State} (p : Nat) (h : Holds P v s) : Holds P v (s.startCores p) :=
  List.foldlRecOn (motive := Holds P v) _ _ h fun _ holds c _ => holds.startNext kept c _

/-- A unit that leaves its core is halted; others keep what turns keep, and what the write of a record keeps. -/
theorem Holds.leaveCore {s : State} (uid : Nat) (place : Place) (keys : rising s.units) (recorded : ∀ (u : Unit) l, P u → P (u.checked l))
    (h : P (if v = uid then (s.unitOf v).halt place else s.unitOf v)) : Holds P v (s.leaveCore uid place) := by
  have halted : Holds P v (s.modUnit uid (fun u => u.halt place)) := by
    have changed := Touches.modUnit s uid (fun u => u.halt place)
    refine ⟨changed.keys keys, ?_⟩
    split at h
    · next same =>
      subst same
      rw [changed.unit]
      exact h
    · next ne =>
      rw [changed.others v ne]
      exact h
  have shadow {t : State} (c : Nat) (holds : Holds P v t) : Holds P v (t.toShadow c uid) := by
    refine Holds.of_units ?_ rfl (s := ((t.coreOf c).shadow.filter (· != uid)).foldl _ t)
    refine List.foldlRecOn (motive := Holds P v) _ _ holds fun t holds w _ => ?_
    dsimp only
    split
    · refine holds.touch (touches_writeContext t w) fun _ u ⟨l, e⟩ p => ?_
      rw [e]
      exact recorded _ l p
    · exact holds
  unfold State.leaveCore
  dsimp only
  split
  · refine Holds.startNext kept _ _ ?_
    split
    · exact shadow _ (halted.of_units rfl)
    · exact halted.of_units rfl
  · exact halted
end

end Machine
end Sys2Proof
end

section
/-!
PROOFS. PASS_PLACE (R92, R136, R138, R140): the units that are built, the advances that were held for them, and the cores that start.
-/
namespace Sys2Proof.Machine
open Sys2Proof.Claims
set_option Elab.async false

/-! ### The units that are built -/

/-- The unit of a placed pass with index `u.1` at the places `u.2`. -/
def Pass.unitAt (x : Pass) (p : Nat) (remap slots : List Nat) (mask : Word) (u : Nat × Nat × Nat) : Unit :=
  { startUnit p x u.1 mask with
    slot := slots.getD (u.1 % slots.length) 0, core := remap.getD (slots.getD (u.1 % slots.length) 0) 0, ctxPA := u.2.1, loftPA := u.2.2 }
/-- One unit is built. -/
def State.placeUnit (p : Nat) (x : Pass) (slots : List Nat) (mask : Word) (s : State) (u : Nat × Nat × Nat) : State :=
  { s.setUnit s.nextUid (x.unitAt p (s.partOf p).remap slots mask u) with nextUid := s.nextUid + 1 }

theorem placeUnits_spec {p : Nat} {x : Pass} {slots : List Nat} {mask : Word} (l : List (Nat × Nat × Nat)) (s : State)
    (keys : rising s.units) :
    let t := l.foldl (State.placeUnit p x slots mask) s
    t.parts = s.parts ∧ rising t.units ∧ (∀ v, v < s.nextUid → t.unitOf v = s.unitOf v) ∧
    ∀ i (h : i < l.length), t.unitOf (s.nextUid + i) = x.unitAt p (s.partOf p).remap slots mask l[i] := by
  induction l generalizing s with
  | nil => exact ⟨rfl, keys, fun _ _ => rfl, fun i h => absurd h (Nat.not_lt_zero i)⟩
  | cons u l ih =>
    obtain ⟨parts, rises, below, built⟩ := ih (s.placeUnit p x slots mask u) (rising_set _ _ _ keys)
    have self : (s.placeUnit p x slots mask u).unitOf s.nextUid = x.unitAt p (s.partOf p).remap slots mask u := State.unitOf_setUnit_self s _ _
    refine ⟨parts, rises, fun v lt => (below v (Nat.lt_succ_of_lt lt)).trans (State.unitOf_setUnit_ne s _ (Nat.ne_of_lt lt)), fun i h => ?_⟩
    cases i with
    | zero => exact (below _ (Nat.lt_succ_self _)).trans self
    | succ i =>
      rw [show s.nextUid + (i + 1) = s.nextUid + 1 + i by omega]
      exact built i (by simpa using h)

/-- The state in which the units of a pass are built and the pass is placed. -/
def State.built (v : State) (p : Nat) (x : Pass) (slots : List Nat) (places : List (Nat × Nat)) (mask : Word) : State :=
  let s1 := ((List.range places.length).zip places).foldl (State.placeUnit p x slots mask) v
  s1.modPass p x.seq (fun y => { y with st := .placed, placedAt := s1.nextUid })

theorem exec_passPlace {s v : State} {p : Nat} {x : Pass} {slots : List Nat} {places : List (Nat × Nat)} {mask : Word} (turn : s.nextPass p = some x)
    (ready : x.st = .ready) (chosen : s.slotsFor p x = some slots) (room : s.regionsFor p x = some places)
    (gate : s.startMask p (lrAsid x.lrec) = (mask, v)) :
    exec (.passPlace p) s = .next ((((v.built p x slots places mask).applyHeld p x).claimPreload p x.seq).startCores p) := by
  rw [show exec (.passPlace p) s = execPassPlace p s from rfl, execPassPlace, turn]
  refine (if_neg (by simp [ready])).trans ?_
  rw [chosen, room, gate]
  rfl

/-! ### What a unit's start and its first advances leave -/

/-- What the start of a reeve and an advance leave of it. -/
def Reeve.frame (z : Reeve) : Reeve := { z with started := false, latch := false }
/-- What the start of a unit, an advance and the spill of its loft leave of it. -/
def Unit.frame (u : Unit) : Unit :=
  { u with tl := [], tlWide := [], reeves := [], place := .over, loft := [], loftPoison := [], loftResident := true, cause0 := 0, cause1 := 0 }

/-- A unit built as `u0`, that waits for its start or has started; only a started one may be out of its core's loft. -/
structure StartedFrom (u0 u : Unit) : Prop where
  frame : u.frame = u0.frame
  place : u.place = .unstarted ∧ u.loftResident = true ∨ u.place = .running
  loft : u.loft = []
  reeves : ∀ r, (u.reeveOf r).frame = (u0.reeveOf r).frame

theorem StartedFrom.of_runnable {u0 u : Unit} (h : StartedFrom u0 u) (run : u.runnable = true) : u.place = .unstarted ∧ u.loftResident = true := by
  refine h.place.resolve_right fun running => ?_
  simp [Unit.runnable, running] at run

theorem keptByTurns_startedFrom {u0 : Unit} (check : u0.ctxCheck = []) (whole : u0.ctxBad = 0) : KeptByTurns (StartedFrom u0) where
  spilled u ne h := ⟨h.frame, .inr (h.place.resolve_left fun first => ne first.1), rfl, h.reeves⟩
  filled u l m run away h := by simp [(h.of_runnable run).2] at away
  reloaded u b run checks h := absurd ((congrArg Unit.ctxCheck h.frame).trans check) checks
  begun u run h := by
    refine ⟨h.frame, .inr rfl, h.loft, fun r => ?_⟩
    refine Eq.trans (KMap.proj_get_map Reeve.frame Reeve.reset u.reeves _ (fun q => ?_) r) (h.reeves r)
    rw [(h.of_runnable run).1]
    rfl
  broken u c0 c1 l run bad h := by
    have bad0 : u.ctxBad = 0 := (congrArg Unit.ctxBad h.frame).trans whole
    exact absurd ((congrArg Unit.ctxCheck h.frame).trans check) (bad.resolve_left (not_not.2 bad0))

/-- What an advance keeps: what a counter's write and the event latches leave. -/
theorem advance_keeps {P : Unit → Prop} (counted : ∀ (u : Unit) tl wide, P u → P { u with tl := tl, tlWide := wide })
    (latched : ∀ (u : Unit) r, P u → P (u.modReeve r (fun x => { x with latch := true }))) (u : Unit) (n k : Nat) (wide : Bool) (h : P u) :
    P (u.advance n k wide) := by
  unfold Unit.advance
  split
  · exact h
  · dsimp only
    generalize KMap.set 0 u.tl n _ = tl
    generalize (if (wide && _) = true then _ else _ : KMap (Option Nat)) = seen
    have first := latched _ 0 (counted u tl seen h)
    split
    · exact latched _ 1 first
    · exact first

theorem StartedFrom.advance {u0 u : Unit} (h : StartedFrom u0 u) (n k : Nat) (wide : Bool) : StartedFrom u0 (u.advance n k wide) := by
  refine advance_keeps (P := StartedFrom u0) (fun u tl wide h => ⟨h.frame, h.place, h.loft, h.reeves⟩) (fun u r h => ?_) u n k wide h
  refine ⟨h.frame, h.place, h.loft, fun q => ?_⟩
  by_cases same : q = r
  · rw [same, Unit.reeveOf_modReeve_self]
    exact h.reeves r
  · rw [Unit.reeveOf_modReeve_ne u _ same]
    exact h.reeves q

theorem rescheduled_advance (s : State) (uid n k : Nat) (wide : Bool) : Rescheduled s (s.advance uid n k wide) :=
  Rescheduled.modUnit s uid
    (fun u => advance_keeps (P := fun w => w.tasks = u.tasks) (fun _ _ _ h => h) (fun w r h => (Unit.tasks_modReeve w r).trans h) u n k wide rfl)
    (fun u => advance_keeps (P := fun w => w.core = u.core) (fun _ _ _ h => h) (fun _ _ h => h) u n k wide rfl)

/-- One held advance goes to its unit, or is dropped and counted (R92). -/
theorem applyHeld_steps {M : State → Prop} {s : State} {p : Nat} {x : Pass} (counts : ∀ t n, M t → M (t.count n))
    (advances : ∀ (t : State) uid n k wide, M t → M (t.advance uid n k wide))
    (start : M (s.modPart p (fun t => { t with held := t.held.filter (fun h => h.1 != lrAsid x.lrec) }))) : M (s.applyHeld p x) := by
  unfold State.applyHeld
  refine List.foldlRecOn (motive := M) _ _ start fun t holds h _ => ?_
  split
  · exact counts t _ holds
  · split
    · exact advances t _ _ _ _ holds
    · exact counts t _ holds

theorem rescheduled_applyHeld (s : State) (p : Nat) (x : Pass) : Rescheduled s (s.applyHeld p x) :=
  applyHeld_steps (M := Rescheduled s) (fun t n h => h.trans (rescheduled_count t n)) (fun t uid n k wide h => h.trans (rescheduled_advance t uid n k wide))
    (Rescheduled.modPart s p rfl rfl rfl)

theorem rescheduled_claimPreload (s : State) (p seq : Nat) : Rescheduled s (s.claimPreload p seq) :=
  Rescheduled.mapCores s fun c => by split <;> rfl

theorem Holds.applyHeld {P : Unit → Prop} {v : Nat} {s : State} (advanced : ∀ u n k wide, P u → P (Unit.advance u n k wide)) (p : Nat) (x : Pass)
    (h : Holds P v s) : Holds P v (s.applyHeld p x) := by
  refine applyHeld_steps (M := Holds P v) (fun t n h => h.of_units rfl) (fun t uid n k wide h => ?_) (h.of_units rfl)
  exact h.touch (Touches.modUnit t uid _) fun _ u e holds => e ▸ advanced _ n k wide holds

/-! ### The start state of tasks (R136) -/

theorem get_map_range {α : Type} (d : α) (f : Nat → α) (n r : Nat) (h : r < n) : KMap.get d ((List.range n).map (fun k => (k, f k))) r = f r := by
  have keys : rising ((List.range n).map (fun k => (k, f k))) := by
    simp only [rising, List.map_map]
    exact List.pairwise_map.2 List.pairwise_lt_range
  exact KMap.get_of_mem d keys (List.mem_map.2 ⟨r, List.mem_range.2 h, rfl⟩)

theorem startReeve_registers (x : Pass) (i r : Nat) (mask : Word) (n : Nat) : KMap.get 0 (startReeve x i r mask).g n = match n with
    | 1 => BitVec.ofNat 64 (i * x.rv + r)
    | 2 => BitVec.ofNat 64 (i / x.y % x.x + 2 ^ 8 * (i % x.y) + 2 ^ 16 * (i / (x.x * x.y)) + 2 ^ 24 * r)
    | 3 => BitVec.ofNat 64 (dfld x.lrec 48 8)
    | 4 => BitVec.ofNat 64 (x.x + 2 ^ 8 * x.y + 2 ^ 16 * x.s + 2 ^ 24 * x.rv)
    | 5 => 0x00FFFFFFFFC00000
    | 62 => BitVec.ofNat 64 (0x00FFFFFFFFC00000 + if r = 0 then dfld x.header 24 4 else dfld x.header 24 4 / 2)
    | _ => 0 := by
  have place : i % (x.x * x.y) / x.y + i % x.y * 2 ^ 8 + i / (x.x * x.y) * 2 ^ 16 + r * 2 ^ 24 =
      i / x.y % x.x + 2 ^ 8 * (i % x.y) + 2 ^ 16 * (i / (x.x * x.y)) + 2 ^ 24 * r := by
    rw [Nat.mod_mul_left_div_self]
    ring
  have grid : x.x + x.y * 2 ^ 8 + x.s * 2 ^ 16 + x.rv * 2 ^ 24 = x.x + 2 ^ 8 * x.y + 2 ^ 16 * x.s + 2 ^ 24 * x.rv := by ring
  have argument : toW (lrArg x.lrec).toNat = BitVec.ofNat 64 (dfld x.lrec 48 8) := by rw [toW, BitVec.ofNat_toNat, BitVec.setWidth_eq]; rfl
  simp only [startReeve, List.foldl_cons, List.foldl_nil, KMap.get_set, KMap.get_nil, place, grid, argument]
  obtain rfl | n1 := eq_or_ne n 1
  · rfl
  obtain rfl | n2 := eq_or_ne n 2
  · rfl
  obtain rfl | n3 := eq_or_ne n 3
  · rfl
  obtain rfl | n4 := eq_or_ne n 4
  · rfl
  obtain rfl | n5 := eq_or_ne n 5
  · rfl
  obtain rfl | n62 := eq_or_ne n 62
  · rw [if_pos rfl, toW, windowBase, imLoft]
    simp only [beq_iff_eq]
  · simp only [n1, n2, n3, n4, n5, n62, if_false]

/-- A reeve whose frame is that of a start state starts as R136 says. -/
theorem startsAs_of_frame {z : Reeve} {x : Pass} {i r : Nat} {mask : Word} (h : z.frame = (startReeve x i r mask).frame) :
    startsAs z x i r mask ∧ z.charged = 0 ∧ z.arrivals = 0 ∧ z.stores = [] := by
  have shape : z = { z.frame with g := z.g, started := z.started, latch := z.latch, charged := z.charged, stores := z.stores, arrivals := z.arrivals } := rfl
  have registers : z.frame.g = (startReeve x i r mask).frame.g := congrArg Reeve.g h
  have charged : z.frame.charged = (startReeve x i r mask).frame.charged := congrArg Reeve.charged h
  have arrivals : z.frame.arrivals = (startReeve x i r mask).frame.arrivals := congrArg Reeve.arrivals h
  have stores : z.frame.stores = (startReeve x i r mask).frame.stores := congrArg Reeve.stores h
  have pc : lrProg x.lrec + toW (dfld x.header 8 4) = BitVec.ofNat 64 (dfld x.lrec 56 8 + dfld x.header 8 4) := (BitVec.ofNat_add _ _).symm
  rw [h] at shape
  exact ⟨⟨pc ▸ shape, fun n => (congrArg (fun g => KMap.get 0 g n) registers).trans (startReeve_registers x i r mask n)⟩, charged, arrivals, stores⟩

/-! ### The placed pass -/

/-- A unit started from the template of a placed pass. -/
theorem StartedFrom.placed {p : Nat} {x : Pass} {remap slots : List Nat} {mask : Word} {c : Nat × Nat × Nat} {u : Unit}
    (h : StartedFrom (x.unitAt p remap slots mask c) u) :
    u.live = true ∧ u.part = p ∧ u.passId = passIdOf p x.seq ∧ u.idx = c.1 ∧ u.asid = dfld x.lrec 30 2 ∧ u.rv = x.rv ∧
    u.loftSize = dfld x.header 24 4 ∧ u.slot = slots.getD (c.1 % slots.length) 0 ∧ u.core = remap.getD u.slot 0 ∧ u.loft = [] ∧ u.sheaves = [] ∧
    u.replies = [] ∧ c.2 = (u.ctxPA, u.loftPA) ∧ (u.place = .unstarted ∨ u.place = .running) ∧
    u.streams = x.streams.map (fun e => ⟨e.1, e.2, 0, 0, 0⟩) ∧ ∀ r, r < x.rv →
      startsAs (u.reeveOf r) x c.1 r mask ∧ (u.reeveOf r).charged = 0 ∧ (u.reeveOf r).arrivals = 0 ∧ (u.reeveOf r).stores = [] := by
  obtain ⟨frame, place, loft, reeves⟩ := h
  have slot : u.slot = slots.getD (c.1 % slots.length) 0 := congrArg Unit.slot frame
  refine ⟨congrArg Unit.live frame, congrArg Unit.part frame, congrArg Unit.passId frame, congrArg Unit.idx frame, congrArg Unit.asid frame,
    congrArg Unit.rv frame, congrArg Unit.loftSize frame, slot, ?_, loft, congrArg Unit.sheaves frame, congrArg Unit.replies frame,
    (congrArg (fun u : Unit => (u.ctxPA, u.loftPA)) frame).symm, place.imp (fun first => first.1) id, congrArg Unit.streams frame, fun r hr => ?_⟩
  · rw [slot]
    exact congrArg Unit.core frame
  · exact startsAs_of_frame ((reeves r).trans (congrArg Reeve.frame (get_map_range Reeve.reset (fun r => startReeve x c.1 r mask) x.rv r hr)))

/-- PASS_PLACE: the pass is PLACED, and its units are started from their templates. -/
theorem passPlace_places {s v : State} {p : Nat} {x : Pass} {slots : List Nat} {places : List (Nat × Nat)} {mask : Word} (keys : rising s.units)
    (at' : s.passAt p x.seq = some x) (turn : s.nextPass p = some x) (ready : x.st = .ready) (chosen : s.slotsFor p x = some slots)
    (room : s.regionsFor p x = some places) (gate : s.startMask p (lrAsid x.lrec) = (mask, v)) (units : v.units = s.units) (parts : partsKept s v)
    (next' : v.nextUid = s.nextUid) :
    ∃ t y, exec (.passPlace p) s = .next t ∧ t.passAt p x.seq = some y ∧ y = { x with st := .placed, placedAt := y.placedAt } ∧
      ∀ i (_ : i < x.x * x.y * x.s), StartedFrom (x.unitAt p (s.partOf p).remap slots mask (i, places.getD i (0, 0))) (t.unitOf (s.nextUid + i)) := by
  obtain ⟨dir, part⟩ := parts p
  obtain ⟨sameParts, rises, -, built⟩ := placeUnits_spec (p := p) (x := x) (slots := slots) (mask := mask) ((List.range places.length).zip places) v
    (units ▸ keys)
  have at1 : v.passAt p x.seq = some x := by rw [State.passAt, part]; exact at'
  have len := (regionsFor_spec room).1
  refine ⟨_, { x with st := .placed, placedAt := (v.built p x slots places mask).nextUid }, exec_passPlace turn ready chosen room gate, ?_, rfl,
    fun i hi => ?_⟩
  · have kept := (((rescheduled_applyHeld (v.built p x slots places mask) p x).trans (rescheduled_claimPreload _ p x.seq)).trans
      (rescheduled_startCores _ p)).passAt p x.seq
    rw [kept, State.built, passAt_modPass, if_pos ⟨rfl, rfl⟩, State.passAt, State.partOf, sameParts, ← State.partOf, ← State.passAt, at1]
    rfl
  · have inside : i < ((List.range places.length).zip places).length := by simp [len, hi]
    have unit := built i inside
    rw [List.getElem_zip, List.getElem_range, ← List.getD_eq_getElem _ (0, 0) (by omega), next', part] at unit
    have first : Holds (StartedFrom (x.unitAt p (s.partOf p).remap slots mask (i, places.getD i (0, 0)))) (s.nextUid + i)
        (v.built p x slots places mask) := by
      refine ⟨rises, ?_⟩
      show StartedFrom _ (State.unitOf _ _)
      rw [State.built, State.modPass, State.unitOf_modPart, unit]
      exact ⟨rfl, .inl ⟨rfl, rfl⟩, rfl, fun _ => rfl⟩
    have held := first.applyHeld (fun u n k wide h => h.advance n k wide) p x
    have claimed : Holds _ _ (((v.built p x slots places mask).applyHeld p x).claimPreload p x.seq) := held.of_units rfl
    exact (claimed.startCores (keptByTurns_startedFrom rfl rfl) p).unit

end Sys2Proof.Machine
end

section
/-!
PROOFS. PASS_RESUME (R143, R144, R150, R214, R321): a parked pass takes slots afresh, its units move, and those whose contexts are whole go on.
-/
namespace Sys2Proof.Machine
open Sys2Proof.Claims
set_option Elab.async false

/-! ### The units of a pass -/

theorem unitsOf_mem {s : State} {p uid : Nat} {id : Word} (keys : rising s.units) (h : uid ∈ s.unitsOf p id) :
    (s.unitOf uid).live = true ∧ (s.unitOf uid).initial = false := by
  obtain ⟨i, -, found⟩ := List.mem_filterMap.1 h
  obtain ⟨e, he, rfl⟩ := Option.map_eq_some_iff.1 found
  obtain ⟨mem, mine⟩ := List.mem_filter.1 (List.mem_of_find?_eq_some he)
  simp only [Bool.and_eq_true, Bool.not_eq_true'] at mine
  obtain ⟨⟨⟨live, -⟩, -⟩, initial⟩ := mine
  have unit : s.unitOf e.1 = e.2 := KMap.get_of_mem Unit.none keys mem
  rw [unit]
  exact ⟨live, initial⟩

theorem unitsOf_nodup {s : State} {p : Nat} {id : Word} (keys : rising s.units) : (s.unitsOf p id).Nodup := by
  refine List.Nodup.filterMap (fun i j uid hi hj => ?_) List.nodup_range
  obtain ⟨e, he, rfl⟩ := Option.map_eq_some_iff.1 hi
  obtain ⟨f, hf, same⟩ := Option.map_eq_some_iff.1 hj
  have at' {k : Nat} {e : Nat × Unit} (found : List.find? (fun u : Nat × Unit => u.2.idx == k)
      (s.units.filter (fun u => u.2.live && u.2.part == p && u.2.passId == id && !u.2.initial)) = some e) : (s.unitOf e.1).idx = k := by
    have unit : s.unitOf e.1 = e.2 := KMap.get_of_mem Unit.none keys (List.mem_filter.1 (List.mem_of_find?_eq_some found)).1
    rw [unit]
    simpa using List.find?_some found
  rw [← at' he, ← at' hf, same]

/-- Where each step writes its own unit alone, a fold takes each unit once, as it was; `Inv` is what the steps keep of the rest. -/
theorem foldl_units_once {f : State → Nat → State} {Inv : State → Prop} (others : ∀ s w v, v ≠ w → (f s w).unitOf v = s.unitOf v) {l : List Nat}
    (once : l.Nodup) {s : State} (start : Inv s) (keeps : ∀ t, ∀ w ∈ l, Inv t → t.unitOf w = s.unitOf w → Inv (f t w)) :
    Inv (l.foldl f s) ∧ ∀ w ∈ l, ∃ t, Inv t ∧ t.unitOf w = s.unitOf w ∧ (l.foldl f s).unitOf w = (f t w).unitOf w := by
  induction l generalizing s with
  | nil => exact ⟨start, fun w hw => (List.not_mem_nil hw).elim⟩
  | cons a l ih =>
    obtain ⟨out, once⟩ := List.nodup_cons.1 once
    have ne {w : Nat} (hw : w ∈ l) : w ≠ a := fun same => out (same ▸ hw)
    obtain ⟨inv, units⟩ := ih once (keeps s a (by simp) start rfl) fun t w hw inv same =>
      keeps t w (by simp [hw]) inv (same.trans (others s a w (ne hw)))
    have untouched (t : State) : (l.foldl f t).unitOf a = t.unitOf a := by
      refine List.foldlRecOn (motive := fun u : State => u.unitOf a = t.unitOf a) _ _ rfl fun u same w hw => ?_
      rw [others u w a (ne hw).symm, same]
    refine ⟨inv, fun w hw => ?_⟩
    obtain rfl | hw := List.mem_cons.1 hw
    · exact ⟨s, start, rfl, untouched _⟩
    · obtain ⟨t, inv, same, after⟩ := units w hw
      exact ⟨t, inv, same.trans (others s a w (ne hw)), after⟩

/-! ### Moves and resumptions -/

/-- From `s` to `t` tasks, slots and passes stayed; units may have changed their cores. -/
structure Moved (s t : State) : Prop extends KeepsTasks s t where
  passes : ∀ p, (t.partOf p).passes = (s.partOf p).passes

theorem Rescheduled.moved {s t : State} (h : Rescheduled s t) : Moved s t := ⟨h.toKeepsTasks, h.passes⟩
theorem Moved.refl (s : State) : Moved s s := (Rescheduled.refl s).moved
theorem Moved.trans {s t u : State} (h : Moved s t) (g : Moved t u) : Moved s u :=
  ⟨h.toKeepsTasks.trans g.toKeepsTasks, fun p => (g.passes p).trans (h.passes p)⟩

theorem moved_moveUnit (s : State) (uid k c : Nat) : Moved s (s.moveUnit uid k c) := by
  refine ⟨keepsTasks_moveUnit s uid k c, fun p => ?_⟩
  obtain ⟨u, res, e⟩ := moveUnit_cases s uid k c
  rw [e]
  exact res.passes p

theorem rescheduled_resumeUnit (s : State) (uid : Nat) (place : Place) : Rescheduled s (s.resumeUnit uid place) := by
  unfold State.resumeUnit
  split
  · exact (rescheduled_reloadContext s uid).trans (Rescheduled.modUnit _ uid)
  · exact rescheduled_faultContext s uid

/-- Slot, core and index of a unit. -/
def Unit.seat (u : Unit) : Nat × Nat × Nat := (u.slot, u.core, u.idx)

theorem touches_moveUnit (s : State) (uid k c : Nat) : Touches uid (fun u u' => u'.seat = (k, c, u.idx)) s (s.moveUnit uid k c) := by
  have left (b b' : Bool) : Touches uid (fun u u' => u'.idx = u.idx) s
      (if b then s else (if b' then s.writeContext uid else s).spillLoft uid) := by
    cases b with
    | true => exact (Touches.of_units rfl uid).mono fun a b e => congrArg Unit.idx e
    | false =>
      have written : Touches uid (fun u u' => u'.idx = u.idx) s (if b' then s.writeContext uid else s) := by
        cases b' with
        | true => exact (touches_writeContext s uid).mono fun a b ⟨l, e⟩ => e ▸ rfl
        | false => exact (Touches.of_units rfl uid).mono fun a b e => congrArg Unit.idx e
      refine written.trans (touches_spillLoft _ uid) fun a b c e e' => ?_
      obtain rfl | rfl := e' <;> exact e
  unfold State.moveUnit
  dsimp only
  refine Touches.mono (Touches.modUnit_after (Touches.then_units (left _ _) (by rfl)) _) ?_
  rintro a b ⟨v, idx, e⟩
  rw [e, ← idx]
  rfl

theorem touches_resumeUnit (s : State) (uid : Nat) (place : Place) : Touches uid (fun u u' => u'.seat = u.seat) s (s.resumeUnit uid place) := by
  unfold State.resumeUnit
  split
  · refine ((touches_reloadContext s uid).modUnit_after _).mono fun a b ⟨v, reloaded, e⟩ => ?_
    obtain ⟨rfl, -⟩ | ⟨-, m, rfl⟩ := reloaded
    · exact e ▸ rfl
    · rw [e]
      exact reloaded_keeps Unit.seat a m
  · exact (touches_faultContext s uid).mono fun a b ⟨_, _, _, e⟩ => e ▸ rfl

/-- One unit of a resumed pass. -/
def State.resumeStep (p : Nat) (slots : List Nat) (s : State) (uid : Nat) : State :=
  let u := s.unitOf uid
  let k := s.slotOf p slots u.idx
  let s := s.moveUnit uid k.1 k.2
  if u.place != .preempted then s else s.resumeUnit uid (if (u.reeveOf 0).started then .ready else .unstarted)

theorem resumeStep_preempted {p : Nat} {slots : List Nat} {s : State} {uid : Nat} (h : (s.unitOf uid).place = .preempted) :
    s.resumeStep p slots uid = (s.moveUnit uid (s.slotOf p slots (s.unitOf uid).idx).1 (s.slotOf p slots (s.unitOf uid).idx).2).resumeUnit uid
      (if ((s.unitOf uid).reeveOf 0).started then .ready else .unstarted) := if_neg (by simp [h])
theorem resumeStep_other {p : Nat} {slots : List Nat} {s : State} {uid : Nat} (h : (s.unitOf uid).place ≠ .preempted) :
    s.resumeStep p slots uid = s.moveUnit uid (s.slotOf p slots (s.unitOf uid).idx).1 (s.slotOf p slots (s.unitOf uid).idx).2 := if_pos (by simpa using h)

theorem moved_resumeStep (p : Nat) (slots : List Nat) (s : State) (uid : Nat) : Moved s (s.resumeStep p slots uid) := by
  by_cases pre : (s.unitOf uid).place = .preempted
  · rw [resumeStep_preempted pre]
    exact (moved_moveUnit s uid _ _).trans (rescheduled_resumeUnit _ uid _).moved
  · rw [resumeStep_other pre]
    exact moved_moveUnit s uid _ _

theorem touches_resumeStep (p : Nat) (slots : List Nat) (s : State) (uid : Nat) :
    Touches uid (fun u u' => u'.seat = (slots.getD (u.idx % slots.length) 0, (s.partOf p).remap.getD (slots.getD (u.idx % slots.length) 0) 0, u.idx)) s
      (s.resumeStep p slots uid) := by
  have move := touches_moveUnit s uid (s.slotOf p slots (s.unitOf uid).idx).1 (s.slotOf p slots (s.unitOf uid).idx).2
  by_cases pre : (s.unitOf uid).place = .preempted
  · rw [resumeStep_preempted pre]
    have resume := move.trans (touches_resumeUnit _ uid (if ((s.unitOf uid).reeveOf 0).started then .ready else .unstarted)) fun a b c e e' => e'.trans e
    exact ⟨resume.keys, resume.others, resume.unit⟩
  · rw [resumeStep_other pre]
    exact ⟨move.keys, move.others, move.unit⟩

/-! ### Contexts that are whole -/

/-- A unit that goes on: on its core, or ready for it, with no record that holds it. -/
structure Resumed (u : Unit) : Prop where
  place : u.place = .ready ∨ u.place = .unstarted ∨ u.place = .running
  check : u.ctxCheck = []
  whole : u.ctxBad = 0

theorem keptByTurns_resumed : KeptByTurns Resumed where
  spilled _ _ h := ⟨h.place, h.check, h.whole⟩
  filled _ _ _ _ _ h := ⟨h.place, h.check, h.whole⟩
  reloaded _ _ _ checks h := absurd h.check checks
  begun _ _ h := ⟨.inr (.inr rfl), h.check, h.whole⟩
  broken _ _ _ _ _ bad h := absurd h.check (bad.resolve_left (not_not.2 h.whole))

theorem keptByTurns_seat (x : Nat × Nat × Nat) : KeptByTurns (fun u => u.seat = x) where
  spilled _ _ h := h
  filled _ _ _ _ _ h := h
  reloaded u b _ _ h := (reloaded_keeps Unit.seat u b).trans h
  begun _ _ h := h
  broken _ _ _ _ _ _ h := h

theorem contextOk_congr {s t : State} {uid : Nat} (bad : (t.unitOf uid).ctxBad = (s.unitOf uid).ctxBad)
    (check : (t.unitOf uid).ctxCheck = (s.unitOf uid).ctxCheck) (pa : (t.unitOf uid).ctxPA = (s.unitOf uid).ctxPA)
    (size : (t.unitOf uid).ctxSize = (s.unitOf uid).ctxSize) (hbm : t.hbm = s.hbm) (marks : t.hbmPoison = s.hbmPoison) :
    t.contextOk uid = s.contextOk uid := by
  simp only [State.contextOk, State.hbmBad, bad, check, pa, size, hbm, marks]

theorem hbmBad_clean {s : State} {a n : Nat} (pos : 0 < n) (clean : ∀ b, a ≤ b → b < a + n → KMap.get false s.hbmPoison (b / 64) = false) :
    s.hbmBad a n = false := by
  unfold State.hbmBad
  split
  · rfl
  · simp only [List.any_eq_false, List.mem_range, Bool.not_eq_true]
    intro i hi
    obtain rfl | later := Nat.eq_zero_or_pos i
    · exact clean a (Nat.le_refl a) (by omega)
    · have line := clean (64 * (a / 64 + i)) (by omega) (by omega)
      rwa [Nat.mul_div_cancel_left _ (by decide)] at line

theorem contextOk_of_whole {s : State} {uid : Nat} (h : contextWhole s uid) : s.contextOk uid = true := by
  obtain ⟨bad, bytes, clean⟩ := h
  have size : 0 < (s.unitOf uid).ctxSize := by
    unfold Unit.ctxSize
    omega
  have readable : ((s.unitOf uid).ctxCheck.isEmpty || !s.hbmBad (s.unitOf uid).ctxPA (s.unitOf uid).ctxSize) = true := by
    obtain none | clean := clean
    · rw [none]
      rfl
    · rw [hbmBad_clean size clean]
      exact Bool.or_true _
  simpa only [State.contextOk, bad, readable, Bool.and_true, Bool.true_and, beq_self_eq_true, List.all_eq_true, beq_iff_eq] using bytes

/-- A unit whose context is whole goes on, and no memory is written. -/
theorem resumeUnit_whole {s : State} {uid : Nat} (ok : s.contextOk uid = true) {place : Place} (goes : place = .ready ∨ place = .unstarted) :
    Resumed ((s.resumeUnit uid place).unitOf uid) ∧ (s.resumeUnit uid place).hbm = s.hbm ∧ (s.resumeUnit uid place).hbmPoison = s.hbmPoison := by
  have bad : (s.unitOf uid).ctxBad = 0 := by
    simp only [State.contextOk, Bool.and_eq_true, beq_iff_eq] at ok
    exact ok.1.1
  have memory : (s.reloadContext uid).hbm = s.hbm ∧ (s.reloadContext uid).hbmPoison = s.hbmPoison := by
    unfold State.reloadContext
    dsimp only
    split <;> exact ⟨rfl, rfl⟩
  have reloaded : ((s.reloadContext uid).unitOf uid).ctxCheck = [] ∧ ((s.reloadContext uid).unitOf uid).ctxBad = 0 := by
    obtain ⟨e, none⟩ | ⟨-, b, e⟩ := (touches_reloadContext s uid).unit
    · rw [e]
      exact ⟨none, bad⟩
    · rw [e]
      exact ⟨rfl, (reloaded_keeps Unit.ctxBad _ b).trans bad⟩
  unfold State.resumeUnit
  rw [if_pos ok]
  refine ⟨?_, memory⟩
  rw [State.unitOf_modUnit_self]
  exact ⟨goes.imp_right .inl, reloaded.1, reloaded.2⟩

/-- Where a unit stays on its core, its move writes its slot alone. -/
theorem moveUnit_stays {s : State} {uid k c : Nat} (here : (s.unitOf uid).core = c) :
    (s.moveUnit uid k c).hbm = s.hbm ∧ (s.moveUnit uid k c).hbmPoison = s.hbmPoison ∧
    (s.moveUnit uid k c).unitOf uid = { s.unitOf uid with slot := k, core := c } := by
  unfold State.moveUnit
  dsimp only
  rw [if_pos (by simp [here])]
  exact ⟨rfl, rfl, State.unitOf_modUnit_self _ _ _⟩

/-- A unit that stays on its core with its context whole goes on (R144). -/
theorem resumeStep_stays {p : Nat} {slots : List Nat} {s : State} {uid : Nat} (here : (s.slotOf p slots (s.unitOf uid).idx).2 = (s.unitOf uid).core)
    (ok : s.contextOk uid = true) :
    (s.resumeStep p slots uid).hbm = s.hbm ∧ (s.resumeStep p slots uid).hbmPoison = s.hbmPoison ∧
    ((s.unitOf uid).place = .preempted → Resumed ((s.resumeStep p slots uid).unitOf uid)) := by
  obtain ⟨hbm, marks, unit⟩ := moveUnit_stays (k := (s.slotOf p slots (s.unitOf uid).idx).1) here.symm
  have size : ({ s.unitOf uid with slot := (s.slotOf p slots (s.unitOf uid).idx).1, core := (s.slotOf p slots (s.unitOf uid).idx).2 } : Unit).ctxSize =
    (s.unitOf uid).ctxSize := rfl
  have whole := ok
  rw [← contextOk_congr (by rw [unit]) (by rw [unit]) (by rw [unit]) (by rw [unit, size]) hbm marks] at whole
  by_cases pre : (s.unitOf uid).place = .preempted
  · rw [resumeStep_preempted pre]
    obtain ⟨resumed, hbm', marks'⟩ := resumeUnit_whole whole (place := if ((s.unitOf uid).reeveOf 0).started then .ready else .unstarted) (by
      cases ((s.unitOf uid).reeveOf 0).started <;> simp)
    exact ⟨hbm'.trans hbm, marks'.trans marks, fun _ => resumed⟩
  · rw [resumeStep_other pre]
    exact ⟨hbm, marks, fun h => absurd h pre⟩

/-! ### A record that was just written (R149, R150, R321) -/

theorem length_replySection (s : State) (uid : Nat) : (s.replySection uid).length = 96 * (s.unitOf uid).listed.length := by
  have each (x : Sheaf) (i : Option Instr) (q : Pending) : (replyBytes x i q).length = 96 := by simp [replyBytes, length_leBytes]
  simp [State.replySection, List.length_flatMap, each, Nat.mul_comm]

theorem length_ctxBytes (u : Unit) (seed : Nat) (l : List Byte) : (ctxBytes u seed l).length = 960 + l.length := by
  have loops (x : Sheaf) : (loopBytes x).length = 64 := by simp [loopBytes, length_leBytes]
  simp [ctxBytes, length_leBytes, opaqueBytes, List.length_flatMap, loops]
  omega

/-- A unit's record, if it has one, is in memory as it was written, apart from its loft's image. -/
structure Recorded (s : State) (uid : Nat) : Prop where
  whole : (s.unitOf uid).ctxBad = 0
  clean : s.hbmPoison = []
  loft : (s.unitOf uid).loftPoison = []
  away : apart (s.unitOf uid).ctxPA (s.unitOf uid).ctxSize (s.unitOf uid).loftPA (s.unitOf uid).loftSize
  check : ∀ e ∈ (s.unitOf uid).ctxCheck, 64 ≤ e.1 ∧ e.1 < (s.unitOf uid).ctxSize ∧ KMap.get 0 s.hbm ((s.unitOf uid).ctxPA + e.1) = e.2

theorem Recorded.contextOk {s : State} {uid : Nat} (h : Recorded s uid) : s.contextOk uid = true := by
  have clean : s.hbmBad (s.unitOf uid).ctxPA (s.unitOf uid).ctxSize = false := by
    rw [State.hbmBad, h.clean]
    rfl
  simp only [State.contextOk, h.whole, clean, Bool.not_false, Bool.or_true, Bool.and_true, beq_self_eq_true, Bool.true_and, List.all_eq_true, beq_iff_eq]
  exact fun e he => (h.check e he).2.2

theorem clearMarks_nil (n a l : Nat) : clearMarks [] n a l = [] := rfl

theorem writeContext_memory (s : State) (uid : Nat) : let l := ctxBytes (s.unitOf uid) s.fresh (s.replySection uid)
    (s.writeContext uid).hbm = memWrite s.hbm (s.unitOf uid).ctxPA l ∧
    (s.writeContext uid).hbmPoison = clearMarks s.hbmPoison 64 (s.unitOf uid).ctxPA l.length ∧
    (s.writeContext uid).unitOf uid =
      (s.unitOf uid).checked ((List.range l.length).filterMap (fun o => if ctxOpaque o then some (o, l.getD o 0) else none)) := by
  unfold State.writeContext
  dsimp only
  generalize ctxBytes (s.unitOf uid) s.fresh (s.replySection uid) = l
  exact ⟨rfl, rfl, State.unitOf_modUnit_self _ _ _⟩

theorem Recorded.writeContext {s : State} {uid : Nat} (h : Recorded s uid) : Recorded (s.writeContext uid) uid := by
  have len := length_ctxBytes (s.unitOf uid) s.fresh (s.replySection uid)
  obtain ⟨hbm, marks, unit⟩ := writeContext_memory s uid
  rw [length_replySection] at len
  generalize ctxBytes (s.unitOf uid) s.fresh (s.replySection uid) = l at len hbm marks unit
  refine ⟨unit ▸ h.whole, by rw [marks, h.clean, clearMarks_nil], unit ▸ h.loft, unit ▸ h.away, ?_⟩
  rw [unit, hbm]
  intro e he
  obtain ⟨o, ho, found⟩ := List.mem_filterMap.1 he
  have lo : o < l.length := List.mem_range.1 ho
  split at found
  · next opaque' =>
    cases found
    refine ⟨?_, len ▸ lo, ?_⟩
    · simp only [ctxOpaque, Bool.or_eq_true, Bool.and_eq_true, decide_eq_true_eq] at opaque'
      show 64 ≤ o
      omega
    · show KMap.get 0 (memWrite s.hbm (s.unitOf uid).ctxPA l) ((s.unitOf uid).ctxPA + o) = l.getD o 0
      rw [get_memWrite, if_pos (by omega), Nat.add_sub_cancel_left]
  · cases found

theorem loftToLines_nil (pa : Nat) (l : KMap Bool) : loftToLines [] pa l = l := rfl

theorem Recorded.spillLoft {s : State} {uid : Nat} (h : Recorded s uid) : Recorded (s.spillLoft uid) uid := by
  unfold State.spillLoft
  dsimp only
  split
  · exact h
  · have clear : loftToLines (s.unitOf uid).loftPoison (s.unitOf uid).loftPA (s.hbmWrite (s.unitOf uid).loftPA
        (memRead (s.unitOf uid).loft 0 (s.unitOf uid).loftSize)).hbmPoison = [] := by
      rw [h.loft, loftToLines_nil]
      show clearMarks s.hbmPoison 64 _ _ = []
      rw [h.clean]
      rfl
    rw [clear]
    have spilled : Recorded ({ s.hbmWrite (s.unitOf uid).loftPA (memRead (s.unitOf uid).loft 0 (s.unitOf uid).loftSize) with hbmPoison := [] }.modUnit uid
        (fun u => { u with loft := [], loftPoison := [], loftResident := false })) uid := by
      have unit : ({ s.hbmWrite (s.unitOf uid).loftPA (memRead (s.unitOf uid).loft 0 (s.unitOf uid).loftSize) with hbmPoison := [] }.modUnit uid
        (fun u => { u with loft := [], loftPoison := [], loftResident := false })).unitOf uid = (s.unitOf uid).spilled := State.unitOf_modUnit_self _ _ _
      refine ⟨unit ▸ h.whole, rfl, unit ▸ rfl, unit ▸ h.away, ?_⟩
      rw [unit]
      intro e he
      obtain ⟨lo, hi, byte⟩ := h.check e he
      refine ⟨lo, hi, ?_⟩
      show KMap.get 0 (memWrite s.hbm (s.unitOf uid).loftPA _) ((s.unitOf uid).ctxPA + e.1) = e.2
      have away := h.away
      unfold apart at away
      rw [get_memWrite, length_memRead, if_neg (by omega), byte]
    split
    · exact spilled
    · refine ⟨spilled.whole, rfl, spilled.loft, spilled.away, fun e he => ?_⟩
      obtain ⟨lo, hi, byte⟩ := spilled.check e he
      have at' : (({ s.hbmWrite (s.unitOf uid).loftPA (memRead (s.unitOf uid).loft 0 (s.unitOf uid).loftSize) with hbmPoison := [] }.modUnit uid
          (fun u => { u with loft := [], loftPoison := [], loftResident := false })).unitOf uid).ctxPA = (s.unitOf uid).ctxPA := by
        rw [State.unitOf_modUnit_self]
        rfl
      refine ⟨lo, hi, byte ▸ (get_memWrite _ _ _ _).trans (if_neg ?_)⟩
      rw [length_leBytes, State.unitOf_hbmWrite, at']
      omega

/-- A unit's record and loft leave its old core, and its context is whole when it goes on (R150). -/
theorem moveUnit_contextOk {s : State} {uid k c : Nat} (none : (s.unitOf uid).ctxCheck = []) (bad : (s.unitOf uid).ctxBad = 0) (clean : s.hbmPoison = [])
    (loft : (s.unitOf uid).loftPoison = []) (away : apart (s.unitOf uid).ctxPA (s.unitOf uid).ctxSize (s.unitOf uid).loftPA (s.unitOf uid).loftSize) :
    (s.moveUnit uid k c).contextOk uid = true := by
  have start : Recorded s uid := ⟨bad, clean, loft, away, by simp [none]⟩
  have left (b b' : Bool) : Recorded (if b then s else (if b' then s.writeContext uid else s).spillLoft uid) uid := by
    cases b with
    | true => exact start
    | false =>
      cases b' with
      | true => exact start.writeContext.spillLoft
      | false => exact start.spillLoft
  have seat {t : State} (f : Core → Core) (h : Recorded t uid) :
      ((t.modCore (s.unitOf uid).core f).modUnit uid (fun u => { u with slot := k, core := c })).contextOk uid = true := by
    have unit : ((t.modCore (s.unitOf uid).core f).modUnit uid (fun u => { u with slot := k, core := c })).unitOf uid =
      { t.unitOf uid with slot := k, core := c } := State.unitOf_modUnit_self _ _ _
    refine Eq.trans (contextOk_congr (s := t) ?_ ?_ ?_ ?_ ?_ ?_) h.contextOk
    · rw [unit]
    · rw [unit]
    · rw [unit]
    · rw [unit]
      rfl
    · rfl
    · rfl
  exact seat _ (left _ _)

/-! ### The resumed pass -/

/-- The state in which the units of a parked pass have moved. -/
def State.resumed (s : State) (p : Nat) (x : Pass) (slots : List Nat) : State :=
  (s.unitsOf p (passIdOf p x.seq)).foldl (State.resumeStep p slots) s

theorem exec_passResume {s : State} {p : Nat} {x : Pass} {slots : List Nat} (turn : s.nextPass p = some x) (parked : x.st = .parked)
    (chosen : s.slotsFor p x = some slots) :
    exec (.passResume p) s =
      .next ((((s.resumed p x slots).modPass p x.seq (fun y => { y with st := .running })).claimPreload p x.seq).startCores p) := by
  rw [show exec (.passResume p) s = execPassResume p s from rfl, execPassResume, turn]
  refine (if_neg (by simp [parked])).trans ?_
  rw [chosen]
  rfl

/-- A unit that leaves its core has no store on its way (R214). -/
theorem nextPass_mayMove {s : State} {p : Nat} {x : Pass} {slots : List Nat} (turn : s.nextPass p = some x) (parked : x.st = .parked)
    (chosen : s.slotsFor p x = some slots) {uid : Nat} (h : uid ∈ s.unitsOf p (passIdOf p x.seq))
    (leaves : (s.slotOf p slots (s.unitOf uid).idx).2 ≠ (s.unitOf uid).core) : ∀ e ∈ (s.unitOf uid).reeves, e.2.stores = [] := by
  have fits := (nextPass_candidate turn).2
  rw [State.passFits, chosen] at fits
  dsimp only at fits
  rw [if_pos (by simp [parked]), State.mayMove, List.all_eq_true] at fits
  have may := fits uid h
  simp only [Bool.or_eq_true, beq_iff_eq, List.all_eq_true, List.isEmpty_iff] at may
  exact may.resolve_left leaves

section
variable {s : State} {p : Nat} {x : Pass} {slots : List Nat} (keys : rising s.units)
include keys

/-- What the moves leave, and where each unit is seated. -/
theorem resumed_seats : (rising (s.resumed p x slots).units ∧ Moved s (s.resumed p x slots)) ∧ ∀ uid ∈ s.unitsOf p (passIdOf p x.seq),
    ((s.resumed p x slots).unitOf uid).seat = (slots.getD ((s.unitOf uid).idx % slots.length) 0,
      (s.partOf p).remap.getD (slots.getD ((s.unitOf uid).idx % slots.length) 0) 0, (s.unitOf uid).idx) := by
  obtain ⟨inv, once⟩ := foldl_units_once (Inv := fun t => rising t.units ∧ Moved s t) (fun s w v => (touches_resumeStep p slots s w).others v)
    (unitsOf_nodup (p := p) (id := passIdOf p x.seq) keys) ⟨keys, .refl s⟩
    fun t w _ ⟨rises, moved⟩ _ => ⟨(touches_resumeStep p slots t w).keys rises, moved.trans (moved_resumeStep p slots t w)⟩
  refine ⟨inv, fun uid h => ?_⟩
  obtain ⟨t, ⟨-, moved⟩, same, after⟩ := once uid h
  rw [State.resumed, after, (touches_resumeStep p slots t uid).unit, same, (moved.slots p).2]

/-- Where every unit stays on its core with its context whole, the pre-empted ones go on. -/
theorem resumed_stays (stay : ∀ uid ∈ s.unitsOf p (passIdOf p x.seq), (s.slotOf p slots (s.unitOf uid).idx).2 = (s.unitOf uid).core)
    (whole : ∀ w ∈ s.unitsOf p (passIdOf p x.seq), contextWhole s w) {uid : Nat} (h : uid ∈ s.unitsOf p (passIdOf p x.seq))
    (pre : (s.unitOf uid).place = .preempted) : Resumed ((s.resumed p x slots).unitOf uid) := by
  have step {t : State} {w : Nat} (hw : w ∈ s.unitsOf p (passIdOf p x.seq)) (inv : (t.partOf p).remap = (s.partOf p).remap ∧ t.hbm = s.hbm ∧
      t.hbmPoison = s.hbmPoison) (same : t.unitOf w = s.unitOf w) : (t.slotOf p slots (t.unitOf w).idx).2 = (t.unitOf w).core ∧ t.contextOk w = true := by
    obtain ⟨remap, hbm, marks⟩ := inv
    refine ⟨?_, ?_⟩
    · rw [State.slotOf, remap, same]
      exact stay w hw
    · rw [contextOk_congr (by rw [same]) (by rw [same]) (by rw [same]) (by rw [same]) hbm marks]
      exact contextOk_of_whole (whole w hw)
  obtain ⟨-, once⟩ := foldl_units_once (Inv := fun t => (t.partOf p).remap = (s.partOf p).remap ∧ t.hbm = s.hbm ∧ t.hbmPoison = s.hbmPoison)
    (fun s w v => (touches_resumeStep p slots s w).others v) (unitsOf_nodup (p := p) (id := passIdOf p x.seq) keys) ⟨rfl, rfl, rfl⟩
    fun t w hw inv same => by
      obtain ⟨here, ok⟩ := step hw inv same
      obtain ⟨hbm, marks, -⟩ := resumeStep_stays here ok
      exact ⟨((moved_resumeStep p slots t w).slots p).2.trans inv.1, hbm.trans inv.2.1, marks.trans inv.2.2⟩
  obtain ⟨t, inv, same, after⟩ := once uid h
  obtain ⟨here, ok⟩ := step h inv same
  rw [State.resumed, after]
  exact (resumeStep_stays here ok).2.2 (same ▸ pre)

/-- PASS_RESUME: the pass is RUNNING, its units are seated, and what the turns of the cores keep of a unit after its move holds at the end. -/
theorem passResume_resumes (at' : s.passAt p x.seq = some x) (turn : s.nextPass p = some x) (parked : x.st = .parked)
    (chosen : s.slotsFor p x = some slots) :
    ∃ t, exec (.passResume p) s = .next t ∧ t.passAt p x.seq = some { x with st := .running } ∧ (∀ uid, tasksKept s t uid) ∧
      ∀ P : Unit → Prop, KeptByTurns P → ∀ uid, P ((s.resumed p x slots).unitOf uid) → P (t.unitOf uid) := by
  obtain ⟨⟨rises, moved⟩, -⟩ := resumed_seats (p := p) (x := x) (slots := slots) keys
  have ran : KeepsTasks (s.resumed p x slots) ((s.resumed p x slots).modPass p x.seq (fun y => { y with st := .running })) := KeepsTasks.modPart _ p rfl rfl
  have settled := (rescheduled_claimPreload ((s.resumed p x slots).modPass p x.seq (fun y => { y with st := .running })) p x.seq).trans
    (rescheduled_startCores _ p)
  refine ⟨_, exec_passResume turn parked chosen, ?_, ((moved.toKeepsTasks.trans ran).trans settled.toKeepsTasks).tasksKept, fun P kept uid holds => ?_⟩
  · have before : (s.resumed p x slots).passAt p x.seq = some x := by rw [State.passAt, moved.passes]; exact at'
    rw [settled.passAt, passAt_modPass, if_pos ⟨rfl, rfl⟩, before]
    rfl
  · have first : Holds P uid (((s.resumed p x slots).modPass p x.seq (fun y => { y with st := .running })).claimPreload p x.seq) := ⟨rises, holds⟩
    exact (first.startCores kept p).unit
end

end Sys2Proof.Machine
end

section
/-!
PROOFS. PREEMPT (R144, R148, R150, R151, R322): the units of a pass that wait are halted first, then those that run, whose ENDs retire before. And the
statement on placement, resumption and pre-emption, put together.
-/
namespace Sys2Proof.Machine
open Sys2Proof.Claims
set_option Elab.async false

/-! ### Units that are halted -/

/-- A unit that the pre-emption halted carries the causes of its tasks (R151). -/
structure Halted (u : Unit) : Prop where
  place : u.place = .preempted
  cause0 : u.cause0 = u.preemptCause 0
  cause1 : u.cause1 = u.preemptCause 1
/-- A unit all of whose tasks have ended. -/
structure Over (u : Unit) : Prop where
  place : u.place = .over
  ended : ∀ r, r < u.rv → (u.reeveOf r).ended = true
/-- A unit of a pass none of whose stores has failed: its ENDs retire without ending the pass. -/
structure Calm (u : Unit) : Prop where
  initial : u.initial = false
  fails : ∀ r, (u.reeveOf r).fail = none

theorem Unit.not_runnable {u : Unit} {place : Place} (h : u.place = place) (out : place ≠ .ready ∧ place ≠ .unstarted) : u.runnable = false := by
  simp [Unit.runnable, h, out]

theorem keptByTurns_place {place : Place} (out : place ≠ .ready ∧ place ≠ .unstarted) : KeptByTurns (fun u => u.place = place) :=
  .of_parked (fun _ h => Unit.not_runnable h out) fun _ h => h
theorem keptByTurns_done : KeptByTurns (fun u => Halted u ∨ Over u) := by
  refine .of_parked (fun u h => ?_) fun u h => h.imp (fun h => ⟨h.place, h.cause0, h.cause1⟩) fun h => ⟨h.place, h.ended⟩
  obtain h | h := h <;> exact Unit.not_runnable h.place (by decide)
theorem done_checked (u : Unit) (l : List (Nat × Byte)) (h : Halted u ∨ Over u) : Halted (u.checked l) ∨ Over (u.checked l) :=
  h.imp (fun h => ⟨h.place, h.cause0, h.cause1⟩) fun h => ⟨h.place, h.ended⟩
theorem Calm.checked (u : Unit) (l : List (Nat × Byte)) (h : Calm u) : Calm (u.checked l) := ⟨h.initial, h.fails⟩
theorem keptByTurns_ending : KeptByTurns (fun u => u.place = .running ∨ Over u) := by
  refine .of_parked (fun u h => ?_) fun u h => h.imp id fun h => ⟨h.place, h.ended⟩
  obtain h | h := h
  · exact Unit.not_runnable h (by decide)
  · exact Unit.not_runnable h.place (by decide)

/-- What the write of a reeve leaves of it, reads as before at every reeve. -/
theorem proj_modReeve {β : Type} (g : Reeve → β) (u : Unit) (r : Nat) {f : Reeve → Reeve} (h : ∀ x, g (f x) = g x) (q : Nat) :
    g ((u.modReeve r f).reeveOf q) = g (u.reeveOf q) := by
  by_cases same : q = r
  · rw [same, Unit.reeveOf_modReeve_self, h]
  · rw [Unit.reeveOf_modReeve_ne u f same]

theorem keptByTurns_calm : KeptByTurns Calm where
  spilled _ _ h := ⟨h.initial, h.fails⟩
  filled _ _ _ _ _ h := ⟨h.initial, h.fails⟩
  reloaded u b _ _ h := by
    refine ⟨(reloaded_keeps Unit.initial u b).trans h.initial, fun r => ?_⟩
    refine (congrFun (reloaded_keeps (fun u q => (u.reeveOf q).fail) u b fun u r n => ?_) r).trans (h.fails r)
    exact funext (proj_modReeve Reeve.fail u r fun _ => rfl)
  begun u _ h := by
    refine ⟨h.initial, fun r => (KMap.proj_get_map Reeve.fail Reeve.reset u.reeves _ (fun q => ?_) r).trans (h.fails r)⟩
    split <;> rfl
  broken _ _ _ _ _ _ h := ⟨h.initial, h.fails⟩

/-- What neither the end of a reeve's task nor a sheaf's lost replies change, the end of a task keeps. -/
theorem endTask_keeps {β : Type} (view : Unit → β) (u : Unit) (r : Nat)
    (ends : view (u.modReeve r (fun x => { x with ended := true, link := none, inHandler := false, mode := .task, wait := none, waited := 0 })) = view u)
    (replies : ∀ (u : Unit) k, view (u.modSheaf k (fun x => { x with replies := [] })) = view u := by intros; rfl) : view (u.endTask r) = view u :=
  (foldl_keeps view (fun u k => replies u k) _ _).trans ends

theorem endTask_tasks (u : Unit) (r : Nat) : (u.endTask r).tasks = u.tasks := endTask_keeps Unit.tasks u r (Unit.tasks_modReeve u r)
theorem endTask_core (u : Unit) (r : Nat) : (u.endTask r).core = u.core := endTask_keeps Unit.core u r rfl
theorem endTask_place (u : Unit) (r : Nat) : (u.endTask r).place = u.place := endTask_keeps Unit.place u r rfl

theorem Calm.endTask {u : Unit} (h : Calm u) (r : Nat) : Calm (u.endTask r) := by
  refine ⟨(endTask_keeps Unit.initial u r rfl).trans h.initial, fun q => ?_⟩
  have kept : (fun q => ((u.endTask r).reeveOf q).fail) = fun q => (u.reeveOf q).fail :=
    endTask_keeps (fun u q => (u.reeveOf q).fail) u r (funext (proj_modReeve Reeve.fail u r fun _ => rfl))
  exact (congrFun kept q).trans (h.fails q)

/-- A halt leaves of each reeve all but its waiting PLAN. -/
theorem proj_halt {β : Type} (g : Reeve → β) (h : ∀ x : Reeve, g { x with planWait := none } = g x := by intro; rfl) (u : Unit) (place : Place)
    (r : Nat) : g ((u.halt place).reeveOf r) = g (u.reeveOf r) := KMap.proj_get_map g Reeve.reset u.reeves _ (fun q => h q.2) r

theorem Calm.halt {u : Unit} (h : Calm u) (place : Place) : Calm (u.halt place) :=
  ⟨h.initial, fun r => (proj_halt Reeve.fail (u := u) (place := place) (r := r)).trans (h.fails r)⟩

theorem Over.of_allEnded {u : Unit} (h : u.allEnded = true) : Over (u.halt .over) := by
  refine ⟨rfl, fun r hr => (proj_halt Reeve.ended (u := u) (place := .over) (r := r)).trans ?_⟩
  exact List.all_eq_true.1 h r (List.mem_range.2 hr)

theorem Halted.of_halt (u : Unit) :
    Halted (({ u with cause0 := u.preemptCause 0, cause1 := u.preemptCause 1 } : Unit).halt .preempted) := by
  have same (r : Nat) : (({ u with cause0 := u.preemptCause 0, cause1 := u.preemptCause 1 } : Unit).halt .preempted).preemptCause r = u.preemptCause r := by
    unfold Unit.preemptCause
    rw [proj_halt Reeve.ended]
    rfl
  exact ⟨rfl, (same 0).symm, (same 1).symm⟩

/-! ### An END that retires (R322) -/

/-- The state in which reeve `r` of a unit has ended its task. -/
def State.retired (s : State) (uid r : Nat) : State :=
  ({ s with uid := uid, who := .reeve r, eng := none } : State).modUnit uid (fun u => u.endTask r)

theorem retireEnd_cases {s : State} {uid r : Nat} (calm : Calm (s.unitOf uid)) : s.retireEnd uid r = s ∨ (s.unitOf uid).place = .running ∧
    s.retireEnd uid r = (if ((s.retired uid r).unitOf uid).allEnded then (s.retired uid r).leaveCore uid .over else s.retired uid r).back s := by
  unfold State.retireEnd
  dsimp only
  split
  · exact .inl rfl
  · next may =>
    split
    · refine .inr ⟨?_, congrArg (fun t => State.back t s) ?_⟩
      · simp only [Bool.or_eq_true, not_or, bne_iff_ne, not_not] at may
        exact may.1.1.1.1.1
      · have clean : ({ s with uid := uid, who := .reeve r, eng := none } : State).re.fail = none := calm.fails r
        have task : ({ s with uid := uid, who := .reeve r, eng := none } : State).cu.initial = false := calm.initial
        unfold State.endNow
        rw [clean]
        dsimp only
        rw [if_neg (by rw [task]; decide)]
        rfl
    · exact .inl rfl

theorem retireEnd_idle {s : State} {uid r : Nat} (h : (s.unitOf uid).place ≠ .running) : s.retireEnd uid r = s := if_pos (by simp [h])

theorem rescheduled_retireEnd {s : State} {uid r : Nat} (calm : Calm (s.unitOf uid)) : Rescheduled s (s.retireEnd uid r) := by
  obtain e | ⟨-, e⟩ := retireEnd_cases (r := r) calm
  · rw [e]
    exact .refl s
  · have ended : Rescheduled s (s.retired uid r) :=
      (Rescheduled.of_eq rfl rfl rfl rfl rfl : Rescheduled s { s with uid := uid, who := .reeve r, eng := none }).trans
        (Rescheduled.modUnit _ uid (fun u => endTask_tasks u r) fun u => endTask_core u r)
    have back (t : State) : Rescheduled t (t.back s) := .of_eq rfl rfl rfl rfl rfl
    rw [e]
    refine Rescheduled.trans ?_ (back _)
    split
    · exact ended.trans (rescheduled_leaveCore _ uid .over)
    · exact ended

section
variable {P : Unit → Prop} {v : Nat} (kept : KeptByTurns P) (recorded : ∀ (u : Unit) l, P u → P (u.checked l))
include kept recorded

theorem Holds.retireEnd {s : State} {uid : Nat} (r : Nat) (calm : Calm (s.unitOf uid)) (h : Holds P v s)
    (own : v = uid → (s.unitOf v).place = .running →
      P ((s.unitOf v).endTask r) ∧ (((s.unitOf v).endTask r).allEnded = true → P (((s.unitOf v).endTask r).halt .over))) :
    Holds P v (s.retireEnd uid r) := by
  obtain e | ⟨run, e⟩ := retireEnd_cases (r := r) calm
  · rw [e]
    exact h
  · have ended : Touches uid (fun u u' => u' = u.endTask r) s (s.retired uid r) :=
      ⟨rising_set _ _ _, fun w ne => State.unitOf_modUnit_ne _ _ ne, State.unitOf_modUnit_self _ _ _⟩
    have holds : Holds P v (s.retired uid r) := h.touch ended fun same u e' _ => e' ▸ (own same (same ▸ run)).1
    rw [e]
    refine Holds.of_units ?_ rfl (s := if _ then _ else _)
    split
    · next all =>
      refine Holds.leaveCore kept uid .over holds.keys recorded ?_
      split
      · next same =>
        subst same
        rw [ended.unit] at all ⊢
        exact (own rfl run).2 all
      · exact holds.unit
    · exact holds

end

theorem calm_retireEnd {s : State} {uid r : Nat} (keys : rising s.units) (calm : Calm (s.unitOf uid)) : Calm ((s.retireEnd uid r).unitOf uid) :=
  (Holds.retireEnd keptByTurns_calm Calm.checked r calm ⟨keys, calm⟩ fun _ _ => ⟨calm.endTask r, fun _ => (calm.endTask r).halt _⟩).unit

section
variable {P : Unit → Prop} {v : Nat} (kept : KeptByTurns P) (recorded : ∀ (u : Unit) l, P u → P (u.checked l))
include kept recorded

/-- What a unit keeps when another is halted; and when it is halted itself, where it keeps each step of that. -/
theorem Holds.haltRunning {s : State} {uid : Nat} (calm : Calm (s.unitOf uid)) (h : Holds P v s)
    (own : v = uid → ∀ u, P u → (∀ r, P (u.endTask r)) ∧ (∀ place, P (u.halt place)) ∧ ∀ c0 c1, P { u with cause0 := c0, cause1 := c1 }) :
    Holds P v (s.haltRunning uid) := by
  have ends {t : State} (r : Nat) (calm : Calm (t.unitOf uid)) (h : Holds P v t) : Holds P v (t.retireEnd uid r) :=
    h.retireEnd kept recorded r calm fun same _ => ⟨(own same _ h.unit).1 r, fun _ => (own same _ ((own same _ h.unit).1 r)).2.1 _⟩
  have quiet := calm_retireEnd (r := 0) h.keys calm
  have retired : Holds P v (s.retireEnds uid) := ends 1 quiet (ends 0 calm h)
  unfold State.haltRunning
  dsimp only
  split
  · have marked : Holds P v ((s.retireEnds uid).modUnit uid (fun u => { u with cause0 := u.preemptCause 0, cause1 := u.preemptCause 1 })) :=
      retired.touch (Touches.modUnit _ uid _) fun same u e p => e ▸ (own same _ p).2.2 _ _
    refine Holds.leaveCore kept uid .preempted marked.keys recorded ?_
    split
    · next same => exact (own same _ marked.unit).2.1 _
    · exact marked.unit
  · exact retired
end

theorem haltRunning_idle {s : State} {uid : Nat} (h : (s.unitOf uid).place ≠ .running) : s.haltRunning uid = s := by
  have retired : s.retireEnds uid = s := by rw [State.retireEnds, retireEnd_idle h, retireEnd_idle h]
  unfold State.haltRunning
  dsimp only
  rw [retired]
  exact if_neg (by simpa using h)

theorem Holds.calm_haltRunning {s : State} {uid v : Nat} (calm : Calm (s.unitOf uid)) (h : Holds Calm v s) : Holds Calm v (s.haltRunning uid) :=
  h.haltRunning keptByTurns_calm Calm.checked calm fun _ _ h =>
    ⟨fun r => h.endTask r, fun place => h.halt place, fun _ _ => ⟨h.initial, h.fails⟩⟩

/-- A running unit is halted, or over where all its ENDs retired. -/
theorem haltRunning_done {s : State} {uid : Nat} (keys : rising s.units) (calm : Calm (s.unitOf uid)) (run : (s.unitOf uid).place = .running) :
    Holds (fun u => Halted u ∨ Over u) uid (s.haltRunning uid) := by
  have ends {t : State} (r : Nat) (calm : Calm (t.unitOf uid)) (h : Holds (fun u => u.place = .running ∨ Over u) uid t) :
      Holds (fun u => u.place = .running ∨ Over u) uid (t.retireEnd uid r) := by
    refine h.retireEnd keptByTurns_ending (fun u l h => h.imp id fun h => ⟨h.place, h.ended⟩) r calm fun _ run => ?_
    exact ⟨.inl ((endTask_place _ r).trans run), fun all => .inr (.of_allEnded all)⟩
  have quiet := calm_retireEnd (r := 0) keys calm
  have retired : Holds (fun u => u.place = .running ∨ Over u) uid (s.retireEnds uid) := ends 1 quiet (ends 0 calm ⟨keys, .inl run⟩)
  unfold State.haltRunning
  dsimp only
  split
  · have marked := Touches.modUnit (s.retireEnds uid) uid (fun u => { u with cause0 := u.preemptCause 0, cause1 := u.preemptCause 1 })
    refine Holds.leaveCore keptByTurns_done uid .preempted (marked.keys retired.keys) done_checked ?_
    rw [if_pos rfl, marked.unit]
    exact .inl (.of_halt _)
  · next out => exact ⟨retired.keys, .inr (retired.unit.resolve_left fun run => out (by simpa using run))⟩

theorem rescheduled_haltRunning {s : State} {uid : Nat} (keys : rising s.units) (calm : Calm (s.unitOf uid)) : Rescheduled s (s.haltRunning uid) := by
  have quiet := calm_retireEnd (r := 0) keys calm
  have retired : Rescheduled s (s.retireEnds uid) := (rescheduled_retireEnd calm).trans (rescheduled_retireEnd quiet)
  unfold State.haltRunning
  dsimp only
  split
  · exact (retired.trans (Rescheduled.modUnit _ uid)).trans (rescheduled_leaveCore _ uid .preempted)
  · exact retired

/-! ### All units of a pass -/

/-- A unit that does not run, halted. -/
def Unit.haltedIdle (u : Unit) : Unit :=
  if u.place == .over || u.place == .faulted || u.place == .running then u
  else { u with cause0 := u.preemptCause 0, cause1 := u.preemptCause 1, place := .preempted }

theorem haltedIdle_same {u : Unit} (h : u.place = .over ∨ u.place = .faulted ∨ u.place = .running) : u.haltedIdle = u :=
  if_pos (by simpa [or_assoc] using h)
theorem haltedIdle_halted {u : Unit} (h : u.place ∉ [Place.over, .faulted, .running]) : Halted u.haltedIdle := by
  have waits : u.haltedIdle = { u with cause0 := u.preemptCause 0, cause1 := u.preemptCause 1, place := .preempted } :=
    if_neg (by simpa [or_assoc] using h)
  rw [waits]
  exact ⟨rfl, rfl, rfl⟩
theorem Calm.haltedIdle {u : Unit} (h : Calm u) : Calm u.haltedIdle := by
  unfold Unit.haltedIdle
  split
  · exact h
  · exact ⟨h.initial, h.fails⟩

theorem touches_haltIdle (s : State) (uid : Nat) : Touches uid (fun u u' => u' = u.haltedIdle) s (s.haltIdle uid) :=
  ⟨rising_set _ _ _, fun _ ne => State.unitOf_modUnit_ne _ _ ne, State.unitOf_modUnit_self _ _ _⟩

theorem rescheduled_haltIdle (s : State) (uid : Nat) : Rescheduled s (s.haltIdle uid) := by
  refine Rescheduled.trans (Rescheduled.mapCores s
    (f := fun c => if c.2.preloaded == some uid then { c.2 with preloaded := none } else c.2) fun c => ?_)
    (Rescheduled.modUnit _ uid (f := Unit.haltedIdle) (fun u => ?_) fun u => ?_)
  · split <;> rfl
  · unfold Unit.haltedIdle
    split <;> rfl
  · unfold Unit.haltedIdle
    split <;> rfl

/-- Every unit of a list that does not run is halted in its turn. -/
theorem haltIdles_spec {s : State} (keys : rising s.units) {l : List Nat} (once : l.Nodup) :
    rising (l.foldl State.haltIdle s).units ∧ ∀ uid ∈ l, (l.foldl State.haltIdle s).unitOf uid = (s.unitOf uid).haltedIdle := by
  obtain ⟨rises, units⟩ := foldl_units_once (Inv := fun t : State => rising t.units) (fun s w v => (touches_haltIdle s w).others v) once keys
    fun t w _ rises _ => (touches_haltIdle t w).keys rises
  refine ⟨rises, fun uid h => ?_⟩
  obtain ⟨t, -, same, after⟩ := units uid h
  rw [after, (touches_haltIdle t uid).unit, same]

/-- The units of a list are calm, and the keys rise. -/
def AllCalm (l : List Nat) (s : State) : Prop := rising s.units ∧ ∀ w ∈ l, Calm (s.unitOf w)

theorem AllCalm.haltRunning {l : List Nat} {s : State} (h : AllCalm l s) {uid : Nat} (here : uid ∈ l) : AllCalm l (s.haltRunning uid) := by
  obtain ⟨keys, calm⟩ := h
  have each {w : Nat} (hw : w ∈ l) : Holds Calm w (s.haltRunning uid) := Holds.calm_haltRunning (calm uid here) ⟨keys, calm w hw⟩
  exact ⟨(each here).keys, fun w hw => (each hw).unit⟩

/-- A halted, faulted or ended unit stays as it is while the units of its pass are halted. -/
theorem haltRunnings_keep {P : Unit → Prop} {v : Nat} {all : List Nat} (kept : KeptByTurns P) (recorded : ∀ (u : Unit) l, P u → P (u.checked l))
    (still : ∀ u, P u → u.place ≠ .running) {l : List Nat} (sub : ∀ w ∈ l, w ∈ all) {s : State} (calm : AllCalm all s) (h : P (s.unitOf v)) :
    P ((l.foldl State.haltRunning s).unitOf v) := by
  induction l generalizing s with
  | nil => exact h
  | cons w l ih =>
    have here : w ∈ all := sub w (by simp)
    refine ih (fun x hx => sub x (by simp [hx])) (calm.haltRunning here) ?_
    by_cases same : v = w
    · subst same
      rw [haltRunning_idle (still _ h)]
      exact h
    · exact (Holds.haltRunning kept recorded (calm.2 w here) ⟨calm.1, h⟩ fun e => absurd e same).unit

/-- A running unit is halted, or over, once its turn has come. -/
theorem haltRunnings_done {v : Nat} {all l : List Nat} (sub : ∀ w ∈ l, w ∈ all) (mem : v ∈ l) {s : State} (calm : AllCalm all s)
    (run : (s.unitOf v).place = .running) : Halted ((l.foldl State.haltRunning s).unitOf v) ∨ Over ((l.foldl State.haltRunning s).unitOf v) := by
  induction l generalizing s with
  | nil => cases mem
  | cons w l ih =>
    have here : w ∈ all := sub w (by simp)
    have rest : ∀ x ∈ l, x ∈ all := fun x hx => sub x (by simp [hx])
    have next' := calm.haltRunning here
    by_cases same : v = w
    · subst same
      refine haltRunnings_keep keptByTurns_done done_checked
        (fun u h => ?_) rest next' (haltRunning_done calm.1 (calm.2 v here) run).unit
      obtain h | h := h <;> rw [h.place] <;> decide
    · refine ih rest ((List.mem_cons.1 mem).resolve_left same) next' ?_
      exact (Holds.haltRunning (keptByTurns_place (by decide)) (fun _ _ h => h) (calm.2 w here) ⟨calm.1, run⟩ fun e => absurd e same).unit

theorem rescheduled_haltRunnings {all l : List Nat} (sub : ∀ w ∈ l, w ∈ all) {s : State} (calm : AllCalm all s) :
    Rescheduled s (l.foldl State.haltRunning s) := by
  induction l generalizing s with
  | nil => exact .refl s
  | cons w l ih =>
    have here : w ∈ all := sub w (by simp)
    exact (rescheduled_haltRunning calm.1 (calm.2 w here)).trans (ih (fun x hx => sub x (by simp [hx])) (calm.haltRunning here))

/-! ### The pre-empted pass -/

theorem exec_preempt {s : State} {p : Nat} {x v : Pass} (lacks : s.lacksSlots p = some x) (found : s.victim p (lrPrio x.lrec) = some v) :
    exec (.preempt p) s = .next (s.haltPass p v.seq) := by
  rw [show exec (.preempt p) s = execPreempt p s from rfl, execPreempt, lacks]
  dsimp only
  rw [found]

/-- PREEMPT halts the victim's units: those that wait, and those that run unless all their ENDs retire. -/
theorem haltPass_halts {s : State} {p : Nat} {v : Pass} (keys : rising s.units) (at' : s.passAt p v.seq = some v)
    (fine : ∀ uid ∈ s.unitsOf p (passIdOf p v.seq), ∀ r, ((s.unitOf uid).reeveOf r).fail = none) :
    (s.haltPass p v.seq).passAt p v.seq = some { v with st := .parked } ∧ ∀ uid ∈ s.unitsOf p (passIdOf p v.seq),
      tasksKept s (s.haltPass p v.seq) uid ∧
      (((s.unitOf uid).place = .over ∨ (s.unitOf uid).place = .faulted) → ((s.haltPass p v.seq).unitOf uid).place = (s.unitOf uid).place) ∧
      ((s.unitOf uid).place = .running → Halted ((s.haltPass p v.seq).unitOf uid) ∨ Over ((s.haltPass p v.seq).unitOf uid)) ∧
      ((s.unitOf uid).place ∉ [Place.over, .faulted, .running] → Halted ((s.haltPass p v.seq).unitOf uid)) := by
  unfold State.haltPass
  dsimp only
  have mem {uid : Nat} (h : uid ∈ s.unitsOf p (passIdOf p v.seq)) := unitsOf_mem keys h
  have once := unitsOf_nodup (p := p) (id := passIdOf p v.seq) keys
  generalize s.unitsOf p (passIdOf p v.seq) = us at fine mem once
  have parked : KeepsTasks s (s.modPass p v.seq (fun y => { y with st := .parked })) := KeepsTasks.modPart s p rfl rfl
  obtain ⟨rises, idles⟩ := haltIdles_spec (s := s.modPass p v.seq (fun y => { y with st := .parked })) keys once
  have idled := Rescheduled.foldl rescheduled_haltIdle us (s.modPass p v.seq (fun y => { y with st := .parked }))
  generalize us.foldl State.haltIdle (s.modPass p v.seq (fun y => { y with st := .parked })) = t at rises idles idled
  have unit {uid : Nat} (h : uid ∈ us) : t.unitOf uid = (s.unitOf uid).haltedIdle := idles uid h
  have calm : AllCalm us t := ⟨rises, fun w hw => by
    rw [unit hw]
    exact Calm.haltedIdle ⟨(mem hw).2, fine w hw⟩⟩
  have halted := rescheduled_haltRunnings (fun _ h => h) calm
  refine ⟨?_, fun uid h => ⟨((parked.trans idled.toKeepsTasks).trans halted.toKeepsTasks).tasksKept uid, fun out => ?_, fun run => ?_, fun waits => ?_⟩⟩
  · rw [halted.passAt, idled.passAt, passAt_modPass, if_pos ⟨rfl, rfl⟩, at']
    rfl
  · have out' : (s.unitOf uid).place ≠ .ready ∧ (s.unitOf uid).place ≠ .unstarted := by obtain e | e := out <;> rw [e] <;> decide
    refine haltRunnings_keep (P := fun u => u.place = (s.unitOf uid).place) (keptByTurns_place out') (fun _ _ h => h) (fun u h => ?_) (fun _ h => h) calm ?_
    · rw [h]
      obtain e | e := out <;> rw [e] <;> decide
    · rw [unit h, haltedIdle_same (out.imp_right .inl)]
  · refine haltRunnings_done (fun _ h => h) h calm ?_
    rw [unit h, haltedIdle_same (.inr (.inr run))]
    exact run
  · refine haltRunnings_keep (.of_parked (fun u h => Unit.not_runnable h.place (by decide)) fun u h => ⟨h.place, h.cause0, h.cause1⟩)
      (fun u l h => ⟨h.place, h.cause0, h.cause1⟩) (fun u h => ?_) (fun _ h => h) calm ?_
    · rw [h.place]
      decide
    · rw [unit h]
      exact haltedIdle_halted waits

/-! ### The statement -/

theorem preemptCause_eq (u : Unit) (r : Nat) : u.preemptCause r = if r < u.rv ∧ (u.reeveOf r).ended = false then 0x20 else 0 := by
  simp only [Unit.preemptCause, Bool.and_eq_true, decide_eq_true_eq, Bool.not_eq_true']
  rfl

theorem Halted.causes {u : Unit} (h : Halted u) : u.place = .preempted ∧
    u.cause0 = (if 0 < u.rv ∧ (u.reeveOf 0).ended = false then 0x20 else 0) ∧ u.cause1 = if 1 < u.rv ∧ (u.reeveOf 1).ended = false then 0x20 else 0 :=
  ⟨h.place, h.cause0.trans (preemptCause_eq u 0), h.cause1.trans (preemptCause_eq u 1)⟩

/-- Settles O52: the choice of passes, slots and places first; then each unit by what the turns of the cores keep of it. -/
theorem passesArePlacedResumedAndPreempted : Obligations.PassesArePlacedResumedAndPreempted := by
  intro s p x keys at' id prio waiting
  refine ⟨fun turn => candidates_first (nextPass_candidate turn).1, fun slots chosen => (slotsFor_spec chosen).2, fun places room => regionsFor_spec room,
    fun slots places mask v turn ready chosen room gate units parts next' _ => ?_, fun slots turn parked chosen => ?_, fun v lacks found => ?_⟩
  · obtain ⟨t, y, run, after, shape, started⟩ := passPlace_places keys at' turn ready chosen room gate units parts next'
    exact ⟨t, y, run, after, shape, fun i hi => (started i hi).placed⟩
  · refine ⟨fun uid h leaves => nextPass_mayMove turn parked chosen h leaves, ?_⟩
    obtain ⟨-, seats⟩ := resumed_seats (p := p) (x := x) (slots := slots) keys
    obtain ⟨t, run, after, tasks, keeps⟩ := passResume_resumes keys at' turn parked chosen
    refine ⟨t, run, after, fun uid h => ?_⟩
    have seat : (t.unitOf uid).seat = _ := keeps _ (keptByTurns_seat _) uid (seats uid h)
    obtain ⟨slot, rest⟩ := Prod.ext_iff.1 seat
    obtain ⟨core, idx⟩ := Prod.ext_iff.1 rest
    have goes (resumed : Resumed ((s.resumed p x slots).unitOf uid)) := (keeps Resumed keptByTurns_resumed uid resumed).place
    refine ⟨?_, core, idx, tasks uid, fun pre ⟨stay, whole⟩ => goes (resumed_stays keys stay whole h pre),
      fun pre one leaves none bad clean loft away => goes ?_⟩
    · rw [show (t.unitOf uid).idx = (s.unitOf uid).idx from idx]
      exact slot
    · rw [State.resumed, show s.unitsOf p (passIdOf p x.seq) = [uid] from one, List.foldl_cons, List.foldl_nil, resumeStep_preempted pre]
      refine (resumeUnit_whole (moveUnit_contextOk none bad clean loft away) ?_).1
      cases ((s.unitOf uid).reeveOf 0).started <;> simp
  · obtain ⟨isPass, runs, lower, least, last⟩ := victim_spec found
    refine ⟨isPass, runs, lower, least, last, fun at' fine => ⟨_, exec_preempt lacks found, ?_⟩⟩
    obtain ⟨after, units⟩ := haltPass_halts keys at' fine
    refine ⟨after, fun uid h => ?_⟩
    obtain ⟨tasks, out, running, waits⟩ := units uid h
    exact ⟨tasks, out, fun run => (running run).imp Halted.causes fun h => ⟨h.place, h.ended⟩, fun idle => (waits idle).causes⟩

end Sys2Proof.Machine
end

section
/-!
PROOFS. Bit and byte fields of words and records: the model's fields are the statements' quotients and little-endian bytes.
-/
namespace Sys2Proof.Machine
open Sys2Proof.Claims

theorem fld_eq (n lo w : Nat) : fld n lo w = n / 2 ^ lo % 2 ^ w := by rw [fld, Nat.shiftRight_eq_div_pow]

/-- The bytes of a value, lowest first. -/
theorem leBytes_eq (n v : Nat) : leBytes n v = (List.range n).map (byteOf v) := by
  induction n generalizing v with
  | zero => rfl
  | succ n ih =>
    have next (j : Nat) : byteOf (v / 256) j = byteOf v (j + 1) := by
      rw [byteOf, byteOf, Nat.div_div_eq_div_mul, show 8 * (j + 1) = 8 * j + 8 by omega, Nat.pow_add, Nat.mul_comm]
    have first : BitVec.ofNat 8 v = byteOf v 0 := by rw [byteOf, Nat.mul_zero, Nat.pow_zero, Nat.div_one]
    rw [leBytes, ih, List.range_succ_eq_map, List.map_cons, List.map_map, first]
    exact congrArg _ (List.map_congr_left fun j _ => next j)

theorem getD_leBytes (n v : Nat) {k : Nat} (h : k < n) : (leBytes n v).getD k 0 = byteOf v k := by
  rw [leBytes_eq, List.getD_eq_getElem _ _ (by simpa using h)]
  simp

/-- The bytes of a value written to a memory. -/
theorem holds_memWrite (m : Memory) (a n v : Nat) : holds m (memWrite m a (leBytes n v)) a n v := fun k => by
  rw [get_memWrite, length_leBytes]
  split
  · next h => exact getD_leBytes n v (by omega)
  · rfl

theorem littleEndian_eq (b : Nat → Byte) (n : Nat) : littleEndian b (n + 1) = (b 0).toNat + 256 * littleEndian (fun j => b (j + 1)) n := by
  induction n with
  | zero => simp [littleEndian]
  | succ n ih =>
    rw [littleEndian, ih, littleEndian, show 8 * (n + 1) = 8 * n + 8 by omega, Nat.pow_add]
    ring

theorem leVal_take (l : List Byte) (n : Nat) : leVal (l.take n) = littleEndian (fun j => l.getD j 0) n := by
  induction n generalizing l with
  | zero => rfl
  | succ n ih =>
    rw [littleEndian_eq]
    cases l with
    | nil =>
      have zeros (n : Nat) : littleEndian (fun _ => 0#8) n = 0 := by
        induction n with
        | zero => rfl
        | succ n ih => rw [littleEndian, ih, BitVec.toNat_zero, Nat.zero_mul]
      simp [leVal, zeros]
    | cons b l => rw [List.take_succ_cons, leVal, ih]; rfl

/-- A field of a record (R115-R118, R125, R130). -/
theorem rfld_eq (b : List Byte) (o n : Nat) : rfld b o n = fieldOf b o n := by
  rw [rfld, leVal_take, fieldOf]
  congr 1
  funext j
  rw [List.getD_eq_getElem?_getD, List.getD_eq_getElem?_getD, List.getElem?_drop]

end Sys2Proof.Machine
end

section
/-!
PROOFS. Register writes (R98-R100, R106, R110-R112, R114, R35, R49, R50, R121; assumption log 21): what a write to each window does, by its writer.
-/
namespace Sys2Proof.Machine
open Sys2Proof.Claims

/-! ### BAR 0 -/

theorem barOpen_iff {s : State} {p : Nat} : s.barOpen p = true ↔ s.mgst ≠ .safe ∧ p < 8 := by simp [State.barOpen]

/-- R99: PCCTL takes the low two bits of what is written. -/
theorem writePcctl_congr {s : State} {p : Nat} {v w : Word} (h : v &&& 3 = w &&& 3) : s.writePcctl p v = s.writePcctl p w := by
  rw [State.writePcctl, State.writePcctl, h]

/-- The low two bits of words that agree in bits 0 and 1. -/
theorem and_three_congr {v w : Word} (low : v.getLsbD 0 = w.getLsbD 0) (high : v.getLsbD 1 = w.getLsbD 1) : v &&& 3 = w &&& 3 := by
  have above (i : Nat) : (3 : Word).getLsbD (i + 2) = false := Nat.testBit_lt_two_pow (Nat.lt_of_lt_of_le (by decide) (Nat.pow_le_pow_right (by decide) (Nat.le_add_left 2 i)))
  refine BitVec.eq_of_getLsbD_eq fun i _ => ?_
  rw [BitVec.getLsbD_and, BitVec.getLsbD_and]
  obtain _ | _ | i := i
  · rw [low]
  · rw [high]
  · rw [above, Bool.and_false, Bool.and_false]

theorem bar0Write_window {off : Nat} (h : off % 2 ^ 20 < 64) (s : State) (keep : Bool) (w : Word) :
    s.bar0Write keep off w = s.send (.unsupported (off / 2 ^ 20)) := by
  rw [State.bar0Write, if_pos h, if_pos h, ite_self]

theorem bar0Write_closed {off : Nat} (h : 64 ≤ off % 2 ^ 20) {s : State} (closed : s.mgst = .safe ∨ 8 ≤ off / 2 ^ 20) (keep : Bool) (w : Word) :
    s.bar0Write keep off w = s := by
  have shut : s.barOpen (off / 2 ^ 20) = false := by
    rw [← Bool.not_eq_true, barOpen_iff]
    exact fun ⟨awake, few⟩ => closed.elim awake (Nat.not_le.2 few)
  rw [State.bar0Write]
  rw [shut, Bool.not_false, if_pos rfl, if_neg (Nat.not_lt.2 h)]

theorem bar0Write_open {off : Nat} (h : 64 ≤ off % 2 ^ 20) {s : State} (awake : s.mgst ≠ .safe) (part : off / 2 ^ 20 < 8) (keep : Bool) (w : Word) :
    s.bar0Write keep off w = if 0x1000 ≤ off % 2 ^ 20 ∧ off % 2 ^ 20 < 0x1040 then s.pcWrite keep (off / 2 ^ 20) (off % 2 ^ 20 - 0x1000) w else s := by
  rw [State.bar0Write]
  rw [barOpen_iff.2 ⟨awake, part⟩, Bool.not_true, if_neg Bool.false_ne_true, if_neg (Nat.not_lt.2 h)]

/-- R99: offsets of a slice that name no control register. -/
theorem pcWrite_other (s : State) (keep : Bool) (p : Nat) {o : Nat} (h : o ∉ [0x08, 0x10, 0x18, 0x20, 0x28, 0x30]) (w : Word) : s.pcWrite keep p o w = s := by
  simp only [List.mem_cons, List.not_mem_nil, or_false, not_or] at h
  obtain ⟨h1, h2, h3, h4, h5, h6⟩ := h
  unfold State.pcWrite
  split
  · exact absurd rfl h1
  · exact absurd rfl h2
  · exact absurd rfl h3
  · exact absurd rfl h4
  · exact absurd rfl h5
  · exact absurd rfl h6
  · rfl

theorem exec_registerWrite_bar0 {who : Writer} (h : who ≠ .root) (off : Nat) (w : Word) (s : State) :
    exec (.registerWrite who 0 off w) s = .next (s.touched.bar0Write (who == .keeper) off w) := by
  cases who
  · rfl
  · rfl
  · exact absurd rfl h

/-! ### BAR 4 -/

/-- R112: a command written to MGCMD is the event of that command. -/
theorem exec_mgCommand {w : Word} {c : Nat} {i : Instr} (code : w.toNat % 2 ^ 8 = c)
    (h : (c, i) ∈ [(1, Instr.coldStart (w.getLsbD 16)), (2, .warmStart (w.getLsbD 16)), (3, .liveUpdate (w.toNat / 2 ^ 8 % 2 ^ 8)),
      (4, .createPartition (w.toNat / 2 ^ 8 % 2 ^ 8)), (5, .removePartition (w.toNat / 2 ^ 8 % 2 ^ 8)), (6, .setPowerLimit), (7, .setDomain (w.getLsbD 16))])
    (s : State) : exec (.registerWrite .host 4 0 w) s = exec i s := by
  have write : exec (.registerWrite .host 4 0 w) s = .next (s.touched.mgCommand w) := rfl
  have field : fld w.toNat 0 8 = c := by rw [fld_eq, Nat.pow_zero, Nat.div_one, code]
  rw [write, State.mgCommand, field, fld_eq]
  simp only [List.mem_cons, List.not_mem_nil, or_false, Prod.mk.injEq] at h
  obtain ⟨rfl, rfl⟩ | ⟨rfl, rfl⟩ | ⟨rfl, rfl⟩ | ⟨rfl, rfl⟩ | ⟨rfl, rfl⟩ | ⟨rfl, rfl⟩ | ⟨rfl, rfl⟩ := h <;> rfl

theorem exec_diagnosticWrite {off : Nat} (lo : 0x8000 ≤ off) (hi : off + 8 ≤ 0x10000) (w : Word) (s : State) :
    exec (.registerWrite .host 4 off w) s = .next { s.touched with bar4 := memWrite s.bar4 off (leBytes 8 w.toNat) } := by
  have write : exec (.registerWrite .host 4 off w) s = .next (s.touched.bar4Write off w) := rfl
  rw [write]
  unfold State.bar4Write
  split
  · omega
  · omega
  · omega
  · rw [if_pos ⟨lo, hi⟩]
    rfl

/-! ### The LTR capability (R110, assumption log 21) -/

/-- The exit latency of an idle state in ns. -/
theorem exitLatency_eq (i : Idle) : exitLatency i = match i with | .active => 0 | .i1 => 2000 | .i2 => 20000 | .i3 => 2000000 := by cases i <;> rfl

theorem exec_ltrWrite (off : Nat) (w : Word) (s : State) :
    exec (.registerWrite .host 8 off w) s = .next { s with
      ltr := if w.getLsbD 63 = true then none else some (w.toNat % 2 ^ 32, w.toNat / 2 ^ 32 % 2 ^ 31)
      idle := if w.getLsbD 63 = true ∨ min (w.toNat % 2 ^ 32) (w.toNat / 2 ^ 32 % 2 ^ 31) < exitLatency s.idle then .active else s.idle } := by
  have write : exec (.registerWrite .host 8 off w) s = .next (s.ltrWrite w) := rfl
  rw [write, State.ltrWrite, fld_eq, fld_eq, Nat.pow_zero, Nat.div_one]
  have fits : decide (exitLatency s.idle ≤ latencyOf (w.toNat % 2 ^ 32, w.toNat / 2 ^ 32 % 2 ^ 31)) =
      !decide (min (w.toNat % 2 ^ 32) (w.toNat / 2 ^ 32 % 2 ^ 31) < exitLatency s.idle) := by
    rw [latencyOf_eq, ← decide_not, decide_eq_decide, Nat.not_lt]
  cases w.getLsbD 63
  · simp only [Bool.false_eq_true, if_false, false_or]
    rw [fits]
    by_cases ends : min (w.toNat % 2 ^ 32) (w.toNat / 2 ^ 32 % 2 ^ 31) < exitLatency s.idle <;> simp only [ends] <;> rfl
  · simp

/-! ### The statement -/

/-- R99, R106, R114: what a write past the launch window of an open slice does, by the register that it names. -/
theorem exec_registerWrite_pc {who : Writer} (h : who ≠ .root) {off : Nat} (past : 64 ≤ off % 2 ^ 20) {s : State} (awake : s.mgst ≠ .safe)
    (part : off / 2 ^ 20 < 8) {o : Nat} (o8 : o < 0x40) (at' : off % 2 ^ 20 = 0x1000 + o) (w : Word) :
    exec (.registerWrite who 0 off w) s = .next (s.touched.pcWrite (who == .keeper) (off / 2 ^ 20) o w) := by
  rw [exec_registerWrite_bar0 h, bar0Write_open past (s := s.touched) awake part, if_pos (by omega), at', Nat.add_sub_cancel_left]

/-- Settles O58, window by window: who writes and what the offset names. -/
theorem registerWritesActByWriter : Obligations.RegisterWritesActByWriter := by
  unfold Obligations.RegisterWritesActByWriter
  intro s off w
  refine ⟨fun who notRoot => ⟨fun window => ?_, fun past closed => ?_, fun awake part => ⟨fun at' => ?_, fun at' => ?_, fun at' => ?_, fun past other => ?_,
    fun at' host => ?_, fun keeper at' => ?_⟩⟩, fun zero c i mem code => ?_, ?_, ?_, ?_, rfl, rfl, rfl, ?_, fun few => ?_, fun few => ?_,
    ⟨_, rfl, rfl, ?_⟩, fun few => ?_, fun few => ?_, fun few => ?_, fun few => ?_⟩
  · dsimp only
    rw [exec_registerWrite_bar0 notRoot, bar0Write_window window]
    exact ⟨_, rfl, sends_send _ _⟩
  · dsimp only
    rw [exec_registerWrite_bar0 notRoot, bar0Write_closed (s := s.touched) past closed]
    rfl
  · -- PCCTL
    have opened : s.barOpen (off / 2 ^ 20) = true := barOpen_iff.2 ⟨awake, part⟩
    dsimp only
    rw [exec_registerWrite_pc notRoot (by omega) awake part (o := 8) (by decide) at']
    split
    · next set =>
      refine Eq.trans ?_ (congrArg Host.Outcome.next (if_pos opened).symm)
      exact congrArg _ (writePcctl_congr (and_three_congr (by simp [set]) (by simp)))
    · next clear =>
      refine Eq.trans ?_ (congrArg Host.Outcome.next (if_pos opened).symm)
      exact congrArg _ (writePcctl_congr (and_three_congr (by rw [BitVec.getLsbD_and, Bool.eq_false_iff.2 clear]; rfl) (by simp)))
  · -- PCCANCEL
    dsimp only
    rw [exec_registerWrite_pc notRoot (by omega) awake part (o := 0x10) (by decide) at']
    exact congrArg Host.Outcome.next (if_pos (barOpen_iff.2 ⟨awake, part⟩)).symm
  · -- the trigger doorbell
    dsimp only
    rw [exec_registerWrite_pc notRoot (by omega) awake part (o := 0x18) (by decide) at']
    refine congrArg Host.Outcome.next (if_neg ?_).symm
    simpa using ⟨awake, part⟩
  · -- no register
    dsimp only
    rw [exec_registerWrite_bar0 notRoot, bar0Write_open past (s := s.touched) awake part]
    split
    · rw [pcWrite_other _ _ _ (by simp at other ⊢; omega)]
      rfl
    · rfl
  · -- the keeper's registers, by the host
    dsimp only
    subst host
    simp only [List.mem_cons, List.not_mem_nil, or_false] at at'
    obtain at' | at' | at' := at'
    · exact exec_registerWrite_pc notRoot (by omega) awake part (o := 0x20) (by decide) at' w
    · exact exec_registerWrite_pc notRoot (by omega) awake part (o := 0x28) (by decide) at' w
    · exact exec_registerWrite_pc notRoot (by omega) awake part (o := 0x30) (by decide) at' w
  · -- the keeper's registers, by the keeper
    dsimp only
    subst keeper
    simp only [List.mem_cons, List.not_mem_nil, or_false] at at'
    have set (f : Partition → Partition) : ∃ t, Host.Outcome.next (s.touched.modPart (off / 2 ^ 20) f) = (.next t : Host.Outcome State Fault Refusal) ∧
        t = { s.touched with parts := t.parts } ∧ (∀ q, q ≠ off / 2 ^ 20 → t.partOf q = s.partOf q) ∧ t.partOf (off / 2 ^ 20) = f (s.partOf (off / 2 ^ 20)) :=
      ⟨_, rfl, rfl, fun q ne => State.partOf_modPart_ne s.touched f ne, State.partOf_modPart_self s.touched _ f⟩
    obtain at' | at' | at' := at'
    · rw [exec_registerWrite_pc notRoot (by omega) awake part (o := 0x20) (by decide) at', at']
      exact set _
    · rw [exec_registerWrite_pc notRoot (by omega) awake part (o := 0x28) (by decide) at', at']
      exact set _
    · rw [exec_registerWrite_pc notRoot (by omega) awake part (o := 0x30) (by decide) at', at']
      exact set _
  · -- MGCMD
    dsimp only
    rw [zero]
    exact exec_mgCommand code mem s
  · rintro rfl
    rfl
  · rintro rfl
    rfl
  · intro lo hi
    exact ⟨_, exec_diagnosticWrite lo hi w s, rfl, holds_memWrite _ _ _ _⟩
  · exact ⟨_, exec_ltrWrite off w s, rfl, rfl, by rw [exitLatency_eq] <;> rfl⟩
  · exact ⟨_, congrArg Host.Outcome.next (if_pos few), rfl, KMap.get_set_self _ _ _ _⟩
  · exact ⟨_, congrArg Host.Outcome.next (if_pos few), rfl, KMap.get_set_self _ _ _ _⟩
  · exact KMap.get_set_self _ _ _ _
  · exact ⟨_, congrArg Host.Outcome.next (if_pos few), rfl, State.coreOf_modCore_self s off _⟩
  · exact ⟨_, congrArg Host.Outcome.next (if_pos few), rfl, fun k => KMap.get_set _ _ _ _ _⟩
  · exact ⟨_, congrArg Host.Outcome.next (if_pos few), rfl, KMap.get_set_self _ _ _ _⟩
  · exact ⟨_, congrArg Host.Outcome.next (if_pos few), rfl, KMap.get_set_self _ _ _ _⟩

end Sys2Proof.Machine
end

section
/-!
PROOFS. The statement on management commands fails: SET_DOMAIN with FORCE is said to leave of a pass that it cancels everything but its state and its
stores on their way, and a plan that fails as its peers become unreachable writes its result tile in the name of a unit of that pass (R84, R117, R215).
-/
namespace Sys2Proof.Machine
open Sys2Proof.Claims

theorem image_touched (s : State) : s.touched.image = s.image := rfl

/-- R117: a forced SET_DOMAIN of a new domain that ends OK. -/
theorem domainCmd_forced {s : State} (ok : (s.domainCmd true).mgres = 0) (new : s.domId ≠ toW (rfld s.image 0 8)) :
    s.domainCmd true = (({ s.forceEnd with
      domId := toW (rfld s.image 0 8), peer := some (rfld s.image 16 2), routes := routesOf s.image } : State).reconfirm.refreshReach).result resOK := by
  unfold State.domainCmd at ok ⊢
  dsimp only at ok ⊢
  split at ok
  · exact absurd ok Nat.one_ne_zero
  · next free =>
    split at ok
    · exact absurd ok (Nat.succ_ne_zero 1)
    · next good =>
      rw [if_neg free, if_neg good, if_neg fun same => new same.1, if_neg (by simp), if_pos rfl]

/-! ### A plan that another pass's unit set up -/

namespace MisfiledPlan

/-- A sealed pass that was pre-empted. -/
def pass : Pass := { Pass.new 1 (BitVec.ofNat 512 (2 ^ 64)) with st := .parked }
/-- Its one unit. -/
def unit : Machine.Unit := { Unit.none with live := true, passId := 1, rv := 1, place := .preempted }
/-- A plan listed under pass 2 that the unit of pass 1 set up: one tile of one byte at 4096, with rank 1 at peer 1 (R77, R80). -/
def plan : Plan :=
  { part := 0, handle := 0, passId := 2, uid := 1, reeve := 0, asid := 0, planId := 0
    desc := BitVec.ofNat 512 (2 ^ 32 + 2 ^ 160 + 4096 * 2 ^ 320), members := [0, 1], table := [BitVec.ofNat 128 (1 + 2 ^ 10 + 2 ^ 21)]
    tiles := [], arrived := [], heldC := [], keySlot := 0, failed := none, reserve := [] }
/-- A domain record (R118): domain 1, own peer 0, and peer 1 behind port 0 as the only route. -/
def recordByte (i : Nat) : Byte := if i = 0 then 1 else if i < 64 ∨ i = 68 then 0 else 255
/-- Host memory that holds the record from address 0. -/
@[irreducible] def hostMemory : Memory := (List.range 4160).map (fun i => (i, recordByte i))
/-- The domain record stands in host memory; a cached leaf maps page 4096 to HBM without SEALED. -/
def start : State :=
  { State.reset with
    staleTlb := true, tlb := [⟨0, 0, 4096, 4096, 2 ^ 44 + 7, none⟩], units := [(1, unit)], plans := [plan]
    parts := [(0, { Partition.off with st := .active, shareSize := 2 ^ 30, passes := [pass] })]
    host := hostMemory, mgimgl := 4160 }

theorem memRead_hostMemory : memRead hostMemory 0 4160 = (List.range 4160).map recordByte := by
  have byte (i : Nat) (hi : i < 4160) : KMap.get 0 hostMemory i = recordByte i := by
    unfold hostMemory
    exact get_map_range 0 recordByte 4160 i hi
  unfold memRead
  refine List.map_congr_left fun i hi => ?_
  rw [Nat.zero_add]
  exact byte i (List.mem_range.1 hi)

theorem image_eq : start.image = (List.range 4160).map recordByte := memRead_hostMemory

theorem getD_image {i : Nat} (h : i < 4160) : start.image.getD i 0 = recordByte i := by
  rw [image_eq, List.getD_eq_getElem _ _ (by simpa using h)]
  simp

/-- A route of the record: port 0 for peer 1, and 255 everywhere else. -/
theorem route {k j : Nat} (hk : k < 1024) (hj : j < 4) : fieldOf start.image (64 + 4 * k + j) 1 = if k = 1 ∧ j = 0 then 0 else 255 := by
  have byte : fieldOf start.image (64 + 4 * k + j) 1 = (start.image.getD (64 + 4 * k + j) 0).toNat := by simp [fieldOf, littleEndian]
  rw [byte, getD_image (by omega), recordByte, if_neg (by omega)]
  by_cases one : k = 1 ∧ j = 0
  · rw [if_pos one, if_pos (by omega)]
    rfl
  · rw [if_neg one, if_neg (by omega)]
    rfl

theorem fields : fieldOf start.image 18 46 = 0 ∧ fieldOf start.image 8 8 = 0 ∧ fieldOf start.image 0 8 = 1 ∧ fieldOf start.image 16 2 = 0 := by
  rw [image_eq]
  decide +kernel

theorem domainGood_image : domainGood start.image := by
  obtain ⟨reserved, zero, domain, peer⟩ := fields
  refine ⟨reserved, zero, by rw [domain]; decide, by rw [peer]; decide, fun k hk j hj => ?_, fun j hj => ?_⟩
  · dsimp only
    rw [route hk hj]
    refine ⟨by split <;> simp, fun i hi => ?_⟩
    rw [route hk (by omega)]
    split
    · next one => rw [if_neg (by omega)]; exact fun h => absurd h (by decide)
    · exact fun _ => rfl
  · dsimp only
    rw [peer, route (by decide) hj, if_neg fun one => absurd one.1 (by decide)]

theorem routesOf_image : routesOf start.image = [(1, 0xFFFFFF00)] := by
  have entry (k : Nat) (hk : k < 1024) : BitVec.ofNat 32 (rfld start.image (64 + 4 * k) 4) = if k = 1 then 0xFFFFFF00 else 0xFFFFFFFF := by
    have bytes : fieldOf start.image (64 + 4 * k) 4 = fieldOf start.image (64 + 4 * k + 0) 1 + fieldOf start.image (64 + 4 * k + 1) 1 * 2 ^ 8 +
        fieldOf start.image (64 + 4 * k + 2) 1 * 2 ^ 16 + fieldOf start.image (64 + 4 * k + 3) 1 * 2 ^ 24 := by
      simp only [fieldOf, littleEndian, Nat.add_zero, Nat.mul_zero, Nat.pow_zero, Nat.mul_one, Nat.zero_add]
    rw [rfld_eq, bytes, route hk (by decide), route hk (by decide), route hk (by decide), route hk (by decide)]
    by_cases one : k = 1
    · simp [one]
    · simp [one]
  have listed : routesOf start.image = (List.range 1024).filterMap (fun k => if k = 1 then some (1, 0xFFFFFF00) else none) := by
    refine List.filterMap_congr fun k hk => ?_
    dsimp only
    rw [entry k (List.mem_range.1 hk)]
    by_cases one : k = 1
    · simp [one]
    · simp [one]
  rw [listed]
  decide +kernel

theorem passes_start : (start.partOf 0).passes = [pass] := rfl

/-- The device in its new domain: the pass is cancelled and peer 1, which no port reaches, is lost. -/
def moved : State :=
  ({ start.touched.forceEnd with domId := 1, peer := some 0, routes := [(1, 0xFFFFFF00)] } : State).reconfirm.refreshReach

/-- The snapshot of the pass keeps the byte of the plan's tile. -/
theorem snapshot_kept {y : Pass} (h : moved.passAt 0 1 = some y) : y.snap ≠ [] := by
  have kept : (match moved.passAt 0 1 with | some y => y.snap.isEmpty | none => true) = false := by decide +kernel
  rw [h] at kept
  exact fun none => by simp [none] at kept

end MisfiledPlan

open MisfiledPlan in
/-- Refutes O57: in the state of `MisfiledPlan` the forced SET_DOMAIN cancels the pass, and the plan that its unit set up, which is listed under another
pass and so is not freed with it, fails for want of peer 1. Its result tile is written for that unit, and the snapshot of the pass keeps the byte that stood
there, where the statement lets only the state, the reason, the cause and the stores on their way change. -/
theorem not_managementCommandsEndAsRuled : ¬ Obligations.ManagementCommandsEndAsRuled := by
  unfold Obligations.ManagementCommandsEndAsRuled
  intro rules
  obtain ⟨-, commands, -⟩ := rules start
  obtain ⟨-, -, -, -, -, -, -, -, setDomain⟩ := commands (by decide)
  obtain ⟨-, accepted⟩ := setDomain true
  obtain ⟨-, -, joins⟩ := accepted (by decide) domainGood_image
  obtain ⟨-, -, domain, peer⟩ := fields
  have image : hostBytes start start.mgimga.toNat start.mgimgl.toNat = start.image := rfl
  rw [image, domain, peer] at joins
  obtain ⟨t, run, ok, -, -, -, -, cancels⟩ := joins (fun same => absurd same.1 (by decide)) (.inl rfl)
  have cmd : Host.Outcome.next (start.touched.domainCmd true) = (.next t : Host.Outcome State Fault Refusal) := run
  obtain rfl := Host.Outcome.next.inj cmd
  have new : start.touched.domId ≠ toW (rfld start.touched.image 0 8) := by
    rw [image_touched, rfld_eq, domain]
    decide
  rw [domainCmd_forced ok new, image_touched, rfld_eq, rfld_eq, domain, peer, routesOf_image] at cancels
  obtain ⟨y, after, kept⟩ := cancels rfl 0 (by decide) (by rw [passes_start]; decide) pass (by rw [passes_start]; exact List.mem_singleton_self _)
    (fun ended => by obtain h | h | h := ended <;> exact nomatch h)
  exact snapshot_kept after (by rw [kept]; rfl)

end Sys2Proof.Machine
end

section
/-!
PROOFS. Dispatch (R155, R158, R159, R162, R163, R361-R364): VBLK, VRPL, VJOIN and LPART, each as the one effect that its row gives it.
-/
namespace Sys2Proof.Machine
open Sys2Proof.Claims
set_option Elab.async false

section
variable {s : State} {r : Nat} (w : s.who = .reeve r)
include w

/-- A reeve's word that reads no register before its own checks is ready whatever it names (R333). -/
theorem ready_reeve (regs : List Reg) : s.ready regs [] = true := by
  have named (q : Reg) : s.badReg q = false := by rw [State.badReg, w]
  simp [State.ready, agentOk_reeve w, State.off, State.badNext, w, named]

theorem rIdx_reeve : s.rIdx = r := by rw [State.rIdx, w]

/-- A word that a reeve may run in task mode ends as its effect says. -/
theorem perform_reeve {word : Word} {runs : Runs} {regs : List Reg} {body : State → Eff} {e : Eff} (here : runs.reeve = true) (effect : body s = e) :
    s.perform word runs false regs [] body = finish e :=
  perform_on_reeve w (ready_reeve w regs) here (.inl rfl) effect (List.Subset.refl _) (List.Subset.refl _)

/-- A completed change of the unit that spares the reeve's program counter. -/
theorem finish_modCu {f : Unit → Unit} (pc : ((f s.cu).reeveOf r).pc = (s.cu.reeveOf r).pc) :
    finish (.go (s.modCu f)) = .next ((s.modCu f).ran (s.pc + 8)) := finish_go (pc_modCu_reeve w pc)
end

theorem idle_iff (x : Sheaf) : x.idle = true ↔ x.busy = false ∧ x.queue = [] := by
  rw [Sheaf.idle, Bool.and_eq_true, Bool.not_eq_true', List.isEmpty_iff]

/-! ### VBLK (R361, R362, R159) -/

/-- A block at `addr` with its arguments joins the queue of sheaf `k`, at the next place in program order. -/
def Unit.dispatch (u : Unit) (k : Nat) (addr : Word) (args : List Word) : Unit :=
  { u.modSheaf k (fun x => { x with queue := x.queue ++ [⟨addr, args, u.issue⟩] }) with issue := u.issue + 1 }

section
variable {s : State} {r : Nat} (w : s.who = .reeve r) {a b : Reg} {k : BitVec 3} {n : BitVec 4}
include w

theorem exec_vblk : exec (.vblk a b k n) s = finish
    (if !s.cu.owns r k.toNat then .trap (tr 0x01 3 (encode (.vblk a b k n))) s
    else if s.poisoned a then .trap (tr 0x13 1 0) s
    else if (s.rd a).toNat % 8 ≠ 0 then .trap (tr 0x05 0 (s.rd a)) s
    else if (regRange b n.toNat).any s.poisoned then .trap (tr 0x13 1 0) s
    else if s.lpartHeld || decide (4 ≤ (s.cu.sheafOf k.toNat).queue.length) then .wait .queue s
    else .go (s.modCu (fun u => u.dispatch k.toNat (s.rd a) ((regRange b n.toNat).map s.rd)))) := by
  change execVblk a b k n s = _
  have named : (BitVec.ofNat 3 k.toNat) = k := by rw [BitVec.ofNat_toNat, BitVec.setWidth_eq]
  unfold execVblk
  refine perform_reeve w rfl ?_
  dsimp only
  rw [rIdx_reeve w, named]
  rfl

variable (own : s.cu.owns r k.toNat = true)
include own

theorem exec_vblk_owner : exec (.vblk a b k n) s = finish
    (if s.poisoned a then .trap (tr 0x13 1 0) s
    else if (s.rd a).toNat % 8 ≠ 0 then .trap (tr 0x05 0 (s.rd a)) s
    else if (regRange b n.toNat).any s.poisoned then .trap (tr 0x13 1 0) s
    else if s.lpartHeld || decide (4 ≤ (s.cu.sheafOf k.toNat).queue.length) then .wait .queue s
    else .go (s.modCu (fun u => u.dispatch k.toNat (s.rd a) ((regRange b n.toNat).map s.rd)))) := by
  rw [exec_vblk w, if_neg (by simp [own])]

variable (clean : s.poisoned a = false) (aligned : (s.rd a).toNat % 8 = 0)
include clean aligned

theorem exec_vblk_poisonedArg (arg : ∃ q ∈ regRange b n.toNat, s.poisoned q = true) :
    exec (.vblk a b k n) s = .next (s.dropReplies.takeTrap (tr 0x13 1 0)) := by
  rw [exec_vblk_owner w own, if_neg (by simp [clean]), if_neg (by simp [aligned]), if_pos (List.any_eq_true.2 arg)]
  rfl

variable (args : ∀ q ∈ regRange b n.toNat, s.poisoned q = false)
include args

theorem exec_vblk_checked : exec (.vblk a b k n) s = finish
    (if s.lpartHeld || decide (4 ≤ (s.cu.sheafOf k.toNat).queue.length) then .wait .queue s
    else .go (s.modCu (fun u => u.dispatch k.toNat (s.rd a) ((regRange b n.toNat).map s.rd)))) := by
  rw [exec_vblk_owner w own, if_neg (by simp [clean]), if_neg (by simp [aligned]), if_neg (by simpa using args)]

theorem exec_vblk_queues (free : s.lpartHeld = false) (room : (s.cu.sheafOf k.toNat).queue.length < 4) :
    exec (.vblk a b k n) s = .next ((s.modCu (fun u => { u.modSheaf k.toNat (fun y => { y with
      queue := (s.cu.sheafOf k.toNat).queue ++ [⟨s.rd a, (regRange b n.toNat).map s.rd, u.issue⟩] }) with issue := u.issue + 1 })).ran (s.pc + 8)) := by
  rw [exec_vblk_checked w own clean aligned args, if_neg (by simp [free, room])]
  exact finish_modCu w rfl
end

/-! ### VRPL and VJOIN (R363, R162, R163) -/

section
variable {s : State} {r : Nat} (w : s.who = .reeve r) {d : Reg} {k : BitVec 3}
include w

theorem exec_vrpl : exec (.vrpl d k) s = finish
    (if !s.cu.owns r k.toNat then .trap (tr 0x01 3 (encode (.vrpl d k))) s
    else match (s.cu.sheafOf k.toNat).replies with
      | [] => .wait (.vrpl k.toNat) s
      | v :: t => .go ((s.modCu (fun u => u.modSheaf k.toNat (fun x => { x with replies := t }))).wr d v)) := by
  change execVrpl d k s = _
  refine perform_reeve w rfl ?_
  rw [rIdx_reeve w] <;> rfl

theorem exec_vjoin : exec (.vjoin k) s = finish
    (if !s.cu.owns r k.toNat then .trap (tr 0x01 3 (encode (.vjoin k))) s
    else if (s.cu.sheafOf k.toNat).idle then .go s
    else .wait (.vjoin k.toNat) s) := by
  change execVjoin k s = _
  refine perform_reeve w rfl ?_
  rw [rIdx_reeve w] <;> rfl
end

/-! ### LPART (R158, R364, R153, R154) -/

/-- The lane partition after LPART. -/
def Unit.divided (h : BitVec 2) (u : Unit) : Unit :=
  { u with lpart := lpartOf h.toNat u.rv, sheaves := (List.range 8).foldl (fun m k => KMap.upd Sheaf.reset m k lpartSheaf) u.sheaves }

theorem lpartReady_iff (u : Unit) : u.lpartReady = true ↔ (∀ j < 8, (u.sheafOf j).busy = false ∧ (u.sheafOf j).queue = []) ∧ u.mq = [] := by
  simp only [Unit.lpartReady, Bool.and_eq_true, List.all_eq_true, List.mem_range, idle_iff, List.isEmpty_iff]

theorem exec_lpart {s : State} {r : Nat} (w : s.who = .reeve r) (h : BitVec 2) :
    exec (.lpart h) s = finish (if s.cu.lpartReady then .go (s.modCu (Unit.divided h)) else .wait .lpart s) := by
  change execLpart h s = _
  exact perform_reeve w rfl rfl

/-- Each of the first `n` sheaves is reset once. -/
theorem get_foldl_lpartSheaf (m : KMap Sheaf) (n j : Nat) : KMap.get Sheaf.reset ((List.range n).foldl (fun m k => KMap.upd Sheaf.reset m k lpartSheaf) m) j =
    if j < n then lpartSheaf (KMap.get Sheaf.reset m j) else KMap.get Sheaf.reset m j := by
  induction n generalizing j with
  | zero => simp
  | succ n ih =>
    rw [List.range_succ, List.foldl_append, List.foldl_cons, List.foldl_nil, KMap.upd, KMap.get_set]
    split
    · next here => rw [here, if_pos (Nat.lt_succ_self n), ih, if_neg (Nat.lt_irrefl n)]
    · next other => rw [ih]; exact if_congr (by omega) rfl rfl

theorem sheafOf_divided (h : BitVec 2) (u : Unit) {j : Nat} (low : j < 8) : (u.divided h).sheafOf j = lpartSheaf (u.sheafOf j) :=
  (get_foldl_lpartSheaf u.sheaves 8 j).trans (if_pos low)

/-- `%lpart` names 2^h sheaves; the upper half of them is reeve 1's where the unit has two reeves (R153, R154). -/
theorem nSheaves_divided (h : BitVec 2) (u : Unit) : (u.divided h).nSheaves = 2 ^ h.toNat := by
  have two (b : Bool) (h : BitVec 2) : fld (toW ((if b then (2 ^ 2 ^ h.toNat - 1) - (2 ^ ((2 ^ h.toNat + 1) / 2) - 1) else 0) * 256 + h.toNat)).toNat 0 2 = h.toNat := by
    revert b h; decide
  exact congrArg (2 ^ ·) (two (u.rv == 2) h)

theorem owner_divided (h : BitVec 2) (u : Unit) {j : Nat} (low : j < 2 ^ h.toNat) :
    (u.divided h).owner j = if u.rv = 2 ∧ (2 ^ h.toNat + 1) / 2 ≤ j then 1 else 0 := by
  have bit (b : Bool) (h : BitVec 2) (j : Fin 8) (low : j.val < 2 ^ h.toNat) :
      (toW ((if b then (2 ^ 2 ^ h.toNat - 1) - (2 ^ ((2 ^ h.toNat + 1) / 2) - 1) else 0) * 256 + h.toNat)).toNat.testBit (8 + j.val) =
        (b && decide ((2 ^ h.toNat + 1) / 2 ≤ j.val)) := by
    revert b h j; decide
  have bound : 2 ^ h.toNat ≤ 2 ^ 3 := Nat.pow_le_pow_right (by decide) (Nat.le_of_lt_succ h.isLt)
  have top := bit (u.rv == 2) h ⟨j, lt_of_lt_of_le low bound⟩ low
  have same : (u.divided h).owner j = if ((u.rv == 2) && decide ((2 ^ h.toNat + 1) / 2 ≤ j)) = true then 1 else 0 := by rw [← top]; rfl
  rw [same]
  simp

theorem dispatch_words : Claims.dispatchWords := by
  intro s r a b d k n h w _ args x idle
  refine ⟨fun own => ⟨fun bad => ?_, fun clean odd => ?_, fun clean aligned => ⟨fun arg => ?_, fun good => ⟨fun free room => ?_, fun full => ?_⟩⟩⟩,
    fun other => ⟨?_, ?_, ?_⟩, fun own => ⟨fun v rest reply => ?_, fun none => ?_, fun still => ?_, fun active => ?_⟩, fun still empty => ?_, fun active => ?_⟩
  · rw [exec_vblk_owner w own, if_pos bad] <;> rfl
  · rw [exec_vblk_owner w own, if_neg (by simp [clean]), if_pos odd] <;> rfl
  · exact exec_vblk_poisonedArg w own clean aligned arg
  · exact exec_vblk_queues w own clean aligned good free room
  · rw [exec_vblk_checked w own clean aligned good, if_pos (by simp [show 4 ≤ (s.cu.sheafOf k.toNat).queue.length from full])] <;> rfl
  · rw [exec_vblk w, if_pos (by simp [other])] <;> rfl
  · rw [exec_vrpl w, if_pos (by simp [other])] <;> rfl
  · rw [exec_vjoin w, if_pos (by simp [other])] <;> rfl
  · have reply : (s.cu.sheafOf k.toNat).replies = v :: rest := reply
    rw [exec_vrpl w, if_neg (by simp [own]), reply]
    exact finish_wr (pc_modCu_reeve w rfl) d v
  · have none : (s.cu.sheafOf k.toNat).replies = [] := none
    rw [exec_vrpl w, if_neg (by simp [own]), none] <;> rfl
  · rw [exec_vjoin w, if_neg (by simp [own]), if_pos ((idle_iff _).2 still)]
    exact finish_go rfl
  · rw [exec_vjoin w, if_neg (by simp [own]), if_neg (mt (idle_iff _).1 active)] <;> rfl
  · have cu := cu_ran_modCu (f := Unit.divided h) w (s.pc + 8) fun _ => rfl
    refine ⟨(s.modCu (Unit.divided h)).ran (s.pc + 8), ?_, onlyUnit_ran_modCu w _, ?_, ?_, ?_, fun j low => ?_, fun j low => ?_⟩
    · rw [exec_lpart w, if_pos ((lpartReady_iff _).2 ⟨still, empty⟩)]
      exact finish_modCu w rfl
    · rw [cu, s.dropReplies_cu]
      rfl
    · rw [re_ran (s := s.modCu (Unit.divided h)) w, State.re, State.cu_modCu, rIdx_reeve (s := s.modCu (Unit.divided h)) w, State.re, rIdx_reeve w]
      rfl
    · rw [cu]
      exact nSheaves_divided h s.cu
    · rw [cu]
      exact owner_divided h s.cu low
    · have sheaf : ((s.modCu (Unit.divided h)).ran (s.pc + 8)).cu.sheafOf j = lpartSheaf (s.cu.sheafOf j) := by
        rw [cu]
        exact sheafOf_divided h s.cu low
      rw [sheaf]
      exact ⟨rfl, rfl, rfl, rfl, rfl, rfl, rfl, rfl⟩
  · have busy : ¬s.cu.lpartReady = true := fun ready => by
      obtain ⟨still, empty⟩ := (lpartReady_iff _).1 ready
      obtain ⟨j, low, busy⟩ | entry := active
      · exact busy (still j low)
      · exact entry empty
    rw [exec_lpart w, if_neg busy]
    rfl

end Sys2Proof.Machine
end

section
/-!
PROOFS. What the dispatcher leaves alone when units take and leave cores (R139, R148-R150) and when a pass ends (R142): every field but the ones named
here, and of a partition everything but its queue of fault records.
-/
namespace Sys2Proof.Machine
open Sys2Proof.Claims
set_option Elab.async false

/-- From `s` to `t` units took or left cores: their contexts and lofts went to memory or came from there, and a context that is not whole left a fault
record. -/
structure Shuffled (s t : State) : Prop where
  frame : t = { s with
    units := t.units, cores := t.cores, parts := t.parts, hbm := t.hbm, hbmPoison := t.hbmPoison, telemetry := t.telemetry, fresh := t.fresh }
  parts : ∀ q, t.partOf q = { s.partOf q with faults := (t.partOf q).faults }

theorem Shuffled.of_parts {s t : State} (frame : t = { s with
    units := t.units, cores := t.cores, hbm := t.hbm, hbmPoison := t.hbmPoison, telemetry := t.telemetry, fresh := t.fresh }) : Shuffled s t := by
  rw [frame]
  exact ⟨rfl, fun _ => rfl⟩
theorem Shuffled.refl (s : State) : Shuffled s s := ⟨rfl, fun _ => rfl⟩
theorem Shuffled.trans {s t u : State} (h : Shuffled s t) (g : Shuffled t u) : Shuffled s u := by
  refine ⟨?_, fun q => by rw [g.parts, h.parts]⟩
  rw [g.frame, h.frame]
theorem Shuffled.foldl {α : Type} {f : State → α → State} (h : ∀ s x, Shuffled s (f s x)) (l : List α) (s : State) : Shuffled s (l.foldl f s) :=
  List.foldlRecOn (motive := Shuffled s) _ _ (.refl s) fun _ before x _ => before.trans (h _ x)

theorem Shuffled.modUnit (s : State) (u : Nat) (f : Unit → Unit) : Shuffled s (s.modUnit u f) := .of_parts rfl
theorem Shuffled.modCore (s : State) (c : Nat) (f : Core → Core) : Shuffled s (s.modCore c f) := .of_parts rfl
theorem shuffled_hbmWrite (s : State) (a : Nat) (l : List Byte) : Shuffled s (s.hbmWrite a l) := .of_parts rfl

theorem Shuffled.passAt {s t : State} (h : Shuffled s t) (p q : Nat) : t.passAt p q = s.passAt p q := by
  rw [State.passAt, h.parts, State.passAt]

theorem shuffled_writeContext (s : State) (uid : Nat) : Shuffled s (s.writeContext uid) := by
  unfold State.writeContext
  dsimp only
  generalize ctxBytes (s.unitOf uid) s.fresh (s.replySection uid) = l
  exact .of_parts rfl

theorem shuffled_spillLoft (s : State) (uid : Nat) : Shuffled s (s.spillLoft uid) := by
  unfold State.spillLoft
  dsimp only
  split
  · exact .refl s
  · split <;> exact .of_parts rfl

theorem shuffled_fillLoft (s : State) (uid : Nat) : Shuffled s (s.fillLoft uid) := by
  unfold State.fillLoft
  dsimp only
  split
  · exact .refl s
  · split <;> exact .of_parts rfl

theorem shuffled_takeHalf (s : State) (c uid : Nat) (other : Option Nat) : Shuffled s (s.takeHalf c uid other) :=
  (Shuffled.foldl shuffled_spillLoft _ s).trans (shuffled_fillLoft _ uid)

theorem shuffled_reloadContext (s : State) (uid : Nat) : Shuffled s (s.reloadContext uid) := by
  unfold State.reloadContext
  dsimp only
  split
  · exact .refl s
  · exact .of_parts rfl

theorem shuffled_queueRec (s : State) (p : Nat) (r : FaultRec) : Shuffled s (s.queueRec p r) := by
  have queued : Shuffled s (s.modPart p (fun x => { x with faults := x.faults ++ [r] })) := by
    refine ⟨rfl, fun q => ?_⟩
    by_cases here : q = p
    · rw [here, State.partOf_modPart_self]
    · rw [State.partOf_modPart_ne s _ here]
  unfold State.queueRec
  dsimp only
  split
  · exact queued
  · exact queued.trans (.of_parts rfl)

theorem shuffled_faultContext (s : State) (uid : Nat) : Shuffled s (s.faultContext uid) := by
  unfold State.faultContext
  dsimp only
  refine Shuffled.trans ?_ (shuffled_queueRec _ _ _)
  split
  · exact (Shuffled.modUnit s uid _).trans (shuffled_writeContext _ uid)
  · exact (Shuffled.modUnit s uid _).trans (shuffled_hbmWrite _ _ _)

theorem shuffled_putOn (s : State) (c uid : Nat) : Shuffled s (s.putOn c uid) := by
  unfold State.putOn
  dsimp only
  split
  all_goals
    refine Shuffled.trans (Shuffled.trans (Shuffled.trans ?_ (.modCore _ c _)) (.modUnit _ uid _)) (.modUnit _ uid _)
    exact (shuffled_takeHalf s c uid _).trans (shuffled_reloadContext _ uid)

theorem shuffled_startWhole (s : State) (c : Nat) (last : Nat × Nat) (n : Nat) : Shuffled s (s.startWhole c last n) := by
  induction n generalizing s with
  | zero => exact .refl s
  | succ n ih =>
    unfold State.startWhole
    split
    · split
      · exact shuffled_putOn s c _
      · exact (shuffled_faultContext s _).trans (ih _)
    · exact .refl s

theorem shuffled_startNext (s : State) (c : Nat) (last : Nat × Nat) : Shuffled s (s.startNext c last) := by
  unfold State.startNext
  dsimp only
  split
  · exact .refl s
  · exact shuffled_startWhole s c last _

theorem shuffled_toShadow (s : State) (c uid : Nat) : Shuffled s (s.toShadow c uid) := by
  refine (Shuffled.foldl (fun s v => ?_) _ s).trans (Shuffled.modCore _ c _)
  dsimp only
  split
  · exact shuffled_writeContext s v
  · exact .refl s

theorem shuffled_leaveCore (s : State) (uid : Nat) (place : Place) : Shuffled s (s.leaveCore uid place) := by
  unfold State.leaveCore
  dsimp only
  have halted : Shuffled s (s.modUnit uid (fun u => u.halt place)) := .modUnit s uid _
  split
  · have off := halted.trans (.modCore _ (s.unitOf uid).core (fun x => { x with running := none, turn := 0 }))
    split
    · exact (off.trans (shuffled_toShadow _ _ uid)).trans (shuffled_startNext _ _ _)
    · exact off.trans (shuffled_startNext _ _ _)
  · exact halted

theorem shuffled_stopUnits (s : State) (p seq : Nat) : Shuffled s (s.stopUnits p seq) := by
  unfold State.stopUnits
  dsimp only
  refine Shuffled.trans ?_ (Shuffled.foldl (fun s x => ?_) _ _)
  · split
    · exact .of_parts rfl
    · exact .refl s
  · exact (shuffled_leaveCore s x.1 .over).trans (.of_parts rfl)

/-! ### A core on which nothing may run -/

/-- No unit placed on core `c` may run. -/
def State.quietOn (s : State) (c : Nat) : Prop := ∀ v, (s.unitOf v).runnable = false ∨ (s.unitOf v).core ≠ c

theorem readyOn_quiet {s : State} {c : Nat} (keys : rising s.units) (quiet : s.quietOn c) : s.readyOn c = [] := by
  rw [State.readyOn, List.filterMap_eq_nil_iff]
  intro e he
  have unit : s.unitOf e.1 = e.2 := KMap.get_of_mem Unit.none keys he
  have here := quiet e.1
  rw [unit] at here
  refine if_neg ?_
  rw [Bool.and_eq_true, beq_iff_eq]
  rintro ⟨core, may⟩
  obtain still | other := here
  · rw [may] at still
    cases still
  · exact other core

theorem nextStart_quiet {s : State} {c : Nat} (keys : rising s.units) (quiet : s.quietOn c) (last : Nat × Nat) : s.nextStart c last = none := by
  have may (u : Nat) : ((s.unitOf u).runnable && (s.unitOf u).core == c) = false := by
    rw [Bool.and_eq_false_iff, beq_eq_false_iff_ne]
    exact quiet u
  have rerun : (s.coreOf c).rerun.find? (fun u => (s.unitOf u).runnable && (s.unitOf u).core == c) = none :=
    List.find?_eq_none.2 fun u _ => by rw [may]; exact Bool.false_ne_true
  have preloaded : (s.coreOf c).preloaded.filter (fun u => (s.unitOf u).runnable && (s.unitOf u).core == c) = none :=
    Option.filter_eq_none_iff.2 fun u _ => by rw [may]; exact Bool.false_ne_true
  unfold State.nextStart
  dsimp only
  rw [rerun, preloaded]
  dsimp only
  rw [State.nextOn, readyOn_quiet keys quiet]
  rfl

theorem startNext_quiet {s : State} {c : Nat} (keys : rising s.units) (quiet : s.quietOn c) (last : Nat × Nat) : s.startNext c last = s := by
  unfold State.startNext
  dsimp only
  split
  · rfl
  · rw [State.startWhole, nextStart_quiet keys quiet]

end Sys2Proof.Machine
end

section
/-!
PROOFS. END (R116, R163, R297, R371): when a task may end, what its end leaves, and how the last task's END takes the unit off its core.
-/
namespace Sys2Proof.Machine
open Sys2Proof.Claims
set_option Elab.async false

/-! ### What runs on a core after a unit has left it -/

theorem running_modCore (s : State) (d : Nat) {f : Core → Core} (same : ∀ x, (f x).running = x.running := by intro; rfl) (c : Nat) :
    ((s.modCore d f).coreOf c).running = (s.coreOf c).running := by
  by_cases here : c = d
  · rw [here, State.coreOf_modCore_self, same]
  · rw [State.coreOf_modCore_ne _ _ here]

theorem running_writeContext (s : State) (uid c : Nat) : ((s.writeContext uid).coreOf c).running = (s.coreOf c).running := by
  unfold State.writeContext
  dsimp only
  generalize ctxBytes (s.unitOf uid) s.fresh (s.replySection uid) = l
  rw [State.coreOf_modUnit, running_modCore]
  rfl

theorem running_faultContext (s : State) (uid c : Nat) : ((s.faultContext uid).coreOf c).running = (s.coreOf c).running := by
  have queued (t : State) (p : Nat) (r : FaultRec) : (t.queueRec p r).coreOf c = t.coreOf c := by
    unfold State.queueRec
    dsimp only
    split <;> rfl
  unfold State.faultContext
  dsimp only
  rw [State.record, queued]
  split
  · rw [running_writeContext, State.coreOf_modUnit]
  · rfl

theorem running_putOn (s : State) (c uid : Nat) : ((s.putOn c uid).coreOf c).running = some uid := by
  unfold State.putOn
  dsimp only
  split <;> rw [State.coreOf_modUnit, State.coreOf_modUnit, State.coreOf_modCore_self]

section
variable {s : State} {c v : Nat} {place : Place} (out : place ≠ .ready ∧ place ≠ .unstarted)
include out

/-- A unit whose place lets it not run does not come on a core. -/
theorem running_startWhole_ne (last : Nat × Nat) (n : Nat) (holds : Holds (fun u => u.place = place) v s) (off : (s.coreOf c).running ≠ some v) :
    ((s.startWhole c last n).coreOf c).running ≠ some v := by
  induction n generalizing s with
  | zero => exact off
  | succ n ih =>
    unfold State.startWhole
    split
    · next uid next' =>
      have run := nextStart_runnable holds.keys next'
      have other : v ≠ uid := fun same => by rw [← same, Unit.not_runnable holds.unit out] at run; cases run
      split
      · rw [running_putOn]
        exact fun same => other (Option.some.inj same).symm
      · refine ih ?_ (by rw [running_faultContext]; exact off)
        exact holds.touch (touches_faultContext s uid) fun same => absurd same other
    · exact off

theorem running_startNext_ne (last : Nat × Nat) (holds : Holds (fun u => u.place = place) v s) (off : (s.coreOf c).running ≠ some v) :
    ((s.startNext c last).coreOf c).running ≠ some v := by
  unfold State.startNext
  dsimp only
  split
  · exact off
  · exact running_startWhole_ne out last _ holds off
end

/-! ### A unit that is over leaves its core -/

theorem leaveCore_over (s : State) (uid : Nat) : s.leaveCore uid .over =
    if (s.coreOf (s.unitOf uid).core).running == some uid then
      ((s.modUnit uid (fun u => u.halt .over)).modCore (s.unitOf uid).core (fun x => { x with running := none, turn := 0 })).startNext
        (s.unitOf uid).core ((s.unitOf uid).idx, uid)
    else s.modUnit uid (fun u => u.halt .over) := rfl

section
variable {s : State} {uid : Nat} (keys : rising s.units)
include keys

theorem holds_halted_over : Holds (fun u => u.place = .over) uid (s.modUnit uid (fun u => u.halt .over)) :=
  ⟨(Touches.modUnit s uid _).keys keys, by rw [State.unitOf_modUnit_self]; rfl⟩

theorem place_leaveCore_over : ((s.leaveCore uid .over).unitOf uid).place = .over :=
  (Holds.leaveCore (keptByTurns_place (by decide)) uid .over keys (fun _ _ h => h) (by rw [if_pos rfl]; rfl)).unit

theorem running_leaveCore_over : ((s.leaveCore uid .over).coreOf (s.unitOf uid).core).running ≠ some uid := by
  rw [leaveCore_over]
  split
  · refine running_startNext_ne (place := .over) (by decide) _ ((holds_halted_over keys).of_units rfl) ?_
    rw [State.coreOf_modCore_self]
    exact (Option.some_ne_none uid).symm
  · next other => exact fun same => other (by rw [← same]; exact beq_self_eq_true _)

/-- Where no other unit may run there, nothing is read or written. -/
theorem hbm_leaveCore_over (quiet : ∀ v, v ≠ uid → (s.unitOf v).runnable = false ∨ (s.unitOf v).core ≠ (s.unitOf uid).core) :
    (s.leaveCore uid .over).hbm = s.hbm := by
  rw [leaveCore_over]
  split
  · rw [startNext_quiet]
    · rfl
    · exact (holds_halted_over keys).keys
    · intro v
      rw [State.unitOf_modCore]
      by_cases same : v = uid
      · subst same
        exact .inl (Unit.not_runnable (holds_halted_over keys).unit (by decide))
      · rw [State.unitOf_modUnit_ne s _ same]
        exact quiet v same
  · rfl
end

/-! ### When a task may end, and what its end leaves (R371, R163) -/

theorem mem_owned {u : Unit} {r k : Nat} : k ∈ u.owned r ↔ k < u.nSheaves ∧ u.owner k = r := by
  rw [Unit.owned, List.mem_filter, List.mem_range, beq_iff_eq]

theorem endReady_iff {s : State} {r : Nat} (w : s.who = .reeve r) : s.endReady = true ↔ mayEnd s r := by
  have stores : s.ownStores = s.re.stores.filter (fun t => decide (t.agent < 10)) := by rw [State.ownStores, w]
  simp only [State.endReady, stores, rIdx_reeve w, Bool.and_eq_true, List.all_eq_true, Bool.not_eq_true', List.any_eq_false, mem_owned, idle_iff,
    List.mem_filter, decide_eq_true_eq, beq_iff_eq, Bool.not_eq_false, and_imp, and_assoc]
  rfl

/-- Sheaves whose replies are lost keep the rest. -/
theorem sheafOf_foldl_dropReplies (l : List Nat) (u : Unit) (j : Nat) :
    (l.foldl (fun u k => u.modSheaf k (fun x => { x with replies := [] })) u).sheafOf j =
      { u.sheafOf j with replies := if j ∈ l then [] else (u.sheafOf j).replies } := by
  induction l generalizing u with
  | nil => simp
  | cons k l ih =>
    rw [List.foldl_cons, ih]
    by_cases here : j = k
    · subst here
      rw [Unit.sheafOf_modSheaf_self]
      simp
    · rw [Unit.sheafOf_modSheaf_ne _ _ here]
      simp [here]

theorem sheafOf_endTask (u : Unit) (r j : Nat) : (u.endTask r).sheafOf j =
    { u.sheafOf j with replies := if j < u.nSheaves ∧ u.owner j = r then [] else (u.sheafOf j).replies } := by
  rw [Unit.endTask, sheafOf_foldl_dropReplies, if_congr mem_owned rfl rfl]
  rfl

theorem reeveOf_endTask (u : Unit) (r q : Nat) : (u.endTask r).reeveOf q = if q = r then endedReeve (u.reeveOf r) else u.reeveOf q := by
  have reeves : (u.endTask r).reeveOf q = (u.modReeve r endedReeve).reeveOf q :=
    congrFun (foldl_keeps (f := fun (u : Unit) k => u.modSheaf k (fun x => { x with replies := [] })) Unit.reeveOf (fun _ _ => rfl) _ _) q
  rw [reeves]
  split
  · next here => rw [here, Unit.reeveOf_modReeve_self]
  · next other => rw [Unit.reeveOf_modReeve_ne _ _ other]

theorem allEnded_endTask (u : Unit) (r : Nat) : (u.endTask r).allEnded = true ↔ ∀ q < u.rv, q = r ∨ (u.reeveOf q).ended = true := by
  have tasks : (u.endTask r).rv = u.rv := endTask_keeps Unit.rv u r rfl
  simp only [Unit.allEnded, tasks, List.all_eq_true, List.mem_range, reeveOf_endTask]
  refine forall₂_congr fun q _ => ?_
  by_cases here : q = r
  · simp [here, endedReeve]
  · simp [here]

/-! ### END -/

section
variable {s : State} {r : Nat} (w : s.who = .reeve r)
include w

theorem exec_endTask : exec .endTask s = finish (if s.endReady then .stay s.endNow else .wait s.endWait s) := by
  change execEndTask s = _
  refine perform_reeve w rfl ?_
  rw [w]

theorem exec_endTask_ends (may : mayEnd s r) : exec .endTask s = .next s.endNow := by
  rw [exec_endTask w, if_pos ((endReady_iff w).2 may)]
  rfl

theorem endNow_task (clean : s.re.fail = none) (task : s.cu.initial = false) : s.endNow =
    if (s.cu.endTask r).allEnded then (s.modCu (fun u => u.endTask r)).leaveCore s.uid .over else s.modCu (fun u => u.endTask r) := by
  unfold State.endNow
  rw [clean, rIdx_reeve w]
  dsimp only
  rw [if_neg (by rw [task]; decide), State.cu_modCu]
  rfl

end

theorem endNow_initial {s : State} (clean : s.re.fail = none) (first : s.cu.initial = true) : s.endNow = s.initialEnd := by
  unfold State.endNow
  rw [clean]
  exact if_pos first

/-- R116: the unit is gone and the partition runs, or stays quiesced. -/
theorem partOf_initialEnd_st (s : State) : (s.initialEnd.partOf s.cu.part).st = if (s.partOf s.cu.part).pcctl.getLsbD 0 then .quiesced else .active := by
  have left := (Shuffled.modUnit s s.uid (fun u => u.endTask 0)).trans (shuffled_leaveCore _ s.uid .over)
  have part : (s.initialEnd.partOf s.cu.part).st =
      if (((s.modCu (fun u => u.endTask 0)).leaveCore s.uid .over).partOf s.cu.part).pcctl.getLsbD 0 then .quiesced else .active :=
    congrArg Partition.st (State.partOf_modPart_self ((s.modCu (fun u => u.endTask 0)).leaveCore s.uid .over) s.cu.part
      (fun x => { x with st := if x.pcctl.getLsbD 0 then .quiesced else .active }))
  have same := congrArg Partition.pcctl (left.parts s.cu.part)
  rw [part]
  exact congrArg (fun w : BitVec 64 => if w.getLsbD 0 then PartState.quiesced else .active) same

/-- A routine's END finishes its command and leaves the wain (R297). -/
theorem exec_endTask_wain {s : State} {c : Nat} (w : s.who = .wain c) (h : s.ready [] [] = true) : exec .endTask s = .next (s.endRoutine c) := by
  have clear : s.clear (opRuns 0x74) false [] [] = true := State.ready_clear h (by rw [w]; rfl) (.inl rfl)
  change execEndTask s = _
  rw [execEndTask, State.perform_clear clear, w]
  rfl

theorem end_words : Claims.endWords := by
  intro s ready
  refine ⟨fun r w clean => ⟨fun may task ⟨q, low, other, runs⟩ => ?_, fun may task low keys all => ?_, fun busy => ?_, fun may first => ?_⟩, fun c w => ?_⟩
  · have unended : ¬(s.cu.endTask r).allEnded = true := fun all => by
      obtain same | ended := (allEnded_endTask _ _).1 all q low
      · exact other same
      · rw [runs] at ended
        cases ended
    refine ⟨s.modCu (fun u => u.endTask r), ?_, ?_, rfl, fun u ne => State.unitOf_modCu_ne _ _ ne, fun q ne => ?_, fun k => ?_⟩
    · rw [exec_endTask_ends w may, endNow_task w clean task, if_neg unended]
    · rw [State.re, State.cu_modCu, rIdx_reeve (s := s.modCu _) w, reeveOf_endTask, if_pos rfl, State.re, rIdx_reeve w]
    · rw [State.cu_modCu, reeveOf_endTask, if_neg ne]
    · rw [State.cu_modCu, sheafOf_endTask]
  · have keys' : rising (s.modCu (fun u => u.endTask r)).units := (Touches.modUnit s s.uid _).keys keys
    have core : ((s.modCu (fun u => u.endTask r)).unitOf s.uid).core = s.cu.core := by rw [State.unitOf_modCu_self, endTask_core]
    refine ⟨(s.modCu (fun u => u.endTask r)).leaveCore s.uid .over, ?_, place_leaveCore_over keys', ?_, fun alone => ?_⟩
    · rw [exec_endTask_ends w may, endNow_task w clean task, if_pos ((allEnded_endTask _ _).2 all)]
    · rw [← core]
      exact running_leaveCore_over keys'
    · refine (hbm_leaveCore_over keys' fun v ne => ?_).trans rfl
      rw [State.unitOf_modCu_ne _ _ ne, core]
      exact alone v ne
  · refine ⟨s.endWait, ?_⟩
    rw [exec_endTask w, if_neg (mt (endReady_iff w).1 busy)]
    rfl
  · refine ⟨s.initialEnd, ?_, rfl, rfl, KMap.get_set_self _ _ _ _, partOf_initialEnd_st s⟩
    rw [exec_endTask_ends w may, endNow_initial clean first]
  · refine ⟨s.endRoutine c, exec_endTask_wain w ready, rfl, ?_, fun x hx same => ?_, fun j ne => State.coreOf_modCore_ne _ _ ne⟩
    · rw [State.endRoutine, State.coreOf_modCore_self]
    · rw [State.endRoutine, State.coreOf_modCore_self] at hx
      obtain ⟨y, -, rfl⟩ := List.mem_map.1 hx
      split at same
      · next here => rw [if_pos here]
      · next other => exact absurd (by rw [same]; exact beq_self_eq_true _) other

/-- Settles O16: each dispatch word by the branch of its one effect, END by the end of its task and what leaves the core with it. -/
theorem dispatchAndEndWords : Obligations.DispatchAndEndWords := ⟨dispatch_words, end_words⟩

end Sys2Proof.Machine
end

section
/-!
PROOFS. What the end of a pass leaves alone (R142, R85): the fields that units leaving their cores do not touch, but for the pass itself, the plans that
go with it and the key slots of those.
-/
namespace Sys2Proof.Machine
open Sys2Proof.Claims
set_option Elab.async false

/-- What of a pass its end does not change: its number and whether its record is written. -/
def Pass.tag (x : Pass) : Nat × Bool := (x.seq, x.recorded)

/-- From `s` to `t` passes of partition `p` ended. -/
structure PassesEnd (p : Nat) (s t : State) : Prop where
  frame : t = { s with
    units := t.units, cores := t.cores, parts := t.parts, hbm := t.hbm, hbmPoison := t.hbmPoison, telemetry := t.telemetry, fresh := t.fresh
    plans := t.plans, keys := t.keys, ports := t.ports }
  own : t.partOf p = { s.partOf p with faults := (t.partOf p).faults, passes := (t.partOf p).passes }
  tags : (t.partOf p).passes.map Pass.tag = (s.partOf p).passes.map Pass.tag
  others : ∀ q, q ≠ p → t.partOf q = { s.partOf q with faults := (t.partOf q).faults }
  zeros : ∀ k, KMap.get 0 s.keys k = 0 → KMap.get 0 t.keys k = 0

theorem PassesEnd.refl (p : Nat) (s : State) : PassesEnd p s s := ⟨rfl, rfl, rfl, fun _ _ => rfl, fun _ h => h⟩
theorem PassesEnd.trans {p : Nat} {s t u : State} (h : PassesEnd p s t) (g : PassesEnd p t u) : PassesEnd p s u where
  frame := by rw [g.frame, h.frame]
  own := by rw [g.own, h.own]
  tags := g.tags.trans h.tags
  others q ne := by rw [g.others q ne, h.others q ne]
  zeros k zero := g.zeros k (h.zeros k zero)
theorem PassesEnd.foldl {α : Type} {p : Nat} {f : State → α → State} (h : ∀ s x, PassesEnd p s (f s x)) (l : List α) (s : State) :
    PassesEnd p s (l.foldl f s) :=
  List.foldlRecOn (motive := PassesEnd p s) _ _ (.refl p s) fun _ before x _ => before.trans (h _ x)

theorem Shuffled.passesEnd {s t : State} (h : Shuffled s t) (p : Nat) : PassesEnd p s t where
  frame := by rw [h.frame]
  own := by rw [h.parts]
  tags := by rw [h.parts]
  others q _ := h.parts q
  zeros k zero := by rw [h.frame]; exact zero

theorem passesEnd_modPass (s : State) (p q : Nat) {f : Pass → Pass} (tag : ∀ x, (f x).tag = x.tag := by intro; rfl) : PassesEnd p s (s.modPass p q f) where
  frame := rfl
  own := by rw [State.modPass, State.partOf_modPart_self]
  tags := by
    rw [State.modPass, State.partOf_modPart_self, List.map_map]
    refine List.map_congr_left fun x _ => ?_
    rw [Function.comp]
    split
    · exact tag x
    · rfl
  others r ne := by rw [State.modPass, State.partOf_modPart_ne s _ ne]
  zeros _ zero := zero

theorem onlyKeys_dropPlanKey (s : State) (k : Nat) : OnlyKeys s (s.dropPlanKey k) := by
  unfold State.dropPlanKey
  split
  · exact rfl
  · exact onlyKeys_zeroise s k

theorem get_zeroise_zero {s : State} {j : Nat} (zero : KMap.get 0 s.keys j = 0) (k : Nat) : KMap.get 0 (s.zeroise k).keys j = 0 := by
  rw [get_zeroise_keys, zero, ite_self]

theorem get_dropPlanKey_zero {s : State} {j : Nat} (zero : KMap.get 0 s.keys j = 0) (k : Nat) : KMap.get 0 (s.dropPlanKey k).keys j = 0 := by
  unfold State.dropPlanKey
  split
  · exact zero
  · exact get_zeroise_zero zero k

/-- R85, R129: the plans of a pass go, and key slots that no plan uses any more are empty. -/
theorem freePlans_frame (s : State) (p : Nat) (id : Word) :
    s.freePlans p id = { s with plans := (s.freePlans p id).plans, keys := (s.freePlans p id).keys, ports := (s.freePlans p id).ports } := by
  have keys : OnlyKeys { s with plans := s.plans.filter (fun q => !(q.part == p && q.passId == id)) } (s.freePlans p id) :=
    onlyKeys_foldl (fun s (q : Plan) => onlyKeys_dropPlanKey s q.keySlot) _ _
  rw [keys]

theorem passesEnd_freePlans (s : State) (p : Nat) (id : Word) : PassesEnd p s (s.freePlans p id) where
  frame := by rw [freePlans_frame s p id]
  own := by rw [freePlans_frame s p id]; rfl
  tags := by rw [freePlans_frame s p id]; rfl
  others q _ := by rw [freePlans_frame s p id]; rfl
  zeros k zero := List.foldlRecOn (motive := fun t : State => KMap.get 0 t.keys k = 0) _ _ zero
    fun _ zero (q : Plan) _ => get_dropPlanKey_zero zero q.keySlot

theorem passesEnd_endPass (s : State) (p q : Nat) (st : PassState) (reason cause : Nat) : PassesEnd p s (s.endPass p q st reason cause) := by
  obtain ⟨same, -⟩ | ⟨y, -, -, e⟩ := endPass_cases s p q st reason cause
  · rw [same]
    exact .refl p s
  · rw [e]
    exact (((shuffled_stopUnits s p q).passesEnd p).trans (passesEnd_modPass _ p q)).trans (passesEnd_freePlans _ p _)

theorem PassesEnd.openPasses {p : Nat} {s t : State} (h : PassesEnd p s t) : (t.partOf p).openPasses = (s.partOf p).openPasses := by
  have count (l : List Pass) : (l.filter (fun x => !x.recorded)).length = ((l.map Pass.tag).filter (fun x => !x.2)).length := by
    rw [List.filter_map, List.length_map]
    rfl
  rw [Partition.openPasses, Partition.openPasses, count, count, h.tags]

/-! ### Passes ended one after another -/

theorem Pass.over_ended {st : PassState} (ends : st.over = true) (reason cause : Nat) (y : Pass) : (y.ended st reason cause).st.over = true := by
  unfold Pass.ended
  split
  · assumption
  · exact ends

/-- Ending the passes of a list changes each of them once, and no other. -/
theorem passAt_foldl_endPass (p : Nat) (st : PassState) (reason cause : Nat) (l : List Pass) (s : State) (q : Nat) (ends : st.over = true) :
    (l.foldl (fun s x => s.endPass p x.seq st reason cause) s).passAt p q =
      if q ∈ l.map Pass.seq then (s.passAt p q).map (Pass.ended st reason cause) else s.passAt p q := by
  have twice (y : Pass) : (y.ended st reason cause).ended st reason cause = y.ended st reason cause := if_pos (Pass.over_ended ends reason cause y)
  induction l generalizing s with
  | nil => rfl
  | cons x l ih =>
    rw [List.foldl_cons, ih, passAt_endPass]
    by_cases here : q = x.seq
    · rw [if_pos (show p = p ∧ q = x.seq from ⟨rfl, here⟩), if_pos (show q ∈ (x :: l).map Pass.seq by simp [here]), Option.map_map,
        show Pass.ended st reason cause ∘ Pass.ended st reason cause = Pass.ended st reason cause from funext twice, ite_self, here]
    · rw [if_neg (show ¬(p = p ∧ q = x.seq) from fun h => here h.2), List.map_cons]
      exact if_congr ⟨.tail _, fun h => (List.mem_cons.1 h).resolve_left here⟩ rfl rfl

theorem passAt_of_mem {s : State} {p : Nat} (seqs : ((s.partOf p).passes.map (fun y => y.seq)).Nodup) {x : Pass} (hx : x ∈ (s.partOf p).passes) :
    s.passAt p x.seq = some x := by
  rw [State.passAt]
  cases found : (s.partOf p).passes.find? (fun y => y.seq == x.seq) with
  | none => exact absurd (beq_self_eq_true x.seq) (List.find?_eq_none.1 found x hx)
  | some y =>
    have same : y.seq = x.seq := by simpa using List.find?_some found
    rw [List.inj_on_of_nodup_map seqs (List.mem_of_find?_eq_some found) hx same]

theorem over_iff (x : Pass) : x.st.over = true ↔ passOver x := by
  rw [passOver]
  cases x.st <;> simp [PassState.over]

end Sys2Proof.Machine
end

section
/-!
PROOFS. The host's hold on passes and plans (R81, R99, R105, R106, R111, R114): PCCTL, PCCANCEL and trigger words.
-/
namespace Sys2Proof.Machine
open Sys2Proof.Claims
set_option Elab.async false

/-! ### The units of a pass stop (R142) -/

/-- The listed units of a pass. -/
def State.listedUnits (s : State) (p : Nat) (id : Word) : KMap Unit :=
  s.units.filter (fun x => x.2.live && x.2.part == p && x.2.passId == id && !x.2.initial)
/-- A pass that was being preloaded is no more. -/
def State.unpreload (s : State) (p seq : Nat) : State :=
  if s.cores.any (fun c => c.2.preloadPass == some (p, seq)) then
    { s with cores := s.cores.map (fun c => (c.1, { c.2 with preloadPass := c.2.preloadPass.filter (· != (p, seq)) })) } else s
/-- A stopped unit's matrix queue and logs are empty. -/
def Unit.emptied (u : Unit) : Unit := { u with mq := [], reeves := u.reeves.map (fun q => (q.1, { q.2 with log := [] })) }
/-- One unit of a pass that ends stops, and its wain commands with it. -/
def State.stopUnit (s : State) (x : Nat × Unit) : State :=
  ((s.leaveCore x.1 .over).modUnit x.1 Unit.emptied).modCore x.2.core (fun c => { c with
    wq := c.wq.filter (fun w => w.uid != x.1)
    routine := c.routine.bind (fun r => if r.uid == x.1 then none else some r) })

theorem stopUnits_eq (s : State) (p seq : Nat) : s.stopUnits p seq =
    (s.listedUnits p (passIdOf p seq)).foldl State.stopUnit (s.unpreload p seq) := by
  have units : (s.unpreload p seq).listedUnits p (passIdOf p seq) = s.listedUnits p (passIdOf p seq) := by
    unfold State.unpreload
    split <;> rfl
  rw [← units]
  rfl

theorem units_unpreload (s : State) (p seq : Nat) : (s.unpreload p seq).units = s.units := by
  unfold State.unpreload
  split <;> rfl
theorem hbm_unpreload (s : State) (p seq : Nat) : (s.unpreload p seq).hbm = s.hbm := by
  unfold State.unpreload
  split <;> rfl

/-- The highest index bounds each of them. -/
theorem idx_lt_foldl (l : KMap Unit) (n : Nat) : n ≤ l.foldl (fun m u => if m ≤ u.2.idx then u.2.idx + 1 else m) n ∧
    ∀ e ∈ l, e.2.idx < l.foldl (fun m u => if m ≤ u.2.idx then u.2.idx + 1 else m) n := by
  induction l generalizing n with
  | nil => exact ⟨le_refl n, fun _ h => nomatch h⟩
  | cons x l ih =>
    obtain ⟨above, below⟩ := ih (if n ≤ x.2.idx then x.2.idx + 1 else n)
    rw [List.foldl_cons]
    have first : n ≤ (if n ≤ x.2.idx then x.2.idx + 1 else n) ∧ x.2.idx < (if n ≤ x.2.idx then x.2.idx + 1 else n) := by split <;> omega
    refine ⟨first.1.trans above, fun e he => ?_⟩
    obtain rfl | he := List.mem_cons.1 he
    · exact lt_of_lt_of_le first.2 above
    · exact below e he

theorem listedUnits_eq_nil {s : State} {p : Nat} {id : Word} (none : s.unitsOf p id = []) : s.listedUnits p id = [] := by
  rw [List.eq_nil_iff_forall_not_mem]
  intro e he
  have found : ((s.listedUnits p id).find? (fun u => u.2.idx == e.2.idx)).isSome = true :=
    List.find?_isSome.2 ⟨e, he, beq_self_eq_true _⟩
  obtain ⟨u, hu⟩ := Option.isSome_iff_exists.1 found
  have listed : u.1 ∈ s.unitsOf p id :=
    List.mem_filterMap.2 ⟨e.2.idx, List.mem_range.2 ((idx_lt_foldl (s.listedUnits p id) 0).2 e he), by
      show ((s.listedUnits p id).find? (fun u => u.2.idx == e.2.idx)).map (·.1) = some u.1
      rw [hu]
      rfl⟩
  rw [none] at listed
  cases listed

/-- What the end of a pass does to the units and to memory is what the stop of its units does. -/
theorem endPass_units_hbm (s : State) (p q : Nat) (st : PassState) (reason cause : Nat) :
    s.endPass p q st reason cause = s ∨
    (s.endPass p q st reason cause).units = (s.stopUnits p q).units ∧ (s.endPass p q st reason cause).hbm = (s.stopUnits p q).hbm := by
  obtain ⟨same, -⟩ | ⟨y, -, -, e⟩ := endPass_cases s p q st reason cause
  · exact .inl same
  · rw [e, freePlans_frame]
    exact .inr ⟨rfl, rfl⟩

/-- The end of a pass that has no units writes none and no memory. -/
theorem endPass_bare {s : State} {p q : Nat} (none : s.unitsOf p (passIdOf p q) = []) (st : PassState) (reason cause : Nat) :
    (s.endPass p q st reason cause).units = s.units ∧ (s.endPass p q st reason cause).hbm = s.hbm := by
  obtain same | ⟨units, hbm⟩ := endPass_units_hbm s p q st reason cause
  · rw [same]
    exact ⟨rfl, rfl⟩
  · rw [units, hbm, stopUnits_eq, listedUnits_eq_nil none]
    exact ⟨units_unpreload s p q, hbm_unpreload s p q⟩

theorem unitsOf_congr {s t : State} (units : t.units = s.units) (p : Nat) (id : Word) : t.unitsOf p id = s.unitsOf p id := by
  rw [State.unitsOf, State.unitsOf, units]

theorem foldl_endPass_bare {s : State} {p : Nat} (l : List Pass) (none : ∀ x ∈ l, s.unitsOf p (passIdOf p x.seq) = [])
    (st : PassState) (reason cause : Nat) :
    (l.foldl (fun s x => s.endPass p x.seq st reason cause) s).units = s.units ∧
    (l.foldl (fun s x => s.endPass p x.seq st reason cause) s).hbm = s.hbm := by
  refine List.foldlRecOn (motive := fun t : State => t.units = s.units ∧ t.hbm = s.hbm) _ _ ⟨rfl, rfl⟩ fun t ⟨units, hbm⟩ x hx => ?_
  have bare : t.unitsOf p (passIdOf p x.seq) = [] := (unitsOf_congr units p _).trans (none x hx)
  obtain ⟨units', hbm'⟩ := endPass_bare bare st reason cause
  exact ⟨units'.trans units, hbm'.trans hbm⟩

/-- A unit that has stopped for good. -/
structure Stopped (u : Unit) : Prop where
  place : u.place = .over
  queue : u.mq = []
  logs : ∀ r, (u.reeveOf r).log = []

theorem keptByTurns_stopped : KeptByTurns Stopped :=
  .of_parked (fun _ h => Unit.not_runnable h.place (by decide)) fun _ h => ⟨h.place, h.queue, h.logs⟩

theorem stopped_emptied {u : Unit} (place : u.place = .over) : Stopped u.emptied := by
  refine ⟨place, rfl, fun r => ?_⟩
  have logs : (KMap.get Reeve.reset (u.reeves.map (fun q => (q.1, { q.2 with log := [] }))) r).log = [] := by
    rw [KMap.get_map Reeve.reset u.reeves (fun x => { x with log := [] }) rfl]
  exact logs

section
variable {s : State} (keys : rising s.units) (x : Nat × Unit)
include keys

theorem rising_stopUnit : rising (s.stopUnit x).units := by
  have left : Holds (fun u => u.place = .over) x.1 (s.leaveCore x.1 .over) :=
    Holds.leaveCore (keptByTurns_place (by decide)) x.1 .over keys (fun _ _ h => h) (by rw [if_pos rfl]; rfl)
  exact (Touches.modUnit (s.leaveCore x.1 .over) x.1 Unit.emptied).keys left.keys

theorem stopped_stopUnit_self : Stopped ((s.stopUnit x).unitOf x.1) := by
  rw [State.stopUnit, State.unitOf_modCore, State.unitOf_modUnit_self]
  exact stopped_emptied (place_leaveCore_over keys)

theorem stopped_stopUnit {v : Nat} (h : Stopped (s.unitOf v)) : Stopped ((s.stopUnit x).unitOf v) := by
  by_cases here : v = x.1
  · rw [here]
    exact stopped_stopUnit_self keys x
  · rw [State.stopUnit, State.unitOf_modCore, State.unitOf_modUnit_ne _ _ here]
    exact (Holds.leaveCore keptByTurns_stopped x.1 .over keys (fun _ _ h => ⟨h.place, h.queue, h.logs⟩) (by rw [if_neg here]; exact h)).unit
end

theorem stopped_foldl_stopUnit (l : KMap Unit) {s : State} (keys : rising s.units) {v : Nat} (h : v ∈ l.map Prod.fst ∨ Stopped (s.unitOf v)) :
    Stopped ((l.foldl State.stopUnit s).unitOf v) := by
  induction l generalizing s with
  | nil => exact h.resolve_left (List.not_mem_nil)
  | cons x l ih =>
    refine ih (rising_stopUnit keys x) ?_
    obtain listed | already := h
    · obtain here | later := List.mem_cons.1 listed
      · rw [here]
        exact .inr (stopped_stopUnit_self keys x)
      · exact .inl later
    · exact .inr (stopped_stopUnit keys x already)

/-! ### Where no unit may run -/

theorem keptByTurns_idle : KeptByTurns (fun u => u.runnable = false) := .of_parked (fun _ h => h) fun _ h => h

theorem hbm_stopUnit {s : State} (keys : rising s.units) (idle : ∀ v, (s.unitOf v).runnable = false) (x : Nat × Unit) :
    (s.stopUnit x).hbm = s.hbm ∧ ∀ v, ((s.stopUnit x).unitOf v).runnable = false := by
  refine ⟨hbm_leaveCore_over keys fun v _ => .inl (idle v), fun v => ?_⟩
  by_cases here : v = x.1
  · rw [here]
    exact Unit.not_runnable (stopped_stopUnit_self keys x).place (by decide)
  · rw [State.stopUnit, State.unitOf_modCore, State.unitOf_modUnit_ne _ _ here]
    exact (Holds.leaveCore keptByTurns_idle x.1 .over keys (fun _ _ h => h) (by rw [if_neg here]; exact idle v)).unit

theorem hbm_foldl_stopUnit (l : KMap Unit) {s : State} (keys : rising s.units) (idle : ∀ v, (s.unitOf v).runnable = false) :
    (l.foldl State.stopUnit s).hbm = s.hbm := by
  induction l generalizing s with
  | nil => rfl
  | cons x l ih =>
    obtain ⟨hbm, idle'⟩ := hbm_stopUnit keys idle x
    exact (ih (rising_stopUnit keys x) idle').trans hbm

theorem unitOf_idle {s : State} (h : ∀ e ∈ s.units, e.2.runnable = false) (v : Nat) : (s.unitOf v).runnable = false := by
  have listed (m : KMap Unit) (h : ∀ e ∈ m, e.2.runnable = false) : (KMap.get Unit.none m v).runnable = false := by
    induction m with
    | nil => rfl
    | cons x m ih =>
      obtain ⟨j, u⟩ := x
      rw [KMap.get]
      split
      · exact h _ (.head m)
      · split
        · rfl
        · exact ih fun e he => h e (.tail _ he)
  exact listed s.units h

/-- Of the pass that ends, every unit stops. -/
theorem stopped_endPass {s : State} {p q : Nat} {x : Pass} (at' : s.passAt p q = some x) (opened : x.st.over = false) (keys : rising s.units)
    (st : PassState) (reason cause : Nat) {v : Nat} (mine : v ∈ (s.listedUnits p (passIdOf p q)).map Prod.fst) :
    Stopped ((s.endPass p q st reason cause).unitOf v) := by
  obtain ⟨-, done⟩ | ⟨y, -, -, e⟩ := endPass_cases s p q st reason cause
  · rw [done x at'] at opened
    cases opened
  · rw [e, freePlans_frame]
    show Stopped ((s.stopUnits p q).unitOf v)
    rw [stopUnits_eq]
    exact stopped_foldl_stopUnit _ (by rw [units_unpreload]; exact keys) (.inl mine)

theorem hbm_endPass_idle {s : State} (keys : rising s.units) (idle : ∀ e ∈ s.units, e.2.runnable = false) (p q : Nat)
    (st : PassState) (reason cause : Nat) : (s.endPass p q st reason cause).hbm = s.hbm := by
  obtain same | ⟨-, hbm⟩ := endPass_units_hbm s p q st reason cause
  · rw [same]
  · rw [hbm, stopUnits_eq, hbm_foldl_stopUnit, hbm_unpreload]
    · rw [units_unpreload]
      exact keys
    · exact unitOf_idle (by rw [units_unpreload]; exact idle)

end Sys2Proof.Machine
end

section
/-!
PROOFS. Partition control, cancellation and trigger words: the statement (R81, R99, R105, R106, R111, R114).
-/
namespace Sys2Proof.Machine
open Sys2Proof.Claims
set_option Elab.async false

/-! ### PCCTL (R99, R106) -/

/-- A partition as a write of `v` to PCCTL moves it. -/
def Partition.steered (v : Word) (x : Partition) : Partition :=
  { x with
    pcctl := v
    st := if v.getLsbD 0 then (if x.st == .active then .quiescing else x.st) else (if x.st == .quiescing || x.st == .quiesced then .active else x.st) }
/-- A partition with none left of the passes it waited for is QUIESCED. -/
def Partition.settled (x : Partition) : Partition := if x.st == .quiescing && x.openPasses == 0 then { x with st := .quiesced } else x
/-- The state in which PCCTL holds `v`, and DROPQ has acted where it is to. -/
def State.steer (s : State) (p : Nat) (v : Word) : State :=
  if v = 3 then (s.modPart p (Partition.steered v)).dropQueue p else s.modPart p (Partition.steered v)

theorem writePcctl_eq (s : State) (p : Nat) (w : Word) : s.writePcctl p w = (s.steer p (w &&& 3)).modPart p Partition.settled := rfl

theorem settled_passes (x : Partition) : x.settled.passes = x.passes := by
  unfold Partition.settled
  split <;> rfl
theorem settled_pcctl (x : Partition) : x.settled.pcctl = x.pcctl := by
  unfold Partition.settled
  split <;> rfl
theorem settled_st (x : Partition) : x.settled.st = if x.st = .quiescing ∧ x.openPasses = 0 then .quiesced else x.st := by
  have cond : (x.st == .quiescing && x.openPasses == 0) = true ↔ x.st = .quiescing ∧ x.openPasses = 0 := by
    rw [Bool.and_eq_true, beq_iff_eq, beq_iff_eq]
  unfold Partition.settled
  by_cases h : x.st = .quiescing ∧ x.openPasses = 0
  · rw [if_pos (cond.2 h), if_pos h]
  · rw [if_neg (mt cond.1 h), if_neg h]

theorem passAt_settle (s : State) (p q r : Nat) : (s.modPart p Partition.settled).passAt q r = s.passAt q r := by
  rw [State.passAt, State.passAt]
  by_cases here : q = p
  · rw [here, State.partOf_modPart_self, settled_passes]
  · rw [State.partOf_modPart_ne _ _ here]

section
variable (s : State) (p : Nat) (v w : Word)

theorem passesEnd_steer : PassesEnd p (s.modPart p (Partition.steered v)) (s.steer p v) := by
  unfold State.steer
  split
  · exact PassesEnd.foldl (fun s (x : Pass) => passesEnd_endPass s p x.seq .cancelled 4 0) _ _
  · exact .refl p _

theorem idle_writePcctl : (s.writePcctl p w).idle = s.idle := by
  rw [writePcctl_eq]
  exact (congrArg State.idle (passesEnd_steer s p (w &&& 3)).frame).trans rfl

theorem pcctl_writePcctl : ((s.writePcctl p w).partOf p).pcctl = w &&& 3 := by
  rw [writePcctl_eq, State.partOf_modPart_self, settled_pcctl, (passesEnd_steer s p (w &&& 3)).own, State.partOf_modPart_self]
  rfl

/-- R106: the state that the write gives the partition, with OPEN as it was. -/
theorem st_writePcctl : ((s.writePcctl p w).partOf p).st =
    if ((s.partOf p).steered (w &&& 3)).st = .quiescing ∧ (s.partOf p).openPasses = 0 then .quiesced else ((s.partOf p).steered (w &&& 3)).st := by
  have ends := passesEnd_steer s p (w &&& 3)
  have st : ((s.steer p (w &&& 3)).partOf p).st = ((s.partOf p).steered (w &&& 3)).st := by
    rw [ends.own, State.partOf_modPart_self]
  have opened : ((s.steer p (w &&& 3)).partOf p).openPasses = (s.partOf p).openPasses := by
    rw [ends.openPasses, State.partOf_modPart_self]
    rfl
  rw [writePcctl_eq, State.partOf_modPart_self, settled_st, st, opened]

/-- Without DROPQ nothing but the partition changes, and its passes stay. -/
theorem writePcctl_only (h : w &&& 3 ≠ 3) : s.writePcctl p w = { s with parts := (s.writePcctl p w).parts } ∧
    ((s.writePcctl p w).partOf p).passes = (s.partOf p).passes := by
  have kept : s.steer p (w &&& 3) = s.modPart p (Partition.steered (w &&& 3)) := if_neg h
  rw [writePcctl_eq, kept]
  refine ⟨rfl, ?_⟩
  rw [State.partOf_modPart_self, settled_passes, State.partOf_modPart_self]
  rfl
end

/-! ### DROPQ (R99) -/

/-- The passes that DROPQ cancels. -/
def unplacedPasses (x : Partition) : List Pass := x.passes.filter (fun x => x.st == .queued || x.st == .held || x.st == .ready)

theorem mem_unplacedPasses {x : Partition} {y : Pass} : y ∈ unplacedPasses x ↔ y ∈ x.passes ∧ (y.st = .queued ∨ y.st = .held ∨ y.st = .ready) := by
  rw [unplacedPasses, List.mem_filter]
  simp only [Bool.or_eq_true, beq_iff_eq, or_assoc]

section
variable {s : State} {p : Nat} {w : Word} (drops : w &&& 3 = 3)
include drops

theorem steer_drops : s.steer p (w &&& 3) =
    (unplacedPasses (s.partOf p)).foldl (fun s x => s.endPass p x.seq .cancelled 4 0) (s.modPart p (Partition.steered (w &&& 3))) := by
  have acts : s.steer p (w &&& 3) = (s.modPart p (Partition.steered (w &&& 3))).dropQueue p := if_pos drops
  rw [acts, State.dropQueue, State.partOf_modPart_self]
  rfl

theorem hbm_writePcctl_bare (bare : ∀ x ∈ (s.partOf p).passes, (x.st = .queued ∨ x.st = .held ∨ x.st = .ready) → s.unitsOf p (passIdOf p x.seq) = []) :
    (s.writePcctl p w).hbm = s.hbm := by
  rw [writePcctl_eq, steer_drops drops]
  refine (foldl_endPass_bare (s := s.modPart p (Partition.steered (w &&& 3))) _ (fun x hx => ?_) .cancelled 4 0).2.trans rfl
  obtain ⟨mem, waits⟩ := mem_unplacedPasses.1 hx
  exact bare x mem waits

theorem passAt_writePcctl_drops (seqs : ((s.partOf p).passes.map (fun y => y.seq)).Nodup) {x : Pass} (hx : x ∈ (s.partOf p).passes) :
    ((x.st = .queued ∨ x.st = .held ∨ x.st = .ready) →
      (s.writePcctl p w).passAt p x.seq = some { x with st := .cancelled, reason := 4, cause := 0 }) ∧
    (¬(x.st = .queued ∨ x.st = .held ∨ x.st = .ready) → (s.writePcctl p w).passAt p x.seq = some x) := by
  have before : (s.modPart p (Partition.steered (w &&& 3))).passAt p x.seq = some x := by
    rw [State.passAt, State.partOf_modPart_self]
    exact passAt_of_mem seqs hx
  rw [writePcctl_eq, passAt_settle, steer_drops drops, passAt_foldl_endPass _ _ _ _ _ _ _ rfl, before]
  refine ⟨fun waits => ?_, fun placed => ?_⟩
  · have opened : ¬x.st.over = true := by obtain h | h | h := waits <;> simp [h, PassState.over]
    rw [if_pos (List.mem_map_of_mem (mem_unplacedPasses.2 ⟨hx, waits⟩)), Option.map_some, Pass.ended, if_neg opened]
    rfl
  · refine if_neg fun listed => ?_
    obtain ⟨y, hy, same⟩ := List.mem_map.1 listed
    obtain ⟨mem, waits⟩ := mem_unplacedPasses.1 hy
    rw [List.inj_on_of_nodup_map seqs mem hx same] at waits
    exact placed waits
end

/-! ### The bits of PCCTL -/

theorem and_two_eq (w : Word) : w &&& 2 = if w.getLsbD 1 then 2 else 0 := by
  have low : w &&& 2 = (w &&& 2) &&& 3 := by rw [BitVec.and_assoc] <;> rfl
  rw [low]
  split
  · next set => exact and_three_congr (w := 2) (by simp) (by simp [set])
  · next clear => exact and_three_congr (w := 0) (by simp) (by simpa using clear)

theorem or_one_and_three (w : Word) : (w ||| 1) &&& 3 = w &&& 2 ||| 1 := by
  rw [and_two_eq]
  split
  · next set => exact and_three_congr (w := 3) (by simp) (by simp [set])
  · next clear => exact and_three_congr (w := 1) (by simp) (by simpa using clear)

theorem or_one_and_three_eq_three {w : Word} : (w ||| 1) &&& 3 = 3 ↔ w.getLsbD 1 = true := by
  rw [or_one_and_three, and_two_eq]
  cases w.getLsbD 1 <;> simp

theorem and_two_and_three (w : Word) : (w &&& 2) &&& 3 = w &&& 2 := by rw [BitVec.and_assoc] <;> rfl

theorem or_two_and_three_eq_three {w : Word} : (w ||| 2) &&& 3 = 3 ↔ w.getLsbD 0 = true := by
  cases set : w.getLsbD 0
  · rw [and_three_congr (v := w ||| 2) (w := 2) (by simpa using set) (by simp)]
    simp
  · rw [and_three_congr (v := w ||| 2) (w := 3) (by simp [set]) (by simp)]
    simp

end Sys2Proof.Machine
end

section
/-!
PROOFS. PCCANCEL and trigger words, and the statement on the host's hold on passes and plans (R81, R105).
-/
namespace Sys2Proof.Machine
open Sys2Proof.Claims
set_option Elab.async false

/-! ### PCCANCEL (R105) -/

theorem allTasksEnded_iff (s : State) (p : Nat) (x : Pass) : s.allTasksEnded p x = true ↔ tasksOver s p x := by
  simp only [State.allTasksEnded, tasksOver, Pass.placed, Unit.allEnded, Bool.and_eq_true, Bool.or_eq_true, beq_iff_eq, Bool.not_eq_true',
    List.isEmpty_eq_false_iff, List.all_eq_true, List.mem_range, and_assoc]

theorem cancelPass_ends {s : State} {p : Nat} {w : Word} {x : Pass} (part : passPart w = p) (at' : s.passAt p (passSeq w) = some x)
    (opened : ¬passOver x) (tasks : ¬tasksOver s p x) : s.cancelPass p w = s.endPass p x.seq .cancelled 3 0 := by
  have seq : x.seq = passSeq w := by simpa using List.find?_some at'
  unfold State.cancelPass
  rw [at']
  refine if_neg ?_
  rw [Bool.or_eq_true, Bool.or_eq_true, bne_iff_ne, over_iff, allTasksEnded_iff]
  rintro ((other | ended) | ended)
  · exact other part
  · exact opened ended
  · exact tasks ended

theorem cancelPass_ignored {s : State} {p : Nat} {w : Word}
    (h : passPart w ≠ p ∨ ∀ x, s.passAt p (passSeq w) = some x → passOver x ∨ tasksOver s p x) : s.cancelPass p w = s := by
  unfold State.cancelPass
  split
  · rfl
  · next x at' =>
    refine if_pos ?_
    rw [Bool.or_eq_true, Bool.or_eq_true, bne_iff_ne, over_iff, allTasksEnded_iff, or_assoc]
    exact h.imp id fun all => all x at'

theorem mem_listedUnits_of_ofPass {s : State} {p : Nat} {id : Word} {uid r : Nat} (h : ofPass s p id uid r) :
    uid ∈ (s.listedUnits p id).map Prod.fst := by
  obtain ⟨u, mem, live, part, pass, initial, -⟩ := h
  refine List.mem_map.2 ⟨(uid, u), List.mem_filter.2 ⟨mem, ?_⟩, rfl⟩
  simp [live, part, pass, initial]

/-! ### Trigger words (R81) -/

/-- A trigger word that names tiles of a plan which may run. -/
def Fires (s : State) (x : Plan) (w : Word) : Prop :=
  w.toNat / 2 ^ 12 % 16 = 0 ∧ w.toNat / 2 ^ 48 = 0 ∧ w.toNat / 2 ^ 16 % 2 ^ 16 ≤ w.toNat / 2 ^ 32 % 2 ^ 16 ∧
  w.toNat / 2 ^ 32 % 2 ^ 16 < tilesOf x.desc ∧ x.failed = none ∧ (s.partOf x.part).st ≠ .revoked

theorem planRuns_iff (s : State) (x : Plan) : s.planRuns x = true ↔ x.failed = none ∧ (s.partOf x.part).st ≠ .revoked := by
  rw [State.planRuns, Bool.and_eq_true, Option.isNone_iff_eq_none, bne_iff_ne]

/-- A word that fires no tile is counted. -/
theorem trigger_counts {s : State} {p : Nat} {w : Word}
    (h : ∀ x, s.planAt p (w.toNat % 2 ^ 12) = some x → 0 < dfld x.desc 20 4 ∧ ¬Fires s x w) : s.trigger p w = s.count tmTrigger := by
  have handle : fld w.toNat 0 12 = w.toNat % 2 ^ 12 := by rw [fld_eq, Nat.pow_zero, Nat.div_one]
  have high : w.toNat / 2 ^ 48 % 2 ^ 16 = w.toNat / 2 ^ 48 := Nat.mod_eq_of_lt (Nat.div_lt_of_lt_mul w.isLt)
  unfold State.trigger
  dsimp only
  rw [handle]
  split
  · rfl
  · next x at' =>
    obtain ⟨tiled, not⟩ := h x at'
    refine if_pos ?_
    by_contra fires
    refine not ?_
    simp only [Bool.or_eq_true, bne_iff_ne, decide_eq_true_eq, not_or, not_not, Nat.not_lt, Nat.not_le, Bool.not_eq_true', Bool.not_eq_false,
      fld_eq, pdTiles_eq tiled, high, planRuns_iff] at fires
    obtain ⟨⟨⟨⟨zero, top⟩, order⟩, tiles⟩, live⟩ := fires
    exact ⟨zero, top, order, tiles, live⟩

/-- Distinct tiles: each flag that is set already is counted, once. -/
theorem telemetry_foldl_triggerTile {p h : Nat} (l : List Nat) (once : l.Nodup) {s : State} {x : Plan} (at' : s.planAt p h = some x) :
    KMap.get 0 (l.foldl (State.triggerTile p h) s).telemetry tmTrigger = KMap.get 0 s.telemetry tmTrigger +
      (l.filter (fun t => (x.tile t).flag)).length := by
  induction l generalizing s x with
  | nil => rfl
  | cons t l ih =>
    obtain ⟨new, once'⟩ := List.nodup_cons.1 once
    obtain ⟨-, y, found, -, flags⟩ := triggerTile_flags at' t
    have others : l.filter (fun t => (y.tile t).flag) = l.filter (fun t => (x.tile t).flag) := by
      refine List.filter_congr fun j hj => ?_
      have ne : j ≠ t := fun same => new (same ▸ hj)
      exact (congrArg Tile.flag (flags j)).trans (by simp [ne]; rfl)
    rw [List.foldl_cons, ih once' found, others, State.triggerTile, at']
    dsimp only
    split
    · next set =>
      have counted : KMap.get 0 (s.count tmTrigger).telemetry tmTrigger = KMap.get 0 s.telemetry tmTrigger + 1 := KMap.get_upd_self _ _ _ _
      rw [counted, List.filter_cons_of_pos (p := fun t => (x.tile t).flag) set, List.length_cons]
      omega
    · next clear =>
      rw [List.filter_cons_of_neg (p := fun t => (x.tile t).flag) clear]
      rfl

/-- The tiles that a trigger word names. -/
theorem mem_tileRange {lo hi j : Nat} (order : lo ≤ hi) : j ∈ (List.range (hi + 1 - lo)).map (lo + ·) ↔ lo ≤ j ∧ j ≤ hi := by
  rw [List.mem_map]
  constructor
  · rintro ⟨i, hi', rfl⟩
    have := List.mem_range.1 hi'
    omega
  · rintro ⟨above, below⟩
    exact ⟨j - lo, List.mem_range.2 (by omega), by omega⟩

theorem nodup_tileRange (lo n : Nat) : ((List.range n).map (lo + ·)).Nodup :=
  List.nodup_range.map fun _ _ h => Nat.add_left_cancel h

/-! ### The statement -/

section
variable {s : State} {p : Nat} (p8 : p < 8)
include p8

theorem barOpen_true (awake : s.mgst ≠ .safe) : s.barOpen p = true := barOpen_iff.2 ⟨awake, p8⟩
omit p8 in
theorem barOpen_safe (safe : s.mgst = .safe) : ¬s.barOpen p = true := fun h => (barOpen_iff.1 h).1 safe

theorem exec_quiesceSet (awake : s.mgst ≠ .safe) (w : Word) : exec (.quiesceSet p w) s = .next (s.touched.writePcctl p (w ||| 1)) :=
  congrArg Host.Outcome.next (if_pos (barOpen_true p8 awake))
theorem exec_quiesceClear (awake : s.mgst ≠ .safe) (w : Word) : exec (.quiesceClear p w) s = .next (s.touched.writePcctl p (w &&& 2)) :=
  congrArg Host.Outcome.next (if_pos (barOpen_true p8 awake))
theorem exec_dropq (awake : s.mgst ≠ .safe) : exec (.dropq p) s = .next (s.touched.writePcctl p ((s.partOf p).pcctl ||| 2)) :=
  congrArg Host.Outcome.next (if_pos (barOpen_true p8 awake))
theorem exec_pccancel (awake : s.mgst ≠ .safe) (w : Word) : exec (.pccancel p w) s = .next (s.touched.cancelPass p w) :=
  congrArg Host.Outcome.next (if_pos (barOpen_true p8 awake))
theorem exec_triggerDoorbell (awake : s.mgst ≠ .safe) (w : Word) : exec (.triggerDoorbell p w) s = .next (s.touched.trigger p w) :=
  congrArg Host.Outcome.next (if_neg (by simpa using ⟨awake, p8⟩))
omit p8 in
theorem exec_triggerDoorbell_safe (safe : s.mgst = .safe) (w : Word) : exec (.triggerDoorbell p w) s = .next s.touched :=
  congrArg Host.Outcome.next (if_pos (by simp [safe]))

end

/-- Settles O54: PCCTL by the state it steers the partition to and the passes that DROPQ ends, PCCANCEL by the end of its pass, a trigger word by the
tiles it names. -/
theorem hostControlsPassesAndPlans : Obligations.HostControlsPassesAndPlans := by
  intro s p w p8 seqs keys part awake unplaced cancelled dropped bare untouched
  refine ⟨fun safe => ⟨?_, ?_, ?_, ?_, exec_triggerDoorbell_safe safe w⟩, fun open' => ⟨?_, ?_, ?_, fun x mine at' opened tasks => ?_, fun other => ?_, ?_⟩⟩
  · exact congrArg Host.Outcome.next (if_neg (barOpen_safe safe))
  · exact congrArg Host.Outcome.next (if_neg (barOpen_safe safe))
  · exact congrArg Host.Outcome.next (if_neg (barOpen_safe safe))
  · exact congrArg Host.Outcome.next (if_neg (barOpen_safe safe))
  · -- QUIESCE_SET
    have bit : ((w ||| 1) &&& 3).getLsbD 0 = true := by simp
    refine ⟨_, exec_quiesceSet p8 open' w, idle_writePcctl _ _ _, fun bare => ?_, fun clear => ?_, ?_, fun runs => ?_, fun not quiescing => ?_,
      fun set x hx => ?_, fun clear => ?_⟩
    · by_cases set : w.getLsbD 1 = true
      · exact hbm_writePcctl_bare (s := s.touched) (or_one_and_three_eq_three.2 set) bare
      · rw [(writePcctl_only s.touched p (w ||| 1) (mt or_one_and_three_eq_three.1 set)).1]
        rfl
    · exact (writePcctl_only s.touched p (w ||| 1) (mt or_one_and_three_eq_three.1 (by rw [clear]; exact Bool.false_ne_true))).1
    · rw [pcctl_writePcctl, or_one_and_three]
    · have st : ((s.touched.partOf p).steered ((w ||| 1) &&& 3)).st = .quiescing := by
        rw [Partition.steered]
        dsimp only
        rw [if_pos bit]
        obtain active | quiescing := runs
        · exact if_pos (by rw [show (s.touched.partOf p).st = .active from active] <;> rfl)
        · rw [show (s.touched.partOf p).st = .quiescing from quiescing] <;> rfl
      rw [st_writePcctl, st]
      exact if_congr (and_iff_right rfl) rfl rfl
    · have st : ((s.touched.partOf p).steered ((w ||| 1) &&& 3)).st = part.st := by
        rw [Partition.steered]
        dsimp only
        rw [if_pos bit]
        exact if_neg (by rw [beq_iff_eq]; exact not)
      rw [st_writePcctl, st, if_neg fun h => quiescing h.1]
    · exact passAt_writePcctl_drops (s := s.touched) (or_one_and_three_eq_three.2 set) seqs hx
    · exact (writePcctl_only s.touched p (w ||| 1) (mt or_one_and_three_eq_three.1 (by rw [clear]; exact Bool.false_ne_true))).2
  · -- QUIESCE_CLEAR
    have bit : (w &&& 2).getLsbD 0 = false := by simp
    have keeps : (w &&& 2) &&& 3 ≠ 3 := fun all => by
      rw [and_two_and_three] at all
      rw [all] at bit
      cases bit
    obtain ⟨only, passes⟩ := writePcctl_only s.touched p (w &&& 2) keeps
    refine ⟨_, exec_quiesceClear p8 open' w, only, ?_, passes, ?_⟩
    · rw [pcctl_writePcctl, and_two_and_three]
    · have st : ((s.touched.partOf p).steered (w &&& 2 &&& 3)).st = if part.st = .quiescing ∨ part.st = .quiesced then .active else part.st := by
        rw [Partition.steered, and_two_and_three]
        dsimp only
        rw [if_neg (by simp)]
        exact if_congr (by rw [Bool.or_eq_true, beq_iff_eq, beq_iff_eq] <;> rfl) rfl rfl
      rw [st_writePcctl, st]
      refine if_neg fun h => ?_
      obtain ⟨quiescing, -⟩ := h
      split at quiescing
      · cases quiescing
      · next not => exact not (.inl quiescing)
  · -- DROPQ
    refine ⟨_, exec_dropq p8 open', idle_writePcctl _ _ _, fun bare => ?_, ?_, fun set x hx => ?_, fun clear => ?_⟩
    · by_cases set : part.pcctl.getLsbD 0 = true
      · exact hbm_writePcctl_bare (s := s.touched) (or_two_and_three_eq_three.2 set) bare
      · rw [(writePcctl_only s.touched p (part.pcctl ||| 2) (mt or_two_and_three_eq_three.1 set)).1]
        rfl
    · rw [pcctl_writePcctl]
      simp
    · exact passAt_writePcctl_drops (s := s.touched) (or_two_and_three_eq_three.2 set) seqs hx
    · exact (writePcctl_only s.touched p (part.pcctl ||| 2) (mt or_two_and_three_eq_three.1 (by rw [clear]; exact Bool.false_ne_true))).2
  · -- PCCANCEL of a pass that has not ended
    have seq : x.seq = passSeq w := by simpa using List.find?_some at'
    have at'' : s.touched.passAt p x.seq = some x := by rw [seq]; exact at'
    have opened' : x.st.over = false := by rw [← Bool.not_eq_true, over_iff]; exact opened
    have ends := passesEnd_endPass s.touched p x.seq .cancelled 3 0
    refine ⟨s.touched.endPass p x.seq .cancelled 3 0, ?_, ?_, ?_, fun idle => hbm_endPass_idle (s := s.touched) keys idle _ _ _ _ _, fun uid r mine' => ?_⟩
    · rw [exec_pccancel p8 open', cancelPass_ends (s := s.touched) mine at' opened tasks]
    · show (s.touched.endPass p x.seq .cancelled 3 0).passAt p x.seq = _
      rw [passAt_endPass, if_pos ⟨rfl, rfl⟩, at'', Option.map_some, Pass.ended, if_neg (by simp [opened'])]
      rfl
    · rw [ends.frame]
      rfl
    · have stopped : Stopped ((s.touched.endPass p x.seq .cancelled 3 0).unitOf uid) :=
        stopped_endPass (s := s.touched) at'' opened' keys .cancelled 3 0 (mem_listedUnits_of_ofPass mine')
      exact ⟨stopped.place, stopped.queue, stopped.logs r⟩
  · -- PCCANCEL of any other id
    rw [exec_pccancel p8 open', cancelPass_ignored (s := s.touched) other]
    rfl
  · -- trigger words
    intro h lo hi plan fires
    refine ⟨fun x at' tiled fires => ?_, fun none => ⟨_, exec_triggerDoorbell p8 open' w, ?_, ?_⟩⟩
    · obtain ⟨zero, top, order, tiles, live⟩ := fires
      have run : s.touched.trigger p w = ((List.range (hi + 1 - lo)).map (lo + ·)).foldl (State.triggerTile p h) s.touched :=
        trigger_eq (s := s.touched) rfl at' ((planRuns_iff _ _).2 live) zero top order (by rw [pdTiles_eq tiled]; exact tiles)
      obtain ⟨frame, y, found, same, flags⟩ := triggerTile_foldl (s := s.touched) ((List.range (hi + 1 - lo)).map (lo + ·)) at'
      refine ⟨_, exec_triggerDoorbell p8 open' w, ?_, y, ?_, same, fun j => ?_, ?_⟩
      · rw [run]
        exact frame
      · rw [run]
        exact found
      · rw [flags]
        have named : decide (j ∈ (List.range (hi + 1 - lo)).map (lo + ·)) = (decide (lo ≤ j) && decide (j ≤ hi)) := by
          rw [decide_eq_decide.2 (mem_tileRange order), Bool.decide_and]
        rw [named]
      · rw [run, telemetry_foldl_triggerTile (s := s.touched) _ (nodup_tileRange _ _) at', List.filter_map, List.length_map]
        rfl
    · rw [trigger_counts (s := s.touched) none]
      rfl
    · rw [trigger_counts (s := s.touched) none]
      exact KMap.get_upd_self _ _ _ _

end Sys2Proof.Machine
end

section
/-!
PROOFS. Sessions and measurements of the security controller (R123, R124): what an answer leaves and sends.
-/
namespace Sys2Proof.Machine
open Sys2Proof.Claims
set_option Elab.async false

theorem sends_sendPartner (s : State) (k : Nat) (m : Msg) : sends s (s.sendPartner k m) m := by
  unfold State.sendPartner
  split
  · exact sends_sendOn s m k 3 0 _ _
  · exact sends_send s m

/-- The session's number counts on. -/
def State.counted (s : State) (k : Nat) : State := { s with sessionSeq := KMap.set 0 s.sessionSeq k (KMap.get 0 s.sessionSeq k + 1) }

theorem sendSecured_eq (s : State) (k : Nat) (plain : List Byte) : s.sendSecured k plain = (s.counted k).sendPartner k (securedTo s k plain) := rfl

theorem sends_sendSecured (s : State) (k : Nat) (plain : List Byte) : sends (s.counted k) (s.sendSecured k plain) (securedTo s k plain) :=
  sends_sendPartner _ k _

theorem sessionSeq_sendSecured (s : State) (k : Nat) (plain : List Byte) : (s.sendSecured k plain).sessionSeq = (s.counted k).sessionSeq := by
  obtain ⟨frame, -⟩ := sends_sendSecured s k plain
  rw [frame]

theorem get_counted (s : State) (k j : Nat) : KMap.get 0 (s.counted k).sessionSeq j = KMap.get 0 s.sessionSeq j + if j = k then 1 else 0 := by
  refine (KMap.get_set _ _ _ _ _).trans ?_
  split
  · next here => rw [here]
  · rfl

/-- R124: a partner is answered in its session where it has one, else in the open. -/
theorem tells_answer (s : State) (k : Nat) (m : Msg) (plain : List Byte) : tells s (s.answer k m plain) k m plain := by
  refine ⟨fun none => ?_, fun some => ?_⟩
  · rw [State.answer, if_pos none]
    exact sends_sendPartner s k m
  · rw [State.answer, if_neg some, sessionSeq_sendSecured]
    exact ⟨sends_sendSecured s k plain, fun j => get_counted s k j⟩

theorem leBytes_one (i : Nat) : leBytes 1 i = [(BitVec.ofNat 8 i : Byte)] := rfl

theorem measured_iff (i : Nat) : measured i = true ↔ i ≤ 10 ∨ (16 ≤ i ∧ i ≤ 23) := by
  rw [measured, Bool.or_eq_true, Bool.and_eq_true, decide_eq_true_eq, decide_eq_true_eq, decide_eq_true_eq]

theorem exec_getMeasurements {i : Nat} (listed : i ≤ 10 ∨ (16 ≤ i ∧ i ≤ 23)) (s : State) (k : Nat) :
    let v := KMap.get 0 s.attest i
    let block := (BitVec.ofNat 8 i : Byte) :: digestBytes v
    let g := Config.identitySign block
    exec (.getMeasurements ⟨k, i⟩) s = .next (s.answer k (.measurement k i v g) (block ++ (List.range 96).map (byteOf g.toNat))) := by
  intro v block g
  rw [← leBytes_eq]
  exact congrArg id (if_pos ((measured_iff i).2 listed))

theorem exec_getMeasurements_other {i : Nat} (other : (10 < i ∧ i < 16) ∨ 23 < i) (s : State) (k : Nat) : exec (.getMeasurements ⟨k, i⟩) s = .next s := by
  refine (if_neg (c := measured i = true) ?_ : (if measured i then _ else _) = _)
  rw [measured_iff]
  omega

/-- R124: the key exchange draws the session's key and begins its numbers at 0. -/
theorem exec_secureSession (s : State) (k : Nat) (q : BitVec 768) : ∃ t, exec (.secureSession k q) s = .next t ∧
    sends { s with
      sessions := KMap.set 0 s.sessions k (Config.ecdheKey s.fresh q), sessionSeq := KMap.set 0 s.sessionSeq k 0, fresh := s.fresh + 1 } t
      (.session k (Config.ecdhePoint s.fresh) (Config.identitySign ((List.range 96).map (byteOf q.toNat) ++
        (List.range 96).map (byteOf (Config.ecdhePoint s.fresh).toNat))) Config.certChain) := by
  rw [← leBytes_eq, ← leBytes_eq]
  exact ⟨_, rfl, sends_sendPartner _ k _⟩

/-! ### Keys that go to several partners (R127) -/

/-- From `s` to `t` the controller sent messages. -/
structure Spoke (s t : State) : Prop where
  frame : t = { s with sessionSeq := t.sessionSeq, sent := t.sent, ports := t.ports }
  sent : ∃ l, t.sent = s.sent ++ l

theorem Spoke.refl (s : State) : Spoke s s := ⟨rfl, [], (List.append_nil _).symm⟩
theorem Spoke.trans {s t u : State} (h : Spoke s t) (g : Spoke t u) : Spoke s u := by
  obtain ⟨l, sent⟩ := h.sent
  obtain ⟨l', sent'⟩ := g.sent
  exact ⟨by rw [g.frame, h.frame], l ++ l', by rw [sent', sent, List.append_assoc]⟩
theorem Spoke.foldl {α : Type} {f : State → α → State} (h : ∀ s x, Spoke s (f s x)) (l : List α) (s : State) : Spoke s (l.foldl f s) :=
  List.foldlRecOn (motive := Spoke s) _ _ (.refl s) fun _ before x _ => before.trans (h _ x)
theorem Spoke.mem {s t : State} (h : Spoke s t) {m : Msg} (hm : m ∈ s.sent) : m ∈ t.sent := by
  obtain ⟨l, sent⟩ := h.sent
  rw [sent]
  exact List.mem_append_left _ hm
theorem Spoke.sessions {s t : State} (h : Spoke s t) : t.sessions = s.sessions := by rw [h.frame]

theorem spoke_of_sends {s t : State} {m : Msg} (h : sends s t m) : Spoke s t ∧ m ∈ t.sent := by
  obtain ⟨frame, l, sent, -⟩ := h
  exact ⟨⟨by rw [frame], _, sent⟩, by rw [sent]; simp⟩

theorem spoke_sendSecured (s : State) (k : Nat) (plain : List Byte) : Spoke s (s.sendSecured k plain) ∧ securedTo s k plain ∈ (s.sendSecured k plain).sent := by
  obtain ⟨spoke, mem⟩ := spoke_of_sends (sends_sendSecured s k plain)
  exact ⟨(⟨rfl, [], (List.append_nil _).symm⟩ : Spoke s (s.counted k)).trans spoke, mem⟩

theorem spoke_answer (s : State) (k : Nat) (m : Msg) (plain : List Byte) : Spoke s (s.answer k m plain) := by
  unfold State.answer
  split
  · exact (spoke_of_sends (sends_sendPartner s k m)).1
  · exact (spoke_sendSecured s k plain).1

theorem spoke_sendCtl (s : State) (k : Nat) (m : Msg) : Spoke s (s.sendCtl k m) ∧ m ∈ (s.sendCtl k m).sent :=
  spoke_of_sends (sends_sendOn s m k 3 0 _ _)

theorem securedTo_congr {s t : State} (sessions : t.sessions = s.sessions) {k : Nat} (seq : KMap.get 0 t.sessionSeq k = KMap.get 0 s.sessionSeq k)
    (plain : List Byte) : securedTo t k plain = securedTo s k plain := by
  rw [securedTo, securedTo, sessions, seq]

/-- Each of several partners is told once, with the number that its session had. -/
theorem foldl_sendSecured (plain : List Byte) (l : List Nat) (once : l.Nodup) (s : State) :
    (∀ k ∈ l, securedTo s k plain ∈ (l.foldl (fun s j => s.sendSecured j plain) s).sent) ∧
    ∀ k, k ∉ l → KMap.get 0 (l.foldl (fun s j => s.sendSecured j plain) s).sessionSeq k = KMap.get 0 s.sessionSeq k := by
  induction l generalizing s with
  | nil => exact ⟨fun _ h => (nomatch h), fun _ _ => rfl⟩
  | cons j l ih =>
    obtain ⟨new, once'⟩ := List.nodup_cons.1 once
    obtain ⟨told, others⟩ := ih once' (s.sendSecured j plain)
    obtain ⟨spoke, mem⟩ := spoke_sendSecured s j plain
    have seq {k : Nat} (ne : k ≠ j) : KMap.get 0 (s.sendSecured j plain).sessionSeq k = KMap.get 0 s.sessionSeq k := by
      rw [sessionSeq_sendSecured, get_counted, if_neg ne, Nat.add_zero]
    refine ⟨fun k hk => ?_, fun k hk => ?_⟩
    · obtain rfl | hk := List.mem_cons.1 hk
      · exact (Spoke.foldl (fun s j => (spoke_sendSecured s j plain).1) l _).mem mem
      · rw [← securedTo_congr spoke.sessions (seq fun same => new (same ▸ hk))]
        exact told k hk
    · rw [List.foldl_cons, others k fun h => hk (.tail _ h), seq fun same => hk (same ▸ .head _)]

theorem nodup_eraseDups (l : List Nat) : l.eraseDups.Nodup := by
  induction h : l.length using Nat.strongRecOn generalizing l with
  | ind n ih =>
    cases l with
    | nil => exact List.nodup_nil
    | cons a l =>
      rw [List.eraseDups_cons, List.nodup_cons, List.mem_eraseDups]
      refine ⟨fun mem => ?_, ih _ ?_ _ rfl⟩
      · simpa using List.of_mem_filter mem
      · rw [← h, List.length_cons]
        exact Nat.lt_succ_of_le (List.length_filter_le _ _)

end Sys2Proof.Machine
end

section
/-!
PROOFS. Enclave records (R125-R127): what the checks ask, and what the controller does where all of them pass.
-/
namespace Sys2Proof.Machine
open Sys2Proof.Claims
set_option Elab.async false

/-! ### The fields of a record -/

theorem mePt_eq (m : BitVec 32) : mePt m = participant m := by rw [mePt, fld_eq] <;> rfl
theorem mePart_eq_memberPart (m : BitVec 32) : mePart m = memberPart m := mePart_eq m

theorem ownMembers_eq (s : State) (l : List (BitVec 32)) : s.ownMembers l = membersHere s l := by
  simp only [State.ownMembers, membersHere, mePeer_eq]

/-- The member entries as the statement reads them. -/
def memberEntries (b : List Byte) : List (BitVec 32) :=
  (List.range (fieldOf b 7 1)).map (fun k => BitVec.ofNat 32 (fieldOf b (256 + 96 * fieldOf b 6 1 + 4 * k) 4))

theorem erMembers_eq (b : List Byte) : erMembers b = memberEntries b := by
  simp only [erMembers, erNmemb, erNpart, rfld_eq, memberEntries]
theorem erPoints_eq (b : List Byte) : erPoints b = (List.range (fieldOf b 6 1)).map (fun j => BitVec.ofNat 768 (fieldOf b (256 + 96 * j) 96)) := by
  simp only [erPoints, erNpart, rfld_eq]
theorem erLen_eq (b : List Byte) : erLen b = 256 + 96 * fieldOf b 6 1 + 4 * fieldOf b 7 1 := by
  simp only [erLen, erNpart, erNmemb, rfld_eq]
theorem erFirst_eq (b : List Byte) : erFirst b = ((memberEntries b).headD 0).toNat % 2 ^ 12 := by rw [erFirst, erMembers_eq, mePeer_eq]

theorem meetsPolicy_iff (b : List Byte) (reg : Nat → BitVec 384) (p : Nat) : meetsPolicy (erPolicy b) reg p = true ↔ policyMet b reg p := by
  have digest (k : Nat) (h : k < 4) : (erPolicy b).getD k 0 = BitVec.ofNat 384 (fieldOf b (64 + 48 * k) 48) := by
    rw [List.getD_eq_getElem _ _ (by simpa [erPolicy] using h)]
    simp [erPolicy, rfld_eq]
  rw [meetsPolicy, digest 0 (by decide), digest 1 (by decide), digest 2 (by decide), digest 3 (by decide)]
  simp only [Bool.and_eq_true, beq_iff_eq, and_assoc]
  rfl

/-! ### What the checks ask (R125, R127) -/

theorem mem_erOthers {s : State} {b : List Byte} {k : Nat} : k ∈ s.erOthers b ↔ s.peer ≠ some k ∧ ∃ m ∈ memberEntries b, m.toNat % 2 ^ 12 = k := by
  simp only [State.erOthers, erMembers_eq, List.mem_filter, List.mem_eraseDups, List.mem_map, mePeer_eq, bne_iff_ne]
  exact and_comm

theorem nodup_erOthers (s : State) (b : List Byte) : (s.erOthers b).Nodup := (nodup_eraseDups _).filter _

/-- The controllers of the others have sessions here, and blocks that meet the policy. -/
theorem attests_policy {s : State} {b : List Byte} {blocks : List (Nat × List (BitVec 384))} (h : s.attests b blocks = true) {k : Nat}
    (other : s.peer ≠ some k ∧ ∃ m ∈ memberEntries b, m.toNat % 2 ^ 12 = k) : KMap.get 0 s.sessions k ≠ 0 ∧
    ∃ x ∈ blocks, x.1 = k ∧ ∀ m ∈ memberEntries b, m.toNat % 2 ^ 12 = k → policyMet b (fun i => x.2.getD i 0) (memberPart m) := by
  have all := List.all_eq_true.1 h k (mem_erOthers.2 other)
  obtain ⟨session, block⟩ := Bool.and_eq_true_iff.1 all
  obtain ⟨x, hx, ok⟩ := List.any_eq_true.1 block
  obtain ⟨peer, policy⟩ := Bool.and_eq_true_iff.1 ok
  refine ⟨bne_iff_ne.1 session, x, hx, beq_iff_eq.1 peer, fun m hm at' => ?_⟩
  have met := List.all_eq_true.1 policy m (List.mem_filter.2 ⟨by rw [erMembers_eq]; exact hm, by rw [mePeer_eq]; exact beq_iff_eq.2 at'⟩)
  rw [← mePart_eq_memberPart]
  exact (meetsPolicy_iff b _ _).1 met

/-- What the form of a record asks that the statement names. -/
theorem erForm_fields {b : List Byte} (h : erForm b = true) : b.length = erLen b + 96 * fieldOf b 6 1 ∧ 1 ≤ fieldOf b 6 1 ∧ fieldOf b 6 1 ≤ 16 ∧
    fieldOf b 0 2 ≠ 0 ∧ fieldOf b 8 8 = 0 ∧ 1 ≤ fieldOf b 4 1 ∧ fieldOf b 4 1 ≤ 15 := by
  simp only [erForm, Bool.and_eq_true, decide_eq_true_eq, beq_iff_eq, bne_iff_ne, erNpart, erSlot, erId, rfld_eq] at h
  obtain ⟨⟨⟨⟨⟨⟨⟨⟨⟨⟨⟨few, most⟩, -⟩, -⟩, slot⟩, slot'⟩, -⟩, -⟩, id⟩, epoch⟩, length⟩, -⟩ := h
  exact ⟨length, few, most, id, epoch, slot, slot'⟩

theorem erSigned_each {b : List Byte} (h : erSigned b = true) {j : Nat} (hj : j < fieldOf b 6 1) :
    ecdsaVerify (BitVec.ofNat 768 (fieldOf b (256 + 96 * j) 96)) (sha384 (b.take (erLen b))) (BitVec.ofNat 768 (fieldOf b (erLen b + 96 * j) 96)) = true := by
  have entry : (j, (BitVec.ofNat 768 (fieldOf b (256 + 96 * j) 96) : BitVec 768)) ∈ (List.range (fieldOf b 6 1)).zip (erPoints b) := by
    rw [erPoints_eq]
    refine List.mem_iff_getElem.2 ⟨j, by simpa using hj, ?_⟩
    simp
  have verified := List.all_eq_true.1 h _ (by rw [erNpart, rfld_eq]; exact entry)
  rw [rfld_eq] at verified
  exact verified

/-- A member partition here as the checks of R127 want it. -/
theorem enclaveOk_member {s : State} {b : List Byte} (h : s.enclaveOk b = true) {m : BitVec 32} (hm : m ∈ membersHere s (memberEntries b)) :
    (s.partOf (memberPart m)).st = .active ∧ (s.partOf (memberPart m)).openPasses = 0 ∧
    (∀ e ∈ s.enclaves, e.key ≠ 0 → e.id ≠ (s.partOf (memberPart m)).enclave) ∧ policyMet b (fun i => KMap.get 0 s.attest i) (memberPart m) ∧
    ∀ n ∈ membersHere s (memberEntries b), participant n = participant m := by
  simp only [State.enclaveOk, Bool.and_eq_true, ownMembers_eq, erMembers_eq] at h
  obtain ⟨⟨⟨⟨-, members⟩, -⟩, -⟩, -⟩ := h
  have checked := List.all_eq_true.1 members m hm
  simp only [Bool.and_eq_true, beq_iff_eq, Bool.not_eq_true', List.all_eq_true, mePart_eq_memberPart, mePt_eq] at checked
  obtain ⟨⟨⟨⟨active, idle⟩, free⟩, policy⟩, same⟩ := checked
  refine ⟨active, idle, fun e he key same => ?_, (meetsPolicy_iff b _ _).1 policy, same⟩
  have none := List.any_eq_false.1 free e he
  exact none (Bool.and_eq_true_iff.2 ⟨beq_iff_eq.2 same, bne_iff_ne.2 key⟩)

theorem enclaveOk_fields {s : State} {b : List Byte} (h : s.enclaveOk b = true) : erForm b = true ∧ erSigned b = true ∧
    membersHere s (memberEntries b) ≠ [] ∧ KMap.get 0 s.keys (fieldOf b 4 1) = 0 := by
  simp only [State.enclaveOk, Bool.and_eq_true, ownMembers_eq, erMembers_eq, beq_iff_eq, erSlot, rfld_eq] at h
  obtain ⟨⟨⟨⟨⟨⟨form, signed⟩, some⟩, -⟩, -⟩, -⟩, slot⟩ := h
  exact ⟨form, signed, by simpa using some, slot⟩

/-! ### The members join (R127 step 4) -/

/-- The partitions of a list join enclave `id`. -/
theorem partOf_foldl_join (id : Nat) (l : List (BitVec 32)) (s : State) (q : Nat) :
    (l.foldl (fun s m => s.modPart (mePart m) (fun x => { x with enclave := id })) s).partOf q =
      if ∃ m ∈ l, memberPart m = q then { s.partOf q with enclave := id } else s.partOf q := by
  induction l generalizing s with
  | nil => rw [if_neg fun ⟨_, h, _⟩ => nomatch h]; rfl
  | cons m l ih =>
    rw [List.foldl_cons, ih, mePart_eq_memberPart]
    by_cases here : q = memberPart m
    · rw [if_pos (show ∃ n ∈ m :: l, memberPart n = q from ⟨m, .head l, here.symm⟩), here, State.partOf_modPart_self, ite_self]
    · rw [State.partOf_modPart_ne _ _ here]
      refine if_congr ⟨fun ⟨n, hn, at'⟩ => ⟨n, .tail m hn, at'⟩, fun ⟨n, hn, at'⟩ => ?_⟩ rfl rfl
      obtain rfl | hn := List.mem_cons.1 hn
      · exact absurd at'.symm here
      · exact ⟨n, hn, at'⟩

/-- From `s` to `t` only partitions changed. -/
def OnlyParts (s t : State) : Prop := t = { s with parts := t.parts }
theorem onlyParts_foldl_modPart (f : BitVec 32 → Nat) (g : Partition → Partition) (l : List (BitVec 32)) (s : State) :
    OnlyParts s (l.foldl (fun s m => s.modPart (f m) g) s) := by
  refine List.foldlRecOn (motive := OnlyParts s) _ _ rfl fun t before m _ => ?_
  unfold OnlyParts at before ⊢
  rw [before]
  rfl

/-- A value that is not the default is listed. -/
theorem KMap.mem_of_get_ne {α : Type} {d : α} {m : KMap α} {k : Nat} (h : KMap.get d m k ≠ d) : (k, KMap.get d m k) ∈ m := by
  induction m with
  | nil => exact absurd rfl h
  | cons x m ih =>
    obtain ⟨j, v⟩ := x
    by_cases here : k = j
    · rw [here, KMap.get_head]
      exact .head m
    · by_cases below : k < j
      · exact absurd (KMap.get_below d v m below) h
      · rw [KMap.get_above d v m (by omega)] at h ⊢
        exact .tail _ (ih h)

theorem flitsLeft_loadKey (s : State) (slot : Nat) (key : BitVec 256) : flitsLeft (s.putKey slot key) (s.loadKey slot key) :=
  List.foldlRecOn (motive := flitsLeft (s.putKey slot key)) _ _ (.refl _) fun u before p _ =>
    before.trans ((flitsLeft_modPort u p.1 _).trans (flitsLeft_flush _ p.1))

/-- The enclave that a record forms. -/
def formed (b : List Byte) (key : BitVec 256) : Enclave :=
  { id := erId b, slot := erSlot b, epoch := 0, quorum := erQuorum b, points := erPoints b, members := erMembers b, revoked := [], key := key, policy := erPolicy b }

/-- The members of an enclave joined it: its key is in its slot, and of the enclaves those stay that a partition belongs to. -/
theorem joinEnclave_facts (s : State) (b : List Byte) (key : BitVec 256) (here : membersHere s (memberEntries b) ≠ []) (id : fieldOf b 0 2 ≠ 0) :
    let t := s.joinEnclave b key
    t = { s with enclaves := t.enclaves, keys := t.keys, sent := t.sent, ports := t.ports, parts := t.parts } ∧
    (∃ l, t.enclaves = l ++ [formed b key] ∧ ∀ x ∈ l, x ∈ s.enclaves ∧ x.id ≠ fieldOf b 0 2) ∧
    t.keys = KMap.set 0 s.keys (erSlot b) key ∧ (∃ l, t.sent = s.sent ++ l) ∧
    ∀ q, t.partOf q = if ∃ m ∈ membersHere s (memberEntries b), memberPart m = q then { s.partOf q with enclave := fieldOf b 0 2 } else s.partOf q := by
  intro t
  obtain ⟨loaded, l, sent, -⟩ := flitsLeft_loadKey { s with enclaves := s.enclaves.filter (fun x => x.id != erId b) ++ [formed b key] } (erSlot b) key
  generalize keyed : State.loadKey _ _ _ = s1 at loaded sent
  have joins := onlyParts_foldl_modPart mePart (fun x => { x with enclave := erId b }) (s.ownMembers (erMembers b)) s1
  have parts := partOf_foldl_join (erId b) (s.ownMembers (erMembers b)) s1
  generalize joined : (s.ownMembers (erMembers b)).foldl (fun s m => s.modPart (mePart m) (fun x => { x with enclave := erId b })) s1 = s2 at joins parts
  have result : t = { s2 with enclaves := s2.enclaves.filter (fun e => s2.parts.any (fun q => q.2.enclave == e.id)) } := by
    rw [← joined, ← keyed]
    rfl
  have idEq : erId b = fieldOf b 0 2 := rfld_eq b 0 2
  rw [ownMembers_eq, erMembers_eq, idEq] at parts
  have enclaves : s2.enclaves = s.enclaves.filter (fun x => x.id != erId b) ++ [formed b key] := by
    rw [joins, loaded]
    rfl
  have belongs : s2.parts.any (fun q => q.2.enclave == (formed b key).id) = true := by
    obtain ⟨m, hm⟩ := List.exists_mem_of_ne_nil _ here
    have part : (s2.partOf (memberPart m)).enclave = erId b := by rw [parts, if_pos ⟨m, hm, rfl⟩, idEq]
    refine List.any_eq_true.2 ⟨_, KMap.mem_of_get_ne (d := Partition.off) (k := memberPart m) fun off => ?_, beq_iff_eq.2 part⟩
    rw [show s2.partOf (memberPart m) = Partition.off from off, idEq] at part
    exact id part.symm
  refine ⟨?_, ⟨(s.enclaves.filter (fun x => x.id != erId b)).filter (fun e => s2.parts.any (fun q => q.2.enclave == e.id)), ?_, fun x hx => ?_⟩, ?_,
    ⟨l, ?_⟩, fun q => ?_⟩
  · rw [result, joins, loaded]
    rfl
  · rw [result]
    show s2.enclaves.filter _ = _
    rw [enclaves, List.filter_append, List.filter_cons_of_pos (by simpa using belongs), List.filter_nil]
  · have mem := List.mem_of_mem_filter hx
    rw [← idEq]
    exact ⟨List.mem_of_mem_filter mem, by simpa using List.of_mem_filter mem⟩
  · rw [result, joins, loaded]
    rfl
  · rw [result, joins]
    exact sent
  · have same : t.partOf q = s2.partOf q := by rw [result]; rfl
    rw [same, parts, loaded]
    rfl

end Sys2Proof.Machine
end

section
/-!
PROOFS. ENCLAVE_RECORD (R127): a record that fails a check is refused; else the enclave forms, and the host and the other controllers are told.
-/
namespace Sys2Proof.Machine
open Sys2Proof.Claims
set_option Elab.async false

theorem hostSession_eq (p : Nat) : hostSession p = 4096 + p := rfl

/-- What the host is told in its session goes out as one message. -/
theorem answer_host {s : State} {p : Nat} (session : KMap.get 0 s.sessions (4096 + p) ≠ 0) (m : Msg) (plain : List Byte) :
    s.answer (4096 + p) m plain = (s.counted (4096 + p)).send (securedTo s (4096 + p) plain) := by
  rw [State.answer, if_neg session, sendSecured_eq, State.sendPartner, if_neg (by omega)]

/-- What the controllers agree on (R127): at member entry 0's the others' attestation, at the others its key in a session. -/
def Agreed (s : State) (b : List Byte) (blocks : List (Nat × List (BitVec 384))) (key : BitVec 256) : Prop :=
  (s.peer = some (((memberEntries b).headD 0).toNat % 2 ^ 12) → s.attests b blocks = true) ∧
  (¬s.peer = some (((memberEntries b).headD 0).toNat % 2 ^ 12) → key ≠ 0 ∧ KMap.get 0 s.sessions (((memberEntries b).headD 0).toNat % 2 ^ 12) ≠ 0)

theorem agreed_iff (s : State) (b : List Byte) (blocks : List (Nat × List (BitVec 384))) (key : BitVec 256) :
    (if s.peer == some (erFirst b) then s.attests b blocks else key != 0 && KMap.get 0 s.sessions (erFirst b) != 0) = true ↔ Agreed s b blocks key := by
  rw [erFirst_eq, Agreed]
  by_cases first : s.peer = some (((memberEntries b).headD 0).toNat % 2 ^ 12)
  · rw [if_pos (beq_iff_eq.2 first)]
    exact ⟨fun h => ⟨fun _ => h, fun other => absurd first other⟩, fun h => h.1 first⟩
  · rw [if_neg (mt beq_iff_eq.1 first), Bool.and_eq_true, bne_iff_ne, bne_iff_ne]
    exact ⟨fun h => ⟨fun other => absurd other first, fun _ => h⟩, fun h => h.2 first⟩

section
variable {s : State} {p : Nat} {b : List Byte} {blocks : List (Nat × List (BitVec 384))} {key : BitVec 256}

theorem exec_enclaveRecord_refused (h : KMap.get 0 s.sessions (4096 + p) = 0 ∨ s.enclaveOk b = false ∨ ¬Agreed s b blocks key) :
    exec (.enclaveRecord p b ⟨blocks, key⟩) s = .next (s.answer (4096 + p) (.enclaveAnswer false) [0]) := by
  refine if_pos ?_
  rw [Bool.not_eq_true', ← Bool.not_eq_true, Bool.and_eq_true, Bool.and_eq_true, bne_iff_ne]
  rintro ⟨⟨session, ok⟩, agree⟩
  obtain none | bad | not := h
  · exact session none
  · rw [bad] at ok
    cases ok
  · exact not ((agreed_iff s b blocks key).1 agree)

/-- The state in which the others' controllers were told the key. -/
def State.toldOthers (s : State) (b : List Byte) : State :=
  (s.erOthers b).foldl (fun (u : State) j => u.sendSecured j (leBytes 32 (Config.freshKey s.fresh).toNat)) { s with fresh := s.fresh + 1 }

variable (session : KMap.get 0 s.sessions (4096 + p) ≠ 0) (ok : s.enclaveOk b = true) (agree : Agreed s b blocks key)
include session ok agree

theorem enclaveRecord_passes : ¬(!(KMap.get 0 s.sessions (hostSession p) != 0 && s.enclaveOk b &&
    (if s.peer == some (erFirst b) then s.attests b blocks else key != 0 && KMap.get 0 s.sessions (erFirst b) != 0))) = true := by
  rw [Bool.not_eq_true', Bool.not_eq_false, Bool.and_eq_true, Bool.and_eq_true, bne_iff_ne]
  exact ⟨⟨session, ok⟩, (agreed_iff s b blocks key).2 agree⟩

theorem exec_enclaveRecord_first (first : s.peer = some (((memberEntries b).headD 0).toNat % 2 ^ 12)) :
    exec (.enclaveRecord p b ⟨blocks, key⟩) s =
      .next (((s.toldOthers b).joinEnclave b (Config.freshKey s.fresh)).answer (4096 + p) (.enclaveAnswer true) [1]) := by
  have here : (s.peer == some (erFirst b)) = true := by
    rw [erFirst_eq]
    exact beq_iff_eq.2 first
  refine (if_neg (enclaveRecord_passes session ok agree)).trans ((if_pos here).trans ?_)
  rfl

theorem exec_enclaveRecord_later (later : ¬s.peer = some (((memberEntries b).headD 0).toNat % 2 ^ 12)) :
    exec (.enclaveRecord p b ⟨blocks, key⟩) s = .next ((s.joinEnclave b key).answer (4096 + p) (.enclaveAnswer true) [1]) := by
  have there : ¬(s.peer == some (erFirst b)) = true := by
    rw [erFirst_eq]
    exact mt beq_iff_eq.1 later
  exact (if_neg (enclaveRecord_passes session ok agree)).trans ((if_neg there).trans rfl)
end

/-- An enclave forms in a state that the controller has spoken in since `s`, and the host is told. -/
theorem formed_answer {s u : State} {p : Nat} {b : List Byte} {key : BitVec 256}
    (spoke : Spoke { s with fresh := u.fresh } u) (seq : KMap.get 0 u.sessionSeq (4096 + p) = KMap.get 0 s.sessionSeq (4096 + p))
    (session : KMap.get 0 s.sessions (4096 + p) ≠ 0) (here : membersHere s (memberEntries b) ≠ []) (id : fieldOf b 0 2 ≠ 0) :
    let t := (u.joinEnclave b key).answer (4096 + p) (.enclaveAnswer true) [1]
    (∃ l, t.enclaves = l ++ [formed b key] ∧ ∀ x ∈ l, x ∈ s.enclaves ∧ x.id ≠ fieldOf b 0 2) ∧
    (∀ j, KMap.get 0 t.keys j = if j = fieldOf b 4 1 then key else KMap.get 0 s.keys j) ∧
    (∀ q, t.partOf q = if ∃ m ∈ membersHere s (memberEntries b), memberPart m = q then { s.partOf q with enclave := fieldOf b 0 2 } else s.partOf q) ∧
    (∃ l, t.sent = s.sent ++ l ++ [securedTo s (4096 + p) [1]]) ∧ ∀ m ∈ u.sent, m ∈ t.sent := by
  intro t
  have members : membersHere u (memberEntries b) = membersHere s (memberEntries b) := by rw [spoke.frame]; rfl
  obtain ⟨frame, ⟨l, enclaves, old⟩, keys, ⟨l', sent⟩, parts⟩ := joinEnclave_facts u b key (by rw [members]; exact here) id
  generalize joined : u.joinEnclave b key = j at frame enclaves keys sent parts
  have sessions : j.sessions = s.sessions := by rw [frame, spoke.frame]
  have result : t = (j.counted (4096 + p)).send (securedTo j (4096 + p) [1]) := by
    rw [← joined]
    exact answer_host (by rw [joined, sessions]; exact session) _ _
  have told : securedTo j (4096 + p) [1] = securedTo s (4096 + p) [1] := securedTo_congr sessions (by rw [frame]; exact seq) [1]
  obtain ⟨l0, before⟩ := spoke.sent
  refine ⟨⟨l, ?_, fun x hx => ?_⟩, fun i => ?_, fun q => ?_, ⟨l0 ++ l', ?_⟩, fun m hm => ?_⟩
  · rw [result]
    exact enclaves
  · obtain ⟨mem, ne⟩ := old x hx
    rw [spoke.frame] at mem
    exact ⟨mem, ne⟩
  · have same : t.keys = KMap.set 0 u.keys (erSlot b) key := by rw [result]; exact keys
    rw [same, KMap.get_set, show erSlot b = fieldOf b 4 1 from rfld_eq b 4 1, spoke.frame]
  · have same : t.partOf q = j.partOf q := by rw [result]; rfl
    rw [same, parts, members, spoke.frame]
    rfl
  · rw [result, State.send]
    show j.sent ++ _ = _
    rw [told, sent, before, List.append_assoc s.sent]
  · rw [result]
    exact List.mem_append_left _ (by rw [show (j.counted (4096 + p)).sent = j.sent from rfl, sent]; exact List.mem_append_left _ hm)

end Sys2Proof.Machine
end

section
/-!
PROOFS. What the failure of peers and plans leaves alone (R70, R71, R84, R93): enclaves, keys, sessions, and of the partitions their states and those
of their passes; and no store waits for a peer that is gone.
-/
namespace Sys2Proof.Machine
open Sys2Proof.Claims
set_option Elab.async false

theorem KMap.mem_set_cases {α : Type} [DecidableEq α] {d : α} {m : KMap α} {k : Nat} {v : α} {x : Nat × α} (h : x ∈ KMap.set d m k v) :
    x = (k, v) ∨ x ∈ m := by
  have cons {c : Prop} [Decidable c] {l : KMap α} (h : x ∈ if c then l else (k, v) :: l) : x = (k, v) ∨ x ∈ l := by
    split at h
    · exact .inr h
    · exact List.mem_cons.1 h
  induction m with
  | nil => exact cons h
  | cons y m ih =>
    obtain ⟨j, w⟩ := y
    rw [KMap.set] at h
    split at h
    · exact cons h
    · split at h
      · exact (cons h).imp id fun mem => .tail _ ((List.dropWhile_sublist _).subset mem)
      · obtain rfl | mem := List.mem_cons.1 h
        · exact .inr (.head m)
        · exact (ih mem).imp id (.tail _)

/-- No store of a listed unit waits for a peer that `bad` names by partition and peer. -/
def NoStoreTo (bad : Nat → Nat → Bool) (s : State) : Prop := ∀ e ∈ s.units, ∀ r, ∀ w ∈ (e.2.reeveOf r).stores, bad e.2.part w.peer = false
/-- What of a pass the statement on revocation names. -/
def Pass.standing (x : Pass) : Nat × PassState := (x.seq, x.st)
/-- What of a partition it names. -/
def Partition.standing (x : Partition) : PartState × List (Nat × PassState) := (x.st, x.passes.map Pass.standing)

/-- From `s` to `t` the records of the security controller and the standing of partitions and passes stayed, and no store was begun. -/
structure KeepsTrust (s t : State) : Prop where
  enclaves : t.enclaves = s.enclaves
  keys : t.keys = s.keys
  sessions : t.sessions = s.sessions
  sessionSeq : t.sessionSeq = s.sessionSeq
  standing : ∀ q, (t.partOf q).standing = (s.partOf q).standing
  stores : ∀ bad, NoStoreTo bad s → NoStoreTo bad t

theorem KeepsTrust.of_eq {s t : State} (enclaves : t.enclaves = s.enclaves) (keys : t.keys = s.keys) (sessions : t.sessions = s.sessions)
    (sessionSeq : t.sessionSeq = s.sessionSeq) (parts : t.parts = s.parts) (units : t.units = s.units) : KeepsTrust s t :=
  ⟨enclaves, keys, sessions, sessionSeq, fun q => by rw [State.partOf, parts, State.partOf], fun _ h => by rw [NoStoreTo, units]; exact h⟩
theorem KeepsTrust.refl (s : State) : KeepsTrust s s := .of_eq rfl rfl rfl rfl rfl rfl
theorem KeepsTrust.trans {s t u : State} (h : KeepsTrust s t) (g : KeepsTrust t u) : KeepsTrust s u :=
  ⟨g.enclaves.trans h.enclaves, g.keys.trans h.keys, g.sessions.trans h.sessions, g.sessionSeq.trans h.sessionSeq,
    fun q => (g.standing q).trans (h.standing q), fun bad none => g.stores bad (h.stores bad none)⟩
theorem KeepsTrust.foldl {α : Type} {f : State → α → State} (h : ∀ s x, KeepsTrust s (f s x)) (l : List α) (s : State) : KeepsTrust s (l.foldl f s) :=
  List.foldlRecOn (motive := KeepsTrust s) _ _ (.refl s) fun _ before x _ => before.trans (h _ x)
theorem KeepsTrust.ite {c : Prop} [Decidable c] {s t u : State} (yes : KeepsTrust s t) (no : KeepsTrust s u) : KeepsTrust s (if c then t else u) := by
  split <;> assumption
theorem KeepsTrust.acc_ite {α : Type} {c : Prop} [Decidable c] {s : State} {x y : Acc α} (yes : KeepsTrust s x.state) (no : KeepsTrust s y.state) :
    KeepsTrust s (if c then x else y).state := by
  split <;> assumption
theorem KeepsTrust.bind {α β : Type} {s : State} {x : Acc α} {f : α → State → Acc β} (h : KeepsTrust s x.state)
    (next : ∀ a u, KeepsTrust u (f a u).state) : KeepsTrust s (x.bind f).state := by
  cases x with
  | ok a u => exact h.trans (next a u)
  | trap t u => exact h
  | wait w u => exact h
theorem KeepsTrust.bind_foldl {α β : Type} {f : β → α → State → Acc α} (step : ∀ b a u, KeepsTrust u (f b a u).state) {s : State} (l : List β)
    {x : Acc α} (h : KeepsTrust s x.state) : KeepsTrust s (l.foldl (fun acc b => acc.bind (f b)) x).state :=
  List.foldlRecOn (motive := fun x : Acc α => KeepsTrust s x.state) _ _ h fun _ before b _ => before.bind (step b)

/-- A change of a unit that spares its partition and its stores. -/
theorem KeepsTrust.modUnit (s : State) (u : Nat) {f : Unit → Unit} (part : ∀ x, (f x).part = x.part := by intro; rfl)
    (stores : ∀ x r, ((f x).reeveOf r).stores = (x.reeveOf r).stores := by intros; rfl) : KeepsTrust s (s.modUnit u f) := by
  refine ⟨rfl, rfl, rfl, rfl, fun _ => rfl, fun bad none e he r w hw => ?_⟩
  obtain rfl | listed := KMap.mem_set_cases he
  · rw [stores] at hw
    rw [part]
    by_cases out : s.unitOf u = Unit.none
    · rw [out] at hw
      cases hw
    · exact none _ (KMap.mem_of_get_ne out) r w hw
  · exact none e listed r w hw

/-- A change of a partition that spares its state, and the numbers and states of its passes. -/
theorem KeepsTrust.modPart (s : State) (p : Nat) {f : Partition → Partition} (same : ∀ x, (f x).standing = x.standing := by intro; rfl) :
    KeepsTrust s (s.modPart p f) := by
  refine ⟨rfl, rfl, rfl, rfl, fun q => ?_, fun _ h => h⟩
  by_cases here : q = p
  · rw [here, State.partOf_modPart_self, same]
  · rw [State.partOf_modPart_ne _ _ here]

/-- A change of one pass that spares its number and state. -/
theorem KeepsTrust.modPass (s : State) (p q : Nat) {f : Pass → Pass} (same : ∀ x, (f x).standing = x.standing := by intro; rfl) :
    KeepsTrust s (s.modPass p q f) := by
  refine KeepsTrust.modPart s p fun x => Prod.ext rfl ?_
  show (x.passes.map _).map Pass.standing = _
  rw [List.map_map]
  refine List.map_congr_left fun y _ => ?_
  rw [Function.comp]
  split
  · exact same y
  · rfl

/-! ### Memory accesses -/

theorem keepsTrust_hbmWrite (s : State) (a : Nat) (l : List Byte) : KeepsTrust s (s.hbmWrite a l) := .of_eq rfl rfl rfl rfl rfl rfl

theorem keepsTrust_hbmStore (s : State) (a : Nat) (l : List Byte) : KeepsTrust s (s.hbmStore a l) := by
  have counted : KeepsTrust s (s.count tmDisp) := .of_eq rfl rfl rfl rfl rfl rfl
  exact .ite ((KeepsTrust.ite counted (.refl s)).trans (keepsTrust_hbmWrite _ _ _)) (keepsTrust_hbmWrite s a l)

theorem keepsTrust_leafRead (s : State) (c : XCtx) (va : Word) : KeepsTrust s (s.leafRead c va).2 := by
  have dir (p a : Nat) : KeepsTrust s (s.cacheDir p a) := .ite (.modPart s p) (.refl s)
  have walk (l : Option Leaf) : KeepsTrust s (s.cacheWalk c.part c.asid va l) :=
    .ite (dir _ _) ((dir _ _).trans (.of_eq rfl rfl rfl rfl rfl rfl))
  exact .ite (.refl s) (walk _)

theorem keepsTrust_setAD (s : State) (k : Kind) (l : Leaf) : KeepsTrust s (s.setAD k l) := by
  unfold State.setAD
  cases l.entry with
  | none => exact .refl s
  | some a => exact .ite (.refl s) (keepsTrust_hbmWrite s a _)

theorem keepsTrust_xlate (s : State) (c : XCtx) (k : Kind) (vec : Bool) (va : Word) (n al : Nat) : KeepsTrust s (s.xlate c k vec va n al).state := by
  have read := keepsTrust_leafRead s c va
  unfold State.xlate
  refine .acc_ite (.refl s) ?_
  generalize s.leafRead c va = found at read ⊢
  obtain ⟨_ | _ | l, u⟩ := found
  · exact read
  · exact read
  · refine KeepsTrust.trans read (.acc_ite (.refl u) (.acc_ite (.refl u) (.acc_ite (.refl u) ?_)))
    cases u.target c k vec va n al l with
    | error t => exact .refl u
    | ok x => exact .ite ((keepsTrust_setAD u k l).trans (.of_eq rfl rfl rfl rfl rfl rfl)) (keepsTrust_setAD u k l)

theorem keepsTrust_mmioWrite (s : State) (keep : Bool) (f off : Nat) (v : Word) : KeepsTrust s (s.mmioWrite keep f off v) := by
  have put (i : DevWrite) : KeepsTrust s { s with device := s.device ++ [i] } := .of_eq rfl rfl rfl rfl rfl rfl
  have base (m : KMap QPair) : KeepsTrust s { s with pairs := m } := .of_eq rfl rfl rfl rfl rfl rfl
  exact .ite (.refl s) (.ite (put _) (.ite (.refl s) (.ite (put _)
    (.ite (.ite (.ite (.refl s) (base _)) (.ite (put _) (.ite (put _) (.refl s)))) (.refl s)))))

theorem keepsTrust_keepSnap (s : State) (u pa n : Nat) : KeepsTrust s (s.keepSnap u pa n) := .ite (.modPass s _ _) (.refl s)

theorem keepsTrust_loftWrite (s : State) (u o : Nat) (l : List Byte) : KeepsTrust s (s.loftWrite u o l) :=
  .ite (.modUnit s u) (keepsTrust_hbmWrite s _ _)

/-- A write for no task: an engine's, or the dispatcher's. -/
theorem keepsTrust_writePhys {s t : State} {u : Nat} {keep : Bool} {x : Phys} {va : Word} {l : List Byte}
    (h : s.writePhys u none keep x va l = .ok t) : KeepsTrust s t := by
  cases x with
  | hbm pa sl =>
    cases sl with
    | false =>
      cases h
      exact (keepsTrust_keepSnap s u pa _).trans (keepsTrust_hbmStore _ pa l)
    | true => cases h
  | loft v o =>
    cases h
    exact keepsTrust_loftWrite s v o l
  | cxl pa =>
    simp only [State.writePhys] at h
    split at h
    · cases h
    · cases h
      exact .of_eq rfl rfl rfl rfl rfl rfl
  | host pa =>
    cases h
    exact .of_eq rfl rfl rfl rfl rfl rfl
  | mmio f o =>
    simp only [State.writePhys] at h
    split at h
    · cases h
    · cases h
      exact keepsTrust_mmioWrite s keep f o _
  | peer => cases h
  | shard => cases h

theorem keepsTrust_writeVA (s : State) (c : XCtx) (u : Nat) (va : Word) (l : List Byte) : KeepsTrust s (s.writeVA c u none va l).state := by
  unfold State.writeVA
  refine KeepsTrust.bind_foldl (fun p _ v => (keepsTrust_xlate v c _ _ _ _ _).bind fun y w => ?_) _ (.refl s)
  split
  · exact .refl w
  · next done => exact keepsTrust_writePhys done

/-! ### Plans and peers -/

theorem keepsTrust_failPlan (s : State) (p h sub : Nat) : KeepsTrust s (s.failPlan p h sub) := by
  unfold State.failPlan State.failPlanBut
  cases s.planAt p h with
  | none => exact .refl s
  | some x =>
    refine .ite (.refl s) (KeepsTrust.trans (KeepsTrust.foldl (fun u t => .ite (.refl u) ?_) _ s) (.of_eq rfl rfl rfl rfl rfl rfl))
    have wrote := keepsTrust_writeVA u x.xc x.uid (pdDst x.desc t)
      ((List.range (pdLen x.desc t * pdDstSize x.desc)).map fun i => Config.tileByte (u.fresh + t) i)
    dsimp only
    generalize u.writeVA x.xc x.uid none (pdDst x.desc t) _ = written at wrote ⊢
    cases written with
    | ok _ v => exact wrote
    | trap _ v => exact .refl u
    | wait _ v => exact .refl u

theorem keepsTrust_dropSends (s : State) (f : Nat → Nat → Nat → Bool) : KeepsTrust s (s.dropSends f) := by
  unfold State.dropSends
  split
  · exact .refl s
  · refine ⟨rfl, rfl, rfl, rfl, fun q => ?_, fun _ h => h⟩
    refine KMap.proj_get_map Partition.standing _ s.parts _ (fun t => ?_) q
    refine Prod.ext rfl ?_
    show (t.2.passes.map _).map Pass.standing = _
    rw [List.map_map]
    rfl

theorem keepsTrust_storeFailed (s : State) (uid r tag code : Nat) (va : Word) (peer : Nat) : KeepsTrust s (s.storeFailed uid r tag code va peer) := by
  refine .modUnit s uid (fun _ => rfl) fun x q => ?_
  refine proj_modReeve Reeve.stores x r ?_ q
  exact fun _ => rfl

/-- R70, R71: what was outstanding to the peers of `f` has completed. -/
theorem keepsTrust_failPeers (s : State) (f : Nat → Nat → Bool) : KeepsTrust s (s.failPeers f) ∧ NoStoreTo f (s.failPeers f) := by
  have failed (l : List (Nat × Nat × RemoteStore)) (u : State) :
      KeepsTrust u (l.foldl (fun s x => s.storeFailed x.1 x.2.1 x.2.2.tag cMCHK x.2.2.addr x.2.2.peer) u) :=
    KeepsTrust.foldl (fun u _ => keepsTrust_storeFailed u _ _ _ _ _ _) l u
  have plans (u : State) (l : List Plan) : KeepsTrust u (l.foldl (fun s p => s.failPlan p.part p.handle plABSENT) u) :=
    KeepsTrust.foldl (fun u _ => keepsTrust_failPlan u _ _ _) l u
  -- the state in which the fetches, requests and stores of those peers have completed
  have completes (u : State) (fills : List FcFill) (g : Nat × Unit → Pending → Pending) (out : List ShardOut) :
      let v : State := { u with
        fills := fills
        units := u.units.map (fun x => (x.1, { x.2 with
          replies := x.2.replies.map (g x)
          reeves := x.2.reeves.map (fun r => (r.1, { r.2 with stores := r.2.stores.filter (fun t => !f x.2.part t.peer) })) }))
        shardOut := out }
      KeepsTrust u v ∧ NoStoreTo f v := by
    intro v
    have store {e : Nat × Unit} (he : e ∈ v.units) : ∃ x ∈ u.units, e.2.part = x.2.part ∧
        ∀ r, (e.2.reeveOf r).stores = (x.2.reeveOf r).stores.filter (fun t => !f x.2.part t.peer) := by
      obtain ⟨x, hx, rfl⟩ := List.mem_map.1 he
      refine ⟨x, hx, rfl, fun r => ?_⟩
      exact congrArg Reeve.stores (KMap.get_map Reeve.reset x.2.reeves (fun y => { y with stores := y.stores.filter (fun t => !f x.2.part t.peer) }) rfl r)
    refine ⟨⟨rfl, rfl, rfl, rfl, fun _ => rfl, fun bad none e he r w hw => ?_⟩, fun e he r w hw => ?_⟩
    · obtain ⟨x, hx, part, stores⟩ := store he
      rw [stores] at hw
      rw [part]
      exact none x hx r w (List.mem_of_mem_filter hw)
    · obtain ⟨x, hx, part, stores⟩ := store he
      rw [stores] at hw
      rw [part]
      simpa using List.of_mem_filter hw
  have before := (keepsTrust_dropSends s (fun p _ k => f p k)).trans (failed
    ((s.dropSends (fun p _ k => f p k)).units.flatMap (fun u => u.2.reeves.flatMap (fun r =>
      (r.2.stores.filter (fun t => f u.2.part t.peer)).map (fun t => (u.1, r.1, t))))) _)
  obtain ⟨kept, none⟩ := completes _ _ _ _
  exact ⟨(before.trans kept).trans (plans _ _), (plans _ _).stores f none⟩

end Sys2Proof.Machine
end

section
/-!
PROOFS. Revocation (R106, R130, R131): what a record asks, and what becomes of the enclave, its partitions and what waits for the revoked peers.
-/
namespace Sys2Proof.Machine
open Sys2Proof.Claims
set_option Elab.async false

/-! ### What a record asks (R130) -/

/-- Signatures that are accepted stand for participants in increasing index, none of them the victim or revoked. -/
theorem signedBy_of_signersOk {e : Enclave} {victim : Nat} {d : BitVec 384} (g : List (BitVec 768)) {lo : Nat} (h : signersOk e victim d g lo = true) :
    ∃ j, signedBy e d g j ∧ ∀ i ∈ j, lo ≤ i ∧ i ≠ victim ∧ i ∉ e.revoked := by
  induction g generalizing lo with
  | nil => exact ⟨[], ⟨rfl, .nil, fun _ h => (nomatch h)⟩, fun _ h => (nomatch h)⟩
  | cons g t ih =>
    rw [signersOk] at h
    split at h
    · next i found =>
      have ok := List.find?_some found
      simp only [Bool.and_eq_true, decide_eq_true_eq, bne_iff_ne, Bool.not_eq_true', ← Bool.not_eq_true, List.contains_iff_mem] at ok
      obtain ⟨⟨⟨above, other⟩, standing⟩, verified⟩ := ok
      obtain ⟨j, ⟨length, order, signed⟩, each⟩ := ih h
      refine ⟨i :: j, ⟨congrArg (· + 1) length, List.pairwise_cons.2 ⟨fun k hk => (each k hk).1, order⟩, fun k hk => ?_⟩, fun k hk => ?_⟩
      · cases k with
        | zero => exact ⟨List.mem_range.1 (List.mem_of_find?_eq_some found), verified⟩
        | succ k => exact signed k (Nat.lt_of_succ_lt_succ hk)
      · obtain rfl | hk := List.mem_cons.1 hk
        · exact ⟨above, other, standing⟩
        · obtain ⟨later, rest⟩ := each k hk
          exact ⟨by omega, rest⟩
    · cases h

theorem revocationOk_fields {e : Enclave} {b : List Byte} (h : revocationOk e b = true) :
    fieldOf b 8 8 = e.epoch + 1 ∧ fieldOf b 4 4 = 0 ∧ fieldOf b 3 1 = e.quorum ∧ b.length = 16 + 96 * fieldOf b 3 1 ∧ fieldOf b 2 1 < e.points.length ∧
    fieldOf b 2 1 ∉ e.revoked ∧ ∃ j, signedBy e (sha384 (b.take 16))
      ((List.range (fieldOf b 3 1)).map (fun k => BitVec.ofNat 768 (fieldOf b (16 + 96 * k) 96))) j ∧ ∀ i ∈ j, i ≠ fieldOf b 2 1 ∧ i ∉ e.revoked := by
  simp only [revocationOk, Bool.and_eq_true, beq_iff_eq, decide_eq_true_eq, Bool.not_eq_true', rfld_eq, ← Bool.not_eq_true, List.contains_iff_mem] at h
  obtain ⟨⟨⟨⟨⟨⟨epoch, zero⟩, quorum⟩, length⟩, victim⟩, standing⟩, signers⟩ := h
  obtain ⟨j, signed, each⟩ := signedBy_of_signersOk _ signers
  exact ⟨epoch, zero, quorum, length, victim, standing, j, signed, fun i hi => (each i hi).2⟩

/-! ### The partitions of the victim (R131, R106) -/

/-- A partition that is revoked. -/
def Partition.withdrawn (x : Partition) : Partition := { x with st := .revoked, held := [] }
/-- From `s` to `t` partition `p` was revoked, and its open passes are FAULTED. -/
structure Withdrawn (p : Nat) (s t : State) : Prop where
  st : (t.partOf p).st = .revoked
  held : (t.partOf p).held = []
  passes : ((s.partOf p).passes.map (fun y => y.seq)).Nodup → ∀ x ∈ (s.partOf p).passes, ¬passOver x →
    t.passAt p x.seq = some { x with st := .faulted, reason := 0, cause := 0x0E }

theorem passesEnd_revokePart (s : State) (p : Nat) : PassesEnd p (s.modPart p Partition.withdrawn) (s.revokePart p) :=
  PassesEnd.foldl (fun s (x : Pass) => passesEnd_endPass s p x.seq .faulted 0 cREVOKED) _ _

theorem withdrawn_revokePart (s : State) (p : Nat) : Withdrawn p s (s.revokePart p) := by
  have ends := (passesEnd_revokePart s p).own
  rw [State.partOf_modPart_self] at ends
  refine ⟨by rw [ends]; rfl, by rw [ends]; rfl, fun seqs x hx opened => ?_⟩
  have passes : ((s.modPart p Partition.withdrawn).partOf p).passes = (s.partOf p).passes := by
    rw [State.partOf_modPart_self]
    rfl
  have before : (s.modPart p Partition.withdrawn).passAt p x.seq = some x := by
    rw [State.passAt, passes]
    exact passAt_of_mem seqs hx
  have opened' : ¬x.st.over = true := mt (over_iff x).1 opened
  have listed : x.seq ∈ (((s.modPart p Partition.withdrawn).partOf p).passes.filter (fun x => !x.st.over)).map Pass.seq :=
    List.mem_map_of_mem (List.mem_filter.2 ⟨by rw [passes]; exact hx, by simpa using opened'⟩)
  refine (passAt_foldl_endPass p .faulted 0 cREVOKED _ _ x.seq rfl).trans ((if_pos listed).trans ((congrArg (Option.map _) before).trans ?_))
  rw [Option.map_some, Pass.ended, if_neg opened']
  rfl

/-- From `s` to `t` passes of several partitions ended, and partitions changed state. -/
structure Withdraws (l : List Nat) (s t : State) : Prop where
  frame : t = { s with
    units := t.units, cores := t.cores, parts := t.parts, hbm := t.hbm, hbmPoison := t.hbmPoison, telemetry := t.telemetry, fresh := t.fresh
    plans := t.plans, keys := t.keys, ports := t.ports }
  zeros : ∀ k, KMap.get 0 s.keys k = 0 → KMap.get 0 t.keys k = 0
  members : ∀ q ∈ l, Withdrawn q s t
  others : ∀ q, q ∉ l → t.partOf q = { s.partOf q with faults := (t.partOf q).faults }

theorem withdraws_foldl (l : List Nat) (once : l.Nodup) (s : State) : Withdraws l s (l.foldl (fun s p => s.revokePart p) s) := by
  induction l generalizing s with
  | nil => exact ⟨rfl, fun _ h => h, fun _ h => (nomatch h), fun _ _ => rfl⟩
  | cons p l ih =>
    obtain ⟨new, once'⟩ := List.nodup_cons.1 once
    have ends := passesEnd_revokePart s p
    have others (q : Nat) (ne : q ≠ p) : (s.revokePart p).partOf q = { s.partOf q with faults := ((s.revokePart p).partOf q).faults } := by
      rw [ends.others q ne, State.partOf_modPart_ne _ _ ne]
    obtain ⟨frame, zeros, members, rest⟩ := ih once' (s.revokePart p)
    rw [List.foldl_cons]
    refine ⟨?_, fun k zero => zeros k (ends.zeros k zero), fun q hq => ?_, fun q hq => ?_⟩
    · rw [frame, ends.frame]
      rfl
    · obtain rfl | hq := List.mem_cons.1 hq
      · obtain ⟨st, held, passes⟩ := withdrawn_revokePart s q
        have same := rest q new
        refine ⟨by rw [same]; exact st, by rw [same]; exact held, fun seqs x hx opened => ?_⟩
        rw [State.passAt, same]
        exact passes seqs x hx opened
      · have before := others q fun same => new (same ▸ hq)
        obtain ⟨st, held, passes⟩ := members q hq
        refine ⟨st, held, fun seqs x hx opened => ?_⟩
        refine passes ?_ x ?_ opened
        · rw [before]
          exact seqs
        · rw [before]
          exact hx
    · rw [rest q fun h => hq (.tail p h), others q fun same => hq (same ▸ .head l)]

/-! ### The keys of the enclave (R131) -/

theorem zeroEnclave_facts (s : State) (e : Enclave) (parts : List Nat) :
    s.zeroEnclave e parts = { s with
      enclaves := s.enclaves.map (fun x => if x.id == e.id then { x with key := 0 } else x), keys := (s.zeroEnclave e parts).keys
      ports := (s.zeroEnclave e parts).ports } ∧
    (e.slot ≠ 0 → KMap.get 0 (s.zeroEnclave e parts).keys e.slot = 0) := by
  let s1 : State := { s with enclaves := s.enclaves.map (fun x => if x.id == e.id then { x with key := 0 } else x) }
  have slot : OnlyKeys s1 (s1.zeroise e.slot) := onlyKeys_zeroise s1 e.slot
  have plans : OnlyKeys (s1.zeroise e.slot) (s.zeroEnclave e parts) := onlyKeys_foldl (fun s (q : Plan) => onlyKeys_zeroise s q.keySlot) _ _
  refine ⟨?_, fun used => ?_⟩
  · unfold OnlyKeys at slot plans
    rw [plans, slot]
  · refine keys_foldl_zeroise Plan.keySlot _ _ _ (.inl ?_)
    rw [get_zeroise_keys, if_pos ⟨rfl, used⟩]

/-! ### The revocation is applied (R131, R93) -/

/-- The partitions here that belong to an enclave. -/
theorem mem_memberParts {s : State} {e : Enclave} {q : Nat} :
    q ∈ s.memberParts e ↔ (∃ m ∈ membersHere s e.members, memberPart m = q) ∧ (s.partOf q).enclave = e.id := by
  simp only [State.memberParts, List.mem_filter, List.mem_eraseDups, List.mem_map, ownMembers_eq, mePart_eq_memberPart, beq_iff_eq]

theorem victimHere_iff {s : State} {e : Enclave} {v : Nat} :
    (s.ownMembers e.members).any (fun m => mePt m == v) = true ↔ ∃ m ∈ membersHere s e.members, participant m = v := by
  simp only [List.any_eq_true, ownMembers_eq, mePt_eq, beq_iff_eq]

/-- The enclave with its participant `v` revoked. -/
def State.struck (s : State) (e : Enclave) (v epoch : Nat) : State :=
  { s with enclaves := s.enclaves.map (fun x => if x.id == e.id then { x with epoch := epoch, revoked := v :: x.revoked } else x) }
/-- Does a member entry place participant `v` in package `k`? -/
def Enclave.places (e : Enclave) (v k : Nat) : Bool := e.members.any (fun m => mePeer m == k && mePt m == v)

theorem places_iff {e : Enclave} {v k : Nat} : e.places v k = true ↔ ∃ m ∈ e.members, m.toNat % 2 ^ 12 = k ∧ participant m = v := by
  simp only [Enclave.places, List.any_eq_true, Bool.and_eq_true, beq_iff_eq, mePeer_eq, mePt_eq]

section
variable {s : State} {e : Enclave} {v epoch : Nat}

theorem applyRevocation_mine (mine : ∃ m ∈ membersHere s e.members, participant m = v) : s.applyRevocation e v epoch =
    (s.memberParts e).foldl (fun s p => s.revokePart p) ((s.struck e v epoch).zeroEnclave e (s.memberParts e)) := if_pos (victimHere_iff.2 mine)
theorem applyRevocation_peers (not : ¬∃ m ∈ membersHere s e.members, participant m = v) : s.applyRevocation e v epoch =
    ((s.struck e v epoch).failPeers (fun p k => (s.memberParts e).contains p && e.places v k)).failPlansOf (s.memberParts e) (e.places v) :=
  if_neg (mt victimHere_iff.1 not)

theorem withdraws_applyRevocation (mine : ∃ m ∈ membersHere s e.members, participant m = v) :
    Withdraws (s.memberParts e) ((s.struck e v epoch).zeroEnclave e (s.memberParts e)) (s.applyRevocation e v epoch) := by
  rw [applyRevocation_mine mine]
  exact withdraws_foldl _ ((nodup_eraseDups _).filter _) _

theorem keepsTrust_applyRevocation (not : ¬∃ m ∈ membersHere s e.members, participant m = v) :
    KeepsTrust (s.struck e v epoch) (s.applyRevocation e v epoch) ∧ (s.applyRevocation e v epoch).sent = s.sent ∧
    NoStoreTo (fun p k => (s.memberParts e).contains p && e.places v k) (s.applyRevocation e v epoch) := by
  obtain ⟨peers, none⟩ := keepsTrust_failPeers (s.struck e v epoch) (fun p k => (s.memberParts e).contains p && e.places v k)
  have plans (u : State) : KeepsTrust u (u.failPlansOf (s.memberParts e) (e.places v)) := KeepsTrust.foldl (fun u _ => keepsTrust_failPlan u _ _ _) _ u
  have links (u : State) : KeepsLinks u (u.failPlansOf (s.memberParts e) (e.places v)) := KeepsLinks.foldl (fun u _ => keepsLinks_failPlan u _ _ _) _ u
  rw [applyRevocation_peers not]
  exact ⟨peers.trans (plans _), ((keepsLinks_failPeers _ _).trans (links _)).sent, (plans _).stores _ none⟩

/-- The sessions stay as they are, and nothing is said. -/
theorem sessions_applyRevocation : (s.applyRevocation e v epoch).sessions = s.sessions ∧ (s.applyRevocation e v epoch).sessionSeq = s.sessionSeq ∧
    (s.applyRevocation e v epoch).sent = s.sent := by
  by_cases mine : ∃ m ∈ membersHere s e.members, participant m = v
  · rw [(withdraws_applyRevocation mine).frame, (zeroEnclave_facts _ e (s.memberParts e)).1]
    exact ⟨rfl, rfl, rfl⟩
  · obtain ⟨trust, sent, -⟩ := keepsTrust_applyRevocation (epoch := epoch) mine
    exact ⟨trust.sessions, trust.sessionSeq, sent⟩

open Classical in
/-- R130: the record's epoch and victim stand in the enclave, and its key is gone where the victim is here. -/
theorem enclaves_applyRevocation : (s.applyRevocation e v epoch).enclaves = s.enclaves.map (fun x =>
    if x.id = e.id then
      { x with epoch := epoch, revoked := v :: x.revoked, key := if ∃ m ∈ membersHere s e.members, participant m = v then 0 else x.key }
    else x) := by
  by_cases mine : ∃ m ∈ membersHere s e.members, participant m = v
  · rw [(withdraws_applyRevocation mine).frame, (zeroEnclave_facts _ e (s.memberParts e)).1]
    show (s.enclaves.map _).map _ = _
    rw [List.map_map]
    refine List.map_congr_left fun x _ => ?_
    by_cases here : x.id = e.id <;> simp [here, mine]
  · rw [(keepsTrust_applyRevocation (epoch := epoch) mine).1.enclaves]
    refine List.map_congr_left fun x _ => ?_
    by_cases here : x.id = e.id
    · rw [if_pos (beq_iff_eq.2 here), if_pos here, if_neg mine]
    · rw [if_neg (mt beq_iff_eq.1 here), if_neg here]
end

end Sys2Proof.Machine
end

section
/-!
PROOFS. REVOCATION_RECORD (R130, R131), and the statement on the security controller (R106, R123-R131).
-/
namespace Sys2Proof.Machine
open Sys2Proof.Claims
set_option Elab.async false

/-- Where a revocation record came from: the host in its session, or a member's controller. -/
def Came (s : State) (e : Enclave) (p : Nat) : Option Nat → Prop
  | none => KMap.get 0 s.sessions (4096 + p) ≠ 0
  | some k => ∃ m ∈ e.members, m.toNat % 2 ^ 12 = k
/-- The other members' controllers. -/
def State.otherPeers (s : State) (e : Enclave) : List Nat := ((e.members.map mePeer).filter (fun k => s.peer != some k)).eraseDups
/-- The record was forwarded to them. -/
def State.forwarded (s : State) (e : Enclave) (b : List Byte) : State := (s.otherPeers e).foldl (fun s k => s.sendCtl k (.revocation k b)) s

theorem mem_otherPeers {s : State} {e : Enclave} {k : Nat} : k ∈ s.otherPeers e ↔ (∃ m ∈ e.members, m.toNat % 2 ^ 12 = k) ∧ s.peer ≠ some k := by
  simp only [State.otherPeers, List.mem_eraseDups, List.mem_filter, List.mem_map, mePeer_eq, bne_iff_ne]

theorem spoke_forwarded (s : State) (e : Enclave) (b : List Byte) : Spoke s (s.forwarded e b) :=
  Spoke.foldl (fun s k => (spoke_sendCtl s k (.revocation k b)).1) _ s

theorem mem_foldl_sendCtl (b : List Byte) (l : List Nat) (s : State) {k : Nat} (hk : k ∈ l) :
    Msg.revocation k b ∈ (l.foldl (fun s k => s.sendCtl k (.revocation k b)) s).sent := by
  induction l generalizing s with
  | nil => cases hk
  | cons j l ih =>
    obtain rfl | hk := List.mem_cons.1 hk
    · exact (Spoke.foldl (fun s k => (spoke_sendCtl s k (.revocation k b)).1) l _).mem (spoke_sendCtl s k _).2
    · exact ih _ hk

theorem sessionSeq_forwarded (s : State) (e : Enclave) (b : List Byte) : (s.forwarded e b).sessionSeq = s.sessionSeq := by
  refine List.foldlRecOn (motive := fun t : State => t.sessionSeq = s.sessionSeq) _ _ rfl fun t before k _ => ?_
  obtain ⟨frame, -⟩ := sends_sendOn t (.revocation k b) k 3 0 (.request 0 0) []
  rw [State.sendCtl, frame]
  exact before

section
variable {s : State} {p : Nat} {b : List Byte}

section
variable (none' : s.enclaves.find? (fun e => e.id == fieldOf b 0 2) = none)
include none'

theorem exec_revocationRecord_unknown : exec (.revocationRecord ⟨p, none, b⟩) s = .next (s.answer (4096 + p) (.enclaveAnswer false) [0]) := by
  change execRevocationRecord _ s = _
  unfold execRevocationRecord
  dsimp only
  rw [rfld_eq, none']
  rfl

theorem exec_revocationRecord_unknown_forwarded (k : Nat) : exec (.revocationRecord ⟨p, some k, b⟩) s = .next s := by
  change execRevocationRecord _ s = _
  unfold execRevocationRecord
  dsimp only
  rw [rfld_eq, none']
  rfl
end

variable {e : Enclave} (found : s.enclaves.find? (fun e => e.id == fieldOf b 0 2) = some e)
include found

theorem exec_revocationRecord_host : exec (.revocationRecord ⟨p, none, b⟩) s =
    if KMap.get 0 s.sessions (4096 + p) = 0 ∨ revocationOk e b = false then .next (s.answer (4096 + p) (.enclaveAnswer false) [0])
    else .next (((s.forwarded e b).applyRevocation e (fieldOf b 2 1) (fieldOf b 8 8)).answer (4096 + p) (.enclaveAnswer true) [1]) := by
  change execRevocationRecord _ s = _
  unfold execRevocationRecord
  dsimp only
  rw [rfld_eq, found]
  dsimp only
  rw [rfld_eq, rfld_eq]
  refine ite_congr (propext ?_) (fun _ => rfl) fun _ => rfl
  rw [Bool.or_eq_true, Bool.not_eq_true', Bool.not_eq_true', bne_eq_false_iff_eq, hostSession_eq]

theorem exec_revocationRecord_peer (k : Nat) : exec (.revocationRecord ⟨p, some k, b⟩) s =
    if (¬∃ m ∈ e.members, m.toNat % 2 ^ 12 = k) ∨ revocationOk e b = false then .next s
    else .next ((s.applyRevocation e (fieldOf b 2 1) (fieldOf b 8 8)).sendCtl k (.revocationAck k)) := by
  change execRevocationRecord _ s = _
  unfold execRevocationRecord
  dsimp only
  rw [rfld_eq, found]
  dsimp only
  rw [rfld_eq, rfld_eq]
  refine ite_congr (propext ?_) (fun _ => rfl) fun _ => rfl
  rw [Bool.or_eq_true, Bool.not_eq_true', Bool.not_eq_true', ← Bool.not_eq_true]
  simp only [List.any_eq_true, beq_iff_eq, mePeer_eq]

theorem exec_revocationRecord_refused (via : Option Nat) (bad : revocationOk e b = false ∨ ¬Came s e p via) :
    (via ≠ none → exec (.revocationRecord ⟨p, via, b⟩) s = .next s) ∧
    (via = none → ∃ t, exec (.revocationRecord ⟨p, via, b⟩) s = .next t ∧ tells s t (4096 + p) (.enclaveAnswer false) [0]) := by
  cases via with
  | none =>
    have closed : KMap.get 0 s.sessions (4096 + p) = 0 ∨ revocationOk e b = false := bad.symm.imp not_not.1 id
    refine ⟨fun h => absurd rfl h, fun _ => ⟨_, ?_, tells_answer s (4096 + p) (.enclaveAnswer false) [0]⟩⟩
    rw [exec_revocationRecord_host found, if_pos closed]
  | some k =>
    refine ⟨fun _ => ?_, fun h => (nomatch h)⟩
    rw [exec_revocationRecord_peer found, if_pos (show (¬∃ m ∈ e.members, m.toNat % 2 ^ 12 = k) ∨ revocationOk e b = false from bad.symm)]

/-- A record that is accepted is applied in a state that the controller has spoken in, which then says so. -/
theorem exec_revocationRecord_applies (via : Option Nat) (ok : revocationOk e b = true) (came : Came s e p via) :
    ∃ u t, exec (.revocationRecord ⟨p, via, b⟩) s = .next t ∧ Spoke s u ∧ Spoke (u.applyRevocation e (fieldOf b 2 1) (fieldOf b 8 8)) t ∧
      (via = none → (∀ k, (∃ m ∈ e.members, m.toNat % 2 ^ 12 = k) → s.peer ≠ some k → Msg.revocation k b ∈ t.sent) ∧
        securedTo s (4096 + p) [1] ∈ t.sent) ∧
      ∀ k, via = some k → Msg.revocationAck k ∈ t.sent := by
  cases via with
  | none =>
    have open' : ¬(KMap.get 0 s.sessions (4096 + p) = 0 ∨ revocationOk e b = false) := by
      rw [ok]
      exact fun h => h.elim came Bool.noConfusion
    have run := exec_revocationRecord_host (p := p) found
    rw [if_neg open'] at run
    have spoke := spoke_forwarded s e b
    obtain ⟨sessions, seq, sent⟩ := sessions_applyRevocation (s := s.forwarded e b) (e := e) (v := fieldOf b 2 1) (epoch := fieldOf b 8 8)
    generalize applied : (s.forwarded e b).applyRevocation e (fieldOf b 2 1) (fieldOf b 8 8) = a at run sessions seq sent
    have session : KMap.get 0 a.sessions (4096 + p) ≠ 0 := by rw [sessions, spoke.sessions]; exact came
    have said := spoke_answer a (4096 + p) (.enclaveAnswer true) [1]
    refine ⟨s.forwarded e b, _, run, spoke, by rw [applied]; exact said, fun _ => ⟨fun k member other => ?_, ?_⟩, fun k h => (nomatch h)⟩
    · refine said.mem ?_
      rw [sent]
      exact mem_foldl_sendCtl b _ s (mem_otherPeers.2 ⟨member, other⟩)
    · have same : securedTo a (4096 + p) [1] = securedTo s (4096 + p) [1] :=
        securedTo_congr (by rw [sessions, spoke.sessions]) (by rw [seq, sessionSeq_forwarded]) _
      rw [answer_host session, same]
      exact List.mem_append_right _ (List.mem_singleton_self _)
  | some k =>
    have open' : ¬((¬∃ m ∈ e.members, m.toNat % 2 ^ 12 = k) ∨ revocationOk e b = false) := by
      rw [ok]
      exact fun h => h.elim (fun not => not came) Bool.noConfusion
    have run := exec_revocationRecord_peer (p := p) found k
    rw [if_neg open'] at run
    obtain ⟨said, mem⟩ := spoke_sendCtl (s.applyRevocation e (fieldOf b 2 1) (fieldOf b 8 8)) k (.revocationAck k)
    refine ⟨s, _, run, .refl s, said, fun h => (nomatch h), fun j same => ?_⟩
    rw [← Option.some.inj same]
    exact mem
end

end Sys2Proof.Machine
end

section
/-!
PROOFS. The statement on the security controller, record by record (R106, R123-R131).
-/
namespace Sys2Proof.Machine
open Sys2Proof.Claims
set_option Elab.async false

/-- R127: where every check passes the enclave forms, its members here join and the controllers are told. -/
theorem enclaveRecord_forms {s : State} {p : Nat} {b : List Byte} {blocks : List (Nat × List (BitVec 384))} {key : BitVec 256}
    (session : KMap.get 0 s.sessions (4096 + p) ≠ 0) (ok : s.enclaveOk b = true) (agree : Agreed s b blocks key) :
    let first := s.peer = some (((memberEntries b).headD 0).toNat % 2 ^ 12)
    ∃ t k, exec (.enclaveRecord p b ⟨blocks, key⟩) s = .next t ∧
      (first → k = Config.freshKey s.fresh ∧ ∀ j, (s.peer ≠ some j ∧ ∃ m ∈ memberEntries b, m.toNat % 2 ^ 12 = j) →
        securedTo s j ((List.range 32).map (byteOf k.toNat)) ∈ t.sent) ∧
      (¬first → k = key) ∧
      (∃ l, t.enclaves = l ++ [formed b k] ∧ ∀ x ∈ l, x ∈ s.enclaves ∧ x.id ≠ fieldOf b 0 2) ∧
      (∀ j, KMap.get 0 t.keys j = if j = fieldOf b 4 1 then k else KMap.get 0 s.keys j) ∧
      (∀ q, t.partOf q = if ∃ m ∈ membersHere s (memberEntries b), memberPart m = q then { s.partOf q with enclave := fieldOf b 0 2 } else s.partOf q) ∧
      ∃ l, t.sent = s.sent ++ l ++ [securedTo s (4096 + p) [1]] := by
  obtain ⟨form, -, here, -⟩ := enclaveOk_fields ok
  obtain ⟨-, -, -, id, -⟩ := erForm_fields form
  intro first
  by_cases f : s.peer = some (((memberEntries b).headD 0).toNat % 2 ^ 12)
  · have spoke : Spoke { s with fresh := s.fresh + 1 } (s.toldOthers b) :=
      Spoke.foldl (fun (u : State) j => (spoke_sendSecured u j _).1) _ _
    have fresh : (s.toldOthers b).fresh = s.fresh + 1 := by rw [spoke.frame]
    obtain ⟨told, seq⟩ := foldl_sendSecured (leBytes 32 (Config.freshKey s.fresh).toNat) (s.erOthers b) (nodup_erOthers s b) { s with fresh := s.fresh + 1 }
    have host : 4096 + p ∉ s.erOthers b := fun mem => by
      obtain ⟨-, m, -, at'⟩ := mem_erOthers.1 mem
      have := Nat.mod_lt m.toNat (show 0 < 2 ^ 12 by decide)
      omega
    obtain ⟨enclaves, keys, parts, sent, mem⟩ := formed_answer (s := s) (u := s.toldOthers b) (p := p) (b := b) (key := Config.freshKey s.fresh)
      (by rw [fresh]; exact spoke) (seq _ host) session here id
    refine ⟨_, Config.freshKey s.fresh, exec_enclaveRecord_first session ok agree f, fun _ => ⟨rfl, fun j other => mem _ ?_⟩, fun n => absurd f n,
      enclaves, keys, parts, sent⟩
    rw [← leBytes_eq]
    exact told j (mem_erOthers.2 other)
  · obtain ⟨enclaves, keys, parts, sent, -⟩ := formed_answer (s := s) (u := s) (p := p) (b := b) (key := key) (.refl s) rfl session here id
    exact ⟨_, key, exec_enclaveRecord_later session ok agree f, fun y => absurd y f, fun _ => rfl, enclaves, keys, parts, sent⟩

/-- R131: what an accepted record leaves of the enclaves, whoever delivered it. -/
theorem revoked_enclaves {s t : State} {e : Enclave} {v epoch : Nat} {mine : Prop} [Decidable mine] (h : t.enclaves = s.enclaves.map (fun x =>
      if x.id = e.id then { x with epoch := epoch, revoked := v :: x.revoked, key := if mine then 0 else x.key } else x)) :
    t.enclaves.length = s.enclaves.length ∧ ∀ (i : Nat) (x : Enclave), s.enclaves[i]? = some x → ∃ y : Enclave, t.enclaves[i]? = some y ∧
      (x.id ≠ e.id → y = x) ∧
      (x.id = e.id → (mine → y = { x with epoch := epoch, revoked := v :: x.revoked, key := 0 }) ∧
        (¬mine → y = { x with epoch := epoch, revoked := v :: x.revoked })) := by
  rw [h, List.length_map]
  refine ⟨rfl, fun i x at' => ⟨_, by rw [List.getElem?_map, at', Option.map_some], fun other => if_neg other, fun same => ?_⟩⟩
  rw [if_pos same]
  exact ⟨fun here => by rw [if_pos here], fun not => by rw [if_neg not]⟩

/-- Settles O60: measurements and sessions by the one message that answers, enclave records by the checks of R127 and the members that join,
revocations by the partitions that are withdrawn or the peers that are cut off. -/
theorem securityControllerRecords : Obligations.SecurityControllerRecords := by
  intro s
  refine ⟨fun k i listed => ⟨_, exec_getMeasurements listed s k, tells_answer _ _ _ _⟩, fun k i other => exec_getMeasurements_other other s k, fun k q => ?_,
    fun p b blocks key => ⟨fun bad => ?_, fun attests k other => attests_policy attests other, fun ok => ?_, fun session ok agree => ?_⟩,
    fun p b k none => ?_, fun p via b e found => ⟨exec_revocationRecord_refused found via, revocationOk_fields, fun ok came => ?_⟩⟩
  · -- SECURE_SESSION
    obtain ⟨t, run, said⟩ := exec_secureSession s k q
    obtain ⟨frame, sent⟩ := said
    refine ⟨t, run, ⟨?_, sent⟩, ?_, ?_, fun j ne => ?_⟩
    · rw [frame]
    · rw [frame]
      exact KMap.get_set_self _ _ _ _
    · rw [frame]
      exact KMap.get_set_self _ _ _ _
    · rw [frame]
      exact KMap.get_set_ne _ _ _ ne
  · exact ⟨_, exec_enclaveRecord_refused bad, tells_answer _ _ _ _⟩
  · -- what the checks of R127 ask
    obtain ⟨form, signed, here, slot⟩ := enclaveOk_fields ok
    obtain ⟨length, few, most, id, epoch, low, high⟩ := erForm_fields form
    refine ⟨by rw [length, erLen_eq], few, most, id, epoch, here, slot, low, high, fun j hj => ?_, fun m hm => enclaveOk_member ok hm⟩
    have each := erSigned_each signed hj
    rw [erLen_eq] at each
    exact each
  · -- the enclave forms
    obtain ⟨t, k, run, told, later, ⟨l, enclaves, old⟩, keys, parts, sent⟩ := enclaveRecord_forms session ok agree
    have idEq : (formed b k).id = fieldOf b 0 2 := rfld_eq b 0 2
    have slotEq : (formed b k).slot = fieldOf b 4 1 := rfld_eq b 4 1
    refine ⟨t, formed b k, l, run, enclaves, fun x hx => ?_, idEq, slotEq, rfl, rfld_eq b 5 1, erMembers_eq b, erPoints_eq b, rfl, told, later, ?_,
      fun j ne => ?_, fun q => ?_, sent⟩
    · rw [idEq]
      exact old x hx
    · rw [keys, slotEq]
      exact if_pos rfl
    · rw [slotEq] at ne
      rw [keys, if_neg ne]
    · rw [parts, idEq]
      rfl
  · -- a revocation for no enclave here
    have none' : s.enclaves.find? (fun e => e.id == fieldOf b 0 2) = .none :=
      List.find?_eq_none.2 fun e he => by rw [beq_iff_eq]; exact none e he
    exact ⟨⟨_, exec_revocationRecord_unknown none', tells_answer _ _ _ _⟩, exec_revocationRecord_unknown_forwarded none' k⟩
  · -- a revocation that is accepted
    have came' : Came s e p via := by cases via <;> exact came
    obtain ⟨u, t, run, before, after, host, peer⟩ := exec_revocationRecord_applies found via ok came'
    have here : membersHere u e.members = membersHere s e.members := by
      rw [before.frame]
      rfl
    have partOf (q : Nat) : u.partOf q = s.partOf q := by rw [before.frame]; rfl
    have partOf' (q : Nat) : t.partOf q = (u.applyRevocation e (fieldOf b 2 1) (fieldOf b 8 8)).partOf q := by rw [after.frame]; rfl
    have members (q : Nat) : q ∈ u.memberParts e ↔ (∃ m ∈ membersHere s e.members, memberPart m = q) ∧ (s.partOf q).enclave = e.id := by
      rw [mem_memberParts, here, partOf]
    have enclaves := enclaves_applyRevocation (s := u) (e := e) (v := fieldOf b 2 1) (epoch := fieldOf b 8 8)
    refine ⟨t, run, ?_, host, peer, fun mine => ?_, fun other => ?_⟩
    · classical
      refine revoked_enclaves ?_
      rw [after.frame]
      refine enclaves.trans ?_
      rw [before.frame]
      rfl
    · rw [← here] at mine
      have withdraws := withdraws_applyRevocation (epoch := fieldOf b 8 8) mine
      obtain ⟨frame, slot⟩ := zeroEnclave_facts (u.struck e (fieldOf b 2 1) (fieldOf b 8 8)) e (u.memberParts e)
      have start (q : Nat) : ((u.struck e (fieldOf b 2 1) (fieldOf b 8 8)).zeroEnclave e (u.memberParts e)).partOf q = s.partOf q := by
        rw [frame, ← partOf]
        rfl
      refine ⟨fun used => ?_, fun m hm joined => ?_, fun q out => ?_⟩
      · rw [after.frame]
        exact withdraws.zeros _ (slot used)
      · obtain ⟨st, held, passes⟩ := withdraws.members _ ((members (memberPart m)).2 ⟨⟨m, hm, rfl⟩, joined⟩)
        rw [start] at passes
        rw [partOf']
        refine ⟨st, held, fun seqs x hx opened => ?_⟩
        rw [State.passAt, partOf']
        exact passes seqs x hx opened
      · have not : q ∉ u.memberParts e := fun mem => by
          obtain ⟨⟨m, hm, at'⟩, joined⟩ := (members q).1 mem
          exact (out m hm).elim (fun ne => ne at') fun ne => ne joined
        have kept := withdraws.others q not
        rw [start] at kept
        rw [partOf', kept]
    · have not : ¬∃ m ∈ membersHere u e.members, participant m = fieldOf b 2 1 := by
        rw [here]
        exact fun ⟨m, hm, is⟩ => other m hm is
      obtain ⟨trust, -, none⟩ := keepsTrust_applyRevocation (epoch := fieldOf b 8 8) not
      refine ⟨?_, fun q => ?_, fun v r x hx member joined w hw unreachable => ?_⟩
      · rw [after.frame]
        refine trust.keys.trans ?_
        show u.keys = s.keys
        rw [before.frame]
      · rw [partOf', ← partOf]
        exact ⟨congrArg Prod.fst (trust.standing q), congrArg Prod.snd (trust.standing q)⟩
      · rw [after.frame] at hx
        have clear := none (v, x) hx r w hw
        have mem : x.part ∈ u.memberParts e := (members x.part).2 ⟨member, joined⟩
        simp [mem, places_iff.2 unreachable] at clear

end Sys2Proof.Machine
end

section
/-!
PROOFS. Launches (R100-R104, R132, R133, R140): the windows, and what the check of a launch record, its image and its tables asks.
-/
namespace Sys2Proof.Machine
open Sys2Proof.Claims
set_option Elab.async false

/-! ### The windows (R100, R101) -/

/-- A partition that has taken a launch record. -/
def Partition.launched (rec : Desc) (t : Partition) : Partition :=
  { t with pcseq := t.pcseq + 1, passes := t.passes ++ [Pass.new (t.pcseq + 1) rec] }

section
variable {s : State} {p : Nat} (p8 : p < 8) (rec : Desc)
include p8

omit p8 in
theorem exec_launchDmwr_safe (safe : s.mgst = .safe) : exec (.launchDmwr p rec) s = .next (s.touched.send (.unsupported p)) :=
  if_pos (by simp [safe])

theorem exec_launchDmwr_awake (awake : s.mgst ≠ .safe) : exec (.launchDmwr p rec) s =
    if s.paused 0 then .next { s.touched with dmwrs := s.dmwrs ++ [(p, rec)] } else .next (s.touched.takeLaunch p rec) :=
  if_neg (by simpa using ⟨awake, p8⟩)

omit p8 in
theorem takeLaunch_refused (closed : (s.partOf p).st ≠ .active ∨ 256 ≤ (s.partOf p).openPasses) : s.takeLaunch p rec = s.send (.launchAnswer p false) := by
  refine if_pos ?_
  rw [Bool.or_eq_true, bne_iff_ne, decide_eq_true_eq]
  exact closed

omit p8 in
theorem takeLaunch_taken (active : (s.partOf p).st = .active) (room : (s.partOf p).openPasses < 256) : s.takeLaunch p rec =
    (s.modPart p (Partition.launched rec)).send (.launchAnswer p true) := by
  refine if_neg ?_
  rw [Bool.or_eq_true, bne_iff_ne, decide_eq_true_eq]
  exact fun h => h.elim (fun ne => ne active) (Nat.not_le.2 room)
end

/-! ### The record's own fields (R102, R103) -/

theorem lrSealed_iff (d : Desc) : lrSealed d = true ↔ dfld d 8 2 % 2 = 1 := by
  rw [lrSealed, lrFlags, Nat.testBit_zero, decide_eq_true_eq]

theorem testBit_two_iff (n : Nat) : n.testBit 2 = true ↔ n / 4 % 2 = 1 := by
  rw [Nat.testBit_eq_decide_div_mod_eq, decide_eq_true_eq]
theorem testBit_one_iff (n : Nat) : n.testBit 1 = true ↔ n / 2 % 2 = 1 := by
  rw [Nat.testBit_eq_decide_div_mod_eq, decide_eq_true_eq, Nat.pow_one]

theorem recordBroken_iff (d : Desc) (enclave : Nat) : (!recordOk d || decide (dfld d 28 2 ≠ enclave)) = true ↔ recordBroken d enclave := by
  simp only [recordOk, recordBroken, Bool.or_eq_true, Bool.not_eq_true', ← Bool.not_eq_true, Bool.and_eq_true, decide_eq_true_eq,
    beq_iff_eq, lrSealed_iff, List.mem_cons, List.not_mem_nil, or_false]
  unfold lrFlags lrPrio
  omega

theorem lrOr_eq (d h : Desc) (a b : Nat) : lrOr d h a b = either d h a b := by
  exact ite_not _ _ _

theorem lrWlog_eq (d h : Desc) : lrWlog d h = wlogOf d h := by
  have bit : (!lrSealed d) = true ↔ dfld d 8 2 % 2 = 0 := by
    rw [Bool.not_eq_true', ← Bool.not_eq_true, lrSealed_iff]
    omega
  rw [lrWlog, wlogOf]
  exact if_congr bit rfl (ite_not _ _ _)

/-! ### The image header (R17, R132, R133) -/

theorem imageGood_iff (d h : Desc) : headerOk h = true ∧ gridOk d h = true ↔ imageGood d h := by
  have form : (lrSealed d == (dfld h 2 1).testBit 0) = true ↔ (dfld d 8 2 % 2 = 1 ↔ dfld h 2 1 % 2 = 1) := by
    rw [beq_iff_eq, Bool.eq_iff_iff, lrSealed_iff, Nat.testBit_zero, decide_eq_true_eq]
  simp only [headerOk, gridOk, imageGood, Bool.and_eq_true, Bool.or_eq_true, decide_eq_true_eq,
    beq_iff_eq, form, lrWlog_eq, Bool.not_eq_true', ← Bool.not_eq_true, lrSealed_iff, bne_iff_ne, List.mem_cons, List.not_mem_nil, or_false]
  unfold lrX lrY lrS lrRv lrLanes imLoft
  simp only [lrOr_eq]
  constructor
  · rintro ⟨⟨⟨⟨⟨⟨⟨⟨⟨⟨⟨⟨⟨magic, kind⟩, r3⟩, r23⟩, r40⟩, a8⟩, a12⟩, decls⟩, streams⟩, page⟩, loft⟩, a32⟩, a36⟩,
      ⟨⟨⟨⟨⟨⟨⟨⟨⟨x1, x8⟩, y1⟩, y64⟩, xy⟩, s1⟩, s8⟩, rv⟩, lanes⟩, sealed⟩, wlog⟩
    exact ⟨magic, by omega, r3, r23, r40, a8, a12, decls, streams, page, loft, a32, a36, x1, x8, y1, y64, xy, s1, s8, rv, by omega, by omega⟩
  · rintro ⟨magic, kind, r3, r23, r40, a8, a12, decls, streams, page, loft, a32, a36, x1, x8, y1, y64, xy, s1, s8, rv, lanes, wlog⟩
    exact ⟨⟨⟨⟨⟨⟨⟨⟨⟨⟨⟨⟨⟨magic, by omega⟩, r3⟩, r23⟩, r40⟩, a8⟩, a12⟩, decls⟩, streams⟩, page⟩, loft⟩, a32⟩, a36⟩,
      ⟨⟨⟨⟨⟨⟨⟨⟨⟨x1, x8⟩, y1⟩, y64⟩, xy⟩, s1⟩, s8⟩, rv⟩, by omega⟩, by omega⟩, by omega⟩

/-! ### The tables (R132, R265) -/

theorem streamTab_eq (l : List Byte) (n : Nat) : streamTab l n = (List.range n).map (streamAt l) := by
  have entry (k : Nat) : (elemAt l 4 (2 * k), elemAt l 4 (2 * k + 1)) = streamAt l k := by
    rw [streamAt, elemAt, elemAt, show 4 * (2 * k) = 8 * k by omega, show 4 * (2 * k + 1) = 8 * k + 4 by omega]
  exact List.map_congr_left fun k _ => entry k

theorem mem_zip_range {α : Type} (n : Nat) (f : Nat → α) (x : Nat × α) :
    x ∈ (List.range ((List.range n).map f).length).zip ((List.range n).map f) ↔ x.1 < n ∧ x.2 = f x.1 := by
  rw [List.length_map, List.length_range, List.mem_iff_getElem]
  constructor
  · rintro ⟨i, hi, rfl⟩
    have low : i < n := by simpa using hi
    simp [low]
  · rintro ⟨low, same⟩
    refine ⟨x.1, by simpa using low, ?_⟩
    simp [← same]

theorem streamsOk_iff (loft n : Nat) (l : List Byte) : streamsOk loft (streamTab l n) = true ↔ streamsGood loft n l := by
  rw [streamTab_eq, streamsOk, Bool.and_eq_true, List.all_eq_true, List.all_eq_true]
  simp only [List.all_eq_true, mem_zip_range, List.mem_map, List.mem_range, Bool.and_eq_true, Bool.or_eq_true, beq_iff_eq, bne_iff_ne,
    decide_eq_true_eq]
  constructor
  · rintro ⟨each, apart⟩ k hk
    obtain ⟨⟨⟨line, some⟩, lines⟩, within⟩ := each _ ⟨k, hk, rfl⟩
    refine ⟨line, some, lines, within, fun j hj ne => ?_⟩
    have pair := apart (k, streamAt l k) ⟨hk, rfl⟩ (j, streamAt l j) ⟨hj, rfl⟩
    dsimp only at pair
    omega
  · intro good
    refine ⟨?_, fun x hx y hy => ?_⟩
    · rintro _ ⟨k, hk, rfl⟩
      obtain ⟨line, some, lines, within, -⟩ := good k hk
      exact ⟨⟨⟨line, some⟩, lines⟩, within⟩
    · obtain ⟨-, -, -, -, apart⟩ := good x.1 hx.1
      rw [hx.2, hy.2]
      by_cases same : x.1 = y.1
      · exact .inl (.inl same)
      · have pair := apart y.1 hy.1 (Ne.symm same)
        omega

theorem fld_declaration (l : List Byte) (k : Nat) : fld (toW (elemAt l 8 k)).toNat 0 8 = (l.getD (8 * k) 0).toNat := by
  have low : elemAt l 8 k % 256 = (l.getD (8 * k) 0).toNat := by
    have first : (l.drop (8 * k)).head?.getD 0 = l.getD (8 * k) 0 := by
      rw [List.head?_drop, List.getD_eq_getElem?_getD]
    rw [elemAt, ← first]
    cases l.drop (8 * k) with
    | nil => rfl
    | cons b t =>
      rw [List.take_succ_cons, leVal]
      have := b.isLt
      simp only [List.head?_cons, Option.getD_some]
      omega
  rw [fld_eq, Nat.pow_zero, Nat.div_one, toW, BitVec.toNat_ofNat, Nat.mod_mod_of_dvd _ (show 2 ^ 8 ∣ 2 ^ 64 by decide)]
  exact low

theorem declsOk_iff (n : Nat) (l : List Byte) : declsOk ((List.range n).map (fun k => toW (elemAt l 8 k))) = true ↔ declsGood n l := by
  have named : (((List.range n).map (fun k => toW (elemAt l 8 k))).map (fun w => fld w.toNat 0 8)).Nodup ↔
      ∀ k, k < n → ∀ j, j < k → l.getD (8 * j) 0 ≠ l.getD (8 * k) 0 := by
    rw [List.map_map, List.Nodup, List.pairwise_map, List.pairwise_iff_getElem]
    simp only [List.length_range, List.getElem_range, Function.comp, fld_declaration, ne_eq, ← BitVec.toNat_eq]
    exact ⟨fun h k hk j hj => h j k (by omega) hk hj, fun h i j _ hj lt => h j hj i lt⟩
  rw [declsOk, Bool.and_eq_true, decide_eq_true_eq, named, List.all_eq_true]
  simp only [List.mem_map, List.mem_range, Bool.and_eq_true, decide_eq_true_eq, forall_exists_index, and_imp]
  constructor
  · rintro ⟨each, distinct⟩ k hk
    obtain ⟨low, legal⟩ := each _ k hk rfl
    rw [fld_declaration] at low
    exact ⟨by omega, legal, distinct k hk⟩
  · intro good
    refine ⟨?_, fun k hk => (good k hk).2.2⟩
    rintro _ k hk rfl
    obtain ⟨low, legal, -⟩ := good k hk
    exact ⟨by rw [fld_declaration]; omega, legal⟩

/-- The need of a pass in the reserve (R140). -/
theorem reserveNeed_eq (d h : Desc) : reserveNeed (lrX d h) (lrY d h) (lrS d h) (lrRv d h) (imLoft h) (lrWlog d h) = reserveOf d h := by
  rw [reserveNeed, reserveOf, lrX, lrY, lrS, lrRv, lrOr_eq, lrOr_eq, lrOr_eq, lrOr_eq, lrWlog_eq, imLoft]

end Sys2Proof.Machine
end

section
/-!
PROOFS. The dispatcher's check of a launch (R103, R104, R140, R141): a bad pass ends BADREC, and a good one goes where its predecessors let it.
-/
namespace Sys2Proof.Machine
open Sys2Proof.Claims
set_option Elab.async false

theorem partsKept_passAt {s t : State} (h : partsKept s t) (p q : Nat) : t.passAt p q = s.passAt p q := by
  obtain ⟨d, same⟩ := h p
  rw [State.passAt, State.passAt, same]

/-! ### Where the predecessors let a pass go (R104) -/

/-- The predecessors of a pass that its partition holds. -/
def Partition.named (t : Partition) (x : Pass) : List Pass :=
  (lrPred x.lrec).filterMap (fun k => if k < x.seq then t.passes.find? (fun y => y.seq == x.seq - k) else none)

theorem resolve_eq (t : Partition) (x : Pass) : t.resolve x = if (t.named x).any (fun y => !y.st.over) then none
    else if (lrFlags x.lrec).testBit 2 || (t.named x).all (fun y => y.st == .done) then some .ready else some .cancelled := rfl

theorem mem_named {s : State} {p : Nat} {x z : Pass} : z ∈ (s.partOf p).named x ↔ predecessor s p x.seq x.lrec z := by
  rw [Partition.named, List.mem_filterMap, predecessor]
  simp only [lrPred, List.mem_filter, List.mem_map, List.mem_range, decide_eq_true_eq]
  constructor
  · rintro ⟨n, ⟨⟨k, hk, rfl⟩, used⟩, found⟩
    split at found
    · next low => exact ⟨k, hk, used, low, found⟩
    · cases found
  · rintro ⟨k, hk, used, low, found⟩
    exact ⟨_, ⟨⟨k, hk, rfl⟩, used⟩, (if_pos low).trans found⟩

section
variable {s : State} {p q : Nat} {x : Pass} (at' : s.passAt p q = some x)
include at'

theorem seq_of_passAt : x.seq = q := by simpa using List.find?_some at'

theorem resolvePass_none (none : (s.partOf p).resolve x = none) : s.resolvePass p q = s.modPass p q (fun y => { y with st := .held }) := by
  unfold State.resolvePass
  rw [at']
  dsimp only
  rw [none]

theorem resolvePass_ready (ready : (s.partOf p).resolve x = some .ready) : s.resolvePass p q = s.modPass p q (fun y => { y with st := .ready }) := by
  unfold State.resolvePass
  rw [at']
  dsimp only
  rw [ready]

theorem resolvePass_cancelled (cancelled : (s.partOf p).resolve x = some .cancelled) : s.resolvePass p q = s.endPass p q .cancelled 2 0 := by
  unfold State.resolvePass
  rw [at']
  dsimp only
  rw [cancelled]

/-- One that has not ended holds the pass. -/
theorem resolve_waits (waits : ∃ z, predecessor s p q x.lrec z ∧ ¬passOver z) : (s.partOf p).resolve x = none := by
  obtain ⟨z, named, opened⟩ := waits
  rw [← seq_of_passAt at'] at named
  rw [resolve_eq]
  refine if_pos (List.any_eq_true.2 ⟨z, mem_named.2 named, ?_⟩)
  rw [Bool.not_eq_true', ← Bool.not_eq_true, over_iff]
  exact opened

theorem resolve_over (all : ∀ z, predecessor s p q x.lrec z → passOver z) : (s.partOf p).resolve x =
    if (lrFlags x.lrec).testBit 2 || ((s.partOf p).named x).all (fun y => y.st == .done) then some .ready else some .cancelled := by
  rw [resolve_eq]
  refine if_neg fun h => ?_
  obtain ⟨z, mem, opened⟩ := List.any_eq_true.1 h
  have named := mem_named.1 mem
  rw [seq_of_passAt at'] at named
  rw [Bool.not_eq_true', ← Bool.not_eq_true, over_iff] at opened
  exact opened (all z named)

/-- The pass as its predecessors leave it. -/
theorem passAt_resolvePass (opened : x.st.over = false) :
    ((∃ z, predecessor s p q x.lrec z ∧ ¬passOver z) → (s.resolvePass p q).passAt p q = some { x with st := .held }) ∧
    ((∀ z, predecessor s p q x.lrec z → passOver z) → (dfld x.lrec 8 2 / 4 % 2 = 1 ∨ ∀ z, predecessor s p q x.lrec z → z.st = .done) →
      (s.resolvePass p q).passAt p q = some { x with st := .ready }) ∧
    ((∀ z, predecessor s p q x.lrec z → passOver z) → dfld x.lrec 8 2 / 4 % 2 = 0 → (∃ z, predecessor s p q x.lrec z ∧ z.st ≠ .done) →
      (s.resolvePass p q).passAt p q = some { x with st := .cancelled, reason := 2, cause := 0 }) := by
  have named (z : Pass) : z ∈ (s.partOf p).named x ↔ predecessor s p q x.lrec z := by rw [mem_named, seq_of_passAt at']
  refine ⟨fun waits => ?_, fun all go => ?_, fun all stops failed => ?_⟩
  · rw [resolvePass_none at' (resolve_waits at' waits), passAt_modPass, if_pos ⟨rfl, rfl⟩, at']
    rfl
  · have ready : (s.partOf p).resolve x = some .ready := by
      rw [resolve_over at' all]
      refine if_pos ?_
      rw [Bool.or_eq_true, lrFlags, testBit_two_iff, List.all_eq_true]
      exact go.imp id fun done z mem => beq_iff_eq.2 (done z ((named z).1 mem))
    rw [resolvePass_ready at' ready, passAt_modPass, if_pos ⟨rfl, rfl⟩, at']
    rfl
  · have cancelled : (s.partOf p).resolve x = some .cancelled := by
      rw [resolve_over at' all]
      refine if_neg ?_
      rw [Bool.or_eq_true, lrFlags, testBit_two_iff, List.all_eq_true]
      rintro (go | done)
      · omega
      · obtain ⟨z, pred, not⟩ := failed
        exact not (beq_iff_eq.1 (done z ((named z).2 pred)))
    rw [resolvePass_cancelled at' cancelled, passAt_endPass, if_pos ⟨rfl, rfl⟩, at', Option.map_some, Pass.ended, if_neg (by simp [opened])]
    rfl
end

/-! ### What the check finds (R103, R132, R133, R140) -/

/-- A pass with its header and tables read. -/
def Pass.read (x : Pass) (h : Desc) (st sx : List Byte) : Pass :=
  { x with
    header := h, streams := streamTab st (dfld h 22 1), decls := (List.range (dfld h 21 1)).map (fun k => toW (elemAt sx 8 k))
    x := lrX x.lrec h, y := lrY x.lrec h, s := lrS x.lrec h, rv := lrRv x.lrec h, lanes := lrLanes x.lrec h, wlog := lrWlog x.lrec h }
/-- The translation of a launch's own reads. -/
def launchXC (p : Nat) (x : Pass) : XCtx := ⟨p, dfld x.lrec 30 2, false, none⟩

section
variable {s u : State} {p : Nat} {x : Pass}

theorem checkLaunch_broken (broken : recordBroken x.lrec (s.partOf p).enclave) : s.checkLaunch p x = (none, s) :=
  if_pos (by
    have bad := (recordBroken_iff x.lrec (s.partOf p).enclave).2 broken
    rwa [Bool.or_eq_true, decide_eq_true_eq] at bad ⊢)

variable (whole : ¬recordBroken x.lrec (s.partOf p).enclave)
include whole

theorem record_whole : ¬((!recordOk x.lrec) = true ∨ dfld x.lrec 28 2 ≠ (s.partOf p).enclave) := fun h =>
  whole ((recordBroken_iff _ _).1 (by rwa [Bool.or_eq_true, decide_eq_true_eq]))

/-- The check up to the read of the image header. -/
theorem checkLaunch_unread {f : TrapInfo} (read : s.readVA (launchXC p x) [] (BitVec.ofNat 64 (dfld x.lrec 56 8)) 64 = .trap f u) :
    s.checkLaunch p x = (none, u) := by
  have read' : s.readVA ⟨p, lrAsid x.lrec, false, none⟩ [] (lrProg x.lrec) 64 = .trap f u := read
  unfold State.checkLaunch
  dsimp only
  rw [if_neg (by simpa using record_whole whole), read']

variable {l : List Byte} (read : s.readVA (launchXC p x) [] (BitVec.ofNat 64 (dfld x.lrec 56 8)) 64 = .ok l u)
include read

theorem checkLaunch_badImage (bad : ¬imageGood x.lrec (BitVec.ofNat 512 (leVal l))) : s.checkLaunch p x = (none, u) := by
  have read' : s.readVA ⟨p, lrAsid x.lrec, false, none⟩ [] (lrProg x.lrec) 64 = .ok l u := read
  have refused : (!headerOk (BitVec.ofNat 512 (leVal l)) || !gridOk x.lrec (BitVec.ofNat 512 (leVal l))) = true := by
    rw [Bool.or_eq_true, Bool.not_eq_true', Bool.not_eq_true', ← Bool.not_eq_true, ← Bool.not_eq_true, ← not_and_or, imageGood_iff]
    exact bad
  unfold State.checkLaunch
  dsimp only
  rw [if_neg (by simpa using record_whole whole), read']
  exact if_pos refused

/-- The tables that a good image names have been read. -/
theorem checkLaunch_tables (good : imageGood x.lrec (BitVec.ofNat 512 (leVal l))) {st sx : List Byte} {v w : State}
    (streams : u.readVA (launchXC p x) [] (BitVec.ofNat 64 (dfld x.lrec 56 8 + dfld (BitVec.ofNat 512 (leVal l) : Desc) 36 4))
      (8 * dfld (BitVec.ofNat 512 (leVal l) : Desc) 22 1) = .ok st v)
    (decls : v.readVA (launchXC p x) [] (BitVec.ofNat 64 (dfld x.lrec 56 8 + dfld (BitVec.ofNat 512 (leVal l) : Desc) 32 4))
      (8 * dfld (BitVec.ofNat 512 (leVal l) : Desc) 21 1) = .ok sx w) :
    s.checkLaunch p x = if streamsOk (imLoft (BitVec.ofNat 512 (leVal l))) (x.read (BitVec.ofNat 512 (leVal l)) st sx).streams &&
        declsOk (x.read (BitVec.ofNat 512 (leVal l)) st sx).decls &&
        decide ((x.read (BitVec.ofNat 512 (leVal l)) st sx).need ≤ (s.partOf p).shareEnd - (s.partOf p).reserveLo)
      then (some (x.read (BitVec.ofNat 512 (leVal l)) st sx), w) else (none, w) := by
  have read' : s.readVA ⟨p, lrAsid x.lrec, false, none⟩ [] (lrProg x.lrec) 64 = .ok l u := read
  have passes : ¬(!headerOk (BitVec.ofNat 512 (leVal l)) || !gridOk x.lrec (BitVec.ofNat 512 (leVal l))) = true := by
    rw [Bool.or_eq_true, Bool.not_eq_true', Bool.not_eq_true', ← Bool.not_eq_true, ← Bool.not_eq_true, ← not_and_or, imageGood_iff, not_not]
    exact good
  have sum (n : Nat) : lrProg x.lrec + toW n = BitVec.ofNat 64 (dfld x.lrec 56 8 + n) := (BitVec.ofNat_add _ _).symm
  have streams' : u.readVA ⟨p, lrAsid x.lrec, false, none⟩ [] (lrProg x.lrec + toW (dfld (BitVec.ofNat 512 (leVal l) : Desc) 36 4))
      (8 * dfld (BitVec.ofNat 512 (leVal l) : Desc) 22 1) = .ok st v := by rw [sum]; exact streams
  have decls' : v.readVA ⟨p, lrAsid x.lrec, false, none⟩ [] (lrProg x.lrec + toW (dfld (BitVec.ofNat 512 (leVal l) : Desc) 32 4))
      (8 * dfld (BitVec.ofNat 512 (leVal l) : Desc) 21 1) = .ok sx w := by rw [sum]; exact decls
  unfold State.checkLaunch
  dsimp only
  rw [if_neg (by simpa using record_whole whole), read']
  dsimp only
  rw [if_neg passes, streams']
  dsimp only [Acc.bind]
  rw [decls']
  rfl
end

/-- A pass whose tables are good fits its reserve (R140). -/
theorem tables_fit_iff (s : State) (p : Nat) (x : Pass) (h : Desc) (st sx : List Byte) :
    (streamsOk (imLoft h) (x.read h st sx).streams && declsOk (x.read h st sx).decls &&
      decide ((x.read h st sx).need ≤ (s.partOf p).shareEnd - (s.partOf p).reserveLo)) = true ↔
    streamsGood (dfld h 24 4) (dfld h 22 1) st ∧ declsGood (dfld h 21 1) sx ∧
      reserveOf x.lrec h ≤ (s.partOf p).shareBase + (s.partOf p).shareSize - ((s.partOf p).reserveBase + 2 ^ 20) := by
  have need : (x.read h st sx).need = reserveOf x.lrec h := reserveNeed_eq x.lrec h
  rw [Bool.and_eq_true, Bool.and_eq_true, decide_eq_true_eq, need, and_assoc]
  exact and_congr (streamsOk_iff _ _ _) (and_congr (declsOk_iff _ _) Iff.rfl)

/-! ### LAUNCH_CHECK -/

section
variable {s u : State} {p q : Nat} {x : Pass} (at' : s.passAt p q = some x) (queued : x.st = .queued)
include at' queued

theorem exec_launchCheck_bad (bad : s.checkLaunch p x = (none, u)) : exec (.launchCheck p q) s = .next (u.endPass p q .faulted 1 0) := by
  change execLaunchCheck p q s = _
  unfold execLaunchCheck
  rw [at']
  dsimp only
  rw [if_neg (by simp [queued]), bad]

theorem exec_launchCheck_good {y : Pass} (good : s.checkLaunch p x = (some y, u)) :
    exec (.launchCheck p q) s = .next ((u.modPass p q (fun _ => y)).resolvePass p q) := by
  change execLaunchCheck p q s = _
  unfold execLaunchCheck
  rw [at']
  dsimp only
  rw [if_neg (by simp [queued]), good]

/-- R103: a launch that fails its check is FAULTED, BADREC. -/
theorem launchCheck_faults (bad : s.checkLaunch p x = (none, u)) (kept : partsKept s u) : ∃ t, exec (.launchCheck p q) s = .next t ∧
    t.passAt p q = some { x with st := .faulted, reason := 1, cause := 0 } := by
  refine ⟨_, exec_launchCheck_bad at' queued bad, ?_⟩
  rw [passAt_endPass, if_pos ⟨rfl, rfl⟩, partsKept_passAt kept, at', Option.map_some, Pass.ended, if_neg (by rw [queued]; decide)]
  rfl
end

/-- A pass that is put in the place of one of its number. -/
theorem passAt_replacePass (s : State) (p : Nat) {q : Nat} {x y : Pass} (at' : s.passAt p q = some x) (seq : y.seq = q) (p' q' : Nat) :
    (s.modPass p q (fun _ => y)).passAt p' q' = if p' = p ∧ q' = q then some y else s.passAt p' q' := by
  have same : s.modPass p q (fun _ => y) = s.modPass p q (fun x => { y with seq := x.seq }) := by
    refine congrArg (State.modPart s p) (funext fun t => congrArg (fun l => { t with passes := l }) (List.map_congr_left fun x _ => ?_))
    split
    · next here =>
      have here : x.seq = q := by simpa using here
      change y = { y with seq := x.seq }
      rw [here, ← seq]
    · rfl
  rw [same, passAt_modPass, at']
  refine if_congr Iff.rfl ?_ rfl
  rw [Option.map_some, seq_of_passAt at', ← seq]

/-- The predecessors of a pass are other passes. -/
theorem predecessor_congr {s t : State} {p q : Nat} {d : Desc} (same : ∀ r, r ≠ q → t.passAt p r = s.passAt p r) (z : Pass) :
    predecessor t p q d z ↔ predecessor s p q d z := by
  refine exists_congr fun k => and_congr_right fun _ => and_congr_right fun used => and_congr_right fun low => ?_
  rw [same _ (by omega)]

/-- R104: a launch that passes its check goes where its predecessors let it. -/
theorem launchCheck_places {s u : State} {p q : Nat} {x : Pass} (at' : s.passAt p q = some x) (queued : x.st = .queued) {h : Desc} {st sx : List Byte}
    (good : s.checkLaunch p x = (some (x.read h st sx), u)) (kept : partsKept s u) : ∃ t y, exec (.launchCheck p q) s = .next t ∧
      t.passAt p q = some y ∧ (∃ a n c, y = { x.read h st sx with st := a, reason := n, cause := c }) ∧
      ((∃ z, predecessor s p q x.lrec z ∧ ¬passOver z) → y.st = .held) ∧
      ((∀ z, predecessor s p q x.lrec z → passOver z) → (dfld x.lrec 8 2 / 4 % 2 = 1 ∨ ∀ z, predecessor s p q x.lrec z → z.st = .done) → y.st = .ready) ∧
      ((∀ z, predecessor s p q x.lrec z → passOver z) → dfld x.lrec 8 2 / 4 % 2 = 0 → (∃ z, predecessor s p q x.lrec z ∧ z.st ≠ .done) →
        y.st = .cancelled ∧ y.reason = 2) := by
  have seq : x.seq = q := seq_of_passAt at'
  have passAt := passAt_replacePass u p (y := x.read h st sx) ((partsKept_passAt kept p q).trans at') seq
  have here : (u.modPass p q (fun _ => x.read h st sx)).passAt p q = some (x.read h st sx) := by rw [passAt, if_pos ⟨rfl, rfl⟩]
  have pred (z : Pass) : predecessor (u.modPass p q (fun _ => x.read h st sx)) p q x.lrec z ↔ predecessor s p q x.lrec z :=
    predecessor_congr (fun r ne => by rw [passAt, if_neg fun h => ne h.2, partsKept_passAt kept]) z
  obtain ⟨held, ready, cancelled⟩ := passAt_resolvePass here (by rw [show (x.read h st sx).st = .queued from queued]; rfl)
  simp only [show (x.read h st sx).lrec = x.lrec from rfl, pred] at held ready cancelled
  have run := exec_launchCheck_good at' queued good
  by_cases waits : ∃ z, predecessor s p q x.lrec z ∧ ¬passOver z
  · refine ⟨_, _, run, held waits, ⟨_, _, _, rfl⟩, fun _ => rfl, fun all => ?_, fun all => ?_⟩
    all_goals
      obtain ⟨z, named, opened⟩ := waits
      exact absurd (all z named) opened
  · by_cases go : dfld x.lrec 8 2 / 4 % 2 = 1 ∨ ∀ z, predecessor s p q x.lrec z → z.st = .done
    · have all (z : Pass) (named : predecessor s p q x.lrec z) : passOver z := not_not.1 fun opened => waits ⟨z, named, opened⟩
      refine ⟨_, _, run, ready all go, ⟨_, _, _, rfl⟩, fun w => absurd w waits, fun _ _ => rfl, fun _ stops failed => ?_⟩
      obtain ⟨z, named, not⟩ := failed
      obtain go | done := go
      · omega
      · exact absurd (done z named) not
    · have all (z : Pass) (named : predecessor s p q x.lrec z) : passOver z := not_not.1 fun opened => waits ⟨z, named, opened⟩
      obtain ⟨stops, failed⟩ := not_or.1 go
      obtain ⟨z, named⟩ := not_forall.1 failed
      obtain ⟨named, not⟩ := Classical.not_imp.1 named
      exact ⟨_, _, run, cancelled all (by omega) ⟨z, named, not⟩, ⟨_, _, _, rfl⟩, fun w => absurd w waits, fun _ g => absurd g go, fun _ _ _ => ⟨rfl, rfl⟩⟩

end Sys2Proof.Machine
end

section
/-!
PROOFS. The merge of sealed logs (R217): each byte that one log holds ends with its value, any other byte is as it was, and the logs are empty.
-/
namespace Sys2Proof.Machine
open Sys2Proof.Claims
set_option Elab.async false

/-! ### One byte, one entry, one log -/

/-- No unit has a context record in the reserve, whose bytes a store would not change (R149). -/
def State.Unrecorded (s : State) : Prop := s.units.any (fun y => y.2.recorded) = false

/-- One byte of a log entry written to memory. -/
def State.mergeByte (e : LogEntry) (s : State) (i : Nat) : State :=
  if e.mask.getLsbD i then s.hbmStore (e.addr + i) [e.data.extractLsb' (8 * i) 8] else s

theorem mergeEntry_eq (s : State) (e : LogEntry) : s.mergeEntry e = (List.range 64).foldl (State.mergeByte e) s := rfl

/-- What a store to HBM writes. -/
theorem hbmStore_frame (s : State) (a : Nat) (l : List Byte) : s.hbmStore a l =
    { s with hbm := (s.hbmStore a l).hbm, hbmPoison := (s.hbmStore a l).hbmPoison, telemetry := (s.hbmStore a l).telemetry } := by
  unfold State.hbmStore
  split
  · split <;> rfl
  · rfl

theorem get_hbmStore_other (s : State) {a c : Nat} (b : Byte) (ne : a ≠ c) : KMap.get 0 (s.hbmStore c [b]).hbm a = KMap.get 0 s.hbm a := by
  have apart (b : Byte) : KMap.get 0 (memWrite s.hbm c [b]) a = KMap.get 0 s.hbm a := by
    rw [get_memWrite]
    exact if_neg (by rw [List.length_singleton]; omega)
  unfold State.hbmStore
  split
  · split <;> exact apart _
  · exact apart b

theorem get_hbmStore_self {s : State} (plain : s.Unrecorded) (c : Nat) (b : Byte) : KMap.get 0 (s.hbmStore c [b]).hbm c = b := by
  have write : s.hbmStore c [b] = s.hbmWrite c [b] := if_neg (by rw [plain]; exact Bool.false_ne_true)
  rw [write, State.hbmWrite, get_memWrite, if_pos ⟨le_refl c, by rw [List.length_singleton]; omega⟩, Nat.sub_self]
  rfl

theorem units_mergeByte (e : LogEntry) (s : State) (i : Nat) : (s.mergeByte e i).units = s.units := by
  unfold State.mergeByte
  split
  · rw [hbmStore_frame]
  · rfl
theorem units_mergeEntry (s : State) (e : LogEntry) : (s.mergeEntry e).units = s.units := foldl_keeps State.units (units_mergeByte e) _ s
theorem units_mergeLog (l : List LogEntry) (s : State) : (l.foldl State.mergeEntry s).units = s.units := foldl_keeps State.units units_mergeEntry l s
theorem parts_mergeByte (e : LogEntry) (s : State) (i : Nat) : (s.mergeByte e i).parts = s.parts := by
  unfold State.mergeByte
  split
  · rw [hbmStore_frame]
  · rfl
theorem parts_mergeEntry (s : State) (e : LogEntry) : (s.mergeEntry e).parts = s.parts := foldl_keeps State.parts (parts_mergeByte e) _ s
theorem parts_mergeLog (l : List LogEntry) (s : State) : (l.foldl State.mergeEntry s).parts = s.parts := foldl_keeps State.parts parts_mergeEntry l s

theorem unrecorded_congr {s t : State} (units : t.units = s.units) (plain : s.Unrecorded) : t.Unrecorded := by
  rw [State.Unrecorded, units]
  exact plain

theorem get_foldl_mergeByte_other {e : LogEntry} {a : Nat} (l : List Nat) (other : ∀ j ∈ l, e.mask.getLsbD j = true → a ≠ e.addr + j) (s : State) :
    KMap.get 0 (l.foldl (State.mergeByte e) s).hbm a = KMap.get 0 s.hbm a := by
  refine List.foldlRecOn (motive := fun t : State => KMap.get 0 t.hbm a = KMap.get 0 s.hbm a) _ _ rfl fun t before j hj => ?_
  unfold State.mergeByte
  split
  · next set => rw [get_hbmStore_other _ _ (other j hj set), before]
  · exact before

theorem get_foldl_mergeByte_held {e : LogEntry} {j : Nat} (set : e.mask.getLsbD j = true) (l : List Nat) (mem : j ∈ l) {s : State} (plain : s.Unrecorded) :
    KMap.get 0 (l.foldl (State.mergeByte e) s).hbm (e.addr + j) = e.data.extractLsb' (8 * j) 8 := by
  induction l generalizing s with
  | nil => cases mem
  | cons i l ih =>
    by_cases later : j ∈ l
    · exact ih later (unrecorded_congr (units_mergeByte e s i) plain)
    · obtain rfl := (List.mem_cons.1 mem).resolve_right later
      rw [List.foldl_cons, get_foldl_mergeByte_other l fun i hi _ same => later (by rwa [Nat.add_left_cancel same])]
      rw [State.mergeByte, if_pos set, get_hbmStore_self plain]

theorem get_mergeEntry_other {e : LogEntry} {a : Nat} (other : ∀ j, j < 64 → e.mask.getLsbD j = true → a ≠ e.addr + j) (s : State) :
    KMap.get 0 (s.mergeEntry e).hbm a = KMap.get 0 s.hbm a :=
  get_foldl_mergeByte_other _ (fun j hj => other j (List.mem_range.1 hj)) s

theorem get_mergeEntry_held {s : State} (plain : s.Unrecorded) {e : LogEntry} {j : Nat} (low : j < 64) (set : e.mask.getLsbD j = true) :
    KMap.get 0 (s.mergeEntry e).hbm (e.addr + j) = BitVec.ofNat 8 (e.data.toNat / 2 ^ (8 * j)) := by
  rw [mergeEntry_eq, get_foldl_mergeByte_held set _ (List.mem_range.2 low) plain, ← Nat.shiftRight_eq_div_pow]
  rfl

theorem get_mergeLog_other {l : List LogEntry} {a : Nat} (other : ∀ b, ¬logHolds l a b) (s : State) :
    KMap.get 0 (l.foldl State.mergeEntry s).hbm a = KMap.get 0 s.hbm a := by
  refine List.foldlRecOn (motive := fun t : State => KMap.get 0 t.hbm a = KMap.get 0 s.hbm a) _ _ rfl fun t before e he => ?_
  rw [get_mergeEntry_other (fun j low set same => other _ ⟨e, he, j, low, set, same, rfl⟩), before]

/-- A log that holds each line once. -/
def LogWhole (l : List LogEntry) : Prop := (l.map (fun e => e.addr)).Pairwise (· ≠ ·) ∧ ∀ e ∈ l, e.addr % 64 = 0

theorem get_mergeLog_held {l : List LogEntry} (whole : LogWhole l) {a : Nat} {b : Byte} (held : logHolds l a b) {s : State} (plain : s.Unrecorded) :
    KMap.get 0 (l.foldl State.mergeEntry s).hbm a = b := by
  induction l generalizing s with
  | nil =>
    obtain ⟨e, he, -⟩ := held
    cases he
  | cons x l ih =>
    obtain ⟨distinct, aligned⟩ := whole
    obtain ⟨new, distinct'⟩ := List.pairwise_cons.1 distinct
    obtain ⟨e, he, j, low, set, rfl, rfl⟩ := held
    obtain rfl | he := List.mem_cons.1 he
    · rw [List.foldl_cons, get_mergeLog_other, get_mergeEntry_held plain low set]
      rintro b ⟨y, hy, i, low', -, same, -⟩
      have line := aligned e (.head l)
      have line' := aligned y (.tail e hy)
      exact new y.addr (List.mem_map_of_mem hy) (show e.addr = y.addr by omega)
    · exact ih ⟨distinct', fun y hy => aligned y (.tail x hy)⟩ ⟨e, he, j, low, set, rfl, rfl⟩
        (unrecorded_congr (units_mergeEntry s x) plain)

/-! ### The logs of all tasks -/

/-- The log of a reeve. -/
def State.logOf (s : State) (t : Nat × Nat) : List LogEntry := ((s.unitOf t.1).reeveOf t.2).log
/-- One task's log written to memory and emptied. -/
def State.mergeTask (s : State) (t : Nat × Nat × Nat) : State :=
  ((s.logOf t.2).foldl State.mergeEntry s).modUnit t.2.1 (fun u => u.modReeve t.2.2 (fun x => { x with log := [] }))

theorem mergeLogs_eq (s : State) (l : List (Nat × Nat × Nat)) : s.mergeLogs l = l.foldl State.mergeTask s := rfl

theorem parts_mergeLogs (s : State) (l : List (Nat × Nat × Nat)) : (s.mergeLogs l).parts = s.parts :=
  foldl_keeps (f := State.mergeTask) State.parts (fun s _ => parts_mergeLog _ s) l s

/-- After a task's merge its log is empty and any other log is as it was. -/
theorem logOf_mergeTask (s : State) (t : Nat × Nat × Nat) (v : Nat × Nat) : (s.mergeTask t).logOf v = if v = t.2 then [] else s.logOf v := by
  obtain ⟨id, w, q⟩ := t
  obtain ⟨w', q'⟩ := v
  have units (w : Nat) : ((s.logOf (w, q)).foldl State.mergeEntry s).unitOf w' = s.unitOf w' := by rw [State.unitOf, units_mergeLog]; rfl
  unfold State.mergeTask State.logOf
  dsimp only
  by_cases unit : w' = w
  · obtain rfl := unit
    rw [State.unitOf_modUnit_self]
    by_cases reeve : q' = q
    · obtain rfl := reeve
      rw [Unit.reeveOf_modReeve_self, if_pos rfl]
    · rw [Unit.reeveOf_modReeve_ne _ _ reeve, if_neg (fun h => reeve (congrArg Prod.snd h))]
      exact congrArg (fun u : Unit => (u.reeveOf q').log) (units w')
  · rw [State.unitOf_modUnit_ne _ _ unit, if_neg (fun h => unit (congrArg Prod.fst h))]
    exact congrArg (fun u : Unit => (u.reeveOf q').log) (units w)

theorem logOf_mergeTask_shrinks (s : State) (t : Nat × Nat × Nat) (v : Nat × Nat) : (s.mergeTask t).logOf v = [] ∨ (s.mergeTask t).logOf v = s.logOf v := by
  rw [logOf_mergeTask]
  split
  · exact .inl rfl
  · exact .inr rfl

theorem not_logHolds_nil {a : Nat} {b : Byte} : ¬logHolds [] a b := fun ⟨_, h, _⟩ => nomatch h

theorem unrecorded_mergeTask {s : State} (plain : s.Unrecorded) (t : Nat × Nat × Nat) : (s.mergeTask t).Unrecorded := by
  have each (e : Nat × Unit) (he : e ∈ s.units) : e.2.recorded = false := by simpa using List.any_eq_false.1 plain e he
  have unit (v : Nat) : (s.unitOf v).recorded = false := by
    by_cases off : s.unitOf v = Unit.none
    · rw [off]
      rfl
    · exact each _ (KMap.mem_of_get_ne off)
  refine List.any_eq_false.2 fun e he => ?_
  have he : e ∈ KMap.set Unit.none ((s.logOf t.2).foldl State.mergeEntry s).units t.2.1 _ := he
  rw [units_mergeLog] at he
  rw [Bool.not_eq_true]
  obtain rfl | old := KMap.mem_set_cases he
  · have same : ((s.logOf t.2).foldl State.mergeEntry s).unitOf t.2.1 = s.unitOf t.2.1 := by rw [State.unitOf, units_mergeLog]; rfl
    rw [same]
    exact unit t.2.1
  · exact each e old

theorem logOf_mergeLogs (l : List (Nat × Nat × Nat)) {s : State} {v : Nat × Nat} (h : (∃ t ∈ l, t.2 = v) ∨ s.logOf v = []) : (s.mergeLogs l).logOf v = [] := by
  rw [mergeLogs_eq]
  induction l generalizing s with
  | nil => exact h.resolve_left fun ⟨_, h, _⟩ => nomatch h
  | cons t l ih =>
    refine ih ?_
    obtain ⟨x, hx, rfl⟩ | empty := h
    · obtain rfl | later := List.mem_cons.1 hx
      · exact .inr (by rw [logOf_mergeTask, if_pos rfl])
      · exact .inl ⟨x, later, rfl⟩
    · refine .inr ?_
      rw [logOf_mergeTask, empty, ite_self]

theorem get_mergeLogs_other (l : List (Nat × Nat × Nat)) {s : State} {a : Nat} (other : ∀ t ∈ l, ∀ b, ¬logHolds (s.logOf t.2) a b) :
    KMap.get 0 (s.mergeLogs l).hbm a = KMap.get 0 s.hbm a := by
  rw [mergeLogs_eq]
  induction l generalizing s with
  | nil => rfl
  | cons t l ih =>
    rw [List.foldl_cons, ih fun x hx b => ?_]
    · exact get_mergeLog_other (other t (.head l)) s
    · obtain empty | same := logOf_mergeTask_shrinks s t x.2
      · rw [empty]
        exact not_logHolds_nil
      · rw [same]
        exact other x (.tail t hx) b

/-- A byte that one log alone holds ends with its value there. -/
theorem get_mergeLogs_held (l : List (Nat × Nat × Nat)) {s : State} (plain : s.Unrecorded) (whole : ∀ t ∈ l, LogWhole (s.logOf t.2)) {t : Nat × Nat × Nat}
    (mem : t ∈ l) {a : Nat} {b : Byte} (held : logHolds (s.logOf t.2) a b) (alone : ∀ x ∈ l, x.2 ≠ t.2 → ∀ b, ¬logHolds (s.logOf x.2) a b) :
    KMap.get 0 (s.mergeLogs l).hbm a = b := by
  rw [mergeLogs_eq]
  induction l generalizing s with
  | nil => cases mem
  | cons y l ih =>
    rw [List.foldl_cons]
    by_cases here : y.2 = t.2
    · have rest : ∀ x ∈ l, ∀ b, ¬logHolds ((s.mergeTask y).logOf x.2) a b := fun x hx b => by
        rw [logOf_mergeTask]
        split
        · exact not_logHolds_nil
        · next ne => exact alone x (.tail y hx) (here ▸ ne) b
      rw [← mergeLogs_eq, get_mergeLogs_other l rest]
      exact get_mergeLog_held (whole y (.head l)) (here ▸ held) plain
    · have later : t ∈ l := (List.mem_cons.1 mem).resolve_left fun h => here (by rw [h])
      refine ih (unrecorded_mergeTask plain y) (fun x hx => ?_) later ?_ fun x hx ne b => ?_
      · obtain empty | same := logOf_mergeTask_shrinks s y x.2
        · rw [empty]
          exact ⟨List.Pairwise.nil, fun _ h => nomatch h⟩
        · rw [same]
          exact whole x (.tail y hx)
      · rw [logOf_mergeTask, if_neg (fun h => here h.symm)]
        exact held
      · obtain empty | same := logOf_mergeTask_shrinks s y x.2
        · rw [empty]
          exact not_logHolds_nil
        · rw [same]
          exact alone x (.tail y hx) ne b

/-! ### Where there is no conflict -/

theorem minPair_none {l : List (Nat × Nat)} (h : minPair l = none) : l = [] := by
  cases l with
  | nil => rfl
  | cons a l =>
    rw [minPair] at h
    split at h
    · split at h <;> cases h
    · cases h

/-- The addresses that a log holds. -/
theorem mem_logBytes {l : List LogEntry} {a : Nat} : (logBytes l).any (fun b => b.1 == a) = true ↔ ∃ b, logHolds l a b := by
  simp only [List.any_eq_true, logBytes, List.mem_flatMap, List.mem_filterMap, List.mem_range, beq_iff_eq]
  constructor
  · rintro ⟨b, ⟨e, he, i, low, found⟩, rfl⟩
    split at found
    · next set =>
      cases found
      exact ⟨_, e, he, i, low, set, rfl, rfl⟩
    · cases found
  · rintro ⟨b, e, he, j, low, set, rfl, -⟩
    exact ⟨_, ⟨e, he, j, low, if_pos set⟩, rfl⟩

/-- Does a task's log hold an address? -/
def State.taskHolds (s : State) (a : Nat) (t : Nat × Nat × Nat) : Bool := (logBytes (s.logOf t.2)).any (fun b => b.1 == a)
/-- The tasks with the bytes of their logs. -/
def State.sealLogs (s : State) (l : List (Nat × Nat × Nat)) : List ((Nat × Nat × Nat) × List (Nat × Nat)) := l.map (fun t => (t, logBytes (s.logOf t.2)))
/-- The tasks whose logs hold an address. -/
def State.sealHolders (s : State) (l : List (Nat × Nat × Nat)) (a : Nat) : List (Nat × Nat × Nat) :=
  ((s.sealLogs l).filter (fun l => l.2.any (fun b => b.1 == a))).map (·.1)
/-- The bytes that logs of different tasks hold. -/
def State.sealShared (s : State) (l : List (Nat × Nat × Nat)) : List (Nat × Nat) :=
  (s.sealLogs l).flatMap (fun x => x.2.filter (fun b => (s.sealLogs l).any (fun m => m.1.1 != x.1.1 && m.2.any (fun c => c.1 == b.1))))

section
variable {s : State} {l : List (Nat × Nat × Nat)}

theorem mem_sealHolders {a : Nat} {t : Nat × Nat × Nat} : t ∈ s.sealHolders l a ↔ t ∈ l ∧ s.taskHolds a t = true := by
  simp only [State.sealHolders, State.sealLogs, List.mem_map, List.mem_filter]
  constructor
  · rintro ⟨_, ⟨⟨x, hx, rfl⟩, held⟩, rfl⟩
    exact ⟨hx, held⟩
  · rintro ⟨ht, held⟩
    exact ⟨_, ⟨⟨t, ht, rfl⟩, held⟩, rfl⟩

theorem mem_sealShared {b : Nat × Nat} : b ∈ s.sealShared l ↔ ∃ t ∈ l, b ∈ logBytes (s.logOf t.2) ∧ ∃ x ∈ l, x.1 ≠ t.1 ∧ s.taskHolds b.1 x = true := by
  simp only [State.sealShared, State.sealLogs, List.mem_flatMap, List.mem_map, List.mem_filter, List.any_eq_true, Bool.and_eq_true, bne_iff_ne]
  constructor
  · rintro ⟨_, ⟨t, ht, rfl⟩, hb, _, ⟨x, hx, rfl⟩, ne, held⟩
    exact ⟨t, ht, hb, x, hx, ne, List.any_eq_true.2 held⟩
  · rintro ⟨t, ht, hb, x, hx, ne, held⟩
    exact ⟨_, ⟨t, ht, rfl⟩, hb, _, ⟨x, hx, rfl⟩, ne, List.any_eq_true.1 held⟩

theorem sealConflict_eq : s.sealConflict l =
    match minPair ((s.sealShared l).map (fun b => (b.2, b.1))) with
    | none => none
    | some (va, pa) =>
      match minPair ((s.sealHolders l pa).map (fun t => (t.1, t.1))) with
      | none => none
      | some (t1, _) =>
        match minPair (((s.sealHolders l pa).filter (fun t => t.1 != t1)).map (fun t => (t.1, t.1))) with
        | none => none
        | some (t2, _) => (((s.sealHolders l pa).filter (fun t => t.1 != t1)).find? (fun t => t.1 == t2)).map (fun t => ⟨toW va, t1, t⟩) := rfl

/-- Bytes that logs of different tasks hold are a conflict. -/
theorem sealShared_of_sealConflict_none (none : s.sealConflict l = none) : s.sealShared l = [] := by
  rw [sealConflict_eq] at none
  split at none
  · next free => exact List.map_eq_nil_iff.1 (minPair_none free)
  · next va pa least =>
    obtain ⟨b, shared, same⟩ := List.mem_map.1 (minPair_mem least)
    cases same
    obtain ⟨t, ht, hb, x, hx, ne, held⟩ := mem_sealShared.1 shared
    have holder : t ∈ s.sealHolders l b.1 := mem_sealHolders.2 ⟨ht, List.any_eq_true.2 ⟨b, hb, beq_self_eq_true _⟩⟩
    have holder' : x ∈ s.sealHolders l b.1 := mem_sealHolders.2 ⟨hx, held⟩
    split at none
    · next empty =>
      rw [List.map_eq_nil_iff.1 (minPair_none empty)] at holder
      cases holder
    · next t1 _ _ =>
      split at none
      · next empty =>
        have alone := List.filter_eq_nil_iff.1 (List.map_eq_nil_iff.1 (minPair_none empty))
        simp only [bne_iff_ne, not_not] at alone
        exact absurd ((alone x holder').trans (alone t holder).symm) ne
      · next t2 _ second =>
        obtain ⟨y, hy, same⟩ := List.mem_map.1 (minPair_mem second)
        have missing := List.find?_eq_none.1 (Option.map_eq_none_iff.1 none) y hy
        rw [beq_iff_eq] at missing
        exact absurd (congrArg Prod.fst same) missing

theorem apart_of_sealConflict_none (none : s.sealConflict l = none) {t x : Nat × Nat × Nat} (ht : t ∈ l) (hx : x ∈ l)
    (ne : x.1 ≠ t.1) {a : Nat} {b c : Byte} (held : logHolds (s.logOf t.2) a b) : ¬logHolds (s.logOf x.2) a c := by
  intro held'
  obtain ⟨y, hy, rfl⟩ : ∃ y ∈ logBytes (s.logOf t.2), y.1 = a := by simpa using mem_logBytes.2 ⟨b, held⟩
  have shared : y ∈ s.sealShared l := mem_sealShared.2 ⟨t, ht, hy, x, hx, ne, mem_logBytes.2 ⟨c, held'⟩⟩
  rw [sealShared_of_sealConflict_none none] at shared
  cases shared
end

/-! ### The merge of a pass -/

theorem mem_tasksOf {s : State} (keys : rising s.units) {p : Nat} {id : Word} {t : Nat × Nat × Nat} :
    t ∈ s.tasksOf p id ↔ ofPass s p id t.2.1 t.2.2 ∧ t.1 = (s.unitOf t.2.1).taskId t.2.2 := by
  obtain ⟨n, w, q⟩ := t
  simp only [State.tasksOf, ofPass, List.mem_flatMap, List.mem_filter, List.mem_map, List.mem_range, Bool.and_eq_true, beq_iff_eq, Bool.not_eq_true',
    and_assoc]
  constructor
  · rintro ⟨e, he, live, part, pass, initial, r, low, same⟩
    cases same
    exact ⟨⟨e.2, he, live, part, pass, initial, low⟩, congrArg (fun u : Unit => u.taskId q) (KMap.get_of_mem Unit.none keys he).symm⟩
  · rintro ⟨⟨u, hu, live, part, pass, initial, low⟩, id⟩
    refine ⟨(w, u), hu, live, part, pass, initial, q, low, ?_⟩
    have unit : s.unitOf w = u := KMap.get_of_mem Unit.none keys hu
    rw [id, unit]

theorem mem_tasksOf_of_ofPass {s : State} (keys : rising s.units) {p : Nat} {id : Word} {w q : Nat} (h : ofPass s p id w q) :
    ((s.unitOf w).taskId q, w, q) ∈ s.tasksOf p id := (mem_tasksOf keys).2 ⟨h, rfl⟩

/-- R217: the logs of a pass without conflict merge. -/
theorem logsMerged_mergeLogs {s t : State} (keys : rising s.units) {p : Nat} {id : Word} (none : s.sealConflict (s.tasksOf p id) = none)
    (units : t.units = (s.mergeLogs (s.tasksOf p id)).units) (hbm : t.hbm = (s.mergeLogs (s.tasksOf p id)).hbm) : logsMerged s t p id := by
  refine ⟨fun w q mine => ?_, fun a free => ?_, fun plain apart whole w q a b mine held => ?_⟩
  · have empty : (s.mergeLogs (s.tasksOf p id)).logOf (w, q) = [] :=
      logOf_mergeLogs _ (.inl ⟨_, mem_tasksOf_of_ofPass keys mine, rfl⟩)
    rw [State.unitOf, units]
    exact empty
  · rw [hbm]
    exact get_mergeLogs_other _ fun x hx b => free _ _ b ((mem_tasksOf keys).1 hx).1
  · rw [hbm]
    refine get_mergeLogs_held _ plain (fun x hx => whole _ _ ((mem_tasksOf keys).1 hx).1) (mem_tasksOf_of_ofPass keys mine) held fun x hx ne c => ?_
    refine apart_of_sealConflict_none none (mem_tasksOf_of_ofPass keys mine) hx (fun same => ne ?_) held
    obtain ⟨mine', id'⟩ := (mem_tasksOf keys).1 hx
    obtain ⟨w', q'⟩ := apart _ _ _ _ mine' mine (id'.symm.trans same)
    exact Prod.ext w' q'

end Sys2Proof.Machine
end

section
/-!
PROOFS. The bytes of a completion record (R107).
-/
namespace Sys2Proof.Machine
open Sys2Proof.Claims
set_option Elab.async false

/-- The low bytes of a number and then its high ones. -/
theorem leBytes_add (m n : Nat) {a : Nat} (low : a < 2 ^ (8 * m)) (b : Nat) : leBytes (m + n) (a + b * 2 ^ (8 * m)) = leBytes m a ++ leBytes n b := by
  induction m generalizing a with
  | zero =>
    obtain rfl : a = 0 := by simpa using low
    simp [leBytes]
  | succ m ih =>
    have size : 2 ^ (8 * (m + 1)) = 256 * 2 ^ (8 * m) := by rw [Nat.mul_add, pow_add]; omega
    rw [size] at low ⊢
    have whole : a + b * (256 * 2 ^ (8 * m)) = a + 256 * (b * 2 ^ (8 * m)) := by ring
    have high : (a + 256 * (b * 2 ^ (8 * m))) / 256 = a / 256 + b * 2 ^ (8 * m) := by omega
    have first : BitVec.ofNat 8 (a + 256 * (b * 2 ^ (8 * m))) = BitVec.ofNat 8 a := BitVec.eq_of_toNat_eq (by simp only [BitVec.toNat_ofNat]; omega)
    rw [Nat.add_right_comm, whole, leBytes, leBytes, high, first, ih (by omega), List.cons_append]

theorem leBytes_mod (n v : Nat) : leBytes n (v % 2 ^ (8 * n)) = leBytes n v := by
  have split := leBytes_add n 0 (Nat.mod_lt v (Nat.two_pow_pos (8 * n))) (v / 2 ^ (8 * n))
  rw [Nat.mod_add_div', leBytes, List.append_nil] at split
  exact split.symm

/-- Eleven fields, one after the other. -/
theorem leBytes_fields {code reason nflt cause tag task top cycles id : Nat} (h1 : code < 2 ^ 8) (h2 : reason < 2 ^ 8) (h3 : nflt < 2 ^ 8) (h4 : cause < 2 ^ 8)
    (h5 : tag < 2 ^ 16) (h6 : task < 2 ^ 32) (h7 : top < 2 ^ 32) (h8 : cycles < 2 ^ 64) :
    leBytes 32 (1 + code * 2 ^ 16 + reason * 2 ^ 24 + nflt * 2 ^ 32 + cause * 2 ^ 40 + tag * 2 ^ 48 + task * 2 ^ 64 + top * 2 ^ 96 + cycles * 2 ^ 128 +
      id * 2 ^ 192) = [1, 0, BitVec.ofNat 8 code, BitVec.ofNat 8 reason, BitVec.ofNat 8 nflt, BitVec.ofNat 8 cause] ++ leBytes 2 tag ++ leBytes 4 task ++
        leBytes 4 top ++ leBytes 8 cycles ++ leBytes 8 id := by
  have nested : 1 + code * 2 ^ 16 + reason * 2 ^ 24 + nflt * 2 ^ 32 + cause * 2 ^ 40 + tag * 2 ^ 48 + task * 2 ^ 64 + top * 2 ^ 96 + cycles * 2 ^ 128 +
      id * 2 ^ 192 = 1 + (0 + (code + (reason + (nflt + (cause + (tag + (task + (top + (cycles + id * 2 ^ (8 * 8)) * 2 ^ (8 * 4)) * 2 ^ (8 * 4)) *
        2 ^ (8 * 2)) * 2 ^ (8 * 1)) * 2 ^ (8 * 1)) * 2 ^ (8 * 1)) * 2 ^ (8 * 1)) * 2 ^ (8 * 1)) * 2 ^ (8 * 1) := by ring
  rw [nested, leBytes_add 1 31 (by decide), leBytes_add 1 30 (by decide), leBytes_add 1 29 h1, leBytes_add 1 28 h2, leBytes_add 1 27 h3, leBytes_add 1 26 h4,
    leBytes_add 2 24 h5, leBytes_add 4 20 h6, leBytes_add 4 16 h7, leBytes_add 8 8 h8]
  simp only [leBytes_one, List.cons_append, List.nil_append, List.append_assoc]
  rfl

theorem dfld_lt {w : Nat} (d : BitVec w) (lo n : Nat) : dfld d lo n < 2 ^ (8 * n) := by
  rw [dfld, fld_eq]
  exact Nat.mod_lt _ (Nat.two_pow_pos _)

theorem endCode_lt (st : PassState) : endCode st < 2 ^ 8 := by cases st <;> decide

/-- R107: the record of a pass, byte for byte. -/
theorem leBytes_completion (p : Nat) (x : Pass) (cycles top : Nat) : leBytes 32 (completion p x cycles top).toNat = completionBytes p x cycles top := by
  have tag : dfld x.lrec 4 2 < 2 ^ 16 := dfld_lt x.lrec 4 2
  have most : (if top < 2 ^ 32 then top else 2 ^ 32 - 1) = min top (2 ^ 32 - 1) := by split <;> omega
  have small : min top (2 ^ 32 - 1) < 2 ^ 32 := by omega
  have id := (passIdOf p x.seq).isLt
  have cause := x.cause.isLt
  have code := endCode_lt x.st
  have value : (completion p x cycles top).toNat = 1 + endCode x.st * 2 ^ 16 + (x.reason % 2 ^ 8) * 2 ^ 24 + (x.nflt % 2 ^ 8) * 2 ^ 32 +
      x.cause.toNat * 2 ^ 40 + dfld x.lrec 4 2 * 2 ^ 48 + (x.ftask.getD 0xFFFFFFFF % 2 ^ 32) * 2 ^ 64 + min top (2 ^ 32 - 1) * 2 ^ 96 +
      (cycles % 2 ^ 64) * 2 ^ 128 + (passIdOf p x.seq).toNat * 2 ^ 192 := by
    rw [completion, most, BitVec.toNat_ofNat]
    refine Nat.mod_eq_of_lt ?_
    generalize endCode x.st = code at *
    generalize dfld x.lrec 4 2 = tag at *
    generalize min top (2 ^ 32 - 1) = top at *
    omega
  rw [value, leBytes_fields code (Nat.mod_lt _ (by decide)) (Nat.mod_lt _ (by decide)) cause tag (Nat.mod_lt _ (by decide)) small (Nat.mod_lt _ (by decide)),
    leBytes_mod 4, leBytes_mod 8]
  have byte (n : Nat) : BitVec.ofNat 8 (n % 2 ^ 8) = BitVec.ofNat 8 n := BitVec.eq_of_toNat_eq (by simp)
  rw [byte, byte, BitVec.ofNat_toNat, BitVec.setWidth_eq]
  simp only [leBytes_eq, completionBytes]
  cases x.st <;> rfl

end Sys2Proof.Machine
end

section
/-!
PROOFS. COMPLETION_RECORD (R107-R109, R141, R217): the settlement of a pass whose tasks have ended, and the writing of its record.
-/
namespace Sys2Proof.Machine
open Sys2Proof.Claims
set_option Elab.async false

/-! ### The settlement (R141, R217) -/

theorem workDone_iff (s : State) (p : Nat) (x : Pass) : s.workDone p x = true ↔ ¬workLeft s p x := by
  simp only [State.workDone, workLeft, Bool.and_eq_true, Bool.not_eq_true', ← Bool.not_eq_true, List.any_eq_true, List.contains_iff_mem, Bool.or_eq_true,
    beq_iff_eq, List.isEmpty_iff, not_or, and_assoc, or_assoc]

theorem exec_completionRecord_none {s : State} {p q : Nat} {x : Pass} (at' : s.passAt p q = some x) (tasks : ¬tasksOver s p x)
    (due : ¬s.recordReady p x = true) : exec (.completionRecord p q) s = .next s := by
  change execCompletionRecord p q s = _
  unfold execCompletionRecord
  rw [at']
  dsimp only
  rw [if_neg (mt (allTasksEnded_iff s p x).1 tasks), if_neg due]

section
variable {s : State} {p q : Nat} {x : Pass} (at' : s.passAt p q = some x) (tasks : tasksOver s p x)
include at' tasks

theorem exec_completionRecord_waits (left : workLeft s p x) : exec (.completionRecord p q) s = .next s := by
  change execCompletionRecord p q s = _
  unfold execCompletionRecord
  rw [at']
  dsimp only
  rw [if_pos ((allTasksEnded_iff s p x).2 tasks), if_neg fun h => (workDone_iff s p x).1 h left]

theorem exec_completionRecord_finishes (done : ¬workLeft s p x) : exec (.completionRecord p q) s = .next (s.finishPass p x) := by
  change execCompletionRecord p q s = _
  unfold execCompletionRecord
  rw [at']
  dsimp only
  rw [if_pos ((allTasksEnded_iff s p x).2 tasks), if_pos ((workDone_iff s p x).2 done)]

/-- A conflict of the logs ends the pass FAULTED. -/
theorem finishPass_conflict {c : Conflict} (sealed : dfld x.lrec 8 2 % 2 = 1) (conflict : s.sealConflict (s.tasksOf p (passIdOf p q)) = some c) :
    (s.finishPass p x).passAt p q = some { x with st := .faulted, reason := 0, cause := 0x09, ftask := some c.t2.1 } := by
  obtain rfl := seq_of_passAt at'
  obtain ⟨placed, -⟩ := tasks
  have opened : ¬x.st.over = true := by obtain h | h := placed <;> simp [h, PassState.over]
  unfold State.finishPass
  dsimp only
  rw [if_pos ((lrSealed_iff x.lrec).2 sealed), conflict]
  dsimp only
  rw [passAt_endPass, if_pos ⟨rfl, rfl⟩, passAt_modPass, if_pos ⟨rfl, rfl⟩, at', Option.map_some, Option.map_some, Pass.ended, if_neg opened]
  rfl

omit tasks in
/-- Without one the logs merge and the pass is DONE. -/
theorem finishPass_done (free : dfld x.lrec 8 2 % 2 = 0 ∨ s.sealConflict (s.tasksOf p (passIdOf p q)) = none) :
    (s.finishPass p x).passAt p q = some { x with st := .done, snap := [] } ∧
    (s.finishPass p x).units = (s.mergeLogs (s.tasksOf p (passIdOf p q))).units ∧
    (s.finishPass p x).hbm = (s.mergeLogs (s.tasksOf p (passIdOf p q))).hbm := by
  obtain rfl := seq_of_passAt at'
  have none : (if lrSealed x.lrec then s.sealConflict (s.tasksOf p (passIdOf p x.seq)) else none) = none := by
    obtain open' | free := free
    · exact if_neg (by rw [lrSealed_iff]; omega)
    · rw [free, ite_self]
  have merged : (s.mergeLogs (s.tasksOf p (passIdOf p x.seq))).passAt p x.seq = some x := by
    rw [State.passAt, State.partOf, parts_mergeLogs]
    exact at'
  unfold State.finishPass
  dsimp only
  rw [none]
  dsimp only
  rw [freePlans_frame]
  refine ⟨?_, rfl, rfl⟩
  exact (passAt_modPass _ p x.seq (f := fun y => { y with st := .done, snap := [] }) (fun _ => rfl) p x.seq).trans (by rw [if_pos ⟨rfl, rfl⟩, merged]; rfl)
end

/-! ### When the record may be written (R107, R108, R142) -/

theorem recordReady_iff (s : State) (p : Nat) (x : Pass) : s.recordReady p x = true ↔ passOver x ∧ x.recorded = false ∧ recordDue s p x := by
  rw [← over_iff]
  simp only [State.recordReady, recordDue, Bool.and_eq_true, Bool.not_eq_true', ← Bool.not_eq_true, List.any_eq_true, List.all_eq_true,
    List.contains_iff_mem, List.isEmpty_iff, Option.isNone_iff_eq_none, beq_iff_eq]
  constructor
  · rintro ⟨⟨⟨⟨⟨⟨ended, unwritten⟩, sends⟩, stores⟩, shards⟩, faults⟩, work⟩
    exact ⟨ended, unwritten, sends, fun f hf same => faults ⟨f, hf, same⟩, fun uid mine => ⟨stores uid mine,
      fun e he w hw same none => work ⟨e, he, w, hw, same ▸ mine, none⟩,
      fun o ho same write gone none => shards ⟨o, ho, ⟨⟨same ▸ mine, write⟩, gone⟩, none⟩⟩⟩
  · rintro ⟨ended, unwritten, sends, faults, units⟩
    refine ⟨⟨⟨⟨⟨⟨ended, unwritten⟩, sends⟩, fun uid mine => (units uid mine).1⟩, ?_⟩, ?_⟩, ?_⟩
    · rintro ⟨o, ho, ⟨⟨mine, write⟩, gone⟩, none⟩
      obtain ⟨-, -, shards⟩ := units _ mine
      exact shards o ho rfl write gone none
    · rintro ⟨f, hf, same⟩
      exact faults f hf same
    · rintro ⟨e, he, w, hw, mine, none⟩
      obtain ⟨-, work, -⟩ := units _ mine
      exact work e he w hw rfl none

/-! ### Held passes look again (R104) -/

theorem passesEnd_resolvePass (s : State) (p q : Nat) : PassesEnd p s (s.resolvePass p q) := by
  cases at' : s.passAt p q with
  | none =>
    unfold State.resolvePass
    rw [at']
    exact .refl p s
  | some x =>
    cases res : (s.partOf p).resolve x with
    | none =>
      rw [resolvePass_none at' res]
      exact passesEnd_modPass s p q
    | some st =>
      obtain rfl | rfl : st = .ready ∨ st = .cancelled := by
        rw [resolve_eq] at res
        split at res
        · cases res
        · split at res <;> cases res
          · exact .inl rfl
          · exact .inr rfl
      · rw [resolvePass_ready at' res]
        exact passesEnd_modPass s p q
      · rw [resolvePass_cancelled at' res]
        exact passesEnd_endPass s p q .cancelled 2 0

/-- It changes the state of no other pass, and without units neither the units nor memory. -/
theorem passAt_resolvePass_ne (s : State) {p q r : Nat} (ne : r ≠ q) : (s.resolvePass p q).passAt p r = s.passAt p r := by
  unfold State.resolvePass
  split
  · rfl
  · split
    · rw [passAt_modPass, if_neg fun h => ne h.2]
    · rw [passAt_endPass, if_neg fun h => ne h.2]
    · rw [passAt_modPass, if_neg fun h => ne h.2]

theorem resolvePass_bare {s : State} {p q : Nat} (none : s.unitsOf p (passIdOf p q) = []) :
    (s.resolvePass p q).units = s.units ∧ (s.resolvePass p q).hbm = s.hbm := by
  unfold State.resolvePass
  split
  · exact ⟨rfl, rfl⟩
  · split
    · exact ⟨rfl, rfl⟩
    · exact endPass_bare none .cancelled 2 0
    · exact ⟨rfl, rfl⟩

/-- All held passes of a list have looked again. -/
def State.resolveAll (s : State) (p : Nat) (l : List Nat) : State := l.foldl (fun s q => s.resolvePass p q) s

section
variable (s : State) (p : Nat) (l : List Nat)

theorem passesEnd_resolveAll : PassesEnd p s (s.resolveAll p l) := PassesEnd.foldl (fun s q => passesEnd_resolvePass s p q) l s

theorem passAt_resolveAll {q : Nat} (new : q ∉ l) : (s.resolveAll p l).passAt p q = s.passAt p q :=
  List.foldlRecOn (motive := fun t : State => t.passAt p q = s.passAt p q) _ _ rfl fun t before r hr =>
    (passAt_resolvePass_ne t fun same : q = r => new (same ▸ hr)).trans before

theorem resolveAll_bare (none : ∀ q ∈ l, s.unitsOf p (passIdOf p q) = []) : (s.resolveAll p l).units = s.units ∧ (s.resolveAll p l).hbm = s.hbm :=
  List.foldlRecOn (motive := fun t : State => t.units = s.units ∧ t.hbm = s.hbm) _ _ ⟨rfl, rfl⟩ fun t ⟨units, hbm⟩ q hq => by
    obtain ⟨units', hbm'⟩ := resolvePass_bare ((unitsOf_congr units p _).trans (none q hq))
    exact ⟨units'.trans units, hbm'.trans hbm⟩
end

/-! ### The record (R107-R109) -/

/-- A pass whose record is written. -/
def Pass.closed (cycles most : Nat) (x : Pass) : Pass := { x with recorded := true, cycles := cycles, taskMax := most }
/-- The host's signal, where the launch asks for it. -/
def State.signal (s : State) (d : Desc) : State := if (lrFlags d).testBit 1 then s.send (.msix (dfld d 6 2)) else s
/-- The pass leaves its units, its record counts and the host is signalled. -/
def State.closePass (s : State) (p : Nat) (x : Pass) (cycles most : Nat) : State :=
  ((s.dropUnits p (passIdOf p x.seq)).modPass p x.seq (Pass.closed cycles most)).signal x.lrec
/-- The numbers of the held passes. -/
def heldPasses (t : Partition) : List Nat := (t.passes.filter (fun y => y.st == .held)).map (·.seq)
/-- A record was lost (R107). -/
def Partition.loses (t : Partition) : Partition := { t with lostcmp := if t.lostcmp < 65535 then t.lostcmp + 1 else t.lostcmp }
/-- The write of the record's bytes: the two that tell that it stands come last. -/
def State.putRecord (s : State) (p : Nat) (x : Pass) (b : List Byte) : State :=
  match (s.writeVA (launchXC p x) 0 none (lrCmp x.lrec + 2) (b.drop 2)).bind (fun _ s => s.writeVA (launchXC p x) 0 none (lrCmp x.lrec) (b.take 2)) with
  | .ok _ s => s
  | .trap _ s => s.modPart p Partition.loses
  | .wait _ s => s
/-- The state in which the record is written, or lost, and the pass is closed. -/
def State.afterRecord (s v : State) (p : Nat) (x : Pass) : State :=
  let t := v.closePass p x (s.charges p (passIdOf p x.seq)).sum ((s.charges p (passIdOf p x.seq)).foldl max 0)
  (t.resolveAll p (heldPasses (t.partOf p))).modPart p Partition.settled

theorem writeRecord_eq (s : State) (p : Nat) (x : Pass) : s.writeRecord p x = s.afterRecord (s.putRecord p x
    (completionBytes p x (s.charges p (passIdOf p x.seq)).sum ((s.charges p (passIdOf p x.seq)).foldl max 0))) p x := by
  have most : (fun m n : Nat => if m < n then n else m) = max := funext₂ fun m n => by split <;> omega
  unfold State.writeRecord
  dsimp only
  rw [most, leBytes_completion]
  rfl

section
variable {s v : State} {p : Nat} {x : Pass} {b : List Byte}

theorem putRecord_lost {f : TrapInfo} (lost : s.writeVA (launchXC p x) 0 none (lrCmp x.lrec + 2) (b.drop 2) = .trap f v) :
    s.putRecord p x b = v.modPart p Partition.loses := by
  rw [State.putRecord, lost]
  rfl

theorem putRecord_stands {u : State} (body : s.writeVA (launchXC p x) 0 none (lrCmp x.lrec + 2) (b.drop 2) = .ok ⟨⟩ u)
    (head : u.writeVA (launchXC p x) 0 none (lrCmp x.lrec) (b.take 2) = .ok ⟨⟩ v) : s.putRecord p x b = v := by
  rw [State.putRecord, body, Acc.bind, head]
end

end Sys2Proof.Machine
end

section
/-!
PROOFS. What a completion record leaves (R106-R109), and the statement on launches and their records.
-/
namespace Sys2Proof.Machine
open Sys2Proof.Claims
set_option Elab.async false

/-! ### A pass that is closed -/

section
variable (v : State) (p : Nat) (x : Pass) (cycles most : Nat)

theorem signal_frame (d : Desc) : v.signal d = { v with sent := (v.signal d).sent } := by
  unfold State.signal
  split <;> rfl

theorem sent_signal (d : Desc) :
    if dfld d 8 2 / 2 % 2 = 1 then ∃ l, (v.signal d).sent = v.sent ++ .msix (dfld d 6 2) :: l ∧ ∀ m ∈ l, isFlit m = true else (v.signal d).sent = v.sent := by
  unfold State.signal lrFlags
  split
  · next asks => exact ⟨[], by rw [if_pos ((testBit_one_iff _).2 asks)]; rfl, fun _ h => nomatch h⟩
  · next silent => rw [if_neg (mt (testBit_one_iff _).1 silent)]

theorem units_closePass : (v.closePass p x cycles most).units = v.units.filter (fun u => !(v.unitsOf p (passIdOf p x.seq)).contains u.1) := by
  unfold State.closePass
  rw [signal_frame]
  rfl
theorem hbm_closePass : (v.closePass p x cycles most).hbm = v.hbm := by
  unfold State.closePass
  rw [signal_frame]
  rfl
theorem partOf_closePass : (v.closePass p x cycles most).partOf p =
    { v.partOf p with passes := (v.partOf p).passes.map (fun y => if y.seq == x.seq then y.closed cycles most else y) } := by
  unfold State.closePass
  rw [State.partOf, signal_frame _ x.lrec]
  exact State.partOf_modPart_self (v.dropUnits p (passIdOf p x.seq)) p fun t =>
    { t with passes := t.passes.map (fun y => if y.seq == x.seq then y.closed cycles most else y) }
theorem st_closePass : ((v.closePass p x cycles most).partOf p).st = (v.partOf p).st := by rw [partOf_closePass]
theorem lostcmp_closePass : ((v.closePass p x cycles most).partOf p).lostcmp = (v.partOf p).lostcmp := by rw [partOf_closePass]
theorem passAt_closePass : (v.closePass p x cycles most).passAt p x.seq = (v.passAt p x.seq).map (Pass.closed cycles most) := by
  unfold State.closePass
  rw [State.passAt, State.partOf, signal_frame _ x.lrec]
  exact (passAt_modPass (v.dropUnits p (passIdOf p x.seq)) p x.seq (f := Pass.closed cycles most) (fun _ => rfl) p x.seq).trans (if_pos ⟨rfl, rfl⟩)

/-- The units of the pass are gone. -/
theorem live_closePass {uid : Nat} (mine : uid ∈ v.unitsOf p (passIdOf p x.seq)) : ((v.closePass p x cycles most).unitOf uid).live = false := by
  rw [State.unitOf, units_closePass]
  by_contra live
  have there := KMap.mem_of_get_ne (d := Unit.none) (m := v.units.filter (fun u => !(v.unitsOf p (passIdOf p x.seq)).contains u.1)) (k := uid)
    fun off => live (by rw [off]; rfl)
  obtain ⟨-, other⟩ := List.mem_filter.1 there
  simp [mine] at other

/-- No unit comes to another pass. -/
theorem unitsOf_closePass_nil {id : Word} (none : v.unitsOf p id = []) : (v.closePass p x cycles most).unitsOf p id = [] := by
  have listed : (v.closePass p x cycles most).listedUnits p id = [] := by
    rw [State.listedUnits, units_closePass, List.filter_comm]
    exact congrArg (List.filter _) (listedUnits_eq_nil none)
  have same : (v.closePass p x cycles most).unitsOf p id =
    (List.range (((v.closePass p x cycles most).listedUnits p id).foldl (fun m u => if m ≤ u.2.idx then u.2.idx + 1 else m) 0)).filterMap
      (fun i => (((v.closePass p x cycles most).listedUnits p id).find? (fun u => u.2.idx == i)).map (·.1)) := rfl
  rw [same, listed]
  rfl

/-- A pass that is held then was held before. -/
theorem held_closePass {q : Nat} (held : q ∈ heldPasses ((v.closePass p x cycles most).partOf p)) :
    ∃ y ∈ (v.partOf p).passes, y.seq = q ∧ y.st = .held := by
  rw [partOf_closePass] at held
  obtain ⟨z, hz, rfl⟩ := List.mem_map.1 held
  obtain ⟨mem, st⟩ := List.mem_filter.1 hz
  obtain ⟨y, hy, rfl⟩ := List.mem_map.1 mem
  refine ⟨y, hy, ?_⟩
  split at st
  · next h => exact ⟨by rw [if_pos h]; rfl, beq_iff_eq.1 st⟩
  · next h => exact ⟨by rw [if_neg h], beq_iff_eq.1 st⟩

variable {x} in
/-- One pass more has its record. -/
theorem openPasses_closePass (once : ((v.partOf p).passes.map (fun y => y.seq)).Nodup) (mem : x ∈ (v.partOf p).passes) (unwritten : x.recorded = false) :
    ((v.closePass p x cycles most).partOf p).openPasses + 1 = (v.partOf p).openPasses := by
  rw [partOf_closePass]
  unfold Partition.openPasses
  dsimp only
  generalize (v.partOf p).passes = l at once mem
  induction l with
  | nil => cases mem
  | cons y l ih =>
    obtain ⟨new, once'⟩ := List.nodup_cons.1 once
    rw [List.map_cons]
    obtain rfl | later := List.mem_cons.1 mem
    · have rest : l.map (fun y => if y.seq == x.seq then y.closed cycles most else y) = l := by
        refine (List.map_congr_left fun y hy => if_neg fun same => new (show x.seq ∈ _ from ?_)).trans (List.map_id l)
        rw [← beq_iff_eq.1 same]
        exact List.mem_map_of_mem (f := fun y => y.seq) hy
      rw [rest, if_pos (beq_self_eq_true _), List.filter_cons_of_neg (by simp [Pass.closed]), List.filter_cons_of_pos (by simp [unwritten]), List.length_cons]
    · have other : ¬(y.seq == x.seq) = true := fun same => new (show y.seq ∈ _ by
        rw [beq_iff_eq.1 same]
        exact List.mem_map_of_mem (f := fun y => y.seq) later)
      have tail := ih once' later
      rw [if_neg other]
      cases written : y.recorded
      · rw [List.filter_cons_of_pos (by simp [written]), List.filter_cons_of_pos (by simp [written]), List.length_cons, List.length_cons]
        omega
      · rw [List.filter_cons_of_neg (by simp [written]), List.filter_cons_of_neg (by simp [written])]
        exact tail
end

/-! ### After the record -/

/-- The pass is closed, before held passes look again. -/
def State.closed (s v : State) (p : Nat) (x : Pass) : State :=
  v.closePass p x (s.charges p (passIdOf p x.seq)).sum ((s.charges p (passIdOf p x.seq)).foldl max 0)

theorem afterRecord_eq (s v : State) (p : Nat) (x : Pass) :
    s.afterRecord v p x = ((s.closed v p x).resolveAll p (heldPasses ((s.closed v p x).partOf p))).modPart p Partition.settled := rfl

section
variable {s v : State} {p : Nat} {x : Pass} (at' : s.passAt p x.seq = some x) (ended : passOver x) (unwritten : x.recorded = false)
  (once : ((s.partOf p).passes.map (fun y => y.seq)).Nodup)
  (bare : ∀ y ∈ (s.partOf p).passes, y.st = .held → s.unitsOf p (passIdOf p y.seq) = [])
  (passes : (v.partOf p).passes = (s.partOf p).passes) (units : v.units = s.units)

include at' ended once passes in
theorem passAt_afterRecord : (s.afterRecord v p x).passAt p x.seq =
    some { x with recorded := true, cycles := (s.charges p (passIdOf p x.seq)).sum, taskMax := (s.charges p (passIdOf p x.seq)).foldl max 0 } := by
  have free : x.seq ∉ heldPasses ((s.closed v p x).partOf p) := fun held => by
    obtain ⟨y, hy, same, st⟩ := held_closePass _ _ _ _ _ held
    rw [passes] at hy
    rw [List.inj_on_of_nodup_map once hy (List.mem_of_find?_eq_some at') same] at st
    rw [passOver, st] at ended
    simp at ended
  rw [afterRecord_eq, passAt_settle, passAt_resolveAll _ _ _ free, State.closed, passAt_closePass, State.passAt, passes]
  exact congrArg (Option.map _) at'

include bare passes units in
theorem afterRecord_bare : (s.afterRecord v p x).units = (s.closed v p x).units ∧ (s.afterRecord v p x).hbm = v.hbm := by
  obtain ⟨units', hbm⟩ := resolveAll_bare (s.closed v p x) p (heldPasses ((s.closed v p x).partOf p)) fun q held => by
    obtain ⟨y, hy, rfl, st⟩ := held_closePass _ _ _ _ _ held
    rw [passes] at hy
    exact unitsOf_closePass_nil _ _ _ _ _ ((unitsOf_congr units p _).trans (bare y hy st))
  exact ⟨units', hbm.trans (hbm_closePass _ _ _ _ _)⟩

include bare passes units in
theorem live_afterRecord {uid : Nat} (mine : uid ∈ s.unitsOf p (passIdOf p x.seq)) : ((s.afterRecord v p x).unitOf uid).live = false := by
  rw [State.unitOf, (afterRecord_bare bare passes units).1]
  exact live_closePass _ _ _ _ _ (by rwa [unitsOf_congr units])

include at' unwritten once passes in
theorem openPasses_closed : ((s.closed v p x).partOf p).openPasses + 1 = (s.partOf p).openPasses := by
  refine (openPasses_closePass v p _ _ (by rw [passes]; exact once) ?_ unwritten).trans (by rw [Partition.openPasses, passes]; rfl)
  rw [passes]
  exact List.mem_of_find?_eq_some at'

/-- The partition after the record: as it was, but for what its passes and its state show. -/
theorem partOf_afterRecord (s v : State) (p : Nat) (x : Pass) : ∃ t : Partition, (s.afterRecord v p x).partOf p = t.settled ∧
    t.openPasses = ((s.closed v p x).partOf p).openPasses ∧ t.st = (v.partOf p).st ∧ t.lostcmp = (v.partOf p).lostcmp := by
  have ends := passesEnd_resolveAll (s.closed v p x) p (heldPasses ((s.closed v p x).partOf p))
  exact ⟨_, State.partOf_modPart_self _ _ _, ends.openPasses, (congrArg Partition.st ends.own).trans (st_closePass _ _ _ _ _),
    (congrArg Partition.lostcmp ends.own).trans (lostcmp_closePass _ _ _ _ _)⟩

theorem settled_frame (t : Partition) : t.settled = { t with st := t.settled.st } := by
  unfold Partition.settled
  split <;> rfl

theorem sent_afterRecord (s v : State) (p : Nat) (x : Pass) : (s.afterRecord v p x).sent = (s.closed v p x).sent := by
  rw [afterRecord_eq, State.modPart, (passesEnd_resolveAll (s.closed v p x) p (heldPasses ((s.closed v p x).partOf p))).frame]

theorem sent_closed (s v : State) (p : Nat) (x : Pass) :
    if dfld x.lrec 8 2 / 2 % 2 = 1 then ∃ l, (s.closed v p x).sent = v.sent ++ .msix (dfld x.lrec 6 2) :: l ∧ ∀ m ∈ l, isFlit m = true
    else (s.closed v p x).sent = v.sent := sent_signal _ x.lrec

include at' ended unwritten once bare passes units in
/-- R107-R109: what the record of a pass leaves. -/
theorem afterRecord_settles (st : (v.partOf p).st = (s.partOf p).st) :
    (s.afterRecord v p x).passAt p x.seq =
      some { x with recorded := true, cycles := (s.charges p (passIdOf p x.seq)).sum, taskMax := (s.charges p (passIdOf p x.seq)).foldl max 0 } ∧
    (s.afterRecord v p x).hbm = v.hbm ∧ ((s.afterRecord v p x).partOf p).openPasses + 1 = (s.partOf p).openPasses ∧
    ((s.afterRecord v p x).partOf p).lostcmp = (v.partOf p).lostcmp ∧
    ((s.partOf p).st = .quiescing → (s.partOf p).openPasses = 1 → ((s.afterRecord v p x).partOf p).st = .quiesced) ∧
    (∀ uid ∈ s.unitsOf p (passIdOf p x.seq), ((s.afterRecord v p x).unitOf uid).live = false) ∧
    (if dfld x.lrec 8 2 / 2 % 2 = 1 then ∃ l, (s.afterRecord v p x).sent = v.sent ++ .msix (dfld x.lrec 6 2) :: l ∧ ∀ m ∈ l, isFlit m = true
      else (s.afterRecord v p x).sent = v.sent) := by
  obtain ⟨t, part, opened, st', lost⟩ := partOf_afterRecord s v p x
  have count : t.openPasses + 1 = (s.partOf p).openPasses := by rw [opened, openPasses_closed at' unwritten once passes]
  refine ⟨passAt_afterRecord at' ended once passes, (afterRecord_bare bare passes units).2, ?_, ?_, fun quiescing last => ?_,
    fun uid mine => live_afterRecord bare passes units mine, ?_⟩
  · rw [part, settled_frame]
    exact count
  · rw [part, settled_frame]
    exact lost
  · rw [part, settled_st]
    exact if_pos ⟨by rw [st', st, quiescing], by omega⟩
  · rw [sent_afterRecord]
    exact sent_closed s v p x
end

theorem not_tasksOver_of_over (s : State) (p : Nat) {x : Pass} (ended : passOver x) : ¬tasksOver s p x := by
  rintro ⟨placed, -⟩
  rw [passOver] at ended
  obtain h | h := placed <;> simp [h] at ended

theorem exec_completionRecord_writes {s : State} {p q : Nat} {x : Pass} (at' : s.passAt p q = some x) (ended : passOver x) (unwritten : x.recorded = false)
    (due : recordDue s p x) : exec (.completionRecord p q) s = .next (s.writeRecord p x) := by
  change execCompletionRecord p q s = _
  unfold execCompletionRecord
  rw [at']
  dsimp only
  rw [if_neg (mt (allTasksEnded_iff s p x).1 (not_tasksOver_of_over s p ended)), if_pos ((recordReady_iff s p x).2 ⟨ended, unwritten, due⟩)]

/-! ### The statement -/

/-- Settles O51: the launch window by its answers, the check by what it reads and finds, the record by the settlement before it and by what it leaves. -/
theorem launchesAreCheckedAndCompleted : Obligations.LaunchesAreCheckedAndCompleted := by
  intro s p q rec p8
  refine ⟨?_, fun x at' queued => ?_, fun x at' keys => ?_⟩
  · refine ⟨fun safe => ⟨_, exec_launchDmwr_safe rec safe, sends_send _ _⟩, fun awake paused => ?_, fun awake runs closed => ?_, fun awake runs active room => ?_⟩
    · rw [exec_launchDmwr_awake p8 rec awake, if_pos paused]
      rfl
    · refine ⟨_, (exec_launchDmwr_awake p8 rec awake).trans (if_neg (by rw [runs]; exact Bool.false_ne_true)), ?_⟩
      rw [takeLaunch_refused (s := s.touched) rec closed]
      exact sends_send _ _
    · refine ⟨_, Pass.new ((s.partOf p).pcseq + 1) rec,
        (exec_launchDmwr_awake p8 rec awake).trans (if_neg (by rw [runs]; exact Bool.false_ne_true)), ?_⟩
      rw [takeLaunch_taken (s := s.touched) rec active room]
      exact ⟨sends_send _ _, fun k ne => State.partOf_modPart_ne s.touched (Partition.launched rec) ne,
        State.partOf_modPart_self s.touched p (Partition.launched rec), rfl, rfl, rfl, rfl, rfl, rfl, rfl,
        rfl, rfl⟩
  · intro d c
    refine ⟨fun broken => launchCheck_faults at' queued (checkLaunch_broken broken) fun k => ⟨_, rfl⟩, fun f u whole read kept => ?_, fun l u whole read kept => ?_⟩
    · exact launchCheck_faults at' queued (checkLaunch_unread whole read) kept
    · intro h
      refine ⟨fun bad => launchCheck_faults at' queued (checkLaunch_badImage whole read bad) kept, fun st v sx w good streams decls kept' => ?_⟩
      have tables := checkLaunch_tables whole read good streams decls
      refine ⟨fun no => ?_, fun yes => ?_⟩
      · rw [if_neg (mt (tables_fit_iff s p x h st sx).1 no)] at tables
        exact launchCheck_faults at' queued tables kept'
      · rw [if_pos ((tables_fit_iff s p x h st sx).2 yes)] at tables
        obtain ⟨t, y, run, after, ⟨a, n, b, shape⟩, held, ready, cancelled⟩ := launchCheck_places at' queued tables kept'
        refine ⟨t, y, run, after, ?_, ?_, ?_, ?_, ?_, ?_, ?_, ?_, ?_, ?_, held, ready, cancelled⟩
        all_goals rw [shape]
        · rfl
        · rfl
        · rfl
        · exact lrOr_eq d h 15 16
        · exact lrOr_eq d h 14 17
        · exact lrOr_eq d h 13 18
        · exact lrOr_eq d h 12 19
        · exact lrOr_eq d h 11 20
        · exact lrWlog_eq d h
        · exact streamTab_eq st (dfld h 22 1)
  · obtain rfl := seq_of_passAt at'
    refine ⟨exec_completionRecord_waits at', fun tasks done => ?_, fun ended unwritten once due bare => ?_, fun ended no => ?_⟩
    · have run := exec_completionRecord_finishes at' tasks done
      refine ⟨fun open' => ⟨_, run, (finishPass_done at' (.inl open')).1⟩,
        fun c sealed conflict => ⟨_, run, finishPass_conflict at' tasks sealed conflict⟩, fun _ none => ?_⟩
      obtain ⟨after, units, hbm⟩ := finishPass_done at' (.inr none)
      exact ⟨_, run, after, logsMerged_mergeLogs keys none units hbm⟩
    · have run := exec_completionRecord_writes at' ended unwritten due
      rw [writeRecord_eq] at run
      refine ⟨fun f v lost kept units => ?_, fun u v body head kept units => ?_⟩
      · rw [putRecord_lost lost] at run
        obtain ⟨d, same⟩ := kept p
        have part : (v.modPart p Partition.loses).partOf p = (v.partOf p).loses := State.partOf_modPart_self _ _ _
        refine ⟨_, run, ?_⟩
        have settles := afterRecord_settles (v := v.modPart p Partition.loses) at' ended unwritten once bare (by rw [part, same]; rfl) units
          (by rw [part, same]; rfl)
        rw [part, same] at settles
        exact settles
      · rw [putRecord_stands body head] at run
        obtain ⟨d, same⟩ := kept p
        refine ⟨_, run, ?_⟩
        have settles := afterRecord_settles (v := v) at' ended unwritten once bare (by rw [same]) units (by rw [same])
        rw [same] at settles
        exact settles
    · refine exec_completionRecord_none at' (not_tasksOver_of_over s p ended) fun ready => ?_
      obtain ⟨-, unwritten, due⟩ := (recordReady_iff s p x).1 ready
      obtain written | late := no
      · rw [written] at unwritten
        cases unwritten
      · exact late due

end Sys2Proof.Machine
end
